-- ==== Sys2Proof/Word.lean ====
section
/-!
DEFINITION. The words of the Y64: registers are 32 bits wide (R7), memories are addressed by the byte.
-/
namespace Sys2Proof

/-- A register value (R7). -/
abbrev Word := BitVec 32

/-- One byte of a memory. -/
abbrev Byte := BitVec 8

/-- How the input crossing of a sweep falls (R176): active at the start, at a stamp from the start of the sweep, or not
before the end of its quarter. -/
inductive Crossing where
  | early
  | at_ (t : Nat)
  | late
  deriving DecidableEq, Repr

/-- The three crossings of a lane in a window (R166); none for a zero or reference crossing that is missing. -/
structure Lane where
  zero : Option Nat
  input : Crossing
  ref : Option Nat
  deriving DecidableEq, Repr

/-- Through which port an access comes (Table 13.1): boot firmware, MP0, MP1, the service port, the line port, the peer
links. -/
inductive Port where
  | image | mp0 | mp1 | service | line | peer
  deriving DecidableEq, Repr

/-- Who sent a datagram: IPv6 or IPv4, the address, the UDP port (R439). -/
structure Source where
  v6 : Bool
  addr : BitVec 128
  udp : BitVec 16
  deriving DecidableEq, Repr

/-- An HLP request that has passed R437: its `SESS`, `SEQ` and payload. -/
structure HlpMsg where
  sess : BitVec 16
  seq : BitVec 32
  payload : List Byte
  deriving DecidableEq, Repr

/-- What stands at the analog pins of a channel when its loop or its protection acts: VREFP − VREFM in nV; ISP − ISM in nV at
the instant; VSP − VSM in nV there and since the loop was last followed; and the delay from the comparator to the pad in
sub-cycles (Table 3.10). -/
structure Analog where
  vref : Nat
  shunt : Int
  cell : Int
  delay : Nat
  deriving DecidableEq, Repr

/-- Voltages at the analog pins of a channel, in nV: ISP − ISM and VSP − VSM. -/
structure PinVolts where
  shunt : Int
  cell : Int
  deriving DecidableEq, Repr

/-- An excursion that a protection comparator sees: its crossing and how long it lasts, in sub-cycles of the device's own count. -/
structure Overrun where
  at_ : Nat
  lasts : Nat
  deriving DecidableEq, Repr

/-- What else falls in the bank cycle of a write: the other masters (Table 12.2) whose writes to the same word do (R413), and the
bits of the register that the hardware sets (R15). -/
structure SameCycle where
  rivals : List (Fin 8)
  sets : Word
  deriving DecidableEq, Repr

/-- A word written to a profile register, and a raw EXPERT write that reaches the block in the same cycle: its port, address and
word (R44). -/
structure ProfileWord where
  word : Word
  raw : Option (Port × BitVec 40 × Word)
  deriving DecidableEq, Repr

/-- A word written to clear pending bits, and the bits whose sources have an event in the same cycle (R15). -/
structure ClearWord where
  bits : Word
  sets : Word
  deriving DecidableEq, Repr

/-- A message as it arrives on the line port, or on the service UART, before R437 is judged. -/
structure RawMsg where
  svc : Bool
  bytes : List Byte
  deriving DecidableEq, Repr

/-- Bytes written to a memory, and the other masters whose writes to the word of the first byte fall in the same bank cycle
(R413). -/
structure RivalBytes where
  bytes : List Byte
  rivals : List (Fin 8)
  deriving DecidableEq, Repr

/-- A word written through SVCDATA, and the other masters whose writes to that word fall in the same bank cycle (R413). -/
structure RivalWord where
  word : Word
  rivals : List (Fin 8)
  deriving DecidableEq, Repr

/-- What the drive posts a completion for: the I/O command of a tag, or on the admin queue an Asynchronous Event Request that reports a
critical warning of the SMART log (Table 10.9). -/
inductive Posted where
  | io (t : Fin 2048)
  | smart
  deriving DecidableEq, Repr

/-- A ring entry whose upper timer passes, and whether a command of it succeeds in the same cycle (R369). -/
structure TimedEntry where
  idx : BitVec 20
  success : Bool
  deriving DecidableEq, Repr

/-- A block of the volume as the engine has read it: where it lies, and its bytes. -/
structure ReadBlock where
  at_ : Nat
  bytes : List Byte
  deriving DecidableEq, Repr

/-- A profile register: drive, conversion, capture and mask descriptor registers of a core, the loop register of a front
end. -/
inductive Selector where
  | drive (k : Fin 68)
  | loop (n : Fin 64)
  | conv (k : Fin 68)
  | capture (k : Fin 68)
  | mask (k : Fin 68) (i : Fin 4)
  deriving DecidableEq, Repr

/-- A register of a front end that the packet charge is formed from (R188). -/
inductive QpReg where
  | width | vp | shunt
  deriving DecidableEq, Repr

/-- A JTAG instruction that drives the pins from the boundary-scan chain (R462). -/
inductive Boundary where
  | extest | clamp | highz
  deriving DecidableEq, Repr

/-- What wakes the part from HIBERNATE (R501): an edge on EV`i`, the hibernation timer, RESET_N. -/
inductive WakeCause where
  | edge (i : Fin 16)
  | timer
  | resetN
  deriving DecidableEq, Repr

end Sys2Proof
end

