-- ==== Sys2Proof/Syntax.lean ====
section
/-!
DEFINITION. The commands of the block: one constructor per row of the opcode table. A command is a write or a read that a port
makes, or an event: an instant that the spec names, at a pin, a link, the drive or a clock. Its operands are what the event
brings from outside; what the state determines is no operand.
-/
namespace Sys2Proof

/-- The commands. -/
inductive Instr where
  /-- `REGISTER_WRITE` (R564): A write to a register that has no row of its own is applied field by field, with authority, window,
  range and encoding checks. Operands: the port, the address, the word, and what else falls in the same bank cycle:
  rival writes (R413) and bits that the hardware sets (R15), whose events are commands before this one. -/
  | registerWrite (p : Port) (a : BitVec 40) (v : Word) (same : SameCycle)
  /-- `LO_WORD_READ_SHADOW` (R9): A read of a _LO word copies its _HI word into a shadow for the reading master. Operands: the
  port and the address that it reads. -/
  | loWordReadShadow (p : Port) (a : BitVec 40)
  /-- `PROFILE_SELECT` (R43): A BASIC profile selection is validated and loads every EXPERT field the profile covers, or is
  refused as a reserved encoding. Operands: the port, which profile register, and the word, with a raw EXPERT write that
  reaches the block in the same cycle (R44). -/
  | profileSelect (p : Port) (sel : Selector) (w : ProfileWord)
  /-- `COMMIT` (R25): A write of XBAR.COMMIT_HI checks the commit against Line Time, pending state, beat, conflicts and gang
  parking, then accepts or refuses it. -/
  | commit (p : Port) (beat : BitVec 64)
  /-- `COMMIT_TAKES_EFFECT` (R26): At the named beat, every CORE and MODE field takes its pending value in one cycle, with the
  remap state moves and closings of units and captures. -/
  | commitTakesEffect
  /-- `PRESENCE_WINDOW` (R52): At the end of each presence window, the REFIN edge count is judged and REFIN may be declared
  absent, of the wrong rate or present. Operands: the edges counted. -/
  | presenceWindow (edges : Nat)
  /-- `MISSING_EDGE` (R53): No REFIN edge arrives within 1.5 periods of the expected instant, which is a cause of loss of lock. -/
  | missingEdge
  /-- `CAL_DONE` (R54): Coarse calibration of the delay line completes and the lock machine moves from CAL to ACQUIRE. -/
  | calDone
  /-- `LOCK_WINDOW` (R54): At the end of each lock window, d is judged and the lock machine may count toward LOCKED, retry CAL,
  warn or lose lock. Operands: the Fc cycles and the backup cycles counted, and the phase that R57 measures. -/
  | lockWindow (cycles : Nat) (backup : Nat) (phase : BitVec 16)
  /-- `TRACKING_LIMIT` (R56): The total REFIN offset exceeds ±500 ppm while LOCKED, and lock is lost. -/
  | trackingLimit
  /-- `LOST_HOLD_END` (R54): One backup cycle after entry to LOST, the lock machine moves to WAIT_REF. -/
  | lostHoldEnd
  /-- `HOLDOVER_FREEZE` (R75): At t0 plus two backup cycles, LT_CYC and Calm control move to the backup oscillator, sequencers
  freeze and captures close with HOLDOVER. -/
  | holdoverFreeze
  /-- `SYNCIN_BEAT` (R59): SYNCIN is sampled 1 after 0 at a REFIN edge, which loads Line Time when a frame announced it or is
  charged as misplaced while VALID. -/
  | syncinBeat
  /-- `BEAT` (R67): At each expected beat while VALID, the beat number increments and missing beats, number mismatches, SUSPECT,
  MHOLD, skew and automatic resume are handled. Operands: whether a SYNCIN beat falls on its REFIN edge. -/
  | beat (sync : Bool)
  /-- `EPOCHIN_FRAME` (R63): A complete EPOCHIN frame is checked and either accepted as announcing a beat or discarded and
  counted. Operands: whether every transition lay where R63 wants it; the 112 bits of the frame in four runs as they come, bit 0 of
  a run first: the preamble, the start byte and the flags, the beat, the CRC (R61); and the REFIN periods from its last bit
  to the beat it announces. -/
  | epochinFrame (clean : Bool) (pre head : BitVec 16) (beat : BitVec 64) (crc : BitVec 16) (gap : Nat)
  /-- `REALIGN` (R69): A write of LT.CTL.REALIGN sets LT_ST to UNSET and cancels pending commits and clears, or is refused with
  BUSY. -/
  | realign (p : Port)
  /-- `RELOCK` (R79): A write of LT.CTL.RELOCK forces a loss of lock and a new lock, or is refused with BUSY. -/
  | relock (p : Port)
  /-- `SKEW_WRITE` (R70): A write of LT.SKEW is checked and takes effect at the next beat. -/
  | skewWrite (p : Port) (w : Word)
  /-- `XREF_WRITE` (R80): A write of LT.XREF takes effect as a whole only for a valid combination, changing the profile and
  restarting lock. -/
  | xrefWrite (p : Port) (w : Word)
  /-- `CLKPROF_SELECT` (R80): A selection in LT.CLKPROF loads LT.XREF under the same checks and changes the profile in effect. -/
  | clkprofSelect (p : Port) (w : Word)
  /-- `SWITCHING_CYCLE` (R81): A channel reaches grid boundary G_k, where held changes, mode, limits, segment play and Calm
  entries take effect and the cycle's gates are scheduled. Operands: the analog pins of the channel, its comparator input apart. -/
  | switchingCycle (n : Fin 64) (a : Analog)
  /-- `PEAK_COMPARATOR_CROSSING` (R93): The peak comparator crosses after blanking and ends the control switch's pulse, with the
  synchronous switch rising after the dead time. Operands: the instant in sub-cycles of the device's own count, VREFP − VREFM and
  the voltages at the pins there, and the delay from the comparator to the pad. -/
  | peakComparatorCrossing (n : Fin 64) (c : Nat) (vref : Nat) (pins : PinVolts) (delay : Nat)
  /-- `PULSE_TMAX` (R96): A pulse reaches G + TMAX without a comparator crossing, ends and increments DLIM. Operands: VREFP −
  VREFM and the voltages at the pins there. -/
  | pulseTmax (n : Fin 64) (vref : Nat) (pins : PinVolts)
  /-- `OVERCURRENT_TRIP` (R113): The overcurrent comparator crosses past its filter time and ends the control switch's pulse
  through the direct path. Operands: the excursion, VREFP − VREFM and the voltages at the pins there, and the delay from the
  comparator to the pad. -/
  | overcurrentTrip (n : Fin 64) (x : Overrun) (vref : Nat) (pins : PinVolts) (delay : Nat)
  /-- `OVERVOLTAGE_TRIP` (R115): The overvoltage comparator trips, both gates go low at once, the channel enters Calm and an OV
  fail record is written. Operands: the excursion, and the analog pins there. -/
  | overvoltageTrip (n : Fin 64) (x : Overrun) (a : Analog)
  /-- `FMT_MODE_WRITE` (R90): A write of FMT.MODE.MODE requests a mode for the next boundary, or makes a Calm request for code 1.
  -/
  | fmtModeWrite (p : Port) (k : Fin 68) (w : Word)
  /-- `VECTOR_START` (R106): A vector starts at its sequencer-cycle boundary and its drive changes take effect after DRV
  sub-cycles. -/
  | vectorStart (n : Fin 64)
  /-- `VECTOR_STROBE` (R106): At the strobe instant, expect codes are compared with the pads and a failed expect writes a VECTOR
  fail record. Operands: the levels of the pads of lines 3 to 0. -/
  | vectorStrobe (n : Fin 64) (levels : BitVec 4)
  /-- `TRIGGER_PULSE_END` (R259): A segment-start trigger pulse ends TRIGW sequencer cycles after it began. -/
  | triggerPulseEnd (n : Fin 64)
  /-- `SCALE_GAIN_WRITE` (R131): A write of FE[n].SCALE.GAIN takes effect only in Calm or PARK and is otherwise refused with BUSY.
  -/
  | scaleGainWrite (p : Port) (n : Fin 64) (w : Word)
  /-- `VLIMREQ_WRITE` (R148): A write of LOOP.VLIMREQ requests a limit word for the next boundary under the precedence of R149. -/
  | vlimreqWrite (p : Port) (k : Fin 68) (w : Word)
  /-- `TAPERREQ_WRITE` (R148): A write of LOOP.TAPERREQ requests a taper word for the next boundary under the precedence of R149.
  -/
  | taperreqWrite (p : Port) (k : Fin 68) (w : Word)
  /-- `QP_RECOMPUTE` (R188): A write of WIDTH, VP or SHUNT is checked and recomputes QP, which applies from the next window start.
  -/
  | qpRecompute (p : Port) (q : QpReg) (n : Fin 64) (w : Word)
  /-- `CONVERSION_WINDOW_START` (R172): A conversion window starts at a grid instant, applying pending trims, path swaps and QP
  changes. -/
  | conversionWindowStart (n : Fin 64)
  /-- `CONVERSION_WINDOW_END` (R167): A conversion window ends at t4, where grid changes take effect. -/
  | conversionWindowEnd (n : Fin 64)
  /-- `RESULT_DELIVERY` (R177): At t5 the result set is formed and delivered to registers, capture, masks and the result RECORD
  ring. Operands: the crossings of the voltage, current and temperature lanes of the active path, and of the idle path. -/
  | resultDelivery (n : Fin 64) (v : Lane) (i : Lane) (t : Lane) (v2 : Lane) (i2 : Lane) (t2 : Lane)
  /-- `CONV_V_READ` (R180): A read of CONV.V latches the rest of the result set for the reading master. -/
  | convVRead (p : Port) (k : Fin 68)
  /-- `PATH_ACTIVE_WRITE` (R184): A write of FE[n].PATH.CTL.ACTIVE requests a path swap at the next t0 and sets PENDING. -/
  | pathActiveWrite (p : Port) (n : Fin 64) (w : Word)
  /-- `PACKET_CROSSING` (R186): The packet integrator reaches a threshold, the crossing is stamped and the packet is added to the
  accumulator. Operands: the instant in sub-cycles; the negative threshold or the positive one. -/
  | packetCrossing (n : Fin 64) (t : Nat) (neg : Bool)
  /-- `PACKET_END` (R186): A packet ends after WIDTH cycles and a queued crossing begins the next packet. -/
  | packetEnd (n : Fin 64)
  /-- `PACKET_SATURATION` (R187): The integrator saturates beyond four packets of excess, setting SAT and raising the fault
  source. -/
  | packetSaturation (n : Fin 64)
  /-- `CHARGE_CLEAR_REQUEST` (R194): A write of PKT.CLRB_HI requests a charge clear at a named beat or is refused with CLR_PAST.
  -/
  | chargeClearRequest (p : Port) (n : Fin 64) (beat : BitVec 64)
  /-- `CHARGE_CLEAR` (R194): At the named beat, LAST takes the charge and the accumulator restarts at minus the residual. -/
  | chargeClear (n : Fin 64)
  /-- `EV_EDGE` (R201): An edge on an EV input is stamped by each lane that selects it, or lost and counted. Operands: the input,
  its sense, and the raw time of the local count in sub-cycles. -/
  | evEdge (i : Fin 16) (fall : Bool) (raw : Nat)
  /-- `STAMP_ACTION` (R203): A core acts on a due stamp at a sequencer boundary, driving its measurement units through Table 6.2.
  -/
  | stampAction (k : Fin 68)
  /-- `GATE_CHANGE` (R206): A channel's measurement gate changes value after its debounce span. Operands: the boundary, in cycles.
  -/
  | gateChange (k : Fin 68) (t : Nat)
  /-- `EVM_ARM` (R209): A write of EVM.U[u].CTL.ARM arms an IDLE unit at the boundary of arrival. -/
  | evmArm (p : Port) (k : Fin 68) (u : Fin 4)
  /-- `EVM_DISARM` (R210): A write of EVM.U[u].CTL.DISARM returns the unit to IDLE, closing or counting what it held. -/
  | evmDisarm (p : Port) (k : Fin 68) (u : Fin 4)
  /-- `UNIT_TIMEOUT` (R215): A RUNNING unit's deadline passes and a TIMEOUT result is decided. -/
  | unitTimeout (k : Fin 68) (u : Fin 4)
  /-- `UNIT_HOLD_LIMIT` (R212): A HELD unit's hold limit passes and the held stop is counted in NOSTART. -/
  | unitHoldLimit (k : Fin 68) (u : Fin 4)
  /-- `EVM_RESULT_READ` (R216): A read of EVM.R[u].IVL_LO latches the rest of the unit's result. -/
  | evmResultRead (p : Port) (k : Fin 68) (u : Fin 4)
  /-- `EVT_LAST_READ` (R202): A read of EVT.LAST[l].LO latches HI and INFO for the reading master. -/
  | evtLastRead (p : Port) (l : Fin 20)
  /-- `START_CHECK` (R249): At G_0 − 256 cycles the slot state and state-dependent checks decide whether the named segment plays.
  -/
  | startCheck (n : Fin 64)
  /-- `SLOT_TABLE_WRITE` (R227): A write of PLAY.SLOT[s] is accepted only for an EMPTY slot with a fitting, non-overlapping range.
  -/
  | slotTableWrite (p : Port) (k : Fin 68) (i : Fin 32) (w : Word)
  /-- `SEGMENT_MEMORY_WRITE` (R229): A write into slot words is discarded if the slot is active or FILLING, or returns a READY
  slot to EMPTY. Operands: the port, the core, the offset in its segment memory, the bytes with
  the masters whose writes meet the first of them (R413). -/
  | segmentMemoryWrite (p : Port) (k : Fin 68) (o : BitVec 18) (bytes : RivalBytes)
  /-- `SLOT_VALIDATE` (R231): A write of PLAY.VALID requests validation of a slot. -/
  | slotValidate (p : Port) (k : Fin 68) (i : Fin 32)
  /-- `VALIDATION_COMPLETE` (R232): Validation applies the checks of Table 7.4 and the slot becomes READY or EMPTY. -/
  | validationComplete (k : Fin 68)
  /-- `SLOT_INVALIDATE` (R233): A write of PLAY.INVAL returns an inactive READY slot to EMPTY. -/
  | slotInvalidate (p : Port) (k : Fin 68) (i : Fin 32)
  /-- `REFILL_HEAD` (R256): A refill request reaching the head of its ring is judged for REF_SLOT, ZERO and REF_SIZE. -/
  | refillHead (r : Fin 4096)
  /-- `REFILL_TAKE` (R253): A waiting refill is taken once its slot is inactive, NODEV is decided and the slot becomes FILLING. -/
  | refillTake (r : Fin 4096)
  /-- `REFILL_COMPLETE` (R255): A refill completes once with its outcome, validating the slot after its last block is written. -/
  | refillComplete (r : Fin 4096)
  /-- `NOP` (R264): The NOP step does nothing for two sequencer cycles. -/
  | nop (n : Fin 64)
  /-- `HALT` (R280): The HALT step ends the program and sets the sequencer HALTED. -/
  | halt (n : Fin 64)
  /-- `CALM` (R279): The CALM step makes a Calm or squall request and holds the sequencer. -/
  | calm (n : Fin 64)
  /-- `JUMP` (R270): The JUMP step pops LPOP loop entries and continues at TGT. -/
  | jump (n : Fin 64)
  /-- `CALL` (R269): The CALL step pushes a return frame and continues at TGT. -/
  | call (n : Fin 64)
  /-- `RET` (R269): The RET step pops a frame and continues at the return address. -/
  | ret (n : Fin 64)
  /-- `LOOP` (R267): The LOOP step opens a counted loop or skips the body. -/
  | loop (n : Fin 64)
  /-- `ENDL` (R268): The ENDL step decrements the top loop count and repeats or closes the loop. -/
  | endl (n : Fin 64)
  /-- `DISPATCH` (R278): The DISPATCH step forms an index from four selectors and continues at the table entry. -/
  | dispatch (n : Fin 64)
  /-- `PLAY` (R271): The PLAY step names a slot as the successor and stalls. -/
  | play (n : Fin 64)
  /-- `PLAY_END` (R271): A stalled PLAY ends at the first boundary at or after its segment's G_0 and applies deferred actions. -/
  | playEnd (n : Fin 64)
  /-- `WAITLT` (R273): The WAITLT step computes its Line Time target and stalls. -/
  | waitlt (n : Fin 64)
  /-- `WAITLT_END` (R273): A WAITLT ends at its target, updating LASTLT and ANCHOR. -/
  | waitltEnd (n : Fin 64)
  /-- `WAITEV` (R274): The WAITEV step clears pending bits if asked and stalls for its classes or timeout. -/
  | waitev (n : Fin 64)
  /-- `WAITEV_END` (R274): A WAITEV ends on a pending class or its timeout and writes SEQ.WHY. -/
  | waitevEnd (n : Fin 64)
  /-- `SETLIM` (R275): The SETLIM step requests a limit or taper word for the next boundary. -/
  | setlim (n : Fin 64)
  /-- `SETFMT` (R275): The SETFMT step requests a mode, selects a drive profile or loads a burst pattern. -/
  | setfmt (n : Fin 64)
  /-- `MARK` (R276): The MARK step writes a mark record to the step RECORD ring. -/
  | mark (n : Fin 64)
  /-- `ARMCAP` (R277): The ARMCAP step arms or disarms the channel's capture. -/
  | armcap (n : Fin 64)
  /-- `ILLOP` (R264): A step word with an illegal opcode raises the ILLOP fault. -/
  | illop (n : Fin 64)
  /-- `EVENT_OFFER` (R282): An offer of an event class reaches the sequencer and latches a pending bit or makes a Calm or squall
  request. -/
  | eventOffer (n : Fin 64)
  /-- `EVENT_JUMP_ACTION` (R285): A pending JUMP class is taken, clearing both stacks and continuing at its target, or is
  deferred. -/
  | eventJumpAction (n : Fin 64)
  /-- `EVENT_CALL_ACTION` (R285): A pending CALL class is taken, pushing a frame and continuing at its target, or is deferred. -/
  | eventCallAction (n : Fin 64)
  /-- `LT_ALARM` (R284): LT_CYC reaches SEQ.LTALM and class LT is offered. -/
  | ltAlarm (n : Fin 64)
  /-- `START` (R292): The START command clears the sequencer state, sets the PC and lets the channel leave Calm. -/
  | start (p : Port) (n : Fin 64) (arg : BitVec 21)
  /-- `RESUME` (R292): The RESUME command lets a held or frozen channel leave Calm and continue. -/
  | resume (p : Port) (n : Fin 64)
  /-- `STOP` (R292): The STOP command makes a Calm request for the channel. -/
  | stop (p : Port) (n : Fin 64)
  /-- `JUMP_COMMAND` (R292): The JUMP command offers class SUPER with ARG as target. -/
  | jumpCommand (p : Port) (n : Fin 64) (arg : BitVec 21)
  /-- `OFFER` (R292): The OFFER command offers class 12 + ARG. -/
  | offer (p : Port) (n : Fin 64) (arg : BitVec 21)
  /-- `RESERVED_COMMAND` (R292): A reserved command code is refused with RCODE 1. -/
  | reservedCommand (p : Port) (n : Fin 64) (cmd : Fin 16) (arg : BitVec 21)
  /-- `CAP_ARM` (R306): A write of CAP.CTL.ARM checks and arms the capture or refuses it. -/
  | capArm (p : Port) (k : Fin 68)
  /-- `CAP_TRIG` (R308): A write of CAP.CTL.TRIG makes a trigger at the boundary of arrival. -/
  | capTrig (p : Port) (k : Fin 68)
  /-- `CAP_DISARM` (R312): A write of CAP.CTL.DISARM closes the capture with ABORT. -/
  | capDisarm (p : Port) (k : Fin 68)
  /-- `CAPTURE_TRIGGER` (R309): A due trigger is taken in ARMED, forming k_T and φ, or ignored with RETRIG. -/
  | captureTrigger (n : Fin 64)
  /-- `MASK_ENABLE` (R321): Setting MASK.SEL[i].EN starts the mask check. -/
  | maskEnable (p : Port) (k : Fin 68) (i : Fin 4) (idx : Byte)
  /-- `MASK_CHECK_COMPLETE` (R321): The mask check ends and the mask enters WAITORG or ACTIVE, or is disabled with a status bit.
  -/
  | maskCheckComplete (k : Fin 68) (i : Fin 4)
  /-- `MASK_ORIGIN_WRITE` (R323): A write of MASK.ORG[i] under ORG ABS sets a new origin. -/
  | maskOriginWrite (p : Port) (k : Fin 68) (i : Fin 4) (origin : BitVec 64)
  /-- `MASK_EVALUATION` (R324): At t5 + 512 each active mask evaluates the result against its envelope. -/
  | maskEvaluation (n : Fin 64)
  /-- `SQUALL` (R332): Squall requests act at a sequencer boundary, sending every channel to Calm and sending the squall on the
  peer links. -/
  | squall
  /-- `FAIL_CLR` (R339): A write of FAIL.CLR sets the fail count and WPTR to 0. -/
  | failClr (p : Port) (k : Fin 68)
  /-- `RING_ENABLE` (R347): RING.CTL ENABLE reads the descriptor, checks it and enables the ring or reports a code. -/
  | ringEnable (p : Port) (r : Fin 4096)
  /-- `RING_DISABLE` (R351): RING.CTL DISABLE cancels untaken entries and stops the sink. -/
  | ringDisable (p : Port) (r : Fin 4096)
  /-- `RING_DISABLE_DONE` (R351): A disabling ring becomes disabled when nothing is in progress and CRES reports OK. -/
  | ringDisableDone (r : Fin 4096)
  /-- `RING_DB` (R348): A write of RING.DB advances PI of a consumed ring or is ignored with DB_BAD. -/
  | ringDb (p : Port) (r : Fin 4096) (idx : BitVec 20)
  /-- `RING_DBC` (R348): A write of RING.DBC advances CI of a MASTER-sink produced ring or is ignored with DB_BAD. -/
  | ringDbc (p : Port) (r : Fin 4096) (idx : BitVec 20)
  /-- `HOST_ENTRY_TAKE` (R356): The engine takes the head HOST entry and judges it before issuing commands. -/
  | hostEntryTake (r : Fin 4096)
  /-- `TAG_ISSUE` (R363): A waiting command or retry takes a free tag of its queue and is issued. -/
  | tagIssue (t : Fin 2048)
  /-- `NVME_COMPLETION` (R367): The drive posts a command completion, which completes, fails a try or is discarded as late.
  Operands: the tag, or the SMART event of Table 10.9, the status code type and code, and DNR. -/
  | nvmeCompletion (c : Posted) (sct : BitVec 3) (sc : Byte) (dnr : Bool)
  /-- `COMMAND_TIMEOUT` (R367): A try passes CTO without completion, Abort is sent and the tag becomes a zombie. -/
  | commandTimeout (t : Fin 2048)
  /-- `BACKOFF_END` (R367): BACKOFF passes after a failed try and the next try is issued. Operands: the ring, the index of the
  entry or block, and its command. -/
  | backoffEnd (r : Nat) (x : Nat) (c : Nat)
  /-- `ENTRY_TIMEOUT` (R368): An entry's upper timer reaches TMO and the entry completes once with TIMEOUT. Operands: the ring, and
  the index of the entry with whether a command of it succeeds in the same cycle (R369). -/
  | entryTimeout (r : Fin 4096) (x : TimedEntry)
  /-- `ZOMBIE_TIMEOUT` (R365): A zombie tag has been held for 4 × CTO and source 169 is raised. -/
  | zombieTimeout (t : Fin 2048)
  /-- `RECORD_BLOCK_WRITE` (R373): A produced NVME-sink ring's entries are assembled into a block and written. -/
  | recordBlockWrite (r : Fin 4096)
  /-- `PARTIAL_BLOCK_FLUSH` (R373): The oldest entry has waited FLUSH ms and a partial block is written. -/
  | partialBlockFlush (r : Fin 4096)
  /-- `JOURNAL_FLUSH` (R374): FLUSH ms pass since the first journal entry and a journal block is written. -/
  | journalFlush
  /-- `APERTURE_INBOUND` (R358): An inbound PCIe access to a tag window is mapped to its buffer or discarded. Operands: a write or
  a read, the bus address, the length, the bytes written. -/
  | apertureInbound (wr : Bool) (a : BitVec 64) (len : Nat) (bytes : List Byte)
  /-- `STOR_RETRY_WRITE` (R366): A write of STOR.RETRY is checked against the budget of every enabled ring. -/
  | storRetryWrite (p : Port) (w : Word)
  /-- `ATTACH` (R361): STOR.CTL ATTACH raises SSD_PWREN and starts the attach sequence. -/
  | attach (p : Port)
  /-- `DRIVE_PRESENT` (R361): A drive's presence starts the attach sequence. -/
  | drivePresent
  /-- `PERST_RELEASE` (R361): 100 ms after power-up, PCIE_PERST_N goes high and link training starts. -/
  | perstRelease
  /-- `PCIE_LINK_UP` (R361): The link comes up and the controller is enabled, identified and checked. -/
  | pcieLinkUp (width : BitVec 4) (speed : BitVec 4)
  /-- `PCIE_LINK_TIMEOUT` (R361): The link is not up by 1.1 s and the engine enters FAILED. -/
  | pcieLinkTimeout
  /-- `CONTROLLER_INIT_DONE` (R360): Controller init ends, the drive is accepted or FAILED, and the superblock is read. Operands:
  the version times 10, the queue pairs granted, MQES, MDTS in KiB (0 for none), the LBA data and metadata sizes, the LBAs of
  the namespace, and whether the drive has a volatile cache that cannot be disabled. -/
  | controllerInitDone (ver : Nat) (pairs : Nat) (mqes : Nat) (mdts : Nat) (size : Nat) (msize : Nat) (lbas : Nat) (cache : Bool)
  /-- `SUPERBLOCK_READ_DONE` (R370): The superblock copies are judged and the state becomes READY or UNFORMATTED. Operands: the
  two superblock copies, and the blocks of PACKED regions and of the journal that the engine reads in the volume (R374). -/
  | superblockReadDone (a : List Byte) (b : List Byte) (blocks : List ReadBlock) (journal : List ReadBlock)
  /-- `DETACH` (R378): STOR.CTL DETACH stops new storage entries and starts the detach sequence. -/
  | detach (p : Port)
  /-- `DETACH_COMPLETE` (R378): In-progress work ends, the journal and superblocks are written and the controller is shut down. -/
  | detachComplete
  /-- `FORMAT` (R376): STOR.CTL FORMAT writes both superblocks and a journal block, or is refused. -/
  | format (p : Port)
  /-- `FORMAT_COMPLETE` (R376): Format completes, the state becomes READY and source 170 is raised. -/
  | formatComplete
  /-- `CONTROLLER_RESET` (R365): STOR.CTL RESET makes a controller reset that frees zombie tags. -/
  | controllerReset (p : Port)
  /-- `DRIVE_LOST` (R379): A drive is lost by link loss or removal and outstanding entries complete with NODEV. -/
  | driveLost
  /-- `COALESCE_TIMEOUT` (R383): CTIME passes since the batch began and the edge source becomes pending. -/
  | coalesceTimeout (i : Fin 256)
  /-- `IRQ_PRESENT` (R391): A controller cycle makes the highest-ranked eligible source the presented source of a target. -/
  | irqPresent (t : Fin 4)
  /-- `IRQ_CLAIM` (R393): A read of IRQ.T[t].CLAIM claims the presented source with its gust, or returns 0 or 511. -/
  | irqClaim (p : Port) (t : Fin 4)
  /-- `IRQ_COMPLETE` (R396): A write of IRQ.T[t].COMPLETE completes an owned active source or counts an orphan. -/
  | irqComplete (p : Port) (t : Fin 4) (w : Word)
  /-- `IRQ_PEND_SET` (R388): A write through the set alias of IRQ.PEND makes edge sources pending. -/
  | irqPendSet (p : Port) (i : Fin 8) (w : Word)
  /-- `IRQ_PEND_CLEAR` (R388): A write through the clear alias of IRQ.PEND clears pending bits and counters. Operands: the
  port, which word, and the bits written, with those whose sources have an event in the same cycle (R15). -/
  | irqPendClear (p : Port) (i : Fin 8) (w : ClearWord)
  /-- `IRQ_SOURCE_WRITE` (R405): A write of IRQ.SRC[s] or IRQ.COAL[s] applies its settings from the next controller cycle. -/
  | irqSourceWrite (p : Port) (coal : Bool) (i : Fin 256) (w : Word)
  /-- `SW253` (R402): A write of 1 to IRQ.SWI bit 0 gives source 253 one event. -/
  | sw253 (p : Port)
  /-- `SW254` (R402): A write of 1 to IRQ.SWI bit 1 gives source 254 one event. -/
  | sw254 (p : Port)
  /-- `ASYNC_LATCH_DELIVERY` (R401): When the controller clock runs again, each set latch gives its source one event. -/
  | asyncLatchDelivery
  /-- `ECC_WRITEBACK` (R418): A corrected word is written back on the next free bank cycle. -/
  | eccWriteback
  /-- `SCRUB_READ` (R420): The scrubber reads the next ECC word and ends a pass at the last one. Operands: the ECC word, the
  control store copy, which bits of it, data before check bits, have flipped since it was last written or scrubbed, and
  whether it is the last word of the pass. -/
  | scrubRead (a : BitVec 40) (copy : Fin 17) (flips : BitVec 104) (last : Bool)
  /-- `STARVE` (R412): A DMA request has waited 4,096 bank cycles and source 245 is raised. Operands: the master. -/
  | starve (m : Fin 16)
  /-- `FRZREL` (R428): A write of MEM.FRZREL with MAINTENANCE authority releases frozen masters. -/
  | frzrel (p : Port) (m : BitVec 16)
  /-- `LINE_PHY_SEARCH_TIMEOUT` (R435): 500 ms of AUTO search pass without link and the port tries the other mode. -/
  | linePhySearchTimeout
  /-- `LINE_LINK_UP` (R435): The line link comes up and source 193 is raised. -/
  | lineLinkUp
  /-- `LINE_LINK_DOWN` (R435): The line link is lost, the search restarts and source 194 is raised. -/
  | lineLinkDown
  /-- `LINE_FRAME_DROPPED` (R434): A frame, packet or datagram outside the supported subset is dropped. -/
  | lineFrameDropped
  /-- `ARP_REQUEST` (R434): An ARP request is answered. Operands: the sender and the address asked for. -/
  | arpRequest (mac : BitVec 48) (ip : BitVec 32) (target : BitVec 32)
  /-- `ECHO_REQUEST` (R434): An ICMP or ICMPv6 Echo request is answered. -/
  | echoRequest (v6 : Bool) (src : BitVec 128) (body : List Byte)
  /-- `NEIGHBOUR_SOLICITATION` (R434): An IPv6 Neighbour Solicitation is answered. -/
  | neighbourSolicitation (src : BitVec 128) (target : BitVec 128) (mac : Option (BitVec 48))
  /-- `HLP_DROPPED_MESSAGE` (R437): An HLP message with bad magic, version, CRC, device ID, length or reserved bits is silently
  dropped. Operands: the message, with the port it came to. -/
  | hlpDroppedMessage (m : RawMsg)
  /-- `OPEN` (R439): An HLP OPEN request opens a session or is refused. -/
  | hlpOpen (svc : Bool) (src : Source) (m : HlpMsg)
  /-- `CLOSE` (R439): An HLP CLOSE request ends the session. -/
  | hlpClose (svc : Bool) (src : Source) (m : HlpMsg)
  /-- `READ` (R446): An HLP READ request performs a series of 32-bit reads of the LINE master. -/
  | hlpRead (svc : Bool) (src : Source) (m : HlpMsg)
  /-- `WRITE` (R446): An HLP WRITE request performs a series of 32-bit writes of the LINE master. Operands: the port, the sender,
  the message, and a word of the series whose write meets those of other masters (R413), with these masters. -/
  | hlpWrite (svc : Bool) (src : Source) (m : HlpMsg) (clash : Option (Nat × List (Fin 8)))
  /-- `CMD` (R447): An HLP CMD request writes a channel command through CH[n]. -/
  | hlpCmd (svc : Bool) (src : Source) (m : HlpMsg)
  /-- `CLAIM` (R452): An HLP CLAIM request reads IRQ.T[2].CLAIM. -/
  | hlpClaim (svc : Bool) (src : Source) (m : HlpMsg)
  /-- `COMPLETE` (R452): An HLP COMPLETE request writes IRQ.T[2].COMPLETE. -/
  | hlpComplete (svc : Bool) (src : Source) (m : HlpMsg)
  /-- `RESET` (R447): An HLP RESET request is answered and schedules a PORT reset. -/
  | hlpReset (svc : Bool) (src : Source) (m : HlpMsg)
  /-- `HLP_RESERVED_TYPE` (R438): A request of a reserved type receives BADMSG and is not executed. -/
  | hlpReservedType (svc : Bool) (src : Source) (typ : Byte) (m : HlpMsg)
  /-- `HLP_SEQ_EXPIRE` (R444): A missing SEQ held over for CTO_S µs expires and held requests proceed. Operands: the port and the
  session. -/
  | hlpSeqExpire (svc : Bool) (i : Fin 8)
  /-- `NOTICE` (R450): The device sends a NOTICE request to the notice session while the target line is asserted. -/
  | notice (svc : Bool)
  /-- `REC` (R451): The device sends a REC request carrying ring entries to the record session. -/
  | rec_ (r : Fin 4096)
  /-- `DEVICE_REQUEST_ACK` (R448): An acknowledgement of a NOTICE or REC completes it or is discarded as late. -/
  | deviceRequestAck (svc : Bool) (i : Fin 8) (seq : BitVec 32) (status : BitVec 16)
  /-- `DEVICE_REQUEST_RETRANSMIT` (R448): RTO µs pass without an acknowledgement and the request is sent again. -/
  | deviceRequestRetransmit (svc : Bool) (i : Fin 8) (seq : BitVec 32)
  /-- `DEVICE_REQUEST_TIMEOUT` (R448): UTMO µs pass and the device request completes once with TIMEOUT. -/
  | deviceRequestTimeout (svc : Bool) (i : Fin 8) (seq : BitVec 32)
  /-- `PEER_SYNC_CHANGE` (R454): A peer link gains or loses sync and source 203 or 204 is raised. Operands: the link, 0 PEER_E or
  1 PEER_W, and whether it has gained sync. -/
  | peerSyncChange (link : Fin 2) (up : Bool)
  /-- `PEER_FRAME_DISCARD` (R455): A peer frame with a bad CRC, a bad code group or a reserved type is discarded. Operands: the
  link, and whether the frame was good but of a reserved type. -/
  | peerFrameDiscard (link : Fin 2) (reserved : Bool)
  /-- `SQUALL_FRAME` (R335): A received SQUALL frame acts as a squall request, is recorded and forwarded, or is ignored as a
  repeat. -/
  | squallFrame (link : Fin 2) (w : Word)
  /-- `PCMD` (R457): A received PCMD frame writes PEER.PARG and offers class PEER, or is ignored. -/
  | pcmd (link : Fin 2) (n : Fin 64) (arg : Word)
  /-- `HOFF_DATA` (R458): A received HOFF_DATA frame is written into the hand-off area and acknowledged, or refused. -/
  | hoffData (link : Fin 2) (seq : BitVec 16) (ofs : Word) (data : List Byte)
  /-- `HOFF_ACK` (R458): A received HOFF_ACK advances the hand-off transfer or is discarded as late. -/
  | hoffAck (link : Fin 2) (seq : BitVec 16) (code : Byte)
  /-- `HANDOFF_SEND` (R458): A write of PEER.HTX GO starts sending HLEN bytes of retention RAM in frames. -/
  | handoffSend (p : Port) (link : Fin 2) (ofs : BitVec 16)
  /-- `HANDOFF_RETRANSMIT` (R458): 10 µs after the oldest unacknowledged frame, the sender sends them all again. -/
  | handoffRetransmit
  /-- `HANDOFF_TIMEOUT` (R458): PEER.HOFF.TMO passes and the transfer ends with TIMEOUT. -/
  | handoffTimeout
  /-- `JTAG_INSTRUCTION_LOAD` (R460): An instruction is loaded into the TAP instruction register. -/
  | jtagInstructionLoad (code : Byte)
  /-- `JTAG_BOUNDARY_INSTRUCTION` (R462): EXTEST, CLAMP or HIGHZ takes effect only with every channel in Calm or PARK, otherwise
  BYPASS is selected. -/
  | jtagBoundaryInstruction (c : Boundary)
  /-- `SVCADDR` (R461): An Update-DR of SVCADDR loads KIND, INC and ADDR. -/
  | svcaddr (w : BitVec 44)
  /-- `SVCDATA` (R461): An Update-DR of SVCDATA makes one 32-bit access of the SERVICE master. Operands: the word, with the
  masters whose writes meet its own (R413). -/
  | svcdata (w : RivalWord)
  /-- `SVCDATA_CAPTURE` (R461): A Capture-DR of SVCDATA captures the status and data of the last access. -/
  | svcdataCapture
  /-- `SVC_ACCESS_COMPLETE` (R461): A JTAG service access in progress completes. -/
  | svcAccessComplete
  /-- `BOOT` (R480): The boot ROM starts, chooses a slot and checks and applies the image section by section. Operands: what
  discovery finds: the density in bytes and the 4 KiB erase; and bytes that an external programmer has put into the flash
  since the last start, with their offset. -/
  | boot (density : Nat) (erase4k : Bool) (o : Nat) (bytes : List Byte)
  /-- `BOOT_COMPLETE` (R481): A slot passes, boot locks RWL fields and the control store, releases MP1 and sets DONE. -/
  | bootComplete
  /-- `BOOT_OPEN` (R484): BOOT.CMD OPEN names a slot and length and erases the slot, or is refused. -/
  | bootOpen (p : Port) (slot : Word) (len : Word)
  /-- `BOOT_WRITE` (R484): BOOT.CMD WRITE programs up to 1 MiB from the staging buffer, or is refused. -/
  | bootWrite (p : Port) (ofs : Word) (len : Word) (buf : Word)
  /-- `BOOT_CLOSE` (R484): BOOT.CMD CLOSE reads the image back, checks it and writes the state block TRIAL. -/
  | bootClose (p : Port)
  /-- `CONFIRM` (R485): BOOT.CMD CONFIRM writes CONFIRMED to a TRYING booted slot. -/
  | confirm (p : Port)
  /-- `REFRESH` (R486): BOOT.CMD REFRESH rewrites a slot in place, or is refused with ALONE. -/
  | refresh (p : Port) (slot : Word) (buf : Word)
  /-- `RESTART` (R487): BOOT.CMD RESTART makes a PIN reset. -/
  | restart (p : Port)
  /-- `BOOT_FUNCTION_DONE` (R487): An update or refresh function ends once in BOOT.USTAT. Operands: whether an erase or program
  error ended it. -/
  | bootFunctionDone (err : Bool)
  /-- `KEYPROG` (R488): SEC.CTL KEYPROG programs a key slot or is refused. -/
  | keyprog (p : Port) (slot : Fin 4) (ofs : BitVec 24)
  /-- `REVOKE` (R488): SEC.CTL REVOKE revokes a key slot or is refused. -/
  | revoke (p : Port) (slot : Fin 4)
  /-- `SVNADV` (R473): SEC.CTL SVNADV programs security-version fuses up to the running image's SVN. -/
  | svnadv (p : Port)
  /-- `FUSE_OP_DONE` (R488): A fuse operation completes and source 214 is raised. Operands: whether programming failed. -/
  | fuseOpDone (err : Bool)
  /-- `POR` (R491): The last rail reaches its threshold and the power-on reset sequence begins. -/
  | por
  /-- `POR_ALWAYS_ON_RELEASE` (R491): At t1 the always-on domain is released, retention RAM cleared and QP formed. Operands: the
  level of TESTMODE. -/
  | porAlwaysOnRelease (testMode : Bool)
  /-- `POR_MEMORY_CLEAR` (R491): At t2 every memory is cleared and the boot ROM starts. -/
  | porMemoryClear
  /-- `RESET_N_FALL` (R489): RESET_N falls and starts a PIN reset after 200 ns. -/
  | resetNFall
  /-- `RESET_N_RISE` (R492): RESET_N rises, setting t4 of the warm reset. -/
  | resetNRise
  /-- `RAIL_DROP` (R544): A rail stays below its threshold for 1 µs, the pads drive gates low and a PIN reset or POR follows.
  Operands: VAON09, or another monitored rail. -/
  | railDrop (vaon : Bool)
  /-- `PIN` (R492): A PIN reset is taken, sending every channel to Calm and stopping masters. -/
  | pin
  /-- `WDOG` (R496): The watchdog count reaches 0 and a WDOG reset is taken. -/
  | wdog
  /-- `PORT` (R493): A PORT reset is taken 10 µs after the HLP RESET response. -/
  | port
  /-- `WARM_RESET_APPLY` (R492): At t1 + 11 µs every field takes its Warm value. -/
  | warmResetApply
  /-- `WARM_RESET_RELEASE` (R492): At t5 the boot ROM or the management firmware restarts. -/
  | warmResetRelease
  /-- `CORE` (R494): A write of PWR.CORERST GO resets one slice core or is refused. -/
  | core (p : Port) (k : Fin 128)
  /-- `WDKICK` (R496): A write of PWR.WDKICK reloads the watchdog or sets WDBAD. -/
  | wdkick (p : Port) (key : Byte)
  /-- `WDWARN` (R496): The watchdog passes half its time and source 255 is raised. -/
  | wdwarn
  /-- `PARK_SET` (R497): Setting a PWR.PARK bit makes a Calm request and powers down the channel at the boundary. -/
  | parkSet (p : Port) (i : Fin 2) (w : Word)
  /-- `PARK_CLEAR` (R497): Clearing a PWR.PARK bit powers the channel up again. -/
  | parkClear (p : Port) (i : Fin 2) (w : Word)
  /-- `UNPARK_SETTLED` (R497): 60,000 cycles after unparking, PARKED clears at a boundary. -/
  | unparkSettled (n : Fin 64)
  /-- `RUN` (R498): A request of RUN ends STANDBY and frozen channels resume under LT.CTL.RESUME. -/
  | run (p : Port)
  /-- `STANDBY` (R498): A request of STANDBY sends channels to Calm and freezes sequencers. -/
  | standby (p : Port)
  /-- `STANDBY_ENTERED` (R498): 30,072 cycles after the request every gate is low and the state reads STANDBY. -/
  | standbyEntered
  /-- `HIBERNATE` (R499): A request of HIBERNATE is checked and starts the entry sequence, or is refused. -/
  | hibernate (p : Port)
  /-- `HIBERNATE_PACKET_STOP` (R500): At t1, HLT is written and the packet integrators stop. -/
  | hibernatePacketStop
  /-- `HIBERNATE_ENTERED` (R500): At t2, LOST flags are set, clocks stop, HIBOUT_N goes low and the timer starts. -/
  | hibernateEntered
  /-- `HIBERNATE_WAKE` (R501): A latched EV edge or the hibernation timer wakes the device and HIBDUR is written. Operands: the
  cause, and the time since t2 in ms. -/
  | hibernateWake (c : WakeCause) (ms : Nat)
  /-- `WAKE_RAILS_READY` (R501): Every rail is above its threshold after a wake. -/
  | wakeRailsReady
  /-- `HIBWAKE` (R501): 2 ms after the rails are ready, a PIN reset with cause HIBWAKE is made. -/
  | hibwake
  /-- `MONITOR_SAMPLE` (R520): Every 1 ms temperature and rail monitors are sampled, limits judged and calibration recomputed.
  Operands: the readings of the temperature sensors (none where one fails to convert), and of rails 0 to 6 and the four reference pairs of rail 7. -/
  | monitorSample (temps : List (Option (BitVec 16))) (rails : List (BitVec 16))
  /-- `AGING_MEASUREMENT` (R522): Every 60 s ring oscillators are counted, AGE formed and MON.LIFE advanced. Operands: the counts
  of the ring oscillators. -/
  | agingMeasurement (counts : List (BitVec 24))
  /-- `FORCE` (R513): A write of CAL.CTL.FORCE recomputes every channel's calibration. -/
  | force (p : Port)
  /-- `APPLY` (R514): A write of CAL.CH[n].TST.APPLY holds the channel's trims pending for their application points. -/
  | apply (p : Port) (n : Fin 64)
  /-- `REMAP_REQUEST` (R527): A write of CAL.RMAP GO requests a remap onto a spare core or is refused. -/
  | remapRequest (p : Port) (n : Fin 64) (k : Fin 128) (beat : BitVec 64)
  /-- `REMAP_COPY_DONE` (R527): MP1 finishes copying the core configuration and commits the map. -/
  | remapCopyDone
  /-- `REMAP_LATE` (R527): The copy is not complete by B − 4 beats and the remap ends with LATE. -/
  | remapLate
  /-- `REMAP_STOP` (R527): At B − 300,000 cycles MP1 writes STOP to a channel outside Calm and PARK. -/
  | remapStop
  /-- `REMAP_CONTEXT_COPY` (R527): When the sequencer is HELD, MP1 copies SEQ.CTX and late slots and fail records. -/
  | remapContextCopy
  /-- `REMAP_RESUME` (R527): After DONE, MP1 resumes the channel, resets the old core and marks it suspect. -/
  | remapResume
  /-- `CUT` (R530): CAL.HCTL CUT requests clears at Bc for every channel, or is refused. -/
  | cut (p : Port) (beat : BitVec 64)
  /-- `HANDOFF_PACKAGE_BUILD` (R530): At Bc + 1, MP1 builds the hand-off package and HSTAT reads READY. -/
  | handoffPackageBuild
  /-- `RXOPEN` (R531): CAL.HCTL RXOPEN sets HOFF_RX and clears the hand-off area. -/
  | rxopen (p : Port)
  /-- `IMPORT` (R531): CAL.HCTL IMPORT checks the package and schedules the import at Bi, or is refused. -/
  | import_ (p : Port) (beat : BitVec 64)
  /-- `HANDOFF_IMPORT_APPLY` (R531): At Bi, each valid channel's accumulator starts at QCUT and its fail state is set from the
  package. -/
  | handoffImportApply
  /-- `ABORT` (R531): CAL.HCTL ABORT ends CUT or IMPORT before its beat with CANCELLED. -/
  | abort (p : Port)
  /-- `PCIE_ERROR` (R367): A transfer of an outstanding command meets a PCIe error, reported through AER, which fails the try and
  raises source 175. -/
  | pcieError (t : Fin 2048)
  /-- `CONTROLLER_FATAL_STATUS` (R360): The drive sets its controller fatal status while attached, and the engine enters FAILED
  with WHY FATAL and source 164 asserted. -/
  | controllerFatalStatus
  /-- `SLIP_FRAME_DROPPED` (R459): A SLIP frame on the service UART that breaks HLP framing is dropped and sets SVC.STAT.SLIPERR.
  -/
  | slipFrameDropped
  /-- `TAP_RESET` (R460): The JTAG TAP is reset by TRST_N or by TMS, and IDCODE is selected in place of the instruction in effect.
  -/
  | tapReset
  /-- `ARP_REPLY` (R434): A received ARP reply resolves the address of a destination or gateway that the line port uses. -/
  | arpReply (mac : BitVec 48) (ip : BitVec 32)
  /-- `NEIGHBOUR_ADVERTISEMENT` (R434): A received IPv6 Neighbour Advertisement resolves the link address of a destination or
  gateway. -/
  | neighbourAdvertisement (addr : BitVec 128) (mac : BitVec 48)
  deriving DecidableEq, Repr

end Sys2Proof
end

