-- ==== Sys2Proof/Decode.lean ====
section
/-!
DEFINITION. The decoder over the rows of the opcode table that give bits. No row does: every row's list of fields is empty, and
a command comes to the block as an event or an access, not as a word.
-/
namespace Sys2Proof

/-- The command that `nbits` bits with the value `w` spell: none. -/
def decodeTableWord (_nbits _w : Nat) : Option Instr := none

end Sys2Proof
end

