-- ==== Sys2Proof/Machine/Bits.lean ====
section
/-!
DEFINITION. Bit fields, two's complement, little-endian byte strings, and tables: the plain operations over data that the
rest of the model is written with (R6, R7, R8).
-/
namespace Sys2Proof.Machine

/-! ## Fields of a word (R6) -/

/-- The value of bits `lo + w - 1` down to `lo` of a word. -/
def fieldGet (x : Word) (lo w : Nat) : Nat := (x.toNat >>> lo) % 2 ^ w

/-- The word that has ones exactly in bits `lo + w - 1` down to `lo`. -/
def fieldMask (lo w : Nat) : Word := BitVec.ofNat 32 ((2 ^ w - 1) <<< lo)

/-- `x` with bits `lo + w - 1` down to `lo` set to `n` (its low `w` bits). -/
def fieldPut (x : Word) (lo w n : Nat) : Word :=
  (x &&& ~~~(fieldMask lo w)) ||| BitVec.ofNat 32 ((n % 2 ^ w) <<< lo)

/-- Bit `i` of a word. -/
def bit (x : Word) (i : Nat) : Bool := x.toNat.testBit i

/-- The low `w` bits of `n` read as two's complement (R8). -/
def signed (w n : Nat) : Int :=
  if n % 2 ^ w < 2 ^ (w - 1) then (n % 2 ^ w : Nat) else (n % 2 ^ w : Nat) - (2 ^ w : Nat)

/-- The two's complement code of `z` in `w` bits (R8). -/
def unsigned (w : Nat) (z : Int) : Nat := (z % (2 ^ w : Nat)).toNat

/-- `z` limited to `lo` to `hi`. -/
def clampInt (lo hi z : Int) : Int := if z < lo then lo else if hi < z then hi else z

/-- The counter of `w` bits after one more event, staying at its largest value. -/
def satInc (w n : Nat) : Nat := if n + 1 < 2 ^ w then n + 1 else 2 ^ w - 1

/-- `a / b` rounded to the nearest integer, a half away from zero, for `b > 0`. -/
def divNear (a : Int) (b : Nat) : Int :=
  if a < 0 then -((((-a).toNat * 2 + b) / (2 * b) : Nat) : Int) else (((a.toNat * 2 + b) / (2 * b) : Nat) : Int)

/-- `a / b` rounded up. -/
def divUp (a b : Nat) : Nat := (a + b - 1) / b

/-! ## Little-endian byte strings (R7) -/

/-- The value of a byte string, its first byte the least significant. -/
def leNat : List Byte → Nat
  | [] => 0
  | b :: bs => b.toNat + 256 * leNat bs

/-- The `k` low bytes of `n`, the least significant first. -/
def natLE : Nat → Nat → List Byte
  | 0, _ => []
  | k + 1, n => BitVec.ofNat 8 n :: natLE k (n / 256)

/-! ## Tables -/

/-- A sparse table by number. -/
abbrev Table (α : Type) := List (Nat × α)

/-- The entry of `k`, or `d` where the table lists none. -/
def Table.get {α : Type} (t : Table α) (d : α) (k : Nat) : α :=
  match t with
  | [] => d
  | (k', v) :: r => if k = k' then v else Table.get r d k

/-- The table with the entry of `k` set to `v`; the order of the other entries stays. -/
def Table.put {α : Type} (t : Table α) (k : Nat) (v : α) : Table α :=
  match t with
  | [] => [(k, v)]
  | (k', v') :: r => if k = k' then (k, v) :: r else (k', v') :: Table.put r k v

/-- The table with entry `k` changed by `f`. -/
def Table.mod {α : Type} (t : Table α) (d : α) (k : Nat) (f : α → α) : Table α := Table.put t k (f (Table.get t d k))

/-- The table without an entry of `k`. -/
def Table.del {α : Type} (t : Table α) (k : Nat) : Table α := t.filter fun e => e.1 != k

/-- The keys a table lists. -/
def Table.keys {α : Type} (t : Table α) : List Nat := t.map (·.1)

end Sys2Proof.Machine
end

