-- ==== Sys2Proof/Machine/Crypto.lean ====
section
/-!
DEFINITION. The published algorithms that the boot ROM uses: SHA-512, RSASSA-PSS with SHA-512 and MGF1 (R472), AES-256-GCM
(R476). The spec names the standards (RFC 8017, NIST SP 800-38D) and does not restate them.
PRESUMED (see notes/assumptions/56.md): the algorithms are taken from those standards and from FIPS 180-4 and FIPS 197.
-/
namespace Sys2Proof.Machine

/-! ## Big-endian byte strings -/

/-- The value of a byte string, its first byte the most significant. -/
def beNat (bs : List Byte) : Nat := leNat bs.reverse

/-- The `k` low bytes of `n`, the most significant first. -/
def natBE (k n : Nat) : List Byte := (natLE k n).reverse

/-- The groups of `k` bytes of a list, at most `n` of them. -/
def groups (k : Nat) (bs : List Byte) : Nat → List (List Byte)
  | 0 => []
  | n + 1 => if bs.isEmpty then [] else bs.take k :: groups k (bs.drop k) n

/-! ## SHA-512 -/

/-- The round constants of SHA-512. -/
def shaK0 : List Nat := [
  0x428A2F98D728AE22, 0x7137449123EF65CD, 0xB5C0FBCFEC4D3B2F, 0xE9B5DBA58189DBBC,
  0x3956C25BF348B538, 0x59F111F1B605D019, 0x923F82A4AF194F9B, 0xAB1C5ED5DA6D8118,
  0xD807AA98A3030242, 0x12835B0145706FBE, 0x243185BE4EE4B28C, 0x550C7DC3D5FFB4E2,
  0x72BE5D74F27B896F, 0x80DEB1FE3B1696B1, 0x9BDC06A725C71235, 0xC19BF174CF692694,
  0xE49B69C19EF14AD2, 0xEFBE4786384F25E3, 0x0FC19DC68B8CD5B5, 0x240CA1CC77AC9C65,
  0x2DE92C6F592B0275, 0x4A7484AA6EA6E483, 0x5CB0A9DCBD41FBD4, 0x76F988DA831153B5,
  0x983E5152EE66DFAB, 0xA831C66D2DB43210, 0xB00327C898FB213F, 0xBF597FC7BEEF0EE4,
  0xC6E00BF33DA88FC2, 0xD5A79147930AA725, 0x06CA6351E003826F, 0x142929670A0E6E70,
  0x27B70A8546D22FFC, 0x2E1B21385C26C926, 0x4D2C6DFC5AC42AED, 0x53380D139D95B3DF,
  0x650A73548BAF63DE, 0x766A0ABB3C77B2A8, 0x81C2C92E47EDAEE6, 0x92722C851482353B]
/-- The rest of them. -/
def shaK1 : List Nat := [
  0xA2BFE8A14CF10364, 0xA81A664BBC423001, 0xC24B8B70D0F89791, 0xC76C51A30654BE30,
  0xD192E819D6EF5218, 0xD69906245565A910, 0xF40E35855771202A, 0x106AA07032BBD1B8,
  0x19A4C116B8D2D0C8, 0x1E376C085141AB53, 0x2748774CDF8EEB99, 0x34B0BCB5E19B48A8,
  0x391C0CB3C5C95A63, 0x4ED8AA4AE3418ACB, 0x5B9CCA4F7763E373, 0x682E6FF3D6B2B8A3,
  0x748F82EE5DEFB2FC, 0x78A5636F43172F60, 0x84C87814A1F0AB72, 0x8CC702081A6439EC,
  0x90BEFFFA23631E28, 0xA4506CEBDE82BDE9, 0xBEF9A3F7B2C67915, 0xC67178F2E372532B,
  0xCA273ECEEA26619C, 0xD186B8C721C0C207, 0xEADA7DD6CDE0EB1E, 0xF57D4F7FEE6ED178,
  0x06F067AA72176FBA, 0x0A637DC5A2C898A6, 0x113F9804BEF90DAE, 0x1B710B35131C471B,
  0x28DB77F523047D84, 0x32CAAB7B40C72493, 0x3C9EBE0A15C9BEBC, 0x431D67C49C100D4C,
  0x4CC5D4BECB3E42B6, 0x597F299CFC657E2A, 0x5FCB6FAB3AD6FAEC, 0x6C44198C4A475817]

/-- The initial hash value of SHA-512. -/
def shaH : List (BitVec 64) := [
  0x6A09E667F3BCC908, 0xBB67AE8584CAA73B, 0x3C6EF372FE94F82B, 0xA54FF53A5F1D36F1,
  0x510E527FADE682D1, 0x9B05688C2B3E6C1F, 0x1F83D9ABFB41BD6B, 0x5BE0CD19137E2179]

/-- The message schedule, the latest word first: `n` further words. -/
def shaExpand (w : List (BitVec 64)) : Nat → List (BitVec 64)
  | 0 => w
  | n + 1 =>
    let a := w.getD 1 0
    let b := w.getD 14 0
    let s1 := a.rotateRight 19 ^^^ a.rotateRight 61 ^^^ (a >>> 6)
    let s0 := b.rotateRight 1 ^^^ b.rotateRight 8 ^^^ (b >>> 7)
    shaExpand ((s1 + w.getD 6 0 + s0 + w.getD 15 0) :: w) n

/-- One round on the working variables a to h, with a schedule word and a constant. -/
def shaRound (v : List (BitVec 64)) (kw : BitVec 64) : List (BitVec 64) :=
  match v with
  | [a, b, c, d, e, f, g, h] =>
    let t1 := h + (e.rotateRight 14 ^^^ e.rotateRight 18 ^^^ e.rotateRight 41) + ((e &&& f) ^^^ (~~~e &&& g)) + kw
    let t2 := (a.rotateRight 28 ^^^ a.rotateRight 34 ^^^ a.rotateRight 39) + ((a &&& b) ^^^ (a &&& c) ^^^ (b &&& c))
    [t1 + t2, a, b, c, d + t1, e, f, g]
  | _ => v

/-- The hash value after one block of 128 bytes. -/
def shaBlock (h : List (BitVec 64)) (block : List Byte) : List (BitVec 64) :=
  let w := ((groups 8 block 16).map fun g => BitVec.ofNat 64 (beNat g)).reverse
  let ws := (shaExpand w 64).reverse
  let v := (List.zip ws (shaK0 ++ shaK1)).foldl (fun v e => shaRound v (e.1 + BitVec.ofNat 64 e.2)) h
  List.zipWith (· + ·) h v

/-- The message padded to blocks of 128 bytes. -/
def shaPad (bs : List Byte) : List Byte :=
  bs ++ [0x80] ++ List.replicate ((239 - bs.length % 128) % 128) 0 ++ natBE 16 (8 * bs.length)

/-- SHA-512 of a byte string. -/
def sha512 (bs : List Byte) : List Byte :=
  ((groups 128 (shaPad bs) (bs.length / 128 + 2)).foldl shaBlock shaH).flatMap fun w => natBE 8 w.toNat

/-! ## RSASSA-PSS (RFC 8017) -/

/-- `x ^ 65,537` modulo `n`. -/
def rsaPower (n x : Nat) : Nat := ((List.range 16).foldl (fun y _ => y * y % n) (x % n)) * x % n

/-- MGF1 with SHA-512: `len` bytes. -/
def mgf1 (seed : List Byte) (len : Nat) : List Byte :=
  ((List.range (divUp len 64)).flatMap fun i => sha512 (seed ++ natBE 4 i)).take len

/-- The signature `sig` of a message verifies under a modulus of 4,096 bits and exponent 65,537, with a salt of 64 bytes. -/
def pssVerify (modulus sig message : List Byte) : Bool :=
  let n := beNat modulus
  let s := beNat sig
  let em := natBE 512 (rsaPower n s)
  let h := (em.drop 447).take 64
  let db := List.zipWith (· ^^^ ·) (em.take 447) (mgf1 h 447)
  let db := (db.headD 0 &&& 0x7F) :: db.drop 1
  decide (2 ^ 4095 ≤ n) && decide (n < 2 ^ 4096) && decide (s < n)
    && (em.headD 0xFF).toNat < 128 && em.getLast? = some 0xBC
    && (db.take 382).all (· = 0) && db.getD 382 0 = 1
    && decide (h = sha512 (List.replicate 8 0 ++ sha512 message ++ db.drop 383))

/-! ## AES-256-GCM (FIPS 197, SP 800-38D) -/

/-- A byte times x in the field of AES. -/
def aesX (b : Byte) : Byte := if b.msb then (b <<< 1) ^^^ 0x1B else b <<< 1

/-- The product of two bytes in the field of AES. -/
def aesMul (a b : Byte) : Byte :=
  ((List.range 8).foldl (fun (p : Byte × Byte) i => (if b.getLsbD i then p.1 ^^^ p.2 else p.1, aesX p.2)) (0, a)).1

/-- The inverse of a byte, 0 for 0: its power 254. -/
def aesInv (b : Byte) : Byte :=
  let square (x : Byte) := aesMul x x
  let rec go : Nat → Byte → Byte → Byte
    | 0, _, r => r
    | n + 1, x, r => go n (square x) (aesMul r (square x))
  go 7 b 1

/-- The substitution of a byte. -/
def aesSub (b : Byte) : Byte :=
  let x := aesInv b
  x ^^^ x.rotateLeft 1 ^^^ x.rotateLeft 2 ^^^ x.rotateLeft 3 ^^^ x.rotateLeft 4 ^^^ 0x63

/-- The bytes of two words combined. -/
def xorBytes (a b : List Byte) : List Byte := List.zipWith (· ^^^ ·) a b

/-- The next words of the key schedule, the latest first, `n` of them from word `i` on; `rcon` is the round constant. -/
def aesKeys (w : List (List Byte)) (i : Nat) (rcon : Byte) : Nat → List (List Byte)
  | 0 => w
  | n + 1 =>
    let t := w.getD 0 []
    let back := w.getD 7 []
    if i % 8 = 0 then
      aesKeys (xorBytes back (xorBytes ((t.drop 1 ++ t.take 1).map aesSub) [rcon, 0, 0, 0]) :: w) (i + 1) (aesX rcon) n
    else if i % 8 = 4 then aesKeys (xorBytes back (t.map aesSub) :: w) (i + 1) rcon n
    else aesKeys (xorBytes back t :: w) (i + 1) rcon n

/-- The 15 round keys of a key of 32 bytes. -/
def aesRoundKeys (key : List Byte) : List (List Byte) :=
  groups 16 ((aesKeys (groups 4 key 8).reverse 8 1 52).reverse.flatten) 15

/-- The rows of the state shifted; its bytes are in column order. -/
def aesShift (s : List Byte) : List Byte := (List.range 16).map fun i => s.getD ((i + 4 * (i % 4)) % 16) 0

/-- One column mixed. -/
def aesMixColumn (c : List Byte) : List Byte :=
  (List.range 4).map fun i =>
    let b (j : Nat) := c.getD ((i + j) % 4) 0
    aesX (b 0) ^^^ (aesX (b 1) ^^^ b 1) ^^^ b 2 ^^^ b 3

/-- AES-256 of a block of 16 bytes under round keys. -/
def aesBlock (keys : List (List Byte)) (block : List Byte) : List Byte :=
  let start := xorBytes block (keys.getD 0 [])
  let middle := ((keys.drop 1).take 13).foldl
    (fun s k => xorBytes ((groups 4 (aesShift (s.map aesSub)) 4).flatMap aesMixColumn) k) start
  xorBytes (aesShift (middle.map aesSub)) (keys.getD 14 [])

/-- The product in the field of GCM, bit 0 of a block being its most significant bit. -/
def gcmMul (x y : BitVec 128) : BitVec 128 :=
  ((List.range 128).foldl (fun (p : BitVec 128 × BitVec 128) i =>
    (if x.getMsbD i then p.1 ^^^ p.2 else p.1,
      if p.2.getLsbD 0 then (p.2 >>> 1) ^^^ (0xE1#128 <<< 120) else p.2 >>> 1)) (0, y)).1

/-- A string padded with zeros to blocks of 16 bytes. -/
def gcmPad (bs : List Byte) : List Byte := bs ++ List.replicate ((16 - bs.length % 16) % 16) 0

/-- The hash of GCM over a string of whole blocks. -/
def ghash (h : BitVec 128) (bs : List Byte) : BitVec 128 :=
  (groups 16 bs (bs.length / 16 + 1)).foldl (fun y b => gcmMul (y ^^^ BitVec.ofNat 128 (beNat b)) h) 0

/-- AES-256-GCM: the plaintext of a ciphertext, where the tag passes. -/
def gcmOpen (key iv aad cipher tag : List Byte) : Option (List Byte) :=
  let keys := aesRoundKeys key
  let h := BitVec.ofNat 128 (beNat (aesBlock keys (List.replicate 16 0)))
  let stream (i : Nat) := aesBlock keys (iv ++ natBE 4 i)
  let sum := ghash h (gcmPad aad ++ gcmPad cipher ++ natBE 8 (8 * aad.length) ++ natBE 8 (8 * cipher.length))
  let n := divUp cipher.length 16
  if xorBytes (natBE 16 sum.toNat) (stream 1) = tag then
    some (xorBytes cipher ((List.range n).flatMap fun i => stream (i + 2)))
  else none

end Sys2Proof.Machine
end

