-- ==== Sys2Proof/Config.lean ====
section
/-!
DEFINITION. What one part fixes and the spec leaves open, as constants without a body: nothing in Lean can evaluate one or
prove a value of one, so a statement about them holds for every value.
-/
namespace Sys2Proof

/-- `SYS.ID.GRADE` of the part: false for PWY64-A, true for PWY64-X (R1, R2). -/
opaque Config.gradeX : Bool

/-- `SEC.ID.ROMID`, the version of the control store ROM, which is vendor content (Table 14.15). -/
opaque Config.romId : Nat

/-- The syndrome that the code forms for a pattern of flipped bits in an ECC word, by the word's address and copy (R417). -/
opaque Config.syndrome : Nat → Nat → Nat

/-- A value that the spec leaves open where the machine goes on: the n-th such value. Machine/Ops.lean draws them in
order with a counter of State. -/
opaque Config.freeValue : Nat → Nat

/-- A byte of a memory of the core domain that has lost its contents for the n-th time since the last POR, by its address
(R502). -/
opaque Config.lostByte : Nat → Nat → Byte

/-- A byte of the control store ROM, which is vendor content (R296). -/
opaque Config.romByte : Nat → Byte

/-- A byte of the ROM's default dispatch table, which is vendor content (R477). -/
opaque Config.dispatchByte : Nat → Byte

/-- The routine of the ROM that its default dispatch entry of this number starts may fetch the word at this ROM address: vendor content
(R296, R301). -/
opaque Config.romFetches : Nat → Nat → Bool

/-- Whether a network address lies on the link of the device's own address, the first given, IPv6 or not: the spec gives no prefix (Table
13.3). -/
opaque Config.onLink : Bool → Nat → Nat → Bool

/-- A byte of key hash 0, which is programmed at manufacture (R472). -/
opaque Config.keyHash0 : Nat → Byte

/-- A byte of the patch key, an AES-256 key programmed at manufacture (R477). -/
opaque Config.patchKey : Nat → Byte

/-- A greater comparator offset code makes the comparator's crossings come later; the spec gives the trim's LSB and not its
sense (Table 16.4). -/
opaque Config.comparatorLater : Bool

end Sys2Proof
end

