-- ==== Sys2Proof/Machine/RegMap.lean ====
section
/-!
DEFINITION. The register map of the manual: one name for each register of the register tables of spec/01 to spec/16,
its place in its block, its fields with their bits, access, Cold value and Warm value, each table cited beside it.
A register is reached by a `RegKey` (its name, the core or front end whose block it is in, and up to two indices).
-/
namespace Sys2Proof.Machine

/-- The register blocks of Tables 1.13 and 1.14; `hdr` stands for the three header registers of R39, which every block has. -/
inductive Blk where
  | sys | lt | xbar | irq | ring | stor | line | peer | svc | boot | mem | mon | cal | pwr | evt | sec | core | fe | hdr
  deriving DecidableEq, Repr

/-- One name for each register, or array of registers, of the register tables. -/
inductive RegId where
  | SYS_ID | SYS_DEVID | SYS_SQL_CFG | SYS_SQL_STAT | SYS_SQL_LAST_LO | SYS_SQL_LAST_HI
  | SYS_SQL_ORIG | SYS_SQL_CNT | LT_CLKPROF | LT_CTL | LT_BEATCYC | LT_STATE
  | LT_EVT | LT_NOW_LO | LT_NOW_HI | LT_BEAT_LO | LT_BEAT_HI | LT_SKEW
  | LT_PHASE | LT_LOCKDIAG | LT_CNT | LT_REEST | LT_CLKOUT | LT_XREF
  | XBAR_MAP | XBAR_GANG | XBAR_COMMIT_LO | XBAR_COMMIT_HI | XBAR_STATUS | IRQ_PEND
  | IRQ_MASK | IRQ_ACTIVE | IRQ_LIVE | IRQ_T_CLAIM | IRQ_T_COMPLETE | IRQ_T_THRESH
  | IRQ_T_RUN | IRQ_T_CNT | IRQ_CTL | IRQ_SWI | IRQ_ALATCH | IRQ_SRC
  | IRQ_COAL | IRQ_CNT | RING_CTL | RING_CRES | RING_DB | RING_DBC
  | RING_STAT | RING_CHB | STOR_STATE | STOR_CTL | STOR_CFG | STOR_RETRY
  | STOR_TAGS | STOR_STAT | STOR_CNT_A | STOR_CNT_B | LINE_PHY | LINE_MAC_LO
  | LINE_MAC_HI | LINE_IP4 | LINE_GW4 | LINE_UDP | LINE_IP6 | LINE_GW6
  | LINE_HLP | LINE_UTMO | LINE_STAT | LINE_CNT | LINE_CNT_A | LINE_SESS_CTL
  | LINE_SESS_NEXT | LINE_SESS_CTO | LINE_SESS_SPORT | LINE_SESS_ADDR | PEER_CFG | PEER_STAT
  | PEER_CNT | PEER_HOFF | PEER_HTX | PEER_HLEN | PEER_HSTAT | PEER_PARG
  | SVC_UART | SVC_STAT | BOOT_STAT | BOOT_APPERR | BOOT_SLOT_ST | BOOT_SLOT_PLT_LO
  | BOOT_SLOT_PLT_HI | BOOT_CMD | BOOT_ARG0 | BOOT_ARG1 | BOOT_ARG2 | BOOT_USTAT
  | BOOT_PATCH | MEM_FRZ | MEM_FRZREL | MEM_FRZLOG_LO | MEM_FRZLOG_HI | MEM_COLL
  | MEM_COLLA | MEM_ECCCNT | MEM_ECCA_LO | MEM_ECCA_HI | MEM_SCRUB | MEM_SCRUBST
  | MEM_STARVE | MEM_WIN_BASE | MEM_WIN_SIZE | MEM_WIN_PERM | MON_TEMP | MON_TLIM
  | MON_RAIL | MON_RWIN | MON_PROC | MON_AGE | MON_AGEWARN | MON_LIFE_LO
  | MON_LIFE_HI | CAL_CTL | CAL_NOSET | CAL_RMAP | CAL_RMB_LO | CAL_RMB_HI
  | CAL_RMST | CAL_SUSPECT | CAL_HCTL | CAL_HB_LO | CAL_HB_HI | CAL_HSTAT
  | CAL_CH_LOOPT | CAL_CH_MISC | CAL_CH_CMPA | CAL_CH_CMPB | CAL_CH_RAMP | CAL_CH_CORR
  | CAL_CH_TUSED | CAL_CH_TST | PWR_RSTCAUSE | PWR_CTL | PWR_STATE | PWR_STAT
  | PWR_PARK | PWR_PARKED | PWR_CORERST | PWR_WDOG | PWR_WDKICK | PWR_WDCNT
  | PWR_WAKE | PWR_HIBTMR | PWR_HIBDUR | PWR_LOST | EVT_IN | EVT_AUX
  | EVT_LVL | EVT_STAT | EVT_TRIGOUT | EVT_LAST_LO | EVT_LAST_HI | EVT_LAST_INFO
  | EVT_LOST | EVT_XDLY | SEC_ID | SEC_FUSE | SEC_CTL | SEC_ST
  | SEC_KEYHASH | CTL_CMD | CTL_ARG | CTL_STAT | TG_PROF | TG_PHASE
  | TG_DTMIN | TG_STAT | TG_NOWPER | FMT_MODE | FMT_BURST | FMT_AUX
  | FMT_VEC | FMT_STAT | FMT_CNT_A | FMT_CNT_B | FMT_PIN | LOOP_VLIMREQ
  | LOOP_TAPERREQ | LOOP_NOW | LOOP_TAPERNOW | LOOP_STAT | LOOP_SET | CONV_PROF
  | CONV_CTL | CONV_STAT | CONV_V | CONV_I | CONV_T | CONV_FLAGS
  | CONV_S_LO | CONV_S_HI | CONV_Q_LO | CONV_Q_HI | CONV_CNT | PKT_STREAM
  | PKT_DROP | PLAY_HOLD | PLAY_VALID | PLAY_INVAL | PLAY_VSTAT | PLAY_READY
  | PLAY_FILLING | PLAY_NOW | PLAY_POS | PLAY_SEGID | PLAY_STAT | PLAY_CNT_A
  | PLAY_CNT_B | PLAY_ULT_LO | PLAY_ULT_HI | PLAY_SLOT | SEQ_STATE | SEQ_PC
  | SEQ_FADDR | SEQ_ANCHOR_LO | SEQ_ANCHOR_HI | SEQ_LASTLT_LO | SEQ_LASTLT_HI | SEQ_LTALM_LO
  | SEQ_LTALM_HI | SEQ_WHY | SEQ_STAT | SEQ_CNT | EVJ_E | EVJ_PEND
  | CAP_PROF | CAP_CTL | CAP_STATE | CAP_STAT | CAP_TRIG_LO | CAP_TRIG_HI
  | CAP_TPOS | CAP_TIDX | CAP_COUNT | CAP_HDROP | MASK_SEL | MASK_ORG_LO
  | MASK_ORG_HI | MASK_STATE | MASK_VCNT | MASK_STAT | FAIL_CFG | FAIL_CNT
  | FAIL_WPTR | FAIL_CLR | FAIL_STAT | FAIL_RDROP | EVM_SRC | EVM_CFG
  | EVM_RWIN | EVM_TMO_LO | EVM_TMO_HI | EVM_CTL | EVM_STATE | EVM_CNT
  | EVM_IVL_LO | EVM_IVL_HI | EVM_ST_LO | EVM_ST_HI | EVM_INFO | EVM_SUBR
  | EVM_GATE | EVM_STAT | EVM_DROP | TG_PERIOD | TG_DT | TG_PULSE
  | TG_DMAX | FMT_OCLIM | CONV_WIN | CONV_OFS | CONV_CFG | SEQ_CTX
  | CAP_CFG | CAP_POST | CAP_OPT | MASK_CFG | MASK_ADDR | MASK_NBP
  | MASK_APPR | PATH_CTL | PATH_STAT | PATH_SHV | PATH_SHI | SCALE_SHUNT
  | SCALE_GAIN | SCALE_STAT | VLOOP_PROF | PROT_OC | PROT_OV | PROT_STAT
  | VREF_NV | FPKT_WIDTH | FPKT_VP | FPKT_QP_LO | FPKT_QP_HI | FPKT_ACC_LO
  | FPKT_ACC_HI | FPKT_ACCF | FPKT_CLRB_LO | FPKT_CLRB_HI | FPKT_LAST_LO | FPKT_LAST_HI
  | FPKT_STAT | FPKT_HOLDCNT | TH_TAB | VLOOP_CFG | VLOOP_SCOMP | PROT_FILT
  | BLKID | PAGE | BSTAT
  deriving DecidableEq, Repr

/-- One register: its name; the index of the core or front end whose block holds it (for a header register, the
code of its block, see `Blk.code`; else 0); and its indices within the block. -/
structure RegKey where
  id : RegId
  u : Nat := 0
  i : Nat := 0
  j : Nat := 0
  deriving DecidableEq, Repr

/-- A field: the register, its lowest bit and its width (R6). -/
structure Field where
  reg : RegKey
  lo : Nat
  w : Nat
  deriving DecidableEq, Repr

/-- The access types of Table 0.4. -/
inductive Acc where
  | rw | ro | wo | w1s | w1c | rwl
  deriving DecidableEq, Repr

/-- What a field holds after PIN, WDOG and PORT resets: a value, or what it held before ("kept"). -/
inductive Warm where
  | val (n : Nat) | kept
  deriving DecidableEq, Repr

/-- A row of a register table. A Cold or Warm value that a table gives per register or per part is 0 here and is
given by `RegKey.coldSpecial`. -/
structure FieldDesc where
  hi : Nat
  lo : Nat
  acc : Acc
  cold : Nat
  warm : Warm
  deriving DecidableEq, Repr

/-- A register's place in its block and its fields. `s1` and `n1` are the stride and count of its first index
(`n1 = 1` for none), `s2` and `n2` those of its second. -/
structure RegDesc where
  id : RegId
  off : Nat
  s1 : Nat
  n1 : Nat
  s2 : Nat
  n2 : Nat
  fields : List FieldDesc
  deriving DecidableEq, Repr

/-- Registers of the `SYS` block: Tables 1.16, 1.17, 9.19, 9.20. -/
def regs_sys_0 : List RegDesc := [
  ⟨.SYS_ID, 0x0, 4, 1, 4, 1, [⟨31, 16, .ro, 100, (.val 100)⟩, ⟨8, 8, .ro, 0, .kept⟩, ⟨7, 0, .ro, 176, (.val 176)⟩]⟩,
  ⟨.SYS_DEVID, 0x4, 4, 1, 4, 1, [⟨11, 0, .rwl, 0, .kept⟩]⟩,
  ⟨.SYS_SQL_CFG, 0x200, 4, 1, 4, 1,
    [⟨11, 8, .rw, 0, .kept⟩, ⟨4, 4, .rw, 0, .kept⟩, ⟨3, 3, .rw, 0, .kept⟩, ⟨2, 2, .rw, 0, .kept⟩,
    ⟨1, 1, .rw, 0, .kept⟩, ⟨0, 0, .rw, 0, .kept⟩]⟩,
  ⟨.SYS_SQL_STAT, 0x204, 4, 1, 4, 1,
    [⟨3, 3, .w1c, 0, (.val 0)⟩, ⟨2, 2, .w1c, 0, .kept⟩, ⟨1, 1, .w1c, 0, .kept⟩, ⟨0, 0, .w1c, 0, .kept⟩]⟩,
  ⟨.SYS_SQL_LAST_LO, 0x208, 4, 1, 4, 1, [⟨31, 0, .ro, 0, .kept⟩]⟩,
  ⟨.SYS_SQL_LAST_HI, 0x20C, 4, 1, 4, 1, [⟨31, 0, .ro, 0, .kept⟩]⟩,
  ⟨.SYS_SQL_ORIG, 0x210, 4, 1, 4, 1,
    [⟨31, 20, .ro, 0, .kept⟩, ⟨19, 16, .ro, 0, .kept⟩, ⟨15, 10, .ro, 0, .kept⟩, ⟨9, 0, .ro, 0, .kept⟩]⟩,
  ⟨.SYS_SQL_CNT, 0x214, 4, 1, 4, 1, [⟨31, 16, .rw, 0, (.val 0)⟩, ⟨15, 0, .rw, 0, (.val 0)⟩]⟩]

/-- All registers of the `sys` block. -/
def regs_sys : List RegDesc := regs_sys_0

/-- Registers of the `LT` block: Tables 2.7, 2.8, 2.9, 2.10, 2.11, 2.12, 2.13, 2.14, 2.15, 2.16, 2.17, 2.18, 2.19, 2.20. -/
def regs_lt_0 : List RegDesc := [
  ⟨.LT_CLKPROF, 0x0, 4, 1, 4, 1, [⟨3, 0, .rw, 0, .kept⟩]⟩,
  ⟨.LT_CTL, 0x4, 4, 1, 4, 1, [⟨2, 2, .wo, 0, (.val 0)⟩, ⟨1, 1, .wo, 0, (.val 0)⟩, ⟨0, 0, .rw, 0, .kept⟩]⟩,
  ⟨.LT_BEATCYC, 0x8, 4, 1, 4, 1, [⟨31, 0, .rwl, 3000000, .kept⟩]⟩,
  ⟨.LT_STATE, 0xC, 4, 1, 4, 1,
    [⟨8, 8, .ro, 0, .kept⟩, ⟨7, 7, .ro, 0, .kept⟩, ⟨6, 6, .ro, 0, .kept⟩, ⟨5, 5, .ro, 0, .kept⟩,
    ⟨4, 3, .ro, 0, .kept⟩, ⟨2, 0, .ro, 0, .kept⟩]⟩,
  ⟨.LT_EVT, 0x10, 4, 1, 4, 1,
    [⟨4, 4, .w1c, 0, (.val 0)⟩, ⟨3, 3, .w1c, 0, (.val 0)⟩, ⟨2, 2, .w1c, 0, (.val 0)⟩, ⟨1, 1, .w1c, 0, (.val 0)⟩,
    ⟨0, 0, .w1c, 0, (.val 0)⟩]⟩,
  ⟨.LT_NOW_LO, 0x20, 4, 1, 4, 1, [⟨31, 0, .ro, 0, .kept⟩]⟩,
  ⟨.LT_NOW_HI, 0x24, 4, 1, 4, 1, [⟨31, 0, .ro, 0, .kept⟩]⟩,
  ⟨.LT_BEAT_LO, 0x28, 4, 1, 4, 1, [⟨31, 0, .ro, 0, .kept⟩]⟩,
  ⟨.LT_BEAT_HI, 0x2C, 4, 1, 4, 1, [⟨31, 0, .ro, 0, .kept⟩]⟩,
  ⟨.LT_SKEW, 0x30, 4, 1, 4, 1, [⟨19, 0, .rw, 0, .kept⟩]⟩,
  ⟨.LT_PHASE, 0x34, 4, 1, 4, 1, [⟨15, 0, .ro, 0, .kept⟩]⟩,
  ⟨.LT_LOCKDIAG, 0x38, 4, 1, 4, 1,
    [⟨31, 24, .ro, 0, .kept⟩, ⟨23, 16, .ro, 0, .kept⟩, ⟨15, 8, .ro, 0, .kept⟩, ⟨7, 0, .ro, 0, .kept⟩]⟩,
  ⟨.LT_CNT, 0x3C, 4, 1, 4, 1,
    [⟨31, 24, .rw, 0, .kept⟩, ⟨23, 16, .rw, 0, .kept⟩, ⟨15, 8, .rw, 0, .kept⟩, ⟨7, 0, .rw, 0, .kept⟩]⟩,
  ⟨.LT_REEST, 0x40, 4, 1, 4, 1, [⟨31, 0, .ro, 0, .kept⟩]⟩,
  ⟨.LT_CLKOUT, 0x50, 4, 4, 4, 1,
    [⟨31, 30, .rw, 0, .kept⟩, ⟨29, 28, .rw, 0, .kept⟩, ⟨27, 26, .rw, 0, .kept⟩, ⟨15, 0, .rw, 12, .kept⟩]⟩,
  ⟨.LT_XREF, 0x4000, 4, 1, 4, 1, [⟨14, 12, .rw, 7, .kept⟩, ⟨11, 10, .rw, 0, .kept⟩, ⟨8, 0, .rw, 0, .kept⟩]⟩]

/-- All registers of the `lt` block. -/
def regs_lt : List RegDesc := regs_lt_0

/-- Registers of the `XBAR` block: Tables 1.2, 1.3, 1.4, 1.5. -/
def regs_xbar_0 : List RegDesc := [
  ⟨.XBAR_MAP, 0x0, 4, 64, 4, 1, [⟨22, 16, .rw, 0, .kept⟩, ⟨6, 0, .ro, 0, .kept⟩]⟩,
  ⟨.XBAR_GANG, 0x100, 4, 16, 4, 1, [⟨18, 16, .rw, 0, .kept⟩, ⟨2, 0, .ro, 0, .kept⟩]⟩,
  ⟨.XBAR_COMMIT_LO, 0x200, 4, 1, 4, 1, [⟨31, 0, .wo, 0, (.val 0)⟩]⟩,
  ⟨.XBAR_COMMIT_HI, 0x204, 4, 1, 4, 1, [⟨31, 0, .wo, 0, (.val 0)⟩]⟩,
  ⟨.XBAR_STATUS, 0x208, 4, 1, 4, 1,
    [⟨7, 7, .w1c, 0, (.val 0)⟩, ⟨6, 6, .w1c, 0, (.val 0)⟩, ⟨5, 5, .w1c, 0, (.val 0)⟩, ⟨4, 4, .w1c, 0, (.val 0)⟩,
    ⟨3, 3, .w1c, 0, (.val 0)⟩, ⟨2, 2, .w1c, 0, (.val 0)⟩, ⟨1, 1, .w1c, 0, (.val 0)⟩, ⟨0, 0, .ro, 0, (.val 0)⟩]⟩]

/-- All registers of the `xbar` block. -/
def regs_xbar : List RegDesc := regs_xbar_0

/-- Registers of the `IRQ` block: Tables 11.5, 11.6, 11.7, 11.8, 11.9, 11.10, 11.11, 11.12, 11.13. DESIGN CHOICE (see
notes/assumptions/76.md): the offsets of s = 0 are registers too. -/
def regs_irq_0 : List RegDesc := [
  ⟨.IRQ_PEND, 0x0, 4, 8, 4, 1, [⟨31, 0, .ro, 0, (.val 0)⟩]⟩,
  ⟨.IRQ_MASK, 0x20, 4, 8, 4, 1, [⟨31, 0, .rw, 0, .kept⟩]⟩,
  ⟨.IRQ_ACTIVE, 0x40, 4, 8, 4, 1, [⟨31, 0, .ro, 0, (.val 0)⟩]⟩,
  ⟨.IRQ_LIVE, 0x60, 4, 8, 4, 1, [⟨31, 0, .ro, 0, (.val 0)⟩]⟩,
  ⟨.IRQ_T_CLAIM, 0x80, 32, 4, 4, 1, [⟨23, 16, .ro, 0, (.val 0)⟩, ⟨8, 0, .ro, 0, (.val 0)⟩]⟩,
  ⟨.IRQ_T_COMPLETE, 0x84, 32, 4, 4, 1, [⟨8, 0, .wo, 0, (.val 0)⟩]⟩,
  ⟨.IRQ_T_THRESH, 0x88, 32, 4, 4, 1, [⟨7, 0, .rw, 0, .kept⟩]⟩,
  ⟨.IRQ_T_RUN, 0x8C, 32, 4, 4, 1, [⟨31, 31, .ro, 0, (.val 0)⟩, ⟨23, 16, .ro, 0, (.val 0)⟩, ⟨8, 0, .ro, 0, (.val 0)⟩]⟩,
  ⟨.IRQ_T_CNT, 0x90, 32, 4, 4, 1, [⟨31, 16, .rw, 0, (.val 0)⟩, ⟨15, 0, .rw, 0, (.val 0)⟩]⟩,
  ⟨.IRQ_CTL, 0x100, 4, 1, 4, 1, [⟨0, 0, .rw, 0, .kept⟩]⟩,
  ⟨.IRQ_SWI, 0x104, 4, 1, 4, 1, [⟨1, 1, .wo, 0, (.val 0)⟩, ⟨0, 0, .wo, 0, (.val 0)⟩]⟩,
  ⟨.IRQ_ALATCH, 0x120, 4, 8, 4, 1, [⟨31, 0, .w1c, 0, .kept⟩]⟩,
  ⟨.IRQ_SRC, 0x400, 4, 256, 4, 1,
    [⟨31, 31, .ro, 0, .kept⟩, ⟨30, 30, .ro, 0, .kept⟩, ⟨29, 28, .ro, 0, (.val 0)⟩, ⟨27, 24, .rw, 0, .kept⟩,
    ⟨23, 16, .rw, 0, .kept⟩, ⟨15, 8, .rw, 0, .kept⟩, ⟨7, 0, .rw, 0, .kept⟩]⟩,
  ⟨.IRQ_COAL, 0x800, 4, 256, 4, 1, [⟨20, 0, .rw, 0, .kept⟩]⟩,
  ⟨.IRQ_CNT, 0xC00, 4, 64, 4, 1,
    [⟨31, 24, .ro, 0, (.val 0)⟩, ⟨23, 16, .ro, 0, (.val 0)⟩, ⟨15, 8, .ro, 0, (.val 0)⟩, ⟨7, 0, .ro, 0, (.val 0)⟩]⟩]

/-- All registers of the `irq` block. -/
def regs_irq : List RegDesc := regs_irq_0

/-- Registers of the `RING` block: Tables 10.14, 10.15, 10.16. -/
def regs_ring_0 : List RegDesc := [
  ⟨.RING_CTL, 0x0, 4, 1, 4, 1, [⟨31, 30, .wo, 0, (.val 0)⟩, ⟨11, 0, .wo, 0, (.val 0)⟩]⟩,
  ⟨.RING_CRES, 0x4, 4, 1, 4, 1, [⟨31, 28, .ro, 0, (.val 0)⟩, ⟨11, 0, .ro, 0, (.val 0)⟩]⟩,
  ⟨.RING_DB, 0x8, 4, 1, 4, 1, [⟨31, 20, .wo, 0, (.val 0)⟩, ⟨19, 0, .wo, 0, (.val 0)⟩]⟩,
  ⟨.RING_DBC, 0xC, 4, 1, 4, 1, [⟨31, 20, .wo, 0, (.val 0)⟩, ⟨19, 0, .wo, 0, (.val 0)⟩]⟩,
  ⟨.RING_STAT, 0x10, 4, 1, 4, 1, [⟨1, 1, .w1c, 0, (.val 0)⟩, ⟨0, 0, .w1c, 0, (.val 0)⟩]⟩,
  ⟨.RING_CHB, 0x100, 4, 64, 4, 1, [⟨11, 0, .rw, 0, .kept⟩]⟩]

/-- All registers of the `ring` block. -/
def regs_ring : List RegDesc := regs_ring_0

/-- Registers of the `STOR` block: Tables 10.17, 10.18, 10.19, 10.20. -/
def regs_stor_0 : List RegDesc := [
  ⟨.STOR_STATE, 0x0, 4, 1, 4, 1,
    [⟨31, 24, .ro, 0, .kept⟩, ⟨19, 16, .ro, 0, .kept⟩, ⟨15, 12, .ro, 0, .kept⟩, ⟨3, 0, .ro, 0, .kept⟩]⟩,
  ⟨.STOR_CTL, 0x4, 4, 1, 4, 1, [⟨2, 0, .wo, 0, (.val 0)⟩]⟩,
  ⟨.STOR_CFG, 0x8, 4, 1, 4, 1,
    [⟨31, 24, .rw, 0, .kept⟩, ⟨17, 17, .rw, 0, .kept⟩, ⟨16, 16, .rw, 0, .kept⟩, ⟨15, 0, .rw, 1, .kept⟩]⟩,
  ⟨.STOR_RETRY, 0xC, 4, 1, 4, 1, [⟨31, 16, .rw, 50, .kept⟩, ⟨15, 0, .rw, 200, .kept⟩]⟩,
  ⟨.STOR_TAGS, 0x10, 4, 1, 4, 1, [⟨26, 16, .ro, 0, (.val 0)⟩, ⟨8, 0, .ro, 0, (.val 0)⟩]⟩,
  ⟨.STOR_STAT, 0x14, 4, 1, 4, 1, [⟨2, 2, .w1c, 0, (.val 0)⟩, ⟨1, 1, .w1c, 0, (.val 0)⟩, ⟨0, 0, .w1c, 0, (.val 0)⟩]⟩,
  ⟨.STOR_CNT_A, 0x18, 4, 1, 4, 1, [⟨31, 16, .rw, 0, (.val 0)⟩, ⟨15, 0, .rw, 0, (.val 0)⟩]⟩,
  ⟨.STOR_CNT_B, 0x1C, 4, 1, 4, 1, [⟨31, 22, .rw, 0, (.val 0)⟩, ⟨21, 11, .rw, 0, (.val 0)⟩, ⟨10, 0, .rw, 0, (.val 0)⟩]⟩]

/-- All registers of the `stor` block. -/
def regs_stor : List RegDesc := regs_stor_0

/-- Registers of the `LINE` block: Tables 13.12, 13.13, 13.14, 13.15, 13.16. -/
def regs_line_0 : List RegDesc := [
  ⟨.LINE_PHY, 0x0, 4, 1, 4, 1, [⟨5, 4, .ro, 0, .kept⟩, ⟨1, 0, .rw, 0, .kept⟩]⟩,
  ⟨.LINE_MAC_LO, 0x4, 4, 1, 4, 1, [⟨31, 0, .rw, 0, .kept⟩]⟩,
  ⟨.LINE_MAC_HI, 0x8, 4, 1, 4, 1, [⟨15, 0, .rw, 0, .kept⟩]⟩,
  ⟨.LINE_IP4, 0xC, 4, 1, 4, 1, [⟨31, 0, .rw, 0, .kept⟩]⟩,
  ⟨.LINE_GW4, 0x10, 4, 1, 4, 1, [⟨31, 0, .rw, 0, .kept⟩]⟩,
  ⟨.LINE_UDP, 0x14, 4, 1, 4, 1, [⟨15, 0, .rw, 47360, .kept⟩]⟩,
  ⟨.LINE_IP6, 0x20, 4, 4, 4, 1, [⟨31, 0, .rw, 0, .kept⟩]⟩,
  ⟨.LINE_GW6, 0x30, 4, 4, 4, 1, [⟨31, 0, .rw, 0, .kept⟩]⟩,
  ⟨.LINE_HLP, 0x40, 4, 1, 4, 1, [⟨31, 28, .rw, 4, .kept⟩, ⟨19, 0, .rw, 2000, .kept⟩]⟩,
  ⟨.LINE_UTMO, 0x44, 4, 1, 4, 1, [⟨23, 0, .rw, 20000, .kept⟩]⟩,
  ⟨.LINE_STAT, 0x48, 4, 1, 4, 1, [⟨1, 1, .w1c, 0, (.val 0)⟩, ⟨0, 0, .w1c, 0, (.val 0)⟩]⟩,
  ⟨.LINE_CNT, 0x4C, 4, 1, 4, 1,
    [⟨31, 24, .rw, 0, (.val 0)⟩, ⟨23, 16, .rw, 0, (.val 0)⟩, ⟨15, 8, .rw, 0, (.val 0)⟩, ⟨7, 0, .rw, 0, (.val 0)⟩]⟩,
  ⟨.LINE_CNT_A, 0x50, 4, 1, 4, 1, [⟨31, 16, .rw, 0, (.val 0)⟩, ⟨15, 0, .rw, 0, (.val 0)⟩]⟩,
  ⟨.LINE_SESS_CTL, 0x100, 32, 8, 4, 1,
    [⟨31, 31, .ro, 0, (.val 0)⟩, ⟨30, 30, .ro, 0, (.val 0)⟩, ⟨29, 29, .ro, 0, (.val 0)⟩, ⟨28, 28, .ro, 0, (.val 0)⟩,
    ⟨6, 0, .ro, 0, (.val 0)⟩]⟩,
  ⟨.LINE_SESS_NEXT, 0x104, 32, 8, 4, 1, [⟨31, 0, .ro, 0, (.val 0)⟩]⟩,
  ⟨.LINE_SESS_CTO, 0x108, 32, 8, 4, 1, [⟨31, 0, .ro, 0, (.val 0)⟩]⟩,
  ⟨.LINE_SESS_SPORT, 0x10C, 32, 8, 4, 1, [⟨15, 0, .ro, 0, (.val 0)⟩]⟩,
  ⟨.LINE_SESS_ADDR, 0x110, 32, 8, 4, 4, [⟨31, 0, .ro, 0, (.val 0)⟩]⟩]

/-- All registers of the `line` block. -/
def regs_line : List RegDesc := regs_line_0

/-- Registers of the `PEER` block: Tables 13.17, 13.18, 13.19. -/
def regs_peer_0 : List RegDesc := [
  ⟨.PEER_CFG, 0x0, 4, 1, 4, 1,
    [⟨4, 4, .rw, 0, (.val 0)⟩, ⟨3, 3, .rw, 0, .kept⟩, ⟨2, 2, .rw, 0, .kept⟩, ⟨1, 1, .rw, 0, .kept⟩,
    ⟨0, 0, .rw, 0, .kept⟩]⟩,
  ⟨.PEER_STAT, 0x4, 4, 1, 4, 1,
    [⟨3, 3, .ro, 0, .kept⟩, ⟨2, 2, .ro, 0, .kept⟩, ⟨1, 1, .w1c, 0, (.val 0)⟩, ⟨0, 0, .w1c, 0, (.val 0)⟩]⟩,
  ⟨.PEER_CNT, 0x8, 4, 1, 4, 1,
    [⟨31, 24, .rw, 0, (.val 0)⟩, ⟨23, 16, .rw, 0, (.val 0)⟩, ⟨15, 8, .rw, 0, (.val 0)⟩, ⟨7, 0, .rw, 0, (.val 0)⟩]⟩,
  ⟨.PEER_HOFF, 0x10, 4, 1, 4, 1, [⟨23, 0, .rw, 1000, .kept⟩]⟩,
  ⟨.PEER_HTX, 0x14, 4, 1, 4, 1, [⟨31, 31, .wo, 0, (.val 0)⟩, ⟨30, 30, .rw, 0, (.val 0)⟩, ⟨15, 0, .rw, 0, (.val 0)⟩]⟩,
  ⟨.PEER_HLEN, 0x18, 4, 1, 4, 1, [⟨16, 0, .rw, 0, (.val 0)⟩]⟩,
  ⟨.PEER_HSTAT, 0x1C, 4, 1, 4, 1, [⟨31, 30, .ro, 0, (.val 0)⟩, ⟨7, 0, .ro, 0, (.val 0)⟩]⟩,
  ⟨.PEER_PARG, 0x100, 4, 64, 4, 1, [⟨31, 0, .ro, 0, (.val 0)⟩]⟩]

/-- All registers of the `peer` block. -/
def regs_peer : List RegDesc := regs_peer_0

/-- Registers of the `SVC` block: Tables 13.20. -/
def regs_svc_0 : List RegDesc := [
  ⟨.SVC_UART, 0x0, 4, 1, 4, 1, [⟨1, 0, .rw, 0, .kept⟩]⟩,
  ⟨.SVC_STAT, 0x4, 4, 1, 4, 1, [⟨2, 2, .w1c, 0, (.val 0)⟩, ⟨1, 1, .w1c, 0, (.val 0)⟩, ⟨0, 0, .ro, 0, (.val 0)⟩]⟩]

/-- All registers of the `svc` block. -/
def regs_svc : List RegDesc := regs_svc_0

/-- Registers of the `BOOT` block: Tables 14.11, 14.12, 14.13, 14.14. -/
def regs_boot_0 : List RegDesc := [
  ⟨.BOOT_STAT, 0x0, 4, 1, 4, 1,
    [⟨31, 31, .ro, 0, .kept⟩, ⟨30, 30, .ro, 0, .kept⟩, ⟨29, 29, .ro, 0, .kept⟩, ⟨11, 8, .ro, 0, .kept⟩,
    ⟨3, 0, .ro, 0, .kept⟩]⟩,
  ⟨.BOOT_APPERR, 0x4, 4, 1, 4, 1, [⟨31, 16, .ro, 0, .kept⟩, ⟨15, 0, .ro, 0, .kept⟩]⟩,
  ⟨.BOOT_SLOT_ST, 0x10, 16, 2, 4, 1, [⟨31, 24, .ro, 255, .kept⟩]⟩,
  ⟨.BOOT_SLOT_PLT_LO, 0x14, 16, 2, 4, 1, [⟨31, 0, .ro, 0, .kept⟩]⟩,
  ⟨.BOOT_SLOT_PLT_HI, 0x18, 16, 2, 4, 1, [⟨31, 0, .ro, 0, .kept⟩]⟩,
  ⟨.BOOT_CMD, 0x30, 4, 1, 4, 1, [⟨3, 0, .wo, 0, (.val 0)⟩]⟩,
  ⟨.BOOT_ARG0, 0x34, 4, 1, 4, 1, [⟨31, 0, .rw, 0, (.val 0)⟩]⟩,
  ⟨.BOOT_ARG1, 0x38, 4, 1, 4, 1, [⟨31, 0, .rw, 0, (.val 0)⟩]⟩,
  ⟨.BOOT_ARG2, 0x3C, 4, 1, 4, 1, [⟨31, 0, .rw, 0, (.val 0)⟩]⟩,
  ⟨.BOOT_USTAT, 0x40, 4, 1, 4, 1, [⟨31, 30, .ro, 0, (.val 0)⟩, ⟨7, 0, .ro, 0, (.val 0)⟩]⟩,
  ⟨.BOOT_PATCH, 0x44, 4, 1, 4, 1, [⟨31, 16, .ro, 0, .kept⟩, ⟨15, 0, .ro, 0, .kept⟩]⟩]

/-- All registers of the `boot` block. -/
def regs_boot : List RegDesc := regs_boot_0

/-- Registers of the `MEM` block: Tables 12.5, 12.6, 12.7, 12.8, 12.9, 12.10, 12.11. -/
def regs_mem_0 : List RegDesc := [
  ⟨.MEM_FRZ, 0x0, 4, 1, 4, 1, [⟨15, 0, .ro, 0, .kept⟩]⟩,
  ⟨.MEM_FRZREL, 0x4, 4, 1, 4, 1, [⟨15, 0, .wo, 0, (.val 0)⟩]⟩,
  ⟨.MEM_FRZLOG_LO, 0x8, 4, 1, 4, 1, [⟨31, 0, .ro, 0, .kept⟩]⟩,
  ⟨.MEM_FRZLOG_HI, 0xC, 4, 1, 4, 1,
    [⟨31, 28, .ro, 0, .kept⟩, ⟨27, 27, .ro, 0, .kept⟩, ⟨26, 26, .ro, 0, .kept⟩, ⟨7, 0, .ro, 0, .kept⟩]⟩,
  ⟨.MEM_COLL, 0x10, 4, 1, 4, 1,
    [⟨31, 16, .rw, 0, (.val 0)⟩, ⟨15, 12, .ro, 0, (.val 0)⟩, ⟨11, 8, .ro, 0, (.val 0)⟩, ⟨7, 0, .ro, 0, (.val 0)⟩]⟩,
  ⟨.MEM_COLLA, 0x14, 4, 1, 4, 1, [⟨31, 0, .ro, 0, (.val 0)⟩]⟩,
  ⟨.MEM_ECCCNT, 0x20, 4, 1, 4, 1, [⟨31, 16, .rw, 0, .kept⟩, ⟨15, 0, .rw, 0, .kept⟩]⟩,
  ⟨.MEM_ECCA_LO, 0x24, 4, 1, 4, 1, [⟨31, 0, .ro, 0, .kept⟩]⟩,
  ⟨.MEM_ECCA_HI, 0x28, 4, 1, 4, 1,
    [⟨31, 31, .ro, 0, .kept⟩, ⟨24, 20, .ro, 0, .kept⟩, ⟨15, 8, .ro, 0, .kept⟩, ⟨7, 0, .ro, 0, .kept⟩]⟩,
  ⟨.MEM_SCRUB, 0x30, 4, 1, 4, 1, [⟨31, 24, .rw, 0, .kept⟩, ⟨23, 0, .rw, 3600, .kept⟩]⟩,
  ⟨.MEM_SCRUBST, 0x34, 4, 1, 4, 1, [⟨31, 16, .ro, 0, .kept⟩, ⟨15, 0, .ro, 0, .kept⟩]⟩,
  ⟨.MEM_STARVE, 0x38, 4, 1, 4, 1, [⟨31, 16, .rw, 0, (.val 0)⟩, ⟨3, 0, .ro, 0, (.val 0)⟩]⟩,
  ⟨.MEM_WIN_BASE, 0x400, 256, 3, 16, 16, [⟨27, 0, .rw, 0, .kept⟩]⟩,
  ⟨.MEM_WIN_SIZE, 0x404, 256, 3, 16, 16, [⟨28, 0, .rw, 0, .kept⟩]⟩,
  ⟨.MEM_WIN_PERM, 0x408, 256, 3, 16, 16, [⟨1, 1, .rw, 0, .kept⟩, ⟨0, 0, .rw, 0, .kept⟩]⟩]

/-- All registers of the `mem` block. -/
def regs_mem : List RegDesc := regs_mem_0

/-- Registers of the `MON` block: Tables 16.17, 16.18, 16.19. -/
def regs_mon_0 : List RegDesc := [
  ⟨.MON_TEMP, 0x0, 4, 18, 4, 1, [⟨31, 31, .ro, 0, .kept⟩, ⟨15, 0, .ro, 32768, .kept⟩]⟩,
  ⟨.MON_TLIM, 0x48, 4, 1, 4, 1, [⟨31, 16, .rw, 0, .kept⟩, ⟨15, 0, .rw, 0, .kept⟩]⟩,
  ⟨.MON_RAIL, 0x50, 4, 8, 4, 1, [⟨15, 0, .ro, 0, .kept⟩]⟩,
  ⟨.MON_RWIN, 0x70, 4, 8, 4, 1, [⟨31, 16, .rw, 0, .kept⟩, ⟨15, 0, .rw, 0, .kept⟩]⟩,
  ⟨.MON_PROC, 0x90, 4, 9, 4, 1, [⟨23, 0, .ro, 0, .kept⟩]⟩,
  ⟨.MON_AGE, 0xB4, 4, 9, 4, 1, [⟨31, 0, .ro, 2147483648, .kept⟩]⟩,
  ⟨.MON_AGEWARN, 0xD8, 4, 1, 4, 1, [⟨31, 0, .rw, 4294937296, .kept⟩]⟩,
  ⟨.MON_LIFE_LO, 0xE0, 4, 1, 4, 1, [⟨31, 0, .rw, 0, .kept⟩]⟩,
  ⟨.MON_LIFE_HI, 0xE4, 4, 1, 4, 1, [⟨31, 0, .rw, 0, .kept⟩]⟩]

/-- All registers of the `mon` block. -/
def regs_mon : List RegDesc := regs_mon_0

/-- Registers of the `CAL` block: Tables 16.13, 16.14, 16.15, 16.16. -/
def regs_cal_0 : List RegDesc := [
  ⟨.CAL_CTL, 0x0, 4, 1, 4, 1, [⟨8, 8, .wo, 0, (.val 0)⟩, ⟨1, 1, .rw, 0, .kept⟩, ⟨0, 0, .rw, 1, .kept⟩]⟩,
  ⟨.CAL_NOSET, 0x8, 4, 2, 4, 1, [⟨31, 0, .ro, 0, .kept⟩]⟩,
  ⟨.CAL_RMAP, 0x20, 4, 1, 4, 1, [⟨31, 31, .wo, 0, (.val 0)⟩, ⟨22, 16, .rw, 0, (.val 0)⟩, ⟨5, 0, .rw, 0, (.val 0)⟩]⟩,
  ⟨.CAL_RMB_LO, 0x24, 4, 1, 4, 1, [⟨31, 0, .rw, 0, (.val 0)⟩]⟩,
  ⟨.CAL_RMB_HI, 0x28, 4, 1, 4, 1, [⟨31, 0, .rw, 0, (.val 0)⟩]⟩,
  ⟨.CAL_RMST, 0x2C, 4, 1, 4, 1, [⟨31, 30, .ro, 0, (.val 0)⟩, ⟨7, 0, .ro, 0, (.val 0)⟩]⟩,
  ⟨.CAL_SUSPECT, 0x30, 4, 3, 4, 1, [⟨31, 0, .rw, 0, .kept⟩]⟩,
  ⟨.CAL_HCTL, 0x40, 4, 1, 4, 1, [⟨2, 0, .wo, 0, (.val 0)⟩]⟩,
  ⟨.CAL_HB_LO, 0x44, 4, 1, 4, 1, [⟨31, 0, .rw, 0, (.val 0)⟩]⟩,
  ⟨.CAL_HB_HI, 0x48, 4, 1, 4, 1, [⟨31, 0, .rw, 0, (.val 0)⟩]⟩,
  ⟨.CAL_HSTAT, 0x4C, 4, 1, 4, 1, [⟨31, 29, .ro, 0, .kept⟩, ⟨27, 16, .ro, 0, .kept⟩, ⟨7, 0, .ro, 0, .kept⟩]⟩,
  ⟨.CAL_CH_LOOPT, 0x400, 32, 64, 4, 1, [⟨27, 16, .rw, 0, .kept⟩, ⟨11, 0, .rw, 0, .kept⟩]⟩,
  ⟨.CAL_CH_MISC, 0x404, 32, 64, 4, 1, [⟨31, 24, .rw, 0, .kept⟩, ⟨23, 16, .rw, 0, .kept⟩, ⟨9, 0, .rw, 0, .kept⟩]⟩,
  ⟨.CAL_CH_CMPA, 0x408, 32, 64, 4, 1, [⟨29, 20, .rw, 0, .kept⟩, ⟨19, 10, .rw, 0, .kept⟩, ⟨9, 0, .rw, 0, .kept⟩]⟩,
  ⟨.CAL_CH_CMPB, 0x40C, 32, 64, 4, 1, [⟨29, 20, .rw, 0, .kept⟩, ⟨19, 10, .rw, 0, .kept⟩, ⟨9, 0, .rw, 0, .kept⟩]⟩,
  ⟨.CAL_CH_RAMP, 0x410, 32, 64, 4, 1, [⟨27, 16, .rw, 2048, .kept⟩, ⟨11, 0, .rw, 2048, .kept⟩]⟩,
  ⟨.CAL_CH_CORR, 0x414, 32, 64, 4, 1,
    [⟨23, 18, .rw, 0, .kept⟩, ⟨17, 12, .rw, 0, .kept⟩, ⟨11, 6, .rw, 0, .kept⟩, ⟨5, 0, .rw, 0, .kept⟩]⟩,
  ⟨.CAL_CH_TUSED, 0x418, 32, 64, 4, 1, [⟨31, 31, .ro, 0, .kept⟩, ⟨20, 16, .ro, 0, .kept⟩, ⟨15, 0, .ro, 0, .kept⟩]⟩,
  ⟨.CAL_CH_TST, 0x41C, 32, 64, 4, 1,
    [⟨8, 8, .wo, 0, (.val 0)⟩, ⟨6, 6, .w1c, 0, .kept⟩, ⟨5, 5, .w1c, 0, .kept⟩, ⟨4, 4, .ro, 0, (.val 0)⟩,
    ⟨3, 3, .w1c, 0, .kept⟩, ⟨2, 2, .w1c, 0, .kept⟩, ⟨1, 1, .w1c, 0, .kept⟩, ⟨0, 0, .ro, 0, .kept⟩]⟩]

/-- All registers of the `cal` block. -/
def regs_cal : List RegDesc := regs_cal_0

/-- Registers of the `PWR` block: Tables 15.8, 15.9, 15.10, 15.11, 15.12, 15.13, 15.14. -/
def regs_pwr_0 : List RegDesc := [
  ⟨.PWR_RSTCAUSE, 0x0, 4, 1, 4, 1, [⟨31, 16, .ro, 0, .kept⟩, ⟨3, 0, .ro, 0, .kept⟩]⟩,
  ⟨.PWR_CTL, 0x4, 4, 1, 4, 1, [⟨1, 0, .wo, 0, (.val 0)⟩]⟩,
  ⟨.PWR_STATE, 0x8, 4, 1, 4, 1, [⟨1, 0, .ro, 0, (.val 0)⟩]⟩,
  ⟨.PWR_STAT, 0xC, 4, 1, 4, 1,
    [⟨4, 4, .w1c, 0, (.val 0)⟩, ⟨3, 3, .w1c, 0, (.val 0)⟩, ⟨2, 2, .w1c, 0, (.val 0)⟩, ⟨1, 1, .w1c, 0, (.val 0)⟩,
    ⟨0, 0, .w1c, 0, (.val 0)⟩]⟩,
  ⟨.PWR_PARK, 0x10, 4, 2, 4, 1, [⟨31, 0, .rw, 4294967295, .kept⟩]⟩,
  ⟨.PWR_PARKED, 0x18, 4, 2, 4, 1, [⟨31, 0, .ro, 4294967295, .kept⟩]⟩,
  ⟨.PWR_CORERST, 0x20, 4, 1, 4, 1, [⟨31, 31, .wo, 0, (.val 0)⟩, ⟨6, 0, .wo, 0, (.val 0)⟩]⟩,
  ⟨.PWR_WDOG, 0x30, 4, 1, 4, 1, [⟨23, 0, .rw, 4000, .kept⟩]⟩,
  ⟨.PWR_WDKICK, 0x34, 4, 1, 4, 1, [⟨7, 0, .wo, 0, (.val 0)⟩]⟩,
  ⟨.PWR_WDCNT, 0x38, 4, 1, 4, 1, [⟨23, 0, .ro, 4000, .kept⟩]⟩,
  ⟨.PWR_WAKE, 0x40, 4, 1, 4, 1, [⟨16, 16, .rw, 0, .kept⟩, ⟨15, 0, .rw, 0, .kept⟩]⟩,
  ⟨.PWR_HIBTMR, 0x44, 4, 1, 4, 1, [⟨23, 0, .rw, 0, .kept⟩]⟩,
  ⟨.PWR_HIBDUR, 0x48, 4, 1, 4, 1, [⟨31, 0, .ro, 0, .kept⟩]⟩,
  ⟨.PWR_LOST, 0x50, 4, 1, 4, 1,
    [⟨6, 6, .w1c, 0, .kept⟩, ⟨5, 5, .w1c, 0, .kept⟩, ⟨4, 4, .w1c, 0, .kept⟩, ⟨3, 3, .w1c, 0, .kept⟩,
    ⟨2, 2, .w1c, 0, .kept⟩, ⟨1, 1, .w1c, 0, .kept⟩, ⟨0, 0, .w1c, 0, .kept⟩]⟩]

/-- All registers of the `pwr` block. -/
def regs_pwr : List RegDesc := regs_pwr_0

/-- Registers of the `EVT` block: Tables 6.6, 6.7, 6.8, 7.18, 6.9, 6.10, 6.11. -/
def regs_evt_0 : List RegDesc := [
  ⟨.EVT_IN, 0x0, 4, 16, 4, 1,
    [⟨15, 8, .rw, 0, .kept⟩, ⟨3, 3, .rw, 0, .kept⟩, ⟨2, 1, .rw, 0, .kept⟩, ⟨0, 0, .rw, 0, .kept⟩]⟩,
  ⟨.EVT_AUX, 0x40, 4, 4, 4, 1, [⟨8, 8, .rw, 0, .kept⟩, ⟨5, 4, .rw, 0, .kept⟩, ⟨3, 0, .rw, 0, .kept⟩]⟩,
  ⟨.EVT_LVL, 0x50, 4, 1, 4, 1, [⟨15, 0, .ro, 0, (.val 0)⟩]⟩,
  ⟨.EVT_STAT, 0x54, 4, 1, 4, 1, [⟨19, 0, .w1c, 0, (.val 0)⟩]⟩,
  ⟨.EVT_TRIGOUT, 0x60, 4, 4, 4, 1,
    [⟨31, 31, .rw, 0, .kept⟩, ⟨30, 30, .rw, 0, .kept⟩, ⟨21, 16, .rw, 0, .kept⟩, ⟨15, 0, .rw, 0, .kept⟩]⟩,
  ⟨.EVT_LAST_LO, 0x100, 16, 20, 4, 1, [⟨31, 0, .ro, 0, (.val 0)⟩]⟩,
  ⟨.EVT_LAST_HI, 0x104, 16, 20, 4, 1, [⟨31, 0, .ro, 0, (.val 0)⟩]⟩,
  ⟨.EVT_LAST_INFO, 0x108, 16, 20, 4, 1,
    [⟨9, 9, .ro, 0, (.val 0)⟩, ⟨8, 8, .ro, 0, (.val 0)⟩, ⟨7, 0, .ro, 0, (.val 0)⟩]⟩,
  ⟨.EVT_LOST, 0x300, 4, 5, 4, 1,
    [⟨31, 24, .rw, 0, (.val 0)⟩, ⟨23, 16, .rw, 0, (.val 0)⟩, ⟨15, 8, .rw, 0, (.val 0)⟩, ⟨7, 0, .rw, 0, (.val 0)⟩]⟩,
  ⟨.EVT_XDLY, 0x4000, 4, 20, 4, 1, [⟨15, 0, .rw, 0, .kept⟩]⟩]

/-- All registers of the `evt` block. -/
def regs_evt : List RegDesc := regs_evt_0

/-- Registers of the `SEC` block: Tables 14.15, 14.16, R488. -/
def regs_sec_0 : List RegDesc := [
  ⟨.SEC_ID, 0x0, 4, 1, 4, 1, [⟨15, 0, .ro, 0, .kept⟩]⟩,
  ⟨.SEC_FUSE, 0x4, 4, 1, 4, 1,
    [⟨16, 16, .ro, 0, .kept⟩, ⟨15, 8, .ro, 0, .kept⟩, ⟨7, 4, .ro, 0, .kept⟩, ⟨3, 0, .ro, 0, .kept⟩]⟩,
  ⟨.SEC_CTL, 0x10, 4, 1, 4, 1, [⟨31, 30, .wo, 0, (.val 0)⟩, ⟨29, 28, .wo, 0, (.val 0)⟩, ⟨23, 0, .wo, 0, (.val 0)⟩]⟩,
  ⟨.SEC_ST, 0x14, 4, 1, 4, 1, [⟨31, 0, .ro, 0, (.val 0)⟩]⟩,
  ⟨.SEC_KEYHASH, 0x100, 64, 4, 4, 16, [⟨31, 0, .ro, 0, .kept⟩]⟩]

/-- All registers of the `sec` block. -/
def regs_sec : List RegDesc := regs_sec_0

/-- Registers of the `CORE` block: Tables 8.15, 3.11, 3.12, 3.13, 3.14, 3.15, 3.20, 3.21, 3.22, 3.23, 3.24, 3.25, 3.26, 3.27, 4.18, 4.19, 4.20, 4.21. -/
def regs_core_0 : List RegDesc := [
  ⟨.CTL_CMD, 0x0, 4, 1, 4, 1, [⟨3, 0, .wo, 0, (.val 0)⟩]⟩,
  ⟨.CTL_ARG, 0x4, 4, 1, 4, 1, [⟨20, 0, .rw, 0, (.val 0)⟩]⟩,
  ⟨.CTL_STAT, 0x8, 4, 1, 4, 1, [⟨7, 4, .ro, 0, (.val 0)⟩, ⟨0, 0, .w1c, 0, (.val 0)⟩]⟩,
  ⟨.TG_PROF, 0x100, 4, 1, 4, 1, [⟨3, 0, .rw, 0, .kept⟩]⟩,
  ⟨.TG_PHASE, 0x104, 4, 1, 4, 1, [⟨22, 0, .rw, 0, .kept⟩]⟩,
  ⟨.TG_DTMIN, 0x108, 4, 1, 4, 1, [⟨15, 0, .rwl, 192, .kept⟩]⟩,
  ⟨.TG_STAT, 0x10C, 4, 1, 4, 1,
    [⟨3, 3, .w1c, 0, (.val 0)⟩, ⟨2, 2, .w1c, 0, (.val 0)⟩, ⟨1, 1, .w1c, 0, (.val 0)⟩, ⟨0, 0, .w1c, 0, (.val 0)⟩]⟩,
  ⟨.TG_NOWPER, 0x110, 4, 1, 4, 1, [⟨14, 0, .ro, 6000, .kept⟩]⟩,
  ⟨.FMT_MODE, 0x200, 4, 1, 4, 1, [⟨10, 8, .ro, 0, .kept⟩, ⟨2, 0, .rw, 0, (.val 0)⟩]⟩,
  ⟨.FMT_BURST, 0x204, 4, 1, 4, 1, [⟨23, 16, .rw, 0, .kept⟩, ⟨15, 8, .rw, 0, .kept⟩, ⟨7, 0, .rw, 0, .kept⟩]⟩,
  ⟨.FMT_AUX, 0x208, 4, 2, 4, 1,
    [⟨31, 16, .rw, 0, .kept⟩, ⟨8, 8, .rw, 0, .kept⟩, ⟨5, 4, .rw, 0, .kept⟩, ⟨3, 0, .rw, 5, .kept⟩]⟩,
  ⟨.FMT_VEC, 0x210, 4, 1, 4, 1, [⟨31, 8, .rw, 0, .kept⟩, ⟨7, 0, .rw, 0, .kept⟩]⟩,
  ⟨.FMT_STAT, 0x214, 4, 1, 4, 1,
    [⟨6, 6, .w1c, 0, (.val 0)⟩, ⟨5, 5, .w1c, 0, (.val 0)⟩, ⟨4, 4, .w1c, 0, (.val 0)⟩, ⟨3, 3, .w1c, 0, (.val 0)⟩,
    ⟨2, 2, .w1c, 0, .kept⟩, ⟨1, 1, .w1c, 0, .kept⟩]⟩,
  ⟨.FMT_CNT_A, 0x218, 4, 1, 4, 1, [⟨31, 16, .rw, 0, .kept⟩, ⟨15, 0, .rw, 0, .kept⟩]⟩,
  ⟨.FMT_CNT_B, 0x21C, 4, 1, 4, 1, [⟨31, 16, .rw, 0, .kept⟩, ⟨15, 0, .rw, 0, .kept⟩]⟩,
  ⟨.FMT_PIN, 0x220, 4, 1, 4, 1,
    [⟨3, 3, .ro, 0, (.val 0)⟩, ⟨2, 2, .ro, 0, (.val 0)⟩, ⟨1, 1, .ro, 0, (.val 0)⟩, ⟨0, 0, .ro, 0, (.val 0)⟩]⟩,
  ⟨.LOOP_VLIMREQ, 0x300, 4, 1, 4, 1, [⟨31, 0, .rw, 2147483648, (.val 2147483648)⟩]⟩,
  ⟨.LOOP_TAPERREQ, 0x304, 4, 1, 4, 1, [⟨31, 0, .rw, 2147483648, (.val 2147483648)⟩]⟩,
  ⟨.LOOP_NOW, 0x308, 4, 1, 4, 1, [⟨19, 0, .ro, 0, .kept⟩]⟩,
  ⟨.LOOP_TAPERNOW, 0x30C, 4, 1, 4, 1, [⟨17, 0, .ro, 0, .kept⟩]⟩]

/-- Registers of the `CORE` block: Tables 4.22, 4.23, 5.8, 5.9, 5.10, 5.11, 5.12, 5.13, 5.14, 5.18, 7.8, 7.9, 7.10. -/
def regs_core_1 : List RegDesc := [
  ⟨.LOOP_STAT, 0x310, 4, 1, 4, 1,
    [⟨4, 4, .w1c, 0, (.val 0)⟩, ⟨3, 3, .w1c, 0, (.val 0)⟩, ⟨2, 2, .w1c, 0, (.val 0)⟩, ⟨1, 1, .ro, 0, (.val 0)⟩,
    ⟨0, 0, .ro, 0, (.val 0)⟩]⟩,
  ⟨.LOOP_SET, 0x314, 4, 1, 4, 1, [⟨31, 31, .ro, 0, (.val 0)⟩, ⟨17, 0, .ro, 0, (.val 0)⟩]⟩,
  ⟨.CONV_PROF, 0x400, 4, 1, 4, 1, [⟨3, 0, .rw, 0, .kept⟩]⟩,
  ⟨.CONV_CTL, 0x404, 4, 1, 4, 1, [⟨1, 0, .rw, 0, .kept⟩]⟩,
  ⟨.CONV_STAT, 0x408, 4, 1, 4, 1,
    [⟨4, 4, .w1c, 0, (.val 0)⟩, ⟨3, 3, .w1c, 0, (.val 0)⟩, ⟨2, 2, .w1c, 0, (.val 0)⟩, ⟨1, 1, .w1c, 0, (.val 0)⟩,
    ⟨0, 0, .w1c, 0, (.val 0)⟩]⟩,
  ⟨.CONV_V, 0x40C, 4, 1, 4, 1, [⟨31, 0, .ro, 0, (.val 0)⟩]⟩,
  ⟨.CONV_I, 0x410, 4, 1, 4, 1, [⟨31, 0, .ro, 0, (.val 0)⟩]⟩,
  ⟨.CONV_T, 0x414, 4, 1, 4, 1, [⟨15, 0, .ro, 32768, (.val 32768)⟩]⟩,
  ⟨.CONV_FLAGS, 0x418, 4, 1, 4, 1, [⟨31, 16, .ro, 0, (.val 0)⟩, ⟨15, 0, .ro, 0, (.val 0)⟩]⟩,
  ⟨.CONV_S_LO, 0x420, 4, 1, 4, 1, [⟨31, 0, .ro, 0, (.val 0)⟩]⟩,
  ⟨.CONV_S_HI, 0x424, 4, 1, 4, 1, [⟨31, 0, .ro, 0, (.val 0)⟩]⟩,
  ⟨.CONV_Q_LO, 0x428, 4, 1, 4, 1, [⟨31, 0, .ro, 0, (.val 0)⟩]⟩,
  ⟨.CONV_Q_HI, 0x42C, 4, 1, 4, 1, [⟨31, 0, .ro, 0, (.val 0)⟩]⟩,
  ⟨.CONV_CNT, 0x430, 4, 1, 4, 1, [⟨31, 16, .rw, 0, (.val 0)⟩, ⟨15, 0, .rw, 0, (.val 0)⟩]⟩,
  ⟨.PKT_STREAM, 0x500, 4, 1, 4, 1, [⟨15, 0, .rw, 0, .kept⟩]⟩,
  ⟨.PKT_DROP, 0x504, 4, 1, 4, 1, [⟨31, 0, .rw, 0, (.val 0)⟩]⟩,
  ⟨.PLAY_HOLD, 0x600, 4, 1, 4, 1, [⟨8, 8, .rw, 1, .kept⟩, ⟨7, 7, .rw, 0, .kept⟩, ⟨4, 0, .rw, 0, .kept⟩]⟩,
  ⟨.PLAY_VALID, 0x604, 4, 1, 4, 1, [⟨4, 0, .wo, 0, (.val 0)⟩]⟩,
  ⟨.PLAY_INVAL, 0x608, 4, 1, 4, 1, [⟨4, 0, .wo, 0, (.val 0)⟩]⟩,
  ⟨.PLAY_VSTAT, 0x60C, 4, 1, 4, 1, [⟨20, 16, .ro, 0, (.val 0)⟩, ⟨3, 0, .ro, 0, (.val 0)⟩]⟩]

/-- Registers of the `CORE` block: Tables 7.11, 7.12, 7.13, 7.14, 7.15, 7.16, 7.17, 8.16, 8.17. -/
def regs_core_2 : List RegDesc := [
  ⟨.PLAY_READY, 0x610, 4, 1, 4, 1, [⟨31, 0, .ro, 0, .kept⟩]⟩,
  ⟨.PLAY_FILLING, 0x614, 4, 1, 4, 1, [⟨31, 0, .ro, 0, (.val 0)⟩]⟩,
  ⟨.PLAY_NOW, 0x618, 4, 1, 4, 1,
    [⟨31, 31, .ro, 0, (.val 0)⟩, ⟨30, 30, .ro, 0, (.val 0)⟩, ⟨29, 29, .ro, 0, (.val 0)⟩, ⟨28, 28, .ro, 0, (.val 0)⟩,
    ⟨12, 8, .ro, 0, (.val 0)⟩, ⟨5, 5, .ro, 0, (.val 0)⟩, ⟨4, 0, .ro, 0, (.val 0)⟩]⟩,
  ⟨.PLAY_POS, 0x61C, 4, 1, 4, 1, [⟨16, 16, .ro, 0, (.val 0)⟩, ⟨15, 0, .ro, 0, (.val 0)⟩]⟩,
  ⟨.PLAY_SEGID, 0x620, 4, 1, 4, 1, [⟨31, 0, .ro, 0, (.val 0)⟩]⟩,
  ⟨.PLAY_STAT, 0x624, 4, 1, 4, 1,
    [⟨8, 8, .w1c, 0, (.val 0)⟩, ⟨7, 7, .w1c, 0, (.val 0)⟩, ⟨6, 6, .w1c, 0, (.val 0)⟩, ⟨5, 5, .w1c, 0, (.val 0)⟩,
    ⟨4, 4, .w1c, 0, (.val 0)⟩, ⟨3, 3, .w1c, 0, (.val 0)⟩, ⟨2, 2, .w1c, 0, (.val 0)⟩, ⟨1, 1, .w1c, 0, .kept⟩,
    ⟨0, 0, .w1c, 0, .kept⟩]⟩,
  ⟨.PLAY_CNT_A, 0x628, 4, 1, 4, 1, [⟨31, 16, .rw, 0, .kept⟩, ⟨15, 0, .rw, 0, (.val 0)⟩]⟩,
  ⟨.PLAY_CNT_B, 0x62C, 4, 1, 4, 1, [⟨31, 16, .rw, 0, (.val 0)⟩, ⟨15, 0, .rw, 0, (.val 0)⟩]⟩,
  ⟨.PLAY_ULT_LO, 0x630, 4, 1, 4, 1, [⟨31, 0, .ro, 0, .kept⟩]⟩,
  ⟨.PLAY_ULT_HI, 0x634, 4, 1, 4, 1, [⟨28, 24, .ro, 0, .kept⟩, ⟨23, 0, .ro, 0, .kept⟩]⟩,
  ⟨.PLAY_SLOT, 0x680, 4, 32, 4, 1,
    [⟨31, 30, .ro, 0, .kept⟩, ⟨29, 29, .ro, 0, (.val 0)⟩, ⟨28, 16, .rw, 0, .kept⟩, ⟨10, 0, .rw, 0, .kept⟩]⟩,
  ⟨.SEQ_STATE, 0x700, 4, 1, 4, 1,
    [⟨31, 24, .ro, 0, (.val 0)⟩, ⟨23, 20, .ro, 0, (.val 0)⟩, ⟨19, 16, .ro, 0, (.val 0)⟩, ⟨15, 12, .ro, 0, (.val 0)⟩,
    ⟨11, 8, .ro, 0, (.val 0)⟩, ⟨2, 0, .ro, 0, (.val 0)⟩]⟩,
  ⟨.SEQ_PC, 0x704, 4, 1, 4, 1, [⟨20, 0, .ro, 0, (.val 0)⟩]⟩,
  ⟨.SEQ_FADDR, 0x708, 4, 1, 4, 1, [⟨20, 0, .ro, 0, (.val 0)⟩]⟩,
  ⟨.SEQ_ANCHOR_LO, 0x710, 4, 1, 4, 1, [⟨31, 0, .rw, 0, .kept⟩]⟩,
  ⟨.SEQ_ANCHOR_HI, 0x714, 4, 1, 4, 1, [⟨31, 0, .rw, 0, .kept⟩]⟩,
  ⟨.SEQ_LASTLT_LO, 0x718, 4, 1, 4, 1, [⟨31, 0, .ro, 0, (.val 0)⟩]⟩,
  ⟨.SEQ_LASTLT_HI, 0x71C, 4, 1, 4, 1, [⟨31, 0, .ro, 0, (.val 0)⟩]⟩,
  ⟨.SEQ_LTALM_LO, 0x720, 4, 1, 4, 1, [⟨31, 0, .rw, 0, (.val 0)⟩]⟩,
  ⟨.SEQ_LTALM_HI, 0x724, 4, 1, 4, 1, [⟨31, 0, .rw, 0, (.val 0)⟩]⟩]

/-- Registers of the `CORE` block: Tables 8.18, 8.19, 8.21, 8.22, 9.9, 9.10, 9.11, 9.13, 9.14. -/
def regs_core_3 : List RegDesc := [
  ⟨.SEQ_WHY, 0x728, 4, 1, 4, 1, [⟨4, 0, .ro, 0, (.val 0)⟩]⟩,
  ⟨.SEQ_STAT, 0x72C, 4, 1, 4, 1,
    [⟨4, 4, .w1c, 0, (.val 0)⟩, ⟨3, 3, .w1c, 0, (.val 0)⟩, ⟨2, 2, .w1c, 0, (.val 0)⟩, ⟨1, 1, .w1c, 0, (.val 0)⟩,
    ⟨0, 0, .w1c, 0, (.val 0)⟩]⟩,
  ⟨.SEQ_CNT, 0x730, 4, 1, 4, 1,
    [⟨31, 24, .rw, 0, (.val 0)⟩, ⟨23, 16, .rw, 0, (.val 0)⟩, ⟨15, 8, .rw, 0, (.val 0)⟩, ⟨7, 0, .rw, 0, (.val 0)⟩]⟩,
  ⟨.EVJ_E, 0x800, 4, 16, 4, 1, [⟨31, 31, .rw, 0, .kept⟩, ⟨30, 28, .rw, 0, .kept⟩, ⟨20, 0, .rw, 0, .kept⟩]⟩,
  ⟨.EVJ_PEND, 0x840, 4, 1, 4, 1, [⟨15, 0, .w1c, 0, (.val 0)⟩]⟩,
  ⟨.CAP_PROF, 0x900, 4, 1, 4, 1, [⟨3, 0, .rw, 0, .kept⟩]⟩,
  ⟨.CAP_CTL, 0x904, 4, 1, 4, 1, [⟨2, 2, .wo, 0, (.val 0)⟩, ⟨1, 1, .wo, 0, (.val 0)⟩, ⟨0, 0, .wo, 0, (.val 0)⟩]⟩,
  ⟨.CAP_STATE, 0x908, 4, 1, 4, 1, [⟨31, 16, .ro, 0, (.val 0)⟩, ⟨15, 12, .ro, 0, (.val 0)⟩, ⟨1, 0, .ro, 0, (.val 0)⟩]⟩,
  ⟨.CAP_STAT, 0x90C, 4, 1, 4, 1,
    [⟨3, 3, .w1c, 0, (.val 0)⟩, ⟨2, 2, .w1c, 0, (.val 0)⟩, ⟨1, 1, .w1c, 0, (.val 0)⟩, ⟨0, 0, .w1c, 0, (.val 0)⟩]⟩,
  ⟨.CAP_TRIG_LO, 0x910, 4, 1, 4, 1, [⟨31, 0, .ro, 0, (.val 0)⟩]⟩,
  ⟨.CAP_TRIG_HI, 0x914, 4, 1, 4, 1, [⟨31, 0, .ro, 0, (.val 0)⟩]⟩,
  ⟨.CAP_TPOS, 0x918, 4, 1, 4, 1, [⟨31, 0, .ro, 0, (.val 0)⟩]⟩,
  ⟨.CAP_TIDX, 0x91C, 4, 1, 4, 1, [⟨23, 16, .ro, 0, (.val 0)⟩, ⟨15, 0, .ro, 0, (.val 0)⟩]⟩,
  ⟨.CAP_COUNT, 0x920, 4, 1, 4, 1, [⟨31, 0, .ro, 0, (.val 0)⟩]⟩,
  ⟨.CAP_HDROP, 0x924, 4, 1, 4, 1, [⟨31, 0, .rw, 0, (.val 0)⟩]⟩,
  ⟨.MASK_SEL, 0xA00, 4, 4, 4, 1, [⟨31, 31, .rw, 0, .kept⟩, ⟨7, 0, .rw, 0, .kept⟩]⟩,
  ⟨.MASK_ORG_LO, 0xA10, 8, 4, 4, 1, [⟨31, 0, .rw, 0, .kept⟩]⟩,
  ⟨.MASK_ORG_HI, 0xA14, 8, 4, 4, 1, [⟨31, 0, .rw, 0, .kept⟩]⟩,
  ⟨.MASK_STATE, 0xA30, 4, 4, 4, 1, [⟨4, 4, .ro, 0, (.val 0)⟩, ⟨3, 3, .ro, 0, (.val 0)⟩, ⟨2, 0, .ro, 0, (.val 0)⟩]⟩,
  ⟨.MASK_VCNT, 0xA40, 4, 4, 4, 1, [⟨31, 0, .rw, 0, (.val 0)⟩]⟩]

/-- Registers of the `CORE` block: Tables 9.15, 9.17, 9.18, 6.12, 6.13, 6.14, 6.15, 6.16, 6.17. -/
def regs_core_4 : List RegDesc := [
  ⟨.MASK_STAT, 0xA50, 4, 1, 4, 1,
    [⟨19, 16, .w1c, 0, (.val 0)⟩, ⟨15, 12, .w1c, 0, (.val 0)⟩, ⟨11, 8, .w1c, 0, (.val 0)⟩,
    ⟨7, 4, .w1c, 0, (.val 0)⟩, ⟨3, 0, .w1c, 0, (.val 0)⟩]⟩,
  ⟨.FAIL_CFG, 0xB00, 4, 1, 4, 1, [⟨1, 1, .rw, 0, .kept⟩, ⟨0, 0, .rw, 0, .kept⟩]⟩,
  ⟨.FAIL_CNT, 0xB04, 4, 1, 4, 1, [⟨31, 0, .ro, 0, .kept⟩]⟩,
  ⟨.FAIL_WPTR, 0xB08, 4, 1, 4, 1, [⟨11, 0, .ro, 0, .kept⟩]⟩,
  ⟨.FAIL_CLR, 0xB0C, 4, 1, 4, 1, [⟨0, 0, .wo, 0, (.val 0)⟩]⟩,
  ⟨.FAIL_STAT, 0xB10, 4, 1, 4, 1, [⟨1, 1, .w1c, 0, .kept⟩, ⟨0, 0, .w1c, 0, (.val 0)⟩]⟩,
  ⟨.FAIL_RDROP, 0xB14, 4, 1, 4, 1, [⟨31, 0, .rw, 0, (.val 0)⟩]⟩,
  ⟨.EVM_SRC, 0xC00, 32, 4, 4, 1,
    [⟨22, 21, .rw, 0, .kept⟩, ⟨20, 16, .rw, 0, .kept⟩, ⟨14, 13, .rw, 0, .kept⟩, ⟨12, 8, .rw, 0, .kept⟩,
    ⟨6, 5, .rw, 0, .kept⟩, ⟨4, 0, .rw, 0, .kept⟩]⟩,
  ⟨.EVM_CFG, 0xC04, 32, 4, 4, 1,
    [⟨7, 7, .rw, 0, .kept⟩, ⟨6, 6, .rw, 0, .kept⟩, ⟨5, 5, .rw, 0, .kept⟩, ⟨4, 4, .rw, 0, .kept⟩,
    ⟨3, 3, .rw, 0, .kept⟩, ⟨2, 2, .rw, 0, .kept⟩, ⟨1, 0, .rw, 0, .kept⟩]⟩,
  ⟨.EVM_RWIN, 0xC08, 32, 4, 4, 1, [⟨23, 0, .rw, 0, .kept⟩]⟩,
  ⟨.EVM_TMO_LO, 0xC0C, 32, 4, 4, 1, [⟨31, 0, .rw, 0, .kept⟩]⟩,
  ⟨.EVM_TMO_HI, 0xC10, 32, 4, 4, 1, [⟨8, 0, .rw, 0, .kept⟩]⟩,
  ⟨.EVM_CTL, 0xC14, 32, 4, 4, 1, [⟨1, 1, .wo, 0, (.val 0)⟩, ⟨0, 0, .wo, 0, (.val 0)⟩]⟩,
  ⟨.EVM_STATE, 0xC18, 32, 4, 4, 1, [⟨1, 0, .ro, 0, (.val 0)⟩]⟩,
  ⟨.EVM_CNT, 0xC1C, 32, 4, 4, 1,
    [⟨31, 24, .rw, 0, (.val 0)⟩, ⟨23, 16, .rw, 0, (.val 0)⟩, ⟨15, 8, .rw, 0, (.val 0)⟩, ⟨7, 0, .rw, 0, (.val 0)⟩]⟩,
  ⟨.EVM_IVL_LO, 0xC80, 24, 4, 4, 1, [⟨31, 0, .ro, 0, (.val 0)⟩]⟩,
  ⟨.EVM_IVL_HI, 0xC84, 24, 4, 4, 1, [⟨31, 0, .ro, 0, (.val 0)⟩]⟩,
  ⟨.EVM_ST_LO, 0xC88, 24, 4, 4, 1, [⟨31, 0, .ro, 0, (.val 0)⟩]⟩,
  ⟨.EVM_ST_HI, 0xC8C, 24, 4, 4, 1, [⟨31, 0, .ro, 0, (.val 0)⟩]⟩,
  ⟨.EVM_INFO, 0xC90, 24, 4, 4, 1, [⟨31, 16, .ro, 0, (.val 0)⟩, ⟨15, 0, .ro, 0, (.val 0)⟩]⟩]

/-- Registers of the `CORE` block: Tables 6.17, 6.18, 6.19, 3.16, 3.17, 3.18, 3.19, 3.28, 5.15, 5.16, 5.17, 8.20, 9.12, 9.16. -/
def regs_core_5 : List RegDesc := [
  ⟨.EVM_SUBR, 0xC94, 24, 4, 4, 1, [⟨7, 0, .ro, 0, (.val 0)⟩]⟩,
  ⟨.EVM_GATE, 0xCE0, 4, 1, 4, 1, [⟨8, 8, .ro, 1, (.val 1)⟩, ⟨5, 5, .rw, 0, .kept⟩, ⟨4, 0, .rw, 0, .kept⟩]⟩,
  ⟨.EVM_STAT, 0xCE4, 4, 1, 4, 1, [⟨4, 4, .w1c, 0, (.val 0)⟩, ⟨3, 0, .w1c, 0, (.val 0)⟩]⟩,
  ⟨.EVM_DROP, 0xCE8, 4, 1, 4, 1, [⟨31, 0, .rw, 0, (.val 0)⟩]⟩,
  ⟨.TG_PERIOD, 0x4100, 4, 1, 4, 1, [⟨14, 0, .rw, 6000, .kept⟩]⟩,
  ⟨.TG_DT, 0x4104, 4, 1, 4, 1, [⟨31, 16, .rw, 192, .kept⟩, ⟨15, 0, .rw, 192, .kept⟩]⟩,
  ⟨.TG_PULSE, 0x4108, 4, 1, 4, 1, [⟨25, 16, .rw, 0, .kept⟩, ⟨9, 0, .rw, 0, .kept⟩]⟩,
  ⟨.TG_DMAX, 0x410C, 4, 1, 4, 1, [⟨9, 0, .rw, 512, .kept⟩]⟩,
  ⟨.FMT_OCLIM, 0x4200, 4, 1, 4, 1, [⟨7, 0, .rw, 1, .kept⟩]⟩,
  ⟨.CONV_WIN, 0x4400, 4, 1, 4, 1, [⟨21, 0, .rw, 300000, .kept⟩]⟩,
  ⟨.CONV_OFS, 0x4404, 4, 1, 4, 1, [⟨31, 0, .rw, 0, .kept⟩]⟩,
  ⟨.CONV_CFG, 0x4408, 4, 1, 4, 1, [⟨31, 24, .rw, 0, .kept⟩, ⟨23, 16, .rw, 0, .kept⟩, ⟨0, 0, .rw, 0, .kept⟩]⟩,
  ⟨.SEQ_CTX, 0x4700, 4, 64, 4, 1, [⟨31, 0, .rw, 0, (.val 0)⟩]⟩,
  ⟨.CAP_CFG, 0x4900, 4, 1, 4, 1,
    [⟨31, 16, .rw, 0, .kept⟩, ⟨15, 8, .rw, 0, .kept⟩, ⟨7, 3, .rw, 0, .kept⟩, ⟨2, 1, .rw, 0, .kept⟩]⟩,
  ⟨.CAP_POST, 0x4904, 4, 1, 4, 1, [⟨31, 0, .rw, 0, .kept⟩]⟩,
  ⟨.CAP_OPT, 0x4908, 4, 1, 4, 1, [⟨1, 1, .rw, 0, .kept⟩, ⟨0, 0, .rw, 0, .kept⟩]⟩,
  ⟨.MASK_CFG, 0x4A00, 16, 4, 4, 1,
    [⟨27, 24, .rw, 0, .kept⟩, ⟨22, 20, .rw, 0, .kept⟩, ⟨19, 19, .rw, 0, .kept⟩, ⟨18, 18, .rw, 0, .kept⟩,
    ⟨17, 16, .rw, 0, .kept⟩, ⟨4, 4, .rw, 0, .kept⟩, ⟨1, 0, .rw, 0, .kept⟩]⟩,
  ⟨.MASK_ADDR, 0x4A04, 16, 4, 4, 1, [⟨23, 0, .rw, 0, .kept⟩]⟩,
  ⟨.MASK_NBP, 0x4A08, 16, 4, 4, 1, [⟨10, 0, .rw, 0, .kept⟩]⟩,
  ⟨.MASK_APPR, 0x4A0C, 16, 4, 4, 1, [⟨31, 0, .rw, 0, .kept⟩]⟩]

/-- All registers of the `core` block. -/
def regs_core : List RegDesc := regs_core_0 ++ regs_core_1 ++ regs_core_2 ++ regs_core_3 ++ regs_core_4 ++ regs_core_5

/-- Registers of the `FE` block: Tables 5.19, 5.20, 5.21, 4.8, 4.9, 4.10, 4.11, 4.14, 4.15, 4.16, 5.22, 5.23, 5.24, 5.25, 5.26. -/
def regs_fe_0 : List RegDesc := [
  ⟨.PATH_CTL, 0x100, 4, 1, 4, 1, [⟨8, 8, .rw, 0, (.val 0)⟩, ⟨0, 0, .rw, 0, .kept⟩]⟩,
  ⟨.PATH_STAT, 0x104, 4, 1, 4, 1, [⟨2, 2, .w1c, 0, (.val 0)⟩, ⟨1, 1, .ro, 0, (.val 0)⟩, ⟨0, 0, .ro, 0, .kept⟩]⟩,
  ⟨.PATH_SHV, 0x108, 4, 1, 4, 1, [⟨31, 0, .ro, 0, (.val 0)⟩]⟩,
  ⟨.PATH_SHI, 0x10C, 4, 1, 4, 1, [⟨31, 0, .ro, 0, (.val 0)⟩]⟩,
  ⟨.SCALE_SHUNT, 0x200, 4, 1, 4, 1, [⟨31, 0, .rw, 1000000, .kept⟩]⟩,
  ⟨.SCALE_GAIN, 0x204, 4, 1, 4, 1, [⟨2, 2, .rw, 0, .kept⟩, ⟨1, 1, .rw, 0, .kept⟩, ⟨0, 0, .rw, 0, .kept⟩]⟩,
  ⟨.SCALE_STAT, 0x208, 4, 1, 4, 1, [⟨0, 0, .w1c, 0, (.val 0)⟩]⟩,
  ⟨.VLOOP_PROF, 0x300, 4, 1, 4, 1, [⟨3, 0, .rw, 0, .kept⟩]⟩,
  ⟨.PROT_OC, 0x400, 4, 1, 4, 1, [⟨25, 16, .rw, 1023, .kept⟩, ⟨9, 0, .rw, 1023, .kept⟩]⟩,
  ⟨.PROT_OV, 0x404, 4, 1, 4, 1, [⟨11, 0, .rw, 4095, .kept⟩]⟩,
  ⟨.PROT_STAT, 0x408, 4, 1, 4, 1, [⟨2, 2, .ro, 0, (.val 0)⟩, ⟨1, 1, .ro, 0, (.val 0)⟩, ⟨0, 0, .w1c, 0, (.val 0)⟩]⟩,
  ⟨.VREF_NV, 0x500, 4, 1, 4, 1, [⟨31, 0, .rw, 1250000000, .kept⟩]⟩,
  ⟨.FPKT_WIDTH, 0x600, 4, 1, 4, 1, [⟨15, 0, .rw, 64, .kept⟩]⟩,
  ⟨.FPKT_VP, 0x604, 4, 1, 4, 1, [⟨31, 0, .rw, 300000000, .kept⟩]⟩,
  ⟨.FPKT_QP_LO, 0x608, 4, 1, 4, 1, [⟨31, 0, .ro, 0, .kept⟩]⟩,
  ⟨.FPKT_QP_HI, 0x60C, 4, 1, 4, 1, [⟨31, 0, .ro, 6400, .kept⟩]⟩,
  ⟨.FPKT_ACC_LO, 0x610, 4, 1, 4, 1, [⟨31, 0, .ro, 0, .kept⟩]⟩,
  ⟨.FPKT_ACC_HI, 0x614, 4, 1, 4, 1, [⟨31, 0, .ro, 0, .kept⟩]⟩,
  ⟨.FPKT_ACCF, 0x618, 4, 1, 4, 1, [⟨31, 0, .ro, 0, .kept⟩]⟩,
  ⟨.FPKT_CLRB_LO, 0x620, 4, 1, 4, 1, [⟨31, 0, .wo, 0, (.val 0)⟩]⟩]

/-- Registers of the `FE` block: Tables 5.26, 5.27, 5.28, 5.29, 4.12, 4.13, 4.17. -/
def regs_fe_1 : List RegDesc := [
  ⟨.FPKT_CLRB_HI, 0x624, 4, 1, 4, 1, [⟨31, 0, .wo, 0, (.val 0)⟩]⟩,
  ⟨.FPKT_LAST_LO, 0x628, 4, 1, 4, 1, [⟨31, 0, .ro, 0, .kept⟩]⟩,
  ⟨.FPKT_LAST_HI, 0x62C, 4, 1, 4, 1, [⟨31, 0, .ro, 0, .kept⟩]⟩,
  ⟨.FPKT_STAT, 0x630, 4, 1, 4, 1,
    [⟨7, 7, .w1c, 0, (.val 0)⟩, ⟨6, 6, .ro, 0, (.val 0)⟩, ⟨5, 5, .w1c, 0, (.val 0)⟩, ⟨4, 4, .w1c, 0, .kept⟩,
    ⟨3, 3, .w1c, 0, .kept⟩, ⟨2, 2, .w1c, 0, .kept⟩, ⟨1, 1, .w1c, 0, (.val 0)⟩, ⟨0, 0, .w1c, 0, (.val 0)⟩]⟩,
  ⟨.FPKT_HOLDCNT, 0x634, 4, 1, 4, 1, [⟨31, 0, .ro, 0, .kept⟩]⟩,
  ⟨.TH_TAB, 0x700, 4, 33, 4, 1, [⟨15, 0, .rw, 32768, .kept⟩]⟩,
  ⟨.VLOOP_CFG, 0x4300, 4, 1, 4, 1,
    [⟨31, 24, .rw, 15, .kept⟩, ⟨16, 16, .rw, 1, .kept⟩, ⟨13, 12, .rw, 1, .kept⟩, ⟨10, 8, .rw, 0, .kept⟩,
    ⟨6, 4, .rw, 4, .kept⟩, ⟨2, 0, .rw, 3, .kept⟩]⟩,
  ⟨.VLOOP_SCOMP, 0x4304, 4, 1, 4, 1, [⟨15, 0, .rw, 0, .kept⟩]⟩,
  ⟨.PROT_FILT, 0x4400, 4, 1, 4, 1, [⟨5, 4, .rw, 0, .kept⟩, ⟨1, 0, .rw, 0, .kept⟩]⟩]

/-- All registers of the `fe` block. -/
def regs_fe : List RegDesc := regs_fe_0 ++ regs_fe_1

/-- Registers of the `header` block: Tables 1.10, 1.11, 1.12. -/
def regs_hdr_0 : List RegDesc := [
  ⟨.BLKID, 0xFF0, 4, 1, 4, 1, [⟨31, 16, .ro, 0, .kept⟩, ⟨15, 8, .ro, 0, .kept⟩, ⟨7, 0, .ro, 1, (.val 1)⟩]⟩,
  ⟨.PAGE, 0xFF4, 4, 1, 4, 1, [⟨1, 1, .w1c, 0, (.val 0)⟩, ⟨0, 0, .rw, 0, (.val 0)⟩]⟩,
  ⟨.BSTAT, 0xFF8, 4, 1, 4, 1, [⟨2, 2, .ro, 0, .kept⟩, ⟨0, 0, .w1c, 0, (.val 0)⟩]⟩]

/-- All registers of the `hdr` block. -/
def regs_hdr : List RegDesc := regs_hdr_0

/-- The registers of a block, its header registers left out. -/
def Blk.regs : Blk → List RegDesc
  | .sys => regs_sys
  | .lt => regs_lt
  | .xbar => regs_xbar
  | .irq => regs_irq
  | .ring => regs_ring
  | .stor => regs_stor
  | .line => regs_line
  | .peer => regs_peer
  | .svc => regs_svc
  | .boot => regs_boot
  | .mem => regs_mem
  | .mon => regs_mon
  | .cal => regs_cal
  | .pwr => regs_pwr
  | .evt => regs_evt
  | .sec => regs_sec
  | .core => regs_core
  | .fe => regs_fe
  | .hdr => regs_hdr

/-- The block that holds a register. -/
def RegId.blk (r : RegId) : Blk :=
  match r with
  | .SYS_ID | .SYS_DEVID | .SYS_SQL_CFG | .SYS_SQL_STAT | .SYS_SQL_LAST_LO | .SYS_SQL_LAST_HI => .sys
  | .SYS_SQL_ORIG | .SYS_SQL_CNT => .sys
  | .LT_CLKPROF | .LT_CTL | .LT_BEATCYC | .LT_STATE | .LT_EVT | .LT_NOW_LO => .lt
  | .LT_NOW_HI | .LT_BEAT_LO | .LT_BEAT_HI | .LT_SKEW | .LT_PHASE | .LT_LOCKDIAG => .lt
  | .LT_CNT | .LT_REEST | .LT_CLKOUT | .LT_XREF => .lt
  | .XBAR_MAP | .XBAR_GANG | .XBAR_COMMIT_LO | .XBAR_COMMIT_HI | .XBAR_STATUS => .xbar
  | .IRQ_PEND | .IRQ_MASK | .IRQ_ACTIVE | .IRQ_LIVE | .IRQ_T_CLAIM | .IRQ_T_COMPLETE => .irq
  | .IRQ_T_THRESH | .IRQ_T_RUN | .IRQ_T_CNT | .IRQ_CTL | .IRQ_SWI | .IRQ_ALATCH => .irq
  | .IRQ_SRC | .IRQ_COAL | .IRQ_CNT => .irq
  | .RING_CTL | .RING_CRES | .RING_DB | .RING_DBC | .RING_STAT | .RING_CHB => .ring
  | .STOR_STATE | .STOR_CTL | .STOR_CFG | .STOR_RETRY | .STOR_TAGS | .STOR_STAT => .stor
  | .STOR_CNT_A | .STOR_CNT_B => .stor
  | .LINE_PHY | .LINE_MAC_LO | .LINE_MAC_HI | .LINE_IP4 | .LINE_GW4 | .LINE_UDP => .line
  | .LINE_IP6 | .LINE_GW6 | .LINE_HLP | .LINE_UTMO | .LINE_STAT | .LINE_CNT => .line
  | .LINE_CNT_A | .LINE_SESS_CTL | .LINE_SESS_NEXT | .LINE_SESS_CTO | .LINE_SESS_SPORT | .LINE_SESS_ADDR => .line
  | .PEER_CFG | .PEER_STAT | .PEER_CNT | .PEER_HOFF | .PEER_HTX | .PEER_HLEN => .peer
  | .PEER_HSTAT | .PEER_PARG => .peer
  | .SVC_UART | .SVC_STAT => .svc
  | .BOOT_STAT | .BOOT_APPERR | .BOOT_SLOT_ST | .BOOT_SLOT_PLT_LO | .BOOT_SLOT_PLT_HI | .BOOT_CMD => .boot
  | .BOOT_ARG0 | .BOOT_ARG1 | .BOOT_ARG2 | .BOOT_USTAT | .BOOT_PATCH => .boot
  | .MEM_FRZ | .MEM_FRZREL | .MEM_FRZLOG_LO | .MEM_FRZLOG_HI | .MEM_COLL | .MEM_COLLA => .mem
  | .MEM_ECCCNT | .MEM_ECCA_LO | .MEM_ECCA_HI | .MEM_SCRUB | .MEM_SCRUBST | .MEM_STARVE => .mem
  | .MEM_WIN_BASE | .MEM_WIN_SIZE | .MEM_WIN_PERM => .mem
  | .MON_TEMP | .MON_TLIM | .MON_RAIL | .MON_RWIN | .MON_PROC | .MON_AGE => .mon
  | .MON_AGEWARN | .MON_LIFE_LO | .MON_LIFE_HI => .mon
  | .CAL_CTL | .CAL_NOSET | .CAL_RMAP | .CAL_RMB_LO | .CAL_RMB_HI | .CAL_RMST => .cal
  | .CAL_SUSPECT | .CAL_HCTL | .CAL_HB_LO | .CAL_HB_HI | .CAL_HSTAT | .CAL_CH_LOOPT => .cal
  | .CAL_CH_MISC | .CAL_CH_CMPA | .CAL_CH_CMPB | .CAL_CH_RAMP | .CAL_CH_CORR | .CAL_CH_TUSED => .cal
  | .CAL_CH_TST => .cal
  | .PWR_RSTCAUSE | .PWR_CTL | .PWR_STATE | .PWR_STAT | .PWR_PARK | .PWR_PARKED => .pwr
  | .PWR_CORERST | .PWR_WDOG | .PWR_WDKICK | .PWR_WDCNT | .PWR_WAKE | .PWR_HIBTMR => .pwr
  | .PWR_HIBDUR | .PWR_LOST => .pwr
  | .EVT_IN | .EVT_AUX | .EVT_LVL | .EVT_STAT | .EVT_TRIGOUT | .EVT_LAST_LO => .evt
  | .EVT_LAST_HI | .EVT_LAST_INFO | .EVT_LOST | .EVT_XDLY => .evt
  | .SEC_ID | .SEC_FUSE | .SEC_CTL | .SEC_ST | .SEC_KEYHASH => .sec
  | .CTL_CMD | .CTL_ARG | .CTL_STAT | .TG_PROF | .TG_PHASE | .TG_DTMIN => .core
  | .TG_STAT | .TG_NOWPER | .FMT_MODE | .FMT_BURST | .FMT_AUX | .FMT_VEC => .core
  | .FMT_STAT | .FMT_CNT_A | .FMT_CNT_B | .FMT_PIN | .LOOP_VLIMREQ | .LOOP_TAPERREQ => .core
  | .LOOP_NOW | .LOOP_TAPERNOW | .LOOP_STAT | .LOOP_SET | .CONV_PROF | .CONV_CTL => .core
  | .CONV_STAT | .CONV_V | .CONV_I | .CONV_T | .CONV_FLAGS | .CONV_S_LO => .core
  | .CONV_S_HI | .CONV_Q_LO | .CONV_Q_HI | .CONV_CNT | .PKT_STREAM | .PKT_DROP => .core
  | .PLAY_HOLD | .PLAY_VALID | .PLAY_INVAL | .PLAY_VSTAT | .PLAY_READY | .PLAY_FILLING => .core
  | .PLAY_NOW | .PLAY_POS | .PLAY_SEGID | .PLAY_STAT | .PLAY_CNT_A | .PLAY_CNT_B => .core
  | .PLAY_ULT_LO | .PLAY_ULT_HI | .PLAY_SLOT | .SEQ_STATE | .SEQ_PC | .SEQ_FADDR => .core
  | .SEQ_ANCHOR_LO | .SEQ_ANCHOR_HI | .SEQ_LASTLT_LO | .SEQ_LASTLT_HI | .SEQ_LTALM_LO | .SEQ_LTALM_HI => .core
  | .SEQ_WHY | .SEQ_STAT | .SEQ_CNT | .EVJ_E | .EVJ_PEND | .CAP_PROF => .core
  | .CAP_CTL | .CAP_STATE | .CAP_STAT | .CAP_TRIG_LO | .CAP_TRIG_HI | .CAP_TPOS => .core
  | .CAP_TIDX | .CAP_COUNT | .CAP_HDROP | .MASK_SEL | .MASK_ORG_LO | .MASK_ORG_HI => .core
  | .MASK_STATE | .MASK_VCNT | .MASK_STAT | .FAIL_CFG | .FAIL_CNT | .FAIL_WPTR => .core
  | .FAIL_CLR | .FAIL_STAT | .FAIL_RDROP | .EVM_SRC | .EVM_CFG | .EVM_RWIN => .core
  | .EVM_TMO_LO | .EVM_TMO_HI | .EVM_CTL | .EVM_STATE | .EVM_CNT | .EVM_IVL_LO => .core
  | .EVM_IVL_HI | .EVM_ST_LO | .EVM_ST_HI | .EVM_INFO | .EVM_SUBR | .EVM_GATE => .core
  | .EVM_STAT | .EVM_DROP | .TG_PERIOD | .TG_DT | .TG_PULSE | .TG_DMAX => .core
  | .FMT_OCLIM | .CONV_WIN | .CONV_OFS | .CONV_CFG | .SEQ_CTX | .CAP_CFG => .core
  | .CAP_POST | .CAP_OPT | .MASK_CFG | .MASK_ADDR | .MASK_NBP | .MASK_APPR => .core
  | .PATH_CTL | .PATH_STAT | .PATH_SHV | .PATH_SHI | .SCALE_SHUNT | .SCALE_GAIN => .fe
  | .SCALE_STAT | .VLOOP_PROF | .PROT_OC | .PROT_OV | .PROT_STAT | .VREF_NV => .fe
  | .FPKT_WIDTH | .FPKT_VP | .FPKT_QP_LO | .FPKT_QP_HI | .FPKT_ACC_LO | .FPKT_ACC_HI => .fe
  | .FPKT_ACCF | .FPKT_CLRB_LO | .FPKT_CLRB_HI | .FPKT_LAST_LO | .FPKT_LAST_HI | .FPKT_STAT => .fe
  | .FPKT_HOLDCNT | .TH_TAB | .VLOOP_CFG | .VLOOP_SCOMP | .PROT_FILT => .fe
  | .BLKID | .PAGE | .BSTAT => .hdr

/-! ## Names of registers and fields -/

abbrev R.SYS_ID : RegKey := ⟨.SYS_ID, 0, 0, 0⟩
abbrev F.SYS_ID_PART : Field := ⟨⟨.SYS_ID, 0, 0, 0⟩, 16, 16⟩
abbrev F.SYS_ID_GRADE : Field := ⟨⟨.SYS_ID, 0, 0, 0⟩, 8, 1⟩
abbrev F.SYS_ID_SILREV : Field := ⟨⟨.SYS_ID, 0, 0, 0⟩, 0, 8⟩
abbrev R.SYS_DEVID : RegKey := ⟨.SYS_DEVID, 0, 0, 0⟩
abbrev F.SYS_DEVID_DEV : Field := ⟨⟨.SYS_DEVID, 0, 0, 0⟩, 0, 12⟩
abbrev R.SYS_SQL_CFG : RegKey := ⟨.SYS_SQL_CFG, 0, 0, 0⟩
abbrev F.SYS_SQL_CFG_HOPS : Field := ⟨⟨.SYS_SQL_CFG, 0, 0, 0⟩, 8, 4⟩
abbrev F.SYS_SQL_CFG_FWD : Field := ⟨⟨.SYS_SQL_CFG, 0, 0, 0⟩, 4, 1⟩
abbrev F.SYS_SQL_CFG_RX_W : Field := ⟨⟨.SYS_SQL_CFG, 0, 0, 0⟩, 3, 1⟩
abbrev F.SYS_SQL_CFG_RX_E : Field := ⟨⟨.SYS_SQL_CFG, 0, 0, 0⟩, 2, 1⟩
abbrev F.SYS_SQL_CFG_TX_W : Field := ⟨⟨.SYS_SQL_CFG, 0, 0, 0⟩, 1, 1⟩
abbrev F.SYS_SQL_CFG_TX_E : Field := ⟨⟨.SYS_SQL_CFG, 0, 0, 0⟩, 0, 1⟩
abbrev R.SYS_SQL_STAT : RegKey := ⟨.SYS_SQL_STAT, 0, 0, 0⟩
abbrev F.SYS_SQL_STAT_DUP : Field := ⟨⟨.SYS_SQL_STAT, 0, 0, 0⟩, 3, 1⟩
abbrev F.SYS_SQL_STAT_RX_W : Field := ⟨⟨.SYS_SQL_STAT, 0, 0, 0⟩, 2, 1⟩
abbrev F.SYS_SQL_STAT_RX_E : Field := ⟨⟨.SYS_SQL_STAT, 0, 0, 0⟩, 1, 1⟩
abbrev F.SYS_SQL_STAT_LOCAL : Field := ⟨⟨.SYS_SQL_STAT, 0, 0, 0⟩, 0, 1⟩
abbrev R.SYS_SQL_LAST_LO : RegKey := ⟨.SYS_SQL_LAST_LO, 0, 0, 0⟩
abbrev F.SYS_SQL_LAST_LO_CYC : Field := ⟨⟨.SYS_SQL_LAST_LO, 0, 0, 0⟩, 0, 32⟩
abbrev R.SYS_SQL_LAST_HI : RegKey := ⟨.SYS_SQL_LAST_HI, 0, 0, 0⟩
abbrev F.SYS_SQL_LAST_HI_CYC : Field := ⟨⟨.SYS_SQL_LAST_HI, 0, 0, 0⟩, 0, 32⟩
abbrev R.SYS_SQL_ORIG : RegKey := ⟨.SYS_SQL_ORIG, 0, 0, 0⟩
abbrev F.SYS_SQL_ORIG_DEV : Field := ⟨⟨.SYS_SQL_ORIG, 0, 0, 0⟩, 20, 12⟩
abbrev F.SYS_SQL_ORIG_HOPS : Field := ⟨⟨.SYS_SQL_ORIG, 0, 0, 0⟩, 16, 4⟩
abbrev F.SYS_SQL_ORIG_CH : Field := ⟨⟨.SYS_SQL_ORIG, 0, 0, 0⟩, 10, 6⟩
abbrev F.SYS_SQL_ORIG_SEQ : Field := ⟨⟨.SYS_SQL_ORIG, 0, 0, 0⟩, 0, 10⟩
abbrev R.SYS_SQL_CNT : RegKey := ⟨.SYS_SQL_CNT, 0, 0, 0⟩
abbrev F.SYS_SQL_CNT_DUP : Field := ⟨⟨.SYS_SQL_CNT, 0, 0, 0⟩, 16, 16⟩
abbrev F.SYS_SQL_CNT_ACTED : Field := ⟨⟨.SYS_SQL_CNT, 0, 0, 0⟩, 0, 16⟩
abbrev R.LT_CLKPROF : RegKey := ⟨.LT_CLKPROF, 0, 0, 0⟩
abbrev F.LT_CLKPROF_PROF : Field := ⟨⟨.LT_CLKPROF, 0, 0, 0⟩, 0, 4⟩
abbrev R.LT_CTL : RegKey := ⟨.LT_CTL, 0, 0, 0⟩
abbrev F.LT_CTL_RELOCK : Field := ⟨⟨.LT_CTL, 0, 0, 0⟩, 2, 1⟩
abbrev F.LT_CTL_REALIGN : Field := ⟨⟨.LT_CTL, 0, 0, 0⟩, 1, 1⟩
abbrev F.LT_CTL_RESUME : Field := ⟨⟨.LT_CTL, 0, 0, 0⟩, 0, 1⟩
abbrev R.LT_BEATCYC : RegKey := ⟨.LT_BEATCYC, 0, 0, 0⟩
abbrev F.LT_BEATCYC_CYC : Field := ⟨⟨.LT_BEATCYC, 0, 0, 0⟩, 0, 32⟩
abbrev R.LT_STATE : RegKey := ⟨.LT_STATE, 0, 0, 0⟩
abbrev F.LT_STATE_MHOLD : Field := ⟨⟨.LT_STATE, 0, 0, 0⟩, 8, 1⟩
abbrev F.LT_STATE_SUSPECT : Field := ⟨⟨.LT_STATE, 0, 0, 0⟩, 7, 1⟩
abbrev F.LT_STATE_HOLDOVER : Field := ⟨⟨.LT_STATE, 0, 0, 0⟩, 6, 1⟩
abbrev F.LT_STATE_REF_OK : Field := ⟨⟨.LT_STATE, 0, 0, 0⟩, 5, 1⟩
abbrev F.LT_STATE_LT_ST : Field := ⟨⟨.LT_STATE, 0, 0, 0⟩, 3, 2⟩
abbrev F.LT_STATE_LOCK_ST : Field := ⟨⟨.LT_STATE, 0, 0, 0⟩, 0, 3⟩
abbrev R.LT_EVT : RegKey := ⟨.LT_EVT, 0, 0, 0⟩
abbrev F.LT_EVT_RES_FAIL : Field := ⟨⟨.LT_EVT, 0, 0, 0⟩, 4, 1⟩
abbrev F.LT_EVT_BUSY : Field := ⟨⟨.LT_EVT, 0, 0, 0⟩, 3, 1⟩
abbrev F.LT_EVT_TRACK : Field := ⟨⟨.LT_EVT, 0, 0, 0⟩, 2, 1⟩
abbrev F.LT_EVT_REF_LOSS : Field := ⟨⟨.LT_EVT, 0, 0, 0⟩, 1, 1⟩
abbrev F.LT_EVT_LOCK_LOSS : Field := ⟨⟨.LT_EVT, 0, 0, 0⟩, 0, 1⟩
abbrev R.LT_NOW_LO : RegKey := ⟨.LT_NOW_LO, 0, 0, 0⟩
abbrev F.LT_NOW_LO_CYC : Field := ⟨⟨.LT_NOW_LO, 0, 0, 0⟩, 0, 32⟩
abbrev R.LT_NOW_HI : RegKey := ⟨.LT_NOW_HI, 0, 0, 0⟩
abbrev F.LT_NOW_HI_CYC : Field := ⟨⟨.LT_NOW_HI, 0, 0, 0⟩, 0, 32⟩
abbrev R.LT_BEAT_LO : RegKey := ⟨.LT_BEAT_LO, 0, 0, 0⟩
abbrev F.LT_BEAT_LO_NUM : Field := ⟨⟨.LT_BEAT_LO, 0, 0, 0⟩, 0, 32⟩
abbrev R.LT_BEAT_HI : RegKey := ⟨.LT_BEAT_HI, 0, 0, 0⟩
abbrev F.LT_BEAT_HI_NUM : Field := ⟨⟨.LT_BEAT_HI, 0, 0, 0⟩, 0, 32⟩
abbrev R.LT_SKEW : RegKey := ⟨.LT_SKEW, 0, 0, 0⟩
abbrev F.LT_SKEW_SUB : Field := ⟨⟨.LT_SKEW, 0, 0, 0⟩, 0, 20⟩
abbrev R.LT_PHASE : RegKey := ⟨.LT_PHASE, 0, 0, 0⟩
abbrev F.LT_PHASE_SUB : Field := ⟨⟨.LT_PHASE, 0, 0, 0⟩, 0, 16⟩
abbrev R.LT_LOCKDIAG : RegKey := ⟨.LT_LOCKDIAG, 0, 0, 0⟩
abbrev F.LT_LOCKDIAG_LOSSES : Field := ⟨⟨.LT_LOCKDIAG, 0, 0, 0⟩, 24, 8⟩
abbrev F.LT_LOCKDIAG_ACQ_RETRY : Field := ⟨⟨.LT_LOCKDIAG, 0, 0, 0⟩, 16, 8⟩
abbrev F.LT_LOCKDIAG_WARN : Field := ⟨⟨.LT_LOCKDIAG, 0, 0, 0⟩, 8, 8⟩
abbrev F.LT_LOCKDIAG_LAST_D : Field := ⟨⟨.LT_LOCKDIAG, 0, 0, 0⟩, 0, 8⟩
abbrev R.LT_CNT : RegKey := ⟨.LT_CNT, 0, 0, 0⟩
abbrev F.LT_CNT_FRAME_DROP : Field := ⟨⟨.LT_CNT, 0, 0, 0⟩, 24, 8⟩
abbrev F.LT_CNT_SYNC_ERR : Field := ⟨⟨.LT_CNT, 0, 0, 0⟩, 16, 8⟩
abbrev F.LT_CNT_BEAT_MISS : Field := ⟨⟨.LT_CNT, 0, 0, 0⟩, 8, 8⟩
abbrev F.LT_CNT_EPOCH_ERR : Field := ⟨⟨.LT_CNT, 0, 0, 0⟩, 0, 8⟩
abbrev R.LT_REEST : RegKey := ⟨.LT_REEST, 0, 0, 0⟩
abbrev F.LT_REEST_STEP : Field := ⟨⟨.LT_REEST, 0, 0, 0⟩, 0, 32⟩
abbrev R.LT_CLKOUT (i : Nat) : RegKey := ⟨.LT_CLKOUT, 0, i, 0⟩
abbrev F.LT_CLKOUT_SRC (i : Nat) : Field := ⟨⟨.LT_CLKOUT, 0, i, 0⟩, 30, 2⟩
abbrev F.LT_CLKOUT_FMT (i : Nat) : Field := ⟨⟨.LT_CLKOUT, 0, i, 0⟩, 28, 2⟩
abbrev F.LT_CLKOUT_LEVEL (i : Nat) : Field := ⟨⟨.LT_CLKOUT, 0, i, 0⟩, 26, 2⟩
abbrev F.LT_CLKOUT_DIV (i : Nat) : Field := ⟨⟨.LT_CLKOUT, 0, i, 0⟩, 0, 16⟩
abbrev R.LT_XREF : RegKey := ⟨.LT_XREF, 0, 0, 0⟩
abbrev F.LT_XREF_RATE : Field := ⟨⟨.LT_XREF, 0, 0, 0⟩, 12, 3⟩
abbrev F.LT_XREF_PRE : Field := ⟨⟨.LT_XREF, 0, 0, 0⟩, 10, 2⟩
abbrev F.LT_XREF_NDIV : Field := ⟨⟨.LT_XREF, 0, 0, 0⟩, 0, 9⟩
abbrev R.XBAR_MAP (i : Nat) : RegKey := ⟨.XBAR_MAP, 0, i, 0⟩
abbrev F.XBAR_MAP_PEND (i : Nat) : Field := ⟨⟨.XBAR_MAP, 0, i, 0⟩, 16, 7⟩
abbrev F.XBAR_MAP_CORE (i : Nat) : Field := ⟨⟨.XBAR_MAP, 0, i, 0⟩, 0, 7⟩
abbrev R.XBAR_GANG (i : Nat) : RegKey := ⟨.XBAR_GANG, 0, i, 0⟩
abbrev F.XBAR_GANG_PEND (i : Nat) : Field := ⟨⟨.XBAR_GANG, 0, i, 0⟩, 16, 3⟩
abbrev F.XBAR_GANG_MODE (i : Nat) : Field := ⟨⟨.XBAR_GANG, 0, i, 0⟩, 0, 3⟩
abbrev R.XBAR_COMMIT_LO : RegKey := ⟨.XBAR_COMMIT_LO, 0, 0, 0⟩
abbrev F.XBAR_COMMIT_LO_BEAT : Field := ⟨⟨.XBAR_COMMIT_LO, 0, 0, 0⟩, 0, 32⟩
abbrev R.XBAR_COMMIT_HI : RegKey := ⟨.XBAR_COMMIT_HI, 0, 0, 0⟩
abbrev F.XBAR_COMMIT_HI_BEAT : Field := ⟨⟨.XBAR_COMMIT_HI, 0, 0, 0⟩, 0, 32⟩
abbrev R.XBAR_STATUS : RegKey := ⟨.XBAR_STATUS, 0, 0, 0⟩
abbrev F.XBAR_STATUS_NOLT : Field := ⟨⟨.XBAR_STATUS, 0, 0, 0⟩, 7, 1⟩
abbrev F.XBAR_STATUS_CANCELLED : Field := ⟨⟨.XBAR_STATUS, 0, 0, 0⟩, 6, 1⟩
abbrev F.XBAR_STATUS_BUSY : Field := ⟨⟨.XBAR_STATUS, 0, 0, 0⟩, 5, 1⟩
abbrev F.XBAR_STATUS_PAST : Field := ⟨⟨.XBAR_STATUS, 0, 0, 0⟩, 4, 1⟩
abbrev F.XBAR_STATUS_GANG_BUSY : Field := ⟨⟨.XBAR_STATUS, 0, 0, 0⟩, 3, 1⟩
abbrev F.XBAR_STATUS_CONFLICT : Field := ⟨⟨.XBAR_STATUS, 0, 0, 0⟩, 2, 1⟩
abbrev F.XBAR_STATUS_DONE : Field := ⟨⟨.XBAR_STATUS, 0, 0, 0⟩, 1, 1⟩
abbrev F.XBAR_STATUS_PENDING : Field := ⟨⟨.XBAR_STATUS, 0, 0, 0⟩, 0, 1⟩
abbrev R.IRQ_PEND (i : Nat) : RegKey := ⟨.IRQ_PEND, 0, i, 0⟩
abbrev F.IRQ_PEND_PEND (i : Nat) : Field := ⟨⟨.IRQ_PEND, 0, i, 0⟩, 0, 32⟩
abbrev R.IRQ_MASK (i : Nat) : RegKey := ⟨.IRQ_MASK, 0, i, 0⟩
abbrev F.IRQ_MASK_MASK (i : Nat) : Field := ⟨⟨.IRQ_MASK, 0, i, 0⟩, 0, 32⟩
abbrev R.IRQ_ACTIVE (i : Nat) : RegKey := ⟨.IRQ_ACTIVE, 0, i, 0⟩
abbrev F.IRQ_ACTIVE_ACTIVE (i : Nat) : Field := ⟨⟨.IRQ_ACTIVE, 0, i, 0⟩, 0, 32⟩
abbrev R.IRQ_LIVE (i : Nat) : RegKey := ⟨.IRQ_LIVE, 0, i, 0⟩
abbrev F.IRQ_LIVE_LIVE (i : Nat) : Field := ⟨⟨.IRQ_LIVE, 0, i, 0⟩, 0, 32⟩
abbrev R.IRQ_T_CLAIM (i : Nat) : RegKey := ⟨.IRQ_T_CLAIM, 0, i, 0⟩
abbrev F.IRQ_T_CLAIM_COUNT (i : Nat) : Field := ⟨⟨.IRQ_T_CLAIM, 0, i, 0⟩, 16, 8⟩
abbrev F.IRQ_T_CLAIM_SRC (i : Nat) : Field := ⟨⟨.IRQ_T_CLAIM, 0, i, 0⟩, 0, 9⟩
abbrev R.IRQ_T_COMPLETE (i : Nat) : RegKey := ⟨.IRQ_T_COMPLETE, 0, i, 0⟩
abbrev F.IRQ_T_COMPLETE_SRC (i : Nat) : Field := ⟨⟨.IRQ_T_COMPLETE, 0, i, 0⟩, 0, 9⟩
abbrev R.IRQ_T_THRESH (i : Nat) : RegKey := ⟨.IRQ_T_THRESH, 0, i, 0⟩
abbrev F.IRQ_T_THRESH_PRIO (i : Nat) : Field := ⟨⟨.IRQ_T_THRESH, 0, i, 0⟩, 0, 8⟩
abbrev R.IRQ_T_RUN (i : Nat) : RegKey := ⟨.IRQ_T_RUN, 0, i, 0⟩
abbrev F.IRQ_T_RUN_RVALID (i : Nat) : Field := ⟨⟨.IRQ_T_RUN, 0, i, 0⟩, 31, 1⟩
abbrev F.IRQ_T_RUN_RRANK (i : Nat) : Field := ⟨⟨.IRQ_T_RUN, 0, i, 0⟩, 16, 8⟩
abbrev F.IRQ_T_RUN_PRES (i : Nat) : Field := ⟨⟨.IRQ_T_RUN, 0, i, 0⟩, 0, 9⟩
abbrev R.IRQ_T_CNT (i : Nat) : RegKey := ⟨.IRQ_T_CNT, 0, i, 0⟩
abbrev F.IRQ_T_CNT_SPUR (i : Nat) : Field := ⟨⟨.IRQ_T_CNT, 0, i, 0⟩, 16, 16⟩
abbrev F.IRQ_T_CNT_ORPH (i : Nat) : Field := ⟨⟨.IRQ_T_CNT, 0, i, 0⟩, 0, 16⟩
abbrev R.IRQ_CTL : RegKey := ⟨.IRQ_CTL, 0, 0, 0⟩
abbrev F.IRQ_CTL_NOPRE : Field := ⟨⟨.IRQ_CTL, 0, 0, 0⟩, 0, 1⟩
abbrev R.IRQ_SWI : RegKey := ⟨.IRQ_SWI, 0, 0, 0⟩
abbrev F.IRQ_SWI_SW254 : Field := ⟨⟨.IRQ_SWI, 0, 0, 0⟩, 1, 1⟩
abbrev F.IRQ_SWI_SW253 : Field := ⟨⟨.IRQ_SWI, 0, 0, 0⟩, 0, 1⟩
abbrev R.IRQ_ALATCH (i : Nat) : RegKey := ⟨.IRQ_ALATCH, 0, i, 0⟩
abbrev F.IRQ_ALATCH_AL (i : Nat) : Field := ⟨⟨.IRQ_ALATCH, 0, i, 0⟩, 0, 32⟩
abbrev R.IRQ_SRC (i : Nat) : RegKey := ⟨.IRQ_SRC, 0, i, 0⟩
abbrev F.IRQ_SRC_KIND (i : Nat) : Field := ⟨⟨.IRQ_SRC, 0, i, 0⟩, 31, 1⟩
abbrev F.IRQ_SRC_ASYNC (i : Nat) : Field := ⟨⟨.IRQ_SRC, 0, i, 0⟩, 30, 1⟩
abbrev F.IRQ_SRC_OWNER (i : Nat) : Field := ⟨⟨.IRQ_SRC, 0, i, 0⟩, 28, 2⟩
abbrev F.IRQ_SRC_TGT (i : Nat) : Field := ⟨⟨.IRQ_SRC, 0, i, 0⟩, 24, 4⟩
abbrev F.IRQ_SRC_CCNT (i : Nat) : Field := ⟨⟨.IRQ_SRC, 0, i, 0⟩, 16, 8⟩
abbrev F.IRQ_SRC_RANK (i : Nat) : Field := ⟨⟨.IRQ_SRC, 0, i, 0⟩, 8, 8⟩
abbrev F.IRQ_SRC_PRIO (i : Nat) : Field := ⟨⟨.IRQ_SRC, 0, i, 0⟩, 0, 8⟩
abbrev R.IRQ_COAL (i : Nat) : RegKey := ⟨.IRQ_COAL, 0, i, 0⟩
abbrev F.IRQ_COAL_CTIME (i : Nat) : Field := ⟨⟨.IRQ_COAL, 0, i, 0⟩, 0, 21⟩
abbrev R.IRQ_CNT (i : Nat) : RegKey := ⟨.IRQ_CNT, 0, i, 0⟩
abbrev F.IRQ_CNT_C3 (i : Nat) : Field := ⟨⟨.IRQ_CNT, 0, i, 0⟩, 24, 8⟩
abbrev F.IRQ_CNT_C2 (i : Nat) : Field := ⟨⟨.IRQ_CNT, 0, i, 0⟩, 16, 8⟩
abbrev F.IRQ_CNT_C1 (i : Nat) : Field := ⟨⟨.IRQ_CNT, 0, i, 0⟩, 8, 8⟩
abbrev F.IRQ_CNT_C0 (i : Nat) : Field := ⟨⟨.IRQ_CNT, 0, i, 0⟩, 0, 8⟩
abbrev R.RING_CTL : RegKey := ⟨.RING_CTL, 0, 0, 0⟩
abbrev F.RING_CTL_OP : Field := ⟨⟨.RING_CTL, 0, 0, 0⟩, 30, 2⟩
abbrev F.RING_CTL_RING : Field := ⟨⟨.RING_CTL, 0, 0, 0⟩, 0, 12⟩
abbrev R.RING_CRES : RegKey := ⟨.RING_CRES, 0, 0, 0⟩
abbrev F.RING_CRES_CODE : Field := ⟨⟨.RING_CRES, 0, 0, 0⟩, 28, 4⟩
abbrev F.RING_CRES_RING : Field := ⟨⟨.RING_CRES, 0, 0, 0⟩, 0, 12⟩
abbrev R.RING_DB : RegKey := ⟨.RING_DB, 0, 0, 0⟩
abbrev F.RING_DB_RING : Field := ⟨⟨.RING_DB, 0, 0, 0⟩, 20, 12⟩
abbrev F.RING_DB_IDX : Field := ⟨⟨.RING_DB, 0, 0, 0⟩, 0, 20⟩
abbrev R.RING_DBC : RegKey := ⟨.RING_DBC, 0, 0, 0⟩
abbrev F.RING_DBC_RING : Field := ⟨⟨.RING_DBC, 0, 0, 0⟩, 20, 12⟩
abbrev F.RING_DBC_IDX : Field := ⟨⟨.RING_DBC, 0, 0, 0⟩, 0, 20⟩
abbrev R.RING_STAT : RegKey := ⟨.RING_STAT, 0, 0, 0⟩
abbrev F.RING_STAT_TYPE_ERR : Field := ⟨⟨.RING_STAT, 0, 0, 0⟩, 1, 1⟩
abbrev F.RING_STAT_DB_BAD : Field := ⟨⟨.RING_STAT, 0, 0, 0⟩, 0, 1⟩
abbrev R.RING_CHB (i : Nat) : RegKey := ⟨.RING_CHB, 0, i, 0⟩
abbrev F.RING_CHB_BASE (i : Nat) : Field := ⟨⟨.RING_CHB, 0, i, 0⟩, 0, 12⟩
abbrev R.STOR_STATE : RegKey := ⟨.STOR_STATE, 0, 0, 0⟩
abbrev F.STOR_STATE_WHY : Field := ⟨⟨.STOR_STATE, 0, 0, 0⟩, 24, 8⟩
abbrev F.STOR_STATE_WIDTH : Field := ⟨⟨.STOR_STATE, 0, 0, 0⟩, 16, 4⟩
abbrev F.STOR_STATE_SPEED : Field := ⟨⟨.STOR_STATE, 0, 0, 0⟩, 12, 4⟩
abbrev F.STOR_STATE_ST : Field := ⟨⟨.STOR_STATE, 0, 0, 0⟩, 0, 4⟩
abbrev R.STOR_CTL : RegKey := ⟨.STOR_CTL, 0, 0, 0⟩
abbrev F.STOR_CTL_CMD : Field := ⟨⟨.STOR_CTL, 0, 0, 0⟩, 0, 3⟩
abbrev R.STOR_CFG : RegKey := ⟨.STOR_CFG, 0, 0, 0⟩
abbrev F.STOR_CFG_FLUSH : Field := ⟨⟨.STOR_CFG, 0, 0, 0⟩, 24, 8⟩
abbrev F.STOR_CFG_ADOPT : Field := ⟨⟨.STOR_CFG, 0, 0, 0⟩, 17, 1⟩
abbrev F.STOR_CFG_SPILL_LINE : Field := ⟨⟨.STOR_CFG, 0, 0, 0⟩, 16, 1⟩
abbrev F.STOR_CFG_NSID : Field := ⟨⟨.STOR_CFG, 0, 0, 0⟩, 0, 16⟩
abbrev R.STOR_RETRY : RegKey := ⟨.STOR_RETRY, 0, 0, 0⟩
abbrev F.STOR_RETRY_BACKOFF : Field := ⟨⟨.STOR_RETRY, 0, 0, 0⟩, 16, 16⟩
abbrev F.STOR_RETRY_CTO : Field := ⟨⟨.STOR_RETRY, 0, 0, 0⟩, 0, 16⟩
abbrev R.STOR_TAGS : RegKey := ⟨.STOR_TAGS, 0, 0, 0⟩
abbrev F.STOR_TAGS_GEN : Field := ⟨⟨.STOR_TAGS, 0, 0, 0⟩, 16, 11⟩
abbrev F.STOR_TAGS_REF : Field := ⟨⟨.STOR_TAGS, 0, 0, 0⟩, 0, 9⟩
abbrev R.STOR_STAT : RegKey := ⟨.STOR_STAT, 0, 0, 0⟩
abbrev F.STOR_STAT_SMART : Field := ⟨⟨.STOR_STAT, 0, 0, 0⟩, 2, 1⟩
abbrev F.STOR_STAT_REFUSED : Field := ⟨⟨.STOR_STAT, 0, 0, 0⟩, 1, 1⟩
abbrev F.STOR_STAT_BUDGET : Field := ⟨⟨.STOR_STAT, 0, 0, 0⟩, 0, 1⟩
abbrev R.STOR_CNT_A : RegKey := ⟨.STOR_CNT_A, 0, 0, 0⟩
abbrev F.STOR_CNT_A_RETRY : Field := ⟨⟨.STOR_CNT_A, 0, 0, 0⟩, 16, 16⟩
abbrev F.STOR_CNT_A_TMO : Field := ⟨⟨.STOR_CNT_A, 0, 0, 0⟩, 0, 16⟩
abbrev R.STOR_CNT_B : RegKey := ⟨.STOR_CNT_B, 0, 0, 0⟩
abbrev F.STOR_CNT_B_APDROP : Field := ⟨⟨.STOR_CNT_B, 0, 0, 0⟩, 22, 10⟩
abbrev F.STOR_CNT_B_LATE_ERR : Field := ⟨⟨.STOR_CNT_B, 0, 0, 0⟩, 11, 11⟩
abbrev F.STOR_CNT_B_LATE : Field := ⟨⟨.STOR_CNT_B, 0, 0, 0⟩, 0, 11⟩
abbrev R.LINE_PHY : RegKey := ⟨.LINE_PHY, 0, 0, 0⟩
abbrev F.LINE_PHY_ST : Field := ⟨⟨.LINE_PHY, 0, 0, 0⟩, 4, 2⟩
abbrev F.LINE_PHY_MODE : Field := ⟨⟨.LINE_PHY, 0, 0, 0⟩, 0, 2⟩
abbrev R.LINE_MAC_LO : RegKey := ⟨.LINE_MAC_LO, 0, 0, 0⟩
abbrev F.LINE_MAC_LO_MAC : Field := ⟨⟨.LINE_MAC_LO, 0, 0, 0⟩, 0, 32⟩
abbrev R.LINE_MAC_HI : RegKey := ⟨.LINE_MAC_HI, 0, 0, 0⟩
abbrev F.LINE_MAC_HI_MAC : Field := ⟨⟨.LINE_MAC_HI, 0, 0, 0⟩, 0, 16⟩
abbrev R.LINE_IP4 : RegKey := ⟨.LINE_IP4, 0, 0, 0⟩
abbrev F.LINE_IP4_ADDR : Field := ⟨⟨.LINE_IP4, 0, 0, 0⟩, 0, 32⟩
abbrev R.LINE_GW4 : RegKey := ⟨.LINE_GW4, 0, 0, 0⟩
abbrev F.LINE_GW4_ADDR : Field := ⟨⟨.LINE_GW4, 0, 0, 0⟩, 0, 32⟩
abbrev R.LINE_UDP : RegKey := ⟨.LINE_UDP, 0, 0, 0⟩
abbrev F.LINE_UDP_PORT : Field := ⟨⟨.LINE_UDP, 0, 0, 0⟩, 0, 16⟩
abbrev R.LINE_IP6 (i : Nat) : RegKey := ⟨.LINE_IP6, 0, i, 0⟩
abbrev F.LINE_IP6_W (i : Nat) : Field := ⟨⟨.LINE_IP6, 0, i, 0⟩, 0, 32⟩
abbrev R.LINE_GW6 (i : Nat) : RegKey := ⟨.LINE_GW6, 0, i, 0⟩
abbrev F.LINE_GW6_W (i : Nat) : Field := ⟨⟨.LINE_GW6, 0, i, 0⟩, 0, 32⟩
abbrev R.LINE_HLP : RegKey := ⟨.LINE_HLP, 0, 0, 0⟩
abbrev F.LINE_HLP_TRIES : Field := ⟨⟨.LINE_HLP, 0, 0, 0⟩, 28, 4⟩
abbrev F.LINE_HLP_RTO : Field := ⟨⟨.LINE_HLP, 0, 0, 0⟩, 0, 20⟩
abbrev R.LINE_UTMO : RegKey := ⟨.LINE_UTMO, 0, 0, 0⟩
abbrev F.LINE_UTMO_UTMO : Field := ⟨⟨.LINE_UTMO, 0, 0, 0⟩, 0, 24⟩
abbrev R.LINE_STAT : RegKey := ⟨.LINE_STAT, 0, 0, 0⟩
abbrev F.LINE_STAT_TMO : Field := ⟨⟨.LINE_STAT, 0, 0, 0⟩, 1, 1⟩
abbrev F.LINE_STAT_BUDGET : Field := ⟨⟨.LINE_STAT, 0, 0, 0⟩, 0, 1⟩
abbrev R.LINE_CNT : RegKey := ⟨.LINE_CNT, 0, 0, 0⟩
abbrev F.LINE_CNT_LATE : Field := ⟨⟨.LINE_CNT, 0, 0, 0⟩, 24, 8⟩
abbrev F.LINE_CNT_EXPIRED : Field := ⟨⟨.LINE_CNT, 0, 0, 0⟩, 16, 8⟩
abbrev F.LINE_CNT_BUSY : Field := ⟨⟨.LINE_CNT, 0, 0, 0⟩, 8, 8⟩
abbrev F.LINE_CNT_BADHDR : Field := ⟨⟨.LINE_CNT, 0, 0, 0⟩, 0, 8⟩
abbrev R.LINE_CNT_A : RegKey := ⟨.LINE_CNT_A, 0, 0, 0⟩
abbrev F.LINE_CNT_A_RETX : Field := ⟨⟨.LINE_CNT_A, 0, 0, 0⟩, 16, 16⟩
abbrev F.LINE_CNT_A_DUP : Field := ⟨⟨.LINE_CNT_A, 0, 0, 0⟩, 0, 16⟩
abbrev R.LINE_SESS_CTL (i : Nat) : RegKey := ⟨.LINE_SESS_CTL, 0, i, 0⟩
abbrev F.LINE_SESS_CTL_VALID (i : Nat) : Field := ⟨⟨.LINE_SESS_CTL, 0, i, 0⟩, 31, 1⟩
abbrev F.LINE_SESS_CTL_V6 (i : Nat) : Field := ⟨⟨.LINE_SESS_CTL, 0, i, 0⟩, 30, 1⟩
abbrev F.LINE_SESS_CTL_REC (i : Nat) : Field := ⟨⟨.LINE_SESS_CTL, 0, i, 0⟩, 29, 1⟩
abbrev F.LINE_SESS_CTL_NOTE (i : Nat) : Field := ⟨⟨.LINE_SESS_CTL, 0, i, 0⟩, 28, 1⟩
abbrev F.LINE_SESS_CTL_OUT (i : Nat) : Field := ⟨⟨.LINE_SESS_CTL, 0, i, 0⟩, 0, 7⟩
abbrev R.LINE_SESS_NEXT (i : Nat) : RegKey := ⟨.LINE_SESS_NEXT, 0, i, 0⟩
abbrev F.LINE_SESS_NEXT_N (i : Nat) : Field := ⟨⟨.LINE_SESS_NEXT, 0, i, 0⟩, 0, 32⟩
abbrev R.LINE_SESS_CTO (i : Nat) : RegKey := ⟨.LINE_SESS_CTO, 0, i, 0⟩
abbrev F.LINE_SESS_CTO_CTO_S (i : Nat) : Field := ⟨⟨.LINE_SESS_CTO, 0, i, 0⟩, 0, 32⟩
abbrev R.LINE_SESS_SPORT (i : Nat) : RegKey := ⟨.LINE_SESS_SPORT, 0, i, 0⟩
abbrev F.LINE_SESS_SPORT_PORT (i : Nat) : Field := ⟨⟨.LINE_SESS_SPORT, 0, i, 0⟩, 0, 16⟩
abbrev R.LINE_SESS_ADDR (i j : Nat) : RegKey := ⟨.LINE_SESS_ADDR, 0, i, j⟩
abbrev F.LINE_SESS_ADDR_W (i j : Nat) : Field := ⟨⟨.LINE_SESS_ADDR, 0, i, j⟩, 0, 32⟩
abbrev R.PEER_CFG : RegKey := ⟨.PEER_CFG, 0, 0, 0⟩
abbrev F.PEER_CFG_HOFF_RX : Field := ⟨⟨.PEER_CFG, 0, 0, 0⟩, 4, 1⟩
abbrev F.PEER_CFG_PCMD_W : Field := ⟨⟨.PEER_CFG, 0, 0, 0⟩, 3, 1⟩
abbrev F.PEER_CFG_PCMD_E : Field := ⟨⟨.PEER_CFG, 0, 0, 0⟩, 2, 1⟩
abbrev F.PEER_CFG_EN_W : Field := ⟨⟨.PEER_CFG, 0, 0, 0⟩, 1, 1⟩
abbrev F.PEER_CFG_EN_E : Field := ⟨⟨.PEER_CFG, 0, 0, 0⟩, 0, 1⟩
abbrev R.PEER_STAT : RegKey := ⟨.PEER_STAT, 0, 0, 0⟩
abbrev F.PEER_STAT_LINK_W : Field := ⟨⟨.PEER_STAT, 0, 0, 0⟩, 3, 1⟩
abbrev F.PEER_STAT_LINK_E : Field := ⟨⟨.PEER_STAT, 0, 0, 0⟩, 2, 1⟩
abbrev F.PEER_STAT_CRC_W : Field := ⟨⟨.PEER_STAT, 0, 0, 0⟩, 1, 1⟩
abbrev F.PEER_STAT_CRC_E : Field := ⟨⟨.PEER_STAT, 0, 0, 0⟩, 0, 1⟩
abbrev R.PEER_CNT : RegKey := ⟨.PEER_CNT, 0, 0, 0⟩
abbrev F.PEER_CNT_LATE : Field := ⟨⟨.PEER_CNT, 0, 0, 0⟩, 24, 8⟩
abbrev F.PEER_CNT_PCMD_IGN : Field := ⟨⟨.PEER_CNT, 0, 0, 0⟩, 16, 8⟩
abbrev F.PEER_CNT_CRC_W : Field := ⟨⟨.PEER_CNT, 0, 0, 0⟩, 8, 8⟩
abbrev F.PEER_CNT_CRC_E : Field := ⟨⟨.PEER_CNT, 0, 0, 0⟩, 0, 8⟩
abbrev R.PEER_HOFF : RegKey := ⟨.PEER_HOFF, 0, 0, 0⟩
abbrev F.PEER_HOFF_TMO : Field := ⟨⟨.PEER_HOFF, 0, 0, 0⟩, 0, 24⟩
abbrev R.PEER_HTX : RegKey := ⟨.PEER_HTX, 0, 0, 0⟩
abbrev F.PEER_HTX_GO : Field := ⟨⟨.PEER_HTX, 0, 0, 0⟩, 31, 1⟩
abbrev F.PEER_HTX_LINK : Field := ⟨⟨.PEER_HTX, 0, 0, 0⟩, 30, 1⟩
abbrev F.PEER_HTX_OFS : Field := ⟨⟨.PEER_HTX, 0, 0, 0⟩, 0, 16⟩
abbrev R.PEER_HLEN : RegKey := ⟨.PEER_HLEN, 0, 0, 0⟩
abbrev F.PEER_HLEN_LEN : Field := ⟨⟨.PEER_HLEN, 0, 0, 0⟩, 0, 17⟩
abbrev R.PEER_HSTAT : RegKey := ⟨.PEER_HSTAT, 0, 0, 0⟩
abbrev F.PEER_HSTAT_ST : Field := ⟨⟨.PEER_HSTAT, 0, 0, 0⟩, 30, 2⟩
abbrev F.PEER_HSTAT_OUT : Field := ⟨⟨.PEER_HSTAT, 0, 0, 0⟩, 0, 8⟩
abbrev R.PEER_PARG (i : Nat) : RegKey := ⟨.PEER_PARG, 0, i, 0⟩
abbrev F.PEER_PARG_ARG (i : Nat) : Field := ⟨⟨.PEER_PARG, 0, i, 0⟩, 0, 32⟩
abbrev R.SVC_UART : RegKey := ⟨.SVC_UART, 0, 0, 0⟩
abbrev F.SVC_UART_BAUD : Field := ⟨⟨.SVC_UART, 0, 0, 0⟩, 0, 2⟩
abbrev R.SVC_STAT : RegKey := ⟨.SVC_STAT, 0, 0, 0⟩
abbrev F.SVC_STAT_BSREF : Field := ⟨⟨.SVC_STAT, 0, 0, 0⟩, 2, 1⟩
abbrev F.SVC_STAT_SLIPERR : Field := ⟨⟨.SVC_STAT, 0, 0, 0⟩, 1, 1⟩
abbrev F.SVC_STAT_SESS : Field := ⟨⟨.SVC_STAT, 0, 0, 0⟩, 0, 1⟩
abbrev R.BOOT_STAT : RegKey := ⟨.BOOT_STAT, 0, 0, 0⟩
abbrev F.BOOT_STAT_DONE : Field := ⟨⟨.BOOT_STAT, 0, 0, 0⟩, 31, 1⟩
abbrev F.BOOT_STAT_REC : Field := ⟨⟨.BOOT_STAT, 0, 0, 0⟩, 30, 1⟩
abbrev F.BOOT_STAT_SLOT : Field := ⟨⟨.BOOT_STAT, 0, 0, 0⟩, 29, 1⟩
abbrev F.BOOT_STAT_CODE_B : Field := ⟨⟨.BOOT_STAT, 0, 0, 0⟩, 8, 4⟩
abbrev F.BOOT_STAT_CODE_A : Field := ⟨⟨.BOOT_STAT, 0, 0, 0⟩, 0, 4⟩
abbrev R.BOOT_APPERR : RegKey := ⟨.BOOT_APPERR, 0, 0, 0⟩
abbrev F.BOOT_APPERR_FIRST : Field := ⟨⟨.BOOT_APPERR, 0, 0, 0⟩, 16, 16⟩
abbrev F.BOOT_APPERR_N : Field := ⟨⟨.BOOT_APPERR, 0, 0, 0⟩, 0, 16⟩
abbrev R.BOOT_SLOT_ST (i : Nat) : RegKey := ⟨.BOOT_SLOT_ST, 0, i, 0⟩
abbrev F.BOOT_SLOT_ST_STATE (i : Nat) : Field := ⟨⟨.BOOT_SLOT_ST, 0, i, 0⟩, 24, 8⟩
abbrev R.BOOT_SLOT_PLT_LO (i : Nat) : RegKey := ⟨.BOOT_SLOT_PLT_LO, 0, i, 0⟩
abbrev F.BOOT_SLOT_PLT_LO_PLT (i : Nat) : Field := ⟨⟨.BOOT_SLOT_PLT_LO, 0, i, 0⟩, 0, 32⟩
abbrev R.BOOT_SLOT_PLT_HI (i : Nat) : RegKey := ⟨.BOOT_SLOT_PLT_HI, 0, i, 0⟩
abbrev F.BOOT_SLOT_PLT_HI_PLT (i : Nat) : Field := ⟨⟨.BOOT_SLOT_PLT_HI, 0, i, 0⟩, 0, 32⟩
abbrev R.BOOT_CMD : RegKey := ⟨.BOOT_CMD, 0, 0, 0⟩
abbrev F.BOOT_CMD_OP : Field := ⟨⟨.BOOT_CMD, 0, 0, 0⟩, 0, 4⟩
abbrev R.BOOT_ARG0 : RegKey := ⟨.BOOT_ARG0, 0, 0, 0⟩
abbrev F.BOOT_ARG0_ARG : Field := ⟨⟨.BOOT_ARG0, 0, 0, 0⟩, 0, 32⟩
abbrev R.BOOT_ARG1 : RegKey := ⟨.BOOT_ARG1, 0, 0, 0⟩
abbrev F.BOOT_ARG1_ARG : Field := ⟨⟨.BOOT_ARG1, 0, 0, 0⟩, 0, 32⟩
abbrev R.BOOT_ARG2 : RegKey := ⟨.BOOT_ARG2, 0, 0, 0⟩
abbrev F.BOOT_ARG2_ARG : Field := ⟨⟨.BOOT_ARG2, 0, 0, 0⟩, 0, 32⟩
abbrev R.BOOT_USTAT : RegKey := ⟨.BOOT_USTAT, 0, 0, 0⟩
abbrev F.BOOT_USTAT_ST : Field := ⟨⟨.BOOT_USTAT, 0, 0, 0⟩, 30, 2⟩
abbrev F.BOOT_USTAT_OUT : Field := ⟨⟨.BOOT_USTAT, 0, 0, 0⟩, 0, 8⟩
abbrev R.BOOT_PATCH : RegKey := ⟨.BOOT_PATCH, 0, 0, 0⟩
abbrev F.BOOT_PATCH_PVER : Field := ⟨⟨.BOOT_PATCH, 0, 0, 0⟩, 16, 16⟩
abbrev F.BOOT_PATCH_ROMID : Field := ⟨⟨.BOOT_PATCH, 0, 0, 0⟩, 0, 16⟩
abbrev R.MEM_FRZ : RegKey := ⟨.MEM_FRZ, 0, 0, 0⟩
abbrev F.MEM_FRZ_M : Field := ⟨⟨.MEM_FRZ, 0, 0, 0⟩, 0, 16⟩
abbrev R.MEM_FRZREL : RegKey := ⟨.MEM_FRZREL, 0, 0, 0⟩
abbrev F.MEM_FRZREL_M : Field := ⟨⟨.MEM_FRZREL, 0, 0, 0⟩, 0, 16⟩
abbrev R.MEM_FRZLOG_LO : RegKey := ⟨.MEM_FRZLOG_LO, 0, 0, 0⟩
abbrev F.MEM_FRZLOG_LO_ADDR : Field := ⟨⟨.MEM_FRZLOG_LO, 0, 0, 0⟩, 0, 32⟩
abbrev R.MEM_FRZLOG_HI : RegKey := ⟨.MEM_FRZLOG_HI, 0, 0, 0⟩
abbrev F.MEM_FRZLOG_HI_MASTER : Field := ⟨⟨.MEM_FRZLOG_HI, 0, 0, 0⟩, 28, 4⟩
abbrev F.MEM_FRZLOG_HI_WR : Field := ⟨⟨.MEM_FRZLOG_HI, 0, 0, 0⟩, 27, 1⟩
abbrev F.MEM_FRZLOG_HI_AUTH : Field := ⟨⟨.MEM_FRZLOG_HI, 0, 0, 0⟩, 26, 1⟩
abbrev F.MEM_FRZLOG_HI_ADDR : Field := ⟨⟨.MEM_FRZLOG_HI, 0, 0, 0⟩, 0, 8⟩
abbrev R.MEM_COLL : RegKey := ⟨.MEM_COLL, 0, 0, 0⟩
abbrev F.MEM_COLL_COUNT : Field := ⟨⟨.MEM_COLL, 0, 0, 0⟩, 16, 16⟩
abbrev F.MEM_COLL_WINNER : Field := ⟨⟨.MEM_COLL, 0, 0, 0⟩, 12, 4⟩
abbrev F.MEM_COLL_LOSER : Field := ⟨⟨.MEM_COLL, 0, 0, 0⟩, 8, 4⟩
abbrev F.MEM_COLL_ADDR : Field := ⟨⟨.MEM_COLL, 0, 0, 0⟩, 0, 8⟩
abbrev R.MEM_COLLA : RegKey := ⟨.MEM_COLLA, 0, 0, 0⟩
abbrev F.MEM_COLLA_ADDR : Field := ⟨⟨.MEM_COLLA, 0, 0, 0⟩, 0, 32⟩
abbrev R.MEM_ECCCNT : RegKey := ⟨.MEM_ECCCNT, 0, 0, 0⟩
abbrev F.MEM_ECCCNT_UE : Field := ⟨⟨.MEM_ECCCNT, 0, 0, 0⟩, 16, 16⟩
abbrev F.MEM_ECCCNT_CE : Field := ⟨⟨.MEM_ECCCNT, 0, 0, 0⟩, 0, 16⟩
abbrev R.MEM_ECCA_LO : RegKey := ⟨.MEM_ECCA_LO, 0, 0, 0⟩
abbrev F.MEM_ECCA_LO_ADDR : Field := ⟨⟨.MEM_ECCA_LO, 0, 0, 0⟩, 0, 32⟩
abbrev R.MEM_ECCA_HI : RegKey := ⟨.MEM_ECCA_HI, 0, 0, 0⟩
abbrev F.MEM_ECCA_HI_UE : Field := ⟨⟨.MEM_ECCA_HI, 0, 0, 0⟩, 31, 1⟩
abbrev F.MEM_ECCA_HI_COPY : Field := ⟨⟨.MEM_ECCA_HI, 0, 0, 0⟩, 20, 5⟩
abbrev F.MEM_ECCA_HI_SYN : Field := ⟨⟨.MEM_ECCA_HI, 0, 0, 0⟩, 8, 8⟩
abbrev F.MEM_ECCA_HI_ADDR : Field := ⟨⟨.MEM_ECCA_HI, 0, 0, 0⟩, 0, 8⟩
abbrev R.MEM_SCRUB : RegKey := ⟨.MEM_SCRUB, 0, 0, 0⟩
abbrev F.MEM_SCRUB_CETH : Field := ⟨⟨.MEM_SCRUB, 0, 0, 0⟩, 24, 8⟩
abbrev F.MEM_SCRUB_PERIOD : Field := ⟨⟨.MEM_SCRUB, 0, 0, 0⟩, 0, 24⟩
abbrev R.MEM_SCRUBST : RegKey := ⟨.MEM_SCRUBST, 0, 0, 0⟩
abbrev F.MEM_SCRUBST_PASSES : Field := ⟨⟨.MEM_SCRUBST, 0, 0, 0⟩, 16, 16⟩
abbrev F.MEM_SCRUBST_LASTCE : Field := ⟨⟨.MEM_SCRUBST, 0, 0, 0⟩, 0, 16⟩
abbrev R.MEM_STARVE : RegKey := ⟨.MEM_STARVE, 0, 0, 0⟩
abbrev F.MEM_STARVE_N : Field := ⟨⟨.MEM_STARVE, 0, 0, 0⟩, 16, 16⟩
abbrev F.MEM_STARVE_MASTER : Field := ⟨⟨.MEM_STARVE, 0, 0, 0⟩, 0, 4⟩
abbrev R.MEM_WIN_BASE (i j : Nat) : RegKey := ⟨.MEM_WIN_BASE, 0, i, j⟩
abbrev F.MEM_WIN_BASE_BASE (i j : Nat) : Field := ⟨⟨.MEM_WIN_BASE, 0, i, j⟩, 0, 28⟩
abbrev R.MEM_WIN_SIZE (i j : Nat) : RegKey := ⟨.MEM_WIN_SIZE, 0, i, j⟩
abbrev F.MEM_WIN_SIZE_SIZE (i j : Nat) : Field := ⟨⟨.MEM_WIN_SIZE, 0, i, j⟩, 0, 29⟩
abbrev R.MEM_WIN_PERM (i j : Nat) : RegKey := ⟨.MEM_WIN_PERM, 0, i, j⟩
abbrev F.MEM_WIN_PERM_W (i j : Nat) : Field := ⟨⟨.MEM_WIN_PERM, 0, i, j⟩, 1, 1⟩
abbrev F.MEM_WIN_PERM_R (i j : Nat) : Field := ⟨⟨.MEM_WIN_PERM, 0, i, j⟩, 0, 1⟩
abbrev R.MON_TEMP (i : Nat) : RegKey := ⟨.MON_TEMP, 0, i, 0⟩
abbrev F.MON_TEMP_VALID (i : Nat) : Field := ⟨⟨.MON_TEMP, 0, i, 0⟩, 31, 1⟩
abbrev F.MON_TEMP_T (i : Nat) : Field := ⟨⟨.MON_TEMP, 0, i, 0⟩, 0, 16⟩
abbrev R.MON_TLIM : RegKey := ⟨.MON_TLIM, 0, 0, 0⟩
abbrev F.MON_TLIM_TCRIT : Field := ⟨⟨.MON_TLIM, 0, 0, 0⟩, 16, 16⟩
abbrev F.MON_TLIM_TWARN : Field := ⟨⟨.MON_TLIM, 0, 0, 0⟩, 0, 16⟩
abbrev R.MON_RAIL (i : Nat) : RegKey := ⟨.MON_RAIL, 0, i, 0⟩
abbrev F.MON_RAIL_V (i : Nat) : Field := ⟨⟨.MON_RAIL, 0, i, 0⟩, 0, 16⟩
abbrev R.MON_RWIN (i : Nat) : RegKey := ⟨.MON_RWIN, 0, i, 0⟩
abbrev F.MON_RWIN_HI (i : Nat) : Field := ⟨⟨.MON_RWIN, 0, i, 0⟩, 16, 16⟩
abbrev F.MON_RWIN_LO (i : Nat) : Field := ⟨⟨.MON_RWIN, 0, i, 0⟩, 0, 16⟩
abbrev R.MON_PROC (i : Nat) : RegKey := ⟨.MON_PROC, 0, i, 0⟩
abbrev F.MON_PROC_N (i : Nat) : Field := ⟨⟨.MON_PROC, 0, i, 0⟩, 0, 24⟩
abbrev R.MON_AGE (i : Nat) : RegKey := ⟨.MON_AGE, 0, i, 0⟩
abbrev F.MON_AGE_PPM (i : Nat) : Field := ⟨⟨.MON_AGE, 0, i, 0⟩, 0, 32⟩
abbrev R.MON_AGEWARN : RegKey := ⟨.MON_AGEWARN, 0, 0, 0⟩
abbrev F.MON_AGEWARN_PPM : Field := ⟨⟨.MON_AGEWARN, 0, 0, 0⟩, 0, 32⟩
abbrev R.MON_LIFE_LO : RegKey := ⟨.MON_LIFE_LO, 0, 0, 0⟩
abbrev F.MON_LIFE_LO_S : Field := ⟨⟨.MON_LIFE_LO, 0, 0, 0⟩, 0, 32⟩
abbrev R.MON_LIFE_HI : RegKey := ⟨.MON_LIFE_HI, 0, 0, 0⟩
abbrev F.MON_LIFE_HI_S : Field := ⟨⟨.MON_LIFE_HI, 0, 0, 0⟩, 0, 32⟩
abbrev R.CAL_CTL : RegKey := ⟨.CAL_CTL, 0, 0, 0⟩
abbrev F.CAL_CTL_FORCE : Field := ⟨⟨.CAL_CTL, 0, 0, 0⟩, 8, 1⟩
abbrev F.CAL_CTL_AUTOSWAP : Field := ⟨⟨.CAL_CTL, 0, 0, 0⟩, 1, 1⟩
abbrev F.CAL_CTL_AUTO : Field := ⟨⟨.CAL_CTL, 0, 0, 0⟩, 0, 1⟩
abbrev R.CAL_NOSET (i : Nat) : RegKey := ⟨.CAL_NOSET, 0, i, 0⟩
abbrev F.CAL_NOSET_CH (i : Nat) : Field := ⟨⟨.CAL_NOSET, 0, i, 0⟩, 0, 32⟩
abbrev R.CAL_RMAP : RegKey := ⟨.CAL_RMAP, 0, 0, 0⟩
abbrev F.CAL_RMAP_GO : Field := ⟨⟨.CAL_RMAP, 0, 0, 0⟩, 31, 1⟩
abbrev F.CAL_RMAP_CORE : Field := ⟨⟨.CAL_RMAP, 0, 0, 0⟩, 16, 7⟩
abbrev F.CAL_RMAP_CH : Field := ⟨⟨.CAL_RMAP, 0, 0, 0⟩, 0, 6⟩
abbrev R.CAL_RMB_LO : RegKey := ⟨.CAL_RMB_LO, 0, 0, 0⟩
abbrev F.CAL_RMB_LO_BEAT : Field := ⟨⟨.CAL_RMB_LO, 0, 0, 0⟩, 0, 32⟩
abbrev R.CAL_RMB_HI : RegKey := ⟨.CAL_RMB_HI, 0, 0, 0⟩
abbrev F.CAL_RMB_HI_BEAT : Field := ⟨⟨.CAL_RMB_HI, 0, 0, 0⟩, 0, 32⟩
abbrev R.CAL_RMST : RegKey := ⟨.CAL_RMST, 0, 0, 0⟩
abbrev F.CAL_RMST_ST : Field := ⟨⟨.CAL_RMST, 0, 0, 0⟩, 30, 2⟩
abbrev F.CAL_RMST_OUT : Field := ⟨⟨.CAL_RMST, 0, 0, 0⟩, 0, 8⟩
abbrev R.CAL_SUSPECT (i : Nat) : RegKey := ⟨.CAL_SUSPECT, 0, i, 0⟩
abbrev F.CAL_SUSPECT_CORE (i : Nat) : Field := ⟨⟨.CAL_SUSPECT, 0, i, 0⟩, 0, 32⟩
abbrev R.CAL_HCTL : RegKey := ⟨.CAL_HCTL, 0, 0, 0⟩
abbrev F.CAL_HCTL_OP : Field := ⟨⟨.CAL_HCTL, 0, 0, 0⟩, 0, 3⟩
abbrev R.CAL_HB_LO : RegKey := ⟨.CAL_HB_LO, 0, 0, 0⟩
abbrev F.CAL_HB_LO_BEAT : Field := ⟨⟨.CAL_HB_LO, 0, 0, 0⟩, 0, 32⟩
abbrev R.CAL_HB_HI : RegKey := ⟨.CAL_HB_HI, 0, 0, 0⟩
abbrev F.CAL_HB_HI_BEAT : Field := ⟨⟨.CAL_HB_HI, 0, 0, 0⟩, 0, 32⟩
abbrev R.CAL_HSTAT : RegKey := ⟨.CAL_HSTAT, 0, 0, 0⟩
abbrev F.CAL_HSTAT_ST : Field := ⟨⟨.CAL_HSTAT, 0, 0, 0⟩, 29, 3⟩
abbrev F.CAL_HSTAT_DEV : Field := ⟨⟨.CAL_HSTAT, 0, 0, 0⟩, 16, 12⟩
abbrev F.CAL_HSTAT_OUT : Field := ⟨⟨.CAL_HSTAT, 0, 0, 0⟩, 0, 8⟩
abbrev R.CAL_CH_LOOPT (i : Nat) : RegKey := ⟨.CAL_CH_LOOPT, 0, i, 0⟩
abbrev F.CAL_CH_LOOPT_SETO (i : Nat) : Field := ⟨⟨.CAL_CH_LOOPT, 0, i, 0⟩, 16, 12⟩
abbrev F.CAL_CH_LOOPT_SETG (i : Nat) : Field := ⟨⟨.CAL_CH_LOOPT, 0, i, 0⟩, 0, 12⟩
abbrev R.CAL_CH_MISC (i : Nat) : RegKey := ⟨.CAL_CH_MISC, 0, i, 0⟩
abbrev F.CAL_CH_MISC_PWN (i : Nat) : Field := ⟨⟨.CAL_CH_MISC, 0, i, 0⟩, 24, 8⟩
abbrev F.CAL_CH_MISC_PWP (i : Nat) : Field := ⟨⟨.CAL_CH_MISC, 0, i, 0⟩, 16, 8⟩
abbrev F.CAL_CH_MISC_VLO (i : Nat) : Field := ⟨⟨.CAL_CH_MISC, 0, i, 0⟩, 0, 10⟩
abbrev R.CAL_CH_CMPA (i : Nat) : RegKey := ⟨.CAL_CH_CMPA, 0, i, 0⟩
abbrev F.CAL_CH_CMPA_T (i : Nat) : Field := ⟨⟨.CAL_CH_CMPA, 0, i, 0⟩, 20, 10⟩
abbrev F.CAL_CH_CMPA_I (i : Nat) : Field := ⟨⟨.CAL_CH_CMPA, 0, i, 0⟩, 10, 10⟩
abbrev F.CAL_CH_CMPA_V (i : Nat) : Field := ⟨⟨.CAL_CH_CMPA, 0, i, 0⟩, 0, 10⟩
abbrev R.CAL_CH_CMPB (i : Nat) : RegKey := ⟨.CAL_CH_CMPB, 0, i, 0⟩
abbrev F.CAL_CH_CMPB_T (i : Nat) : Field := ⟨⟨.CAL_CH_CMPB, 0, i, 0⟩, 20, 10⟩
abbrev F.CAL_CH_CMPB_I (i : Nat) : Field := ⟨⟨.CAL_CH_CMPB, 0, i, 0⟩, 10, 10⟩
abbrev F.CAL_CH_CMPB_V (i : Nat) : Field := ⟨⟨.CAL_CH_CMPB, 0, i, 0⟩, 0, 10⟩
abbrev R.CAL_CH_RAMP (i : Nat) : RegKey := ⟨.CAL_CH_RAMP, 0, i, 0⟩
abbrev F.CAL_CH_RAMP_B (i : Nat) : Field := ⟨⟨.CAL_CH_RAMP, 0, i, 0⟩, 16, 12⟩
abbrev F.CAL_CH_RAMP_A (i : Nat) : Field := ⟨⟨.CAL_CH_RAMP, 0, i, 0⟩, 0, 12⟩
abbrev R.CAL_CH_CORR (i : Nat) : RegKey := ⟨.CAL_CH_CORR, 0, i, 0⟩
abbrev F.CAL_CH_CORR_RAMP (i : Nat) : Field := ⟨⟨.CAL_CH_CORR, 0, i, 0⟩, 18, 6⟩
abbrev F.CAL_CH_CORR_T (i : Nat) : Field := ⟨⟨.CAL_CH_CORR, 0, i, 0⟩, 12, 6⟩
abbrev F.CAL_CH_CORR_I (i : Nat) : Field := ⟨⟨.CAL_CH_CORR, 0, i, 0⟩, 6, 6⟩
abbrev F.CAL_CH_CORR_V (i : Nat) : Field := ⟨⟨.CAL_CH_CORR, 0, i, 0⟩, 0, 6⟩
abbrev R.CAL_CH_TUSED (i : Nat) : RegKey := ⟨.CAL_CH_TUSED, 0, i, 0⟩
abbrev F.CAL_CH_TUSED_VALID (i : Nat) : Field := ⟨⟨.CAL_CH_TUSED, 0, i, 0⟩, 31, 1⟩
abbrev F.CAL_CH_TUSED_SENS (i : Nat) : Field := ⟨⟨.CAL_CH_TUSED, 0, i, 0⟩, 16, 5⟩
abbrev F.CAL_CH_TUSED_T (i : Nat) : Field := ⟨⟨.CAL_CH_TUSED, 0, i, 0⟩, 0, 16⟩
abbrev R.CAL_CH_TST (i : Nat) : RegKey := ⟨.CAL_CH_TST, 0, i, 0⟩
abbrev F.CAL_CH_TST_APPLY (i : Nat) : Field := ⟨⟨.CAL_CH_TST, 0, i, 0⟩, 8, 1⟩
abbrev F.CAL_CH_TST_CTXLOST (i : Nat) : Field := ⟨⟨.CAL_CH_TST, 0, i, 0⟩, 6, 1⟩
abbrev F.CAL_CH_TST_SWAPPED (i : Nat) : Field := ⟨⟨.CAL_CH_TST, 0, i, 0⟩, 5, 1⟩
abbrev F.CAL_CH_TST_PEND (i : Nat) : Field := ⟨⟨.CAL_CH_TST, 0, i, 0⟩, 4, 1⟩
abbrev F.CAL_CH_TST_SERVO_LIM (i : Nat) : Field := ⟨⟨.CAL_CH_TST, 0, i, 0⟩, 3, 1⟩
abbrev F.CAL_CH_TST_LIMIT (i : Nat) : Field := ⟨⟨.CAL_CH_TST, 0, i, 0⟩, 2, 1⟩
abbrev F.CAL_CH_TST_SENSOR_BAD (i : Nat) : Field := ⟨⟨.CAL_CH_TST, 0, i, 0⟩, 1, 1⟩
abbrev F.CAL_CH_TST_NOSET (i : Nat) : Field := ⟨⟨.CAL_CH_TST, 0, i, 0⟩, 0, 1⟩
abbrev R.PWR_RSTCAUSE : RegKey := ⟨.PWR_RSTCAUSE, 0, 0, 0⟩
abbrev F.PWR_RSTCAUSE_NWARM : Field := ⟨⟨.PWR_RSTCAUSE, 0, 0, 0⟩, 16, 16⟩
abbrev F.PWR_RSTCAUSE_LAST : Field := ⟨⟨.PWR_RSTCAUSE, 0, 0, 0⟩, 0, 4⟩
abbrev R.PWR_CTL : RegKey := ⟨.PWR_CTL, 0, 0, 0⟩
abbrev F.PWR_CTL_REQ : Field := ⟨⟨.PWR_CTL, 0, 0, 0⟩, 0, 2⟩
abbrev R.PWR_STATE : RegKey := ⟨.PWR_STATE, 0, 0, 0⟩
abbrev F.PWR_STATE_ST : Field := ⟨⟨.PWR_STATE, 0, 0, 0⟩, 0, 2⟩
abbrev R.PWR_STAT : RegKey := ⟨.PWR_STAT, 0, 0, 0⟩
abbrev F.PWR_STAT_WDBAD : Field := ⟨⟨.PWR_STAT, 0, 0, 0⟩, 4, 1⟩
abbrev F.PWR_STAT_WDWARN : Field := ⟨⟨.PWR_STAT, 0, 0, 0⟩, 3, 1⟩
abbrev F.PWR_STAT_CREJ : Field := ⟨⟨.PWR_STAT, 0, 0, 0⟩, 2, 1⟩
abbrev F.PWR_STAT_HREJ : Field := ⟨⟨.PWR_STAT, 0, 0, 0⟩, 1, 1⟩
abbrev F.PWR_STAT_SREJ : Field := ⟨⟨.PWR_STAT, 0, 0, 0⟩, 0, 1⟩
abbrev R.PWR_PARK (i : Nat) : RegKey := ⟨.PWR_PARK, 0, i, 0⟩
abbrev F.PWR_PARK_PARK (i : Nat) : Field := ⟨⟨.PWR_PARK, 0, i, 0⟩, 0, 32⟩
abbrev R.PWR_PARKED (i : Nat) : RegKey := ⟨.PWR_PARKED, 0, i, 0⟩
abbrev F.PWR_PARKED_PARKED (i : Nat) : Field := ⟨⟨.PWR_PARKED, 0, i, 0⟩, 0, 32⟩
abbrev R.PWR_CORERST : RegKey := ⟨.PWR_CORERST, 0, 0, 0⟩
abbrev F.PWR_CORERST_GO : Field := ⟨⟨.PWR_CORERST, 0, 0, 0⟩, 31, 1⟩
abbrev F.PWR_CORERST_CORE : Field := ⟨⟨.PWR_CORERST, 0, 0, 0⟩, 0, 7⟩
abbrev R.PWR_WDOG : RegKey := ⟨.PWR_WDOG, 0, 0, 0⟩
abbrev F.PWR_WDOG_TMO : Field := ⟨⟨.PWR_WDOG, 0, 0, 0⟩, 0, 24⟩
abbrev R.PWR_WDKICK : RegKey := ⟨.PWR_WDKICK, 0, 0, 0⟩
abbrev F.PWR_WDKICK_KEY : Field := ⟨⟨.PWR_WDKICK, 0, 0, 0⟩, 0, 8⟩
abbrev R.PWR_WDCNT : RegKey := ⟨.PWR_WDCNT, 0, 0, 0⟩
abbrev F.PWR_WDCNT_REM : Field := ⟨⟨.PWR_WDCNT, 0, 0, 0⟩, 0, 24⟩
abbrev R.PWR_WAKE : RegKey := ⟨.PWR_WAKE, 0, 0, 0⟩
abbrev F.PWR_WAKE_TMR : Field := ⟨⟨.PWR_WAKE, 0, 0, 0⟩, 16, 1⟩
abbrev F.PWR_WAKE_EV : Field := ⟨⟨.PWR_WAKE, 0, 0, 0⟩, 0, 16⟩
abbrev R.PWR_HIBTMR : RegKey := ⟨.PWR_HIBTMR, 0, 0, 0⟩
abbrev F.PWR_HIBTMR_S : Field := ⟨⟨.PWR_HIBTMR, 0, 0, 0⟩, 0, 24⟩
abbrev R.PWR_HIBDUR : RegKey := ⟨.PWR_HIBDUR, 0, 0, 0⟩
abbrev F.PWR_HIBDUR_MS : Field := ⟨⟨.PWR_HIBDUR, 0, 0, 0⟩, 0, 32⟩
abbrev R.PWR_LOST : RegKey := ⟨.PWR_LOST, 0, 0, 0⟩
abbrev F.PWR_LOST_RET : Field := ⟨⟨.PWR_LOST, 0, 0, 0⟩, 6, 1⟩
abbrev F.PWR_LOST_LT : Field := ⟨⟨.PWR_LOST, 0, 0, 0⟩, 5, 1⟩
abbrev F.PWR_LOST_RING : Field := ⟨⟨.PWR_LOST, 0, 0, 0⟩, 4, 1⟩
abbrev F.PWR_LOST_SCR : Field := ⟨⟨.PWR_LOST, 0, 0, 0⟩, 3, 1⟩
abbrev F.PWR_LOST_FAIL : Field := ⟨⟨.PWR_LOST, 0, 0, 0⟩, 2, 1⟩
abbrev F.PWR_LOST_CAP : Field := ⟨⟨.PWR_LOST, 0, 0, 0⟩, 1, 1⟩
abbrev F.PWR_LOST_SEG : Field := ⟨⟨.PWR_LOST, 0, 0, 0⟩, 0, 1⟩
abbrev R.EVT_IN (i : Nat) : RegKey := ⟨.EVT_IN, 0, i, 0⟩
abbrev F.EVT_IN_DEB (i : Nat) : Field := ⟨⟨.EVT_IN, 0, i, 0⟩, 8, 8⟩
abbrev F.EVT_IN_IRQ (i : Nat) : Field := ⟨⟨.EVT_IN, 0, i, 0⟩, 3, 1⟩
abbrev F.EVT_IN_EDGE (i : Nat) : Field := ⟨⟨.EVT_IN, 0, i, 0⟩, 1, 2⟩
abbrev F.EVT_IN_EN (i : Nat) : Field := ⟨⟨.EVT_IN, 0, i, 0⟩, 0, 1⟩
abbrev R.EVT_AUX (i : Nat) : RegKey := ⟨.EVT_AUX, 0, i, 0⟩
abbrev F.EVT_AUX_EN (i : Nat) : Field := ⟨⟨.EVT_AUX, 0, i, 0⟩, 8, 1⟩
abbrev F.EVT_AUX_EDGE (i : Nat) : Field := ⟨⟨.EVT_AUX, 0, i, 0⟩, 4, 2⟩
abbrev F.EVT_AUX_IN (i : Nat) : Field := ⟨⟨.EVT_AUX, 0, i, 0⟩, 0, 4⟩
abbrev R.EVT_LVL : RegKey := ⟨.EVT_LVL, 0, 0, 0⟩
abbrev F.EVT_LVL_LVL : Field := ⟨⟨.EVT_LVL, 0, 0, 0⟩, 0, 16⟩
abbrev R.EVT_STAT : RegKey := ⟨.EVT_STAT, 0, 0, 0⟩
abbrev F.EVT_STAT_LOSS : Field := ⟨⟨.EVT_STAT, 0, 0, 0⟩, 0, 20⟩
abbrev R.EVT_TRIGOUT (i : Nat) : RegKey := ⟨.EVT_TRIGOUT, 0, i, 0⟩
abbrev F.EVT_TRIGOUT_EN (i : Nat) : Field := ⟨⟨.EVT_TRIGOUT, 0, i, 0⟩, 31, 1⟩
abbrev F.EVT_TRIGOUT_POL (i : Nat) : Field := ⟨⟨.EVT_TRIGOUT, 0, i, 0⟩, 30, 1⟩
abbrev F.EVT_TRIGOUT_CH (i : Nat) : Field := ⟨⟨.EVT_TRIGOUT, 0, i, 0⟩, 16, 6⟩
abbrev F.EVT_TRIGOUT_DLY (i : Nat) : Field := ⟨⟨.EVT_TRIGOUT, 0, i, 0⟩, 0, 16⟩
abbrev R.EVT_LAST_LO (i : Nat) : RegKey := ⟨.EVT_LAST_LO, 0, i, 0⟩
abbrev F.EVT_LAST_LO_CYC (i : Nat) : Field := ⟨⟨.EVT_LAST_LO, 0, i, 0⟩, 0, 32⟩
abbrev R.EVT_LAST_HI (i : Nat) : RegKey := ⟨.EVT_LAST_HI, 0, i, 0⟩
abbrev F.EVT_LAST_HI_CYC (i : Nat) : Field := ⟨⟨.EVT_LAST_HI, 0, i, 0⟩, 0, 32⟩
abbrev R.EVT_LAST_INFO (i : Nat) : RegKey := ⟨.EVT_LAST_INFO, 0, i, 0⟩
abbrev F.EVT_LAST_INFO_HOLD (i : Nat) : Field := ⟨⟨.EVT_LAST_INFO, 0, i, 0⟩, 9, 1⟩
abbrev F.EVT_LAST_INFO_FALL (i : Nat) : Field := ⟨⟨.EVT_LAST_INFO, 0, i, 0⟩, 8, 1⟩
abbrev F.EVT_LAST_INFO_SUB (i : Nat) : Field := ⟨⟨.EVT_LAST_INFO, 0, i, 0⟩, 0, 8⟩
abbrev R.EVT_LOST (i : Nat) : RegKey := ⟨.EVT_LOST, 0, i, 0⟩
abbrev F.EVT_LOST_L3 (i : Nat) : Field := ⟨⟨.EVT_LOST, 0, i, 0⟩, 24, 8⟩
abbrev F.EVT_LOST_L2 (i : Nat) : Field := ⟨⟨.EVT_LOST, 0, i, 0⟩, 16, 8⟩
abbrev F.EVT_LOST_L1 (i : Nat) : Field := ⟨⟨.EVT_LOST, 0, i, 0⟩, 8, 8⟩
abbrev F.EVT_LOST_L0 (i : Nat) : Field := ⟨⟨.EVT_LOST, 0, i, 0⟩, 0, 8⟩
abbrev R.EVT_XDLY (i : Nat) : RegKey := ⟨.EVT_XDLY, 0, i, 0⟩
abbrev F.EVT_XDLY_SUB (i : Nat) : Field := ⟨⟨.EVT_XDLY, 0, i, 0⟩, 0, 16⟩
abbrev R.SEC_ID : RegKey := ⟨.SEC_ID, 0, 0, 0⟩
abbrev F.SEC_ID_ROMID : Field := ⟨⟨.SEC_ID, 0, 0, 0⟩, 0, 16⟩
abbrev R.SEC_FUSE : RegKey := ⟨.SEC_FUSE, 0, 0, 0⟩
abbrev F.SEC_FUSE_PKEY : Field := ⟨⟨.SEC_FUSE, 0, 0, 0⟩, 16, 1⟩
abbrev F.SEC_FUSE_SVN : Field := ⟨⟨.SEC_FUSE, 0, 0, 0⟩, 8, 8⟩
abbrev F.SEC_FUSE_REVOKED : Field := ⟨⟨.SEC_FUSE, 0, 0, 0⟩, 4, 4⟩
abbrev F.SEC_FUSE_KEYSET : Field := ⟨⟨.SEC_FUSE, 0, 0, 0⟩, 0, 4⟩
abbrev R.SEC_CTL : RegKey := ⟨.SEC_CTL, 0, 0, 0⟩
abbrev F.SEC_CTL_OP : Field := ⟨⟨.SEC_CTL, 0, 0, 0⟩, 30, 2⟩
abbrev F.SEC_CTL_SLOT : Field := ⟨⟨.SEC_CTL, 0, 0, 0⟩, 28, 2⟩
abbrev F.SEC_CTL_OFS : Field := ⟨⟨.SEC_CTL, 0, 0, 0⟩, 0, 24⟩
abbrev R.SEC_ST : RegKey := ⟨.SEC_ST, 0, 0, 0⟩
abbrev F.SEC_ST_ST : Field := ⟨⟨.SEC_ST, 0, 0, 0⟩, 0, 32⟩
abbrev R.SEC_KEYHASH (i j : Nat) : RegKey := ⟨.SEC_KEYHASH, 0, i, j⟩
abbrev F.SEC_KEYHASH_W (i j : Nat) : Field := ⟨⟨.SEC_KEYHASH, 0, i, j⟩, 0, 32⟩
abbrev R.CTL_CMD (u : Nat) : RegKey := ⟨.CTL_CMD, u, 0, 0⟩
abbrev F.CTL_CMD_CMD (u : Nat) : Field := ⟨⟨.CTL_CMD, u, 0, 0⟩, 0, 4⟩
abbrev R.CTL_ARG (u : Nat) : RegKey := ⟨.CTL_ARG, u, 0, 0⟩
abbrev F.CTL_ARG_ARG (u : Nat) : Field := ⟨⟨.CTL_ARG, u, 0, 0⟩, 0, 21⟩
abbrev R.CTL_STAT (u : Nat) : RegKey := ⟨.CTL_STAT, u, 0, 0⟩
abbrev F.CTL_STAT_RCODE (u : Nat) : Field := ⟨⟨.CTL_STAT, u, 0, 0⟩, 4, 4⟩
abbrev F.CTL_STAT_REJ (u : Nat) : Field := ⟨⟨.CTL_STAT, u, 0, 0⟩, 0, 1⟩
abbrev R.TG_PROF (u : Nat) : RegKey := ⟨.TG_PROF, u, 0, 0⟩
abbrev F.TG_PROF_IDX (u : Nat) : Field := ⟨⟨.TG_PROF, u, 0, 0⟩, 0, 4⟩
abbrev R.TG_PHASE (u : Nat) : RegKey := ⟨.TG_PHASE, u, 0, 0⟩
abbrev F.TG_PHASE_SUB (u : Nat) : Field := ⟨⟨.TG_PHASE, u, 0, 0⟩, 0, 23⟩
abbrev R.TG_DTMIN (u : Nat) : RegKey := ⟨.TG_DTMIN, u, 0, 0⟩
abbrev F.TG_DTMIN_SUB (u : Nat) : Field := ⟨⟨.TG_DTMIN, u, 0, 0⟩, 0, 16⟩
abbrev R.TG_STAT (u : Nat) : RegKey := ⟨.TG_STAT, u, 0, 0⟩
abbrev F.TG_STAT_TRANS (u : Nat) : Field := ⟨⟨.TG_STAT, u, 0, 0⟩, 3, 1⟩
abbrev F.TG_STAT_LIMCLASH (u : Nat) : Field := ⟨⟨.TG_STAT, u, 0, 0⟩, 2, 1⟩
abbrev F.TG_STAT_DMAX_REJ (u : Nat) : Field := ⟨⟨.TG_STAT, u, 0, 0⟩, 1, 1⟩
abbrev F.TG_STAT_CLAMPED (u : Nat) : Field := ⟨⟨.TG_STAT, u, 0, 0⟩, 0, 1⟩
abbrev R.TG_NOWPER (u : Nat) : RegKey := ⟨.TG_NOWPER, u, 0, 0⟩
abbrev F.TG_NOWPER_CYC (u : Nat) : Field := ⟨⟨.TG_NOWPER, u, 0, 0⟩, 0, 15⟩
abbrev R.FMT_MODE (u : Nat) : RegKey := ⟨.FMT_MODE, u, 0, 0⟩
abbrev F.FMT_MODE_CUR (u : Nat) : Field := ⟨⟨.FMT_MODE, u, 0, 0⟩, 8, 3⟩
abbrev F.FMT_MODE_MODE (u : Nat) : Field := ⟨⟨.FMT_MODE, u, 0, 0⟩, 0, 3⟩
abbrev R.FMT_BURST (u : Nat) : RegKey := ⟨.FMT_BURST, u, 0, 0⟩
abbrev F.FMT_BURST_SHIFT (u : Nat) : Field := ⟨⟨.FMT_BURST, u, 0, 0⟩, 16, 8⟩
abbrev F.FMT_BURST_OFF (u : Nat) : Field := ⟨⟨.FMT_BURST, u, 0, 0⟩, 8, 8⟩
abbrev F.FMT_BURST_ON (u : Nat) : Field := ⟨⟨.FMT_BURST, u, 0, 0⟩, 0, 8⟩
abbrev R.FMT_AUX (u i : Nat) : RegKey := ⟨.FMT_AUX, u, i, 0⟩
abbrev F.FMT_AUX_DLY (u i : Nat) : Field := ⟨⟨.FMT_AUX, u, i, 0⟩, 16, 16⟩
abbrev F.FMT_AUX_POL (u i : Nat) : Field := ⟨⟨.FMT_AUX, u, i, 0⟩, 8, 1⟩
abbrev F.FMT_AUX_MSEL (u i : Nat) : Field := ⟨⟨.FMT_AUX, u, i, 0⟩, 4, 2⟩
abbrev F.FMT_AUX_SRC (u i : Nat) : Field := ⟨⟨.FMT_AUX, u, i, 0⟩, 0, 4⟩
abbrev R.FMT_VEC (u : Nat) : RegKey := ⟨.FMT_VEC, u, 0, 0⟩
abbrev F.FMT_VEC_STRB (u : Nat) : Field := ⟨⟨.FMT_VEC, u, 0, 0⟩, 8, 24⟩
abbrev F.FMT_VEC_DRV (u : Nat) : Field := ⟨⟨.FMT_VEC, u, 0, 0⟩, 0, 8⟩
abbrev R.FMT_STAT (u : Nat) : RegKey := ⟨.FMT_STAT, u, 0, 0⟩
abbrev F.FMT_STAT_MODE_LOST (u : Nat) : Field := ⟨⟨.FMT_STAT, u, 0, 0⟩, 6, 1⟩
abbrev F.FMT_STAT_VEC_BAD (u : Nat) : Field := ⟨⟨.FMT_STAT, u, 0, 0⟩, 5, 1⟩
abbrev F.FMT_STAT_STRB_LATE (u : Nat) : Field := ⟨⟨.FMT_STAT, u, 0, 0⟩, 4, 1⟩
abbrev F.FMT_STAT_XLOCK (u : Nat) : Field := ⟨⟨.FMT_STAT, u, 0, 0⟩, 3, 1⟩
abbrev F.FMT_STAT_OV (u : Nat) : Field := ⟨⟨.FMT_STAT, u, 0, 0⟩, 2, 1⟩
abbrev F.FMT_STAT_OC (u : Nat) : Field := ⟨⟨.FMT_STAT, u, 0, 0⟩, 1, 1⟩
abbrev R.FMT_CNT_A (u : Nat) : RegKey := ⟨.FMT_CNT_A, u, 0, 0⟩
abbrev F.FMT_CNT_A_DLIM (u : Nat) : Field := ⟨⟨.FMT_CNT_A, u, 0, 0⟩, 16, 16⟩
abbrev F.FMT_CNT_A_SKIP (u : Nat) : Field := ⟨⟨.FMT_CNT_A, u, 0, 0⟩, 0, 16⟩
abbrev R.FMT_CNT_B (u : Nat) : RegKey := ⟨.FMT_CNT_B, u, 0, 0⟩
abbrev F.FMT_CNT_B_OC (u : Nat) : Field := ⟨⟨.FMT_CNT_B, u, 0, 0⟩, 16, 16⟩
abbrev F.FMT_CNT_B_CLIP (u : Nat) : Field := ⟨⟨.FMT_CNT_B, u, 0, 0⟩, 0, 16⟩
abbrev R.FMT_PIN (u : Nat) : RegKey := ⟨.FMT_PIN, u, 0, 0⟩
abbrev F.FMT_PIN_AUX1 (u : Nat) : Field := ⟨⟨.FMT_PIN, u, 0, 0⟩, 3, 1⟩
abbrev F.FMT_PIN_AUX0 (u : Nat) : Field := ⟨⟨.FMT_PIN, u, 0, 0⟩, 2, 1⟩
abbrev F.FMT_PIN_GL (u : Nat) : Field := ⟨⟨.FMT_PIN, u, 0, 0⟩, 1, 1⟩
abbrev F.FMT_PIN_GH (u : Nat) : Field := ⟨⟨.FMT_PIN, u, 0, 0⟩, 0, 1⟩
abbrev R.LOOP_VLIMREQ (u : Nat) : RegKey := ⟨.LOOP_VLIMREQ, u, 0, 0⟩
abbrev F.LOOP_VLIMREQ_WORD (u : Nat) : Field := ⟨⟨.LOOP_VLIMREQ, u, 0, 0⟩, 0, 32⟩
abbrev R.LOOP_TAPERREQ (u : Nat) : RegKey := ⟨.LOOP_TAPERREQ, u, 0, 0⟩
abbrev F.LOOP_TAPERREQ_WORD (u : Nat) : Field := ⟨⟨.LOOP_TAPERREQ, u, 0, 0⟩, 0, 32⟩
abbrev R.LOOP_NOW (u : Nat) : RegKey := ⟨.LOOP_NOW, u, 0, 0⟩
abbrev F.LOOP_NOW_VLIM (u : Nat) : Field := ⟨⟨.LOOP_NOW, u, 0, 0⟩, 0, 20⟩
abbrev R.LOOP_TAPERNOW (u : Nat) : RegKey := ⟨.LOOP_TAPERNOW, u, 0, 0⟩
abbrev F.LOOP_TAPERNOW_MAG (u : Nat) : Field := ⟨⟨.LOOP_TAPERNOW, u, 0, 0⟩, 0, 18⟩
abbrev R.LOOP_STAT (u : Nat) : RegKey := ⟨.LOOP_STAT, u, 0, 0⟩
abbrev F.LOOP_STAT_VLIM_LOST (u : Nat) : Field := ⟨⟨.LOOP_STAT, u, 0, 0⟩, 4, 1⟩
abbrev F.LOOP_STAT_TPR_EVT (u : Nat) : Field := ⟨⟨.LOOP_STAT, u, 0, 0⟩, 3, 1⟩
abbrev F.LOOP_STAT_CV_EVT (u : Nat) : Field := ⟨⟨.LOOP_STAT, u, 0, 0⟩, 2, 1⟩
abbrev F.LOOP_STAT_TPR (u : Nat) : Field := ⟨⟨.LOOP_STAT, u, 0, 0⟩, 1, 1⟩
abbrev F.LOOP_STAT_CVA (u : Nat) : Field := ⟨⟨.LOOP_STAT, u, 0, 0⟩, 0, 1⟩
abbrev R.LOOP_SET (u : Nat) : RegKey := ⟨.LOOP_SET, u, 0, 0⟩
abbrev F.LOOP_SET_SEL (u : Nat) : Field := ⟨⟨.LOOP_SET, u, 0, 0⟩, 31, 1⟩
abbrev F.LOOP_SET_S (u : Nat) : Field := ⟨⟨.LOOP_SET, u, 0, 0⟩, 0, 18⟩
abbrev R.CONV_PROF (u : Nat) : RegKey := ⟨.CONV_PROF, u, 0, 0⟩
abbrev F.CONV_PROF_IDX (u : Nat) : Field := ⟨⟨.CONV_PROF, u, 0, 0⟩, 0, 4⟩
abbrev R.CONV_CTL (u : Nat) : RegKey := ⟨.CONV_CTL, u, 0, 0⟩
abbrev F.CONV_CTL_RUN (u : Nat) : Field := ⟨⟨.CONV_CTL, u, 0, 0⟩, 0, 2⟩
abbrev R.CONV_STAT (u : Nat) : RegKey := ⟨.CONV_STAT, u, 0, 0⟩
abbrev F.CONV_STAT_T_OVR (u : Nat) : Field := ⟨⟨.CONV_STAT, u, 0, 0⟩, 4, 1⟩
abbrev F.CONV_STAT_REFF (u : Nat) : Field := ⟨⟨.CONV_STAT, u, 0, 0⟩, 3, 1⟩
abbrev F.CONV_STAT_I_OVR (u : Nat) : Field := ⟨⟨.CONV_STAT, u, 0, 0⟩, 2, 1⟩
abbrev F.CONV_STAT_V_OVR (u : Nat) : Field := ⟨⟨.CONV_STAT, u, 0, 0⟩, 1, 1⟩
abbrev F.CONV_STAT_GAP (u : Nat) : Field := ⟨⟨.CONV_STAT, u, 0, 0⟩, 0, 1⟩
abbrev R.CONV_V (u : Nat) : RegKey := ⟨.CONV_V, u, 0, 0⟩
abbrev F.CONV_V_V (u : Nat) : Field := ⟨⟨.CONV_V, u, 0, 0⟩, 0, 32⟩
abbrev R.CONV_I (u : Nat) : RegKey := ⟨.CONV_I, u, 0, 0⟩
abbrev F.CONV_I_I (u : Nat) : Field := ⟨⟨.CONV_I, u, 0, 0⟩, 0, 32⟩
abbrev R.CONV_T (u : Nat) : RegKey := ⟨.CONV_T, u, 0, 0⟩
abbrev F.CONV_T_T (u : Nat) : Field := ⟨⟨.CONV_T, u, 0, 0⟩, 0, 16⟩
abbrev R.CONV_FLAGS (u : Nat) : RegKey := ⟨.CONV_FLAGS, u, 0, 0⟩
abbrev F.CONV_FLAGS_SEQ (u : Nat) : Field := ⟨⟨.CONV_FLAGS, u, 0, 0⟩, 16, 16⟩
abbrev F.CONV_FLAGS_FLAGS (u : Nat) : Field := ⟨⟨.CONV_FLAGS, u, 0, 0⟩, 0, 16⟩
abbrev R.CONV_S_LO (u : Nat) : RegKey := ⟨.CONV_S_LO, u, 0, 0⟩
abbrev F.CONV_S_LO_S (u : Nat) : Field := ⟨⟨.CONV_S_LO, u, 0, 0⟩, 0, 32⟩
abbrev R.CONV_S_HI (u : Nat) : RegKey := ⟨.CONV_S_HI, u, 0, 0⟩
abbrev F.CONV_S_HI_S (u : Nat) : Field := ⟨⟨.CONV_S_HI, u, 0, 0⟩, 0, 32⟩
abbrev R.CONV_Q_LO (u : Nat) : RegKey := ⟨.CONV_Q_LO, u, 0, 0⟩
abbrev F.CONV_Q_LO_Q (u : Nat) : Field := ⟨⟨.CONV_Q_LO, u, 0, 0⟩, 0, 32⟩
abbrev R.CONV_Q_HI (u : Nat) : RegKey := ⟨.CONV_Q_HI, u, 0, 0⟩
abbrev F.CONV_Q_HI_Q (u : Nat) : Field := ⟨⟨.CONV_Q_HI, u, 0, 0⟩, 0, 32⟩
abbrev R.CONV_CNT (u : Nat) : RegKey := ⟨.CONV_CNT, u, 0, 0⟩
abbrev F.CONV_CNT_OVR (u : Nat) : Field := ⟨⟨.CONV_CNT, u, 0, 0⟩, 16, 16⟩
abbrev F.CONV_CNT_REFF (u : Nat) : Field := ⟨⟨.CONV_CNT, u, 0, 0⟩, 0, 16⟩
abbrev R.PKT_STREAM (u : Nat) : RegKey := ⟨.PKT_STREAM, u, 0, 0⟩
abbrev F.PKT_STREAM_DIV (u : Nat) : Field := ⟨⟨.PKT_STREAM, u, 0, 0⟩, 0, 16⟩
abbrev R.PKT_DROP (u : Nat) : RegKey := ⟨.PKT_DROP, u, 0, 0⟩
abbrev F.PKT_DROP_DROP (u : Nat) : Field := ⟨⟨.PKT_DROP, u, 0, 0⟩, 0, 32⟩
abbrev R.PLAY_HOLD (u : Nat) : RegKey := ⟨.PLAY_HOLD, u, 0, 0⟩
abbrev F.PLAY_HOLD_POL (u : Nat) : Field := ⟨⟨.PLAY_HOLD, u, 0, 0⟩, 8, 1⟩
abbrev F.PLAY_HOLD_EN (u : Nat) : Field := ⟨⟨.PLAY_HOLD, u, 0, 0⟩, 7, 1⟩
abbrev F.PLAY_HOLD_SLOT (u : Nat) : Field := ⟨⟨.PLAY_HOLD, u, 0, 0⟩, 0, 5⟩
abbrev R.PLAY_VALID (u : Nat) : RegKey := ⟨.PLAY_VALID, u, 0, 0⟩
abbrev F.PLAY_VALID_SLOT (u : Nat) : Field := ⟨⟨.PLAY_VALID, u, 0, 0⟩, 0, 5⟩
abbrev R.PLAY_INVAL (u : Nat) : RegKey := ⟨.PLAY_INVAL, u, 0, 0⟩
abbrev F.PLAY_INVAL_SLOT (u : Nat) : Field := ⟨⟨.PLAY_INVAL, u, 0, 0⟩, 0, 5⟩
abbrev R.PLAY_VSTAT (u : Nat) : RegKey := ⟨.PLAY_VSTAT, u, 0, 0⟩
abbrev F.PLAY_VSTAT_SLOT (u : Nat) : Field := ⟨⟨.PLAY_VSTAT, u, 0, 0⟩, 16, 5⟩
abbrev F.PLAY_VSTAT_CODE (u : Nat) : Field := ⟨⟨.PLAY_VSTAT, u, 0, 0⟩, 0, 4⟩
abbrev R.PLAY_READY (u : Nat) : RegKey := ⟨.PLAY_READY, u, 0, 0⟩
abbrev F.PLAY_READY_READY (u : Nat) : Field := ⟨⟨.PLAY_READY, u, 0, 0⟩, 0, 32⟩
abbrev R.PLAY_FILLING (u : Nat) : RegKey := ⟨.PLAY_FILLING, u, 0, 0⟩
abbrev F.PLAY_FILLING_FILLING (u : Nat) : Field := ⟨⟨.PLAY_FILLING, u, 0, 0⟩, 0, 32⟩
abbrev R.PLAY_NOW (u : Nat) : RegKey := ⟨.PLAY_NOW, u, 0, 0⟩
abbrev F.PLAY_NOW_DWELL (u : Nat) : Field := ⟨⟨.PLAY_NOW, u, 0, 0⟩, 31, 1⟩
abbrev F.PLAY_NOW_LULL (u : Nat) : Field := ⟨⟨.PLAY_NOW, u, 0, 0⟩, 30, 1⟩
abbrev F.PLAY_NOW_SUBST (u : Nat) : Field := ⟨⟨.PLAY_NOW, u, 0, 0⟩, 29, 1⟩
abbrev F.PLAY_NOW_NVAL (u : Nat) : Field := ⟨⟨.PLAY_NOW, u, 0, 0⟩, 28, 1⟩
abbrev F.PLAY_NOW_NEXT (u : Nat) : Field := ⟨⟨.PLAY_NOW, u, 0, 0⟩, 8, 5⟩
abbrev F.PLAY_NOW_PLAYING (u : Nat) : Field := ⟨⟨.PLAY_NOW, u, 0, 0⟩, 5, 1⟩
abbrev F.PLAY_NOW_CUR (u : Nat) : Field := ⟨⟨.PLAY_NOW, u, 0, 0⟩, 0, 5⟩
abbrev R.PLAY_POS (u : Nat) : RegKey := ⟨.PLAY_POS, u, 0, 0⟩
abbrev F.PLAY_POS_PASTD (u : Nat) : Field := ⟨⟨.PLAY_POS, u, 0, 0⟩, 16, 1⟩
abbrev F.PLAY_POS_IDX (u : Nat) : Field := ⟨⟨.PLAY_POS, u, 0, 0⟩, 0, 16⟩
abbrev R.PLAY_SEGID (u : Nat) : RegKey := ⟨.PLAY_SEGID, u, 0, 0⟩
abbrev F.PLAY_SEGID_SEGID (u : Nat) : Field := ⟨⟨.PLAY_SEGID, u, 0, 0⟩, 0, 32⟩
abbrev R.PLAY_STAT (u : Nat) : RegKey := ⟨.PLAY_STAT, u, 0, 0⟩
abbrev F.PLAY_STAT_REF_ERR (u : Nat) : Field := ⟨⟨.PLAY_STAT, u, 0, 0⟩, 8, 1⟩
abbrev F.PLAY_STAT_VFAIL (u : Nat) : Field := ⟨⟨.PLAY_STAT, u, 0, 0⟩, 7, 1⟩
abbrev F.PLAY_STAT_HDR_LOST (u : Nat) : Field := ⟨⟨.PLAY_STAT, u, 0, 0⟩, 6, 1⟩
abbrev F.PLAY_STAT_DEFER (u : Nat) : Field := ⟨⟨.PLAY_STAT, u, 0, 0⟩, 5, 1⟩
abbrev F.PLAY_STAT_SAT (u : Nat) : Field := ⟨⟨.PLAY_STAT, u, 0, 0⟩, 4, 1⟩
abbrev F.PLAY_STAT_SLOT_REJ (u : Nat) : Field := ⟨⟨.PLAY_STAT, u, 0, 0⟩, 3, 1⟩
abbrev F.PLAY_STAT_ACT_WR (u : Nat) : Field := ⟨⟨.PLAY_STAT, u, 0, 0⟩, 2, 1⟩
abbrev F.PLAY_STAT_HOLD_MISS (u : Nat) : Field := ⟨⟨.PLAY_STAT, u, 0, 0⟩, 1, 1⟩
abbrev F.PLAY_STAT_UNDERRUN (u : Nat) : Field := ⟨⟨.PLAY_STAT, u, 0, 0⟩, 0, 1⟩
abbrev R.PLAY_CNT_A (u : Nat) : RegKey := ⟨.PLAY_CNT_A, u, 0, 0⟩
abbrev F.PLAY_CNT_A_UNDERRUN (u : Nat) : Field := ⟨⟨.PLAY_CNT_A, u, 0, 0⟩, 16, 16⟩
abbrev F.PLAY_CNT_A_SAT (u : Nat) : Field := ⟨⟨.PLAY_CNT_A, u, 0, 0⟩, 0, 16⟩
abbrev R.PLAY_CNT_B (u : Nat) : RegKey := ⟨.PLAY_CNT_B, u, 0, 0⟩
abbrev F.PLAY_CNT_B_ACT_WR (u : Nat) : Field := ⟨⟨.PLAY_CNT_B, u, 0, 0⟩, 16, 16⟩
abbrev F.PLAY_CNT_B_DEFER (u : Nat) : Field := ⟨⟨.PLAY_CNT_B, u, 0, 0⟩, 0, 16⟩
abbrev R.PLAY_ULT_LO (u : Nat) : RegKey := ⟨.PLAY_ULT_LO, u, 0, 0⟩
abbrev F.PLAY_ULT_LO_CYC (u : Nat) : Field := ⟨⟨.PLAY_ULT_LO, u, 0, 0⟩, 0, 32⟩
abbrev R.PLAY_ULT_HI (u : Nat) : RegKey := ⟨.PLAY_ULT_HI, u, 0, 0⟩
abbrev F.PLAY_ULT_HI_SLOT (u : Nat) : Field := ⟨⟨.PLAY_ULT_HI, u, 0, 0⟩, 24, 5⟩
abbrev F.PLAY_ULT_HI_CYC (u : Nat) : Field := ⟨⟨.PLAY_ULT_HI, u, 0, 0⟩, 0, 24⟩
abbrev R.PLAY_SLOT (u i : Nat) : RegKey := ⟨.PLAY_SLOT, u, i, 0⟩
abbrev F.PLAY_SLOT_ST (u i : Nat) : Field := ⟨⟨.PLAY_SLOT, u, i, 0⟩, 30, 2⟩
abbrev F.PLAY_SLOT_ACT (u i : Nat) : Field := ⟨⟨.PLAY_SLOT, u, i, 0⟩, 29, 1⟩
abbrev F.PLAY_SLOT_BASE (u i : Nat) : Field := ⟨⟨.PLAY_SLOT, u, i, 0⟩, 16, 13⟩
abbrev F.PLAY_SLOT_CAP (u i : Nat) : Field := ⟨⟨.PLAY_SLOT, u, i, 0⟩, 0, 11⟩
abbrev R.SEQ_STATE (u : Nat) : RegKey := ⟨.SEQ_STATE, u, 0, 0⟩
abbrev F.SEQ_STATE_OP (u : Nat) : Field := ⟨⟨.SEQ_STATE, u, 0, 0⟩, 24, 8⟩
abbrev F.SEQ_STATE_CDEPTH (u : Nat) : Field := ⟨⟨.SEQ_STATE, u, 0, 0⟩, 20, 4⟩
abbrev F.SEQ_STATE_LDEPTH (u : Nat) : Field := ⟨⟨.SEQ_STATE, u, 0, 0⟩, 16, 4⟩
abbrev F.SEQ_STATE_DQ (u : Nat) : Field := ⟨⟨.SEQ_STATE, u, 0, 0⟩, 12, 4⟩
abbrev F.SEQ_STATE_FCODE (u : Nat) : Field := ⟨⟨.SEQ_STATE, u, 0, 0⟩, 8, 4⟩
abbrev F.SEQ_STATE_ST (u : Nat) : Field := ⟨⟨.SEQ_STATE, u, 0, 0⟩, 0, 3⟩
abbrev R.SEQ_PC (u : Nat) : RegKey := ⟨.SEQ_PC, u, 0, 0⟩
abbrev F.SEQ_PC_ADDR (u : Nat) : Field := ⟨⟨.SEQ_PC, u, 0, 0⟩, 0, 21⟩
abbrev R.SEQ_FADDR (u : Nat) : RegKey := ⟨.SEQ_FADDR, u, 0, 0⟩
abbrev F.SEQ_FADDR_ADDR (u : Nat) : Field := ⟨⟨.SEQ_FADDR, u, 0, 0⟩, 0, 21⟩
abbrev R.SEQ_ANCHOR_LO (u : Nat) : RegKey := ⟨.SEQ_ANCHOR_LO, u, 0, 0⟩
abbrev F.SEQ_ANCHOR_LO_CYC (u : Nat) : Field := ⟨⟨.SEQ_ANCHOR_LO, u, 0, 0⟩, 0, 32⟩
abbrev R.SEQ_ANCHOR_HI (u : Nat) : RegKey := ⟨.SEQ_ANCHOR_HI, u, 0, 0⟩
abbrev F.SEQ_ANCHOR_HI_CYC (u : Nat) : Field := ⟨⟨.SEQ_ANCHOR_HI, u, 0, 0⟩, 0, 32⟩
abbrev R.SEQ_LASTLT_LO (u : Nat) : RegKey := ⟨.SEQ_LASTLT_LO, u, 0, 0⟩
abbrev F.SEQ_LASTLT_LO_CYC (u : Nat) : Field := ⟨⟨.SEQ_LASTLT_LO, u, 0, 0⟩, 0, 32⟩
abbrev R.SEQ_LASTLT_HI (u : Nat) : RegKey := ⟨.SEQ_LASTLT_HI, u, 0, 0⟩
abbrev F.SEQ_LASTLT_HI_CYC (u : Nat) : Field := ⟨⟨.SEQ_LASTLT_HI, u, 0, 0⟩, 0, 32⟩
abbrev R.SEQ_LTALM_LO (u : Nat) : RegKey := ⟨.SEQ_LTALM_LO, u, 0, 0⟩
abbrev F.SEQ_LTALM_LO_CYC (u : Nat) : Field := ⟨⟨.SEQ_LTALM_LO, u, 0, 0⟩, 0, 32⟩
abbrev R.SEQ_LTALM_HI (u : Nat) : RegKey := ⟨.SEQ_LTALM_HI, u, 0, 0⟩
abbrev F.SEQ_LTALM_HI_CYC (u : Nat) : Field := ⟨⟨.SEQ_LTALM_HI, u, 0, 0⟩, 0, 32⟩
abbrev R.SEQ_WHY (u : Nat) : RegKey := ⟨.SEQ_WHY, u, 0, 0⟩
abbrev F.SEQ_WHY_CLASS (u : Nat) : Field := ⟨⟨.SEQ_WHY, u, 0, 0⟩, 0, 5⟩
abbrev R.SEQ_STAT (u : Nat) : RegKey := ⟨.SEQ_STAT, u, 0, 0⟩
abbrev F.SEQ_STAT_FAULT (u : Nat) : Field := ⟨⟨.SEQ_STAT, u, 0, 0⟩, 4, 1⟩
abbrev F.SEQ_STAT_HALT (u : Nat) : Field := ⟨⟨.SEQ_STAT, u, 0, 0⟩, 3, 1⟩
abbrev F.SEQ_STAT_SLIP (u : Nat) : Field := ⟨⟨.SEQ_STAT, u, 0, 0⟩, 2, 1⟩
abbrev F.SEQ_STAT_WTMO (u : Nat) : Field := ⟨⟨.SEQ_STAT, u, 0, 0⟩, 1, 1⟩
abbrev F.SEQ_STAT_LTPAST (u : Nat) : Field := ⟨⟨.SEQ_STAT, u, 0, 0⟩, 0, 1⟩
abbrev R.SEQ_CNT (u : Nat) : RegKey := ⟨.SEQ_CNT, u, 0, 0⟩
abbrev F.SEQ_CNT_DROPJ (u : Nat) : Field := ⟨⟨.SEQ_CNT, u, 0, 0⟩, 24, 8⟩
abbrev F.SEQ_CNT_MDROP (u : Nat) : Field := ⟨⟨.SEQ_CNT, u, 0, 0⟩, 16, 8⟩
abbrev F.SEQ_CNT_SLIP (u : Nat) : Field := ⟨⟨.SEQ_CNT, u, 0, 0⟩, 8, 8⟩
abbrev F.SEQ_CNT_LTPAST (u : Nat) : Field := ⟨⟨.SEQ_CNT, u, 0, 0⟩, 0, 8⟩
abbrev R.EVJ_E (u i : Nat) : RegKey := ⟨.EVJ_E, u, i, 0⟩
abbrev F.EVJ_E_EN (u i : Nat) : Field := ⟨⟨.EVJ_E, u, i, 0⟩, 31, 1⟩
abbrev F.EVJ_E_ACT (u i : Nat) : Field := ⟨⟨.EVJ_E, u, i, 0⟩, 28, 3⟩
abbrev F.EVJ_E_TGT (u i : Nat) : Field := ⟨⟨.EVJ_E, u, i, 0⟩, 0, 21⟩
abbrev R.EVJ_PEND (u : Nat) : RegKey := ⟨.EVJ_PEND, u, 0, 0⟩
abbrev F.EVJ_PEND_PEND (u : Nat) : Field := ⟨⟨.EVJ_PEND, u, 0, 0⟩, 0, 16⟩
abbrev R.CAP_PROF (u : Nat) : RegKey := ⟨.CAP_PROF, u, 0, 0⟩
abbrev F.CAP_PROF_IDX (u : Nat) : Field := ⟨⟨.CAP_PROF, u, 0, 0⟩, 0, 4⟩
abbrev R.CAP_CTL (u : Nat) : RegKey := ⟨.CAP_CTL, u, 0, 0⟩
abbrev F.CAP_CTL_TRIG (u : Nat) : Field := ⟨⟨.CAP_CTL, u, 0, 0⟩, 2, 1⟩
abbrev F.CAP_CTL_DISARM (u : Nat) : Field := ⟨⟨.CAP_CTL, u, 0, 0⟩, 1, 1⟩
abbrev F.CAP_CTL_ARM (u : Nat) : Field := ⟨⟨.CAP_CTL, u, 0, 0⟩, 0, 1⟩
abbrev R.CAP_STATE (u : Nat) : RegKey := ⟨.CAP_STATE, u, 0, 0⟩
abbrev F.CAP_STATE_SEQ (u : Nat) : Field := ⟨⟨.CAP_STATE, u, 0, 0⟩, 16, 16⟩
abbrev F.CAP_STATE_ACODE (u : Nat) : Field := ⟨⟨.CAP_STATE, u, 0, 0⟩, 12, 4⟩
abbrev F.CAP_STATE_ST (u : Nat) : Field := ⟨⟨.CAP_STATE, u, 0, 0⟩, 0, 2⟩
abbrev R.CAP_STAT (u : Nat) : RegKey := ⟨.CAP_STAT, u, 0, 0⟩
abbrev F.CAP_STAT_OVF (u : Nat) : Field := ⟨⟨.CAP_STAT, u, 0, 0⟩, 3, 1⟩
abbrev F.CAP_STAT_RETRIG (u : Nat) : Field := ⟨⟨.CAP_STAT, u, 0, 0⟩, 2, 1⟩
abbrev F.CAP_STAT_REFUSED (u : Nat) : Field := ⟨⟨.CAP_STAT, u, 0, 0⟩, 1, 1⟩
abbrev F.CAP_STAT_DONE (u : Nat) : Field := ⟨⟨.CAP_STAT, u, 0, 0⟩, 0, 1⟩
abbrev R.CAP_TRIG_LO (u : Nat) : RegKey := ⟨.CAP_TRIG_LO, u, 0, 0⟩
abbrev F.CAP_TRIG_LO_CYC (u : Nat) : Field := ⟨⟨.CAP_TRIG_LO, u, 0, 0⟩, 0, 32⟩
abbrev R.CAP_TRIG_HI (u : Nat) : RegKey := ⟨.CAP_TRIG_HI, u, 0, 0⟩
abbrev F.CAP_TRIG_HI_CYC (u : Nat) : Field := ⟨⟨.CAP_TRIG_HI, u, 0, 0⟩, 0, 32⟩
abbrev R.CAP_TPOS (u : Nat) : RegKey := ⟨.CAP_TPOS, u, 0, 0⟩
abbrev F.CAP_TPOS_FRAC (u : Nat) : Field := ⟨⟨.CAP_TPOS, u, 0, 0⟩, 0, 32⟩
abbrev R.CAP_TIDX (u : Nat) : RegKey := ⟨.CAP_TIDX, u, 0, 0⟩
abbrev F.CAP_TIDX_SUB (u : Nat) : Field := ⟨⟨.CAP_TIDX, u, 0, 0⟩, 16, 8⟩
abbrev F.CAP_TIDX_IDX (u : Nat) : Field := ⟨⟨.CAP_TIDX, u, 0, 0⟩, 0, 16⟩
abbrev R.CAP_COUNT (u : Nat) : RegKey := ⟨.CAP_COUNT, u, 0, 0⟩
abbrev F.CAP_COUNT_N (u : Nat) : Field := ⟨⟨.CAP_COUNT, u, 0, 0⟩, 0, 32⟩
abbrev R.CAP_HDROP (u : Nat) : RegKey := ⟨.CAP_HDROP, u, 0, 0⟩
abbrev F.CAP_HDROP_N (u : Nat) : Field := ⟨⟨.CAP_HDROP, u, 0, 0⟩, 0, 32⟩
abbrev R.MASK_SEL (u i : Nat) : RegKey := ⟨.MASK_SEL, u, i, 0⟩
abbrev F.MASK_SEL_EN (u i : Nat) : Field := ⟨⟨.MASK_SEL, u, i, 0⟩, 31, 1⟩
abbrev F.MASK_SEL_IDX (u i : Nat) : Field := ⟨⟨.MASK_SEL, u, i, 0⟩, 0, 8⟩
abbrev R.MASK_ORG_LO (u i : Nat) : RegKey := ⟨.MASK_ORG_LO, u, i, 0⟩
abbrev F.MASK_ORG_LO_CYC (u i : Nat) : Field := ⟨⟨.MASK_ORG_LO, u, i, 0⟩, 0, 32⟩
abbrev R.MASK_ORG_HI (u i : Nat) : RegKey := ⟨.MASK_ORG_HI, u, i, 0⟩
abbrev F.MASK_ORG_HI_CYC (u i : Nat) : Field := ⟨⟨.MASK_ORG_HI, u, i, 0⟩, 0, 32⟩
abbrev R.MASK_STATE (u i : Nat) : RegKey := ⟨.MASK_STATE, u, i, 0⟩
abbrev F.MASK_STATE_EXC (u i : Nat) : Field := ⟨⟨.MASK_STATE, u, i, 0⟩, 4, 1⟩
abbrev F.MASK_STATE_APPR (u i : Nat) : Field := ⟨⟨.MASK_STATE, u, i, 0⟩, 3, 1⟩
abbrev F.MASK_STATE_ST (u i : Nat) : Field := ⟨⟨.MASK_STATE, u, i, 0⟩, 0, 3⟩
abbrev R.MASK_VCNT (u i : Nat) : RegKey := ⟨.MASK_VCNT, u, i, 0⟩
abbrev F.MASK_VCNT_N (u i : Nat) : Field := ⟨⟨.MASK_VCNT, u, i, 0⟩, 0, 32⟩
abbrev R.MASK_STAT (u : Nat) : RegKey := ⟨.MASK_STAT, u, 0, 0⟩
abbrev F.MASK_STAT_VIOL (u : Nat) : Field := ⟨⟨.MASK_STAT, u, 0, 0⟩, 16, 4⟩
abbrev F.MASK_STAT_MASK_ECC (u : Nat) : Field := ⟨⟨.MASK_STAT, u, 0, 0⟩, 12, 4⟩
abbrev F.MASK_STAT_MASK_ORDER (u : Nat) : Field := ⟨⟨.MASK_STAT, u, 0, 0⟩, 8, 4⟩
abbrev F.MASK_STAT_MASK_ADDR (u : Nat) : Field := ⟨⟨.MASK_STAT, u, 0, 0⟩, 4, 4⟩
abbrev F.MASK_STAT_MASK_NBP (u : Nat) : Field := ⟨⟨.MASK_STAT, u, 0, 0⟩, 0, 4⟩
abbrev R.FAIL_CFG (u : Nat) : RegKey := ⟨.FAIL_CFG, u, 0, 0⟩
abbrev F.FAIL_CFG_RING (u : Nat) : Field := ⟨⟨.FAIL_CFG, u, 0, 0⟩, 1, 1⟩
abbrev F.FAIL_CFG_FULL (u : Nat) : Field := ⟨⟨.FAIL_CFG, u, 0, 0⟩, 0, 1⟩
abbrev R.FAIL_CNT (u : Nat) : RegKey := ⟨.FAIL_CNT, u, 0, 0⟩
abbrev F.FAIL_CNT_N (u : Nat) : Field := ⟨⟨.FAIL_CNT, u, 0, 0⟩, 0, 32⟩
abbrev R.FAIL_WPTR (u : Nat) : RegKey := ⟨.FAIL_WPTR, u, 0, 0⟩
abbrev F.FAIL_WPTR_IDX (u : Nat) : Field := ⟨⟨.FAIL_WPTR, u, 0, 0⟩, 0, 12⟩
abbrev R.FAIL_CLR (u : Nat) : RegKey := ⟨.FAIL_CLR, u, 0, 0⟩
abbrev F.FAIL_CLR_CLR (u : Nat) : Field := ⟨⟨.FAIL_CLR, u, 0, 0⟩, 0, 1⟩
abbrev R.FAIL_STAT (u : Nat) : RegKey := ⟨.FAIL_STAT, u, 0, 0⟩
abbrev F.FAIL_STAT_FULL (u : Nat) : Field := ⟨⟨.FAIL_STAT, u, 0, 0⟩, 1, 1⟩
abbrev F.FAIL_STAT_NEW (u : Nat) : Field := ⟨⟨.FAIL_STAT, u, 0, 0⟩, 0, 1⟩
abbrev R.FAIL_RDROP (u : Nat) : RegKey := ⟨.FAIL_RDROP, u, 0, 0⟩
abbrev F.FAIL_RDROP_N (u : Nat) : Field := ⟨⟨.FAIL_RDROP, u, 0, 0⟩, 0, 32⟩
abbrev R.EVM_SRC (u i : Nat) : RegKey := ⟨.EVM_SRC, u, i, 0⟩
abbrev F.EVM_SRC_ARM_EDGE (u i : Nat) : Field := ⟨⟨.EVM_SRC, u, i, 0⟩, 21, 2⟩
abbrev F.EVM_SRC_ARM_SRC (u i : Nat) : Field := ⟨⟨.EVM_SRC, u, i, 0⟩, 16, 5⟩
abbrev F.EVM_SRC_STOP_EDGE (u i : Nat) : Field := ⟨⟨.EVM_SRC, u, i, 0⟩, 13, 2⟩
abbrev F.EVM_SRC_STOP_SRC (u i : Nat) : Field := ⟨⟨.EVM_SRC, u, i, 0⟩, 8, 5⟩
abbrev F.EVM_SRC_START_EDGE (u i : Nat) : Field := ⟨⟨.EVM_SRC, u, i, 0⟩, 5, 2⟩
abbrev F.EVM_SRC_START_SRC (u i : Nat) : Field := ⟨⟨.EVM_SRC, u, i, 0⟩, 0, 5⟩
abbrev R.EVM_CFG (u i : Nat) : RegKey := ⟨.EVM_CFG, u, i, 0⟩
abbrev F.EVM_CFG_DISGATE (u i : Nat) : Field := ⟨⟨.EVM_CFG, u, i, 0⟩, 7, 1⟩
abbrev F.EVM_CFG_REC (u i : Nat) : Field := ⟨⟨.EVM_CFG, u, i, 0⟩, 6, 1⟩
abbrev F.EVM_CFG_IRQ (u i : Nat) : Field := ⟨⟨.EVM_CFG, u, i, 0⟩, 5, 1⟩
abbrev F.EVM_CFG_OFFER (u i : Nat) : Field := ⟨⟨.EVM_CFG, u, i, 0⟩, 4, 1⟩
abbrev F.EVM_CFG_GATED (u i : Nat) : Field := ⟨⟨.EVM_CFG, u, i, 0⟩, 3, 1⟩
abbrev F.EVM_CFG_SIGNED (u i : Nat) : Field := ⟨⟨.EVM_CFG, u, i, 0⟩, 2, 1⟩
abbrev F.EVM_CFG_MODE (u i : Nat) : Field := ⟨⟨.EVM_CFG, u, i, 0⟩, 0, 2⟩
abbrev R.EVM_RWIN (u i : Nat) : RegKey := ⟨.EVM_RWIN, u, i, 0⟩
abbrev F.EVM_RWIN_CYC (u i : Nat) : Field := ⟨⟨.EVM_RWIN, u, i, 0⟩, 0, 24⟩
abbrev R.EVM_TMO_LO (u i : Nat) : RegKey := ⟨.EVM_TMO_LO, u, i, 0⟩
abbrev F.EVM_TMO_LO_CYC (u i : Nat) : Field := ⟨⟨.EVM_TMO_LO, u, i, 0⟩, 0, 32⟩
abbrev R.EVM_TMO_HI (u i : Nat) : RegKey := ⟨.EVM_TMO_HI, u, i, 0⟩
abbrev F.EVM_TMO_HI_CYC (u i : Nat) : Field := ⟨⟨.EVM_TMO_HI, u, i, 0⟩, 0, 9⟩
abbrev R.EVM_CTL (u i : Nat) : RegKey := ⟨.EVM_CTL, u, i, 0⟩
abbrev F.EVM_CTL_DISARM (u i : Nat) : Field := ⟨⟨.EVM_CTL, u, i, 0⟩, 1, 1⟩
abbrev F.EVM_CTL_ARM (u i : Nat) : Field := ⟨⟨.EVM_CTL, u, i, 0⟩, 0, 1⟩
abbrev R.EVM_STATE (u i : Nat) : RegKey := ⟨.EVM_STATE, u, i, 0⟩
abbrev F.EVM_STATE_ST (u i : Nat) : Field := ⟨⟨.EVM_STATE, u, i, 0⟩, 0, 2⟩
abbrev R.EVM_CNT (u i : Nat) : RegKey := ⟨.EVM_CNT, u, i, 0⟩
abbrev F.EVM_CNT_TMOCNT (u i : Nat) : Field := ⟨⟨.EVM_CNT, u, i, 0⟩, 24, 8⟩
abbrev F.EVM_CNT_EXTRA (u i : Nat) : Field := ⟨⟨.EVM_CNT, u, i, 0⟩, 16, 8⟩
abbrev F.EVM_CNT_REVDISC (u i : Nat) : Field := ⟨⟨.EVM_CNT, u, i, 0⟩, 8, 8⟩
abbrev F.EVM_CNT_NOSTART (u i : Nat) : Field := ⟨⟨.EVM_CNT, u, i, 0⟩, 0, 8⟩
abbrev R.EVM_IVL_LO (u i : Nat) : RegKey := ⟨.EVM_IVL_LO, u, i, 0⟩
abbrev F.EVM_IVL_LO_IVL (u i : Nat) : Field := ⟨⟨.EVM_IVL_LO, u, i, 0⟩, 0, 32⟩
abbrev R.EVM_IVL_HI (u i : Nat) : RegKey := ⟨.EVM_IVL_HI, u, i, 0⟩
abbrev F.EVM_IVL_HI_IVL (u i : Nat) : Field := ⟨⟨.EVM_IVL_HI, u, i, 0⟩, 0, 32⟩
abbrev R.EVM_ST_LO (u i : Nat) : RegKey := ⟨.EVM_ST_LO, u, i, 0⟩
abbrev F.EVM_ST_LO_ST (u i : Nat) : Field := ⟨⟨.EVM_ST_LO, u, i, 0⟩, 0, 32⟩
abbrev R.EVM_ST_HI (u i : Nat) : RegKey := ⟨.EVM_ST_HI, u, i, 0⟩
abbrev F.EVM_ST_HI_ST (u i : Nat) : Field := ⟨⟨.EVM_ST_HI, u, i, 0⟩, 0, 32⟩
abbrev R.EVM_INFO (u i : Nat) : RegKey := ⟨.EVM_INFO, u, i, 0⟩
abbrev F.EVM_INFO_SEQ (u i : Nat) : Field := ⟨⟨.EVM_INFO, u, i, 0⟩, 16, 16⟩
abbrev F.EVM_INFO_FLAGS (u i : Nat) : Field := ⟨⟨.EVM_INFO, u, i, 0⟩, 0, 16⟩
abbrev R.EVM_SUBR (u i : Nat) : RegKey := ⟨.EVM_SUBR, u, i, 0⟩
abbrev F.EVM_SUBR_SUB (u i : Nat) : Field := ⟨⟨.EVM_SUBR, u, i, 0⟩, 0, 8⟩
abbrev R.EVM_GATE (u : Nat) : RegKey := ⟨.EVM_GATE, u, 0, 0⟩
abbrev F.EVM_GATE_NOW (u : Nat) : Field := ⟨⟨.EVM_GATE, u, 0, 0⟩, 8, 1⟩
abbrev F.EVM_GATE_POL (u : Nat) : Field := ⟨⟨.EVM_GATE, u, 0, 0⟩, 5, 1⟩
abbrev F.EVM_GATE_SRC (u : Nat) : Field := ⟨⟨.EVM_GATE, u, 0, 0⟩, 0, 5⟩
abbrev R.EVM_STAT (u : Nat) : RegKey := ⟨.EVM_STAT, u, 0, 0⟩
abbrev F.EVM_STAT_NOLANE (u : Nat) : Field := ⟨⟨.EVM_STAT, u, 0, 0⟩, 4, 1⟩
abbrev F.EVM_STAT_DONE (u : Nat) : Field := ⟨⟨.EVM_STAT, u, 0, 0⟩, 0, 4⟩
abbrev R.EVM_DROP (u : Nat) : RegKey := ⟨.EVM_DROP, u, 0, 0⟩
abbrev F.EVM_DROP_DROP (u : Nat) : Field := ⟨⟨.EVM_DROP, u, 0, 0⟩, 0, 32⟩
abbrev R.TG_PERIOD (u : Nat) : RegKey := ⟨.TG_PERIOD, u, 0, 0⟩
abbrev F.TG_PERIOD_CYC (u : Nat) : Field := ⟨⟨.TG_PERIOD, u, 0, 0⟩, 0, 15⟩
abbrev R.TG_DT (u : Nat) : RegKey := ⟨.TG_DT, u, 0, 0⟩
abbrev F.TG_DT_DT_LH (u : Nat) : Field := ⟨⟨.TG_DT, u, 0, 0⟩, 16, 16⟩
abbrev F.TG_DT_DT_HL (u : Nat) : Field := ⟨⟨.TG_DT, u, 0, 0⟩, 0, 16⟩
abbrev R.TG_PULSE (u : Nat) : RegKey := ⟨.TG_PULSE, u, 0, 0⟩
abbrev F.TG_PULSE_TON_MIN (u : Nat) : Field := ⟨⟨.TG_PULSE, u, 0, 0⟩, 16, 10⟩
abbrev F.TG_PULSE_BLANK (u : Nat) : Field := ⟨⟨.TG_PULSE, u, 0, 0⟩, 0, 10⟩
abbrev R.TG_DMAX (u : Nat) : RegKey := ⟨.TG_DMAX, u, 0, 0⟩
abbrev F.TG_DMAX_FRAC (u : Nat) : Field := ⟨⟨.TG_DMAX, u, 0, 0⟩, 0, 10⟩
abbrev R.FMT_OCLIM (u : Nat) : RegKey := ⟨.FMT_OCLIM, u, 0, 0⟩
abbrev F.FMT_OCLIM_OC_LIMIT (u : Nat) : Field := ⟨⟨.FMT_OCLIM, u, 0, 0⟩, 0, 8⟩
abbrev R.CONV_WIN (u : Nat) : RegKey := ⟨.CONV_WIN, u, 0, 0⟩
abbrev F.CONV_WIN_W (u : Nat) : Field := ⟨⟨.CONV_WIN, u, 0, 0⟩, 0, 22⟩
abbrev R.CONV_OFS (u : Nat) : RegKey := ⟨.CONV_OFS, u, 0, 0⟩
abbrev F.CONV_OFS_CYC (u : Nat) : Field := ⟨⟨.CONV_OFS, u, 0, 0⟩, 0, 32⟩
abbrev R.CONV_CFG (u : Nat) : RegKey := ⟨.CONV_CFG, u, 0, 0⟩
abbrev F.CONV_CFG_REC_DIV (u : Nat) : Field := ⟨⟨.CONV_CFG, u, 0, 0⟩, 24, 8⟩
abbrev F.CONV_CFG_TH_DIV (u : Nat) : Field := ⟨⟨.CONV_CFG, u, 0, 0⟩, 16, 8⟩
abbrev F.CONV_CFG_APER (u : Nat) : Field := ⟨⟨.CONV_CFG, u, 0, 0⟩, 0, 1⟩
abbrev R.SEQ_CTX (u i : Nat) : RegKey := ⟨.SEQ_CTX, u, i, 0⟩
abbrev F.SEQ_CTX_W (u i : Nat) : Field := ⟨⟨.SEQ_CTX, u, i, 0⟩, 0, 32⟩
abbrev R.CAP_CFG (u : Nat) : RegKey := ⟨.CAP_CFG, u, 0, 0⟩
abbrev F.CAP_CFG_DEPTH (u : Nat) : Field := ⟨⟨.CAP_CFG, u, 0, 0⟩, 16, 16⟩
abbrev F.CAP_CFG_DEC (u : Nat) : Field := ⟨⟨.CAP_CFG, u, 0, 0⟩, 8, 8⟩
abbrev F.CAP_CFG_TSRC (u : Nat) : Field := ⟨⟨.CAP_CFG, u, 0, 0⟩, 3, 5⟩
abbrev F.CAP_CFG_TEDGE (u : Nat) : Field := ⟨⟨.CAP_CFG, u, 0, 0⟩, 1, 2⟩
abbrev R.CAP_POST (u : Nat) : RegKey := ⟨.CAP_POST, u, 0, 0⟩
abbrev F.CAP_POST_N (u : Nat) : Field := ⟨⟨.CAP_POST, u, 0, 0⟩, 0, 32⟩
abbrev R.CAP_OPT (u : Nat) : RegKey := ⟨.CAP_OPT, u, 0, 0⟩
abbrev F.CAP_OPT_SPILL (u : Nat) : Field := ⟨⟨.CAP_OPT, u, 0, 0⟩, 1, 1⟩
abbrev F.CAP_OPT_IRQ (u : Nat) : Field := ⟨⟨.CAP_OPT, u, 0, 0⟩, 0, 1⟩
abbrev R.MASK_CFG (u i : Nat) : RegKey := ⟨.MASK_CFG, u, i, 0⟩
abbrev F.MASK_CFG_PERSIST (u i : Nat) : Field := ⟨⟨.MASK_CFG, u, i, 0⟩, 24, 4⟩
abbrev F.MASK_CFG_ORG (u i : Nat) : Field := ⟨⟨.MASK_CFG, u, i, 0⟩, 20, 3⟩
abbrev F.MASK_CFG_OVRF (u i : Nat) : Field := ⟨⟨.MASK_CFG, u, i, 0⟩, 19, 1⟩
abbrev F.MASK_CFG_TAIL (u i : Nat) : Field := ⟨⟨.MASK_CFG, u, i, 0⟩, 18, 1⟩
abbrev F.MASK_CFG_POL (u i : Nat) : Field := ⟨⟨.MASK_CFG, u, i, 0⟩, 16, 2⟩
abbrev F.MASK_CFG_SENSE (u i : Nat) : Field := ⟨⟨.MASK_CFG, u, i, 0⟩, 4, 1⟩
abbrev F.MASK_CFG_QTY (u i : Nat) : Field := ⟨⟨.MASK_CFG, u, i, 0⟩, 0, 2⟩
abbrev R.MASK_ADDR (u i : Nat) : RegKey := ⟨.MASK_ADDR, u, i, 0⟩
abbrev F.MASK_ADDR_OFS (u i : Nat) : Field := ⟨⟨.MASK_ADDR, u, i, 0⟩, 0, 24⟩
abbrev R.MASK_NBP (u i : Nat) : RegKey := ⟨.MASK_NBP, u, i, 0⟩
abbrev F.MASK_NBP_N (u i : Nat) : Field := ⟨⟨.MASK_NBP, u, i, 0⟩, 0, 11⟩
abbrev R.MASK_APPR (u i : Nat) : RegKey := ⟨.MASK_APPR, u, i, 0⟩
abbrev F.MASK_APPR_BAND (u i : Nat) : Field := ⟨⟨.MASK_APPR, u, i, 0⟩, 0, 32⟩
abbrev R.PATH_CTL (u : Nat) : RegKey := ⟨.PATH_CTL, u, 0, 0⟩
abbrev F.PATH_CTL_CMP (u : Nat) : Field := ⟨⟨.PATH_CTL, u, 0, 0⟩, 8, 1⟩
abbrev F.PATH_CTL_ACTIVE (u : Nat) : Field := ⟨⟨.PATH_CTL, u, 0, 0⟩, 0, 1⟩
abbrev R.PATH_STAT (u : Nat) : RegKey := ⟨.PATH_STAT, u, 0, 0⟩
abbrev F.PATH_STAT_REFUSED (u : Nat) : Field := ⟨⟨.PATH_STAT, u, 0, 0⟩, 2, 1⟩
abbrev F.PATH_STAT_PENDING (u : Nat) : Field := ⟨⟨.PATH_STAT, u, 0, 0⟩, 1, 1⟩
abbrev F.PATH_STAT_NOW (u : Nat) : Field := ⟨⟨.PATH_STAT, u, 0, 0⟩, 0, 1⟩
abbrev R.PATH_SHV (u : Nat) : RegKey := ⟨.PATH_SHV, u, 0, 0⟩
abbrev F.PATH_SHV_V (u : Nat) : Field := ⟨⟨.PATH_SHV, u, 0, 0⟩, 0, 32⟩
abbrev R.PATH_SHI (u : Nat) : RegKey := ⟨.PATH_SHI, u, 0, 0⟩
abbrev F.PATH_SHI_I (u : Nat) : Field := ⟨⟨.PATH_SHI, u, 0, 0⟩, 0, 32⟩
abbrev R.SCALE_SHUNT (u : Nat) : RegKey := ⟨.SCALE_SHUNT, u, 0, 0⟩
abbrev F.SCALE_SHUNT_NOHM (u : Nat) : Field := ⟨⟨.SCALE_SHUNT, u, 0, 0⟩, 0, 32⟩
abbrev R.SCALE_GAIN (u : Nat) : RegKey := ⟨.SCALE_GAIN, u, 0, 0⟩
abbrev F.SCALE_GAIN_RAMP (u : Nat) : Field := ⟨⟨.SCALE_GAIN, u, 0, 0⟩, 2, 1⟩
abbrev F.SCALE_GAIN_VLIM (u : Nat) : Field := ⟨⟨.SCALE_GAIN, u, 0, 0⟩, 1, 1⟩
abbrev F.SCALE_GAIN_ISET (u : Nat) : Field := ⟨⟨.SCALE_GAIN, u, 0, 0⟩, 0, 1⟩
abbrev R.SCALE_STAT (u : Nat) : RegKey := ⟨.SCALE_STAT, u, 0, 0⟩
abbrev F.SCALE_STAT_BUSY (u : Nat) : Field := ⟨⟨.SCALE_STAT, u, 0, 0⟩, 0, 1⟩
abbrev R.VLOOP_PROF (u : Nat) : RegKey := ⟨.VLOOP_PROF, u, 0, 0⟩
abbrev F.VLOOP_PROF_IDX (u : Nat) : Field := ⟨⟨.VLOOP_PROF, u, 0, 0⟩, 0, 4⟩
abbrev R.PROT_OC (u : Nat) : RegKey := ⟨.PROT_OC, u, 0, 0⟩
abbrev F.PROT_OC_OC_NEG (u : Nat) : Field := ⟨⟨.PROT_OC, u, 0, 0⟩, 16, 10⟩
abbrev F.PROT_OC_OC_POS (u : Nat) : Field := ⟨⟨.PROT_OC, u, 0, 0⟩, 0, 10⟩
abbrev R.PROT_OV (u : Nat) : RegKey := ⟨.PROT_OV, u, 0, 0⟩
abbrev F.PROT_OV_OV (u : Nat) : Field := ⟨⟨.PROT_OV, u, 0, 0⟩, 0, 12⟩
abbrev R.PROT_STAT (u : Nat) : RegKey := ⟨.PROT_STAT, u, 0, 0⟩
abbrev F.PROT_STAT_OV_LIVE (u : Nat) : Field := ⟨⟨.PROT_STAT, u, 0, 0⟩, 2, 1⟩
abbrev F.PROT_STAT_OC_LIVE (u : Nat) : Field := ⟨⟨.PROT_STAT, u, 0, 0⟩, 1, 1⟩
abbrev F.PROT_STAT_TH_REJ (u : Nat) : Field := ⟨⟨.PROT_STAT, u, 0, 0⟩, 0, 1⟩
abbrev R.VREF_NV (u : Nat) : RegKey := ⟨.VREF_NV, u, 0, 0⟩
abbrev F.VREF_NV_NV (u : Nat) : Field := ⟨⟨.VREF_NV, u, 0, 0⟩, 0, 32⟩
abbrev R.FPKT_WIDTH (u : Nat) : RegKey := ⟨.FPKT_WIDTH, u, 0, 0⟩
abbrev F.FPKT_WIDTH_WIDTH (u : Nat) : Field := ⟨⟨.FPKT_WIDTH, u, 0, 0⟩, 0, 16⟩
abbrev R.FPKT_VP (u : Nat) : RegKey := ⟨.FPKT_VP, u, 0, 0⟩
abbrev F.FPKT_VP_VP (u : Nat) : Field := ⟨⟨.FPKT_VP, u, 0, 0⟩, 0, 32⟩
abbrev R.FPKT_QP_LO (u : Nat) : RegKey := ⟨.FPKT_QP_LO, u, 0, 0⟩
abbrev F.FPKT_QP_LO_QP (u : Nat) : Field := ⟨⟨.FPKT_QP_LO, u, 0, 0⟩, 0, 32⟩
abbrev R.FPKT_QP_HI (u : Nat) : RegKey := ⟨.FPKT_QP_HI, u, 0, 0⟩
abbrev F.FPKT_QP_HI_QP (u : Nat) : Field := ⟨⟨.FPKT_QP_HI, u, 0, 0⟩, 0, 32⟩
abbrev R.FPKT_ACC_LO (u : Nat) : RegKey := ⟨.FPKT_ACC_LO, u, 0, 0⟩
abbrev F.FPKT_ACC_LO_ACC (u : Nat) : Field := ⟨⟨.FPKT_ACC_LO, u, 0, 0⟩, 0, 32⟩
abbrev R.FPKT_ACC_HI (u : Nat) : RegKey := ⟨.FPKT_ACC_HI, u, 0, 0⟩
abbrev F.FPKT_ACC_HI_ACC (u : Nat) : Field := ⟨⟨.FPKT_ACC_HI, u, 0, 0⟩, 0, 32⟩
abbrev R.FPKT_ACCF (u : Nat) : RegKey := ⟨.FPKT_ACCF, u, 0, 0⟩
abbrev F.FPKT_ACCF_FRAC (u : Nat) : Field := ⟨⟨.FPKT_ACCF, u, 0, 0⟩, 0, 32⟩
abbrev R.FPKT_CLRB_LO (u : Nat) : RegKey := ⟨.FPKT_CLRB_LO, u, 0, 0⟩
abbrev F.FPKT_CLRB_LO_BEAT (u : Nat) : Field := ⟨⟨.FPKT_CLRB_LO, u, 0, 0⟩, 0, 32⟩
abbrev R.FPKT_CLRB_HI (u : Nat) : RegKey := ⟨.FPKT_CLRB_HI, u, 0, 0⟩
abbrev F.FPKT_CLRB_HI_BEAT (u : Nat) : Field := ⟨⟨.FPKT_CLRB_HI, u, 0, 0⟩, 0, 32⟩
abbrev R.FPKT_LAST_LO (u : Nat) : RegKey := ⟨.FPKT_LAST_LO, u, 0, 0⟩
abbrev F.FPKT_LAST_LO_LAST (u : Nat) : Field := ⟨⟨.FPKT_LAST_LO, u, 0, 0⟩, 0, 32⟩
abbrev R.FPKT_LAST_HI (u : Nat) : RegKey := ⟨.FPKT_LAST_HI, u, 0, 0⟩
abbrev F.FPKT_LAST_HI_LAST (u : Nat) : Field := ⟨⟨.FPKT_LAST_HI, u, 0, 0⟩, 0, 32⟩
abbrev R.FPKT_STAT (u : Nat) : RegKey := ⟨.FPKT_STAT, u, 0, 0⟩
abbrev F.FPKT_STAT_CLR_CAN (u : Nat) : Field := ⟨⟨.FPKT_STAT, u, 0, 0⟩, 7, 1⟩
abbrev F.FPKT_STAT_CLR_PEND (u : Nat) : Field := ⟨⟨.FPKT_STAT, u, 0, 0⟩, 6, 1⟩
abbrev F.FPKT_STAT_CLR_PAST (u : Nat) : Field := ⟨⟨.FPKT_STAT, u, 0, 0⟩, 5, 1⟩
abbrev F.FPKT_STAT_HOLD (u : Nat) : Field := ⟨⟨.FPKT_STAT, u, 0, 0⟩, 4, 1⟩
abbrev F.FPKT_STAT_SAT (u : Nat) : Field := ⟨⟨.FPKT_STAT, u, 0, 0⟩, 3, 1⟩
abbrev F.FPKT_STAT_WLOW (u : Nat) : Field := ⟨⟨.FPKT_STAT, u, 0, 0⟩, 2, 1⟩
abbrev F.FPKT_STAT_PKT_W (u : Nat) : Field := ⟨⟨.FPKT_STAT, u, 0, 0⟩, 1, 1⟩
abbrev F.FPKT_STAT_CLRDONE (u : Nat) : Field := ⟨⟨.FPKT_STAT, u, 0, 0⟩, 0, 1⟩
abbrev R.FPKT_HOLDCNT (u : Nat) : RegKey := ⟨.FPKT_HOLDCNT, u, 0, 0⟩
abbrev F.FPKT_HOLDCNT_NET (u : Nat) : Field := ⟨⟨.FPKT_HOLDCNT, u, 0, 0⟩, 0, 32⟩
abbrev R.TH_TAB (u i : Nat) : RegKey := ⟨.TH_TAB, u, i, 0⟩
abbrev F.TH_TAB_T (u i : Nat) : Field := ⟨⟨.TH_TAB, u, i, 0⟩, 0, 16⟩
abbrev R.VLOOP_CFG (u : Nat) : RegKey := ⟨.VLOOP_CFG, u, 0, 0⟩
abbrev F.VLOOP_CFG_CV_DWELL (u : Nat) : Field := ⟨⟨.VLOOP_CFG, u, 0, 0⟩, 24, 8⟩
abbrev F.VLOOP_CFG_PRELOAD (u : Nat) : Field := ⟨⟨.VLOOP_CFG, u, 0, 0⟩, 16, 1⟩
abbrev F.VLOOP_CFG_HEAD (u : Nat) : Field := ⟨⟨.VLOOP_CFG, u, 0, 0⟩, 12, 2⟩
abbrev F.VLOOP_CFG_RZ (u : Nat) : Field := ⟨⟨.VLOOP_CFG, u, 0, 0⟩, 8, 3⟩
abbrev F.VLOOP_CFG_CINT (u : Nat) : Field := ⟨⟨.VLOOP_CFG, u, 0, 0⟩, 4, 3⟩
abbrev F.VLOOP_CFG_GM (u : Nat) : Field := ⟨⟨.VLOOP_CFG, u, 0, 0⟩, 0, 3⟩
abbrev R.VLOOP_SCOMP (u : Nat) : RegKey := ⟨.VLOOP_SCOMP, u, 0, 0⟩
abbrev F.VLOOP_SCOMP_SCOMP (u : Nat) : Field := ⟨⟨.VLOOP_SCOMP, u, 0, 0⟩, 0, 16⟩
abbrev R.PROT_FILT (u : Nat) : RegKey := ⟨.PROT_FILT, u, 0, 0⟩
abbrev F.PROT_FILT_OV_FILT (u : Nat) : Field := ⟨⟨.PROT_FILT, u, 0, 0⟩, 4, 2⟩
abbrev F.PROT_FILT_OC_FILT (u : Nat) : Field := ⟨⟨.PROT_FILT, u, 0, 0⟩, 0, 2⟩
abbrev R.BLKID (u : Nat) : RegKey := ⟨.BLKID, u, 0, 0⟩
abbrev F.BLKID_TYPE (u : Nat) : Field := ⟨⟨.BLKID, u, 0, 0⟩, 16, 16⟩
abbrev F.BLKID_INST (u : Nat) : Field := ⟨⟨.BLKID, u, 0, 0⟩, 8, 8⟩
abbrev F.BLKID_VER (u : Nat) : Field := ⟨⟨.BLKID, u, 0, 0⟩, 0, 8⟩
abbrev R.PAGE (u : Nat) : RegKey := ⟨.PAGE, u, 0, 0⟩
abbrev F.PAGE_EXPERT_REJ (u : Nat) : Field := ⟨⟨.PAGE, u, 0, 0⟩, 1, 1⟩
abbrev F.PAGE_EXPERT_EN (u : Nat) : Field := ⟨⟨.PAGE, u, 0, 0⟩, 0, 1⟩
abbrev R.BSTAT (u : Nat) : RegKey := ⟨.BSTAT, u, 0, 0⟩
abbrev F.BSTAT_RAW (u : Nat) : Field := ⟨⟨.BSTAT, u, 0, 0⟩, 2, 1⟩
abbrev F.BSTAT_BADVAL (u : Nat) : Field := ⟨⟨.BSTAT, u, 0, 0⟩, 0, 1⟩

end Sys2Proof.Machine
end

