-- ==== Sys2Proof/Machine/Cold.lean ====
section
/-!
DEFINITION. What each register holds after a POR (its Cold value), which bits of it are fields, what it takes at a warm
reset, and which registers have aliases. The per-register values that the tables give by index or by part are here.
-/
namespace Sys2Proof.Machine

/-- The number of a block: its base address divided by 64 KiB (Tables 1.13 and 1.14); `u` picks the core or front end. -/
def Blk.number (b : Blk) (u : Nat) : Nat :=
  match b with
  | .sys => 0 | .lt => 1 | .xbar => 2 | .irq => 3 | .ring => 4 | .stor => 5 | .line => 6 | .peer => 7 | .svc => 8
  | .boot => 9 | .mem => 10 | .mon => 11 | .cal => 12 | .pwr => 13 | .evt => 14 | .sec => 15
  | .core => 0x100 + u | .fe => 0x180 + u | .hdr => u

/-- The number of the block that holds a register; for a header register, of the block it heads. -/
def RegKey.blockNumber (k : RegKey) : Nat := k.id.blk.number k.u

/-- The row of the register map for a register. -/
def RegId.desc (r : RegId) : RegDesc := ((r.blk.regs.find? fun d => d.id = r).getD ⟨r, 0, 4, 1, 4, 1, []⟩)

/-- The ones of a word are the bits of the fields in a list. -/
def fieldsMask : List FieldDesc → Word
  | [] => 0
  | f :: fs => fieldMask f.lo (f.hi + 1 - f.lo) ||| fieldsMask fs

/-- The ones of a word are the bits of the register that are not reserved (R12). -/
def RegId.mask (r : RegId) : Word := fieldsMask r.desc.fields

/-- The word with each field of a list at its Cold value. -/
def fieldsCold : List FieldDesc → Word
  | [] => 0
  | f :: fs => fieldPut (fieldsCold fs) f.lo (f.hi + 1 - f.lo) f.cold

/-- 1 for a level source, 0 for an edge source (Table 11.1). -/
def sourceLevel (s : Nat) : Bool := s = 153 || s = 164 || s = 171 || (225 ≤ s && s ≤ 240)

/-- Whether a source has an asynchronous latch (Table 11.1). -/
def sourceAsync (s : Nat) : Bool :=
  (1 ≤ s && s ≤ 64) || (129 ≤ s && s ≤ 144) || s = 145 || s = 147 || (209 ≤ s && s ≤ 224) || s = 255

/-- The cold window of rail monitor `j` (Table 16.6), low limit and high limit. -/
def railWindow (j : Nat) : Nat × Nat :=
  match j with
  | 0 | 1 | 4 | 6 => (873, 927)
  | 2 | 3 | 5 => (1746, 1854)
  | _ => (12375, 12625)

/-- `TYPE` of the block with a block number (Tables 1.13 and 1.14, R39). -/
def blockType (n : Nat) : Nat := if n < 16 then n + 1 else if n < 0x180 then 0x20 else 0x21

/-- `INST` of the block with a block number (Table 1.10). -/
def blockInst (n : Nat) : Nat := if n < 16 then 0 else if n < 0x180 then n - 0x100 else n - 0x180

/-- The Cold value of the registers whose table gives it per register or per part; `base` is the value of the other
fields. -/
def RegKey.coldSpecial (k : RegKey) (base : Word) : Word :=
  match k.id with
  | .XBAR_MAP => fieldPut (fieldPut base 16 7 k.i) 0 7 k.i
  | .BLKID => fieldPut (fieldPut base 16 16 (blockType k.u)) 8 8 (blockInst k.u)
  | .SYS_ID => fieldPut base 8 1 (if Config.gradeX then 1 else 0)
  | .FMT_MODE => fieldPut base 8 3 (if k.u < 64 then 1 else 0)
  | .RING_CHB => fieldPut base 0 12 (48 * k.i)
  | .IRQ_MASK => fieldPut base 0 32 (if k.i = 0 then 0xFFFFFFFE else 0xFFFFFFFF)
  | .IRQ_SRC => fieldPut (fieldPut base 31 1 (if sourceLevel k.i then 1 else 0)) 30 1 (if sourceAsync k.i then 1 else 0)
  | .MEM_WIN_SIZE => fieldPut base 0 29 (if k.i = 0 ∧ k.j = 0 then 0x10000000 else 0)
  | .MEM_WIN_PERM => fieldPut base 0 2 (if k.i = 0 ∧ k.j = 0 then 3 else 0)
  | .MON_TLIM => fieldPut (fieldPut base 16 16 (if Config.gradeX then 11500 else 10500)) 0 16
      (if Config.gradeX then 10500 else 9500)
  | .MON_RWIN => fieldPut (fieldPut base 16 16 (railWindow k.i).2) 0 16 (railWindow k.i).1
  | .SEC_ID => fieldPut base 0 16 Config.romId
  | _ => base

/-- What a register holds after a POR. -/
def RegKey.cold (k : RegKey) : Word := k.coldSpecial (fieldsCold k.id.desc.fields) &&& k.id.mask

/-- A register word after a warm reset: each field at its Warm value, or kept. -/
def fieldsWarm (x : Word) : List FieldDesc → Word
  | [] => x
  | f :: fs =>
    match f.warm with
    | .kept => fieldsWarm x fs
    | .val n => fieldPut (fieldsWarm x fs) f.lo (f.hi + 1 - f.lo) n

/-- A register that holds `x`, after a warm reset (the Warm column). `IRQ.MASK` takes its Cold value, as its table says;
the Warm values of `MEM.FRZ`, `PWR.RSTCAUSE`, `PWR.WDOG` and `PWR.WDCNT` depend on the cause and are written by
Machine/Reset.lean. -/
def RegKey.warm (k : RegKey) (x : Word) : Word :=
  match k.id with
  | .IRQ_MASK => k.cold
  | _ => fieldsWarm x k.id.desc.fields &&& k.id.mask

/-- The registers that have a set alias at offset +0x1000 (R14). -/
def RegId.hasSetAlias (r : RegId) : Bool :=
  match r with
  | .PAGE | .IRQ_PEND | .IRQ_MASK | .PWR_PARK => true
  | _ => false

/-- The registers that have a clear alias at offset +0x2000 (R14). -/
def RegId.hasClearAlias (r : RegId) : Bool :=
  match r with
  | .PAGE | .BSTAT | .LT_EVT | .TG_STAT | .FMT_STAT | .SCALE_STAT | .PROT_STAT | .LOOP_STAT | .CONV_STAT
  | .PATH_STAT | .FPKT_STAT | .EVT_STAT | .EVM_STAT | .PLAY_STAT | .CTL_STAT | .SEQ_STAT | .EVJ_PEND | .CAP_STAT
  | .MASK_STAT | .FAIL_STAT | .SYS_SQL_STAT | .RING_STAT | .STOR_STAT | .IRQ_PEND | .IRQ_MASK | .IRQ_ALATCH
  | .LINE_STAT | .PEER_STAT | .SVC_STAT | .PWR_STAT | .PWR_PARK | .PWR_LOST => true
  | _ => false

/-! ## Finding a register by its address -/

/-- The register at byte offset `off` (from the page's own base, aliases removed) of a block's map, for core or front
end `u`. -/
def findReg (l : List RegDesc) (u off : Nat) : Option RegKey :=
  match l with
  | [] => none
  | d :: ds =>
    if d.off ≤ off ∧ (off - d.off) / d.s1 < d.n1 ∧ (off - d.off) % d.s1 / d.s2 < d.n2
        ∧ (off - d.off) % d.s1 % d.s2 = 0 then
      some ⟨d.id, u, (off - d.off) / d.s1, (off - d.off) % d.s1 / d.s2⟩
    else findReg ds u off

/-- The block with a block number, and the index of its core or front end. -/
def blockOf (n : Nat) : Option (Blk × Nat) :=
  match n with
  | 0 => some (.sys, 0) | 1 => some (.lt, 0) | 2 => some (.xbar, 0) | 3 => some (.irq, 0) | 4 => some (.ring, 0)
  | 5 => some (.stor, 0) | 6 => some (.line, 0) | 7 => some (.peer, 0) | 8 => some (.svc, 0) | 9 => some (.boot, 0)
  | 10 => some (.mem, 0) | 11 => some (.mon, 0) | 12 => some (.cal, 0) | 13 => some (.pwr, 0) | 14 => some (.evt, 0)
  | 15 => some (.sec, 0)
  | _ =>
    if 0x100 ≤ n ∧ n < 0x144 then some (.core, n - 0x100)
    else if 0x180 ≤ n ∧ n < 0x1C0 then some (.fe, n - 0x180)
    else none

/-- The register at offset `off` of a block's own 64 KiB window, header registers included (R39). -/
def regAt (n off : Nat) : Option RegKey :=
  match blockOf n with
  | none => none
  | some (b, u) =>
    if 0xF00 ≤ off ∧ off < 0x1000 then findReg regs_hdr n off else findReg b.regs u off

/-- The offset of a register in its block. -/
def RegKey.offset (k : RegKey) : Nat := k.id.desc.off + k.i * k.id.desc.s1 + k.j * k.id.desc.s2

/-- The byte address of a register (Tables 1.13 and 1.14). -/
def RegKey.addr (k : RegKey) : Nat := k.blockNumber * 0x10000 + k.offset

end Sys2Proof.Machine
end

