-- ==== Sys2Proof/Machine/State.lean ====
section
/-!
DEFINITION. The state of the Y64: plain data. `regs` holds every register of the register tables (a register that is not
listed holds its Cold value, see `State.reg` of Machine/Ops.lean), `mem` every memory of Table 1.13, `dev` everything the
spec gives the part beside its registers and memories, and `pending` the commands that wait, first in, first out.
-/
namespace Sys2Proof.Machine

/-- The interrupt controller beside its registers: the sources whose coalescing timer runs (R383), the asynchronous
latches that have caught an edge (R401), and whether the controller's clock is stopped (R501). -/
structure IrqSt where
  timer : List Nat := []
  latch : List Nat := []
  stopped : Bool := false
  /-- Targets for which a notice has gone out, and has not timed out, since P_t was last none (R450). -/
  noticed : List Nat := []
  deriving DecidableEq, Repr

/-- The answer a master last received: its status (the codes of Table 13.7) and, for a read, the word. -/
structure Answer where
  status : Nat
  data : Word
  deriving DecidableEq, Repr

/-- What is wrong with an ECC word: the bits that have flipped, data before check bits; and two or more of them have been in error
together since the word was last written, so that every read of it is uncorrectable (R419). -/
structure EccErr where
  bits : Nat
  ue : Bool
  deriving DecidableEq, Repr

/-- The access ports beside the `MEM` registers. -/
structure BusSt where
  /-- The last answer to each master (by its number of Table 12.2). -/
  answer : Table Answer := []
  /-- The `_HI` shadow that a read of a `_LO` word left for a master (R9): the master, the register, the word. -/
  shadow : List (Nat × RegKey × Word) := []
  /-- The `_LO` words held until their `_HI` words are written (R9). -/
  held : List (RegKey × Word) := []
  /-- Accesses of MP0 and MP1 (masters 1 and 2) that stall while the processor is frozen (R427). -/
  stalled : Table Nat := []
  /-- While a write is made: the bits of the register that the hardware sets in the same cycle (R15); else 0. -/
  hwSets : Word := 0
  /-- EXPERT registers that hold a raw value (`BSTAT.RAW`). -/
  raw : List RegKey := []
  /-- RWL fields and the control store are locked (R430). -/
  locked : Bool := false
  /-- ECC words in error, by byte address of the word and copy (R418, R419). Of an uncorrectable word that is not of the control
  store the flipped data bits stand in the memory, as they are stored; of a correctable one the memory holds what a read returns. -/
  ecc : Table EccErr := []
  /-- Corrected words that wait for their write-back (R418). -/
  writeBack : List Nat := []
  /-- Dispatch entries that have been written since the boot ROM wrote its defaults (R477). -/
  entries : List Nat := []
  /-- Corrected errors of the scrub pass in progress (R421). -/
  passCE : Nat := 0
  deriving DecidableEq, Repr

/-- A completion of a consumed ring's entry that has been decided and waits for its turn (R350, Table 10.6). -/
structure Completion where
  idx : Nat
  status : Nat
  tries : Nat := 0
  nvst : Nat := 0
  blocks : Nat := 0
  deriving DecidableEq, Repr

/-- A ring as the engine holds it (R344 to R351). -/
structure Ring where
  on : Bool := false
  /-- DISABLE has been written and something is still in progress (R351). -/
  stopping : Bool := false
  base : Nat := 0
  typ : Nat := 0
  k : Nat := 0
  esz : Nat := 0
  sink : Nat := 0
  region : Nat := 0
  group : Nat := 0
  irq : Bool := false
  sirq : Bool := false
  tmo : Nat := 0
  pi : Nat := 0
  ci : Nat := 0
  stall : Nat := 0
  /-- The index of the first entry that the engine or the sink has not yet taken. -/
  taken : Nat := 0
  /-- Doorbells that cover entries not yet taken, oldest first: the `PI` that each gave, and the master (Table 12.2) that rang it, whose
  authority and windows apply to the entries that it added (R426, R429). -/
  rang : List (Nat × Nat) := []
  waiting : List Completion := []
  /-- Of a refill ring: the index of the head request once it has passed its judgement (R256). -/
  accepted : Option Nat := none
  /-- Of spill entries: index, channel and capture sequence number (R375). -/
  tags : List (Nat × Nat × Nat) := []
  /-- Of a produced ring: entries before `taken` whose block failed while a later one was in flight, as first index and number; they
  go out before any other (R373). -/
  again : List (Nat × Nat) := []
  deriving DecidableEq, Repr

/-- Where a storage command stands (R363 to R367). -/
inductive CmdSt where
  /-- It waits for a tag. -/
  | waiting
  /-- It is out under a tag. -/
  | out
  /-- A try has failed and BACKOFF runs. -/
  | backoff
  | ok
  deriving DecidableEq, Repr

/-- What a storage command does on the volume. -/
inductive StorOp where
  | read | write | flush
  deriving DecidableEq, Repr

/-- One NVMe command of at most 32 blocks (R363). -/
structure Cmd where
  op : StorOp
  /-- First volume block, and blocks. -/
  blk : Nat
  n : Nat
  /-- Device address of its buffer; the engine's own block for record, journal and superblock writes. -/
  buf : Nat
  tries : Nat := 0
  st : CmdSt := .waiting
  /-- Its last try carries FUA (Table 10.9). -/
  fua : Bool := false
  deriving DecidableEq, Repr

/-- What a piece of storage work serves. -/
inductive WorkKind where
  | host | refill | block | own
  deriving DecidableEq, Repr

/-- A ring entry or block that the storage engine carries out. -/
structure Work where
  kind : WorkKind
  /-- The ring; for the engine's own writes 4,096. -/
  ring : Nat
  /-- The entry's index; for a block, the index of its first entry. -/
  idx : Nat
  cmds : List Cmd
  /-- Entries in the block. -/
  count : Nat := 0
  /-- The block's bytes (kinds block and own). -/
  data : List Byte := []
  nvst : Nat := 0
  /-- The entry has been counted as waiting for a tag (R364). -/
  stalled : Bool := false
  /-- Of a refill: the target core and slot. -/
  core : Nat := 0
  slot : Nat := 0
  deriving DecidableEq, Repr

/-- A tag that is held (R362, R365). -/
structure Tag where
  ring : Nat
  idx : Nat
  cmd : Nat
  zombie : Bool := false
  warned : Bool := false
  /-- The entry of the command has completed (R369). -/
  ended : Bool := false
  deriving DecidableEq, Repr

/-- A record region (Table 10.11): mode 0 unused, 1 PACKED, 2 RAW. -/
structure Region where
  start : Nat
  len : Nat
  mode : Nat
  deriving DecidableEq, Repr

/-- A volume layout (Table 10.11). -/
structure Volume where
  gen : Nat := 0
  vblk : Nat := 0
  jstart : Nat := 0
  jlen : Nat := 0
  lstart : Nat := 0
  llen : Nat := 0
  regions : List Region := []
  deriving DecidableEq, Repr

/-- The storage engine beside its registers. -/
structure StorSt where
  work : List Work := []
  tags : Table Tag := []
  /-- The ring last served on each queue pair (R363). -/
  served : Table Nat := []
  /-- The volume in use. -/
  vol : Option Volume := none
  /-- `GEN` of the valid superblock that the last attach found, a foreign one too (R376). -/
  gen : Nat := 0
  /-- The next block sequence number of each region and of the journal (R372, R374). -/
  bseq : Table Nat := []
  jseq : Nat := 0
  /-- Journal entries not yet written, of 32 bytes each. -/
  journal : List (List Byte) := []
  formatting : Bool := false
  /-- Writes carry FUA (R361). -/
  fua : Bool := false
  /-- The blocks that the engine wrote at the last DETACH: volume block and bytes (R378). -/
  wrote : List (Nat × List Byte) := []
  /-- What the last inbound read of the aperture returned; none for Completer Abort (R358). -/
  apertureRead : Option (List Byte) := none
  /-- Produced NVME-sink rings are being drained to the line port (R377). -/
  spilling : Bool := false
  deriving DecidableEq, Repr

/-- Levels of the pins that a command or a power state drives (Table 17.8). -/
structure Pins where
  ssdPwren : Bool := false
  perstN : Bool := false
  hiboutN : Bool := true
  lineTxDisable : Bool := true
  /-- BOOT_RESET_N is low until this cycle: 10 µs from t3 of a POR, or from t5 of a PIN or WDOG reset (R539). -/
  bootResetEnd : Nat := 30000
  deriving DecidableEq, Repr

/-- The loaded image, as boot keeps it for later use. -/
structure ImageSt where
  /-- The volume layout of the image (R376). -/
  volume : Volume := {}
  /-- Profile tables by index: drive (R121), loop (R163), conversion (R196), capture (R342), mask descriptors (R343). -/
  drive : Table (List Byte) := []
  loop : Table (List Byte) := []
  conv : Table (List Byte) := []
  capture : Table (List Byte) := []
  mask : Table (List Byte) := []
  /-- Clock profiles: `LT.XREF` values; no entry where the image holds 0. -/
  clock : Table Word := []
  /-- Bytes of the CAL section (R511). -/
  calLen : Nat := 0
  /-- Security version and key slot of the image in use (R473, R488). -/
  svn : Nat := 0
  keyIdx : Nat := 0
  deriving DecidableEq, Repr

/-- The fuses that `SEC.CTL` programs (Table 14.7): the SHA-512 key hashes of slots 1 to 3, the revoke bits, and how many
security-version fuses are programmed. Key hash 0 and the patch key are programmed at manufacture (Config). -/
structure FuseSt where
  keyHash : Table (List Byte) := []
  revoked : List Nat := []
  svn : Nat := 0
  deriving DecidableEq, Repr

/-- The flash on the boot port. Its bytes are kept inverted in the memory of the state, so that an erased byte is not
listed; here is what discovery finds: its density in bytes, and whether it offers the 4 KiB erase (R467). -/
structure FlashSt where
  density : Nat := 0
  erase4k : Bool := false
  deriving DecidableEq, Repr

/-- A boot function or fuse operation in progress (R483 to R488). -/
inductive BootFn where
  | open_ (slot len : Nat)
  | write (ofs len buf : Nat)
  | close
  | confirm
  /-- Of REFRESH: the slot, the staging buffer, what its verification gave, and the state that the state block had. -/
  | refresh (slot buf code st : Nat)
  | keyprog (slot ofs : Nat)
  | revoke (slot : Nat)
  | svnadv
  deriving DecidableEq, Repr

/-- Boot and the boot port. -/
structure BootSt where
  flash : FlashSt := {}
  /-- The fuses, and what they were at the last start, which `SEC` reads: an operation takes effect at the next boot
  (R488). -/
  fuses : FuseSt := {}
  read : FuseSt := {}
  /-- The function in progress, and the fuse operation in progress. -/
  fn : Option BootFn := none
  fuse : Option BootFn := none
  /-- The slot that OPEN named, its length, and the bytes written so far (R484). -/
  slot : Option Nat := none
  len : Nat := 0
  written : Nat := 0
  /-- The boot ROM has a boot to run: it has started and has not completed it or entered recovery. -/
  due : Bool := true
  /-- A slot has passed and is applied; boot is to complete (R481). -/
  passed : Bool := false
  deriving DecidableEq, Repr

/-- An EPOCHIN frame that has been accepted and announces the beat to come (R63, R64). -/
structure Frame where
  beat : Nat
  mhold : Bool
  deriving DecidableEq, Repr

/-- Line Time and the lock machine beside the `LT` registers. -/
structure LtSt where
  /-- `LT_CYC`. -/
  cyc : Nat := 0
  /-- Consecutive good presence windows (R52), up to four. -/
  goodWindows : Nat := 0
  /-- Of the last lock window: its Fc cycles, and its backup cycles. -/
  fcCycles : Nat := 30
  backupCycles : Nat := 1
  /-- Those of the last lock window before t0 of R75: B of R192 is their ratio. -/
  fcLost : Nat := 30
  backupLost : Nat := 1
  /-- In ACQUIRE: consecutive lock windows with `|d| ≤ 2`, and lock windows in all (R54, R55). -/
  lockGood : Nat := 0
  lockTotal : Nat := 0
  /-- The accepted frame that announces the next beat. -/
  frame : Option Frame := none
  /-- A misplaced SYNCIN beat is charged to the next expected beat (R67). -/
  syncBad : Bool := false
  /-- Frame-announced beats in a row whose numbers differ (R67). -/
  mismatches : Nat := 0
  /-- The skew in effect, in sub-cycles, and the one that takes effect at the next beat (R70). -/
  skew : Int := 0
  skewPending : Option Int := none
  /-- Loss of lock has been declared and t0 plus two backup cycles has not come (R75). -/
  freezeDue : Bool := false
  /-- Beats after t3 that raised an error while channels wait for the automatic resume (R77); none: nothing waits. -/
  resumeWait : Option Nat := none
  /-- The automatic resume has been abandoned (R77). -/
  abandoned : Bool := false
  /-- Channels frozen by STANDBY wait for a beat under BEAT (R498). -/
  standbyResume : Bool := false
  /-- FC- and BEAT-sourced clock outputs run (R74). -/
  clockOuts : Bool := false
  /-- `LT_CYC` of a holdover tick, from loss of lock on; ticks come every 30 cycles (R58, R218). -/
  tick : Nat := 0
  /-- How far the boundaries of the Fc/8 divider lie off the multiples of 8: from a lock until the beat that realigns it (R58). -/
  divider : Nat := 0
  deriving DecidableEq, Repr

/-- A record that waits in a channel's or a unit's buffer for its ring (R217, R276, R312, R340): kind 0 mark, 1 event,
2 capture header, 3 fail; `owner` is the channel, or four times the core plus the unit. -/
structure Buffered where
  kind : Nat
  owner : Nat
  ring : Nat
  typ : Nat
  bytes : List Byte
  deriving DecidableEq, Repr

/-- What waits for a boundary of a core's channel (R85). -/
inductive Want where
  /-- A register whose value in effect follows its written value at a boundary. -/
  | reg (k : RegKey) (w : Word)
  /-- A mode asked for by a step or by a register write (R90). -/
  | modeStep (m : Nat)
  | modeReg (m : Nat)
  /-- A limit word (`taper` false) or taper word asked for by a SETLIM step or by a register write (R148). -/
  | wordStep (taper : Bool) (w : Word)
  | wordReg (taper : Bool) (w : Word)
  deriving DecidableEq, Repr

/-- A request: the Line Time cycle at which it was made, its core, and what it asks for. -/
structure Req where
  at_ : Nat
  core : Nat
  want : Want
  deriving DecidableEq, Repr

/-- A control-switch pulse in progress (Tables 3.3 and 3.4); instants in sub-cycles. -/
structure Pulse where
  fwd : Bool
  g : Nat
  minEnd : Nat
  tmax : Nat
  deriving DecidableEq, Repr

/-- A level that a pin of the channel takes at an instant: pin 0 GH, 1 GL, 2 AUX0, 3 AUX1; level 0 low, 1 high, 2 high
impedance. -/
structure Edge where
  t : Nat
  pin : Nat
  lvl : Nat
  deriving DecidableEq, Repr

/-- The vector being played (R257). -/
structure Vec where
  v0 : Nat
  k : Nat
  len : Nat
  per : Nat
  deriving DecidableEq, Repr

/-- The timing generators, the formatter and the loop status of a core beside its registers. Instants of edges are in
sub-cycles of Line Time, those of requests in cycles. -/
structure DrvSt where
  /-- The next boundary; none: the grid has to be taken up (R85, R112). -/
  next : Option Nat := none
  /-- The boundary at which the cycle in progress began. -/
  g : Nat := 0
  pulse : Option Pulse := none
  /-- What runs in the cycle: 0 both gates low, 1 forward, 2 reverse, 3 DUTY, 4 VECTOR. -/
  run : Nat := 0
  /-- The direction of the last PCM cycle: 0 none, 1 forward, 2 reverse (R103). -/
  dir : Nat := 0
  /-- The last DUTY cycle had `ON` above 0 (R99). -/
  dutyOn : Bool := false
  /-- Levels of the pins before the listed edges, and the edges since, oldest first. -/
  levels : List Nat := [0, 0, 2, 2]
  edges : List Edge := []
  /-- The cycle contains an overcurrent trip; cycles in a row that did; the stamp of the latest crossing (R113, R114). -/
  ocTrip : Bool := false
  ocRun : Nat := 0
  ocStamp : Nat := 0
  /-- That crossing was stamped in holdover (R76). -/
  ocHold : Bool := false
  /-- A Calm request waits for the boundary: its instant, and whether it is that of R114. -/
  calm : Option Nat := none
  ocCalm : Bool := false
  /-- A START, RESUME or automatic resume waits for the boundary. -/
  leave : Option Nat := none
  /-- The mode that takes effect when the channel leaves Calm (R91). -/
  mode : Nat := 0
  /-- Both gates are held low by an overvoltage trip until the boundary (R115). -/
  ovLow : Bool := false
  /-- The dead times of the cycle in progress, in sub-cycles: GH falling to GL rising, GL falling to GH rising (R111). -/
  dtHL : Nat := 192
  dtLH : Nat := 192
  /-- The instant of the last Calm request that a fast-protection trip made, in cycles (R248). -/
  tripCalm : Option Nat := none
  /-- Dwell counts of R152: samples of D, samples of S, samples toward `TPR`. -/
  dCount : Nat := 0
  sCount : Nat := 0
  tCount : Nat := 0
  /-- `CV_DWELL` as it stood when each of these counts started (R145). -/
  dNeed : Nat := 0
  sNeed : Nat := 0
  tNeed : Nat := 0
  /-- The channel was outside Calm when its sequencer froze or its gates went low in holdover (R293). -/
  frozeAct : Bool := false
  /-- Changes of `CVA` and `TPR` that wait for the boundary (R153). -/
  cvaNext : Option Bool := none
  tprNext : Option Bool := none
  /-- A strobe that is still to be made: its instant in sub-cycles and the vector (R106). -/
  strobe : Option (Nat × Nat) := none
  /-- The state codes of the last vector, by line, after "don't care" has been resolved (Table 3.6). -/
  lines : List Nat := [0, 0, 5, 5]
  /-- The end of the segment-start trigger in progress, in cycles (R259). -/
  trigEnd : Option Nat := none
  /-- Segment-start triggers, the latest first: begin and end in cycles (R259); and when VECTOR mode was last left, in sub-cycles. -/
  trigs : List (Nat × Nat) := []
  trigCut : Nat := 0
  deriving DecidableEq, Repr

/-- The resampler and playback of a core (R235 to R251). -/
structure PlaySt where
  playing : Bool := false
  slot : Nat := 0
  len : Nat := 0
  /-- The stored period in sub-cycles. -/
  p : Nat := 1
  filt : Nat := 0
  /-- U of the next cycle, in sub-cycles, and the index of the last sample whose markers have been taken. -/
  u : Nat := 0
  seen : Int := -1
  /-- The cycle in progress is the last. -/
  last : Bool := false
  pastD : Bool := false
  vec : Option Vec := none
  /-- The committed successor. -/
  next : Option Nat := none
  /-- The slot that is named and not committed, and the instant of its naming. -/
  name : Option (Nat × Nat) := none
  /-- What the start check of the coming segment found: 0 it plays, 1 to 15 a code of Table 7.4, 16 the slot or a
  member's slot is not READY. -/
  checked : Option Nat := none
  /-- With it, whether the hold segment can play, and the sequencer boundary of the check (R250, R254). -/
  holdOk : Bool := false
  checkAt : Nat := 0
  /-- The committed successor is the hold segment in the place of a VECTOR segment, and waits for its boundary (R258). -/
  subNext : Bool := false
  value : Int := 0
  /-- Markers M3 to M0 of the cycle in progress. -/
  marks : Nat := 0
  dwell : Bool := false
  lull : Bool := false
  /-- The end of the predecessor, from which the lull runs, in sub-cycles. -/
  lullFrom : Nat := 0
  /-- The end of the last vector, from which a committed successor in another mode waits (R258), in cycles. -/
  vecEnd : Option Nat := none
  /-- The hold segment plays as a substitute; a substituted interval runs (R251). -/
  subst : Bool := false
  substIv : Bool := false
  /-- The stored sample index of the cycle in progress. -/
  idx : Nat := 0
  /-- The resampler's history from the core that the channel moved away from: the index of its first sample, and the sample words
  (R525). -/
  moved : Int × List Nat := (0, [])
  /-- The segment has begun and the mode and words of its header have not yet been judged at a boundary (R225, R226). -/
  fresh : Bool := false
  /-- The instant (sub-cycles) at which `PLAY.SEGID` changed last; and of the changes of the last 2^31 sub-cycles, the latest first,
  the instant and what it read before. -/
  segSince : Nat := 0
  segPast : List (Nat × Nat) := []
  /-- The named segment, or the hold segment in its place, has reached its start since it was named. -/
  started : Bool := false
  deriving DecidableEq, Repr

/-- An entry of the loop stack (R267). -/
structure LoopEnt where
  enda : Nat
  body : Nat
  rem : Nat
  deriving DecidableEq, Repr

/-- A deferred action (R287): a CALL or a JUMP, with its target. -/
structure Action where
  call : Bool
  tgt : Nat
  deriving DecidableEq, Repr

/-- What a step stalls on. -/
inductive Stall where
  | none | play | waitlt | waitev
  /-- A patched routine waits to go on (Table 8.12, WAIT), or stands between two of its words. -/
  | micro
  deriving DecidableEq, Repr

/-- The sequencer of a core beside its registers. -/
structure SeqSt where
  loops : List LoopEnt := []
  calls : List (Nat × Nat) := []
  dq : List Action := []
  stall : Stall := .none
  /-- The boundary at which the step in progress, or the next step, begins. -/
  b : Nat := 0
  /-- The targets T0 and T1 of a wait, and the classes it waits for. -/
  t0 : Nat := 0
  t1 : Nat := 0
  mask : Nat := 0
  /-- The wait ends with `SEQ.ANCHOR` taking its target. -/
  anch : Bool := false
  /-- The slot that a stalled PLAY names. -/
  slot : Nat := 0
  /-- The boundary from which a stalled step may end after a resume, and whether that was from FROZEN (R291). -/
  since : Nat := 0
  thawed : Bool := false
  /-- The outcomes that DISPATCH reads (Table 8.4). -/
  wtmo : Bool := false
  ltpast : Bool := false
  armok : Bool := false
  /-- The state that HELD or FROZEN returns to (Table 8.9). -/
  heldSt : Nat := 0
  frozeSt : Nat := 0
  /-- The target of a JUMP command (R292). -/
  superTgt : Nat := 0
  markSeq : Nat := 0
  /-- Offers that wait for the next sequencer-cycle boundary: class and instant. -/
  offers : List (Nat × Nat) := []
  /-- The boundary at which a RESUME command was last carried out (R503). -/
  resumed : Option Nat := none
  /-- The boundary at which a JUMP or CALL class was last taken (R283). -/
  taken : Option Nat := none
  /-- The pending bits that offers have set at a cycle: the cycle, and the bits (R303). -/
  offered : Nat × Nat := (0, 0)
  /-- Entries of the event jump table written of late: the class, the first boundary whose offers the new value serves, and the value
  before (R303). -/
  evjWas : List (Nat × Nat × Word) := []
  /-- Of a patched routine in progress: the microaddress and the cycle of its next word, the word whose fields `XF` routes, and
  whether the last ALU result was 0 (R297). -/
  ua : Option Nat := none
  ut : Nat := 0
  word : Nat := 0
  zero : Bool := false
  deriving DecidableEq, Repr

/-- A trigger that waits to be acted on (R309): its instant in sub-cycles, its `TSRC`, its lane. -/
structure Trig where
  t : Nat
  src : Nat
  lane : Nat
  /-- Of a mask: the decision instant, in cycles, at which it is acted on; and whether the stamp was taken in holdover (R76). -/
  due : Option Nat := none
  hold : Bool := false
  deriving DecidableEq, Repr

/-- The capture of a core beside its registers (R304 to R319). -/
structure CapSt where
  /-- The arm instant, and the settings and window interval in effect there. -/
  a : Nat := 0
  depth : Nat := 0
  dec : Nat := 0
  tsrc : Nat := 0
  tedge : Nat := 0
  post : Nat := 0
  irq : Bool := false
  spill : Bool := false
  ival : Nat := 0
  /-- Windows since the last stored one, and samples stored. -/
  skip : Nat := 0
  n : Nat := 0
  /-- S of the first stored sample. -/
  s0 : Nat := 0
  trigs : List Trig := []
  /-- The trigger taken. -/
  trig : Option Trig := none
  /-- Charge and segment at the trigger instant. -/
  qT : Int := 0
  segT : Nat := 0
  flags : Nat := 0
  /-- Samples that have entered the spill ring. -/
  spilled : Nat := 0
  seq : Nat := 0
  deriving DecidableEq, Repr

/-- A mask beside its registers (R320 to R331). -/
structure MaskSt where
  /-- The check runs (R321). -/
  checking : Bool := false
  /-- The two latest origins, the latest first; and the charge at those before the last load of Line Time. -/
  origins : List Nat := []
  charges : List (Nat × Int) := []
  count : Nat := 0
  deriving DecidableEq, Repr

/-- A stamp on its way to a core: its value in sub-cycles, the source code of Table 6.1, its sense, its lane, and whether
it was taken in holdover; the core acts on it at the first boundary from cycle `from_` on (R203). -/
structure Stamp where
  t : Nat
  src : Nat
  fall : Bool
  lane : Nat
  hold : Bool
  from_ : Nat
  /-- The last boundary at or before it (R207). -/
  last : Nat
  deriving DecidableEq, Repr

/-- A measurement unit beside its registers (R208 to R217); instants in sub-cycles. -/
structure UnitSt where
  /-- The arm instant: stamps below it are ignored. -/
  a : Nat := 0
  start : Nat := 0
  /-- The stop that HELD holds. -/
  stop : Nat := 0
  deadline : Option Nat := none
  limit : Nat := 0
  loss : Bool := false
  hold : Bool := false
  /-- A stop in ARMED that a start within one sub-cycle is still to join (R213). -/
  near : Option Nat := none
  /-- The boundary D of a disarm that waits for stamps below it (R210). -/
  off : Option Nat := none
  /-- Arms (true) and disarms since, which take place after it in this order: their boundaries. -/
  later : List (Nat × Bool) := []
  seq : Nat := 0
  deriving DecidableEq, Repr

/-- What mask `i` finds of a result at its delivery (R324, R325): `MASK.CFG` and `MASK.APPR` as they stand there, the bit of `MASK.STAT`
of a breakpoint that cannot be used, or the quantity and the envelope value; past the last breakpoint under `TAIL` END. -/
structure MaskEval where
  i : Nat
  cfg : Word
  appr : Word
  fault : Option Nat := none
  ended : Bool := false
  x : Int := 0
  e : Int := 0
  deriving DecidableEq, Repr

/-- The result set of a window (R177). -/
structure ResultSet where
  v : Int
  i : Int
  t : Nat
  q : Int
  s : Nat
  flags : Nat
  seq : Nat
  ival : Nat
  /-- The decision instant of its mask evaluation, and what the masks have found at t5 (R324). -/
  due : Nat
  evals : List MaskEval := []
  deriving DecidableEq, Repr

/-- The conversion window grid of a core beside its registers (R170 to R174). -/
structure WinSt where
  w : Nat := 300000
  ofs : Nat := 0
  /-- The next window carries `GAP`: a grid instant passed without a window. -/
  gap : Bool := false
  /-- No window has started on the grid since it last changed (R173). -/
  fresh : Bool := false
  /-- The last instant of the grid that has been judged. -/
  judged : Option Nat := none
  /-- The window sequence number, and windows since the last result record. -/
  seq : Nat := 0
  recN : Nat := 0
  /-- The temperature group: its windows, the sum of their ratios, and whether one of them was out of range. -/
  thN : Nat := 0
  thSum : Int := 0
  thBad : Bool := false
  /-- Results that masks are still to evaluate at t5 + 512 (R324), oldest first. -/
  toJudge : List ResultSet := []
  deriving DecidableEq, Repr

/-- A write into segment memory in the present sequencer cycle (R230): the boundary at which the cycle began, the offset, the bytes
that were there, and the slots that were READY. -/
structure SegWrite where
  at_ : Nat
  ofs : Nat
  old : List Byte
  ready : List Nat
  deriving DecidableEq, Repr

/-- What a core holds beside its registers and memories. -/
structure CoreSt where
  drv : DrvSt := {}
  play : PlaySt := {}
  seq : SeqSt := {}
  cap : CapSt := {}
  masks : Table MaskSt := []
  units : Table UnitSt := []
  stamps : List Stamp := []
  /-- The changes of the measurement gate, the latest first: boundary and value (R206, R207). -/
  gates : List (Nat × Bool) := []
  /-- The cycle from which on the gate is still to be judged. -/
  gateFrom : Nat := 0
  win : WinSt := {}
  /-- Slots whose validation has been requested (R231), oldest first. -/
  validating : List Nat := []
  /-- Writes into its segment memory in the present sequencer cycle, the latest first. -/
  writes : List SegWrite := []
  /-- Packets since the last stamp entry (R195). -/
  div : Nat := 0
  /-- `SEQ.CTX` has been written since the core last became spare (R526). -/
  ctxWritten : Bool := false
  /-- The sensor reading at which the timing generators were last calibrated (R516). -/
  tgCal : Option Int := none
  deriving DecidableEq, Repr

/-- A conversion window in progress in a front end (R167). -/
structure Window where
  b : Nat
  w : Nat
  ival : Nat
  shunt : Nat
  vref : Nat
  path : Nat
  /-- Flags known at t0: `PATHSW`, `TRIM`, `GAP`; and those gathered on the way. -/
  flags : Nat
  /-- The idle path converts the live inputs (R185). -/
  cmp : Bool
  /-- The channel was in Calm at S, as far as S has come (Table 5.3). -/
  calm : Bool
  /-- The sample instant S (R167), and what applies from t0 (R197): `CONV.CFG`, and the table of R178. -/
  s : Nat
  cfg : Word
  tab : List Nat
  /-- The charge at S, where Line Time has been loaded since S. -/
  q : Option Int := none
  deriving DecidableEq, Repr

/-- The charge state of a channel until an instant (sub-cycles), kept so that Q at an instant before it can be formed
(R191): accumulator, counted packets, QP. -/
structure ChargePt where
  t : Nat
  acc : Int
  counted : List (Nat × Bool)
  qp : Nat
  deriving DecidableEq, Repr

/-- A channel's trims taken as one set by APPLY (R514), the instant, and what has not yet been applied: the conversion
trims, the loop trims, the packet-width trims. -/
structure TrimSet where
  at_ : Nat
  loopt : Word
  misc : Word
  cmpa : Word
  cmpb : Word
  ramp : Word
  conv : Bool := true
  loop : Bool := true
  width : Bool := true
  deriving DecidableEq, Repr

/-- The current loop of a front end (R128 to R146). Voltages are in grains of Machine/Loop.lean, instants in sub-cycles. -/
structure LoopSt where
  /-- The code that the current setpoint DAC holds, and the instant at which it was loaded (R84). -/
  dac : Int := 0
  load : Nat := 0
  /-- The integrator is clamped (R142). -/
  clamped : Bool := true
  /-- The demand D at `at_`, the error that has been integrated up to there (none since a release), and the upper bound Dmax of D
  (R140, R141). -/
  d : Int := 0
  err : Option Int := none
  at_ : Nat := 0
  top : Int := 0
  /-- The polarity of the error is that of reverse cycles (R140, R144). -/
  rev : Bool := false
  deriving DecidableEq, Repr

/-- The last crossing of a protection comparator: the interval for which the voltage at its pins, in nV, stays at `level`; the
VREFP − VREFM and the comparator-to-pad delay there (R155 to R158). -/
structure Excursion where
  start : Nat
  stop : Nat
  level : Int
  vref : Nat
  delay : Nat
  /-- The stamp of the crossing (R158). -/
  stamp : Nat := start
  deriving DecidableEq, Repr

/-- A failure of the present cycle (R339): the cycle, where its record was written in fail memory and what was there, the record, and,
where it was the first that KEEP left unwritten, what `FULL` and the pending bit of the event source were before. -/
structure FailLog where
  at_ : Nat
  place : Option (Nat × List Byte)
  rec_ : List Byte
  full : Option (Bool × Bool) := none
  deriving DecidableEq, Repr

/-- A front end beside its registers (R128 to R195). -/
structure FeSt where
  loop : LoopSt := {}
  /-- The last excursions at the overcurrent and overvoltage comparators. -/
  oc : Option Excursion := none
  ov : Option Excursion := none
  /-- The codes of the comparator offset DACs of each path, for the V, I and T lanes: the set value in effect plus the correction, as
  they were last set between conversions (R517). -/
  offsA : List Int := [0, 0, 0]
  offsB : List Int := [0, 0, 0]
  /-- The code of the ramp slope DAC of each path, as it was last set between conversions (R132). -/
  rampA : Nat := 2048
  rampB : Nat := 2048
  window : Option Window := none
  /-- Windows past t4 whose results are to be delivered. -/
  ready : List Window := []
  /-- The set of trims that an APPLY holds pending (R514), and when it was written. -/
  trims : Option TrimSet := none
  /-- The corrections of the active path, frozen (R518). -/
  corrActive : Word := 0
  /-- Windows in a row with `REFF`, and when MP1 last swapped the paths (R519). -/
  reffRun : Nat := 0
  lastSwap : Option Nat := none
  /-- The last packets counted: stamp in sub-cycles and sign, the latest first, at most two since the last clear. -/
  counted : List (Nat × Bool) := []
  /-- Earlier charge states, the latest first. -/
  hist : List ChargePt := []
  /-- A packet runs until this cycle; a crossing that waits for its end. -/
  packetEnd : Option Nat := none
  queued : Nat := 0
  /-- QP that waits, with 32 fraction bits: for the boundary given, else for the next window (R188). -/
  qpNext : Option Nat := none
  qpFrom : Option Nat := none
  /-- QP in use, with 32 fraction bits, and the packet width it was formed from (R188). -/
  qp : Nat := 6400 * 4294967296
  width : Nat := 64
  /-- The asynchronous counters of R192. -/
  posAsync : Nat := 0
  negAsync : Nat := 0
  /-- The next result's charge includes the holdover charge (R76). -/
  holdCharge : Bool := false
  /-- The beat of a pending clear, and that of the last clear made (R194). -/
  clear : Option Nat := none
  lastClear : Option Nat := none
  /-- The failures of the present cycle, the latest first. -/
  fails : List FailLog := []
  /-- A failure has gone unwritten under KEEP since the last clear (R338). -/
  unwritten : Bool := false
  deriving DecidableEq, Repr

/-- The device's squall state (R332 to R336). -/
structure SqlSt where
  /-- Local requests that wait for the boundary: the channels. -/
  joined : List Nat := []
  /-- Received squalls that wait for it: link (0 E, 1 W), origin word. -/
  recv : List (Nat × Nat) := []
  seq : Nat := 0
  /-- IDs of the last squalls acted on: device and sequence number. -/
  seen : List (Nat × Nat) := []
  deriving DecidableEq, Repr

/-- The event inputs beside the `EVT` registers. -/
structure EvtSt where
  /-- When each lane last stamped an edge, in sub-cycles of the device's own count (R201). -/
  last : Table Nat := []
  /-- Stamps of a lane that the cores have not acted on: lane, and the cycle from which on they act. -/
  queue : List (Nat × Nat) := []
  /-- The level changes of each input, the latest first: the sample that first sees the level, the sample before it, and the level
  (R206). -/
  levels : Table (List (Nat × Nat × Bool)) := []
  deriving DecidableEq, Repr

/-- A remap in progress (R527): the channel, its core and the spare core, the beat of the commit, and what MP1 has done. -/
structure RemapSt where
  ch : Nat
  old : Nat
  new : Nat
  beat : Nat
  copied : Bool := false
  stopped : Bool := false
  deriving DecidableEq, Repr

/-- The crossbar beside its registers, and the repairs that use it. -/
structure XbarSt where
  /-- The map and gangs that the pending commit latched, and its beat (R28). -/
  map : List Nat := []
  gangs : List Nat := []
  beat : Nat := 0
  remap : Option RemapSt := none
  /-- A cut (1) or import (3) that waits for its beat (R530, R531). -/
  handoff : Option (Nat × Nat) := none
  deriving DecidableEq, Repr

/-- Resets and power states beside the `PWR` registers. -/
structure RstSt where
  /-- The reset in progress (R490): its rank (0 POR, 1 PIN, 2 WDOG, 3 PORT) and its code of `PWR.RSTCAUSE.LAST`. -/
  run : Option (Nat × Nat) := none
  /-- t3 of Table 15.3 has passed. -/
  applied : Bool := false
  /-- Of a POR: 1 from t0, 2 from t1 of Table 15.2; 3 where VAON09 has dropped and the rails have not come back. -/
  por : Nat := 0
  /-- RESET_N is low; its falling edge waits for the 200 ns of Table 15.1. -/
  pinLow : Bool := false
  pinDue : Bool := false
  /-- An HLP RESET request has been answered and its PORT reset is to come (R447). -/
  portDue : Bool := false
  /-- The management firmware runs on MP0 and MP1 (R481). -/
  mp : Bool := false
  /-- The instant t0 of a STANDBY request (R498). -/
  standby : Option Nat := none
  /-- HIBERNATE: 1 from t0, 2 from t1, 3 from t2 of R500; 4 from w0, 5 from w1 of R501. -/
  hib : Nat := 0
  /-- A wake cause has come before t2 of R500. -/
  wakeDue : Bool := false
  /-- Channels whose DACs settle after unparking, and when each began (R497). -/
  settle : List (Nat × Nat) := []
  /-- From t2 of HIBERNATE: `PERIOD` and `CETH` of `MEM.SCRUB`, by which the scrubber of the retention RAM goes on (R422). -/
  scrub : Nat × Nat := (0, 0)
  /-- TESTMODE was high at t1 of the last POR (R541). -/
  testMode : Bool := false
  /-- The instant of t3 of the warm reset in progress, and from t3 on that of t5 (R492), in cycles. -/
  due : Nat := 0
  /-- The wake was that of RESET_N (R501). -/
  wakePin : Bool := false
  /-- The instant at which the watchdog's count reaches 0 (R496), in cycles. -/
  wdEnd : Nat := 12000000000
  deriving DecidableEq, Repr

/-- A request of a supervisor that waits for its turn (R442); `answered` for one that has been answered FROZEN while it
waited (R433). -/
structure Held where
  seq : Nat
  typ : Nat
  payload : List Byte
  answered : Bool := false
  deriving DecidableEq, Repr

/-- An executed transaction whose response is cached (R443). -/
structure Cached where
  seq : Nat
  typ : Nat
  status : Nat
  payload : List Byte
  deriving DecidableEq, Repr

/-- A request of the device that has no acknowledgement yet (R448): its type, payload and transmissions; for a REC the ring,
the index of its first entry, and its part. -/
structure DevReq where
  seq : Nat
  typ : Nat
  payload : List Byte
  tries : Nat := 1
  ring : Nat := 0
  first : Nat := 0
  part : Nat := 0
  deriving DecidableEq, Repr

/-- An HLP session (R439 to R448). -/
structure Session where
  src : Source
  /-- N of R442. -/
  next : Nat
  /-- `RTO_S`, `TRIES_S`, `NOTE`, `REC` and `CTO_S` of its OPEN. -/
  rto : Nat
  tries : Nat
  note : Bool
  rec_ : Bool
  cto : Nat
  held : List Held := []
  /-- Responses of the last 64 transactions, the latest first. -/
  cache : List Cached := []
  expired : List Nat := []
  /-- The next `SEQ` of the device's own sequence space, and its requests without an acknowledgement, oldest first. -/
  seq : Nat := 0
  out : List DevReq := []
  deriving DecidableEq, Repr

/-- Ring entries that a REC carries and that are not yet delivered (R451): `st` 0 sent, 1 acknowledged, 2 to be sent again. -/
structure Rec where
  ring : Nat
  first : Nat
  count : Nat
  part : Nat
  st : Nat := 0
  deriving DecidableEq, Repr

/-- The line port and the UART's HLP beside the `LINE` and `SVC` registers. -/
structure LineSt where
  /-- The mode that the PHY search tries (R435): 1 10GBASE-R, 2 1000BASE-X. -/
  search : Nat := 1
  /-- Link addresses by network address: IPv6 or not, the address, the MAC address (ARP, Neighbour Discovery). -/
  neighbours : List (Bool × Nat × Nat) := []
  /-- Packets that wait for the link address of their next hop: IPv6 or not, the next hop, the packet. -/
  unresolved : List (Bool × Nat × List Byte) := []
  /-- The sessions 0 to 7, and the service session as number 8. -/
  sessions : Table Session := []
  recs : List Rec := []
  deriving DecidableEq, Repr

/-- A hand-off transfer that sends (R458): frames sent so far and acknowledged, of how many; transmissions of the oldest that is
not acknowledged. -/
structure HoffTx where
  link : Nat
  ofs : Nat
  len : Nat
  sent : Nat
  acked : Nat
  tries : Nat := 1
  deriving DecidableEq, Repr

/-- The peer links beside the `PEER` registers. -/
structure PeerSt where
  tx : Option HoffTx := none
  /-- The sequence number of the next hand-off frame in order. -/
  rxNext : Nat := 0
  deriving DecidableEq, Repr

/-- The JTAG port (R460, R461): the instruction in effect, SVCADDR, the outcome of the last access, that of an access that
has not finished, and what the last Capture-DR of SVCDATA captured. -/
structure JtagSt where
  ir : Nat := 0x01
  kind : Nat := 0
  inc : Bool := false
  addr : Nat := 0
  last : Nat × Word := (0, 0)
  busy : Option (Nat × Word) := none
  captured : Nat × Word := (0, 0)
  /-- What the data register that the instruction selects captures: the identification for IDCODE, else 0 (R460). -/
  dr : Word := 0x10064BB5
  deriving DecidableEq, Repr

/-- A message that the part has sent: on port 0 line, 1 service UART, 2 PEER_E, 3 PEER_W. On the line it is an Ethernet
frame without its FCS, on the UART a SLIP frame, on a peer link a frame between /S/ and /T/. -/
structure Msg where
  port : Nat
  bytes : List Byte
  deriving DecidableEq, Repr

/-- Everything the spec gives the machine that is neither a register of a register table nor a byte of a memory. -/
structure Dev where
  /-- Of each channel whose `RING.CHB` has been written: the cycle from which the written base applies, and the one before it
  (R353). -/
  chb : Table (Nat × Nat) := []
  /-- How many free values have been drawn (the model's own field: `Config.freeValue` is read at this number). -/
  draws : Nat := 0
  irq : IrqSt := {}
  bus : BusSt := {}
  rings : Table Ring := []
  stor : StorSt := {}
  pins : Pins := {}
  image : ImageSt := {}
  boot : BootSt := {}
  lt : LtSt := {}
  buf : List Buffered := []
  /-- Requests that wait for a boundary, in order of arrival. -/
  reqs : List Req := []
  /-- Values in effect of the registers that follow their written values at a boundary. -/
  eff : List (RegKey × Word) := []
  cores : Table CoreSt := []
  fes : Table FeSt := []
  sql : SqlSt := {}
  evt : EvtSt := {}
  xbar : XbarSt := {}
  rst : RstSt := {}
  line : LineSt := {}
  peer : PeerSt := {}
  jtag : JtagSt := {}
  /-- Messages sent and not yet taken by the outside, oldest first. -/
  out : List Msg := []
  deriving DecidableEq, Repr

/-- The state of the block. -/
structure State where
  /-- Commands waiting, the first to be taken at the front. -/
  pending : List Instr
  /-- Registers that hold a value other than the Cold value, or that have been written. -/
  regs : List (RegKey × Word)
  /-- Bytes of the memories of Table 1.13 that are listed, by rising address (Machine/Ops.lean says what an unlisted one reads
  as); above the 40-bit map, the processors' instruction
  memories, and the flash with its bits inverted. -/
  mem : List Host.Cell
  /-- How often the memories of the core domain have lost their contents since the last POR (R502). -/
  losses : Nat
  dev : Dev
  deriving DecidableEq, Repr

/-- Every memory as t2 of a POR leaves it: 0, but for the `QP` of each channel block of the retention RAM, which is 6,400 nC
(R188, R491); 6,400 is 0x1900, and 0x19 is byte 53 of a block. -/
def resetMem : List Host.Cell := (List.range 64).map fun n => (0x0500000100 + 64 * n + 53, 0x19)

/-- The machine right after a POR, at t3 of Table 15.2, as the boot ROM starts: every register at its Cold value, every memory
cleared, nothing waiting (R491). -/
def State.reset : State := { pending := [], regs := [], mem := resetMem, losses := 0, dev := {} }

/-- Reasons to stop with a fault. The model has none: every command of the table has its effect on every state, so
no meaning answers a fault. -/
inductive Fault where
  deriving DecidableEq, Repr

/-- Reasons to refuse a command. -/
inductive Refusal where
  /-- Raised by the arm of Machine/Dispatch.lean of a command without a meaning; safe: the machine stops. -/
  | notModelled (mnemonic : String)
  deriving DecidableEq, Repr

end Sys2Proof.Machine
end

