-- ==== Sys2Proof/Machine/Ops.lean ====
section
/-!
DEFINITION. The operations over registers, memories and the rest of the state that every meaning is written with, and the
language `Prog` of effects. A meaning is a `Prog`: it can read the whole state (`look`) and it can change it only through
the effects below, none of which reaches the queue of commands. `Prog.run` gives its result.
-/
namespace Sys2Proof.Machine

/-! ## Registers -/

/-- The word a register list holds for `k`, if it lists one. -/
def regsFind (l : List (RegKey × Word)) (k : RegKey) : Option Word :=
  match l with
  | [] => none
  | (k', w) :: r => if k' = k then some w else regsFind r k

/-- The register list with `k` set to `w`. -/
def regsPut (l : List (RegKey × Word)) (k : RegKey) (w : Word) : List (RegKey × Word) :=
  match l with
  | [] => [(k, w)]
  | (k', w') :: r => if k' = k then (k, w) :: r else (k', w') :: regsPut r k w

/-- The stored value of a register: what was last written to it, or its Cold value. -/
def State.reg (s : State) (k : RegKey) : Word := (regsFind s.regs k).getD k.cold

/-- The state with register `k` set to `w`; reserved bits stay 0 (R12). -/
def State.setReg (s : State) (k : RegKey) (w : Word) : State := { s with regs := regsPut s.regs k (w &&& k.id.mask) }

/-- The value of a field. -/
def State.fld (s : State) (f : Field) : Nat := fieldGet (s.reg f.reg) f.lo f.w

/-- A one-bit field as a truth value. -/
def State.flg (s : State) (f : Field) : Bool := s.fld f = 1

/-- A field read as two's complement (R8). -/
def State.sfld (s : State) (f : Field) : Int := signed f.w (s.fld f)

/-- The state with a field set to `n`, its low bits. -/
def State.setFld (s : State) (f : Field) (n : Nat) : State := s.setReg f.reg (fieldPut (s.reg f.reg) f.lo f.w n)

/-- Bit `n` of a bitmap that spans the registers `r 0`, `r 1`, … of 32 bits each. -/
def State.bit (s : State) (r : Nat → RegKey) (n : Nat) : Bool := Machine.bit (s.reg (r (n / 32))) (n % 32)

/-- The field that is bit `n` of such a bitmap. -/
def bitField (r : Nat → RegKey) (n : Nat) : Field := ⟨r (n / 32), n % 32, 1⟩

/-- A 64-bit quantity held in a `_LO` register and a `_HI` register (R9). -/
def State.reg64 (s : State) (lo hi : RegKey) : Nat := (s.reg lo).toNat + 2 ^ 32 * (s.reg hi).toNat

/-! ## Memory: a list of cells in one canonical form (R491, R502) -/

/-- The memories of the core domain that a loss of its power leaves without contents: segment, capture and fail memory and
the scratchpad (R502). -/
def coreMemory (a : Nat) : Bool := 0x0100000000 ≤ a && a < 0x0400000000

/-- What an unlisted byte reads as: 0 after the clearing of a POR; in the memories of the core domain, once they have lost
their contents for the `n`-th time since, a value that the spec leaves open. -/
def unlisted (n a : Nat) : Byte := if n = 0 || !coreMemory a then 0 else Config.lostByte n a

/-- The byte at an address. -/
def memGet (n : Nat) (m : List Host.Cell) (a : Nat) : Byte :=
  match m with
  | [] => unlisted n a
  | (a', b) :: r => if a = a' then b else memGet n r a

/-- The memory with the byte at `a` set: the list stays sorted, and lists no byte that it would read as unlisted. -/
def memPut (n : Nat) (m : List Host.Cell) (a : Nat) (b : Byte) : List Host.Cell :=
  match m with
  | [] => if b = unlisted n a then [] else [(a, b)]
  | (a', b') :: r =>
    if a' < a then (a', b') :: memPut n r a b
    else if a' = a then (if b = unlisted n a then r else (a, b) :: r)
    else (if b = unlisted n a then (a', b') :: r else (a, b) :: (a', b') :: r)

/-- The canonical form: addresses strictly rising, no byte listed that an unlisted one reads as. -/
def Memory.wf (n : Nat) : List Host.Cell → Bool
  | [] => true
  | (a, b) :: r => b != unlisted n a && (match r with | [] => true | (a', _) :: _ => a < a') && Memory.wf n r

/-- The byte of memory at an address. -/
def State.byte (s : State) (a : Nat) : Byte := memGet s.losses s.mem a

/-- The `n` bytes of memory from an address. -/
def State.bytes (s : State) (a n : Nat) : List Byte := (List.range n).map fun i => s.byte (a + i)

/-- The little-endian number in the `n` bytes from an address (R7). -/
def State.num (s : State) (a n : Nat) : Nat := leNat (s.bytes a n)

/-! ## Programs of effects -/

/-- What a command does: effects in order, each free to depend on the whole state at that point. -/
inductive Prog where
  | done
  /-- Set a register (its reserved bits stay 0). -/
  | reg (k : RegKey) (w : Word) (rest : Prog)
  /-- Set a byte of memory. -/
  | mem (a : Nat) (b : Byte) (rest : Prog)
  /-- Clear every byte outside the core domain's memories whose address satisfies `gone`. -/
  | memClear (gone : Nat → Bool) (rest : Prog)
  /-- Only bytes outside the core domain's memories whose address satisfies `kept` keep their value; `n` gives the losses
  counted since the last POR from those before. -/
  | memLose (n : Nat → Nat) (kept : Nat → Bool) (rest : Prog)
  /-- Change every listed register by a function of its name and value. -/
  | regMap (f : RegKey → Word → Word) (rest : Prog)
  /-- Change the rest of the state. -/
  | dev (f : Dev → Dev) (rest : Prog)
  /-- Go on as the state tells. -/
  | look (k : State → Prog)

/-- The cells of a memory whose address satisfies `p`. -/
def memOnly (m : List Host.Cell) (p : Nat → Bool) : List Host.Cell := m.filter fun c => p c.1

/-- The state after a program. -/
def Prog.run : Prog → State → State
  | .done, s => s
  | .reg k w p, s => p.run (s.setReg k w)
  | .mem a b p, s => p.run { s with mem := memPut s.losses s.mem a b }
  | .memClear l p, s => p.run { s with mem := memOnly s.mem fun a => coreMemory a || !l a }
  | .memLose n k p, s =>
    p.run { s with losses := n s.losses, mem := memOnly s.mem fun a => !coreMemory a && k a }
  | .regMap f p, s => p.run { s with regs := s.regs.map fun e => (e.1, f e.1 e.2 &&& e.1.id.mask) }
  | .dev f p, s => p.run { s with dev := f s.dev }
  | .look k, s => (k s).run s

/-- First one program, then another. -/
def Prog.seq : Prog → Prog → Prog
  | .done, q => q
  | .reg k w p, q => .reg k w (p.seq q)
  | .mem a b p, q => .mem a b (p.seq q)
  | .memClear l p, q => .memClear l (p.seq q)
  | .memLose n k p, q => .memLose n k (p.seq q)
  | .regMap f p, q => .regMap f (p.seq q)
  | .dev f p, q => .dev f (p.seq q)
  | .look k, q => .look fun s => (k s).seq q

/-- A list of programs in order. -/
def seqs : List Prog → Prog
  | [] => .done
  | p :: ps => p.seq (seqs ps)

/-- A program for each member of a list, in order. -/
def each {α : Type} (l : List α) (f : α → Prog) : Prog :=
  match l with
  | [] => .done
  | a :: as => (f a).seq (each as f)

/-- A program that depends on the state. -/
def ask (f : State → Prog) : Prog := .look f

/-- `p` where the condition holds of the state, else nothing. -/
def on (c : State → Bool) (p : Prog) : Prog := .look fun s => if c s then p else .done

/-- `p` where the condition holds, else nothing. -/
def when (c : Bool) (p : Prog) : Prog := if c then p else .done

/-- Set a field. -/
def setF (f : Field) (n : Nat) : Prog := .look fun s => .reg f.reg (fieldPut (s.reg f.reg) f.lo f.w n) .done

/-- Set a one-bit field. -/
def setB (f : Field) : Prog := setF f 1

/-- Clear a one-bit field. -/
def clrB (f : Field) : Prog := setF f 0

/-- Set a field to a signed number (R8). -/
def setZ (f : Field) (z : Int) : Prog := setF f (unsigned f.w z)

/-- Count one event in a field that stays at its largest value. -/
def count (f : Field) : Prog := .look fun s => setF f (satInc f.w (s.fld f))

/-- Count `n` events in such a field. -/
def countBy (f : Field) (n : Nat) : Prog := .look fun s => setF f (min (s.fld f + n) (2 ^ f.w - 1))

/-- Set a register whole. -/
def setR (k : RegKey) (w : Word) : Prog := .reg k w .done

/-- Set a 64-bit pair of registers. -/
def set64 (lo hi : RegKey) (n : Nat) : Prog :=
  .reg lo (BitVec.ofNat 32 n) (.reg hi (BitVec.ofNat 32 (n / 2 ^ 32)) .done)

/-- Change the rest of the state. -/
def dev (f : Dev → Dev) : Prog := .dev f .done

/-- Write a string of bytes to memory. -/
def putBytes (a : Nat) : List Byte → Prog
  | [] => .done
  | b :: bs => .mem a b (putBytes (a + 1) bs)

/-- Write a little-endian number of `n` bytes to memory (R7). -/
def putNum (a n v : Nat) : Prog := putBytes a (natLE n v)

/-- Draw a free value: a value that the spec leaves open. Nothing constrains it. -/
def free (k : Nat → Prog) : Prog :=
  .look fun s => .dev (fun d => { d with draws := d.draws + 1 }) (k (Config.freeValue s.dev.draws))

/-! ## Channels, cores and memories (R21, R48, Table 1.13) -/

/-- The number of channels. -/
def nChannels : Nat := 64

/-- The number of slice cores. -/
def nCores : Nat := 68

/-- The channels. -/
def channels : List Nat := List.range nChannels

/-- The slice cores. -/
def cores : List Nat := List.range nCores

/-- The core that serves channel `n` (R21). -/
def State.core (s : State) (n : Nat) : Nat := s.fld (F.XBAR_MAP_CORE n)

/-- The channel that core `k` serves, if it is not spare (R22). -/
def State.channelOf (s : State) (k : Nat) : Option Nat := channels.find? fun n => s.core n = k

/-- The gang of channel `n`: its leader and its channels (R29, Table 1.6). -/
def State.gang (s : State) (n : Nat) : Nat × List Nat :=
  match s.fld (F.XBAR_GANG_MODE (n / 4)), n % 4 with
  | 4, _ => (4 * (n / 4), [4 * (n / 4), 4 * (n / 4) + 1, 4 * (n / 4) + 2, 4 * (n / 4) + 3])
  | 1, 0 | 1, 1 | 3, 0 | 3, 1 => (4 * (n / 4), [4 * (n / 4), 4 * (n / 4) + 1])
  | 2, 2 | 2, 3 | 3, 2 | 3, 3 => (4 * (n / 4) + 2, [4 * (n / 4) + 2, 4 * (n / 4) + 3])
  | _, _ => (n, [n])

/-- The leader of channel `n`. -/
def State.leader (s : State) (n : Nat) : Nat := (s.gang n).1

/-- Channel `n` is in a gang. -/
def State.ganged (s : State) (n : Nat) : Bool := 1 < (s.gang n).2.length

/-- The base of segment memory of core `k`. -/
def segBase (k : Nat) : Nat := 0x0100000000 + k * 0x40000

/-- The base of capture memory of core `k`. -/
def capBase (k : Nat) : Nat := 0x0200000000 + k * 0x40000

/-- The base of fail memory of core `k`. -/
def failBase (k : Nat) : Nat := 0x0280000000 + k * 0x20000

/-- The base of the scratchpad. -/
def padBase : Nat := 0x0300000000

/-- The base of the control store window. -/
def ctlBase : Nat := 0x0400000000

/-- The base of the retention RAM. -/
def retBase : Nat := 0x0500000000

/-- The channel block of channel `n` in the retention RAM (Table 15.4). -/
def chBlock (n : Nat) : Nat := retBase + 0x100 + 64 * n

/-- The bytes of the ECC word that begins at `a` (Table 12.1): a microword has 96 bits, an entry of the dispatch table or a match
entry 32, any other word 64. -/
def eccSize (a : Nat) : Nat :=
  if ctlBase ≤ a && a < ctlBase + 0x48000 then 12 else if ctlBase + 0x48000 ≤ a && a < ctlBase + 0x80000 then 4 else 8

/-- The byte address of the ECC word that holds `a`. -/
def eccWord (a : Nat) : Nat :=
  if ctlBase ≤ a && a < ctlBase + 0x48000 then a / 16 * 16
  else if ctlBase + 0x48000 ≤ a && a < ctlBase + 0x80000 then a / 4 * 4 else a / 8 * 8

/-- An ECC word of copy `c` of the control store (R407), or with `c` 0 of any memory, as the list of words in error names it. -/
def eccKey (c a : Nat) : Nat := a + c * 2 ^ 40

/-- The word of that name lies, whole or in part, in the `n` bytes from `a` of copy `c`. -/
def eccHit (key c a n : Nat) : Bool :=
  key / 2 ^ 40 = c && key % 2 ^ 40 < a + n && a < key % 2 ^ 40 + eccSize (key % 2 ^ 40)

/-- An uncorrectable ECC word lies in the `n` bytes from `a` (R419), of copy `c` in the control store. -/
def State.badWord (s : State) (a n : Nat) (c : Nat := 0) : Bool :=
  s.dev.bus.ecc.any fun e => e.2.ue && eccHit e.1 c a n

/-! ## Line Time (R3, R58) -/

/-- `LT_CYC`, the cycles of Line Time. -/
def State.now (s : State) : Nat := s.dev.lt.cyc

/-- The MDLL is locked and Line Time is valid (`LT.STATE`). -/
def State.valid (s : State) : Bool := s.fld F.LT_STATE_LOCK_ST = 4 && s.fld F.LT_STATE_LT_ST = 1

/-- `LOCK_ST` is LOCKED (Table 2.2). -/
def State.locked (s : State) : Bool := s.fld F.LT_STATE_LOCK_ST = 4

/-- Time goes on to Line Time `t` cycles, where that is not past; `LT_CYC` has 64 bits (R3). A command that stands for an
instant of the spec moves the clock to that instant. DESIGN CHOICE (see notes/assumptions/108.md): a target past 2^64 − 1 is
reduced, and the count does not go back. -/
def advance (t : Nat) : Prog := dev fun d => { d with lt := { d.lt with cyc := max d.lt.cyc (t % 2 ^ 64) } }

/-- Channel `n` is parked (`PWR.PARKED`, R497). -/
def State.parked (s : State) (n : Nat) : Bool := s.bit (fun w => R.PWR_PARKED w) n

/-- Channel `n` is in Calm (`FMT.MODE.CUR` 1). -/
def State.calm (s : State) (n : Nat) : Bool := s.fld (F.FMT_MODE_CUR (s.core n)) = 1

/-- Some channel is outside Calm and PARK (R69, R70, R79). -/
def State.anyActive (s : State) : Bool := channels.any fun n => !(s.calm n || s.parked n)

end Sys2Proof.Machine
end

