-- ==== Sys2Proof/Machine/Irq.lean ====
section
/-!
DEFINITION. The interrupt controller (spec/11_interrupts.md): events and gusts, level inputs, selection, claim and
completion, asynchronous latches.
-/
namespace Sys2Proof.Machine

/-- The event counter of source `s` (Table 11.13). -/
def cntField (s : Nat) : Field := ⟨R.IRQ_CNT (s / 4), 8 * (s % 4), 8⟩

/-- The pending bit of source `s`. -/
def pendField (s : Nat) : Field := bitField (fun w => R.IRQ_PEND w) s

/-- The mask bit of source `s`. -/
def maskField (s : Nat) : Field := bitField (fun w => R.IRQ_MASK w) s

/-- The active bit of source `s`. -/
def activeField (s : Nat) : Field := bitField (fun w => R.IRQ_ACTIVE w) s

/-- The input bit of level source `s`. -/
def liveField (s : Nat) : Field := bitField (fun w => R.IRQ_LIVE w) s

/-- The coalescing timer of a source starts or stops (R383, R384). -/
def timerSet (s : Nat) (run : Bool) : Prog :=
  dev fun d => { d with irq := { d.irq with
    timer := if run then s :: d.irq.timer.filter (· != s) else d.irq.timer.filter (· != s) } }

/-- The edge source becomes pending and its timer stops (R384). -/
def makePending (s : Nat) : Prog := seqs [setB (pendField s), timerSet s false]

/-- One event of an edge source reaches the controller (R382, R383). -/
def event (s : Nat) : Prog :=
  ask fun st =>
    let n := satInc 8 (st.fld (cntField s))
    let ccnt := st.fld (F.IRQ_SRC_CCNT s)
    let ctime := st.fld (F.IRQ_COAL_CTIME s)
    seqs [
      setF (cntField s) n,
      when (st.fld (cntField s) = 0 && !st.flg (pendField s)) (timerSet s true),
      when ((ccnt ≠ 0 && ccnt ≤ n) || (ccnt = 0 && ctime = 0 && st.fld (cntField s) = 0)) (makePending s)]

/-- A block raises an edge source (R381). While the controller's clock is stopped, only an asynchronous latch catches the
edge (R401). -/
def raise (s : Nat) : Prog :=
  ask fun st =>
    if s = 0 || 255 < s || sourceLevel s then .done
    else if st.dev.irq.stopped then
      when (sourceAsync s)
        (dev fun d => { d with irq := { d.irq with latch := s :: d.irq.latch.filter (· != s) } })
    else event s

/-- An event of the present cycle of edge source `s` is taken back, of which a clear in that cycle leaves no cause (R339): `was` tells that
the source was pending before it. -/
def unevent (s : Nat) (was : Bool) : Prog :=
  ask fun st =>
    let n := st.fld (cntField s) - 1
    seqs [setF (cntField s) n, when (n = 0) (timerSet s false),
      when (!was && (n = 0 || n < st.fld (F.IRQ_SRC_CCNT s))) (clrB (pendField s))]

/-- The input of a level source is asserted or not (R381, R386): a change to asserted is one event, and the pending bit
equals the input while the source is not active. -/
def setLevel (s : Nat) (b : Bool) : Prog :=
  ask fun st =>
    seqs [
      when (b && !st.flg (liveField s)) (count (cntField s)),
      setF (liveField s) (if b then 1 else 0),
      when (!st.flg (activeField s)) (setF (pendField s) (if b then 1 else 0))]

/-- Source `s` is active and owned by target `t`. -/
def State.owns (st : State) (t s : Nat) : Bool := st.flg (activeField s) && st.fld (F.IRQ_SRC_OWNER s) = t

/-- The sources. -/
def sources : List Nat := (List.range 256).drop 1

/-- Target `t` has an active source (`RUN.RVALID`). -/
def State.running (st : State) (t : Nat) : Bool := sources.any (st.owns t)

/-- The running rank R_t (R390). -/
def State.runRank (st : State) (t : Nat) : Nat :=
  sources.foldl (fun r s => if st.owns t s then max r (st.fld (F.IRQ_SRC_RANK s)) else r) 0

/-- Source `s` is eligible for target `t` (R389). -/
def State.eligible (st : State) (t s : Nat) : Bool :=
  st.flg (pendField s) && !st.flg (maskField s) && !st.flg (activeField s)
    && (st.fld (F.IRQ_SRC_TGT s)).testBit t
    && st.fld (F.IRQ_T_THRESH_PRIO t) < st.fld (F.IRQ_SRC_PRIO s)
    && (!st.running t || (!st.flg F.IRQ_CTL_NOPRE && st.runRank t < st.fld (F.IRQ_SRC_RANK s)))

/-- Source `a` ranks above source `b` (R391). -/
def State.ranksAbove (st : State) (a b : Nat) : Bool :=
  let ra := st.fld (F.IRQ_SRC_RANK a)
  let rb := st.fld (F.IRQ_SRC_RANK b)
  let pa := st.fld (F.IRQ_SRC_PRIO a)
  let pb := st.fld (F.IRQ_SRC_PRIO b)
  rb < ra || (ra = rb && (pb < pa || (pa = pb && a < b)))

/-- The highest-ranked source eligible for `t`; 0 for none. -/
def State.best (st : State) (t : Nat) : Nat :=
  sources.foldl (fun b s => if st.eligible t s && (b = 0 || st.ranksAbove s b) then s else b) 0

/-- The presented source P_t; 0 for none. -/
def State.presented (st : State) (t : Nat) : Nat := st.fld (F.IRQ_T_RUN_PRES t)

/-- A controller cycle chooses P_t (R391). -/
def progIrqPresent (t : Nat) : Prog :=
  ask fun st =>
    let b := st.best t
    when (!st.dev.irq.stopped && b ≠ 0 && (st.presented t = 0 || st.ranksAbove b (st.presented t)))
      (setF (F.IRQ_T_RUN_PRES t) b)

/-- What a read of `IRQ.T[t].CLAIM` returns (R393). -/
def State.claimWord (st : State) (t : Nat) : Word :=
  let p := st.presented t
  if p = 0 then 0
  else if st.eligible t p then fieldPut (BitVec.ofNat 32 p) 16 8 (st.fld (cntField p))
  else 511

/-- What a read of `IRQ.T[t].CLAIM` does (R393). -/
def claim (t : Nat) : Prog :=
  ask fun st =>
    let p := st.presented t
    seqs [
      if p = 0 then .done
      else if st.eligible t p then
        seqs [setB (activeField p), setF (F.IRQ_SRC_OWNER p) t, clrB (pendField p), setF (cntField p) 0,
          timerSet p false]
      else count (F.IRQ_T_CNT_SPUR t),
      setF (F.IRQ_T_RUN_PRES t) 0,
      dev fun d => { d with irq := { d.irq with noticed := d.irq.noticed.filter (· != t) } }]

/-- What a write of `s` to `IRQ.T[t].COMPLETE` does (R396 to R398). -/
def complete (t s : Nat) : Prog :=
  ask fun st =>
    if s = 0 || 255 < s then .done
    else if st.owns t s then
      seqs [clrB (activeField s), setF (F.IRQ_SRC_OWNER s) 0,
        when (sourceLevel s) (setF (pendField s) (if st.flg (liveField s) then 1 else 0))]
    else seqs [count (F.IRQ_T_CNT_ORPH t), raise 252]

/-- The sources whose bits are set in word `w` of a bitmap with the value `v`. -/
def wordSources (w : Nat) (v : Word) : List Nat :=
  ((List.range 32).filter fun b => v.toNat.testBit b && 32 * w + b ≠ 0).map fun b => 32 * w + b

/-- A write through the set alias of `IRQ.PEND[w]` (R388). -/
def pendSet (w : Nat) (v : Word) : Prog :=
  each (wordSources w v) fun s => when (!sourceLevel s) (setB (pendField s))

/-- A write through the clear alias of `IRQ.PEND[w]` (R388). A source that has an event in the same cycle keeps its pending bit
and that one event (R15). -/
def pendClear (w : Nat) (v : Word) : Prog :=
  ask fun st =>
    each (wordSources w v) fun s =>
      when (!sourceLevel s)
        (if bit st.dev.bus.hwSets (s % 32) then setF (cntField s) 1
         else seqs [clrB (pendField s), setF (cntField s) 0, timerSet s false])

/-- The batch of source `s` is judged under settings that have just changed (R405): it becomes pending where it already
meets the count criterion, or where both criteria are off and it holds an event. -/
def rejudge (s : Nat) : Prog :=
  ask fun st =>
    let n := st.fld (cntField s)
    let ccnt := st.fld (F.IRQ_SRC_CCNT s)
    when (!sourceLevel s && n ≠ 0
        && ((ccnt ≠ 0 && ccnt ≤ n) || (ccnt = 0 && st.fld (F.IRQ_COAL_CTIME s) = 0)))
      (makePending s)

/-- `CTIME` µs have passed since the batch of `s` began (R383). -/
def progCoalesceTimeout (s : Nat) : Prog :=
  on (fun st => st.dev.irq.timer.contains s && st.fld (F.IRQ_COAL_CTIME s) ≠ 0 && !st.dev.irq.stopped)
    (makePending s)

/-- The controller's clock runs again: each set latch gives its source one event (R401). -/
def progAsyncLatchDelivery : Prog :=
  ask fun st =>
    when (!st.dev.irq.stopped)
      (seqs [each st.dev.irq.latch fun s => seqs [setB (bitField (fun w => R.IRQ_ALATCH w) s), event s],
        dev fun d => { d with irq := { d.irq with latch := [] } }])

end Sys2Proof.Machine
end

