-- ==== Sys2Proof/Machine/Tap.lean ====
section
/-!
DEFINITION. The instruction register of the JTAG port, and the boundary-scan instructions, which a channel that leaves Calm ends
(spec/13_ports.md, R460, R462).
-/
namespace Sys2Proof.Machine

/-- Change what the JTAG port holds. -/
def modJtag (f : JtagSt → JtagSt) : Prog := dev fun d => { d with jtag := f d.jtag }

/-- The instructions of Table 13.9; any other code selects BYPASS. -/
def jtagCode (c : Nat) : Nat := if [0x00, 0x01, 0x02, 0x03, 0x04, 0x21, 0x22].contains c then c else 0xFF

/-- The device's identification (R460): version, part number, manufacturer code and a 1. -/
def idcode : Word := 0x1#4 ++ 0x0064#16 ++ 0x5DA#11 ++ 1#1

/-- The instruction `c` stands; what its data register captures follows (R460). -/
def jtagSelect (c : Nat) : Prog := modJtag fun j => { j with ir := c, dr := if c = 1 then idcode else 0 }

/-- An instruction that drives the pins from the boundary-scan chain cannot take effect: BYPASS is selected (R462). -/
def boundaryRefused : Prog := seqs [jtagSelect 0xFF, setB F.SVC_STAT_BSREF, raise 208]

/-- EXTEST, HIGHZ or CLAMP, which takes effect only while every channel is in Calm or PARK, ends. -/
def boundaryEnds : Prog :=
  on (fun s => s.dev.jtag.ir = 0 || s.dev.jtag.ir = 3 || s.dev.jtag.ir = 4) boundaryRefused

end Sys2Proof.Machine
end

