-- ==== Sys2Proof/Machine/Ecc.lean ====
section
/-!
DEFINITION. The ECC words of the memories (spec/12_memory.md, R407, R408, R415, R417 to R419; R506): bits that flip, what a reader
does about a word in error, and the writes of whole words and of parts of words.
-/
namespace Sys2Proof.Machine

/-- How many of the low `w` bits of `n` are 1. -/
def ones (w n : Nat) : Nat := ((List.range w).filter fun i => n.testBit i).length

/-- The bits of the ECC word at `a` with its check bits (R417). -/
def eccBits (a : Nat) : Nat := 8 * eccSize a + 8

/-- What is wrong with the word of that name after the bits `flips` have flipped. -/
def EccErr.flip (x : EccErr) (key flips : Nat) : EccErr :=
  let w := eccBits (key % 2 ^ 40)
  let b := (x.bits ^^^ flips) % 2 ^ w
  ⟨b, x.ue || 2 ≤ ones w b⟩

/-- The data bits `flips` of the word at `a` flip in the memory. -/
def flipStored (a flips : Nat) : Prog :=
  each (List.range (eccSize a)) fun i =>
    when (flips / 256 ^ i % 256 ≠ 0) (ask fun s => putBytes (a + i) [s.byte (a + i) ^^^ BitVec.ofNat 8 (flips / 256 ^ i)])

/-- The bits `flips` of the word of that name flip. A word that becomes uncorrectable reads from then on as it is stored; of the
control store no reader sees the stored bits of such a word (Table 12.3). -/
def eccFlip (key flips : Nat) : Prog :=
  ask fun s =>
    let old := s.dev.bus.ecc.get ⟨0, false⟩ key
    let x := old.flip key flips
    seqs [
      dev fun d => { d with bus := { d.bus with
        ecc := if x.ue || x.bits ≠ 0 then d.bus.ecc.put key x else d.bus.ecc.del key } },
      when (x.ue && !(ctlBase ≤ key % 2 ^ 40 && key % 2 ^ 40 < retBase))
        (flipStored key (if old.ue then flips else x.bits))]

/-- An error of the word of that name is recorded, corrected or uncorrectable (R418, R419). The syndrome is left open but for not
being 0 and being that of the error (R417). -/
def eccRecord (key : Nat) (x : EccErr) : Prog :=
  let a := key % 2 ^ 40
  seqs [
    if x.ue then count F.MEM_ECCCNT_UE else count F.MEM_ECCCNT_CE,
    setF F.MEM_ECCA_LO_ADDR a, setF F.MEM_ECCA_HI_ADDR (a / 2 ^ 32), setF F.MEM_ECCA_HI_UE (if x.ue then 1 else 0),
    setF F.MEM_ECCA_HI_COPY (key / 2 ^ 40), setF F.MEM_ECCA_HI_SYN (max 1 (Config.syndrome key x.bits % 256)),
    raise (if x.ue then 242 else 241)]

/-- The ECC word at `w` lies whole in the `n` bytes from `a`. -/
def wordWithin (w a n : Nat) : Bool := a ≤ w && w + eccSize w ≤ a + n

/-- The dispatch entries of `l` and those that a write of the `n` bytes from `a` reaches. -/
def entriesWritten (l : List Nat) (a n : Nat) : List Nat :=
  if a < ctlBase + 0x48400 && ctlBase + 0x48000 < a + n then
    (List.range 256).filter fun op =>
      l.contains op || (a < ctlBase + 0x48004 + 4 * op && ctlBase + 0x48000 + 4 * op < a + n)
  else l

/-- Whole ECC words among the `n` bytes from `a` are written, in every copy (R407): errors in them are gone, and a write-back that
waits for one is dropped (R415, R418). -/
def eccWritten (a n : Nat) : Prog :=
  dev fun d => { d with bus := { d.bus with
    entries := entriesWritten d.bus.entries a n
    ecc := d.bus.ecc.filter fun e => !wordWithin (e.1 % 2 ^ 40) a n
    writeBack := d.bus.writeBack.filter fun w => !eccHit w (w / 2 ^ 40) a n } }

/-- The word at `a` of a channel block of the retention RAM reads as uncorrectable (R506). The words that the marking changes are
written whole. -/
def retentionBad (a : Nat) : Prog :=
  when (retBase + 0x100 ≤ a && a < retBase + 0x1100)
    (ask fun s =>
      let n := (a - retBase - 0x100) / 64
      let o := (a - retBase - 0x100) % 64
      let flags := s.num (chBlock n + 12) 1
      seqs [setB F.PWR_LOST_RET, raise (n + 1),
        if o < 40 || (48 ≤ o && o < 56) then seqs [putNum (chBlock n + 12) 1 (flags ||| 1), eccWritten (chBlock n + 8) 8]
        else if o < 48 then seqs [putNum (chBlock n + 12) 1 (flags ||| 2), eccWritten (chBlock n + 8) 8,
          putNum (chBlock n + 40) 6 0, eccWritten (chBlock n + 40) 8]
        else .done])

/-- A reader reads the words that hold the `n` bytes from `a`, of copy `c` in the control store: each word in error is counted and
recorded, a corrected one waits for its write-back (R418, R419). -/
def eccRead (a n : Nat) (c : Nat := 0) : Prog :=
  ask fun s =>
    each (s.dev.bus.ecc.filter fun e => eccHit e.1 c a n) fun e =>
      seqs [eccRecord e.1 e.2, when e.2.ue (retentionBad e.1),
        when (!e.2.ue) (dev fun d => { d with bus := { d.bus with
          writeBack := e.1 :: d.bus.writeBack.filter (· != e.1) } })]

/-- The data path writes a string of bytes to a memory: never refused (R408). -/
def dpWrite (a : Nat) (bs : List Byte) : Prog := seqs [putBytes a bs, eccWritten a bs.length]

/-- The ECC words that a write of the `n` bytes from `a` reads first: those it covers in part (R415). -/
def partWords (a n : Nat) : List Nat :=
  let first := eccWord a
  let last := eccWord (a + n - 1)
  (if first = last then [first] else [first, last]).filter fun w => !wordWithin w a n

/-- A write of `n` bytes from `a` on, done by `p`: the words that it covers in part are read first; where one is uncorrectable,
nothing is written, and a corrected one is written back with the new bytes (R415). -/
def partWrite (a n : Nat) (p : Prog) (go : Nat → Word → Prog) : Prog :=
  ask fun s =>
    let l := partWords a n
    seqs [each l fun x => eccRead x 1,
      if l.any fun x => s.badWord x 1 then go 7 0
      else seqs [p,
        dev fun d => { d with bus := { d.bus with
          ecc := d.bus.ecc.filter fun e => e.2.ue || !l.contains (e.1 % 2 ^ 40)
          writeBack := d.bus.writeBack.filter fun w => !l.contains (w % 2 ^ 40) } },
        go 0 0]]

/-- The ring engine or the storage engine writes a string of bytes, in order, through the access port. -/
def engineWrite (a : Nat) (bs : List Byte) : Prog :=
  when (bs ≠ []) (partWrite a bs.length (dpWrite a bs) fun _ _ => .done)

end Sys2Proof.Machine
end

