-- ==== Sys2Proof/Machine/Rings.lean ====
section
/-!
DEFINITION. Rings (spec/10_rings_storage.md, R344 to R355): descriptors, enabling and disabling, doorbells, the entries a
producer offers, and completions in index order.
-/
namespace Sys2Proof.Machine

/-- Ring `r` as the engine holds it. -/
def State.ring (s : State) (r : Nat) : Ring := s.dev.rings.get {} r

/-- Change ring `r`. -/
def modRing (r : Nat) (f : Ring → Ring) : Prog := dev fun d => { d with rings := d.rings.mod {} r f }

/-- The entry size of a code of Table 10.1. -/
def entrySize (esz : Nat) : Nat :=
  match esz with
  | 0 => 8 | 1 => 16 | 2 => 32 | 3 => 64 | _ => 4096

/-- The descriptor of ring `r` (R344). -/
def descAddr (r : Nat) : Nat := padBase + 0xFE0000 + 32 * (r % 4096)

/-- The entry with index `x`, in the scratchpad (R346). -/
def Ring.entry (q : Ring) (x : Nat) : Nat := padBase + (q.base + entrySize q.esz * (x % 2 ^ q.k)) % 2 ^ 24

/-- `a − b` as 20-bit indices (R346). -/
def idxSub (a b : Nat) : Nat := (a + 2 ^ 20 - b % 2 ^ 20) % 2 ^ 20

/-- The index after `a`. -/
def idxNext (a : Nat) : Nat := (a + 1) % 2 ^ 20

/-- The ring holds as many entries as it can (R346). -/
def Ring.full (q : Ring) : Bool := idxSub q.pi q.ci = 2 ^ q.k

/-- REFILL and HOST rings are consumed, the others produced (Table 10.2). -/
def Ring.consumed (q : Ring) : Bool := q.typ = 0 || q.typ = 5

/-- The engine writes the copies of the indices and of the stall count (R346). -/
def ringCopies (r : Nat) : Prog :=
  ask fun s =>
    let q := s.ring r
    seqs [engineWrite (descAddr r + 16) (natLE 4 q.pi ++ natLE 4 q.ci), engineWrite (descAddr r + 24) (natLE 4 q.stall)]

/-- A completion is written or an entry produced: the group source, where the ring's `IRQ` flag is set. -/
def ringIrq (r : Nat) : Prog := ask fun s => when (s.ring r).irq (raise (177 + (s.ring r).group))

/-- An entry waits: the stall count and, where `SIRQ` is set, the group source (R364). -/
def ringStall (r : Nat) : Prog :=
  seqs [modRing r fun q => { q with stall := q.stall + 1 }, ringCopies r,
    ask fun s => when (s.ring r).sirq (raise (177 + (s.ring r).group))]

/-- Ring `r` is enabled, and the engine takes new entries: it takes none from t0 of a HIBERNATE on (R500). -/
def State.ringOpen (s : State) (r : Nat) : Bool := (s.ring r).on && s.fld F.PWR_STATE_ST ≠ 3

/-- A producer offers the entry `bytes` to ring `r`, which must be of type `typ`; `drop` is its drop rule (R349). -/
def ringOffer (r typ : Nat) (bytes : List Byte) (drop : Prog) (kept : Prog := .done) : Prog :=
  ask fun s =>
    let q := s.ring r
    if !s.ringOpen r then drop
    else if q.typ ≠ typ || entrySize q.esz ≠ bytes.length then seqs [setB F.RING_STAT_TYPE_ERR, drop]
    else if q.full then drop
    else seqs [engineWrite (q.entry q.pi) bytes, modRing r fun q => { q with pi := idxNext q.pi }, ringCopies r,
      ringIrq r, kept]

/-- Ring `r` takes an entry of `n` bytes from a producer of type `typ` (R349). -/
def State.ringTakes (s : State) (r typ n : Nat) : Bool :=
  let q := s.ring r
  s.ringOpen r && q.typ = typ && entrySize q.esz = n && !q.full

/-- Ring `r` is enabled, and does not take entries of `n` bytes from a producer of type `typ` (R349). -/
def State.wrongRing (s : State) (r typ n : Nat) : Bool := s.ringOpen r && ((s.ring r).typ ≠ typ || entrySize (s.ring r).esz ≠ n)

/-- Buffered records move into their rings where these have room. -/
def drainBuf : Prog :=
  ask fun s =>
    each s.dev.buf fun b =>
      on (fun s => s.ringTakes b.ring b.typ b.bytes.length)
        (seqs [ringOffer b.ring b.typ b.bytes .done, dev fun d => { d with buf := d.buf.erase b }])

/-- A producer with `depth` buffers offers a record: it waits in a buffer while the ring does not take it, and `drop` is
the rule for a record that finds every buffer in use (R217, R276, R312, R340). -/
def bufOffer (kind owner r typ depth : Nat) (bytes : List Byte) (drop : Prog) : Prog :=
  ask fun s =>
    if (s.dev.buf.filter fun b => b.kind = kind && b.owner = owner) = [] && s.ringTakes r typ bytes.length then
      ringOffer r typ bytes .done
    else seqs [
      when (s.wrongRing r typ bytes.length) (setB F.RING_STAT_TYPE_ERR),
      if (s.dev.buf.filter fun b => b.kind = kind && b.owner = owner).length < depth then
        dev fun d => { d with buf := d.buf ++ [⟨kind, owner, r, typ, bytes⟩] }
      else drop]

/-- The first ring of channel `n`: a new base applies from the next sequencer cycle on (R353). -/
def State.chBase (s : State) (n : Nat) : Nat :=
  let (from_, old) := s.dev.chb.get (0, 0) n
  if s.now < from_ then old else s.fld (F.RING_CHB_BASE n)

/-- The ring of channel `n` at an offset of Table 10.4 (R352). -/
def State.chRing (s : State) (n off : Nat) : Nat := (s.chBase n + off) % 4096

/-- The channel that a consumed ring belongs to: the lowest whose range holds it (R352). -/
def State.ringChannel (s : State) (r : Nat) : Option Nat :=
  channels.find? fun n => s.chBase n ≤ r && r < s.chBase n + 48

/-! ## Completions (R350, R354) -/

/-- The completion record of Table 10.6: its first 16 bytes. -/
def completionBytes (c : Completion) (t : Nat) : List Byte :=
  natLE 2 c.status ++ natLE 1 c.tries ++ natLE 1 0 ++ natLE 4 c.nvst ++ natLE 8 t

/-- Write completion `c` of ring `r` in place; `CI` moves past it. -/
def writeCompletion (r : Nat) (c : Completion) : Prog :=
  ask fun s =>
    let q := s.ring r
    let e := q.entry c.idx
    seqs [
      if q.typ = 5 then
        engineWrite (e + 32) (completionBytes c s.now ++ natLE 8 c.blocks ++ s.bytes (e + 24) 8)
      else engineWrite (e + 16) (completionBytes c s.now),
      modRing r fun q => { q with ci := idxNext q.ci, waiting := q.waiting.filter fun x => x.idx != c.idx },
      ringCopies r, ringIrq r]

/-- Write the waiting completions whose turn has come; `n` bounds how many. -/
def flushCompletions (r : Nat) : Nat → Prog
  | 0 => .done
  | n + 1 =>
    ask fun s =>
      match (s.ring r).waiting.find? fun c => c.idx = (s.ring r).ci with
      | some c => (writeCompletion r c).seq (flushCompletions r n)
      | none => .done

/-- An entry's completion is decided: it is written in its turn (R350). -/
def completeEntry (r : Nat) (c : Completion) : Prog :=
  seqs [modRing r fun q => { q with waiting := q.waiting ++ [c] },
    ask fun s => flushCompletions r (s.ring r).waiting.length]

/-! ## Enabling, disabling and doorbells -/

/-- The retry budget B of R366 in µs; none where the command timeout is none. -/
def budgetOf (cto backoff : Nat) : Option Nat := if cto = 0 then none else some ((3 * cto + 2 * backoff) * 1000)

/-- A ring with completion timeout `tmo` keeps the budget rule (R366). -/
def budgetOk (cto backoff tmo : Nat) : Bool :=
  tmo = 0 || (match budgetOf cto backoff with | some b => 2 * b ≤ tmo | none => false)

/-- The ring issues storage commands (R366). -/
def Ring.usesStorage (q : Ring) : Bool := q.consumed || q.sink = 1

/-- Entries in a PACKED block (R373). -/
def entriesPerBlock (esz : Nat) : Nat := 4032 / entrySize esz

/-- The entry sizes that Table 10.2 allows for a ring type. -/
def sizeAllowed (typ esz : Nat) : Bool :=
  match typ with
  | 0 | 3 | 4 => esz = 2
  | 1 => esz = 0 || esz = 2
  | 2 => esz = 3 || esz = 4
  | 5 => esz = 3
  | _ => false

/-- The region of a volume fits the entry size (R371). -/
def regionFits (v : Option Volume) (g esz : Nat) : Bool :=
  match v with
  | none => false
  | some v =>
    match v.regions[g]? with
    | none => false
    | some x => if esz = 4 then x.mode = 2 else x.mode = 1

/-- The ring that a descriptor describes, before any check. -/
def State.readDesc (s : State) (r : Nat) : Ring :=
  let a := descAddr r
  { base := s.num a 4, typ := s.num (a + 4) 1 % 8, k := s.num (a + 5) 1, esz := s.num (a + 6) 1,
    sink := s.num (a + 7) 1, region := s.num (a + 8) 1, group := s.num (a + 9) 1 % 16,
    irq := (s.num (a + 10) 1).testBit 0, sirq := (s.num (a + 10) 1).testBit 1, tmo := s.num (a + 12) 4 }

/-- A reserved bit or code of Table 10.1 is set in the descriptor. -/
def State.descReserved (s : State) (r : Nat) : Bool :=
  let a := descAddr r
  s.num (a + 3) 1 ≠ 0 || 8 ≤ s.num (a + 4) 1 || 6 ≤ s.num (a + 4) 1 % 8 || 16 < s.num (a + 5) 1 || 5 ≤ s.num (a + 6) 1
    || 3 ≤ s.num (a + 7) 1 || 128 ≤ s.num (a + 8) 1 || 16 ≤ s.num (a + 9) 1 || 4 ≤ s.num (a + 10) 1
    || s.num (a + 11) 1 ≠ 0 || s.num (a + 28) 4 ≠ 0

/-- The first failing check of Table 10.3, or OK. The engine reads bytes 0 to 15 and 28 to 31 of the descriptor (R346). -/
def State.enableCode (s : State) (r : Nat) : Nat :=
  let q := s.readDesc r
  let bad := s.badWord (descAddr r) 16 || s.badWord (descAddr r + 28) 4
  let bytes := entrySize q.esz * 2 ^ q.k
  if !s.badWord (descAddr r) 8 && q.k = 0 then 1
  else if (s.ring r).on then 2
  else if bad || s.descReserved r then 3
  else if !sizeAllowed q.typ q.esz || (q.consumed && q.sink ≠ 0) then 4
  else if q.base % entrySize q.esz ≠ 0 || 0xFE0000 < q.base + bytes then 5
  else if q.sink = 1 && q.esz ≠ 4 && 2 ^ q.k < 2 * entriesPerBlock q.esz then 6
  else if q.sink = 1 && !regionFits s.dev.stor.vol q.region q.esz then 7
  else if q.usesStorage && !budgetOk (s.fld F.STOR_RETRY_CTO) (s.fld F.STOR_RETRY_BACKOFF) q.tmo then 8
  else 0

/-- `RING.CRES` takes an outcome (R347). -/
def ringResult (r code : Nat) : Prog := seqs [setF F.RING_CRES_CODE code, setF F.RING_CRES_RING r]

/-- ENABLE of ring `r` (R347); `kept` is what goes on once the ring is on. -/
def ringEnable (r : Nat) (kept : Prog) : Prog :=
  ask fun s =>
    let c := s.enableCode r
    seqs [eccRead (descAddr r) 16, eccRead (descAddr r + 28) 4, ringResult r c,
      when (c = 0) (seqs [modRing r fun _ => { s.readDesc r with on := true }, ringCopies r, drainBuf, kept])]

/-- The indices from `a` on, `n` of them. -/
def idxRange (a n : Nat) : List Nat := (List.range n).map fun i => (a + i) % 2 ^ 20

/-- DISABLE of ring `r` (R351). -/
def ringDisable (r : Nat) : Prog :=
  ask fun s =>
    let q := s.ring r
    if !q.on then ringResult r 0
    else seqs [
      modRing r fun q => { q with stopping := true, taken := if q.consumed then q.pi else q.taken },
      when q.consumed (each (idxRange q.taken (idxSub q.pi q.taken)) fun x => completeEntry r ⟨x, 0x10, 0, 0, 0⟩)]

/-- Something of ring `r` is still in progress. -/
def State.ringBusy (s : State) (r : Nat) : Bool :=
  (s.dev.stor.work.any fun w => w.ring = r) || (s.dev.line.recs.any fun x => x.ring = r)
    || ((s.ring r).consumed && (s.ring r).ci ≠ (s.ring r).taken)

/-- A disabling ring has nothing in progress and becomes disabled (R351). -/
def progRingDisableDone (r : Nat) : Prog :=
  on (fun s => (s.ring r).on && (s.ring r).stopping && !s.ringBusy r)
    (seqs [modRing r fun q => { q with on := false, stopping := false }, ringResult r 0])

/-- The `n` entries of a produced ring from index `x` on, whose block has failed, are to go out again (R373). They come before the
entries not yet taken; where nothing later is in flight they are themselves not yet taken. -/
def Ring.giveBack (q : Ring) (x n : Nat) : Ring :=
  let l := (x, n) :: q.again
  l.foldl (fun q _ =>
    match q.again.find? fun e => (e.1 + e.2) % 2 ^ 20 = q.taken with
    | some e => { q with taken := e.1, again := q.again.filter (· != e) }
    | none => q) { q with again := l }

/-- What goes out next of a produced ring: the first index, and at most `most` entries. -/
def Ring.nextOut (q : Ring) (most : Nat) : Nat × Nat :=
  match q.again.find? fun e => q.again.all fun f => idxSub e.1 q.ci ≤ idxSub f.1 q.ci with
  | some e => (e.1, min most e.2)
  | none => (q.taken, min most (idxSub q.pi q.taken))

/-- The next `n` entries of a produced ring have been delivered (R350). -/
def Ring.delivered (q : Ring) (n : Nat) : Ring :=
  { q with ci := (q.ci + n) % 2 ^ 20, tags := q.tags.filter fun e => n ≤ idxSub e.1 q.ci }

/-- The `n` entries of a produced ring from index `x` on are taken by its sink. -/
def Ring.take (q : Ring) (x n : Nat) : Ring :=
  if x = q.taken then { q with taken := (x + n) % 2 ^ 20 }
  else { q with again := q.again.flatMap fun e => if e.1 = x then (if n < e.2 then [((x + n) % 2 ^ 20, e.2 - n)] else []) else [e] }

/-- The master whose doorbell added entry `x` of a consumed ring. -/
def Ring.ringer (q : Ring) (x : Nat) : Nat :=
  ((q.rang.find? fun e => idxSub x q.ci < idxSub e.1 q.ci).map (·.2)).getD 1

/-- The sink takes the next entry of a consumed ring. -/
def Ring.takeNext (q : Ring) : Ring :=
  { q with taken := idxNext q.taken, rang := q.rang.filter fun e => e.1 ≠ idxNext q.taken }

/-- The doorbell of a consumed ring (R348), rung by master `m`; without effect while the engine takes no new entries (R500). -/
def ringDb (m r idx : Nat) : Prog :=
  ask fun s =>
    let q := s.ring r
    if q.on && !s.ringOpen r then .done
    else if !q.on || q.stopping || !q.consumed || 2 ^ q.k < idxSub idx q.pi || 2 ^ q.k < idxSub idx q.ci then
      setB F.RING_STAT_DB_BAD
    else seqs [modRing r fun q => { q with pi := idx, rang := q.rang ++ [(idx, m)] }, ringCopies r]

/-- The consumer doorbell of a produced ring with `SINK` MASTER (R348); `kept` is what goes on with the room it makes. -/
def ringDbc (r idx : Nat) (kept : Prog) : Prog :=
  ask fun s =>
    let q := s.ring r
    if !q.on || q.stopping || q.consumed || q.sink ≠ 0 || idxSub q.pi q.ci < idxSub idx q.ci then
      setB F.RING_STAT_DB_BAD
    else seqs [modRing r fun q => { q with ci := idx, taken := idx }, ringCopies r, drainBuf, kept]

end Sys2Proof.Machine
end

