-- ==== Sys2Proof/Machine/Memory.lean ====
section
/-!
DEFINITION. The access ports of the memories (spec/12_memory.md): windows, violations and the freeze, collisions, the
scrubber and starvation.
-/
namespace Sys2Proof.Machine

/-! ## The address map (R46, Table 1.13) -/

/-- What an address reaches. -/
inductive Place where
  /-- A register block's window: the block number (Table 1.13) and the offset in it. -/
  | block (n off : Nat)
  /-- Segment, capture or fail memory of core `k`. -/
  | segment (k : Nat) | capture (k : Nat) | fail (k : Nat)
  | pad
  /-- The control store window, with the offset in it. -/
  | control (off : Nat)
  /-- The retention RAM, with the offset in it. -/
  | retention (off : Nat)
  /-- A reserved address of the control and status region. -/
  | reserved
  /-- No region of R46. -/
  | outside
  deriving DecidableEq, Repr

/-- What the byte address `a` reaches, with `CH[n]` windows led to the core that serves the channel (R48). -/
def State.place (s : State) (a : Nat) : Place :=
  if a < 0x01000000 then
    if a / 0x10000 < 16 then .block (a / 0x10000) (a % 0x10000) else .reserved
  else if a < 0x01440000 then .block (a / 0x10000) (a % 0x10000)
  else if 0x01800000 ≤ a && a < 0x01C00000 then .block (a / 0x10000) (a % 0x10000)
  else if 0x02000000 ≤ a && a < 0x02400000 then .block (0x100 + s.core (a / 0x10000 - 0x200)) (a % 0x10000)
  else if 0x0100000000 ≤ a && a < 0x0100000000 + 68 * 0x40000 then .segment ((a - 0x0100000000) / 0x40000)
  else if 0x0200000000 ≤ a && a < 0x0200000000 + 68 * 0x40000 then .capture ((a - 0x0200000000) / 0x40000)
  else if 0x0280000000 ≤ a && a < 0x0280000000 + 68 * 0x20000 then .fail ((a - 0x0280000000) / 0x20000)
  else if 0x0300000000 ≤ a && a < 0x0301000000 then .pad
  else if 0x0400000000 ≤ a && a < 0x0400080000 then .control (a - 0x0400000000)
  else if 0x0500000000 ≤ a && a < 0x0500010000 then .retention (a - 0x0500000000)
  else .outside

/-- The regions of R46 that lie apart from each other: first address and the one after the last. -/
def regions : List (Nat × Nat) := [
  (0, 0x01440000), (0x01800000, 0x01C00000), (0x02000000, 0x02400000), (0x0100000000, 0x0100000000 + 68 * 0x40000),
  (0x0200000000, 0x0200000000 + 68 * 0x40000), (0x0280000000, 0x0280000000 + 68 * 0x20000), (0x0300000000, 0x0301000000),
  (0x0400000000, 0x0400080000), (0x0500000000, 0x0500010000)]

/-- Every byte from `a` to `a + n − 1` lies in a region of R46. -/
def mapped (a n : Nat) : Bool := regions.any fun r => r.1 ≤ a && a + n ≤ r.2

/-! ## Windows and freeze -/

/-- Window `j` of master `m` covers the `n` bytes from `a` with the permission for a write or a read (R423). -/
def State.windowCovers (s : State) (m j a n : Nat) (wr : Bool) : Bool :=
  let base := s.fld (F.MEM_WIN_BASE_BASE (m - 3) j)
  let size := s.fld (F.MEM_WIN_SIZE_SIZE (m - 3) j)
  size ≠ 0 && base * 4096 ≤ a && a + n ≤ (base + size) * 4096
    && s.flg (if wr then F.MEM_WIN_PERM_W (m - 3) j else F.MEM_WIN_PERM_R (m - 3) j)

/-- An access of master `m` lies inside its windows, for the processors inside the map (R423, R425). -/
def State.inWindow (s : State) (m a n : Nat) (wr : Bool) : Bool :=
  if 3 ≤ m && m ≤ 5 then (List.range 16).any (fun j => s.windowCovers m j a n wr) && mapped a n
  else mapped a n

/-- Master `m` is frozen (R427). -/
def State.frozen (s : State) (m : Nat) : Bool := (s.fld F.MEM_FRZ_M).testBit m

/-- MP1 runs its firmware, and makes its accesses: while it is frozen they stall (R427, R481). -/
def State.mp1 (s : State) : Bool := s.dev.rst.mp && !s.frozen 2

/-- A violation of master `m` at address `a`: the freeze, its log and source 217 (R427). -/
def violation (m a : Nat) (wr auth : Bool) : Prog :=
  ask fun s => seqs [
    setF F.MEM_FRZ_M (s.fld F.MEM_FRZ_M ||| 2 ^ m),
    setF F.MEM_FRZLOG_LO_ADDR a, setF F.MEM_FRZLOG_HI_ADDR (a / 2 ^ 32), setF F.MEM_FRZLOG_HI_MASTER m,
    setF F.MEM_FRZLOG_HI_WR (if wr then 1 else 0), setF F.MEM_FRZLOG_HI_AUTH (if auth then 1 else 0),
    raise 217]

/-- Master `m` receives an answer: a status of Table 13.7 and a word. -/
def answer (m status : Nat) (data : Word) : Prog :=
  dev fun d => { d with bus := { d.bus with answer := d.bus.answer.put m ⟨status, data⟩ } }

/-- An access of a frozen master: a processor stalls, a port master is answered FROZEN at once (R427). -/
def frozenAccess (m : Nat) : Prog :=
  if m = 1 ∨ m = 2 then dev fun d => { d with bus := { d.bus with stalled := d.bus.stalled.mod 0 m (· + 1) } }
  else answer m 2 0

/-- Masters whose bits are set in `bits` are released (R428): the stalled accesses of a processor end with FROZEN. -/
def release (bits : Nat) : Prog :=
  seqs [
    ask fun s => setF F.MEM_FRZ_M (s.fld F.MEM_FRZ_M &&& (0xFFFF ^^^ (bits % 0x10000))),
    each [1, 2] fun m =>
      when (bits.testBit m)
        (on (fun s => s.dev.bus.stalled.get 0 m ≠ 0)
          (seqs [answer m 2 0, dev fun d => { d with bus := { d.bus with stalled := d.bus.stalled.del m } }]))]

/-! ## Same-word writes (R413) -/

/-- The write of master `loser` at `a` collides with one of master `winner`, which is performed. -/
def collide (winner loser a : Nat) : Prog :=
  seqs [count F.MEM_COLL_COUNT, setF F.MEM_COLL_WINNER winner, setF F.MEM_COLL_LOSER loser,
    setF F.MEM_COLL_ADDR (a / 2 ^ 32), setF F.MEM_COLLA_ADDR a, raise 243]

/-- The word that a collision at `a` is about: the register of a block, the ECC word of a memory (R413). -/
def State.clashWord (s : State) (a : Nat) : Nat :=
  match s.place a with
  | .block _ _ | .reserved | .outside => a / 4 * 4
  | _ => eccWord a

/-- The masters whose writes reach one word in one bank cycle with that of master `own`, by number; a frozen master makes none. -/
def State.writers (s : State) (own : Nat) (rivals : List (Fin 8)) : List Nat :=
  (List.range 8).filter fun m => m = own || (rivals.any fun r => r.val = m) && !s.frozen m

/-- The write of master `own` at `a` meets those of `rivals`: the lowest-numbered master's is performed, every other master is
answered COLLIDE, and the collision is counted once (R413). What becomes of the master's own is `win` or `lose`. -/
def arbitrate (own : Nat) (rivals : List (Fin 8)) (a : Nat) (win lose : Prog) : Prog :=
  ask fun s =>
    match s.writers own rivals with
    | w :: l :: ls => seqs [
      collide w l (s.clashWord a),
      each (l :: ls) fun m => when (m ≠ own && m ≤ 5) (answer m 1 0),
      if w = own then win else lose]
    | _ => win

/-! ## The scrubber (R420, R421) -/

/-- The oldest corrected word is written back on a free bank cycle, unless it has changed since (R418). -/
def progEccWriteback : Prog :=
  ask fun s =>
    match s.dev.bus.writeBack with
    | [] => .done
    | w :: ws => dev fun d => { d with bus := { d.bus with
        writeBack := ws, ecc := d.bus.ecc.filter fun e => e.1 != w || e.2.ue } }

/-- What the scrubber finds in the word at `a` of copy `copy`, of which the bits `flips` have flipped since. -/
def scrubFound (a copy flips : Nat) : Prog :=
  let key := eccKey copy a
  seqs [eccFlip key flips, ask fun s =>
    match s.dev.bus.ecc.find? fun e => e.1 = key with
    | none => .done
    | some e => seqs [
      eccRecord key e.2,
      when (!e.2.ue) (dev fun d => { d with bus := { d.bus with
        writeBack := key :: d.bus.writeBack.filter (· != key), passCE := d.bus.passCE + 1 } }),
      when (e.2.ue && copy = 0) (retentionBad a)]]

/-- The end of a scrub pass (R421). -/
def scrubPassEnd : Prog :=
  ask fun s => seqs [
    count F.MEM_SCRUBST_PASSES, setF F.MEM_SCRUBST_LASTCE (min s.dev.bus.passCE 65535), raise 244,
    when (s.fld F.MEM_SCRUB_CETH ≠ 0 && s.fld F.MEM_SCRUB_CETH < s.dev.bus.passCE) (raise 246),
    dev fun d => { d with bus := { d.bus with passCE := 0 } }]

/-- The scrubber reads the ECC words of the memories of Table 12.1 (R420); only the control store has copies. -/
def State.scrubbed (s : State) (a copy : Nat) : Bool :=
  match s.place a with
  | .segment _ | .capture _ | .fail _ | .pad | .retention _ => copy = 0
  | .control o => o < 0x48500
  | _ => false

/-- The scrubber reads the ECC word at `a` (control-store copy `copy`), of which the bits `flips` have flipped since it was last
written or scrubbed; `last` marks the last word of a pass (R420, R421). -/
def progScrubRead (a copy flips : Nat) (last : Bool) : Prog :=
  on (fun s => s.fld F.MEM_SCRUB_PERIOD ≠ 0)
    (ask fun s => seqs [when (s.scrubbed a copy) (scrubFound (eccWord a) copy flips), when last scrubPassEnd])

/-- A DMA request of master `m` has waited 4,096 bank cycles (R412). -/
def progStarve (m : Nat) : Prog := seqs [count F.MEM_STARVE_N, setF F.MEM_STARVE_MASTER m, raise 245]

end Sys2Proof.Machine
end

