-- ==== Sys2Proof/Machine/Cores.lean ====
section
/-!
DEFINITION. Access to what a core and a front end hold beside their registers, boundaries in Line Time, values in effect,
and Q(t).
-/
namespace Sys2Proof.Machine

/-- What core `k` holds. -/
def State.cst (s : State) (k : Nat) : CoreSt := s.dev.cores.get {} k

/-- Change what core `k` holds. -/
def modCore (k : Nat) (f : CoreSt → CoreSt) : Prog := dev fun d => { d with cores := d.cores.mod {} k f }

/-- Change the drive state of core `k`. -/
def modDrv (k : Nat) (f : DrvSt → DrvSt) : Prog := modCore k fun c => { c with drv := f c.drv }

/-- Change the playback state of core `k`. -/
def modPlay (k : Nat) (f : PlaySt → PlaySt) : Prog := modCore k fun c => { c with play := f c.play }

/-- Change the sequencer of core `k`. -/
def modSeq (k : Nat) (f : SeqSt → SeqSt) : Prog := modCore k fun c => { c with seq := f c.seq }

/-- Change the capture of core `k`. -/
def modCap (k : Nat) (f : CapSt → CapSt) : Prog := modCore k fun c => { c with cap := f c.cap }

/-- Change the window grid of core `k`. -/
def modWin (k : Nat) (f : WinSt → WinSt) : Prog := modCore k fun c => { c with win := f c.win }

/-- Mask `i` of core `k`. -/
def State.mask (s : State) (k i : Nat) : MaskSt := (s.cst k).masks.get {} i

/-- Change mask `i` of core `k`. -/
def modMask (k i : Nat) (f : MaskSt → MaskSt) : Prog := modCore k fun c => { c with masks := c.masks.mod {} i f }

/-- Unit `u` of core `k`. -/
def State.unit (s : State) (k u : Nat) : UnitSt := (s.cst k).units.get {} u

/-- Change unit `u` of core `k`. -/
def modUnit (k u : Nat) (f : UnitSt → UnitSt) : Prog := modCore k fun c => { c with units := c.units.mod {} u f }

/-- What front end `n` holds. -/
def State.fe (s : State) (n : Nat) : FeSt := s.dev.fes.get {} n

/-- Change what front end `n` holds. -/
def modFe (n : Nat) (f : FeSt → FeSt) : Prog := dev fun d => { d with fes := d.fes.mod {} n f }

/-- The fault source of channel `n` (R49). -/
def faultSource (n : Nat) : Prog := raise (n + 1)

/-- The event source of channel `n` (R49). -/
def eventSource (n : Nat) : Prog := raise (n + 65)

/-- The first cycle at or after `t` that lies `p` off a multiple of `m`. -/
def nextAt (m p t : Nat) : Nat := t + (p % m + m - t % m) % m

/-- The present instant in sub-cycles. -/
def State.nowSub (s : State) : Nat := s.now * 256

/-- Line Time is held over: from loss of lock until Line Time is valid again (R75). -/
def State.holdover (s : State) : Bool := s.flg F.LT_STATE_HOLDOVER

/-- `LT_CYC` runs from the backup oscillator, 30 cycles at a tick: from t0 plus two backup cycles to t2 of R75. -/
def State.ticking (s : State) : Bool := s.holdover && !s.locked && !s.dev.lt.freezeDue

/-- The first sequencer-cycle boundary at or after cycle `t` (R58): a tick of the backup oscillator in holdover, else a
boundary of the Fc/8 divider, which falls on the multiples of 8 once a beat has realigned it. -/
def State.boundary (s : State) (t : Nat) : Nat :=
  if s.ticking then nextAt 30 s.dev.lt.tick t else nextAt 8 s.dev.lt.divider t

/-- The last sequencer-cycle boundary at or before cycle `t`. -/
def State.lastBoundary (s : State) (t : Nat) : Nat :=
  let b := s.boundary t
  if b = t then t else b - (if s.ticking then 30 else 8)

/-- What is added, in sub-cycles, to an instant of the device's own count to give Line Time (R57, R70): the skew in effect,
and `LT.PHASE`, by which the origin of the count is moved back to the REFIN edge at the pad. -/
def State.correction (s : State) : Int := s.dev.lt.skew + (s.fld F.LT_PHASE_SUB : Nat)

/-- The Line Time of an instant of the device's own count, both in sub-cycles (R57, R70). -/
def State.lineTime (s : State) (raw : Nat) : Nat := ((raw : Int) + s.correction).toNat

/-- From t0 to t2 of R75. -/
def State.heldOver (s : State) : Bool := s.holdover && !s.locked

/-- The Line Time, in sub-cycles, of an instant of the device's own count: the count itself while it runs from the backup oscillator. -/
def State.countTime (s : State) (raw : Nat) : Nat := if s.ticking then raw else s.lineTime raw

/-- The stamp of an instant of the device's own count, in sub-cycles: its Line Time; from t0 to t2 of R75 that count to 30 cycles,
without a sub-cycle part (R75, R218). -/
def State.stampTime (s : State) (raw : Nat) : Nat :=
  let c := s.countTime raw / 256
  if s.heldOver then (c - (c + 30 - s.dev.lt.tick % 30) % 30) * 256 else s.lineTime raw

/-- `LT_CYC` of the last beat (R67). -/
def State.lastBeat (s : State) : Nat := s.reg64 R.LT_BEAT_LO R.LT_BEAT_HI * (s.reg R.LT_BEATCYC).toNat

/-- The cores of the gang of channel `n`, the leader's first. -/
def State.gangCores (s : State) (n : Nat) : List Nat := (s.gang n).2.map s.core

/-- The core whose sequencer, settings and words rule channel `n`: the leader's (R30, R117, R164). -/
def State.leadCore (s : State) (n : Nat) : Nat := s.core (s.leader n)

/-! ## Values in effect (R85, R123, R145, R159, R160) -/

/-- The value in effect of a register that follows its written value at a boundary. -/
def State.effReg (s : State) (k : RegKey) : Word := (regsFind s.dev.eff k).getD k.cold

/-- The value in effect of a field. -/
def State.effFld (s : State) (f : Field) : Nat := fieldGet (s.effReg f.reg) f.lo f.w

/-- A value takes effect. -/
def setEff (k : RegKey) (w : Word) : Prog := dev fun d => { d with eff := regsPut d.eff k w }

/-- A request of core `k` waits for a boundary, from the instant `t` on. -/
def want (k t : Nat) (w : Want) : Prog := dev fun d => { d with reqs := d.reqs ++ [⟨t, k, w⟩] }

/-- A register is written whose value takes effect at the next boundary of core `k`; a spare core has no boundaries and
takes it up at once (R127). -/
def setLater (k : Nat) (r : RegKey) (w : Word) : Prog :=
  seqs [setR r w,
    ask fun s =>
      if (s.channelOf k).isSome then want k s.now (.reg r (w &&& r.id.mask)) else setEff r (w &&& r.id.mask)]

/-- The ramp slope code of a path of channel `n`: its trim in effect plus, for the idle path, the correction, for the active path
its frozen one (R132, R517, R518). -/
def State.rampCode (s : State) (n path : Nat) : Nat :=
  let trim := s.effFld (if path = 0 then F.CAL_CH_RAMP_A n else F.CAL_CH_RAMP_B n)
  let corr := if path = s.fld (F.PATH_STAT_NOW n) then (s.fe n).corrActive else s.reg (R.CAL_CH_CORR n)
  (clampInt 0 4095 ((trim : Int) + signed 6 (fieldGet corr 18 6))).toNat

/-- The comparator offset codes of a path of channel `n`, V, I and T lane: set value in effect plus correction, clamped to the range
of the trim (R517). -/
def State.offsetCodes (s : State) (n path : Nat) : List Int :=
  let corr := if path = s.fld (F.PATH_STAT_NOW n) then (s.fe n).corrActive else s.reg (R.CAL_CH_CORR n)
  let sum (a b c : Field) : Int :=
    clampInt (-512) 511 (signed 10 (s.effFld (if path = 0 then a else b)) + signed 6 (fieldGet corr c.lo 6))
  [sum (F.CAL_CH_CMPA_V n) (F.CAL_CH_CMPB_V n) (F.CAL_CH_CORR_V n), sum (F.CAL_CH_CMPA_I n) (F.CAL_CH_CMPB_I n) (F.CAL_CH_CORR_I n),
    sum (F.CAL_CH_CMPA_T n) (F.CAL_CH_CMPB_T n) (F.CAL_CH_CORR_T n)]

/-! ## The accumulator and Q(t) (R190, R191, Table 15.5) -/

/-- The accumulator of channel `n` in units of 2^−32 nC. -/
def State.acc (s : State) (n : Nat) : Int :=
  signed 64 (s.num (chBlock n) 8) * 4294967296 + (s.num (chBlock n + 8) 4 : Nat)

/-- Write an accumulator. -/
def putAcc (n : Nat) (z : Int) : Prog :=
  seqs [putNum (chBlock n) 8 (unsigned 64 (z / 4294967296)), putNum (chBlock n + 8) 4 (unsigned 32 z), eccWritten (chBlock n) 16]

/-- Write an accumulator, which saturates at its limits and then sets `SAT` (R190). -/
def setAcc (n : Nat) (z : Int) : Prog :=
  let top : Int := 2 ^ 95 - 1
  let low : Int := -(2 ^ 95)
  if top < z then seqs [putAcc n top, setB (F.FPKT_STAT_SAT n)]
  else if z < low then seqs [putAcc n low, setB (F.FPKT_STAT_SAT n)]
  else putAcc n z

/-- QP at instant `t` (sub-cycles): the one that waits for a boundary, from there on (R188). -/
def FeSt.qpAt (f : FeSt) (t : Nat) : Nat :=
  match f.qpNext, f.qpFrom with
  | some q, some b => if b * 256 ≤ t then q else f.qp
  | _, _ => f.qp

/-- What the charge of channel `n` at instant `t` (sub-cycles) is formed from: the accumulator, the counted packets before
`t`, the latest first, and QP. -/
def State.chargeAt (s : State) (n t : Nat) : Int × List (Nat × Bool) × Nat :=
  match ((s.fe n).hist.filter fun p => t < p.t).getLast? with
  | some p => (p.acc, p.counted, p.qp)
  | none => (s.acc n, (s.fe n).counted, (s.fe n).qpAt t)

/-- The residual r of R191 as a numerator and a denominator, in 2^−32 nC. -/
def residual (t : Nat) (counted : List (Nat × Bool)) (qp : Nat) : Int × Nat :=
  match counted with
  | (t1, s1) :: (t0, s0) :: _ =>
    if s0 = s1 && t0 < t1 then
      ((if s1 then -1 else 1) * (qp : Int) * (min (t - t1) (t1 - t0) : Nat), t1 - t0)
    else (0, 1)
  | _ => (0, 1)

/-- ACC + r at instant `t`, in 2^−32 nC, r rounded half away from zero. -/
def State.chargeFine (s : State) (n t : Nat) : Int :=
  let c := s.chargeAt n t
  let r := residual t c.2.1 c.2.2
  c.1 + divNear r.1 r.2

/-- Q(t) of channel `n` in nC, rounded half away from zero (R191); `t` in sub-cycles. -/
def State.charge (s : State) (n t : Nat) : Int :=
  let c := s.chargeAt n t
  let r := residual t c.2.1 c.2.2
  divNear (c.1 * r.2 + r.1) (4294967296 * r.2)

/-- The charge state of channel `n` is about to change at instant `t`: what it was is kept for Q at earlier instants. -/
def keepCharge (n t : Nat) : Prog :=
  ask fun s => modFe n fun f => { f with hist := ⟨t, s.acc n, f.counted, f.qp⟩ :: f.hist }

end Sys2Proof.Machine
end

