-- ==== Sys2Proof/Machine/Packets.lean ====
section
/-!
DEFINITION. Charge packets (spec/05_conversion.md, R186 to R195): crossings, QP, stamp entries, the holdover counters,
clears.
-/
namespace Sys2Proof.Machine

/-- QP for a width, a `VP` and a shunt, with 32 fraction bits, rounded to nearest (R188). -/
def packetCharge (width vp shunt : Nat) : Nat := (divNear ((vp * width * 4294967296 : Nat) : Int) (3 * shunt)).toNat

/-- The least width that R189 accepts. -/
def widthMin (pos neg : Nat) : Nat := max 16 (divUp (max pos neg * 15) 256)

/-- The QP of the present settings of front end `n`. -/
def State.freshQp (s : State) (n : Nat) : Nat :=
  packetCharge (s.fld (F.FPKT_WIDTH_WIDTH n)) (s.fld (F.FPKT_VP_VP n)) (s.fld (F.SCALE_SHUNT_NOHM n))

/-- The device reads the words of the channel block of front end `n` that hold its charge (R505): one in error is reported, and an
uncorrectable one sets `Q_LOST` (R506). -/
def chargeRead (n : Nat) : Prog :=
  seqs [eccRead (chBlock n) 16, eccRead (chBlock n + 24) 16, eccRead (chBlock n + 48) 8]

/-- A value of QP, and with it the packet width, comes into use at cycle `t`: the registers and the retention RAM read it (R188,
Table 15.5). -/
def useQp (n t q : Nat) : Prog :=
  ask fun s => seqs [
    keepCharge n (t * 256),
    modFe n fun f => { f with qp := q, width := s.fld (F.FPKT_WIDTH_WIDTH n), qpNext := none, qpFrom := none },
    set64 (R.FPKT_QP_LO n) (R.FPKT_QP_HI n) q, dpWrite (chBlock n + 48) (natLE 8 q)]

/-- A QP that waits for a boundary is in use from there on (R188); `t` is not before the present instant. -/
def settleQp (n t : Nat) : Prog :=
  ask fun s =>
    match (s.fe n).qpNext, (s.fe n).qpFrom with
    | some q, some b => when (b ≤ t) (useQp n b q)
    | _, _ => .done

/-- A window of core `k` can start: `CONV.CTL.RUN` is not OFF, and Line Time is VALID (R188). -/
def State.windowsRun (s : State) (k : Nat) : Bool := s.fld (F.CONV_CTL_RUN k) ≠ 0 && s.fld F.LT_STATE_LT_ST = 1

/-- `WIDTH`, `VP` or `SHUNT` has changed: QP is formed anew and waits for the next window, or where no window can start for the
first boundary after the change (R188). -/
def recomputeQp (n : Nat) : Prog :=
  seqs [ask fun s => settleQp n s.now,
    ask fun s => modFe n fun f => { f with
      qpNext := some (s.freshQp n), qpFrom := if s.windowsRun (s.core n) then none else some (s.boundary (s.now + 1)) }]

/-- A register of core `k` that the next window takes up has been written; where no window can start, it acts at once (R197). -/
def nextWindow (k : Nat) (r : RegKey) : Prog :=
  on (fun s => (s.channelOf k).isNone || !s.windowsRun k) (ask fun s => setEff r (s.reg r))

/-- The least width that the written thresholds of front end `n` give (R189). -/
def State.widthLeast (s : State) (n : Nat) : Nat := widthMin (s.fld (F.PROT_OC_OC_POS n)) (s.fld (F.PROT_OC_OC_NEG n))

/-- A write of `PKT.WIDTH` (R189). -/
def effWidth (n w : Nat) : Prog :=
  ask fun s =>
    if w < s.widthLeast n || 65535 < w then setB (F.FPKT_STAT_PKT_W n)
    else seqs [settleQp n s.now, setF (F.FPKT_WIDTH_WIDTH n) w, recomputeQp n]

/-- A threshold change, before which the least width was `before`, may take it above the width in effect (R189). -/
def widthCheck (n before : Nat) : Prog :=
  seqs [ask fun s => settleQp n s.now,
    on (fun s => before ≤ (s.fe n).width && (s.fe n).width < s.widthLeast n) (seqs [setB (F.FPKT_STAT_WLOW n), faultSource n])]

/-- The stamp format of R195 and Table 15.5. -/
def stampWord (t : Nat) (neg : Bool) : Nat := (if neg then 2 ^ 63 else 0) + t % 2 ^ 63

/-- Every d-th packet writes a stamp entry (R195). -/
def stampEntry (n t : Nat) (neg : Bool) : Prog :=
  ask fun s =>
    let k := s.core n
    let d := s.effFld (F.PKT_STREAM_DIV k)
    if d = 0 then .done
    else if d ≤ (s.cst k).div + 1 then
      seqs [modCore k fun c => { c with div := 0 },
        ringOffer (s.chRing n 5) 1 (natLE 8 (stampWord t neg)) (count (F.PKT_DROP_DROP k))]
    else modCore k fun c => { c with div := c.div + 1 }

/-- A packet is added to the accumulator, and its stamp becomes the last one (R190, R191). -/
def countPacket (n t : Nat) (neg : Bool) : Prog :=
  seqs [chargeRead n, ask fun s =>
    let f := s.fe n
    seqs [keepCharge n (t + 1),
      setAcc n (s.acc n + (if neg then -1 else 1) * (f.qp : Int)),
      modFe n fun f => { f with counted := (t, neg) :: f.counted.take 1 },
      dpWrite (chBlock n + 24) (natLE 8 (stampWord t neg) ++ s.bytes (chBlock n + 24) 8)]]

/-- Packets are timed from the backup oscillator and counted in the asynchronous counters: from t0 of R75 until the relock
(R192). -/
def State.away (s : State) : Bool := s.holdover && !s.locked

/-- The cycles of a packet of front end `n`: `WIDTH`, or from the backup oscillator HW of its cycles (R192). -/
def State.packetWidth (s : State) (n : Nat) : Nat :=
  if s.away then 30 * divUp (s.fe n).width 30 else (s.fe n).width

/-- The packet integrator of channel `n` reaches a threshold at instant `raw` (sub-cycles of the device's own count), the negative
one where `neg` (R186): the packet begins, or waits for the end of the packet in progress; it is counted with the stamp of its
crossing. From loss of lock until the relock it is counted in the asynchronous counters (R192). -/
def progPacketCrossing (n raw : Nat) (neg : Bool) : Prog :=
  ask fun s =>
    let t := s.stampTime raw
    seqs [advance (t / 256), settleQp n (t / 256),
      ask fun s => seqs [
        if (s.fe n).packetEnd.isSome then modFe n fun f => { f with queued := f.queued + 1 }
        else modFe n fun f => { f with packetEnd := some (divUp t 256 + 2 + s.packetWidth n) },
        if s.away then
          modFe n fun f => if neg then { f with negAsync := f.negAsync + 1 } else { f with posAsync := f.posAsync + 1 }
        else countPacket n t neg,
        stampEntry n t neg]]

/-- A packet ends; the oldest crossing that has waited begins its packet (R186). -/
def progPacketEnd (n : Nat) : Prog :=
  ask fun s =>
    match (s.fe n).packetEnd with
    | none => .done
    | some e =>
      let next := if 0 < (s.fe n).queued then some (e + s.packetWidth n) else none
      seqs [advance e, modFe n fun f => { f with packetEnd := next, queued := f.queued - 1 }]

/-- The integrator saturates (R187). -/
def progPacketSaturation (n : Nat) : Prog := seqs [setB (F.FPKT_STAT_SAT n), faultSource n]

/-- At the relock the asynchronous counts are added to the accumulators (R192): the net count times QP × HW × B ÷ `WIDTH`,
`B` being the Fc cycles per backup cycle of the last lock window before the loss. -/
def addHoldoverCharge : Prog :=
  each channels fun n =>
    on (fun s => s.holdover)
      (seqs [eccRead (chBlock n) 16, ask fun s =>
        let f := s.fe n
        let net : Int := (f.posAsync : Int) - f.negAsync
        let sum := divNear (net * f.qp * (divUp f.width 30 : Nat) * s.dev.lt.fcLost) (f.width * s.dev.lt.backupLost)
        seqs [keepCharge n s.nowSub, setAcc n (s.acc n + sum), setZ (F.FPKT_HOLDCNT_NET n) net, setB (F.FPKT_STAT_HOLD n),
          modFe n fun f => { f with counted := [], posAsync := 0, negAsync := 0, holdCharge := true }]])

/-- A write of `PKT.CLRB_HI` names beat `beat` (R194). -/
def clearRequest (n beat : Nat) : Prog :=
  ask fun s =>
    if s.fld F.LT_STATE_LT_ST ≠ 1 || beat ≤ s.reg64 R.LT_BEAT_LO R.LT_BEAT_HI || (s.fe n).clear.isSome then
      setB (F.FPKT_STAT_CLR_PAST n)
    else seqs [modFe n fun f => { f with clear := some beat }, setB (F.FPKT_STAT_CLR_PEND n)]

/-- The clear at instant `tb` (sub-cycles): `LAST` takes ACC + r, the accumulator restarts at −r (R194), and `Q_LOST`
clears (R506). -/
def clearAt (n tb : Nat) : Prog :=
  seqs [chargeRead n, ask fun s =>
    let fine := s.chargeFine n tb - (s.chargeAt n tb).1
    seqs [dpWrite (chBlock n + 16) (natLE 8 (unsigned 64 (s.charge n tb))),
      set64 (R.FPKT_LAST_LO n) (R.FPKT_LAST_HI n) (unsigned 64 (s.charge n tb)),
      keepCharge n tb, setAcc n (s.acc n - (s.chargeAt n tb).1 - fine),
      modFe n fun f => { f with clear := none, counted := f.counted.filter fun p => decide (tb ≤ p.1) },
      putNum (chBlock n + 12) 1 (s.num (chBlock n + 12) 1 &&& 0xFE), clrB (F.FPKT_STAT_CLR_PEND n), setB (F.FPKT_STAT_CLRDONE n)]]

/-- The beat that a pending clear of channel `n` names (R194). -/
def progChargeClear (n : Nat) : Prog :=
  on (fun s => s.fld F.LT_STATE_LT_ST = 1)
    (ask fun s =>
      match (s.fe n).clear with
      | none => .done
      | some b =>
        let tb := b * (s.reg R.LT_BEATCYC).toNat
        seqs [advance tb, clearAt n (tb * 256), modFe n fun f => { f with lastClear := some b }])

/-- Pending clears are cancelled because Line Time leaves VALID (R194). -/
def cancelClears : Prog :=
  each channels fun n =>
    on (fun s => (s.fe n).clear.isSome)
      (seqs [modFe n fun f => { f with clear := none }, clrB (F.FPKT_STAT_CLR_PEND n), setB (F.FPKT_STAT_CLR_CAN n)])

end Sys2Proof.Machine
end

