-- ==== Sys2Proof/Machine/Requests.lean ====
section
/-!
DEFINITION. What many chapters ask for: Calm requests, sequencer faults, offers of event classes, squall requests and
squalls, fail records.
-/
namespace Sys2Proof.Machine

/-- Codes of `SEQ.STATE.ST` (Table 8.9). -/
abbrev stIdle : Nat := 0
abbrev stRun : Nat := 1
abbrev stWait : Nat := 2
abbrev stHalted : Nat := 3
abbrev stHeld : Nat := 4
abbrev stFrozen : Nat := 5
abbrev stFault : Nat := 6

/-- The sequencer state of core `k`. -/
def State.seqSt (s : State) (k : Nat) : Nat := s.fld (F.SEQ_STATE_ST k)

/-- A sequencer that was in state `st` is held: a wait, or a patched routine, is taken again on resume, a PLAY keeps the slot it has
named (R290). -/
def SeqSt.heldAs (q : SeqSt) (st : Nat) : SeqSt :=
  if (st = stWait && q.stall ≠ .play) || q.stall = .micro then { q with heldSt := stRun, stall := .none } else { q with heldSt := st }

/-- The sequencer of core `k` is held by a Calm request (R290): RUN and WAIT become HELD; one that is FROZEN returns as
HELD. -/
def holdSequencer (k : Nat) : Prog :=
  ask fun s =>
    let st := s.seqSt k
    if st = stRun || st = stWait then seqs [modSeq k fun q => q.heldAs st, setF (F.SEQ_STATE_ST k) stHeld]
    else when (st = stFrozen && ((s.cst k).seq.frozeSt = stRun || (s.cst k).seq.frozeSt = stWait))
      (modSeq k fun q => { q.heldAs q.frozeSt with frozeSt := stHeld })

/-- A Calm request for channel `n`: every channel of its gang enters Calm at its next boundary, a leave that waits is
cancelled, and the sequencer is held from now on (R33, R85, R290). -/
def calmRequest (n : Nat) : Prog :=
  ask fun s => seqs [
    each (s.gangCores n) fun k =>
      modDrv k fun d => { d with calm := some (d.calm.getD s.now), leave := none, frozeAct := false },
    holdSequencer (s.leadCore n)]

/-- A sequencer fault of core `k` at its PC (R294). -/
def seqFault (k code : Nat) : Prog :=
  ask fun s => seqs [
    setF (F.SEQ_STATE_ST k) stFault, setF (F.SEQ_STATE_FCODE k) code, setF (F.SEQ_FADDR_ADDR k) (s.fld (F.SEQ_PC_ADDR k)),
    setB (F.SEQ_STAT_FAULT k), modSeq k fun q => { q with stall := .none },
    match s.channelOf k with
    | some n => seqs [faultSource n, calmRequest n]
    | none => .done]

/-- An offer of class `c` to the sequencer of channel `n`, its leader's in a gang, made at cycle `t` or within the cycle before
(R281, R295). -/
def offerAt (n c t : Nat) : Prog :=
  ask fun s => modSeq (s.leadCore n) fun q => { q with offers := q.offers ++ [(c, t)] }

/-- An offer that is made now. -/
def offer (n c : Nat) : Prog := ask fun s => offerAt n c s.now

/-- A squall request of channel `n` (R332). -/
def squallRequest (n : Nat) : Prog :=
  dev fun d => { d with sql := { d.sql with joined := d.sql.joined ++ [n] } }

/-- A message goes out on a port. -/
def send (port : Nat) (bytes : List Byte) : Prog := dev fun d => { d with out := d.out ++ [⟨port, bytes⟩] }

/-! ## Peer frames and squalls (R332 to R336, Table 13.13) -/

/-- The squall word of Table 9.20. -/
def squallWord (dev hops ch seq : Nat) : Nat := dev % 4096 * 2 ^ 20 + hops % 16 * 2 ^ 16 + ch % 64 * 2 ^ 10 + seq % 1024

/-- CRC-16 of R62, one byte. -/
def crc16Byte (c : BitVec 16) (b : Byte) : BitVec 16 :=
  (List.range 8).foldl (fun c _ => if c.msb then (c <<< 1) ^^^ 0x1021 else c <<< 1) (c ^^^ (b.setWidth 16 <<< 8))

/-- The CRC-16 of R62 over a string of bytes. -/
def crc16 (bs : List Byte) : BitVec 16 := bs.foldl crc16Byte 0xFFFF

/-- The peer link, 0 E or 1 W, is enabled (R454); recovery disables both (R482). -/
def State.linkOn (s : State) (link : Nat) : Bool :=
  s.flg (if link = 0 then F.PEER_CFG_EN_E else F.PEER_CFG_EN_W) && !s.flg F.BOOT_STAT_REC

/-- A frame goes out on a peer link: its bytes and their CRC, low byte first (R455). -/
def sendFrame (link : Nat) (bytes : List Byte) : Prog :=
  on (fun s => s.linkOn link) (send (2 + link) (bytes ++ natLE 2 (crc16 bytes).toNat))

/-- A squall is sent on a link, 0 E or 1 W, as three frames back to back (R456). -/
def sendSquall (link word : Nat) : Prog :=
  each (List.range 3) fun _ => sendFrame link (natLE 1 0x01 ++ natLE 1 0 ++ natLE 4 word ++ natLE 2 0)

/-- The device ID that the squall word carries. -/
def State.devId (s : State) : Nat := s.fld F.SYS_DEVID_DEV

/-- A squall has been acted on: its ID enters the list of the last eight. -/
def squallSeen (id : Nat × Nat) : Prog :=
  dev fun d => { d with sql := { d.sql with seen := (id :: d.sql.seen).take 8 } }

/-- `SYS.SQL.ORIG` takes a squall. -/
def squallOrig (dev hops ch seq : Nat) : Prog :=
  seqs [setF F.SYS_SQL_ORIG_DEV dev, setF F.SYS_SQL_ORIG_HOPS hops, setF F.SYS_SQL_ORIG_CH ch, setF F.SYS_SQL_ORIG_SEQ seq]

/-- The received squalls that wait are recorded, and forwarded where `FWD` is 1 and H − 1 is at least 1 (R335). -/
def squallReceived (s : State) : Prog :=
  each s.dev.sql.recv fun r =>
    let dev := r.2 / 2 ^ 20 % 4096
    let hops := r.2 / 2 ^ 16 % 16
    let ch := r.2 / 2 ^ 10 % 64
    let seq := r.2 % 1024
    seqs [squallOrig dev hops ch seq, squallSeen (dev, seq),
      setB (if r.1 = 0 then F.SYS_SQL_STAT_RX_E else F.SYS_SQL_STAT_RX_W),
      when (s.flg F.SYS_SQL_CFG_FWD && 2 ≤ hops) (sendSquall (1 - r.1) (squallWord dev (hops - 1) ch seq))]

/-- The local squall requests that wait form one squall (R332 to R334). -/
def squallLocal (s : State) : Prog :=
  match s.dev.sql.joined with
  | [] => .done
  | c :: cs =>
    let ch := cs.foldl min c
    let hops := s.fld F.SYS_SQL_CFG_HOPS
    let seq := s.dev.sql.seq
    seqs [squallOrig s.devId hops ch seq, squallSeen (s.devId, seq), setB F.SYS_SQL_STAT_LOCAL,
      each (channels.filter fun n => (c :: cs).contains n) faultSource,
      dev fun d => { d with sql := { d.sql with seq := (seq + 1) % 1024 } },
      when (s.flg F.SYS_SQL_CFG_TX_E && hops ≠ 0) (sendSquall 0 (squallWord s.devId hops ch seq)),
      when (s.flg F.SYS_SQL_CFG_TX_W && hops ≠ 0) (sendSquall 1 (squallWord s.devId hops ch seq))]

/-- Squall requests act at the sequencer-cycle boundary: every channel receives a Calm request (R332, R335). -/
def progSquall : Prog :=
  on (fun s => !(s.dev.sql.joined.isEmpty && s.dev.sql.recv.isEmpty))
    (seqs [ask fun s => advance (s.boundary s.now),
      ask fun s => seqs [
        each channels calmRequest, squallReceived s, squallLocal s,
        set64 R.SYS_SQL_LAST_LO R.SYS_SQL_LAST_HI s.now, count F.SYS_SQL_CNT_ACTED],
      dev fun d => { d with sql := { d.sql with joined := [], recv := [] } }])

/-- A SQUALL frame is received on a link, 0 E or 1 W (R335). -/
def squallFrame (link word : Nat) : Prog :=
  ask fun s =>
    if !s.flg (if link = 0 then F.SYS_SQL_CFG_RX_E else F.SYS_SQL_CFG_RX_W) then .done
    else if s.dev.sql.seen.contains (word / 2 ^ 20 % 4096, word % 1024)
        || (s.dev.sql.recv.any fun r => r.2 / 2 ^ 20 % 4096 = word / 2 ^ 20 % 4096 && r.2 % 1024 = word % 1024) then
      seqs [count F.SYS_SQL_CNT_DUP, setB F.SYS_SQL_STAT_DUP]
    else dev fun d => { d with sql := { d.sql with recv := d.sql.recv ++ [(link, word)] } }

/-! ## Fail records (R337 to R340) -/

/-- The fail count and the write index of channel `n` (Table 15.5). -/
def State.failCount (s : State) (n : Nat) : Nat := s.num (chBlock n + 40) 4
def State.failPtr (s : State) (n : Nat) : Nat := s.num (chBlock n + 44) 2 % 4096

/-- `SEGID` of the segment playing on channel `n`. -/
def State.segid (s : State) (n : Nat) : Nat := s.fld (F.PLAY_SEGID_SEGID (s.core n))

/-- `SEGID` of the segment playing on channel `n` at instant `t` (sub-cycles). -/
def State.segidAt (s : State) (n t : Nat) : Nat :=
  ((s.cst (s.core n)).play.segPast.filter fun e => decide (t < e.1)).foldl (fun _ e => e.2) (s.segid n)

/-- A failure of channel `n` is counted, and its record, of which `body` is all but the number, is written (R338); `go` goes on with
the record. -/
def failCounted (n : Nat) (body : List Byte) (go : List Byte → Prog) : Prog :=
  seqs [eccRead (chBlock n + 40) 8, ask fun s =>
    let k := s.core n
    let before := s.failCount n
    let c := min (before + 1) 4294967295
    let rec_ := body ++ natLE 2 c
    let a := failBase k + 32 * s.failPtr n
    let keep := s.fld (F.FAIL_CFG_FULL k) = 1 && 4096 ≤ before
    let first := keep && !(s.fe n).unwritten
    let x : FailLog := ⟨s.now, if keep then none else some (a, s.bytes a 32), rec_,
      if first then some (s.flg (F.FAIL_STAT_FULL k), s.flg (pendField (n + 65))) else none⟩
    seqs [
      modFe n fun f => { f with fails := x :: f.fails.filter fun x => x.at_ = s.now, unwritten := f.unwritten || keep },
      putNum (chBlock n + 40) 4 c,
      if keep then when first (seqs [setB (F.FAIL_STAT_FULL k), eventSource n])
      else seqs [dpWrite a rec_, putNum (chBlock n + 44) 2 ((s.failPtr n + 1) % 4096), setB (F.FAIL_STAT_NEW k)],
      eccWritten (chBlock n + 40) 8, go rec_]]

/-- A failure of channel `n` at instant `t` (sub-cycles): Table 9.6. -/
def failRecord (n typ t info value excess flags : Nat) : Prog :=
  ask fun s =>
    let k := s.core n
    failCounted n (natLE 8 (t / 256) ++ natLE 1 t ++ natLE 1 n ++ natLE 1 typ ++ natLE 1 info ++ natLE 4 (s.segidAt n t)
        ++ natLE 8 value ++ natLE 4 excess ++ natLE 2 flags) fun r =>
      when (s.flg (F.FAIL_CFG_RING k)) (bufOffer 3 n (s.chRing n 10) 3 2 r (count (F.FAIL_RDROP_N k)))

/-- The copy of record `old` that channel `n` has offered to its FAIL ring becomes `new` (R340), in a buffer or among the last entries of
the ring. -/
def relabel (n : Nat) (old new : List Byte) : Prog :=
  ask fun s =>
    let q := s.ring (s.chRing n 10)
    let m := min 8 (idxSub q.pi q.ci)
    seqs [
      dev fun d => { d with buf := d.buf.map fun b =>
        if b.kind = 3 && b.owner = n && b.bytes = old then { b with bytes := new } else b },
      when (q.on && q.typ = 3) (each (idxRange (idxSub q.pi m) m) fun x =>
        when (s.bytes (q.entry x) 32 = old) (dpWrite (q.entry x) new))]

/-- A write of 1 to `FAIL.CLR` of the core of channel `n` (R339): it acts before the failures of its cycle, which are counted and
written from 1 and from index 0 on, in the FAIL ring too; `F_LOST` clears (R506). -/
def failClear (n : Nat) : Prog :=
  ask fun s =>
    let same := (s.fe n).fails.filter fun x => x.at_ = s.now
    seqs [
      each same fun x => match x.place with | some (a, old) => dpWrite a old | none => .done,
      each same fun x => match x.full with
        | some (full, was) => seqs [when (!full) (clrB (F.FAIL_STAT_FULL (s.core n))), unevent (n + 65) was]
        | none => .done,
      dpWrite (chBlock n + 40) (natLE 8 0), eccRead (chBlock n + 8) 8,
      ask fun s => putNum (chBlock n + 12) 1 (s.num (chBlock n + 12) 1 &&& 0xFD), eccWritten (chBlock n + 8) 8,
      modFe n fun f => { f with fails := [], unwritten := false },
      each same.reverse fun x => failCounted n (x.rec_.take 30) fun r => relabel n x.rec_ r]

end Sys2Proof.Machine
end

