-- ==== Sys2Proof/Machine/Capture.lean ====
section
/-!
DEFINITION. Capture and mask envelopes (spec/09_capture.md, R304 to R331).
-/
namespace Sys2Proof.Machine

/-- `CAP.STATE.ST`: 0 IDLE, 1 ARMED, 2 TRIGGERED. -/
def State.capSt (s : State) (k : Nat) : Nat := s.fld (F.CAP_STATE_ST k)

/-- The window interval of core `k` (R171). -/
def State.interval (s : State) (k : Nat) : Nat := max (s.cst k).win.w 12000

/-! ## Closing (R312, Table 9.3) -/

/-- The sample spacing of a capture (R304). -/
def CapSt.spacing (c : CapSt) : Nat := c.ival * (c.dec + 1)

/-- The capture index of the latest sample with S at or before t_T, stored or still to come; 0 where the first sample is later
(R310). -/
def CapSt.indexAt (c : CapSt) (t : Nat) : Nat := if t / 256 < c.s0 then 0 else (t / 256 - c.s0) / max 1 c.spacing

/-- The trigger sample k_T among the first `m` samples: the latest stored S at or before t_T, or the first sample (R310). -/
def CapSt.sampleOf (c : CapSt) (m t : Nat) : Nat := min (c.indexAt t) (m - 1)

/-- φ for the trigger sample among the first `m` samples (R310). -/
def CapSt.phase (c : CapSt) (m t : Nat) : Int :=
  divNear (((t : Int) - ((c.s0 + c.sampleOf m t * c.spacing) * 256 : Nat)) * 65536) (256 * max 1 c.spacing)

/-- The index of the sample with which the capture completes: k_T + `POST` (R311, R315). -/
def CapSt.lastIndex (c : CapSt) : Option Nat :=
  match c.trig with
  | some g => if c.n = 0 then none else some (c.indexAt g.t + c.post)
  | none => none

/-- Samples so far, as the header counts them: those stored, or those that have entered the spill ring (R316). -/
def CapSt.total (c : CapSt) : Nat := if c.spill then c.spilled else c.n

/-- Samples that the header counts as held. -/
def CapSt.held (c : CapSt) : Nat := if c.spill then c.spilled else min c.n c.depth

/-- `NPOST`: samples after the trigger sample. -/
def CapSt.npost (c : CapSt) : Nat :=
  match c.trig with
  | some g => c.total - 1 - c.sampleOf c.total g.t
  | none => 0

/-- `NPRE`: samples before the trigger sample, or all samples without a trigger. -/
def CapSt.npre (c : CapSt) : Nat :=
  match c.trig with
  | some _ => c.held - 1 - c.npost
  | none => c.held

/-- `FRAC`: φ of the trigger taken. -/
def CapSt.frac (c : CapSt) : Int :=
  match c.trig with
  | some g => if c.total = 0 then 0 else c.phase c.total g.t
  | none => 0

/-- The capture header (Table 9.3). -/
def CapSt.header (c : CapSt) (n flags : Nat) : List Byte :=
  let old := if c.spill then 0 else c.n - c.held
  let t := c.trig.map (·.t)
  natLE 8 (if c.n = 0 then 0 else c.s0 + old * c.spacing) ++ natLE 8 ((t.getD 0) / 256) ++ natLE 1 (t.getD 0) ++ natLE 1 n
    ++ natLE 1 ((c.trig.map (·.src)).getD 0) ++ natLE 1 0 ++ natLE 4 c.spacing ++ natLE 4 c.npre ++ natLE 4 c.npost
    ++ natLE 4 (unsigned 32 c.frac) ++ natLE 2 (if c.spill || c.depth = 0 then 0 else old % c.depth) ++ natLE 2 flags
    ++ natLE 8 (unsigned 64 c.qT) ++ natLE 4 c.segT ++ natLE 2 c.seq ++ natLE 10 0

/-- The registers of the last trigger (Table 9.11), once a sample has been stored. -/
def showTrigger (k : Nat) : Prog :=
  ask fun s =>
    let c := (s.cst k).cap
    match c.trig with
    | none => .done
    | some g => seqs [
        set64 (R.CAP_TRIG_LO k) (R.CAP_TRIG_HI k) (g.t / 256), setF (F.CAP_TIDX_SUB k) g.t,
        when (c.n ≠ 0) (seqs [
          setZ (F.CAP_TPOS_FRAC k) (c.phase c.n g.t),
          setF (F.CAP_TIDX_IDX k) (c.sampleOf c.n g.t % max 1 c.depth)])]

/-! ## Spilling (R314, R315) -/

/-- Where pair `i` of a capture lies in the FIFO of core `k`, which has `depth` pairs, at most 32,768 (R304). -/
def capAddr (k depth i : Nat) : Nat := capBase k + 8 * (i % max 1 depth % 32768)

/-- The block of 512 pairs from capture index `from_` on, of which `upto` have been stored; missing pairs are zero, and a
pair whose word is uncorrectable reads as 0x8000_0000 twice (Table 12.3). -/
def spillBlock (s : State) (k depth from_ upto : Nat) : List Byte :=
  (List.range 512).flatMap fun i =>
    let a := capAddr k depth (from_ + i)
    if upto ≤ from_ + i then natLE 8 0
    else if s.badWord a 8 then natLE 4 0x80000000 ++ natLE 4 0x80000000
    else s.bytes a 8

/-- The device reads the pairs of capture index `from_` to `upto` − 1 from a FIFO of `depth` pairs. -/
def spillRead (k depth from_ upto : Nat) : Prog :=
  let first := from_ % max 1 depth % 32768
  let m := upto - from_
  seqs [eccRead (capBase k + 8 * first) (8 * min m (depth - first)),
    when (depth - first < m) (eccRead (capBase k) (8 * (m - (depth - first))))]

/-- Pairs move from the FIFO into the spill ring, 512 at a time; the last block, which `whole` or the capture's last sample makes, is
padded (R315). A ring of another type or entry size sets `TYPE_ERR` (R349). `n` bounds how many blocks. -/
def spillMove (k : Nat) (whole : Bool) : Nat → Prog
  | 0 => .done
  | m + 1 =>
    ask fun s =>
      let c := (s.cst k).cap
      let last := whole || c.lastIndex = some (c.n - 1)
      match s.channelOf k with
      | none => .done
      | some n =>
        let r := s.chRing n 9
        when (c.spill && (512 ≤ c.n - c.spilled || (last && c.spilled < c.n)))
          (if s.ringTakes r 2 4096 then seqs [
            spillRead k c.depth c.spilled (min c.n (c.spilled + 512)),
            modRing r fun q => { q with tags := q.tags ++ [(q.pi, n, c.seq)] },
            ringOffer r 2 (spillBlock s k c.depth c.spilled c.n) .done,
            modCap k fun x => { x with spilled := min x.n (x.spilled + 512) },
            spillMove k whole m]
          else when (s.wrongRing r 2 4096) (setB F.RING_STAT_TYPE_ERR))

/-! ## Closing, continued -/

/-- The flags of Table 9.4 besides the cause; a trigger whose stamp was taken in holdover gives `HOLDOVER`, and
so does a charge at the trigger that includes the holdover charge before any result has (R76). -/
def CapSt.marks (c : CapSt) : Nat :=
  c.flags ||| (match c.trig with | some g => if g.hold then 9 else 1 | none => 0) ||| (if c.spill then 128 else 0)

/-- The cores that take the triggers of core `k`: in a gang those of its channels for its leader's, its own for another's (R319). -/
def State.trigCores (s : State) (k : Nat) : List Nat :=
  match s.channelOf k with
  | some n => if s.leader n = n then s.gangCores n else [k]
  | none => [k]

/-- The capture of core `k` closes with the cause flag `cause` of Table 9.4. DEDUCED (see notes/assumptions/106.md): in spill mode
the pairs that are still in the FIFO enter the ring first, as far as it has room, but after an overflow (R315, R316). Triggers that
wait stay while another capture of the gang is to take them (R319). -/
def closeCapture (k cause : Nat) : Prog :=
  on (fun s => s.capSt k ≠ 0)
    (seqs [when (cause ≠ 64 && cause ≠ 2) (spillMove k true 65), ask fun s =>
      let c := (s.cst k).cap
      let flags := cause ||| c.marks
      seqs [
        setF (F.CAP_STATE_ST k) 0, setF (F.CAP_STATE_SEQ k) c.seq, setB (F.CAP_STAT_DONE k),
        when (cause = 64) (setB (F.CAP_STAT_OVF k)),
        modCap k fun x => { x with
          seq := (x.seq + 1) % 65536
          trigs := if (s.trigCores k).any fun m => m ≠ k && s.capSt m ≠ 0 then x.trigs else [] },
        match s.channelOf k with
        | none => .done
        | some n => seqs [
            bufOffer 2 n (s.chRing n 8) 2 2 (c.header n flags) (count (F.CAP_HDROP_N k)),
            offer n 4, when c.irq (eventSource n)]]])

/-- Every capture in progress closes with `HOLDOVER` (R317). -/
def closeAllCaptures : Prog := each cores fun k => closeCapture k 8

/-! ## Arming (R306, R307) -/

/-- The spill ring of core `k` is assigned: `SPILL` is set and the ring's descriptor gives a depth (R314). -/
def State.spillAssigned (s : State) (k : Nat) : Bool :=
  s.flg (F.CAP_OPT_SPILL k) && (match s.channelOf k with | some n => s.num (descAddr (s.chRing n 9) + 5) 1 ≠ 0 | none => false)

/-- The arm outcome of Table 9.1. -/
def State.armCode (s : State) (k : Nat) : Nat :=
  if s.capSt k ≠ 0 then 3
  else if s.fld (F.CAP_CFG_DEPTH k) = 0 then 2
  else if s.fld (F.CAP_CFG_DEPTH k) < s.fld (F.CAP_POST_N k) + 1 && !s.spillAssigned k then 1
  else 0

/-- A new origin of mask `i` of core `k` (R323), in cycles. -/
def maskOrigin (k i o : Nat) : Prog :=
  ask fun s => seqs [
    set64 (R.MASK_ORG_LO k i) (R.MASK_ORG_HI k i) o,
    modMask k i fun m => { m with origins := (o :: m.origins).take 2, count := 0 },
    clrB (F.MASK_STATE_EXC k i),
    when (s.fld (F.MASK_STATE_ST k i) = 1 || s.fld (F.MASK_STATE_ST k i) = 3) (setF (F.MASK_STATE_ST k i) 2)]

/-- Every enabled mask of core `k` whose `ORG` is `org` takes a new origin. -/
def masksOrigin (k org o : Nat) : Prog :=
  each (List.range 4) fun i =>
    on (fun s => s.flg (F.MASK_SEL_EN k i) && s.fld (F.MASK_CFG_ORG k i) = org && s.fld (F.MASK_STATE_ST k i) ≠ 0)
      (maskOrigin k i o)

/-- The capture of core `k` is armed at instant `a`, or refused (R306). -/
def armCapture (k a : Nat) : Prog :=
  ask fun s =>
    let code := s.armCode k
    if code ≠ 0 then seqs [setF (F.CAP_STATE_ACODE k) code, setB (F.CAP_STAT_REFUSED k)]
    else seqs [
      setF (F.CAP_STATE_ACODE k) 0, setF (F.CAP_STATE_ST k) 1, setF (F.CAP_COUNT_N k) 0,
      modCap k fun c => {
        a := a, depth := s.fld (F.CAP_CFG_DEPTH k), dec := s.fld (F.CAP_CFG_DEC k), tsrc := s.fld (F.CAP_CFG_TSRC k)
        tedge := s.fld (F.CAP_CFG_TEDGE k), post := s.fld (F.CAP_POST_N k), irq := s.flg (F.CAP_OPT_IRQ k)
        spill := s.spillAssigned k && s.fld (F.CAP_CFG_DEPTH k) < s.fld (F.CAP_POST_N k) + 1
        ival := s.interval k, seq := c.seq, trigs := c.trigs },
      masksOrigin k 1 a]

/-! ## Triggers (R308 to R310) -/

/-- A capture that takes the triggers of core `k` is armed, and the core's `TSRC` selects source `src`; in a gang only the leader's is
used (R319). `CAP.CTL.TRIG` needs no selection. -/
def State.takesTrig (s : State) (k src : Nat) : Bool :=
  ((s.trigCores k).any fun m => s.capSt m ≠ 0)
    && (src = 31 || ((s.cst k).cap.tsrc = src && (match s.channelOf k with | some n => s.leader n = n | none => true)))

/-- A trigger source of Table 9.2 fires for core `k` at instant `t` (sub-cycles). -/
def offerTrigger (k src lane t : Nat) : Prog :=
  on (fun s => s.takesTrig k src)
    (ask fun s => modCap k fun c => { c with trigs := c.trigs ++ [⟨t, src, lane, none, s.holdover⟩] })

/-- A capture whose last sample has been stored completes (R311); in spill mode, once it has entered the ring (R315). -/
def completeCapture (k : Nat) : Prog :=
  on (fun s =>
      let c := (s.cst k).cap
      s.capSt k = 2 && (match c.lastIndex with | some i => decide (i < c.total) | none => false))
    (closeCapture k 2)

/-- The capture of core `k` acts on trigger `g` (R309). -/
def takeTrigger (k : Nat) (g : Trig) : Prog :=
  ask fun s =>
    let c := (s.cst k).cap
    if s.capSt k = 2 then setB (F.CAP_STAT_RETRIG k)
    else when (s.capSt k = 1 && c.a * 256 ≤ g.t) (seqs [
      setF (F.CAP_STATE_ST k) 2,
      match s.channelOf k with
      | some n => modCap k fun x => { x with
          trig := some g, qT := s.charge n g.t, segT := s.segidAt n g.t, flags := x.flags ||| (if (s.fe n).holdCharge then 8 else 0) }
      | none => modCap k fun x => { x with trig := some g },
      showTrigger k, completeCapture k])

/-- The trigger reaches the captures of the channel's gang: the leader's own, and the members' at the same boundary
(R319). -/
def gangTrigger (k : Nat) (g : Trig) : Prog :=
  ask fun s => each (s.trigCores k) fun m => takeTrigger m g

/-- The boundary at which a trigger falls due, or the decision instant of its mask (R309). -/
def State.trigDue (s : State) (g : Trig) : Nat := g.due.getD (s.boundary (divUp g.t 256 + 192))

/-- The earlier of two triggers at one boundary: by instant, then by lane. -/
def Trig.before (a b : Trig) : Bool := a.t < b.t || (a.t = b.t && a.lane ≤ b.lane)

/-- Insert a trigger into a list in order of instant. -/
def insertTrig (g : Trig) : List Trig → List Trig
  | [] => [g]
  | h :: r => if g.before h then g :: h :: r else h :: insertTrig g r

/-- Triggers in order. -/
def sortTrigs (l : List Trig) : List Trig := l.foldr insertTrig []

/-- The triggers of core `k` that fall due at boundary `d` or before are acted on, in order of instant. -/
def actTriggers (k d : Nat) : Prog :=
  ask fun s => seqs [
    modCap k fun c => { c with trigs := c.trigs.filter fun g => d < s.trigDue g },
    each (sortTrigs ((s.cst k).cap.trigs.filter fun g => s.trigDue g ≤ d)) (gangTrigger k)]

/-- `CAP.CTL.TRIG` written with 1 (R308). -/
def effCapTrig (k : Nat) : Prog := ask fun s => offerTrigger k 31 31 (s.boundary s.now * 256)

/-! ## Samples (R304, R307, R311, R315, R316) -/

/-- One result set is stored by the capture of core `k`. -/
def storeSample (k : Nat) (r : ResultSet) : Prog :=
  ask fun s =>
    let c := (s.cst k).cap
    if c.spill && c.depth ≤ c.n - c.spilled then closeCapture k 64
    else seqs [
      dpWrite (capAddr k c.depth c.n) (natLE 4 (unsigned 32 r.v) ++ natLE 4 (unsigned 32 r.i)),
      modCap k fun x => { x with
        n := x.n + 1, skip := x.dec, s0 := if x.n = 0 then r.s else x.s0
        flags := x.flags ||| (if r.flags &&& 0xB ≠ 0 then 512 else 0) ||| (if r.flags.testBit 11 then 256 else 0) },
      setF (F.CAP_COUNT_N k) (c.n + 1), showTrigger k]

/-- Pairs of core `k` enter the spill ring as far as it has room, and the capture completes where its last one has (R315). -/
def spillNow (k : Nat) : Prog := on (fun s => s.capSt k ≠ 0) (seqs [spillMove k false 64, completeCapture k])

/-- Ring `r` has got room: the captures that spill into it go on. -/
def spillRoom (r : Nat) : Prog := ask fun s => each channels fun n => when (s.chRing n 9 = r) (spillNow (s.core n))

/-- A result set reaches the capture of core `k` (R304, R307, R312); from loss of lock on none is stored (R317). -/
def captureResult (k : Nat) (r : ResultSet) : Prog :=
  on (fun s => s.capSt k ≠ 0 && (s.cst k).cap.a ≤ r.s && !s.holdover)
    (ask fun s =>
      let c := (s.cst k).cap
      if r.flags.testBit 5 || r.ival ≠ c.ival then closeCapture k 32
      else seqs [
        if c.skip ≠ 0 then modCap k fun x => { x with skip := x.skip - 1 }
        else when (match c.lastIndex with | some i => decide (c.n ≤ i) | none => true) (seqs [spillMove k false 64, storeSample k r]),
        spillNow k])

/-! ## Masks (R320 to R331) -/

/-- Bit `i` of a four-bit field of `MASK.STAT`. -/
def maskStat (k base i : Nat) : Field := ⟨R.MASK_STAT k, base + i, 1⟩

/-- Mask `i` of core `k` is disabled with a bit of `MASK.STAT` at `base` (R321). -/
def maskFails (k i base : Nat) : Prog :=
  ask fun s => seqs [
    clrB (F.MASK_SEL_EN k i), setF (F.MASK_STATE_ST k i) 0, setB (maskStat k base i),
    modMask k i fun m => { m with checking := false },
    match s.channelOf k with | some n => faultSource n | none => .done]

/-- `MASK.SEL[i].EN` is set (R321). -/
def effMaskEnable (k i : Nat) : Prog :=
  seqs [setB (F.MASK_SEL_EN k i), setF (F.MASK_STATE_ST k i) 0, clrB (F.MASK_STATE_EXC k i), clrB (F.MASK_STATE_APPR k i),
    modMask k i fun _ => { checking := true }]

/-- The address of breakpoint `b` of mask `i` of core `k` (R320). -/
def State.bpAddr (s : State) (k i b : Nat) : Nat := padBase + s.fld (F.MASK_ADDR_OFS k i) + 16 * b

/-- A breakpoint's offset and value. -/
def State.bpOff (s : State) (k i b : Nat) : Nat := s.num (s.bpAddr k i b) 8
def State.bpVal (s : State) (k i b : Nat) : Int := signed 64 (s.num (s.bpAddr k i b + 8) 8)

/-- The first fault among breakpoints `b` to `b + n − 1`, in address order: 12 for `MASK_ECC`, 8 for `MASK_ORDER`. -/
def State.bpFault (s : State) (k i b : Nat) : Nat → Option Nat
  | 0 => none
  | n + 1 =>
    if s.badWord (s.bpAddr k i b) 16 then some 12
    else if b ≠ 0 && s.bpOff k i b < s.bpOff k i (b - 1) then some 8
    else s.bpFault k i (b + 1) n

/-- The mask check ends (R321). -/
def progMaskCheckComplete (k i : Nat) : Prog :=
  on (fun s => (s.mask k i).checking && s.flg (F.MASK_SEL_EN k i))
    (ask fun s =>
      let nbp := s.fld (F.MASK_NBP_N k i)
      let ofs := s.fld (F.MASK_ADDR_OFS k i)
      if nbp = 0 then maskFails k i 0
      else if ofs % 16 ≠ 0 || 0x1000000 < ofs + 16 * nbp then maskFails k i 4
      else (eccRead (s.bpAddr k i 0) (16 * nbp)).seq <| match s.bpFault k i 0 nbp with
        | some b => maskFails k i b
        | none =>
          if s.fld (F.MASK_CFG_ORG k i) = 0 then
            seqs [setF (F.MASK_STATE_ST k i) 2,
              modMask k i fun _ => { origins := [s.reg64 (R.MASK_ORG_LO k i) (R.MASK_ORG_HI k i)] }]
          else seqs [setF (F.MASK_STATE_ST k i) 1, modMask k i fun _ => {}])

/-- The origin of a result with sample instant `t`: the later of the two latest that is not after it (R323). -/
def MaskSt.origin (m : MaskSt) (t : Nat) : Option Nat :=
  match m.origins.filter (· ≤ t) with
  | [] => none
  | o :: os => some (os.foldl max o)

/-- The largest index of a breakpoint whose offset is at most `tau`, of the first `n` breakpoints. -/
def State.bpIndex (s : State) (k i tau : Nat) : Nat → Nat
  | 0 => 0
  | n + 1 => if s.bpOff k i n ≤ tau then n else s.bpIndex k i tau n

/-- The quantity of a result that mask `i` compares (Table 9.5), with origin `o`. -/
def State.maskX (s : State) (n k i o : Nat) (r : ResultSet) : Int :=
  match s.fld (F.MASK_CFG_QTY k i) with
  | 0 => r.v
  | 1 => r.i
  | 2 => signed 16 r.t
  | _ => r.q - (((s.mask k i).charges.find? fun e => e.1 = o).map (·.2)).getD (s.charge n (o * 256))

/-- The quantity is out of range (R326). -/
def maskOut (qty flags : Nat) : Bool :=
  match qty with
  | 0 => flags.testBit 0 || flags.testBit 3
  | 1 => flags.testBit 1 || flags.testBit 3
  | 2 => flags.testBit 2
  | _ => flags.testBit 10

/-- A field of `MASK.CFG` as it stood at the evaluation. -/
def MaskEval.fld (v : MaskEval) (f : Nat → Nat → Field) : Nat := fieldGet v.cfg (f 0 v.i).lo (f 0 v.i).w

/-- A violation of a mask is decided (R328). -/
def maskDecides (n k : Nat) (r : ResultSet) (v : MaskEval) : Prog :=
  ask fun s =>
    let pol := v.fld F.MASK_CFG_POL
    let info := v.i + 4 * v.fld F.MASK_CFG_QTY + 16 * v.fld F.MASK_CFG_SENSE + 32 * pol
    seqs [
      failRecord n 1 (r.s * 256) info (unsigned 64 v.x) (unsigned 32 (clampInt (-(2 ^ 31)) (2 ^ 31 - 1) (v.x - v.e))) r.flags,
      setB (maskStat k 16 v.i),
      when (s.takesTrig k (24 + v.i))
        (modCap k fun c => { c with trigs := c.trigs ++ [⟨r.s * 256, 24 + v.i, 0, some r.due, r.flags.testBit 4⟩] }),
      if pol = 0 then eventSource n
      else seqs [if pol = 1 then calmRequest n else squallRequest n, faultSource n,
        when (s.flg (F.MASK_SEL_EN k v.i)) (setF (F.MASK_STATE_ST k v.i) 4)]]

/-- What a mask has found of a result takes effect (R324, R326, R327, R330). The mask may have been disabled since the evaluation,
which then is its last (R331): its status is left alone. -/
def maskJudge (n k : Nat) (r : ResultSet) (v : MaskEval) : Prog :=
  ask fun s =>
    let i := v.i
    let upper := v.fld F.MASK_CFG_SENSE = 0
    let out := maskOut (v.fld F.MASK_CFG_QTY) r.flags
    let band : Int := fieldGet v.appr (F.MASK_APPR_BAND 0 i).lo (F.MASK_APPR_BAND 0 i).w
    let en := s.flg (F.MASK_SEL_EN k i)
    if out && v.fld F.MASK_CFG_OVRF = 0 then .done
    else if out || (if upper then decide (v.e < v.x) else decide (v.x < v.e)) then
      seqs [when en (seqs [setB (F.MASK_STATE_EXC k i), clrB (F.MASK_STATE_APPR k i)]), count (F.MASK_VCNT_N k i),
        modMask k i fun m => { m with count := m.count + 1 },
        when ((s.mask k i).count = v.fld F.MASK_CFG_PERSIST) (maskDecides n k r v)]
    else
      let near := band ≠ 0 && (if upper then decide (v.e - band ≤ v.x) else decide (v.x ≤ v.e + band))
      seqs [when en (seqs [clrB (F.MASK_STATE_EXC k i), setF (F.MASK_STATE_APPR k i) (if near then 1 else 0)]),
        modMask k i fun m => { m with count := 0 },
        when (near && !s.flg (F.MASK_STATE_APPR k i)) (offer n 3)]

/-- What mask `i` of channel `n` evaluates a result against, at its delivery (R322 to R325, R331): its origin, the index b of its
breakpoint, and how many breakpoints it reads; none where it does not evaluate it. -/
def State.maskReads (s : State) (k i : Nat) (r : ResultSet) : Option (Nat × Nat × Nat) :=
  if s.flg (F.MASK_SEL_EN k i) && s.fld (F.MASK_STATE_ST k i) = 2 && (s.fld (F.MASK_CFG_QTY k i) ≠ 2 || r.flags.testBit 13) then
    ((s.mask k i).origin r.s).map fun o =>
      let nbp := s.fld (F.MASK_NBP_N k i)
      let b := s.bpIndex k i (r.s - o) nbp
      (o, b, min nbp (b + 2))
  else none

/-- What mask `i` of channel `n` finds of a result at its delivery (R324, R325); none where it is not evaluated. -/
def State.maskFinds (s : State) (n k i : Nat) (r : ResultSet) : Option MaskEval :=
  match s.maskReads k i r with
  | none => none
  | some (o, b, m) =>
    let v : MaskEval := { i := i, cfg := s.reg (R.MASK_CFG k i), appr := s.reg (R.MASK_APPR k i) }
    let tau := r.s - o
    match s.bpFault k i 0 m with
    | some base => some { v with fault := some base }
    | none =>
      if tau < s.bpOff k i 0 then none
      else if b + 1 = s.fld (F.MASK_NBP_N k i) then
        if s.flg (F.MASK_CFG_TAIL k i) then some { v with ended := true }
        else some { v with x := s.maskX n k i o r, e := s.bpVal k i b }
      else
        let d := s.bpOff k i (b + 1) - s.bpOff k i b
        some { v with
          x := s.maskX n k i o r
          e := s.bpVal k i b + divNear ((s.bpVal k i (b + 1) - s.bpVal k i b) * (tau - s.bpOff k i b : Nat)) d }

/-- The masks of channel `n`, whose core is `k`, evaluate a result at its delivery; what they find waits for the decision instant
(R324). -/
def evaluateMasks (n k : Nat) (r : ResultSet) : Prog :=
  ask fun s => seqs [
    each (List.range 4) fun i =>
      match s.maskReads k i r with | some (_, _, m) => eccRead (s.bpAddr k i 0) (16 * m) | none => .done,
    modWin k fun w => { w with toJudge := w.toJudge ++ [{ r with evals := (List.range 4).filterMap fun i => s.maskFinds n k i r }] }]

/-- What a mask has found is decided. -/
def maskDecide (n k : Nat) (r : ResultSet) (v : MaskEval) : Prog :=
  match v.fault, v.ended with
  | some base, _ => maskFails k v.i base
  | none, true => on (fun s => s.fld (F.MASK_STATE_ST k v.i) = 2) (setF (F.MASK_STATE_ST k v.i) 3)
  | none, false => maskJudge n k r v

/-- The masks of channel `n` judge the oldest result that waits for them (R324, R329). -/
def judgeOldest (n : Nat) : Prog :=
  ask fun s =>
    let k := s.core n
    match (s.cst k).win.toJudge with
    | [] => .done
    | r :: rs => seqs [modWin k fun w => { w with toJudge := rs }, each r.evals (maskDecide n k r)]

/-- The decision instant of the oldest result that waits for the masks of channel `n`: what its masks decide, and the triggers that
fall due there, act at that instant (R309, R324). -/
def progMaskEvaluation (n : Nat) : Prog :=
  ask fun s =>
    match (s.cst (s.core n)).win.toJudge with
    | [] => .done
    | r :: _ => seqs [advance r.due, judgeOldest n, actTriggers (s.core n) r.due]

/-- The masks of channel `n` judge the results, `m` at most, whose decision instant is not past `d`. -/
def judgeUpTo (n d : Nat) : Nat → Prog
  | 0 => .done
  | m + 1 =>
    on (fun s => match (s.cst (s.core n)).win.toJudge with | r :: _ => decide (r.due ≤ d) | [] => false)
      ((judgeOldest n).seq (judgeUpTo n d m))

/-- What is decided for the capture of channel `n` at boundary `d` is: by its masks, then by every trigger due (R309). -/
def decideCapture (n d : Nat) : Prog :=
  ask fun s => seqs [judgeUpTo n d (s.cst (s.core n)).win.toJudge.length, actTriggers (s.core n) d]

/-- The earliest boundary at which a trigger of channel `n` falls due is reached (R309). -/
def progCaptureTrigger (n : Nat) : Prog :=
  ask fun s =>
    match ((s.cst (s.core n)).cap.trigs.map s.trigDue).min? with
    | none => .done
    | some d => seqs [advance d, decideCapture n d]

/-- The capture of core `k` is disarmed at boundary `d` (R312, R313): the triggers that fall due there, the gang leader's too, are
taken first where they are earlier. -/
def disarmCapture (k d : Nat) : Prog :=
  seqs [
    ask fun s => match s.channelOf k with
      | some n => seqs [when (s.leader n ≠ n) (decideCapture (s.leader n) d), decideCapture n d]
      | none => actTriggers k d,
    closeCapture k 4]

end Sys2Proof.Machine
end

