-- ==== Sys2Proof/Machine/Events.lean ====
section
/-!
DEFINITION. External event timing (spec/06_event_timing.md): lanes and stamps, the channel gate, measurement units.
-/
namespace Sys2Proof.Machine

/-- `EVM.U[u].STATE.ST`: 0 IDLE, 1 ARMED, 2 RUNNING, 3 HELD. -/
def State.unitSt (s : State) (k u : Nat) : Nat := s.fld (F.EVM_STATE_ST k u)

/-- The units of a core. -/
def units : List Nat := List.range 4

/-! ## Results (R211, R215 to R217) -/

/-- A measurement of unit `u` of core `k` yields a result: interval `ivl`, start stamp `st`, flags of its own; `next` is the
instant from which REPEAT re-arms. -/
def unitResult (k u : Nat) (ivl : Int) (st flags next : Nat) : Prog :=
  ask fun s =>
    let x := s.unit k u
    let mode := s.fld (F.EVM_CFG_MODE k u)
    let all := flags ||| (if s.flg (F.EVM_CFG_GATED k u) then 64 else 0) ||| (if x.loss then 32 else 0)
      ||| (if x.hold then 16 else 0)
    seqs [
      set64 (R.EVM_IVL_LO k u) (R.EVM_IVL_HI k u) (unsigned 64 ivl),
      set64 (R.EVM_ST_LO k u) (R.EVM_ST_HI k u) (st / 256), setF (F.EVM_SUBR_SUB k u) st,
      setF (F.EVM_INFO_SEQ k u) x.seq, setF (F.EVM_INFO_FLAGS k u) all,
      modUnit k u fun y => { y with
        seq := (y.seq + 1) % 65536, loss := false, hold := false, near := none
        a := if mode = 1 then next else y.a },
      setF (F.EVM_STATE_ST k u) (if mode = 0 then 0 else 1),
      setB ⟨R.EVM_STAT k, u, 1⟩,
      match s.channelOf k with
      | none => .done
      | some n => seqs [
          when (s.flg (F.EVM_CFG_REC k u))
            (bufOffer 1 (4 * k + u) (s.chRing n 7) 4 4
              (natLE 8 (st / 256) ++ natLE 8 (unsigned 64 ivl) ++ natLE 1 st ++ natLE 1 n ++ natLE 1 u ++ natLE 1 0
                ++ natLE 2 all ++ natLE 2 x.seq ++ natLE 8 0)
              (count (F.EVM_DROP_DROP k))),
          when (s.flg (F.EVM_CFG_OFFER k u)) (offer n 5),
          when (s.flg (F.EVM_CFG_IRQ k u)) (eventSource n)]]

/-- A result that is a timeout (Table 6.2). -/
def unitTimeout (k u : Nat) : Prog :=
  ask fun s =>
    match (s.unit k u).deadline with
    | none => .done
    | some d => seqs [count (F.EVM_CNT_TMOCNT k u),
        unitResult k u ((d : Int) - (s.unit k u).start) (s.unit k u).start 4 d]

/-- The held stop is counted in `NOSTART` and the unit is ARMED again. -/
def unitDropHeld (k u : Nat) : Prog :=
  seqs [count (F.EVM_CNT_NOSTART k u), modUnit k u fun x => { x with hold := false }, setF (F.EVM_STATE_ST k u) 1]

/-! ## Stamps at a unit (R207 to R214, Table 6.2) -/

/-- A stamp qualifies for a source and edge code (R208). -/
def Stamp.fits (p : Stamp) (src edge : Nat) : Bool :=
  src ≠ 0 && p.src = src && (edge = 2 || edge = (if p.fall then 1 else 0))

/-- The gate of core `k` at cycle `t`: as its changes up to then have left it. -/
def State.gateAt (s : State) (k t : Nat) : Bool :=
  match (s.cst k).gates.find? fun g => g.1 ≤ t with
  | some g => g.2
  | none => match (s.cst k).gates.getLast? with | some g => !g.2 | none => s.flg (F.EVM_GATE_NOW k)

/-- Unit `u` of core `k` accepts a start or a stop by stamp `p` (R207, R209): not below A, nor at or after a disarm that
waits, and with `GATED` only where the gate is true at the last boundary at or before it. -/
def State.unitAccepts (s : State) (k u : Nat) (p : Stamp) : Bool :=
  (s.unit k u).a ≤ p.t && (match (s.unit k u).off with | some d => decide (p.t < d * 256) | none => true)
    && (!s.flg (F.EVM_CFG_GATED k u) || s.gateAt k p.last)

/-- The deadline of a measurement that starts at `t` (R212). -/
def State.unitDeadline (s : State) (k u t : Nat) : Option Nat :=
  let tmo := s.reg64 (R.EVM_TMO_LO k u) (R.EVM_TMO_HI k u)
  if tmo = 0 then none else some (t + tmo * 256)

/-- A start is taken: RUNNING. -/
def unitStart (k u : Nat) (p : Stamp) : Prog :=
  ask fun s => seqs [
    modUnit k u fun x => { x with start := p.t, hold := p.hold, deadline := s.unitDeadline k u p.t, near := none },
    setF (F.EVM_STATE_ST k u) 2]

/-- A start that the unit accepts waits among the core's stamps within one sub-cycle of `t`. -/
def State.startNear (s : State) (k u t : Nat) : Bool :=
  (s.cst k).stamps.any fun q =>
    q.fits (s.fld (F.EVM_SRC_START_SRC k u)) (s.fld (F.EVM_SRC_START_EDGE k u)) && t ≤ q.t && q.t ≤ t + 1
      && s.unitAccepts k u q

/-- What a stamp does in ARMED. -/
def unitArmed (k u : Nat) (p : Stamp) (start stop : Bool) : Prog :=
  ask fun s =>
    let x := s.unit k u
    let rwin := s.fld (F.EVM_RWIN_CYC k u)
    if s.fld (F.EVM_CFG_MODE k u) = 2 then
      when start (seqs [modUnit k u fun x => { x with hold := x.hold || p.hold }, unitResult k u 0 p.t 256 p.t])
    else if start then
      match x.near with
      | some q => if p.t ≤ q + 1 then
          seqs [modUnit k u fun x => { x with hold := x.hold || p.hold }, unitResult k u 0 p.t 1 p.t]
        else unitStart k u p
      | none => unitStart k u p
    else if stop then
      if s.startNear k u p.t then modUnit k u fun x => { x with near := some p.t, hold := x.hold || p.hold }
      else if rwin = 0 then count (F.EVM_CNT_NOSTART k u)
      else seqs [modUnit k u fun x => { x with stop := p.t, limit := p.t + rwin * 256, hold := p.hold },
        setF (F.EVM_STATE_ST k u) 3]
    else .done

/-- What a stamp does in RUNNING, not later than the deadline. -/
def unitRunning (k u : Nat) (p : Stamp) (start stop : Bool) : Prog :=
  ask fun s =>
    let x := s.unit k u
    if stop then seqs [
      modUnit k u fun x => { x with hold := x.hold || p.hold },
      if p.t ≤ x.start + 1 && x.start ≤ p.t + 1 then unitResult k u 0 x.start 1 p.t
      else unitResult k u ((p.t : Int) - x.start) x.start 0 p.t,
      when (start && s.fld (F.EVM_CFG_MODE k u) = 1) (unitStart k u p)]
    else when start (count (F.EVM_CNT_EXTRA k u))

/-- What a stamp does in HELD. -/
def unitHeld (k u : Nat) (p : Stamp) (start stop : Bool) : Prog :=
  ask fun s =>
    let x := s.unit k u
    if start then
      if x.limit < p.t then seqs [unitDropHeld k u, unitStart k u p]
      else if s.flg (F.EVM_CFG_SIGNED k u) then
        seqs [modUnit k u fun x => { x with hold := x.hold || p.hold },
          unitResult k u ((x.stop : Int) - p.t) p.t 2 p.t]
      else seqs [count (F.EVM_CNT_REVDISC k u), modUnit k u fun x => { x with hold := false }, setF (F.EVM_STATE_ST k u) 1]
    else when stop (seqs [unitDropHeld k u, unitArmed k u p false true])

/-- Lane `l` stamps an edge of input `i` with this sense (R200). -/
def State.laneTakes (s : State) (l i : Nat) (fall : Bool) : Bool :=
  let e := if l < 16 then s.fld (F.EVT_IN_EDGE l) else s.fld (F.EVT_AUX_EDGE (l - 16))
  (if l < 16 then l = i && s.flg (F.EVT_IN_EN l) else s.fld (F.EVT_AUX_IN (l - 16)) = i && s.flg (F.EVT_AUX_EN (l - 16)))
    && (e = 2 || e = (if fall then 1 else 0))

/-- Some lane stamps the edge that a source and edge code name. -/
def State.laneFor (s : State) (src edge : Nat) : Bool :=
  if src = 0 || 16 < src then true
  else
    let one (fall : Bool) := (List.range 20).any fun l => s.laneTakes l (src - 1) fall
    match edge with
    | 0 => one false
    | 1 => one true
    | _ => one false && one true

/-- Unit `u` of core `k`, which is IDLE, is armed with arm instant `a` (R208, R209). -/
def unitArm (k u a : Nat) : Prog :=
  ask fun s => seqs [
    modUnit k u fun x => { x with a := a, loss := false, hold := false, near := none, off := none },
    setF (F.EVM_STATE_ST k u) 1,
    when (!(s.laneFor (s.fld (F.EVM_SRC_START_SRC k u)) (s.fld (F.EVM_SRC_START_EDGE k u))
        && s.laneFor (s.fld (F.EVM_SRC_STOP_SRC k u)) (s.fld (F.EVM_SRC_STOP_EDGE k u)))) (setB (F.EVM_STAT_NOLANE k))]

/-- Unit `u` of core `k` closes because it is disarmed (R210); `extra` adds flags to `ABORT`. -/
def disarmUnit (k u extra : Nat) : Prog :=
  ask fun s =>
    match s.unitSt k u with
    | 0 => .done
    | 1 => setF (F.EVM_STATE_ST k u) 0
    | 2 => seqs [unitResult k u 0 (s.unit k u).start (8 ||| extra) 0, setF (F.EVM_STATE_ST k u) 0]
    | _ => seqs [count (F.EVM_CNT_NOSTART k u), modUnit k u fun x => { x with hold := false }, setF (F.EVM_STATE_ST k u) 0]

/-- What `EVM.U[u].STATE.ST` of core `k` reads: a unit is IDLE from the boundary of a disarm on, though stamps below that boundary are
still to decide its measurement, and ARMED from an arm since on (R209, R210). -/
def State.unitSeen (s : State) (k u : Nat) : Nat :=
  match (s.unit k u).off with
  | none => s.unitSt k u
  | some d =>
    match (s.unit k u).later.getLast? with
    | some (_, true) => 1
    | some (_, false) => 0
    | none => if d ≤ s.now then 0 else s.unitSt k u

/-- A disarm of unit `u` of core `k` that waits takes place once no stamp below its boundary is left (R210), and then the arm and the
disarm that followed it, at most so many. -/
def disarmNext (k u : Nat) : Nat → Prog
  | 0 => .done
  | n + 1 =>
    ask fun s =>
      match (s.unit k u).off with
      | none => .done
      | some d =>
        when (!((s.cst k).stamps.any fun p => decide (p.t < d * 256)))
          (seqs [modUnit k u fun x => { x with off := none }, disarmUnit k u 0,
            match (s.unit k u).later with
            | (a, true) :: r => seqs [
                unitArm k u (a * 256),
                match r with
                | (d', _) :: r' => seqs [modUnit k u fun x => { x with off := some d', later := r' }, disarmNext k u n]
                | [] => modUnit k u fun x => { x with later := [] }]
            | _ => modUnit k u fun x => { x with later := [] }])

/-- The disarm that unit `u` of core `k` waits for takes place where it is due. -/
def disarmIfDue (k u : Nat) : Prog := ask fun s => disarmNext k u ((s.unit k u).later.length + 1)

/-- Unit `u` of core `k` is disarmed at boundary `d`: stamps at or after it are ignored (R210). -/
def disarmAt (k u d : Nat) : Prog :=
  on (fun s => s.unitSeen k u ≠ 0)
    (seqs [modUnit k u fun x =>
        if x.off.isSome && x.later ≠ [] then { x with later := x.later ++ [(d, false)] }
        else { x with off := some ((x.off.getD d).min d) },
      disarmIfDue k u])

/-- Unit `u` of core `k` acts on a stamp. -/
def unitStamp (k u : Nat) (p : Stamp) : Prog :=
  seqs [
    disarmIfDue k u,
    on (fun s => s.unitSt k u = 0 && p.fits (s.fld (F.EVM_SRC_ARM_SRC k u)) (s.fld (F.EVM_SRC_ARM_EDGE k u)))
      (unitArm k u p.t),
    on (fun s => s.unitSt k u = 2 && (match (s.unit k u).deadline with | some d => d < p.t | none => false))
      (unitTimeout k u),
    on (fun s => s.unitSt k u ≠ 0 && s.unitAccepts k u p)
      (ask fun s =>
        let start := p.fits (s.fld (F.EVM_SRC_START_SRC k u)) (s.fld (F.EVM_SRC_START_EDGE k u))
        let stop := p.fits (s.fld (F.EVM_SRC_STOP_SRC k u)) (s.fld (F.EVM_SRC_STOP_EDGE k u))
        match s.unitSt k u with
        | 1 => unitArmed k u p start stop
        | 2 => unitRunning k u p start stop
        | _ => unitHeld k u p start stop),
    disarmIfDue k u]

/-- A stamp of value `t` (sub-cycles); a core acts on it at the first boundary at least 192 cycles after it (R203). -/
def State.stampOf (s : State) (t src : Nat) (fall : Bool) (lane : Nat) (hold : Bool) : Stamp :=
  ⟨t, src, fall, lane, hold, divUp t 256 + 192, s.lastBoundary (t / 256)⟩

/-- Order of stamps at one boundary: by value, then by lane (R203). -/
def Stamp.before (a b : Stamp) : Bool := a.t < b.t || (a.t = b.t && a.lane ≤ b.lane)

/-- Insert a stamp into a list in order. -/
def insertStamp (p : Stamp) : List Stamp → List Stamp
  | [] => [p]
  | h :: r => if p.before h then p :: h :: r else h :: insertStamp p r

/-- The earliest boundary at which core `k` has a stamp to act on (R203). -/
def State.stampsDue (s : State) (k : Nat) : Option Nat :=
  match (s.cst k).stamps.map fun p => s.boundary p.from_ with
  | [] => none
  | d :: ds => some (ds.foldl min d)

/-- Core `k` acts on the stamps that fall due at boundary `b`, in their order. -/
def stampsAct (k b : Nat) : Prog :=
  seqs [advance b,
    ask fun s =>
      each (((s.cst k).stamps.filter fun p => s.boundary p.from_ = b).foldr insertStamp []) fun p =>
        seqs [modCore k fun c => { c with stamps := c.stamps.erase p }, each units fun u => unitStamp k u p]]

/-- Core `k` acts on every stamp that falls due up to boundary `t`, in the order of the boundaries. -/
def stampsUpTo (k t : Nat) : Nat → Prog
  | 0 => .done
  | n + 1 =>
    ask fun s =>
      match s.stampsDue k with
      | some b => when (b ≤ t) ((stampsAct k b).seq (stampsUpTo k t n))
      | none => .done

/-! ## The channel gate (R205 to R207) -/

/-- Every sample from `lo` to `hi` sees level `v`; `l` lists the changes, the latest first, and before them the level is low. Each
change tells the sample before it, so that no other grid of samples is asked for. -/
def levelHeld (v : Bool) (lo : Nat) : List (Nat × Nat × Bool) → Nat → Bool
  | [], _ => !v
  | (a, b, w) :: r, hi =>
    if hi < a then levelHeld v lo r hi
    else if a ≤ lo || b < lo then w == v
    else w == v && levelHeld v lo r b

/-- The level changes of the input that the gate of core `k` uses. -/
def State.gateLevels (s : State) (k : Nat) : List (Nat × Nat × Bool) := s.dev.evt.levels.get [] (s.fld (F.EVM_GATE_SRC k) - 1)

/-- How far the span that the gate of core `k` judges reaches back (R206). -/
def State.gateSpan (s : State) (k : Nat) : Nat := 256 + 3000 * s.fld (F.EVT_IN_DEB (s.fld (F.EVM_GATE_SRC k) - 1))

/-- At boundary `t` every sample of the span has the level that makes the gate of core `k` take value `v`. -/
def State.gateHeld (s : State) (k : Nat) (v : Bool) (t : Nat) : Bool :=
  levelHeld (v != s.flg (F.EVM_GATE_POL k)) (t - s.gateSpan k) (s.gateLevels k) (t - 256)

/-- The boundary at which the gate of core `k` next changes, if the levels so far make it change: the span then begins at a change, or
just after the sample before one. -/
def State.gateNext (s : State) (k : Nat) : Option Nat :=
  if s.fld (F.EVM_GATE_SRC k) = 0 then none
  else
    (((0 :: (s.gateLevels k).flatMap fun x => [x.1, x.2.1 + 1]).map fun a =>
        s.boundary (max (a + s.gateSpan k) (s.cst k).gateFrom)).filter
      (s.gateHeld k (!s.flg (F.EVM_GATE_NOW k)))).min?

/-- The gate of core `k` takes its other value at boundary `b` (R207, R210). DESIGN CHOICE (see notes/assumptions/117.md): a GATE stamp
comes after the lanes' stamps of equal value, as number 32 (R203 ranks lanes only). -/
def gateTurns (k b : Nat) : Prog :=
  seqs [advance b,
    ask fun s =>
      let now := !s.flg (F.EVM_GATE_NOW k)
      seqs [
        setF (F.EVM_GATE_NOW k) (if now then 1 else 0),
        modCore k fun c => { c with
          gates := (b, now) :: c.gates, gateFrom := b + 1, stamps := c.stamps ++ [s.stampOf (b * 256) 21 (!now) 32 s.holdover] },
        each units fun u => when (!now && s.flg (F.EVM_CFG_DISGATE k u)) (disarmAt k u b)]]

/-- The gate of core `k` takes the values of the boundaries up to `t`. -/
def gateUpTo (k t : Nat) : Nat → Prog
  | 0 => .done
  | n + 1 =>
    ask fun s =>
      match s.gateNext k with
      | some b => when (b ≤ t) ((gateTurns k b).seq (gateUpTo k t n))
      | none => .done

/-- The gate of core `k` is judged up to cycle `t`: each level change can turn it once. -/
def gateSettle (k t : Nat) : Prog := ask fun s => gateUpTo k t ((s.gateLevels k).length + 1)

/-- The measurement gate of core `k` changes at boundary `t` or before, as the levels make it (R206). -/
def progGateChange (k t : Nat) : Prog := gateSettle k t

/-- The settings of the gate of core `k` change at boundary `b`: it has been judged up to then, and goes on from there. OPEN is
true at once (R205). -/
def gateSet (k b : Nat) (p : Prog) : Prog :=
  seqs [gateSettle k b, p,
    on (fun s => s.fld (F.EVM_GATE_SRC k) = 0 && !s.flg (F.EVM_GATE_NOW k)) (gateTurns k b),
    modCore k fun c => { c with gateFrom := max c.gateFrom b }]

/-- Core `k` acts on the stamps that fall due at its earliest boundary (R203), its gate being judged up to there. -/
def progStampAction (k : Nat) : Prog :=
  ask fun s =>
    match s.stampsDue k with
    | none => .done
    | some b => seqs [gateSettle k b, ask fun s => match s.stampsDue k with | some b => stampsAct k b | none => .done]

/-! ## Edges (R199 to R204, R218) -/

/-- The counter of lane `l` in `EVT.LOST` (Table 6.10). -/
def lostField (l : Nat) : Field := ⟨R.EVT_LOST (l / 4), 8 * (l % 4), 8⟩

/-- A source and edge code name an edge of input `i` that lane `l` stamps. -/
def State.sourceLane (s : State) (l i src edge : Nat) : Bool :=
  src = i + 1 && [false, true].any fun f => s.laneTakes l i f && (edge = 2 || edge = (if f then 1 else 0))

/-- Unit `u` of core `k` uses lane `l` on input `i`; a unit in STAMP mode uses no stop source (R211). -/
def State.unitUses (s : State) (k u l i : Nat) : Bool :=
  s.sourceLane l i (s.fld (F.EVM_SRC_START_SRC k u)) (s.fld (F.EVM_SRC_START_EDGE k u))
    || (s.fld (F.EVM_CFG_MODE k u) ≠ 2 && s.sourceLane l i (s.fld (F.EVM_SRC_STOP_SRC k u)) (s.fld (F.EVM_SRC_STOP_EDGE k u)))

/-- Lane `l` misses an edge of input `i` (R201). -/
def laneLoss (l i : Nat) : Prog :=
  seqs [count (lostField l), setB ⟨R.EVT_STAT, l, 1⟩,
    each cores fun k => each units fun u =>
      on (fun s => s.unitSt k u ≠ 0 && s.unitUses k u l i) (modUnit k u fun x => { x with loss := true })]

/-- Core `k` serves a channel that leads its gang, or that is in none. -/
def State.leads (s : State) (k : Nat) : Bool :=
  match s.channelOf k with | some n => s.leader n = n | none => false

/-- Lane `l` stamps an edge of input `i`, which came at `raw`, with value `t` (sub-cycles). DESIGN CHOICE (see
notes/assumptions/116.md): the stamp stays in its lane's queue (R201) until the boundary at which the cores act on it. -/
def laneStamp (l i : Nat) (fall : Bool) (raw t : Nat) (hold : Bool) : Prog :=
  ask fun s =>
  let p := s.stampOf t (i + 1) fall l hold
  seqs [
    dev fun d => { d with evt := { d.evt with
      last := d.evt.last.put l raw
      queue := (d.evt.queue.filter fun q => s.now < s.boundary q.2) ++ [(l, p.from_)] } },
    set64 (R.EVT_LAST_LO l) (R.EVT_LAST_HI l) (t / 256), setF (F.EVT_LAST_INFO_SUB l) t,
    setF (F.EVT_LAST_INFO_FALL l) (if fall then 1 else 0), setF (F.EVT_LAST_INFO_HOLD l) (if hold then 1 else 0),
    each cores fun k => modCore k fun c => { c with stamps := c.stamps ++ [p] },
    each (cores.filter s.leads) fun k =>
      when ((s.cst k).cap.tedge = 2 || (s.cst k).cap.tedge = (if fall then 1 else 0)) (offerTrigger k (i + 1) l t),
    when (s.flg (F.EVT_IN_IRQ i)) (raise (129 + i))]

/-- The value with which lane `l` stamps an edge that it times at `raw` (R57, R70, R202): its Line Time less the lane's
calibrated delay; from t0 to t2 of R75 the holdover count, without a sub-cycle part (R218). -/
def State.stampValue (s : State) (l raw : Nat) : Nat :=
  if s.heldOver then s.stampTime raw else ((s.lineTime raw : Int) - s.sfld (F.EVT_XDLY_SUB l)).toNat

/-- The level of input `i` changes at `raw`: samples see it from the first one on, or, where that comes within 8 cycles, perhaps
only from the next one on, which the spec leaves open (R206). -/
def levelEdge (i : Nat) (level : Bool) (raw : Nat) : Prog :=
  free fun x => ask fun s =>
    let c := divUp (s.countTime raw) 256
    let b := s.boundary c
    let seen := if x % 2 = 1 && b ≤ c + 8 then s.boundary (b + 1) else b
    dev fun d => { d with evt := { d.evt with levels := d.evt.levels.mod [] i fun l => (seen, s.lastBoundary (seen - 1), level) :: l } }

/-- An edge on EV`i`, rising or falling, that the lanes time at `raw` in sub-cycles of the device's own count (R199 to R204). -/
def progEvEdge (i : Nat) (fall : Bool) (raw : Nat) : Prog :=
  ask fun s =>
    each ((List.range 20).filter fun l => s.laneTakes l i fall) fun l =>
      ask fun s =>
        let t := s.stampValue l raw
        let near := match s.dev.evt.last.find? fun e => e.1 = l with
          | some e => raw < e.2 + 922
          | none => false
        let full := 8 ≤ (s.dev.evt.queue.filter fun q => q.1 = l && t / 256 < s.boundary q.2).length
        if near || full then laneLoss l i else seqs [advance (t / 256), laneStamp l i fall raw t s.holdover]

/-! ## Arming and disarming (R208 to R210) -/

/-- A write of 1 to `EVM.U[u].CTL.ARM` of core `k` (R208, R209), after a disarm that still waits for stamps too. -/
def effEvmArm (k u : Nat) : Prog :=
  on (fun s => s.unitSeen k u = 0) (ask fun s =>
    if (s.unit k u).off.isNone then unitArm k u (s.boundary s.now * 256)
    else modUnit k u fun x => { x with later := x.later ++ [(s.boundary s.now, true)] })

/-- The deadline of a RUNNING unit passes (R215): the stamps that fall due up to the boundary at which it is decided come
first. -/
def progUnitTimeout (k u : Nat) : Prog :=
  on (fun s => s.unitSt k u = 2)
    (ask fun s =>
      match (s.unit k u).deadline with
      | none => .done
      | some d =>
        let b := s.boundary (divUp d 256 + 192)
        seqs [gateSettle k b, stampsUpTo k b (s.cst k).stamps.length,
          on (fun s => s.unitSt k u = 2 && (s.unit k u).deadline = some d) (seqs [advance b, unitTimeout k u])])

/-- The hold limit of a HELD unit passes (Table 6.2), after the stamps that fall due before. -/
def progUnitHoldLimit (k u : Nat) : Prog :=
  on (fun s => s.unitSt k u = 3)
    (ask fun s =>
      let d := (s.unit k u).limit
      let b := s.boundary (divUp d 256 + 192)
      seqs [gateSettle k b, stampsUpTo k b (s.cst k).stamps.length,
        on (fun s => s.unitSt k u = 3 && (s.unit k u).limit = d) (seqs [advance b, unitDropHeld k u])])

/-- Every unit of core `k` returns to IDLE without a record (R219). -/
def resetUnits (k : Nat) : Prog :=
  seqs [each units fun u => seqs [setF (F.EVM_STATE_ST k u) 0, modUnit k u fun _ => {}],
    modCore k fun c => { c with stamps := [] }]

/-- The units of the old core of a remapped channel close (R219). -/
def commitUnits (k : Nat) : Prog := each units fun u => disarmUnit k u 128

/-! ## Markers (R208, R241, R242) -/

/-- The markers of core `k` change to `marks` at instant `t` (sub-cycles): edges reach the units, a rising edge the capture
of a leader and the origins of masks. DESIGN CHOICE (see notes/assumptions/117.md): markers' stamps come after the lanes' and the gate's
of equal value, as numbers 33 to 36. -/
def setMarks (k marks t : Nat) : Prog :=
  ask fun s =>
    let old := (s.cst k).play.marks
    seqs [
      modPlay k fun p => { p with marks := marks },
      each (List.range 4) fun m =>
        if old.testBit m = marks.testBit m then .done
        else seqs [
          modCore k fun c => { c with stamps := c.stamps ++ [s.stampOf t (17 + m) (old.testBit m) (33 + m) s.holdover] },
          when (marks.testBit m) (seqs [
            when (s.leads k) (offerTrigger k (17 + m) (33 + m) t), masksOrigin k (2 + m) (t / 256)])]]

end Sys2Proof.Machine
end

