-- ==== Sys2Proof/Machine/Conversion.lean ====
section
/-!
DEFINITION. Time-domain conversion (spec/05_conversion.md, R165 to R185, R198) and the corrections of the idle path
(spec/16_calibration_health.md, R517 to R519).
-/
namespace Sys2Proof.Machine

/-! ## Window start and end (R167, R171 to R174, R184) -/

/-- The first instant of the grid `m × interval + ofs` at or after `t`. -/
def gridAt (interval ofs t : Nat) : Nat := if t ≤ ofs then ofs - (ofs - t) / max 1 interval * interval
  else ofs + divUp (t - ofs) (max 1 interval) * interval

/-- The fields of `CAL.CH[n].MISC` that apply at a window: the packet widths; the others apply at a boundary (Table 16.3). -/
def miscWidths : Word := fieldMask 16 16

/-- Part of `CAL.CH[n].MISC` takes effect: the bits in `m`. -/
def useMisc (n : Nat) (w m : Word) : Prog :=
  ask fun s => setEff (R.CAL_CH_MISC n) ((s.effReg (R.CAL_CH_MISC n) &&& ~~~m) ||| (w &&& m))

/-- The pending trims that apply at a `t0` take effect (R514); the loop trims do not, nor does a set that arrived in the
cycle of the t0. -/
def applyAtWindow (n t0 : Nat) : Prog :=
  ask fun s =>
    match (s.fe n).trims with
    | none => .done
    | some t => when (t.at_ < t0) (seqs [
        when t.conv (seqs [setEff (R.CAL_CH_CMPA n) t.cmpa, setEff (R.CAL_CH_CMPB n) t.cmpb, setEff (R.CAL_CH_RAMP n) t.ramp]),
        when t.width (useMisc n t.misc miscWidths),
        modFe n fun f => { f with trims := if t.loop then some { t with conv := false, width := false } else none },
        when (!t.loop) (clrB (F.CAL_CH_TST_PEND n))])

/-- The paths of front end `n` are swapped (R184): the corrections of the path that becomes active freeze, those of the
other go on (R518). -/
def swapPaths (n : Nat) : Prog :=
  ask fun s => seqs [
    setF (F.PATH_STAT_NOW n) (s.fld (F.PATH_CTL_ACTIVE n)),
    modFe n fun f => { f with corrActive := s.reg (R.CAL_CH_CORR n) },
    setR (R.CAL_CH_CORR n) (s.fe n).corrActive]

/-- A swap is judged at t0 (R185). -/
def judgeSwap (n : Nat) : Prog :=
  on (fun s => s.flg (F.PATH_STAT_PENDING n))
    (ask fun s => seqs [
      clrB (F.PATH_STAT_PENDING n),
      if s.flg (F.PATH_CTL_CMP n) then
        seqs [setB (F.PATH_STAT_REFUSED n), setF (F.PATH_CTL_ACTIVE n) (s.fld (F.PATH_STAT_NOW n))]
      else when (s.fld (F.PATH_CTL_ACTIVE n) ≠ s.fld (F.PATH_STAT_NOW n)) (swapPaths n)])

/-- The temperature table of front end `n` (Table 5.29). -/
def State.temperatureTable (s : State) (n : Nat) : List Nat := (List.range 33).map fun i => s.fld (F.TH_TAB_T n i)

/-- A window of channel `n` starts at `t0`. -/
def startWindow (n t0 : Nat) : Prog :=
  ask fun s =>
    let k := s.core n
    let pathBefore := s.fld (F.PATH_STAT_NOW n)
    let trim := match (s.fe n).trims with | some t => t.conv && t.at_ < t0 | none => false
    let subst := (s.cst k).play.substIv
    seqs [
      judgeSwap n, applyAtWindow n t0,
      settleQp n t0,
      on (fun s => (s.fe n).qpFrom.isNone) (match (s.fe n).qpNext with | some q => useQp n t0 q | none => .done),
      ask fun s => seqs [
        modFe n fun f => { f with
          rampA := s.rampCode n 0, rampB := s.rampCode n 1, offsA := s.offsetCodes n 0, offsB := s.offsetCodes n 1 },
        setEff (R.CONV_CFG k) (s.reg (R.CONV_CFG k)), setEff (R.PKT_STREAM k) (s.reg (R.PKT_STREAM k))],
      ask fun s' =>
        let path := s'.fld (F.PATH_STAT_NOW n)
        let flags := (if path = 1 then 256 else 0) ||| (if path ≠ pathBefore then 64 else 0) ||| (if trim then 4096 else 0)
          ||| (if (s.cst k).win.gap then 32 else 0) ||| (if subst then 2048 else 0)
          ||| (if s.holdover then 16 else 0)
        modFe n fun f => { f with window := some {
          b := t0, w := (s.cst k).win.w, ival := s.interval k, shunt := s.fld (F.SCALE_SHUNT_NOHM n)
          vref := s.fld (F.VREF_NV_NV n), path := path, flags := flags, cmp := s.flg (F.PATH_CTL_CMP n), calm := s.calm n
          s := t0 + (s.cst k).win.w / 4, cfg := s.reg (R.CONV_CFG k), tab := s.temperatureTable n } },
      modWin k fun w => { w with gap := false, fresh := false }]

/-- STANDBY is entered or in effect: no window starts (R498). -/
def State.standing (s : State) : Bool := s.fld F.PWR_STATE_ST = 1 || s.fld F.PWR_STATE_ST = 2

/-- The first instant of the grid of core `k` that is not past and has not been judged (R171). -/
def State.gridNext (s : State) (k : Nat) : Nat :=
  let w := (s.cst k).win
  gridAt (s.interval k) w.ofs (match w.judged with | some t => max s.now (t + 1) | none => s.now)

/-- The next grid instant of channel `n` (R171, R172): a window starts there, or the instant passes without one, which does not
count before the first window of a new grid (R173). -/
def progWindowStart (n : Nat) : Prog :=
  on (fun s => s.windowsRun (s.core n) && (s.fe n).window.isNone)
    (ask fun s =>
      let k := s.core n
      let t0 := s.gridNext k
      seqs [advance t0, gateSettle k t0, modWin k fun w => { w with judged := some t0 },
        ask fun s =>
          if s.standing || (s.fld (F.CONV_CTL_RUN k) = 2 && !s.gateAt k t0) then
            modWin k fun w => { w with gap := w.gap || !w.fresh }
          else startWindow n t0])

/-- A change of W or `CONV.OFS` takes effect: at t4 or where the window is discarded, or at once where no window is in progress
(R173). -/
def useGrid (k : Nat) : Prog :=
  ask fun s =>
    let w' := s.fld (F.CONV_WIN_W k)
    let ofs' := s.fld (F.CONV_OFS_CYC k)
    when (w' ≠ (s.cst k).win.w || ofs' ≠ (s.cst k).win.ofs)
      (modWin k fun w => { w with w := w', ofs := ofs', fresh := true, judged := none })

/-- W or `CONV.OFS` of core `k` has been written. -/
def gridWritten (k : Nat) : Prog :=
  ask fun s =>
    match s.channelOf k with
    | some n => when ((s.fe n).window.isNone) (useGrid k)
    | none => useGrid k

/-- t4 of the window in progress in front end `n`. -/
def progWindowEnd (n : Nat) : Prog :=
  ask fun s =>
    match (s.fe n).window with
    | none => .done
    | some x => seqs [advance (x.b + x.w), modFe n fun f => { f with window := none, ready := f.ready ++ [x] },
        useGrid (s.core n)]

/-- Line Time ceases to be VALID: the first window after it is re-established carries `GAP` (R174). -/
def missWindows : Prog := each channels fun n => ask fun s => modWin (s.core n) fun w => { w with gap := true, judged := none }

/-- Windows in progress at a loss of lock are discarded (R174); one whose t4 has come is not. -/
def discardWindows : Prog :=
  seqs [
    ask fun s => each channels fun n => seqs [
      modFe n fun f => { f with
        window := none, ready := f.ready ++ (f.window.toList.filter fun x => x.b + x.w ≤ s.now) },
      useGrid (s.core n)],
    missWindows]

/-! ## Arithmetic (R175, R176, R178) -/

/-- `num` and `den` of a lane, with a reference fault where a crossing is missing or `den` is below Q × 64 (R176). -/
def laneDen (l : Lane) (q : Nat) : Option Int :=
  match l.zero, l.ref with
  | some z, some r => if (r : Int) - z < (q * 64 : Nat) then none else some ((r : Int) - z)
  | _, _ => none

/-- `num` of a lane whose input crossing has a stamp. -/
def laneNum (l : Lane) : Int :=
  match l.zero, l.input with
  | some z, .at_ t => (t : Int) - z
  | _, _ => 0

/-- A division that rounds half away from zero, for a divisor of either sign. -/
def divRound (a b : Int) : Int := if b < 0 then divNear (-a) (-b).toNat else if b = 0 then 0 else divNear a b.toNat

/-- A voltage or current result in 32 bits, with its `OVR` flag (R176). -/
def rangeResult (input : Crossing) (z : Int) : Int × Bool :=
  match input with
  | .early => (-(2 ^ 31), true)
  | .late => (2 ^ 31 - 1, true)
  | .at_ _ => if 2 ^ 31 - 1 < z then (2 ^ 31 - 1, true) else if z < -(2 ^ 31) then (-(2 ^ 31), true) else (z, false)

/-- V and I of a window with quarter `q`, and the flags `V_OVR`, `I_OVR`, `REFF`. -/
def arithmetic (v i : Lane) (q vref shunt : Nat) : Int × Int × Nat :=
  let dv := laneDen v q
  let di := laneDen i q
  let zv := divRound (laneNum v * vref) (dv.getD 1)
  let zi := divRound (divRound (laneNum i * vref) (8 * di.getD 1) * 10000000) shunt
  let rv := rangeResult v.input zv
  let ri := rangeResult i.input zi
  let early (l : Lane) (r : Int × Bool) (fault : Bool) : Bool := if fault then l.input = .early || l.input = .late else r.2
  let fault := dv.isNone || di.isNone
  let flags := (if early v rv dv.isNone then 1 else 0) ||| (if early i ri di.isNone then 2 else 0) ||| (if fault then 8 else 0)
  if fault then (-(2 ^ 31), -(2 ^ 31), flags) else (rv.1, ri.1, flags)

/-- x of the temperature lane: none where the lane is out of range under R176. -/
def laneRatio (l : Lane) (q : Nat) : Option Int :=
  match laneDen l q, l.input with
  | some d, .at_ _ => some (laneNum l * 2097152 / d)
  | _, _ => none

/-- T of a group whose mean ratio is `x`, from a temperature table (R178, R179): none where an entry used holds no value. -/
def temperature (tab : List Nat) (x : Nat) : Option Nat :=
  let a := tab.getD (x / 65536) 0x8000
  let b := tab.getD (x / 65536 + 1) 0x8000
  if a = 0x8000 || b = 0x8000 then none
  else some (unsigned 16 (divNear (signed 16 a * 65536 + (signed 16 b - signed 16 a) * (x % 65536 : Nat)) 65536))

/-- The temperature lane of window `y`: what T reads, and the flags `T_OVR` and `TVALID` (R178, R179). -/
def temperatureStep (k : Nat) (y : Window) (l : Lane) (go : Nat → Nat → Prog) : Prog :=
  ask fun s =>
    let q := y.w / 4
    let d := fieldGet y.cfg 16 8
    let w := (s.cst k).win
    if d = 0 then seqs [modWin k fun w => { w with thN := 0, thSum := 0, thBad := false }, go 0x8000 0]
    else
      let x := laneRatio l q
      let bad := w.thBad || (match x with | some z => z < 0 || 2097151 < z | none => true)
      let sum := w.thSum + x.getD 0
      if w.thN + 1 < d then
        seqs [modWin k fun w => { w with thN := w.thN + 1, thSum := sum, thBad := bad },
          go (s.fld (F.CONV_T_T k)) (if x.isNone then 4 else 0)]
      else
        let t := if bad then none else temperature y.tab (sum / (w.thN + 1 : Nat)).toNat
        seqs [modWin k fun w => { w with thN := 0, thSum := 0, thBad := false },
          go (t.getD 0x8000) (8192 ||| (if t.isNone then 4 else 0))]

/-! ## The idle path (R517 to R519) -/

/-- One step of a correction of the idle path (Table 16.4): it moves by `move` and stays within ±31. -/
def moveCorr (n : Nat) (f : Field) (move : Int) : Prog :=
  ask fun s =>
    let c := clampInt (-31) 31 (s.sfld f + move)
    seqs [setZ f c, when (move ≠ 0 && c.natAbs = 31) (seqs [setB (F.CAL_CH_TST_SERVO_LIM n), setLevel 232 true])]

/-- The step of a comparator correction for a zero crossing of a lane. -/
def comparatorMove (zero : Option Nat) (q : Nat) : Int :=
  match zero with
  | none => 0
  | some z =>
    let up : Int := if Config.comparatorLater then 1 else -1
    if 70 * 256 * q < 1000 * z then -up else if 1000 * z < 35 * 256 * q then up else 0

/-- The step of the ramp correction: a greater code makes the ramp steeper (Table 16.3). -/
def rampMove (l : Lane) (q : Nat) : Int :=
  match l.zero, l.ref with
  | some z, some r =>
    if (95 * 256 * q : Nat) < (136 : Int) * ((r : Int) - z) then 1
    else if (136 : Int) * ((r : Int) - z) < (85 * 256 * q : Nat) then -1 else 0
  | _, _ => 0

/-- MP1 corrects the idle path of front end `n` after a window (R517); frozen, it does not (R427). -/
def idleServo (n q : Nat) (v i t : Lane) : Prog :=
  on State.mp1 <| seqs [moveCorr n (F.CAL_CH_CORR_V n) (comparatorMove v.zero q), moveCorr n (F.CAL_CH_CORR_I n) (comparatorMove i.zero q),
    moveCorr n (F.CAL_CH_CORR_T n) (comparatorMove t.zero q), moveCorr n (F.CAL_CH_CORR_RAMP n) (rampMove v q)]

/-- MP1 swaps the paths of front end `n` itself, where R519 lets it. -/
def autoSwap (n : Nat) : Prog :=
  on (fun s => s.mp1 && s.flg F.CAL_CTL_AUTOSWAP && !s.flg (F.CAL_CH_TST_SERVO_LIM n) && !s.flg (F.PATH_CTL_CMP n)
      && (match (s.fe n).lastSwap with | some t => t + 3600 * 3000000000 ≤ s.now | none => true))
    (ask fun s => seqs [
      setF (F.PATH_CTL_ACTIVE n) (1 - s.fld (F.PATH_STAT_NOW n)), setB (F.PATH_STAT_PENDING n),
      modFe n fun f => { f with lastSwap := some s.now, reffRun := 0 },
      setB (F.CAL_CH_TST_SWAPPED n), setLevel 230 true])

/-! ## Delivery (R177, R181, R198) -/

/-- The result record (Table 5.4). -/
def recordBytes (n : Nat) (r : ResultSet) : List Byte :=
  natLE 8 r.s ++ natLE 2 r.flags ++ natLE 2 r.seq ++ natLE 4 (unsigned 32 r.v) ++ natLE 4 (unsigned 32 r.i)
    ++ natLE 8 (unsigned 64 r.q) ++ natLE 2 r.t ++ natLE 1 n ++ natLE 1 0

/-- Status bits, counters, sources and the class of a result's flags (R176, R198). -/
def resultStatus (n k flags : Nat) : Prog :=
  ask fun s =>
    let first := (flags.testBit 0 && !s.flg (F.CONV_STAT_V_OVR k)) || (flags.testBit 1 && !s.flg (F.CONV_STAT_I_OVR k))
    seqs [
      when (flags.testBit 0) (setB (F.CONV_STAT_V_OVR k)), when (flags.testBit 1) (setB (F.CONV_STAT_I_OVR k)),
      when (flags.testBit 2) (setB (F.CONV_STAT_T_OVR k)),
      when (flags.testBit 3) (seqs [setB (F.CONV_STAT_REFF k), count (F.CONV_CNT_REFF k), faultSource n]),
      when (flags.testBit 5) (setB (F.CONV_STAT_GAP k)),
      when (flags &&& 7 ≠ 0) (count (F.CONV_CNT_OVR k)),
      when first (seqs [eventSource n, offer n 9])]

/-- A result set is delivered to the registers, to capture and masks, and every `d` windows to the result ring (R177, R181). -/
def deliver (n k d : Nat) (r : ResultSet) : Prog :=
  seqs [
    setR (R.CONV_V k) (BitVec.ofNat 32 (unsigned 32 r.v)), setR (R.CONV_I k) (BitVec.ofNat 32 (unsigned 32 r.i)),
    setF (F.CONV_T_T k) r.t, setF (F.CONV_FLAGS_SEQ k) r.seq, setF (F.CONV_FLAGS_FLAGS k) r.flags,
    set64 (R.CONV_S_LO k) (R.CONV_S_HI k) r.s, set64 (R.CONV_Q_LO k) (R.CONV_Q_HI k) (unsigned 64 r.q),
    resultStatus n k r.flags, captureResult k r,
    evaluateMasks n k r,
    ask fun s =>
      if d = 0 then .done
      else if d ≤ (s.cst k).win.recN + 1 then
        seqs [modWin k fun w => { w with recN := 0 }, ringOffer (s.chRing n 4) 1 (recordBytes n r) .done]
      else modWin k fun w => { w with recN := w.recN + 1 }]

/-- What the idle path of a window yields: its results where `CMP` is set (R185), else corrections (R517), which are frozen where
the path has become active since or `CMP` has been set (R518). -/
def idlePath (n : Nat) (x : Window) (v i t : Lane) : Prog :=
  if x.cmp then
    let a := arithmetic v i (x.w / 4) x.vref x.shunt
    seqs [setR (R.PATH_SHV n) (BitVec.ofNat 32 (unsigned 32 a.1)), setR (R.PATH_SHI n) (BitVec.ofNat 32 (unsigned 32 a.2.1))]
  else on (fun s => s.fld (F.PATH_STAT_NOW n) = x.path && !s.flg (F.PATH_CTL_CMP n)) (idleServo n (x.w / 4) v i t)

/-- t5 of the oldest window past t4 of channel `n` (R177): `v`, `i` and `t` are the crossings of the active path's lanes,
`v'`, `i'` and `t'` those of the idle path. DEDUCED (see notes/assumptions/120.md): the sequence number counts the windows
whose results are delivered. -/
def progResultDelivery (n : Nat) (v i t v' i' t' : Lane) : Prog :=
  ask fun s =>
    match (s.fe n).ready with
    | [] => .done
    | x :: xs =>
      let k := s.core n
      let a := arithmetic v i (x.w / 4) x.vref x.shunt
      let away := x.flags.testBit 4
      seqs [
        advance (x.b + x.w + 256), modFe n fun f => { f with ready := xs }, chargeRead n,
        temperatureStep k x t fun temp tflags =>
          ask fun s =>
            let flags := a.2.2 ||| tflags ||| x.flags ||| (if (s.fe n).holdCharge then 16 else 0) ||| (if x.calm then 512 else 0)
              ||| (if s.flg (F.FPKT_STAT_SAT n) || (s.byte (chBlock n + 12)).toNat.testBit 0 then 1024 else 0)
            seqs [
              modFe n fun f => { f with
                holdCharge := f.holdCharge && away
                reffRun := if a.2.2.testBit 3 then f.reffRun + 1 else 0 },
              modWin k fun w => { w with seq := (w.seq + 1) % 65536 },
              deliver n k (fieldGet x.cfg 24 8) {
                v := a.1, i := a.2.1, t := temp, q := x.q.getD (s.charge n (x.s * 256)), s := x.s, flags := flags
                seq := (s.cst k).win.seq, ival := x.ival, due := x.b + x.w + 768 },
              on (fun s => 3 ≤ (s.fe n).reffRun) (autoSwap n)],
        idlePath n x v' i' t']

/-- A write of `FE[n].PATH.CTL` (R184, R185). -/
def effPathActive (n : Nat) (w : Word) : Prog :=
  ask fun s => seqs [
    setR (R.PATH_CTL n) w,
    setF (F.PATH_STAT_PENDING n) (if fieldGet w 0 1 = s.fld (F.PATH_STAT_NOW n) then 0 else 1)]

/-- The channel enters or leaves Calm at cycle `t`: a window whose S has not come takes note (flag `CALM`). -/
def windowCalm (n t : Nat) (calm : Bool) : Prog :=
  modFe n fun f => { f with window := f.window.map fun x => if t ≤ x.s then { x with calm := calm } else x }

/-- A substituted interval begins: the window in progress overlaps it (R251). -/
def windowSubst (n : Nat) : Prog :=
  modFe n fun f => { f with window := f.window.map fun x => { x with flags := x.flags ||| 2048 } }

end Sys2Proof.Machine
end

