-- ==== Sys2Proof/Machine/Sinc.lean ====
section
/-!
DEFINITION. The SINC32 coefficients that R239 fixes: C[p][t] for the phases p from 0 to 32, t from −15 to 16. The phases
above 32 mirror those below: C[p][t] = C[64 − p][1 − t].
-/
namespace Sys2Proof.Machine

/-- C[0][−15] to C[0][16] (R239). -/
def sincRow0 : List Int :=
  [0, 0, 0, 0, 0, 0, 0, 0, 0, 0, 0, 0, 0, 0, 0, 131072,
   0, 0, 0, 0, 0, 0, 0, 0, 0, 0, 0, 0, 0, 0, 0, 0]

/-- C[1][−15] to C[1][16] (R239). -/
def sincRow1 : List Int :=
  [0, 2, -5, 11, -21, 35, -56, 86, -129, 188, -272, 394, -587, 952, -1983, 131018,
   2048, -969, 595, -398, 275, -190, 131, -88, 57, -36, 21, -11, 6, -2, 0, 0]

/-- C[2][−15] to C[2][16] (R239). -/
def sincRow2 : List Int :=
  [-1, 4, -11, 22, -41, 69, -111, 172, -256, 374, -539, 782, -1165, 1886, -3899, 130857,
   4159, -1953, 1197, -800, 552, -383, 262, -176, 115, -71, 42, -23, 11, -4, 1, 0]

/-- C[3][−15] to C[3][16] (R239). -/
def sincRow3 : List Int :=
  [-1, 6, -16, 33, -60, 103, -166, 255, -381, 556, -803, 1163, -1733, 2798, -5747, 130594,
   6331, -2950, 1804, -1205, 831, -576, 395, -265, 173, -108, 64, -35, 17, -7, 2, 0]

/-- C[4][−15] to C[4][16] (R239). -/
def sincRow4 : List Int :=
  [-2, 8, -21, 43, -80, 136, -219, 337, -504, 735, -1062, 1537, -2289, 3689, -7525, 130226,
   8562, -3958, 2415, -1612, 1111, -770, 528, -355, 231, -144, 86, -47, 23, -9, 2, 0]

/-- C[5][−15] to C[5][16] (R239). -/
def sincRow5 : List Int :=
  [-2, 10, -26, 53, -98, 168, -270, 417, -623, 911, -1315, 1903, -2832, 4555, -9232, 129749,
   10850, -4975, 3028, -2020, 1392, -965, 662, -445, 290, -181, 107, -59, 29, -12, 3, 0]

/-- C[6][−15] to C[6][16] (R239). -/
def sincRow6 : List Int :=
  [-2, 11, -30, 63, -117, 199, -321, 495, -740, 1082, -1562, 2260, -3360, 5396, -10865, 129167,
   13191, -5998, 3643, -2427, 1672, -1159, 796, -535, 349, -218, 129, -71, 35, -14, 3, 0]

/-- C[7][−15] to C[7][16] (R239). -/
def sincRow7 : List Int :=
  [-3, 13, -34, 72, -134, 229, -369, 571, -854, 1248, -1802, 2608, -3874, 6209, -12425, 128483,
   15585, -7025, 4256, -2834, 1952, -1353, 929, -625, 408, -255, 152, -84, 41, -17, 4, 0]

/-- C[8][−15] to C[8][16] (R239). -/
def sincRow8 : List Int :=
  [-3, 14, -39, 81, -151, 258, -417, 644, -964, 1409, -2035, 2945, -4372, 6994, -13911, 127700,
   18027, -8054, 4868, -3239, 2230, -1546, 1062, -714, 466, -292, 174, -96, 47, -19, 5, 0]

/-- C[9][−15] to C[9][16] (R239). -/
def sincRow9 : List Int :=
  [-3, 16, -43, 90, -167, 286, -462, 715, -1070, 1566, -2261, 3271, -4853, 7749, -15320, 126805,
   20516, -9082, 5477, -3640, 2506, -1737, 1194, -803, 525, -329, 196, -108, 54, -22, 6, 0]

/-- C[10][−15] to C[10][16] (R239). -/
def sincRow10 : List Int :=
  [-3, 17, -46, 98, -183, 313, -506, 783, -1173, 1716, -2479, 3585, -5316, 8472, -16654, 125824,
   23048, -10107, 6080, -4038, 2779, -1927, 1324, -891, 582, -366, 218, -120, 60, -24, 6, 0]

/-- C[11][−15] to C[11][16] (R239). -/
def sincRow11 : List Int :=
  [-3, 18, -50, 106, -197, 339, -548, 849, -1271, 1861, -2688, 3887, -5759, 9163, -17910, 124735,
   25621, -11127, 6677, -4430, 3048, -2113, 1452, -978, 640, -402, 239, -133, 66, -27, 7, 0]

/-- C[12][−15] to C[12][16] (R239). -/
def sincRow12 : List Int :=
  [-4, 19, -53, 113, -211, 363, -588, 911, -1366, 1999, -2888, 4176, -6183, 9821, -19089, 123554,
   28232, -12139, 7266, -4816, 3313, -2297, 1579, -1064, 696, -438, 261, -145, 72, -30, 8, 0]

/-- C[13][−15] to C[13][16] (R239). -/
def sincRow13 : List Int :=
  [-4, 20, -56, 120, -225, 386, -626, 970, -1455, 2131, -3079, 4451, -6587, 10444, -20190, 122279,
   30877, -13141, 7845, -5196, 3572, -2477, 1703, -1148, 751, -473, 282, -157, 78, -32, 9, 0]

/-- C[14][−15] to C[14][16] (R239). -/
def sincRow14 : List Int :=
  [-4, 21, -59, 127, -237, 408, -662, 1027, -1540, 2256, -3260, 4713, -6970, 11032, -21213, 120905,
   33553, -14130, 8414, -5567, 3826, -2653, 1825, -1231, 806, -507, 303, -169, 84, -35, 9, 0]

/-- C[15][−15] to C[15][16] (R239). -/
def sincRow15 : List Int :=
  [-4, 22, -62, 133, -249, 428, -695, 1080, -1621, 2375, -3432, 4960, -7330, 11584, -22158, 119442,
   36258, -15104, 8969, -5929, 4074, -2825, 1943, -1311, 859, -541, 324, -180, 90, -38, 10, 0]

/-- C[16][−15] to C[16][16] (R239). -/
def sincRow16 : List Int :=
  [-4, 23, -64, 138, -259, 447, -727, 1129, -1696, 2486, -3593, 5192, -7669, 12099, -23025, 117888,
   38987, -16059, 9511, -6280, 4314, -2991, 2058, -1389, 911, -574, 344, -192, 96, -40, 11, 0]

/-- C[17][−15] to C[17][16] (R239). -/
def sincRow17 : List Int :=
  [-4, 24, -66, 143, -269, 465, -756, 1176, -1766, 2590, -3743, 5409, -7984, 12576, -23814, 116246,
   41738, -16994, 10037, -6621, 4547, -3153, 2170, -1465, 961, -606, 363, -203, 102, -43, 12, 0]

/-- C[18][−15] to C[18][16] (R239). -/
def sincRow18 : List Int :=
  [-4, 24, -68, 148, -278, 481, -783, 1219, -1832, 2686, -3883, 5610, -8276, 13016, -24526, 114525,
   44506, -17906, 10546, -6950, 4771, -3308, 2277, -1538, 1009, -637, 382, -214, 108, -45, 13, -1]

/-- C[19][−15] to C[19][16] (R239). -/
def sincRow19 : List Int :=
  [-4, 25, -70, 152, -287, 496, -808, 1258, -1891, 2774, -4012, 5795, -8545, 13417, -25161, 112721,
   47289, -18792, 11036, -7265, 4986, -3457, 2380, -1608, 1056, -667, 400, -224, 113, -48, 14, -1]

/-- C[20][−15] to C[20][16] (R239). -/
def sincRow20 : List Int :=
  [-4, 25, -72, 156, -294, 510, -831, 1293, -1946, 2855, -4129, 5964, -8789, 13779, -25719, 110835,
   50083, -19650, 11506, -7567, 5191, -3599, 2479, -1675, 1101, -696, 418, -234, 119, -50, 14, -1]

/-- C[21][−15] to C[21][16] (R239). -/
def sincRow21 : List Int :=
  [-4, 25, -73, 159, -301, 521, -851, 1325, -1995, 2928, -4235, 6117, -9009, 14103, -26202, 108875,
   52884, -20477, 11955, -7854, 5386, -3734, 2572, -1739, 1143, -723, 435, -244, 124, -53, 15, -1]

/-- C[22][−15] to C[22][16] (R239). -/
def sincRow22 : List Int :=
  [-4, 25, -74, 161, -306, 532, -868, 1354, -2039, 2993, -4330, 6253, -9204, 14387, -26611, 106842,
   55688, -21271, 12381, -8125, 5570, -3862, 2660, -1800, 1183, -749, 451, -254, 129, -55, 16, -1]

/-- C[23][−15] to C[23][16] (R239). -/
def sincRow23 : List Int :=
  [-4, 25, -75, 164, -311, 541, -884, 1379, -2077, 3050, -4413, 6372, -9375, 14632, -26945, 104733,
   58493, -22029, 12783, -8379, 5742, -3981, 2743, -1856, 1221, -774, 466, -262, 134, -57, 17, -1]

/-- C[24][−15] to C[24][16] (R239). -/
def sincRow24 : List Int :=
  [-3, 25, -75, 166, -315, 548, -896, 1400, -2109, 3099, -4484, 6474, -9521, 14838, -27206, 102559,
   61293, -22748, 13159, -8617, 5902, -4092, 2820, -1909, 1257, -797, 480, -271, 138, -60, 18, -1]

/-- C[25][−15] to C[25][16] (R239). -/
def sincRow25 : List Int :=
  [-3, 25, -76, 167, -318, 554, -907, 1417, -2137, 3140, -4544, 6560, -9641, 15005, -27396, 100321,
   64086, -23427, 13509, -8836, 6050, -4194, 2891, -1958, 1289, -818, 494, -279, 142, -62, 19, -1]

/-- C[26][−15] to C[26][16] (R239). -/
def sincRow26 : List Int :=
  [-3, 25, -76, 168, -320, 559, -915, 1430, -2158, 3173, -4592, 6629, -9737, 15134, -27516, 98018,
   66868, -24063, 13831, -9036, 6184, -4287, 2956, -2002, 1319, -837, 506, -286, 146, -64, 19, -1]

/-- C[27][−15] to C[27][16] (R239). -/
def sincRow27 : List Int :=
  [-3, 25, -76, 168, -322, 562, -921, 1440, -2174, 3197, -4628, 6680, -9809, 15223, -27566, 95663,
   69635, -24653, 14123, -9216, 6305, -4371, 3014, -2043, 1347, -855, 517, -293, 150, -65, 20, -2]

/-- C[28][−15] to C[28][16] (R239). -/
def sincRow28 : List Int :=
  [-3, 25, -75, 168, -322, 563, -924, 1447, -2185, 3214, -4653, 6715, -9855, 15275, -27549, 93245,
   72383, -25195, 14385, -9376, 6412, -4445, 3066, -2078, 1371, -871, 527, -299, 154, -67, 21, -2]

/-- C[29][−15] to C[29][16] (R239). -/
def sincRow29 : List Int :=
  [-3, 24, -75, 168, -322, 563, -925, 1449, -2190, 3222, -4666, 6734, -9877, 15289, -27467, 90783,
   75109, -25687, 14616, -9515, 6504, -4509, 3110, -2109, 1392, -885, 536, -304, 157, -69, 21, -2]

/-- C[30][−15] to C[30][16] (R239). -/
def sincRow30 : List Int :=
  [-3, 24, -74, 167, -321, 562, -924, 1448, -2189, 3223, -4668, 6735, -9875, 15265, -27320, 88270,
   77808, -26127, 14814, -9632, 6581, -4562, 3148, -2135, 1410, -897, 544, -309, 159, -70, 22, -2]

/-- C[31][−15] to C[31][16] (R239). -/
def sincRow31 : List Int :=
  [-2, 24, -74, 166, -319, 560, -921, 1444, -2184, 3216, -4658, 6721, -9849, 15206, -27110, 85707,
   80478, -26512, 14979, -9727, 6644, -4605, 3178, -2156, 1424, -907, 550, -313, 162, -71, 23, -2]

/-- C[32][−15] to C[32][16] (R239). -/
def sincRow32 : List Int :=
  [-2, 23, -73, 164, -316, 556, -915, 1436, -2173, 3201, -4637, 6690, -9800, 15110, -26840, 83114,
   83110, -26840, 15110, -9800, 6690, -4637, 3201, -2173, 1436, -915, 556, -316, 164, -73, 23, -2]

/-- The rows of the table. -/
def sincRows : List (List Int) :=
  [sincRow0, sincRow1, sincRow2, sincRow3, sincRow4, sincRow5, sincRow6, sincRow7, sincRow8, sincRow9, sincRow10, sincRow11, sincRow12, sincRow13, sincRow14, sincRow15]
  ++ [sincRow16, sincRow17, sincRow18, sincRow19, sincRow20, sincRow21, sincRow22, sincRow23, sincRow24, sincRow25, sincRow26, sincRow27, sincRow28, sincRow29, sincRow30, sincRow31, sincRow32]

/-- C[p][t] with `i` = t + 15 (R239). -/
def sincCoeff (p i : Nat) : Int :=
  if p ≤ 32 then ((sincRows[p]?).getD [])[i]?.getD 0 else ((sincRows[64 - p]?).getD [])[31 - i]?.getD 0

end Sys2Proof.Machine
end

