-- ==== Sys2Proof/Machine/Slots.lean ====
section
/-!
DEFINITION. The slots of segment memory and writes into them (spec/07_playback.md, R227 to R233).
-/
namespace Sys2Proof.Machine

/-- `ST` of a slot: 0 EMPTY, 1 FILLING, 2 READY. -/
def State.slotSt (s : State) (k i : Nat) : Nat := s.fld (F.PLAY_SLOT_ST k i)

/-- A slot changes its state: the slot table, `PLAY.READY` and `PLAY.FILLING` agree. -/
def setSlotSt (k i st : Nat) : Prog :=
  seqs [setF (F.PLAY_SLOT_ST k i) st, setF ⟨R.PLAY_READY k, i, 1⟩ (if st = 2 then 1 else 0),
    setF ⟨R.PLAY_FILLING k, i, 1⟩ (if st = 1 then 1 else 0)]

/-- Slot `i` of core `k` is active (R228). -/
def State.slotActive (s : State) (k i : Nat) : Bool :=
  let p := (s.cst k).play
  (p.playing && p.slot = i) || p.next = some i

/-- The slots of a core. -/
def slots : List Nat := List.range 32

/-- Words of a slot: the first, and how many. -/
def slotWords (base cap : Nat) : Nat × Nat := (8 * base, 8 + 32 * cap)

/-- An event of the channel that core `k` serves. -/
def coreEvent (k : Nat) : Prog := ask fun s => match s.channelOf k with | some n => eventSource n | none => .done

/-- A fault of the channel that core `k` serves. -/
def coreFault (k : Nat) : Prog := ask fun s => match s.channelOf k with | some n => faultSource n | none => .done

/-- A write of `PLAY.SLOT[i]` (R227). -/
def effSlot (k i : Nat) (w : Word) : Prog :=
  ask fun s =>
    let base := fieldGet w 16 13
    let cap := fieldGet w 0 11
    let apart (j : Nat) : Bool :=
      j = i || s.fld (F.PLAY_SLOT_CAP k j) = 0 ||
        (let a := slotWords base cap
         let b := slotWords (s.fld (F.PLAY_SLOT_BASE k j)) (s.fld (F.PLAY_SLOT_CAP k j))
         a.1 + a.2 ≤ b.1 || b.1 + b.2 ≤ a.1)
    if s.slotSt k i = 0 && 8 * base + 8 + 32 * cap ≤ 65536 && (cap = 0 || slots.all apart) then
      seqs [setF (F.PLAY_SLOT_BASE k i) base, setF (F.PLAY_SLOT_CAP k i) cap]
    else setB (F.PLAY_STAT_SLOT_REJ k)

/-- The slots of core `k` that hold one of the `n` bytes from offset `o` of segment memory. -/
def State.slotsAt (s : State) (k o n : Nat) : List Nat :=
  slots.filter fun i =>
    let cap := s.fld (F.PLAY_SLOT_CAP k i)
    let a := slotWords (s.fld (F.PLAY_SLOT_BASE k i)) cap
    cap ≠ 0 && o < 4 * (a.1 + a.2) && 4 * a.1 < o + n

/-- A write to an active or FILLING slot is discarded (R229, R261). -/
def discardWrite (k : Nat) : Prog := seqs [setB (F.PLAY_STAT_ACT_WR k), count (F.PLAY_CNT_B_ACT_WR k), coreEvent k]

/-- A master writes bytes at offset `o` of the segment memory of core `k` (R229); what it replaces is kept for the sequencer cycle
(R230). -/
def segWrite (k o : Nat) (bs : List Byte) : Prog :=
  ask fun s =>
    let l := s.slotsAt k o bs.length
    let b := s.lastBoundary s.now
    if l.any fun i => s.slotActive k i || s.slotSt k i = 1 then discardWrite k
    else
      let ready := l.filter fun i => s.slotSt k i = 2
      seqs [
        modCore k fun c => { c with
          writes := ⟨b, o, s.bytes (segBase k + o) bs.length, ready⟩ :: c.writes.filter fun w => w.at_ = b },
        each ready fun i => setSlotSt k i 0, dpWrite (segBase k + o) bs]

/-- Slot `i` of core `k` becomes active: a write that it took in the same sequencer cycle is discarded after all (R230). -/
def undoWrites (k i : Nat) : Prog :=
  ask fun s =>
    let hit (w : SegWrite) : Bool := w.at_ = s.lastBoundary s.now && (s.slotsAt k w.ofs w.old.length).contains i
    seqs [
      modCore k fun c => { c with writes := c.writes.filter fun w => !hit w },
      each ((s.cst k).writes.filter hit) fun w =>
        seqs [dpWrite (segBase k + w.ofs) w.old, each w.ready fun j => setSlotSt k j 2, discardWrite k]]

end Sys2Proof.Machine
end

