-- ==== Sys2Proof/Machine/Storage.lean ====
section
/-!
DEFINITION. The storage engine (spec/10_rings_storage.md, R354 to R379): HOST requests, tags, tries and timeouts, record
blocks, the journal, the volume, attach, format and detach.
-/
namespace Sys2Proof.Machine

/-! ## State -/

/-- Change the storage engine's own state. -/
def modStor (f : StorSt → StorSt) : Prog := dev fun d => { d with stor := f d.stor }

/-- `STOR.STATE.ST` (Table 10.17). -/
def State.storSt (s : State) : Nat := s.fld F.STOR_STATE_ST

/-- `ST` is READY. -/
def State.storReady (s : State) : Bool := s.storSt = 3

/-- The work of ring `r`, entry or block `x`. -/
def State.workOf (s : State) (r x : Nat) : Option Work := s.dev.stor.work.find? fun w => w.ring = r && w.idx = x

/-- Change one piece of work. -/
def modWork (r x : Nat) (f : Work → Work) : Prog :=
  modStor fun t => { t with work := t.work.map fun w => if w.ring = r ∧ w.idx = x then f w else w }

/-- A piece of work ends: tags that its commands still hold are those of an entry that has completed (R369). -/
def dropWork (r x : Nat) : Prog :=
  modStor fun t => { t with
    work := t.work.filter fun w => !(w.ring = r && w.idx = x)
    tags := t.tags.map fun e => if e.2.ring = r ∧ e.2.idx = x then (e.1, { e.2 with ended := true }) else e }

/-- Change command `c` of a piece of work. -/
def modCmd (r x c : Nat) (f : Cmd → Cmd) : Prog := modWork r x fun w => { w with cmds := w.cmds.modify c f }

/-- A tag is free again. -/
def freeTag (t : Nat) : Prog := modStor fun x => { x with tags := x.tags.del t }

/-- Spilling to the line port starts or ends with `ST` and `SPILL_LINE`; source 171 follows, and the journal records each
change (R377). -/
def journalEntry (typ region count bseq ch cseq ring t : Nat) : List Byte :=
  natLE 1 typ ++ natLE 1 0 ++ natLE 2 region ++ natLE 4 count ++ natLE 8 bseq ++ natLE 8 t ++ natLE 1 ch ++ natLE 1 0
    ++ natLE 2 cseq ++ natLE 2 ring ++ natLE 2 0

/-- An entry is added to the journal (Table 10.13). -/
def journalAdd (typ region count bseq ch cseq ring : Nat) : Prog :=
  ask fun s => modStor fun t => { t with journal := t.journal ++ [journalEntry typ region count bseq ch cseq ring s.now] }

/-- Whether produced NVME-sink rings go to the line port now (R377). -/
def State.spillNow (s : State) : Bool :=
  !s.storReady && s.flg F.STOR_CFG_SPILL_LINE && s.dev.rings.any fun q => q.2.on && !q.2.consumed && q.2.sink = 1

/-- Source 171 and the journal follow the spill to the line port (R377). -/
def spillUpdate : Prog :=
  ask fun s =>
    let now := s.spillNow
    when (now != s.dev.stor.spilling)
      (seqs [modStor fun t => { t with spilling := now }, setLevel 171 now,
        journalAdd (if now then 6 else 7) 0xFFFF 0 0 0 0 0xFFFF])

/-- `ST` takes a value; source 164 is asserted while it is FAILED (Table 10.21). -/
def setStorSt (v : Nat) : Prog := seqs [setF F.STOR_STATE_ST v, setLevel 164 (v = 7), spillUpdate]

/-- The engine enters FAILED for a reason of Table 10.17. -/
def storFail (why : Nat) : Prog := seqs [setF F.STOR_STATE_WHY why, setStorSt 7]

/-! ## CRC-32C (Table 10.11) -/

/-- One byte of CRC-32C, reflected. -/
def crc32cByte (c : Word) (b : Byte) : Word :=
  (List.range 8).foldl (fun c _ => if c.getLsbD 0 then (c >>> 1) ^^^ 0x82F63B78 else c >>> 1) (c ^^^ b.setWidth 32)

/-- CRC-32C over a string of bytes: Castagnoli, reflected, initial and final value all ones. -/
def crc32c (bs : List Byte) : Word := ~~~(bs.foldl crc32cByte 0xFFFFFFFF)

/-! ## Commands and tags (R362 to R364) -/

/-- Blocks `blk` to `blk + n − 1` in commands of at most 32 blocks (R363); `fuel` bounds their number. -/
def splitCmds (op : StorOp) (blk n buf : Nat) : Nat → List Cmd
  | 0 => []
  | fuel + 1 =>
    if n = 0 then []
    else { op, blk, n := min n 32, buf } :: splitCmds op (blk + 32) (n - 32) (buf + 32 * 4096) fuel

/-- The queue pair of a piece of work (R362). -/
def Work.queue (w : Work) : Nat :=
  match w.kind with
  | .refill => 14 + w.ring % 2
  | .own => 0
  | _ => w.ring % 14

/-- Tags of queue pair `q` that are held. -/
def State.tagsHeld (s : State) (q : Nat) : Nat := (s.dev.stor.tags.filter fun t => t.1 / 128 = q).length

/-- General tags held, and refill tags held (`STOR.TAGS`). -/
def State.tagCounts (s : State) : Nat × Nat :=
  ((s.dev.stor.tags.filter fun t => t.1 / 128 < 14).length, (s.dev.stor.tags.filter fun t => 14 ≤ t.1 / 128).length)

/-- Commands of a piece of work that wait for a tag. -/
def Work.waitingCmds (w : Work) : Nat := (w.cmds.filter fun c => c.st = .waiting).length

/-- Commands that wait for a tag of queue pair `q`. -/
def State.queueWaiting (s : State) (q : Nat) : Nat := ((s.dev.stor.work.filter fun w => w.queue = q).map (·.waitingCmds)).sum

/-- The entry is counted once as waiting where its queue has too few free tags for all that wait (R364). -/
def stallCheck (r x : Nat) : Prog :=
  ask fun s =>
    match s.workOf r x with
    | some w =>
      when (!w.stalled && 128 < s.tagsHeld w.queue + s.queueWaiting w.queue)
        (seqs [modWork r x fun w => { w with stalled := true }, when (r < 4096) (ringStall r)])
    | none => .done

/-- The work of a HOST entry. -/
def hostWork (r x : Nat) (cmds : List Cmd) : Work := { kind := .host, ring := r, idx := x, cmds := cmds }

/-- The write of one block that the engine has assembled. -/
def blockWork (kind : WorkKind) (r x n : Nat) (data : List Byte) (blk : Nat) : Work :=
  { kind := kind, ring := r, idx := x, count := n, data := data, cmds := [{ op := .write, blk := blk, n := 1, buf := 0 }] }

/-- Work begins: its commands wait for tags. -/
def startWork (w : Work) : Prog := seqs [modStor fun t => { t with work := t.work ++ [w] }, stallCheck w.ring w.idx]

/-- The rings with a command that waits for queue pair `q`. -/
def State.waitingRings (s : State) (q : Nat) : List Nat :=
  (s.dev.stor.work.filter fun w => w.queue = q && w.waitingCmds ≠ 0).map (·.ring)

/-- The ring that is served next on queue pair `q`: round robin in rising ring number (R363). -/
def State.nextRing (s : State) (q : Nat) : Option Nat :=
  let l := s.waitingRings q
  let last := s.dev.stor.served.get 4096 q
  match (l.filter (last < ·)).min? with
  | some r => some r
  | none => l.min?

/-- A waiting command takes the free tag `t` (R363). -/
def progTagIssue (t : Nat) : Prog :=
  ask fun s =>
    let q := t / 128
    if (s.dev.stor.tags.any fun x => x.1 = t) || s.storSt < 2 || 5 < s.storSt then .done
    else
      match s.nextRing q with
      | none => .done
      | some r =>
        match s.dev.stor.work.find? fun w => w.ring = r && w.queue = q && w.waitingCmds ≠ 0 with
        | none => .done
        | some w =>
          let c := w.cmds.findIdx fun c => c.st = .waiting
          seqs [
            modStor fun x => { x with tags := x.tags.put t { ring := r, idx := w.idx, cmd := c }, served := x.served.put q r },
            modCmd r w.idx c fun c => { c with st := .out, tries := c.tries + 1, fua := c.op = .write && s.dev.stor.fua }]

/-- The blocks a piece of work has transferred, in order from its first (Table 10.6). -/
def Work.blocksDone (w : Work) : Nat := ((w.cmds.takeWhile fun c => c.st = .ok).map (·.n)).sum

/-- Commands still out are aborted: their tags become zombies (R365, R368). -/
def abortWork (r x : Nat) : Prog :=
  modStor fun t => { t with tags := t.tags.map fun e =>
    if e.2.ring = r ∧ e.2.idx = x then (e.1, { e.2 with zombie := true }) else e }

/-- The entries of ring `r` from index `x` on, which REC messages carry, are delivered: every message is acknowledged, four
of them for a 4,096-byte entry; their number (R451). -/
def State.recDone (s : State) (r x : Nat) : Option Nat :=
  let l := s.dev.line.recs.filter fun c => c.ring = r && c.first = x
  if l.length = (if (s.ring r).esz = 4 then 4 else 1) && l.all (fun c => c.st = 1) then l.head?.map (·.count) else none

/-- A record block's entries have been delivered (R350, R372): `CI` moves past it. Blocks are delivered in order. -/
def deliverBlocks (r : Nat) : Nat → Prog
  | 0 => .done
  | n + 1 =>
    ask fun s =>
      let ci := (s.ring r).ci
      match s.workOf r ci, s.recDone r ci with
      | some w, _ =>
        when (w.kind = .block && w.cmds.all (fun c => c.st = .ok))
          (seqs [dropWork r w.idx, modRing r fun q => q.delivered w.count, ringCopies r, drainBuf,
            spillRoom r, deliverBlocks r n])
      | none, some count =>
        seqs [dev fun d => { d with line := { d.line with recs := d.line.recs.filter fun x => !(x.ring = r && x.first = ci) } },
          modRing r fun q => q.delivered count, ringCopies r, drainBuf, spillRoom r,
          deliverBlocks r n]
      | none, none => .done

/-- A HOST, refill, block or own write ends without success: `status` of Table 10.7. A refill ends through `refillFail`,
which the playback chapter gives (R255); a block leaves its entries in the ring (R373). -/
def failWork (w : Work) (status tries : Nat) (refillFail : Work → Prog) : Prog :=
  seqs [abortWork w.ring w.idx, dropWork w.ring w.idx,
    match w.kind with
    | .host => completeEntry w.ring ⟨w.idx, status, tries, w.nvst, w.blocksDone⟩
    | .refill => (refillFail w).seq (completeEntry w.ring ⟨w.idx, status, tries, w.nvst, 0⟩)
    | .block => modRing w.ring fun q => q.giveBack w.idx w.count
    | .own => .done]

/-- A command has succeeded: the work may be done. A refill waits for its validation (R255). -/
def workProgress (r x : Nat) : Prog :=
  ask fun s =>
    match s.workOf r x with
    | none => .done
    | some w =>
      when (w.cmds.all fun c => c.st = .ok)
        (match w.kind with
        | .host => seqs [dropWork r x, completeEntry r ⟨x, 0, (w.cmds.getLast?.map (·.tries)).getD 0, 0, w.blocksDone⟩]
        | .refill => .done
        | .block => deliverBlocks r (s.dev.stor.work.length + s.dev.line.recs.length)
        | .own => dropWork r x)

/-- A try of command `c` has failed (R367): BACKOFF and another try, or the end of the entry with `status`. -/
def tryFailed (w : Work) (c : Nat) (last : Bool) (status nvst : Nat) (refillFail : Work → Prog) : Prog :=
  ask fun s =>
    let tries := ((w.cmds[c]?).map (·.tries)).getD 0
    if last || 3 ≤ tries then failWork { w with nvst } status tries refillFail
    else if s.fld F.STOR_RETRY_BACKOFF = 0 then
      seqs [modCmd w.ring w.idx c fun c => { c with st := .waiting }, modWork w.ring w.idx fun w => { w with nvst },
        count F.STOR_CNT_A_RETRY, raise 165, stallCheck w.ring w.idx]
    else seqs [modCmd w.ring w.idx c fun c => { c with st := .backoff }, modWork w.ring w.idx fun w => { w with nvst }]

/-- The drive posts the completion of tag `t`: status code type and code, and DNR (R365, R367, R369). -/
def nvmeCompletion (t sct sc : Nat) (dnr : Bool) (refillFail : Work → Prog) : Prog :=
  ask fun s =>
    match s.dev.stor.tags.find? fun e => e.1 = t with
    | none => .done
    | some (_, g) =>
      let ok := sct = 0 && sc = 0
      let w := s.workOf g.ring g.idx
      if g.zombie then
        seqs [freeTag t,
          when g.ended (seqs [count (if ok then F.STOR_CNT_B_LATE else F.STOR_CNT_B_LATE_ERR), raise 167])]
      else
        match w with
        | none => freeTag t
        | some w =>
          seqs [freeTag t,
            if ok then seqs [modCmd g.ring g.idx g.cmd fun c => { c with st := .ok }, workProgress g.ring g.idx]
            else tryFailed w g.cmd dnr 3 (sct * 256 + sc) refillFail]

/-- A try passes `CTO` without a completion (R367): Abort is sent and the tag becomes a zombie. -/
def commandTimeout (t : Nat) (refillFail : Work → Prog) : Prog :=
  ask fun s =>
    match s.dev.stor.tags.find? fun e => e.1 = t with
    | none => .done
    | some (_, g) =>
      match s.workOf g.ring g.idx with
      | none => .done
      | some w =>
        when (!g.zombie && s.fld F.STOR_RETRY_CTO ≠ 0)
          (seqs [modStor fun x => { x with tags := x.tags.put t { g with zombie := true } },
            tryFailed w g.cmd false 4 w.nvst refillFail])

/-- A transfer of tag `t` meets a PCIe error (R367): the try fails and source 175 is raised. -/
def pcieError (t : Nat) (refillFail : Work → Prog) : Prog :=
  ask fun s =>
    match s.dev.stor.tags.find? fun e => e.1 = t with
    | none => .done
    | some (_, g) =>
      match s.workOf g.ring g.idx with
      | none => .done
      | some w =>
        when (!g.zombie)
          (seqs [raise 175, modStor fun x => { x with tags := x.tags.put t { g with zombie := true } },
            tryFailed w g.cmd false 3 w.nvst refillFail])

/-- BACKOFF passes after a failed try: the next try waits for a tag (R367). -/
def progBackoffEnd (r x c : Nat) : Prog :=
  ask fun s =>
    match s.workOf r x with
    | none => .done
    | some w =>
      when ((w.cmds[c]?).any fun c => c.st = .backoff)
        (seqs [modCmd r x c fun c => { c with st := .waiting }, count F.STOR_CNT_A_RETRY, raise 165, stallCheck r x])

/-- The upper timer of an entry runs: one of its commands has taken a tag (R368). -/
def Work.timed (w : Work) : Bool := w.cmds.any fun c => 0 < c.tries

/-- A critical warning of the drive's SMART log is reported while the controller is in use (Tables 10.9, 10.18). -/
def smartWarning : Prog := on (fun s => 2 ≤ s.storSt && s.storSt ≤ 5) (seqs [setB F.STOR_STAT_SMART, raise 174])

/-- The drive posts a completion. -/
def drivePosts (c : Posted) (sct sc : Nat) (dnr : Bool) (refillFail : Work → Prog) : Prog :=
  match c with
  | .io t => nvmeCompletion t sct sc dnr refillFail
  | .smart => when (sct = 0 && sc = 0) smartWarning

/-- The upper timer reaches `TMO` (R368), where no command of the entry succeeds in that cycle (R369). -/
def entryTimeout (r : Nat) (e : TimedEntry) (refillFail : Work → Prog) : Prog :=
  ask fun s =>
    match s.workOf r e.idx.toNat with
    | none => .done
    | some w =>
      when (!e.success && w.timed && (s.ring r).tmo ≠ 0 && !w.cmds.all fun c => c.st = .ok)
        (seqs [failWork w 2 ((w.cmds.getLast?.map (·.tries)).getD 0) refillFail, count F.STOR_CNT_A_TMO, raise 166])

/-- A zombie tag has been held for 4 × `CTO`: source 169 is raised once while any is held so long (R365). DEDUCED (see
notes/assumptions/109.md): with `CTO` 0, which is no command timeout (R366), that time never ends. -/
def progZombieTimeout (t : Nat) : Prog :=
  ask fun s =>
    match s.dev.stor.tags.find? fun e => e.1 = t with
    | some (_, g) =>
      when (g.zombie && !g.warned && s.fld F.STOR_RETRY_CTO ≠ 0)
        (seqs [when (!(s.dev.stor.tags.any fun e => e.2.warned)) (raise 169),
          modStor fun x => { x with tags := x.tags.put t { g with warned := true } }])
    | none => .done

/-! ## Record blocks and the journal (R371 to R375) -/

/-- The header of a record or journal block (Table 10.12), with its CRC taken as 0. -/
def blockHeader (ring gen bseq t first cnt esz dev : Nat) : List Byte :=
  natLE 4 0x7C3A91E6 ++ natLE 2 1 ++ natLE 2 ring ++ natLE 8 gen ++ natLE 8 bseq ++ natLE 8 t ++ natLE 4 first
    ++ natLE 2 cnt ++ natLE 1 esz ++ natLE 1 0 ++ natLE 2 dev ++ List.replicate 18 0

/-- A packed block of 4,096 bytes: header, CRC, entries, zeros. -/
def packBlock (hdr entries : List Byte) : List Byte :=
  let body := entries ++ List.replicate (4032 - entries.length) 0
  hdr ++ natLE 4 (crc32c (hdr ++ natLE 4 0 ++ body)).toNat ++ body

/-- The next block sequence number of a region (R372). -/
def State.bseqOf (s : State) (g : Nat) : Nat := s.dev.stor.bseq.get 0 g

/-- The number in `n` bytes of a string from offset `o` on, the least significant first. -/
def numAt (b : List Byte) (o n : Nat) : Nat := leNat ((b.drop o).take n)

/-- A journal entry is the RAW extent of a capture's run in a region, which block `bseq` goes on. -/
def extentEnds (e : List Byte) (g bseq ch cseq : Nat) : Bool :=
  numAt e 0 1 = 1 && numAt e 2 2 = g && numAt e 8 8 + numAt e 4 4 = bseq && numAt e 24 1 = ch && numAt e 26 2 = cseq

/-- The journal takes the RAW extent of one spill block: it extends the entry of its capture's run of consecutive blocks in the region, one
entry for each run, whatever entries have come since (R375). -/
def journalExtent (g bseq ch cseq ring : Nat) : Prog :=
  ask fun s =>
    let mine (e : List Byte) : Bool := extentEnds e g bseq ch cseq
    if s.dev.stor.journal.any mine then
      modStor fun t => { t with
        journal := t.journal.map fun e => if mine e then e.take 4 ++ natLE 4 (numAt e 4 4 + 1) ++ e.drop 8 else e }
    else journalAdd 1 g 1 bseq ch cseq ring

/-- A block of the `n` entries of ring `r` from index `x` on is assembled and its write begins (R373). -/
def writeBlock (r x n : Nat) (v : Volume) (g : Region) : Prog :=
  ask fun s =>
    let q := s.ring r
    let b := s.bseqOf q.region
    let body := (idxRange x n).flatMap fun x => s.bytes (q.entry x) (entrySize q.esz)
    let data := if q.esz = 4 then body
      else packBlock (blockHeader r v.gen b s.now x n q.esz (s.fld F.SYS_DEVID_DEV)) body
    seqs [
      each (idxRange x n) fun x => eccRead (q.entry x) (entrySize q.esz),
      modStor fun t => { t with bseq := t.bseq.put q.region (b + 1) },
      when (b ≠ 0 && b % g.len = 0) (seqs [journalAdd 2 q.region 0 b 0 0 r, raise 172]),
      when (q.esz = 4)
        (match q.tags.find? fun e => e.1 = x with
        | some (_, ch, cs) => journalExtent q.region b ch cs r
        | none => journalExtent q.region b 0 0 r),
      modRing r fun q => q.take x n,
      startWork (blockWork .block r x n data (g.start + b % g.len))]

/-- A record block of ring `r` with up to `n` entries, where at least `least` wait (R373, R377); an entry that a REC has begun to carry goes
out by that route. -/
def recordBlock (r least : Nat) : Prog :=
  ask fun s =>
    let q := s.ring r
    match s.dev.stor.vol with
    | some v =>
      match v.regions[q.region]? with
      | some g =>
        let most := if q.esz = 4 then 1 else entriesPerBlock q.esz
        let (x, n) := q.nextOut most
        when (q.on && !q.stopping && !q.consumed && q.sink = 1 && s.storReady && g.len ≠ 0
            && !(s.dev.line.recs.any fun c => c.ring = r && c.first = x)
            && (if least = 0 || x ≠ q.taken then 0 < n else most ≤ n))
          (writeBlock r x n v g)
      | none => .done
    | none => .done

/-- A full block of a produced NVME-sink ring is written (R373). -/
def progRecordBlockWrite (r : Nat) : Prog := recordBlock r 1

/-- The oldest entry has waited `FLUSH` ms: a partial block is written (R373). -/
def progPartialBlockFlush (r : Nat) : Prog :=
  on (fun s => s.fld F.STOR_CFG_FLUSH ≠ 0 && (s.ring r).esz ≠ 4) (recordBlock r 0)

/-- A journal block with the first of the waiting entries (R374). -/
def State.journalBlock (s : State) (v : Volume) : List Byte :=
  let es := s.dev.stor.journal.take 126
  packBlock (blockHeader 0xFFFF v.gen s.dev.stor.jseq s.now 0 es.length 2 (s.fld F.SYS_DEVID_DEV)) es.flatten

/-- A journal block is written with `write`, and its entries leave the journal. -/
def journalWrite : Prog :=
  ask fun s =>
    match s.dev.stor.vol with
    | some v =>
      when (!s.dev.stor.journal.isEmpty && v.jlen ≠ 0)
        (seqs [
          startWork (blockWork .own 4096 s.dev.stor.jseq 0 (s.journalBlock v) (v.jstart + s.dev.stor.jseq % v.jlen)),
          modStor fun t => { t with journal := t.journal.drop 126, jseq := t.jseq + 1 }])
    | none => .done

/-- The journal's flush time passes (R374). -/
def progJournalFlush : Prog :=
  on (fun s => s.storReady && (s.fld F.STOR_CFG_FLUSH ≠ 0 || 126 ≤ s.dev.stor.journal.length)) journalWrite

/-! ## Attach, format and detach (R361, R370, R376, R378, R379) -/

/-- The engine powers the drive: t0 of R361. -/
def attachStart : Prog := dev fun d => { d with pins := { d.pins with ssdPwren := true, perstN := false } }

/-- `STOR.CTL` ATTACH. -/
def effAttach : Prog :=
  ask fun s =>
    if s.storSt = 0 || s.storSt = 6 || s.storSt = 7 then attachStart else setB F.STOR_STAT_REFUSED

/-- A drive is present (R361). -/
def progDrivePresent : Prog := on (fun s => s.storSt = 0 || s.storSt = 6 || s.storSt = 7) attachStart

/-- 100 ms after power-up, link training starts (R361). -/
def progPerstRelease : Prog :=
  on (fun s => s.dev.pins.ssdPwren && !s.dev.pins.perstN)
    (seqs [dev fun d => { d with pins := { d.pins with perstN := true } }, setF F.STOR_STATE_WHY 0, setStorSt 1])

/-- The link comes up (R361). -/
def progPcieLinkUp (width speed : Nat) : Prog :=
  on (fun s => s.storSt = 1) (seqs [setF F.STOR_STATE_WIDTH width, setF F.STOR_STATE_SPEED speed, setStorSt 2])

/-- The link is not up in time (R361). -/
def progPcieLinkTimeout : Prog := on (fun s => s.storSt = 1) (storFail 1)

/-- The blocks that a namespace of `lbas` blocks of `size` bytes holds (R360). -/
def volumeBlocks (lbas size : Nat) : Nat := if size = 4096 then lbas else lbas / 8

/-- Controller init ends: version times 10, queue pairs granted, MQES, MDTS in KiB (0 for none), LBA size, metadata size,
LBAs, and whether the write cache stays on (R360, R361). -/
def progControllerInitDone (ver pairs mqes mdts size msize lbas : Nat) (cache : Bool) : Prog :=
  on (fun s => s.storSt = 2)
    (if ver < 13 then storFail 2
    else if pairs < 16 || mqes < 255 then storFail 3
    else if mdts ≠ 0 && mdts < 128 then storFail 4
    else if !((size = 512 || size = 4096) && msize = 0) then storFail 5
    else ask fun s =>
      if volumeBlocks lbas size < s.dev.image.volume.vblk then storFail 6
      else modStor fun t => { t with fua := cache })

/-- Two ranges, of start and length, do not overlap. -/
def apart (a b : Nat × Nat) : Bool := a.2 = 0 || b.2 = 0 || a.1 + a.2 ≤ b.1 || b.1 + b.2 ≤ a.1

/-- The ranges of a list are pairwise apart. -/
def allApart : List (Nat × Nat) → Bool
  | [] => true
  | r :: rs => rs.all (apart r) && allApart rs

/-- The volume layout that a superblock or the image's template holds (Table 10.11). -/
def superVolume (b : List Byte) : Volume :=
  let num (o n : Nat) := leNat ((b.drop o).take n)
  { gen := num 8 8, vblk := num 16 8, jstart := num 24 8, jlen := num 32 4, llen := num 36 4, lstart := num 40 8
    regions := (List.range 128).map fun g => ⟨num (1024 + 16 * g) 8, num (1032 + 16 * g) 4, num (1036 + 16 * g) 1⟩ }

/-- The volume of a superblock copy (Table 10.11), if the copy is valid (R370), with its `DEV`. -/
def parseSuper (b : List Byte) : Option (Volume × Nat) :=
  let num (o n : Nat) := leNat ((b.drop o).take n)
  let v := superVolume b
  let ranges := (0, 2) :: (v.jstart, v.jlen) :: (v.lstart, v.llen)
    :: (v.regions.filter fun g => g.mode ≠ 0).map fun g => (g.start, g.len)
  if b.length = 4096 && num 0 4 = 0x7C3A91E5 && num 4 2 = 1 && num 4092 4 = (crc32c (b.take 4092)).toNat
      && ranges.all (fun r => r.1 + r.2 ≤ v.vblk) && allApart ranges then some (v, num 6 2)
  else none

/-- The bytes of a superblock (Table 10.11). -/
def superBytes (v : Volume) (devId clean t : Nat) : List Byte :=
  let body := natLE 4 0x7C3A91E5 ++ natLE 2 1 ++ natLE 2 devId ++ natLE 8 v.gen ++ natLE 8 v.vblk ++ natLE 8 v.jstart
    ++ natLE 4 v.jlen ++ natLE 4 v.llen ++ natLE 8 v.lstart ++ natLE 1 clean ++ List.replicate 7 0 ++ natLE 8 t
    ++ List.replicate 960 0
    ++ ((v.regions ++ List.replicate (128 - v.regions.length) (⟨0, 0, 0⟩ : Region)).take 128).flatMap (fun (g : Region) =>
        natLE 8 g.start ++ natLE 4 g.len ++ natLE 1 g.mode ++ List.replicate 3 0)
    ++ List.replicate 1020 0
  body ++ natLE 4 (crc32c body).toNat

/-- A block of the volume of generation `gen` carries the header of Table 10.12, for ring `ring` where one is named (R374, R376). -/
def ringBlockOk (gen : Nat) (journal : Bool) (b : List Byte) : Bool :=
  b.length = 4096 && numAt b 0 4 = 0x7C3A91E6 && numAt b 4 2 = 1 && (numAt b 6 2 = 0xFFFF) = journal && numAt b 8 8 = gen
    && numAt b 60 4 = (crc32c (b.take 60 ++ natLE 4 0 ++ b.drop 64)).toNat

/-- The block sequence numbers of the blocks in a run of the volume, of its generation and at their places (R372). -/
def runSeqs (gen start len : Nat) (journal : Bool) (l : List ReadBlock) : List Nat :=
  (l.filter fun x => ringBlockOk gen journal x.bytes && x.at_ = start + numAt x.bytes 16 8 % len).map fun x => numAt x.bytes 16 8

/-- The number after the greatest of a list; 0 for an empty one. -/
def headAfter (l : List Nat) : Nat := l.foldl (fun m x => max m (x + 1)) 0

/-- The journal's entries for region `g` in the journal blocks of the volume's generation: the last block of each RAW extent, and the block
before each wrap. -/
def journalSeqs (v : Volume) (g : Nat) (l : List ReadBlock) : List Nat :=
  (l.filter fun x => ringBlockOk v.gen true x.bytes).flatMap fun x =>
    (List.range (min 126 (numAt x.bytes 36 2))).filterMap fun i =>
      let e := (x.bytes.drop (64 + 32 * i)).take 32
      let last := numAt e 8 8 + (if numAt e 0 1 = 1 then numAt e 4 4 else 0)
      if numAt e 2 2 = g && (numAt e 0 1 = 1 || numAt e 0 1 = 2) && last ≠ 0 then some (last - 1) else none

/-- The next block sequence number of region `g`: of a PACKED one from its block headers, of a RAW one from the journal (R374). -/
def regionHead (v : Volume) (g : Nat) (x : Region) (blocks journal : List ReadBlock) : Nat :=
  match x.mode with
  | 1 => headAfter (runSeqs v.gen x.start x.len false blocks)
  | 2 => headAfter (journalSeqs v g journal)
  | _ => 0

/-- The heads of a volume's regions. -/
def regionHeads (v : Volume) (blocks journal : List ReadBlock) : Table Nat :=
  ((List.range v.regions.length).zip v.regions).map fun x => (x.1, regionHead v x.1 x.2 blocks journal)

/-- The superblock copies are judged (R370). `blocks` are the blocks of PACKED regions, and `journal` those of the journal, that the attach
reads on the drive: from them it finds the heads, ignoring blocks of another generation (R374, R376). -/
def progSuperblockReadDone (a b : List Byte) (blocks journal : List ReadBlock) : Prog :=
  on (fun s => s.storSt = 2)
    (ask fun s =>
      let best := match parseSuper a, parseSuper b with
        | some x, some y => some (if x.1.gen < y.1.gen then y else x)
        | some x, none => some x
        | none, y => y
      match best with
      | none => seqs [modStor fun t => { t with gen := 0, vol := none }, setF F.STOR_STATE_WHY 8, setStorSt 4, raise 168, raise 161]
      | some (v, d) =>
        (modStor fun t => { t with gen := v.gen }).seq <|
        if d ≠ s.fld F.SYS_DEVID_DEV && !s.flg F.STOR_CFG_ADOPT then
          seqs [modStor fun t => { t with vol := none }, setF F.STOR_STATE_WHY 7, setStorSt 4, raise 168, raise 161]
        else seqs [
          modStor fun t => { t with
            vol := some v, jseq := headAfter (runSeqs v.gen v.jstart v.jlen true journal), bseq := regionHeads v blocks journal },
          setF F.STOR_STATE_WHY 0, setStorSt 3, journalAdd 3 0xFFFF 0 0 0 0 0xFFFF, raise 161])

/-- Every zombie tag is freed by a controller reset (R365). -/
def freeZombies : Prog := modStor fun t => { t with tags := t.tags.filter fun e => !e.2.zombie }

/-- `STOR.CTL` RESET (R365). -/
def effStorReset : Prog := freeZombies

/-- `STOR.CTL` DETACH (R378). -/
def effDetach : Prog :=
  ask fun s => if s.storSt = 3 || s.storSt = 4 then setStorSt 5 else setB F.STOR_STAT_REFUSED

/-- The journal blocks that hold what waits, one after another (R374); `n` bounds their number. -/
def State.journalBlocks (s : State) (v : Volume) : Nat → List (Nat × List Byte)
  | 0 => []
  | n + 1 =>
    if s.dev.stor.journal.isEmpty then []
    else
      let later := { s with dev := { s.dev with stor := { s.dev.stor with
        journal := s.dev.stor.journal.drop 126, jseq := s.dev.stor.jseq + 1 } } }
      (v.jstart + s.dev.stor.jseq % max 1 v.jlen, s.journalBlock v) :: later.journalBlocks v n

/-- Work in progress has ended: journal, superblocks, shutdown (R378). -/
def progDetachComplete : Prog :=
  on (fun s => s.storSt = 5 && s.dev.stor.work.isEmpty)
    (seqs [
      on (fun s => s.dev.stor.vol.isSome) (journalAdd 4 0xFFFF 0 0 0 0 0xFFFF),
      ask fun s =>
        match s.dev.stor.vol with
        | some v =>
          let sb := superBytes v (s.fld F.SYS_DEVID_DEV) 1 s.now
          let blocks := s.journalBlocks v s.dev.stor.journal.length
          modStor fun t => { t with
            wrote := blocks ++ [(0, sb), (1, sb)], journal := [], jseq := t.jseq + blocks.length, vol := none }
        | none => .done,
      modStor fun t => { t with tags := [] },
      dev fun d => { d with pins := { d.pins with ssdPwren := false } },
      setF F.STOR_STATE_WIDTH 0, setF F.STOR_STATE_SPEED 0, setStorSt 6, raise 162])

/-- `STOR.CTL` FORMAT (R376): both superblocks and one journal block with a format entry are written. Entries that mark a change of route wait
until the volume is READY (R377); others belong to the old one. -/
def effFormat : Prog :=
  ask fun s =>
    if (s.storSt = 3 || s.storSt = 4) && !(s.dev.stor.work.any fun w => w.kind = .block) && !s.dev.stor.formatting then
      let v := { s.dev.image.volume with gen := s.dev.stor.gen + 1 }
      let sb := superBytes v (s.fld F.SYS_DEVID_DEV) 0 s.now
      seqs [
        modStor fun t => { t with vol := some v, gen := v.gen, bseq := [], jseq := 0, formatting := true, journal := [] },
        journalAdd 5 0xFFFF 0 0 0 0 0xFFFF,
        startWork (blockWork .own 4097 0 0 sb 0),
        startWork (blockWork .own 4097 1 0 sb 1),
        journalWrite,
        modStor fun t => { t with journal := s.dev.stor.journal.filter fun e => numAt e 0 1 = 6 || numAt e 0 1 = 7 }]
    else setB F.STOR_STAT_REFUSED

/-- Format completes (R376): its blocks have been written. -/
def progFormatComplete : Prog :=
  on (fun s => s.dev.stor.formatting && !(s.dev.stor.work.any fun w => w.kind = .own))
    (seqs [modStor fun t => { t with formatting := false }, setF F.STOR_STATE_WHY 0, setStorSt 3, raise 170])

/-- Every command of a piece of work has succeeded: no command of it is outstanding. -/
def Work.landed (w : Work) : Bool := w.cmds.all fun c => c.st = .ok

/-- Outstanding work ends as for a lost drive (R379): entries complete with NODEV, blocks stay in their rings. What has no command
outstanding, a refill that awaits its validation or a block that awaits its turn, goes on. -/
def endAllWork (refillFail : Work → Prog) : Prog :=
  ask fun s => seqs [
    each (s.dev.stor.work.filter fun w => !w.landed) fun w =>
      failWork w 5 ((w.cmds.getLast?.map (·.tries)).getD 0) refillFail,
    modStor fun t => { t with tags := [] }]

/-- A drive is lost without DETACH (R379). -/
def driveLost (refillFail : Work → Prog) : Prog :=
  on (fun s => s.storSt ≠ 0 && s.storSt ≠ 6)
    (seqs [endAllWork refillFail, modStor fun t => { t with vol := none, formatting := false },
      setF F.STOR_STATE_WIDTH 0, setF F.STOR_STATE_SPEED 0, setStorSt 0, raise 162, raise 163])

/-- The drive sets its controller fatal status while attached (R360, Table 10.17). -/
def progControllerFatalStatus : Prog := on (fun s => 1 ≤ s.storSt && s.storSt ≤ 5) (storFail 9)

/-- A write of `STOR.RETRY` (R366): ignored where an enabled ring would fail the budget rule. -/
def effStorRetry (v : Word) : Prog :=
  ask fun s =>
    if s.dev.rings.any fun q => q.2.on && q.2.usesStorage && !budgetOk (fieldGet v 0 16) (fieldGet v 16 16) q.2.tmo then
      seqs [setB F.STOR_STAT_BUDGET, raise 173]
    else setR R.STOR_RETRY v

end Sys2Proof.Machine
end

