-- ==== Sys2Proof/Machine/Playback.lean ====
section
/-!
DEFINITION. Segments, the resampler, underrun and refill (spec/07_playback.md).
-/
namespace Sys2Proof.Machine

/-! ## Validation requests (R231, R233) -/

/-- A write of `PLAY.VALID` (R231). -/
def effValid (k i : Nat) : Prog := modCore k fun c => { c with validating := c.validating ++ [i] }

/-- A write of `PLAY.INVAL` (R233). -/
def effInval (k i : Nat) : Prog :=
  ask fun s =>
    if s.slotActive k i || s.slotSt k i = 1 then seqs [setB (F.PLAY_STAT_ACT_WR k), coreEvent k]
    else when (s.slotSt k i = 2) (setSlotSt k i 0)

/-! ## Headers and validation (R224, R232) -/

/-- A segment header (Table 7.3). -/
structure Header where
  ver : Nat
  filt : Nat
  mode : Nat
  len : Nat
  per : Nat
  perf : Nat
  trigw : Nat
  rsv : Nat
  vlim : Nat
  taper : Nat
  segid : Nat
  rsv2 : Nat
  deriving DecidableEq, Repr

/-- The address of the header of a slot. -/
def State.slotAddr (s : State) (k i : Nat) : Nat := segBase k + 32 * s.fld (F.PLAY_SLOT_BASE k i)

/-- The header of a slot. -/
def State.header (s : State) (k i : Nat) : Header :=
  let a := s.slotAddr k i
  { ver := s.num a 2, filt := s.num (a + 2) 1, mode := s.num (a + 3) 1, len := s.num (a + 4) 4, per := s.num (a + 8) 4
    perf := s.num (a + 12) 1, trigw := s.num (a + 13) 1, rsv := s.num (a + 14) 2, vlim := s.num (a + 16) 4
    taper := s.num (a + 20) 4, segid := s.num (a + 24) 4, rsv2 := s.num (a + 28) 4 }

/-- The stored period in sub-cycles. -/
def Header.p (h : Header) : Nat := h.per * 256 + h.perf

/-- `SEG_LEN` fails (Table 7.4). -/
def Header.badLen (h : Header) (ganged : Bool) : Bool :=
  h.len = 0 || (if ganged then h.len < 32 else h.len < 128 || h.len % 32 ≠ 0)

/-- `SEG_PER` fails, for a VECTOR segment or another, with the switching period in effect. -/
def Header.badPer (h : Header) (vec : Bool) (period : Nat) : Bool :=
  h.p < 2048 || (if vec then h.perf ≠ 0 || h.per % 8 ≠ 0 else 16 * h.p < 256 * period)

/-- Core `k` serves a channel in a gang. -/
def State.coreGanged (s : State) (k : Nat) : Bool := match s.channelOf k with | some n => s.ganged n | none => false

/-- The core that leads the gang of core `k`. -/
def State.leadOf (s : State) (k : Nat) : Nat := match s.channelOf k with | some n => s.leadCore n | none => k

/-- The switching period in effect of core `k` (R117). -/
def State.period (s : State) (k : Nat) : Nat := s.effFld (F.TG_PERIOD_CYC (s.leadOf k))

/-- Bytes 0 to 15 of a member's header differ from the leader's (R237). -/
def State.gangDiffers (s : State) (k i : Nat) : Bool :=
  s.leadOf k ≠ k && s.bytes (s.slotAddr k i) 16 ≠ s.bytes (s.slotAddr (s.leadOf k) i) 16

/-- The first check of Table 7.4 that the content of slot `i` fails, or 0; `segid` is a refill's expected identifier. -/
def State.validCode (s : State) (k i segid : Nat) : Nat :=
  let h := s.header k i
  let mode := h.mode % 16
  if h.ver ≠ 1 || 4 ≤ h.filt || 16 ≤ h.mode || 65536 ≤ h.len || h.rsv ≠ 0 || h.rsv2 ≠ 0 then 2
  else if mode = 1 || (7 ≤ mode && mode ≤ 14) then 3
  else if mode = 6 && h.filt ≠ 0 then 4
  else if h.badLen (s.coreGanged k) then 5
  else if 32 * s.fld (F.PLAY_SLOT_CAP k i) < h.len then 6
  else if h.badPer (mode = 6) (s.period k) then 7
  else if s.gangDiffers k i then 8
  else if segid ≠ 0 && segid ≠ h.segid then 9
  else 0

/-- `PLAY.VSTAT` takes an outcome. -/
def vstat (k i code : Nat) : Prog := seqs [setF (F.PLAY_VSTAT_SLOT k) i, setF (F.PLAY_VSTAT_CODE k) code]

/-! ## The start check and underrun (R236, R249, R250) -/

/-- A slot plays a VECTOR segment on core `k` (R226). -/
def State.vectorSlot (s : State) (k i : Nat) : Bool :=
  let m := (s.header (s.leadOf k) i).mode % 16
  m = 6 || (m = 15 && (s.cst (s.leadOf k)).drv.mode = 6)

/-- What a start check of slot `i` finds for channel `n`: 0 it plays, 16 not READY in some core of the gang, else the code
of Table 7.4 that depends on the present state (R249). -/
def State.startCheck (s : State) (n i : Nat) : Nat :=
  let k := s.leadCore n
  let h := s.header k i
  if (s.gangCores n).any fun m => s.slotSt m i ≠ 2 then 16
  else if h.badLen (s.ganged n) then 5
  else if h.badPer (s.vectorSlot k i) (s.period k) then 7
  else if (s.gangCores n).any fun m => s.gangDiffers m i then 8
  else 0

/-- The first grid instant at or after `t` (sub-cycles) for a period in cycles and a phase in sub-cycles. -/
def gridFrom (per phase t : Nat) : Nat :=
  let c := max 1 (per * 256)
  t + (phase % c + c - t % c) % c

/-- The next boundary of core `k`, in sub-cycles: the one scheduled, or the first grid instant from now on (R112). -/
def State.nextBoundary (s : State) (k : Nat) : Nat :=
  (s.cst k).drv.next.getD (gridFrom (s.period k) (s.effFld (F.TG_PHASE_SUB k)) s.nowSub)

/-- The first boundary of core `k` at or after `t` (sub-cycles). -/
def State.boundaryFrom (s : State) (k t : Nat) : Nat :=
  if t ≤ s.nextBoundary k then s.nextBoundary k else gridFrom (s.period k) (s.effFld (F.TG_PHASE_SUB k)) t

/-- The DAC load instant of the cycle that begins at `g`: the last multiple of four cycles at least 32 cycles before (R84). -/
def loadAt (g : Nat) : Nat := (g - 8192) / 1024 * 1024

/-- The lull of a gang from `e` (sub-cycles) is over for a cycle that begins at this instant (R245). -/
def lullOver (e : Nat) : Nat := divUp (e + 512 * 256) 1024 * 1024 + 8192

/-- The slot that channel `n` is to start next, if nothing but its start is awaited, and its G_0 or V_0 in sub-cycles (R236, R257,
R258): after vectors that end at `e` (cycles), after a lull from `e`, at the end of the predecessor, or after its naming. -/
def State.startInstant (s : State) (n : Nat) : Option (Nat × Nat) :=
  let k := s.leadCore n
  let p := (s.cst k).play
  let vec (i g : Nat) : Nat := if s.vectorSlot k i then s.boundary (divUp g 256) * 256 else g
  let lull (i e : Nat) : Nat := vec i (s.boundaryFrom k (lullOver e))
  let afterVec (i e : Nat) : Nat :=
    if s.vectorSlot k i then (e + if s.ganged n then 512 else 0) * 256
    else if s.ganged n then s.boundaryFrom k (lullOver (e * 256)) else s.boundaryFrom k ((e + 64) * 256)
  match p.next with
  | none => if p.playing then none else p.name.map fun x => (x.1, vec x.1 (s.boundaryFrom k ((x.2 + 320) * 256)))
  | some i =>
    if p.playing then
      match p.vec with
      | some v => some (i, afterVec i (v.v0 + v.len * v.per))
      | none =>
        if !p.last then none
        else some (i, if s.ganged n then lull i (s.nextBoundary k) else vec i (s.nextBoundary k))
    else match p.vecEnd with
      | some e => some (i, afterVec i e)
      | none => some (i, if p.lull then lull i p.lullFrom else vec i (s.nextBoundary k))

/-- The hold slot of channel `n` can play (R250). -/
def State.holdPlays (s : State) (n : Nat) : Bool :=
  s.flg (F.PLAY_HOLD_EN (s.leadCore n)) && s.startCheck n (s.fld (F.PLAY_HOLD_SLOT (s.leadCore n))) = 0

/-- What the start check of slot `i` for channel `n` finds is kept for the start, with the instant of the check. -/
def keepCheck (n i : Nat) : Prog :=
  ask fun s => each (s.gangCores n) fun k => seqs [
    eccRead (s.slotAddr k i) 32,
    modPlay k fun p => { p with
      checked := some (s.startCheck n i), holdOk := s.holdPlays n, checkAt := s.lastBoundary s.now }]

/-- G_0 − 256 cycles of the segment that channel `n` is to start: its slot and the hold slot are judged (R236, R249). -/
def progStartCheck (n : Nat) : Prog :=
  ask fun s =>
    match s.startInstant n with
    | none => .done
    | some (i, g) => seqs [advance (g / 256 - 256), keepCheck n i]

/-- A slot of core `k` has become READY: a start check of the same sequencer cycle sees it (R254). -/
def recheck (k : Nat) : Prog :=
  ask fun s =>
    match s.channelOf k with
    | none => .done
    | some n =>
      let p := (s.cst (s.leadCore n)).play
      when (p.checked.isSome && p.checkAt = s.lastBoundary s.now)
        (match s.startInstant n with | some (i, _) => keepCheck n i | none => .done)

/-- The content of slot `i` is judged: READY, or EMPTY with `VFAIL` (R231). -/
def judgeSlot (k i code : Nat) : Prog :=
  seqs [ask fun s => eccRead (s.slotAddr k i) 32, vstat k i code,
    if code = 0 then seqs [setSlotSt k i 2, recheck k] else seqs [setSlotSt k i 0, setB (F.PLAY_STAT_VFAIL k)]]

/-- The oldest validation that core `k` has been asked for completes (R231, R232). -/
def progValidationComplete (k : Nat) : Prog :=
  ask fun s =>
    match (s.cst k).validating with
    | [] => .done
    | i :: is => seqs [
        modCore k fun c => { c with validating := is },
        if s.slotSt k i ≠ 0 || s.fld (F.PLAY_SLOT_CAP k i) = 0 then vstat k i 1
        else judgeSlot k i (s.validCode k i 0)]

/-- Channel `n` enters Calm at `g` in place of the segment that was to start there: by the CALM policy, or on a hold `miss`
(R249, R250). The start check at G_0 − 256 has made the request in time. -/
def substituteCalm (n k g : Nat) (miss : Bool) : Prog :=
  seqs [
    when miss (setB (F.PLAY_STAT_HOLD_MISS k)), faultSource n, calmRequest n,
    ask fun s => seqs [
      each (s.gangCores n) fun c => seqs [
        modPlay c fun p => { p with
          playing := false, subst := false, substIv := true, vec := none, next := none, checked := none },
        modDrv c fun d => { d with calm := some (g / 256 - 64) }],
      each (s.gang n).2 windowSubst]]

/-- Core `k` of channel `n` starts slot `i` at instant `g` (sub-cycles); `subst` where it is the hold segment. The limit
and taper words and the mode of the header are the boundary's business. -/
def beginSegment (n k i g : Nat) (subst : Bool) : Prog :=
  (undoWrites k i).seq (ask fun s =>
    let h := s.header (s.leadOf k) i
    let own := s.header k i
    let v0 := s.boundary (divUp g 256)
    seqs [
      eccRead (s.slotAddr k i) 32,
      modPlay k fun p => { p with
        playing := true, slot := i, len := h.len, p := h.p, filt := h.filt % 4, u := 0, seen := -1, last := false
        pastD := false, next := none, subNext := false, checked := none, moved := (0, []), dwell := false, lull := false,
        subst := subst, fresh := true
        substIv := subst, started := true, vecEnd := none, segSince := g
        segPast := (g, s.fld (F.PLAY_SEGID_SEGID k)) :: p.segPast.filter fun e => decide (g < e.1 + 2 ^ 31)
        vec := if s.vectorSlot k i then some ⟨v0, 0, h.len, h.per⟩ else none },
      setF (F.PLAY_SEGID_SEGID k) own.segid, when subst (windowSubst n)])

/-- The slot `i` that channel `n`, whose leader's core is `k`, was to start at `g` cannot play, for reason `code` (R249): what the
channel notes of it. -/
def underrun (n k i g code : Nat) : Prog :=
  seqs [
    setB (F.PLAY_STAT_UNDERRUN k), count (F.PLAY_CNT_A_UNDERRUN k),
    setF (F.PLAY_ULT_LO_CYC k) (g / 256), setF (F.PLAY_ULT_HI_CYC k) (g / 256 / 2 ^ 32), setF (F.PLAY_ULT_HI_SLOT k) i,
    eventSource n, offerAt n 7 (divUp g 256),
    when (code ≠ 16) (seqs [vstat k i code, setB (F.PLAY_STAT_VFAIL k)])]

/-- Core `k` of channel `n` starts the segment in slot `i` at `g`, or what R249 puts in its place. The side effects of an
underrun are the leader's. A hold segment in another mode that follows vectors waits for its boundary (R258). -/
def startSegment (n k i g : Nat) : Prog :=
  ask fun s =>
    let p := (s.cst k).play
    let lead := s.leader n = n
    let code := p.checked.getD (s.startCheck n i)
    let policy := s.flg (F.PLAY_HOLD_POL (s.leadOf k))
    let hold := s.fld (F.PLAY_HOLD_SLOT (s.leadOf k))
    if p.subNext then beginSegment n k i g true
    else if code = 0 then beginSegment n k i g false
    else seqs [
      modPlay k fun p => { p with next := none, checked := none, started := true },
      when lead (underrun n k i g code),
      if policy || !(if p.checked.isSome then p.holdOk else s.holdPlays n) then seqs [
        modPlay k fun p => { p with lull := false, vecEnd := none },
        when lead (substituteCalm n k g (!policy))]
      else if p.vecEnd.isSome && s.vectorSlot (s.leadOf k) i && !s.vectorSlot (s.leadOf k) hold then
        modPlay k fun p => { p with next := some hold, subNext := true }
      else beginSegment n k hold g true]

/-! ## The resampler (R235, R238 to R242) -/

/-- The sample word `j` of the segment of core `k`, `j` clamped to the segment; 0 where it is uncorrectable (R223, R238). A
sample of the history that a commit has moved is not read again (R525). -/
def State.sampleWord (s : State) (k : Nat) (j : Int) : Nat :=
  let p := (s.cst k).play
  let i := (clampInt 0 ((p.len : Int) - 1) j).toNat
  let a := s.slotAddr k p.slot + 32 + 4 * i
  match (if p.moved.1 ≤ j then p.moved.2[(j - p.moved.1).toNat]? else none) with
  | some w => w
  | none => if s.badWord a 4 then 0 else s.num a 4

/-- s(k) of R238. -/
def State.sampleVal (s : State) (k : Nat) (j : Int) : Int := signed 18 (s.sampleWord k j)

/-- The exact formula of Table 7.5, rounded half away from zero. -/
def resample (filt : Nat) (i : Nat) (f : Nat) (v : Int → Int) : Int :=
  let i : Int := i
  let g : Int := f
  match filt with
  | 0 => v i
  | 1 => divNear (v i * 65536 + (v (i + 1) - v i) * g) 65536
  | 2 =>
    let a := v (i - 1)
    let b := v i
    let c := v (i + 1)
    let d := v (i + 2)
    divNear (2 * 65536 ^ 3 * b + g * 65536 ^ 2 * (c - a) + g ^ 2 * 65536 * (2 * a - 5 * b + 4 * c - d)
      + g ^ 3 * (-a + 3 * b - 3 * c + d)) (2 * 65536 ^ 3)
  | _ => divNear (((List.range 32).map fun t => sincCoeff (f / 1024) t * v (i + (t : Int) - 15)).sum) 131072

/-- The markers that samples `from_` to `upto` set together. -/
def State.markersOf (s : State) (k : Nat) (from_ : Int) (upto : Nat) : Nat :=
  ((List.range (((upto : Int) - from_ + 1).toNat)).map fun (j : Nat) => s.sampleWord k (from_ + j) / 2 ^ 18 % 16).foldl (· ||| ·) 0

/-- The decision sample of the segment of core `k` (R246). -/
def State.decisionSample (s : State) (k : Nat) : Nat := (s.cst k).play.len - (if s.coreGanged k then 16 else 32)

/-- t_D of the leader: the named slot becomes the successor in every core of the gang (R247). -/
def commitSuccessor (n : Nat) : Prog :=
  ask fun s =>
    let nm := (s.cst (s.leadCore n)).play.name
    each (s.gangCores n) fun k => seqs [
      modPlay k fun p => { p with next := nm.map (·.1), name := none },
      match nm with | some x => undoWrites k x.1 | none => .done]

/-- t_D of the segment on core `k` of channel `n` passes. -/
def decide_ (n k : Nat) : Prog :=
  seqs [modPlay k fun p => { p with pastD := true }, on (fun s => s.leader n = n) (commitSuccessor n)]

/-- How many samples before and after sample i a filter reads (Table 7.5). -/
def taps (filt : Nat) : Nat × Nat :=
  match filt with
  | 0 => (0, 0) | 1 => (0, 1) | 2 => (1, 2) | _ => (15, 16)

/-- The resampler reads the words of samples `lo` to `hi` of the segment of core `k`, clamped to the segment (R223, R238). -/
def readSamples (k : Nat) (lo hi : Int) : Prog :=
  ask fun s =>
    let p := (s.cst k).play
    let a := (clampInt 0 ((p.len : Int) - 1) lo).toNat
    let b := (clampInt 0 ((p.len : Int) - 1) hi).toNat
    eccRead (s.slotAddr k p.slot + 32 + 4 * a) (4 * (b + 1 - a))

/-- The index i_j of the cycle that the segment of core `k` plays next, and whether that cycle, of `len` sub-cycles, is its last
(R235). -/
def PlaySt.cycle (p : PlaySt) (len : Nat) : Nat × Bool := (p.u / max 1 p.p, p.len * p.p ≤ p.u + len)

/-- A cycle of `len` sub-cycles of core `k` is the decision cycle of its segment (R246). -/
def State.decides (s : State) (k len : Nat) : Bool :=
  let c := (s.cst k).play.cycle len
  !(s.cst k).play.pastD && (s.decisionSample k ≤ c.1 || c.2)

/-- A cycle of `len` sub-cycles that begins at `g` plays its value (R235, R238, R241, R246). -/
def playCycle (n k g len : Nat) : Prog :=
  ask fun s =>
    let p := (s.cst k).play
    let i := (p.cycle len).1
    let last := (p.cycle len).2
    let f := p.u % max 1 p.p * 65536 / max 1 p.p
    let raw := resample p.filt i f (s.sampleVal k)
    let val := clampInt (-131072) 131071 raw
    let upto := if last then p.len - 1 else min i (p.len - 1)
    seqs [
      readSamples k (min (p.seen + 1) ((i : Int) - (taps p.filt).1)) (max (upto : Int) ((i : Int) + (taps p.filt).2)),
      when (raw ≠ val) (seqs [count (F.PLAY_CNT_A_SAT k), setB (F.PLAY_STAT_SAT k)]),
      setMarks k (s.markersOf k (p.seen + 1) upto) g,
      modPlay k fun q => { q with value := val, u := q.u + len, last := last, seen := upto, idx := i },
      when (s.decides k len) (decide_ n k)]

/-- The segment on core `k` ends: it is no longer active (R235, R251). -/
def endSegment (k : Nat) : Prog :=
  modPlay k fun p => { p with playing := false, last := false, subst := false, substIv := false, vec := none }

/-- In Calm playback is held and the markers are 0 (R242). A boundary of the sequencer cycle in which an overvoltage trip asked for
Calm still commits the successor (R248). -/
def playCalm (n k g len : Nat) : Prog :=
  ask fun s =>
    let same := match (s.cst k).drv.tripCalm with | some c => s.lastBoundary c = s.lastBoundary (g / 256) | none => false
    let p := (s.cst k).play
    seqs [setMarks k 0 g, modDrv k fun d => { d with tripCalm := none },
      when (same && p.playing && p.vec.isNone && s.decides k len) (decide_ n k)]

/-- The segment of core `k`, whose last cycle ends at `g`, gives way to its successor, to the lull of a gang, or to none, the value
being held (R243 to R245). -/
def segmentDone (n k g : Nat) : Prog :=
  on (fun s => (s.cst k).play.playing && (s.cst k).play.last && (s.cst k).play.vec.isNone)
    (seqs [endSegment k,
      ask fun s =>
        match (s.cst k).play.next with
        | some i =>
          if s.ganged n then modPlay k fun p => { p with lull := true, lullFrom := g }
          else startSegment n k i g
        | none => modPlay k fun p => { p with dwell := true, name := p.name.map fun x => (x.1, g / 256) }])

/-- At boundary `g`, with nothing playing, a committed successor starts after its lull or after vectors, or a slot named (R236, R245,
R258). -/
def startWaiting (n k g : Nat) : Prog :=
  ask fun s =>
    let p := (s.cst k).play
    if p.playing then .done
    else match p.next, p.name with
      | some i, _ =>
        let due := match p.lull, p.vecEnd with
          | true, e => !(e.isSome && s.vectorSlot (s.leadOf k) i) && lullOver p.lullFrom ≤ g
          | false, some e => !s.vectorSlot (s.leadOf k) i && (e + 64) * 256 ≤ g
          | false, none => true
        when due (startSegment n k i g)
      | none, some (i, at_) =>
        when ((at_ + 320) * 256 ≤ g) (seqs [modPlay k fun p => { p with name := none }, startSegment n k i g])
      | none, none => .done

/-- What core `k` of channel `n` plays in the cycle of `len` sub-cycles that begins at `g` (R236, R243 to R245, R258). -/
def playBoundary (n k g len : Nat) : Prog :=
  ask fun s =>
    if s.calm n then playCalm n k g len
    else seqs [segmentDone n k g, startWaiting n k g,
      ask fun s =>
        let p := (s.cst k).play
        if !p.playing then setMarks k 0 g else when p.vec.isNone (playCycle n k g len)]

/-! ## Naming (R271, R272) -/

/-- A step names slot `i` for channel `n` at cycle `t`. -/
def nameSlot (n i t : Nat) : Prog :=
  ask fun s => each (s.gangCores n) fun k => modPlay k fun p => { p with name := some (i, t), started := false }

/-- An uncommitted name is withdrawn. -/
def withdrawName (n : Nat) : Prog := ask fun s => each (s.gangCores n) fun k => modPlay k fun p => { p with name := none }

/-! ## Refill (R252 to R256, R262) -/

/-- A refill completes with a status other than OK and ZERO: `REF_ERR`, the class and the source (R255, Table 8.7). -/
def refillError (r : Nat) : Prog :=
  ask fun s =>
    match s.ringChannel r with
    | some n => seqs [setB (F.PLAY_STAT_REF_ERR (s.core n)), offer n 8, eventSource n]
    | none => .done

/-- What the end of a refill's storage work without success does to its slot (R255): the parameter of the storage
engine's functions. -/
def refillFail (w : Work) : Prog := seqs [setSlotSt w.core w.slot 0, refillError w.ring]

/-- The head request of REFILL ring `r` is judged (R256): its status, or none where it waits to be taken. -/
def State.refillJudge (s : State) (r : Nat) : Option Nat :=
  let q := s.ring r
  let e := q.entry q.taken
  let slot := s.num (e + 10) 1
  match s.ringChannel r with
  | none => some 0x20
  | some n =>
    let cap := s.fld (F.PLAY_SLOT_CAP (s.core n) (slot % 32))
    let blocks := s.num (e + 8) 2
    if s.badWord e 16 || 32 ≤ slot || cap = 0 || s.num (e + 11) 1 ≠ 0 then some 0x20
    else if blocks = 0 then some 1
    else if divUp (32 + 128 * cap) 4096 < blocks then some 0x21
    else none

/-- A consumed ring of type REFILL has a head request that may be taken. -/
def State.refillHead (s : State) (r : Nat) : Bool :=
  let q := s.ring r
  q.on && !q.stopping && q.typ = 0 && q.taken ≠ q.pi && s.storSt ≠ 5 && s.fld F.PWR_STATE_ST ≠ 3

/-- The head request of ring `r` has passed its judgement and waits to be taken. -/
def State.refillAccepted (s : State) (r : Nat) : Bool := (s.ring r).accepted = some (s.ring r).taken

/-- A refill request reaches the head of its ring (R256): it completes at once, or it is to be taken, and waits where its slot is
active, which is counted (R253, R364). -/
def progRefillHead (r : Nat) : Prog :=
  on (fun s => s.refillHead r && !s.refillAccepted r)
    (ask fun s =>
      let q := s.ring r
      (eccRead (q.entry q.taken) 16).seq <| match s.refillJudge r with
      | some st => seqs [modRing r Ring.takeNext,
          when (st ≠ 1) (refillError r), completeEntry r ⟨q.taken, st, 0, 0, 0⟩]
      | none => seqs [
          modRing r fun q => { q with accepted := some q.taken },
          match s.ringChannel r with
          | some n => when (s.slotActive (s.core n) (s.num (q.entry q.taken + 10) 1 % 32)) (ringStall r)
          | none => .done])

/-- A waiting refill request is taken once its slot is inactive (R253, R256). -/
def progRefillTake (r : Nat) : Prog :=
  on (fun s => s.refillHead r && (s.refillAccepted r || (s.refillJudge r).isNone))
    (ask fun s =>
      let q := s.ring r
      let e := q.entry q.taken
      let i := s.num (e + 10) 1 % 32
      match s.ringChannel r with
      | none => .done
      | some n =>
        let k := s.core n
        if s.slotActive k i then .done
        else (modRing r Ring.takeNext).seq
          (if !s.storReady then seqs [refillError r, completeEntry r ⟨q.taken, 5, 0, 0, 0⟩]
          else
            let blocks := s.num (e + 8) 2
            let lba := s.num e 8
            match s.dev.stor.vol with
            | none => seqs [refillError r, completeEntry r ⟨q.taken, 5, 0, 0, 0⟩]
            | some v =>
              if v.llen < lba + blocks then
                seqs [setSlotSt k i 0, refillError r, completeEntry r ⟨q.taken, 6, 0, 0, 0⟩]
              else seqs [
                setSlotSt k i 1,
                startWork { kind := .refill, ring := r, idx := q.taken, core := k, slot := i
                            cmds := splitCmds .read (v.lstart + lba) blocks (s.slotAddr k i) 64 }]))

/-- A refill of ring `r` whose last block has been written completes: its slot is validated (R231, R255). -/
def progRefillComplete (r : Nat) : Prog :=
  ask fun s =>
    match s.dev.stor.work.find? fun w => w.ring = r && w.kind = .refill && w.cmds.all fun c => c.st = .ok with
    | none => .done
    | some w =>
      let code := s.validCode w.core w.slot (s.num ((s.ring r).entry w.idx + 12) 4)
      seqs [dropWork r w.idx, judgeSlot w.core w.slot code, when (code ≠ 0) (refillError r),
        completeEntry r ⟨w.idx, if code = 0 then 0 else 0x100 + code, (w.cmds.getLast?.map (·.tries)).getD 0, 0, 0⟩]

/-- DISABLE of ring `r` (R351): the refill requests that it cancels are refills that do not end with OK (R255). -/
def disableRing (r : Nat) : Prog :=
  ask fun s =>
    let q := s.ring r
    seqs [when (q.on && q.consumed && q.typ = 0 && q.taken ≠ q.pi) (each (idxRange q.taken (idxSub q.pi q.taken)) fun _ => refillError r),
      ringDisable r]

/-- A CORE reset cancels the refills that fill slots of core `k` (R262). -/
def cancelRefills (k : Nat) : Prog :=
  ask fun s =>
    each (s.dev.stor.work.filter fun w => w.kind = .refill && w.core = k) fun w =>
      failWork w 0x10 ((w.cmds.getLast?.map (·.tries)).getD 0) refillFail

end Sys2Proof.Machine
end

