-- ==== Sys2Proof/Machine/Loop.lean ====
section
/-!
DEFINITION. The analog part of a front end's current loop (spec/04_current_voltage_loop.md, R128 to R161): its DACs, the
comparator reference, the compensation ramp, the voltage-loop integrator, and the protection comparators. Voltages are exact
integers in grains, of which a nanovolt has 3 × 5^8 × 2^50: every division below by a constant of the spec is then exact.
-/
namespace Sys2Proof.Machine

/-- Grains in a nanovolt. -/
def grain : Int := 3 * 5 ^ 8 * 2 ^ 50

/-! ## The slice reference and the DACs (R128, R129, R135, R160) -/

/-- VSR × `num` ÷ `den` in grains, VSR being 0.6 × (VREFP − VREFM) (R128). -/
def vsrPart (vref : Nat) (num : Int) (den : Nat) : Int := grain * 3 * vref * num / (5 * den)

/-- An LSB of the current setpoint DAC of channel `n`, before its gain trim (Table 4.1). -/
def State.setpointLsb (s : State) (n vref : Nat) : Int := vsrPart vref (2 ^ s.fld (F.SCALE_GAIN_ISET n)) 1310720

/-- `x` with the setpoint gain trim in effect, in parts per million (R160, Table 16.3). -/
def State.gainTrim (s : State) (n : Nat) (x : Int) : Int :=
  x * (1000000 + signed 12 (s.effFld (F.CAL_CH_LOOPT_SETG n))) / 1000000

/-- V_S of channel `n` for setpoint code `c`, with its trims (R129, R160). -/
def State.setpointVolts (s : State) (n vref : Nat) (c : Int) : Int :=
  s.gainTrim n (c * s.setpointLsb n vref) + signed 12 (s.effFld (F.CAL_CH_LOOPT_SETO n)) * 50 * grain

/-- |V_S| of the code that the setpoint DAC of channel `n` holds. -/
def State.setpointMag (s : State) (n vref : Nat) : Int := (s.setpointVolts n vref (s.fe n).loop.dac).natAbs

/-- V_L of a channel that leads: the limit code in effect, at the gain of its voltage-limit DAC (R129, R146). -/
def State.limitVolts (s : State) (n vref : Nat) : Int :=
  vsrPart vref (s.fld (F.LOOP_NOW_VLIM (s.core n)) * 2 ^ s.fld (F.SCALE_GAIN_VLIM n) : Nat) 1048576

/-- The headroom H of channel `n`: a part of the setpoint DAC's positive full scale (R141). -/
def State.headroom (s : State) (n vref : Nat) : Int :=
  131072 * s.setpointLsb n vref / 2 ^ (6 - s.effFld (F.VLOOP_CFG_HEAD n))

/-- The output of the ramp slope DAC of path `path` of channel `n`, in grains: its code at the gain that both paths share (R128, R132),
of 4,096 LSBs. The loop does not use it; every result is a ratio in which it cancels (R169, R175). -/
def State.rampSlope (s : State) (n path vref : Nat) : Int :=
  vsrPart vref ((if path = 0 then (s.fe n).rampA else (s.fe n).rampB) * 2 ^ s.fld (F.SCALE_GAIN_RAMP n) : Nat) 4096

/-! ## The compensation ramp (R138, R139) -/

/-- V_R of channel `n` at instant `t`: from the first DAC clock edge at or after G on it grows by `SCOMP` ÷ 256 LSBs with each
DAC clock; outside a pulse it is 0. -/
def State.rampVolts (s : State) (n vref t : Nat) : Int :=
  match (s.cst (s.core n)).drv.pulse with
  | none => 0
  | some p =>
    s.gainTrim n (((t - divUp p.g 1024 * 1024) / 1024 * s.effFld (F.VLOOP_SCOMP_SCOMP n) : Nat) * s.setpointLsb n vref / 256)

/-! ## The integrator (R140 to R146) -/

/-- 0.1 × Gm × Rz × `e`, for codes of Table 4.2. -/
def propGain (gm rz : Nat) (e : Int) : Int := if rz = 0 then 0 else e * 2 ^ (gm + rz) / 800

/-- 0.1 × (Gm ÷ C) × `e` over `dt` sub-cycles. -/
def intGain (gm c : Nat) (e : Int) (dt : Nat) : Int := e * dt * 2 ^ gm / (15360000 * 2 ^ c)

/-- The integrator with error `e` up to instant `t`: D takes the step that the change of the error makes through Rz, then the
charge; each stays within 0 and Dmax. -/
def LoopSt.upTo (l : LoopSt) (gm c rz : Nat) (e : Int) (t : Nat) : LoopSt :=
  if l.clamped then l
  else
    let step := match l.err with | some e' => propGain gm rz (e - e') | none => 0
    let d := clampInt 0 l.top (l.d + step)
    { l with d := clampInt 0 l.top (d + intGain gm c e (t - l.at_)), err := some e, at_ := max l.at_ t }

/-- The error of the integrator of channel `n`, which leads, with its error input at `cell` nV (R140). -/
def State.loopError (s : State) (n : Nat) (rev : Bool) (a : Analog) : Int :=
  let v := (a.cell + 2000 * signed 10 (s.effFld (F.CAL_CH_MISC_VLO n))) * grain
  let l := s.limitVolts n a.vref
  if rev then v - l else l - v

/-- `l` as the loop of channel `n`, which leads, at instant `t`, with the settings in effect. -/
def State.loopUpTo (s : State) (n : Nat) (l : LoopSt) (a : Analog) (t : Nat) : LoopSt :=
  l.upTo (s.effFld (F.VLOOP_CFG_GM n)) (s.effFld (F.VLOOP_CFG_CINT n)) (s.effFld (F.VLOOP_CFG_RZ n)) (s.loopError n l.rev a) t

/-- Change the loop of front end `n`. -/
def modLoop (n : Nat) (f : LoopSt → LoopSt) : Prog := modFe n fun x => { x with loop := f x.loop }

/-- The integrator of channel `n` is followed up to instant `t`; a member's stays clamped (R32). -/
def followLoop (n t : Nat) (a : Analog) : Prog :=
  on (fun s => s.leader n = n) (ask fun s => modLoop n fun l => s.loopUpTo n l a t)

/-- The demand D at instant `t` that rules channel `n`: its leader's, which goes on with the error last seen (R146). -/
def State.demand (s : State) (n t : Nat) : Int :=
  let m := s.leader n
  let l := (s.fe m).loop
  (l.upTo (s.effFld (F.VLOOP_CFG_GM m)) (s.effFld (F.VLOOP_CFG_CINT m)) (s.effFld (F.VLOOP_CFG_RZ m)) (l.err.getD 0) t).d

/-- REF = min(|V_S|, D) of channel `n` at instant `t` (R136). -/
def State.reference (s : State) (n vref t : Nat) : Int := min (s.setpointMag n vref) (s.demand n t)

/-- The comparator input of channel `n` has reached REF at instant `c` (R137). -/
def State.crossed (s : State) (n c : Nat) (fwd : Bool) (a : Analog) : Bool :=
  s.reference n a.vref c ≤ (if fwd then a.shunt else -a.shunt) * grain + s.rampVolts n a.vref c

/-- The integrator of channel `n` is clamped: its capacitor is discharged and D is 0; the dwell counts restart, `CVA` and `TPR`
clear (R142, R154). -/
def clampLoop (n k : Nat) : Prog :=
  seqs [clrB (F.LOOP_STAT_CVA k), clrB (F.LOOP_STAT_TPR k), modLoop n fun l => { l with clamped := true, d := 0, err := none },
    modDrv k fun d => { d with dCount := 0, sCount := 0, tCount := 0, cvaNext := none, tprNext := none }]

/-- The setpoint DAC of channel `n` is loaded with code `c` for the cycle that begins at `g`; the code takes effect there. -/
def loadDac (n k g : Nat) (c : Int) : Prog :=
  seqs [setZ (F.LOOP_SET_S k) c, modLoop n fun l => { l with dac := c, load := loadAt g }]

/-- A cycle that begins at `g` forms a current reference from setpoint `v`: a clamped integrator is released at the DAC load
instant, preloaded, and goes on to `g` with the settings of `old`, in effect until then; Dmax takes its new value (R141, R143). -/
def activeLoop (old : State) (n k g : Nat) (v : Int) (rev : Bool) (a : Analog) : Prog :=
  seqs [loadDac n k g v,
    on (fun s => s.leader n = n)
      (ask fun s =>
        let top := s.setpointMag n a.vref + s.headroom n a.vref
        modLoop n fun l =>
          let l := if l.clamped then
              old.loopUpTo n { l with
                clamped := false, d := if s.flg (F.VLOOP_CFG_PRELOAD n) then top else 0
                err := none, at_ := loadAt g, top := top, rev := rev } a g
            else l
          { l with d := min l.d top, top := top, rev := rev })]

/-! ## Selection samples (R151 to R153) -/

/-- The selection sample of a pulse that ends at instant `t` (R151, R152): D is strictly less than |V_S|, and REF is below the
taper threshold. DESIGN CHOICE (see notes/assumptions/115.md): `MAG` becomes a voltage as a positive setpoint code does, trims
included, in reverse cycles too. -/
def selectionSample (n t : Nat) (a : Analog) : Prog :=
  seqs [followLoop n t a,
    ask fun s =>
      let k := s.core n
      let d := s.demand n t < s.setpointMag n a.vref
      let mag := s.fld (F.LOOP_TAPERNOW_MAG k)
      let below := s.reference n a.vref t < (s.setpointVolts n a.vref mag).natAbs
      let dwell := s.fld (F.VLOOP_CFG_CV_DWELL n)
      let x := (s.cst k).drv
      let cva := s.flg (F.LOOP_STAT_CVA k)
      let tpr := s.flg (F.LOOP_STAT_TPR k)
      seqs [
        setF (F.LOOP_SET_SEL k) (if d then 1 else 0),
        when (s.leader n = n)
          (if d then
            let need := if x.dCount = 0 then dwell else x.dNeed
            let near := cva && below && mag ≠ 0
            let tneed := if x.tCount = 0 then dwell else x.tNeed
            let t := if near then x.tCount + 1 else 0
            modDrv k fun y => { y with
              dCount := y.dCount + 1, dNeed := need, sCount := 0, tCount := t, tNeed := tneed
              cvaNext := if !cva && need < y.dCount + 1 then some true else y.cvaNext
              tprNext := if near && !tpr && tneed < t then some true else y.tprNext }
          else
            let need := if x.sCount = 0 then dwell else x.sNeed
            modDrv k fun y => { y with
              sCount := y.sCount + 1, sNeed := need, dCount := 0, tCount := 0
              cvaNext := if cva && need < y.sCount + 1 then some false else y.cvaNext
              tprNext := if tpr then some false else y.tprNext })]]

/-- `CVA` or `TPR` changes at boundary `g` (R153). -/
def loopStatus (n k g : Nat) : Prog :=
  ask fun s =>
    let x := (s.cst k).drv
    seqs [
      modDrv k fun d => { d with cvaNext := none, tprNext := none },
      match x.cvaNext with
      | some true => seqs [setB (F.LOOP_STAT_CVA k), setB (F.LOOP_STAT_CV_EVT k), offerAt n 1 (divUp g 256), eventSource n,
          offerTrigger k 21 37 g]
      | some false => clrB (F.LOOP_STAT_CVA k)
      | none => .done,
      match x.tprNext with
      | some true =>
        seqs [setB (F.LOOP_STAT_TPR k), setB (F.LOOP_STAT_TPR_EVT k), offerAt n 2 (divUp g 256), eventSource n]
      | some false => clrB (F.LOOP_STAT_TPR k)
      | none => .done]

/-! ## The protection comparators (R155 to R159) -/

/-- The filter times in sub-cycles: 0, 2, 5, 10 ns, and 0, 10, 50, 200 ns (R158). -/
def State.ocFilter (s : State) (n : Nat) : Nat := [0, 1536, 3840, 7680].getD (s.effFld (F.PROT_FILT_OC_FILT n)) 0
def State.ovFilter (s : State) (n : Nat) : Nat := [0, 7680, 38400, 153600].getD (s.effFld (F.PROT_FILT_OV_FILT n)) 0

/-- An excursion lies beyond the overcurrent thresholds in effect of channel `n` (R155). -/
def State.beyondOc (s : State) (n : Nat) (x : Excursion) : Bool :=
  vsrPart x.vref (s.effFld (F.PROT_OC_OC_POS n) : Nat) 5120 < x.level * grain
    || x.level * grain < -vsrPart x.vref (s.effFld (F.PROT_OC_OC_NEG n) : Nat) 5120

/-- An excursion lies beyond the overvoltage threshold in effect of channel `n` (R156). -/
def State.beyondOv (s : State) (n : Nat) (x : Excursion) : Bool :=
  vsrPart x.vref (s.effFld (F.PROT_OV_OV n) : Nat) 2048 < x.level * grain

/-- An excursion lasts at instant `t`. -/
def Excursion.lasts (x : Excursion) (t : Nat) : Bool := x.start ≤ t && t < x.stop

/-- The comparator outputs now (Table 4.16). -/
def State.ocLive (s : State) (n : Nat) : Bool :=
  match (s.fe n).oc with | some x => s.beyondOc n x && x.lasts s.nowSub | none => false
def State.ovLive (s : State) (n : Nat) : Bool :=
  match (s.fe n).ov with | some x => s.beyondOv n x && x.lasts s.nowSub | none => false

/-- An overcurrent trip of channel `n` is in progress at instant `t`: its excursion has persisted for the filter time (R113,
R158). -/
def State.ocTripped (s : State) (n t : Nat) : Bool :=
  match (s.fe n).oc with
  | some x => s.beyondOc n x && x.start + s.ocFilter n ≤ t && t < x.stop
  | none => false

/-- The instant of an overcurrent trip of channel `n` whose filter time ends after instant `t`, its crossing being before. -/
def State.ocTripAfter (s : State) (n t : Nat) : Option Nat :=
  match (s.fe n).oc with
  | some x =>
    let trip := x.start + s.ocFilter n
    if s.beyondOc n x && x.start < t && t < trip && trip ≤ x.stop then some trip else none
  | none => none

end Sys2Proof.Machine
end

