-- ==== Sys2Proof/Machine/Drive.lean ====
section
/-!
DEFINITION. Edge placement, drive modes, fast protection and vectors (spec/03_drive.md).
-/
namespace Sys2Proof.Machine

/-! ## The grid (R81, R85, R110) -/

/-- A request made at cycle `t` takes effect at boundary `g` (R85). -/
def reaches (t g : Nat) : Bool := (t + 64) * 256 ≤ g

/-! ## Levels of the pins -/

/-- The level that a pin has after the edges listed. -/
def DrvSt.level (d : DrvSt) (pin : Nat) : Nat :=
  match (d.edges.filter fun e => e.pin = pin).getLast? with
  | some e => e.lvl
  | none => d.levels.getD pin 0

/-- A pin takes a level at `t`, where it does not have it already. -/
def DrvSt.put (d : DrvSt) (t pin lvl : Nat) : DrvSt :=
  if d.level pin = lvl then d else { d with edges := d.edges ++ [⟨t, pin, lvl⟩] }

/-- The last instant among the edges listed at which a gate stopped being driven high; 0 for none. -/
def DrvSt.fallAt (d : DrvSt) (pin : Nat) : Nat :=
  ((d.edges.filter fun e => e.pin = pin).foldl
    (fun x e => (e.lvl, if x.1 = 1 && e.lvl ≠ 1 then max x.2 e.t else x.2)) (d.levels.getD pin 0, 0)).2

/-- A gate rises at `t`, or at its dead time `dt` after the other gate's fall where that is later (R88). -/
def DrvSt.up (d : DrvSt) (t pin dt : Nat) : DrvSt := d.put (max t (d.fallAt (1 - pin) + dt)) pin 1

/-- The level of a pin at instant `t`. -/
def DrvSt.levelAt (d : DrvSt) (pin t : Nat) : Nat :=
  match (d.edges.filter fun e => e.pin = pin && e.t ≤ t).getLast? with
  | some e => e.lvl
  | none => d.levels.getD pin 0

/-- Edges before `t` are folded into the levels. -/
def DrvSt.compact (d : DrvSt) (t : Nat) : DrvSt :=
  { d with levels := (List.range 4).map fun p => d.levelAt p t, edges := d.edges.filter fun e => t < e.t }

/-! ## The settings that rule a channel (R117, R146) -/

/-- The least dead time of core `k`: `TG.DTMIN`, itself at least 192 sub-cycles (R86). -/
def State.dtMin (s : State) (k : Nat) : Nat := max 192 (s.fld (F.TG_DTMIN_SUB k))

/-- Dead times, and the pulse limits, in sub-cycles, of the channel that core `k` serves. -/
def State.dtHL (s : State) (k : Nat) : Nat := max (s.dtMin (s.leadOf k)) (s.effFld (F.TG_DT_DT_HL (s.leadOf k)))
def State.dtLH (s : State) (k : Nat) : Nat := max (s.dtMin (s.leadOf k)) (s.effFld (F.TG_DT_DT_LH (s.leadOf k)))
def State.blank (s : State) (k : Nat) : Nat := s.effFld (F.TG_PULSE_BLANK (s.leadOf k)) * 256
def State.tonMin (s : State) (k : Nat) : Nat := s.effFld (F.TG_PULSE_TON_MIN (s.leadOf k)) * 256

/-- The longest pulse of a cycle of `len` sub-cycles (R87, R110). -/
def State.tmax (s : State) (k len : Nat) : Nat :=
  min (s.effFld (F.TG_DMAX_FRAC (s.leadOf k)) * len / 1024) (len - s.dtHL k - s.dtLH k)

/-- The mode that rules a channel outside Calm: its leader's. -/
def State.modeOf (s : State) (n : Nat) : Nat := (s.cst (s.leadCore n)).drv.mode

/-- Vectors drive the pins of core `k`. -/
def State.vectorMode (s : State) (k : Nat) : Bool := s.fld (F.FMT_MODE_CUR k) = 6

/-! ## AUX pins (R118, R119, Table 3.7) -/

/-- The level that pin AUX`j` of core `k` has outside VECTOR mode. -/
def State.auxLevel (s : State) (k j : Nat) : Nat :=
  let cur := s.fld (F.FMT_MODE_CUR k)
  let pol := s.fld (F.FMT_AUX_POL k j)
  let inv (b : Bool) : Nat := if b then 1 - pol else pol
  match s.fld (F.FMT_AUX_SRC k j) with
  | 0 => inv false
  | 1 => inv true
  | 2 => inv ((s.cst k).play.marks.testBit (s.fld (F.FMT_AUX_MSEL k j)))
  | 3 => if cur = 1 then 0 else inv (2 ≤ cur && cur ≤ 5)
  | 4 => inv false
  | _ => 2

/-- The AUX outputs of core `k` take their levels at the boundary `g`, delayed by `DLY`; a trigger output is low as soon as VECTOR mode is
left (R259). -/
def auxEdges (k g : Nat) : Prog :=
  on (fun s => !s.vectorMode k)
    (each [0, 1] fun j => ask fun s =>
      modDrv k fun d => d.put (if s.fld (F.FMT_AUX_SRC k j) = 4 then g else g + s.fld (F.FMT_AUX_DLY k j)) (2 + j) (s.auxLevel k j))

/-- No change of pin `pin` comes after `t` by what has been scheduled so far. -/
def DrvSt.dropPin (d : DrvSt) (pin t : Nat) : DrvSt := { d with edges := d.edges.filter fun e => e.t ≤ t || e.pin ≠ pin }

/-- The ENABLE outputs of core `k` fall with the gates at `t`, whatever has been scheduled (R119). -/
def enableLow (k t : Nat) : Prog :=
  each [0, 1] fun j => on (fun s => s.fld (F.FMT_AUX_SRC k j) = 3) (modDrv k fun d => (d.dropPin (2 + j) t).put t (2 + j) 0)

/-! ## Gates (R88, R93 to R104) -/

/-- No gate changes after `t` by what has been scheduled so far. -/
def DrvSt.dropGates (d : DrvSt) (t : Nat) : DrvSt := { d with edges := d.edges.filter fun e => e.t ≤ t || 2 ≤ e.pin }

/-- The gates fall at the tail of the cycle that ends at `g`, with the dead times of that cycle: the synchronous gate at its
scheduled t5, and no gate rises at or after `g` (R104). -/
def gatesTail (k g : Nat) : Prog :=
  modDrv k fun d =>
    let dt (x : Nat) : Nat := if d.run = 4 then 0 else x
    ((d.dropGates g).put (g - dt d.dtHL) 0 0).put (g - dt d.dtLH) 1 0

/-- A pulse begins at `g` in a cycle of `len` sub-cycles: forward on GH, reverse on GL (Tables 3.3 and 3.4). A trip in
progress keeps the control switch from rising; the synchronous switch then rises after its dead time (R113). DESIGN CHOICE
(see notes/assumptions/119.md): a cycle that a trip keeps from having a pulse takes no selection sample. -/
def pulseCycle (k g len : Nat) (fwd trip : Bool) : Prog :=
  ask fun s =>
    let c := if fwd then 0 else 1
    let dtc := if fwd then s.dtLH k else s.dtHL k
    let dty := if fwd then s.dtHL k else s.dtLH k
    let p : Pulse := ⟨fwd, g, g + max (s.blank k) (s.tonMin k), g + s.tmax k len⟩
    seqs [gatesTail k g,
      modDrv k fun d =>
        if trip then { d.up (g + dty) (1 - c) dty with run := if fwd then 1 else 2, dir := if fwd then 1 else 2, pulse := none }
        else { d.up g c dtc with run := if fwd then 1 else 2, dir := if fwd then 1 else 2, pulse := some p }]

/-- The pulse in progress ends at the pad at `t`; the synchronous switch rises after its dead time (R94, R97). -/
def endPulse (k t : Nat) : Prog :=
  ask fun s =>
    match (s.cst k).drv.pulse with
    | none => .done
    | some p =>
      let c := if p.fwd then 0 else 1
      let dt := if p.fwd then (s.cst k).drv.dtHL else (s.cst k).drv.dtLH
      modDrv k fun d => { (d.put t c 0).up (t + dt) (1 - c) dt with pulse := none }

/-- A cycle with both gates low: run 0. DESIGN CHOICE (see notes/assumptions/110.md): a turnaround cycle is a cycle of neither
direction, so that no second one follows it. -/
def lowCycle (k g : Nat) : Prog := seqs [gatesTail k g, modDrv k fun d => { d with run := 0, dir := 0, pulse := none }]

/-- `ON` of a DUTY cycle, and how often it was reduced (R98). -/
def State.dutyOn (s : State) (k len : Nat) (d : Int) : Nat × Nat :=
  let on0 := if d < 0 then 0 else d.toNat * s.period k / 512
  let on1 := min on0 (s.tmax k len)
  let on2 := if 0 < on1 && on1 < s.tonMin k then 0 else on1
  (on2, (if d < 0 then 1 else 0) + (if on1 ≠ on0 then 1 else 0) + (if on2 ≠ on1 then 1 else 0))

/-- A DUTY cycle (Table 3.5, R99). DESIGN CHOICE (see notes/assumptions/111.md): with `ON` 0 after a forward cycle GL has no
edge at t5. -/
def dutyCycle (k g len : Nat) (trip : Bool) : Prog :=
  ask fun s =>
    let x := s.dutyOn k len (s.cst k).play.value
    let hl := s.dtHL k
    let lh := s.dtLH k
    seqs [
      countBy (F.FMT_CNT_B_CLIP k) x.2,
      if x.1 = 0 then
        modDrv k fun d => { ((d.dropGates g).put (g - d.dtHL) 0 0).up g 1 hl with run := 3, dir := 0, dutyOn := false, pulse := none }
      else seqs [gatesTail k g,
        modDrv k fun d =>
          let e := if trip then d.up (g + hl) 1 hl else ((d.up g 0 lh).put (g + x.1) 0 0).up (g + x.1 + hl) 1 hl
          { e with run := 3, dir := 0, dutyOn := true, pulse := none }]]

/-- The index k of the cycle that begins at `g` (R81, R100). DESIGN CHOICE (see notes/assumptions/82.md): the floor, also for
a cycle that starts off the grid. -/
def State.cycleIndex (s : State) (k g : Nat) : Int :=
  ((g : Int) - s.effFld (F.TG_PHASE_SUB k)) / ((max 1 (s.period k) * 256 : Nat) : Int)

/-- The BURST cycle that begins at `g` is active (R100, R102). -/
def State.burstActive (s : State) (n k g : Nat) : Bool :=
  let b := s.effReg (R.FMT_BURST (s.leadCore n))
  let on := fieldGet b 0 8
  let off := fieldGet b 8 8
  let shift := fieldGet b 16 8
  if on = 0 then false else if off = 0 then true
  else (s.cycleIndex k g + (shift : Int)) % ((on + off : Nat) : Int) < on

/-- The direction that a cycle with setpoint `v` runs in: 0 none, 1 forward, 2 reverse. -/
def wanted (mode : Nat) (v : Int) : Nat :=
  if mode = 2 then (if 0 < v then 1 else 0)
  else if mode = 3 then (if v < 0 then 2 else 0)
  else if 0 < v then 1 else if v < 0 then 2 else 0

/-- A cycle of core `k` that begins at `g` and takes no setpoint: the setpoint DAC of channel `n` is loaded with 0 (R139). -/
def noSetpoint (n k g : Nat) : Prog := loadDac n k g 0

/-- A peak-current cycle of core `k`: skipped, a turnaround, or a pulse (R95, R97, R101, R103). `old` is the state before the
boundary, whose settings rule until then. -/
def pcmCycle (old : State) (n k g len mode : Nat) (trip : Bool) (a : Analog) : Prog :=
  ask fun s =>
    let v := (s.cst k).play.value
    let w := wanted mode v
    let last := (s.cst k).drv.dir
    let rev := mode = 3 || (mode = 5 && (v < 0 || (v = 0 && (s.fe n).loop.rev)))
    if w = 0 then seqs [activeLoop old n k g v rev a, lowCycle k g, count (F.FMT_CNT_A_SKIP k)]
    else if last ≠ 0 && last ≠ w then seqs [loadDac n k g v, clampLoop n k, lowCycle k g, count (F.FMT_CNT_A_SKIP k)]
    else seqs [activeLoop old n k g v rev a, pulseCycle k g len (w = 1) trip]

/-- What the gates of core `k` do in the cycle that begins at `g`, in the mode in effect. DESIGN CHOICE (see
notes/assumptions/83.md): before the first vector the gates count as driven low and the AUX lines as in high impedance. -/
def driveCycle (old : State) (n k g len : Nat) (trip : Bool) (a : Analog) : Prog :=
  ask fun s =>
    match s.fld (F.FMT_MODE_CUR k) with
    | 2 => pcmCycle old n k g len 2 trip a
    | 3 => pcmCycle old n k g len 3 trip a
    | 4 => seqs [noSetpoint n k g, clampLoop n k, dutyCycle k g len trip]
    | 5 => if s.burstActive n k g then pcmCycle old n k g len 5 trip a else seqs [noSetpoint n k g, lowCycle k g]
    | 6 => seqs [noSetpoint n k g, clampLoop n k,
        when ((s.cst k).drv.run ≠ 4)
          (seqs [gatesTail k g, modDrv k fun d => { d with run := 4, dir := 0, pulse := none, lines := [0, 0, 5, 5] }])]
    | _ => seqs [noSetpoint n k g, clampLoop n k, lowCycle k g]

/-! ## Calm (R33, R91, R104, R114, R497) -/

/-- The segment-start triggers of core `k` end with VECTOR mode at `t` (sub-cycles), those too that an output delays (R259). -/
def DrvSt.cutTrigs (d : DrvSt) (t : Nat) : DrvSt :=
  { d with strobe := none, trigEnd := none, trigCut := t, trigs := d.trigs.map fun x => (x.1, min x.2 (max (t / 256) x.1)) }

/-- Core `k` of channel `n` is in Calm from instant `t` (sub-cycles) on, its gates being low: markers are 0 (R242), the AUX
outputs leave VECTOR for their sources and an ENABLE output falls with the gates (R109, R118, R119), and the loop is clamped. -/
def enterCalm (n k t : Nat) : Prog :=
  seqs [
    ask fun s => modDrv k fun d => if s.vectorMode k then { (d.cutTrigs t) with edges := d.edges.filter fun e => e.t ≤ t } else d,
    setF (F.FMT_MODE_CUR k) 1, setMarks k 0 t, enableLow k t, auxEdges k t,
    modDrv k fun d => { d with calm := none, run := 0, dir := 0, pulse := none },
    noSetpoint n k t, clampLoop n k, windowCalm n (t / 256) true,
    on (fun s => s.bit (fun w => R.PWR_PARK w) n) (setB (bitField (fun w => R.PWR_PARKED w) n)),
    ask fun s => when (s.cst k).drv.ocCalm
      (seqs [modDrv k fun d => { d with ocCalm := false }, faultSource n,
        failRecord n 4 (s.cst k).drv.ocStamp 0 0 0 (if (s.cst k).drv.ocHold then 16 else 0)])]

/-- The first vector not yet started is put at the first sequencer boundary from `t` on: vectors go on after Calm. -/
def rebaseVector (k t : Nat) : Prog :=
  ask fun s => modPlay k fun p => { p with
    substIv := p.substIv && p.subst, vec := p.vec.map fun v => { v with v0 := s.boundary t - v.k * v.per } }

/-- The sequencer of core `k` goes on at the sequencer boundary `b`: with its first step, or with a step that stalls. -/
def startStepping (k b : Nat) : Prog :=
  modSeq k fun q => { q with b := if q.stall = .none then max q.b b else q.b, since := b }

/-- Core `k` of channel `n` leaves Calm at boundary `g`: its mode takes effect, class RESUMED is offered, and the sequencer
goes on from the first sequencer boundary on (R91, R292); a boundary-scan instruction ends (R462). -/
def leaveCalm (n k g : Nat) : Prog :=
  ask fun s =>
    let b := s.boundary (divUp g 256)
    seqs [
      modDrv k fun d => { d with leave := none },
      rebaseVector k (divUp g 256), windowCalm n (g / 256) false,
      setF (F.FMT_MODE_CUR k) (s.modeOf n), boundaryEnds,
      when (s.leader n = n) (seqs [offerAt n 11 (divUp g 256), startStepping k b])]

/-! ## Requests at a boundary (R85, R90, R148, R149, R160, R225) -/

/-- The requests of core `k` that take effect at boundary `g`. -/
def State.dueReqs (s : State) (k g : Nat) : List Req := s.dev.reqs.filter fun r => r.core = k && reaches r.at_ g

/-- Values that follow their written values take effect. -/
def applyRegs (l : List Req) : Prog :=
  each l fun r => match r.want with
    | .reg key w => setEff key w
    | _ => .done

/-- A request among `l` changes the period or the phase in effect of core `k`; a gang member keeps a period of its own without
using it (R117). -/
def State.gridChanges (s : State) (k : Nat) (l : List Req) : Bool :=
  l.any fun r => match r.want with
    | .reg key w => ((key = R.TG_PERIOD k && s.leadOf k = k) || key = R.TG_PHASE k) && w ≠ s.effReg key
    | _ => false

/-- The loop trims of an APPLY that take effect at boundary `g` (R514). -/
def applyAtBoundary (n g : Nat) : Prog :=
  ask fun s =>
    match (s.fe n).trims with
    | none => .done
    | some t => when (t.loop && reaches t.at_ g) (seqs [
        setEff (R.CAL_CH_LOOPT n) t.loopt, useMisc n t.misc (~~~miscWidths),
        modFe n fun f => { f with trims := if t.conv || t.width then some { t with loop := false } else none },
        when (!(t.conv || t.width)) (clrB (F.CAL_CH_TST_PEND n))])

/-- The last of a list of requests, by a choice. -/
def lastReq {α : Type} (l : List Req) (f : Want → Option α) : Option α := (l.filterMap fun r => f r.want).getLast?

def Want.stepMode : Want → Option Nat | .modeStep m => some m | _ => none
def Want.regMode : Want → Option Nat | .modeReg m => some m | _ => none
def Want.stepWord (taper : Bool) : Want → Option Word | .wordStep t w => if t = taper then some w else none | _ => none
def Want.regWord (taper : Bool) : Want → Option Word | .wordReg t w => if t = taper then some w else none | _ => none

/-- A mode is requested and prevails. -/
def useMode (k m : Nat) : Prog := seqs [setF (F.FMT_MODE_MODE k) m, modDrv k fun d => { d with mode := m }]

/-- The modes that steps and register writes request for this boundary (R90). -/
def modeRequests (k : Nat) (l : List Req) : Prog :=
  match lastReq l Want.stepMode, lastReq l Want.regMode with
  | some m, r => seqs [useMode k m, when r.isSome (seqs [setB (F.FMT_STAT_MODE_LOST k), coreEvent k])]
  | none, some m => useMode k m
  | none, none => .done

/-- The mode that the header of a segment requests at its first boundary (R225). -/
def headerMode (k : Nat) (l : List Req) (m : Nat) : Prog :=
  if m = 15 then .done
  else if (lastReq l Want.stepMode).isSome then setB (F.PLAY_STAT_HDR_LOST k)
  else seqs [useMode k m,
    when (lastReq l Want.regMode).isSome (seqs [setB (F.FMT_STAT_MODE_LOST k), coreEvent k])]

/-- A limit word (`taper` false) or taper word takes effect at a boundary (R148, R149). -/
def wordRequests (k : Nat) (l : List Req) (taper : Bool) (header : Option Word) : Prog :=
  let header := header.filter fun w => !bit w 31
  let higher := (lastReq l (Want.stepWord taper)).orElse fun _ => header
  let reg := lastReq l (Want.regWord taper)
  seqs [
    when (higher.isSome && reg.isSome) (setB (F.LOOP_STAT_VLIM_LOST k)),
    match higher.orElse fun _ => reg with
    | some w => if taper then setF (F.LOOP_TAPERNOW_MAG k) (fieldGet w 0 18) else setF (F.LOOP_NOW_VLIM k) (fieldGet w 0 20)
    | none => .done]

/-- The header of a segment that has begun since the last boundary, on the core that leads its gang. -/
def State.freshHeader (s : State) (k : Nat) : Option Header :=
  if (s.cst k).play.fresh && s.leadOf k = k then some (s.header k (s.cst k).play.slot) else none

/-! ## Overcurrent counting (R113, R114) -/

/-- The cycle of core `k` contains a trip: `OC` is set, and the first trip of the cycle counts; `OC_LIMIT` cycles in a row, by
the core's own limit, ask for Calm (R114, R117). The event source is raised by the first of the run (R125). -/
def countTrip (n k : Nat) : Prog :=
  ask fun s =>
    let d := (s.cst k).drv
    let limit := s.effFld (F.FMT_OCLIM_OC_LIMIT k)
    seqs [
      setB (F.FMT_STAT_OC k),
      when (!d.ocTrip) (seqs [
        count (F.FMT_CNT_B_OC k),
        modDrv k fun d => { d with ocTrip := true, ocRun := d.ocRun + 1 },
        when (d.ocRun = 0) (eventSource n),
        when (limit ≠ 0 && limit ≤ d.ocRun + 1 && !s.calm n && !d.ocCalm)
          (seqs [calmRequest n, modDrv k fun d => { d with ocCalm := true }])])]

/-- A boundary opens the next cycle of the count; `trip` tells that a trip is in progress there, which in VECTOR only sets the
status bit (R113, R116). -/
def tripBoundary (n k : Nat) (trip : Bool) : Prog :=
  seqs [
    modDrv k fun d => { d with ocRun := if d.ocTrip then d.ocRun else 0, ocTrip := false },
    when trip (ask fun s => if s.vectorMode k then setB (F.FMT_STAT_OC k) else countTrip n k)]

/-! ## The boundary -/

/-- The limits clash in a cycle of `len` sub-cycles (R89). -/
def State.clashes (s : State) (k len : Nat) : Bool := s.tmax k len ≤ s.blank k || s.tmax k len ≤ s.tonMin k

/-- A clash is recorded (R89). -/
def limitClash (k len : Nat) : Prog := on (fun s => s.clashes k len) (setB (F.TG_STAT_LIMCLASH k))

/-- The limits clash in the cycle that core `k` is in. -/
def State.clashNow (s : State) (k : Nat) : Bool :=
  s.clashes k (match (s.cst k).drv.next with | some x => x - (s.cst k).drv.g | none => s.period k * 256)

/-- The mode in effect after the Calm decisions of a boundary. -/
def useCur (n k : Nat) : Prog := ask fun s => when (!s.calm n) (setF (F.FMT_MODE_CUR k) (s.modeOf n))

/-- Leaving VECTOR at `g` drives both gates low, and nothing that a vector scheduled comes after (R109). -/
def leaveVector (k g : Nat) : Prog :=
  on (fun s => (s.cst k).drv.run = 4 && !s.vectorMode k)
    (modDrv k fun d =>
      let d := { d with edges := d.edges.filter fun e => e.t ≤ g }
      { ((d.put g 0 0).put g 1 0).cutTrigs g with run := 0 })

/-- Both gates of core `k` go low at `t`, whatever has been scheduled. -/
def gatesLow (k t : Nat) : Prog := modDrv k fun d => ((d.dropGates t).put t 0 0).put t 1 0

/-- Channels may leave Calm: the control store is locked (R466), and the device is not in its manufacturing mode (R541). -/
def State.mayRun (s : State) : Bool := s.dev.bus.locked && !s.dev.rst.testMode

/-! ## Fast protection (R113, R115, R116) -/

/-- An overvoltage trip of channel `n`, stamped `stamp`, whose edges reach the pads at `pad` (R115, R116): outside Calm it drives
both gates low there, whatever ends the pulse taking its selection sample (R151), and the channel enters Calm. -/
def ovTrip (n stamp pad : Nat) (a : Analog) : Prog :=
  ask fun s =>
    let k := s.core n
    if s.vectorMode k then setB (F.FMT_STAT_OV k)
    else seqs [
      setB (F.FMT_STAT_OV k), faultSource n, failRecord n 3 stamp 0 0 0 (if s.holdover then 16 else 0),
      when (s.leads k) (offerTrigger k 23 39 stamp),
      calmRequest n,
      when (!s.calm n) (seqs [
        modDrv k fun d => { d with tripCalm := some (stamp / 256) },
        advance (pad / 256),
        match (s.cst k).drv.pulse with
        | some p => selectionSample n (min pad p.tmax) a
        | none => .done,
        gatesLow k pad, modDrv k fun d => { d with ovLow := true, frozeAct := false },
        enterCalm n k pad])]

/-- At boundary `g` the excursion at the overvoltage comparator of channel `n` trips: its filter time ends after the boundary (R158), the
channel leaves Calm (`again`), or the threshold that takes effect makes it one (R159); `before` tells that it was beyond the old
threshold. -/
def ovAtBoundary (n g : Nat) (before again : Bool) (a : Analog) : Prog :=
  ask fun s =>
    match (s.fe n).ov with
    | none => .done
    | some x =>
      let filt := s.ovFilter n
      let from_ := if again && before then x.start else g
      let late := x.start < g && g < x.start + filt
      if s.beyondOv n x && before && late then
        when (x.start + filt ≤ x.stop)
          (seqs [advance ((x.start + filt) / 256), ovTrip n x.stamp (x.start + filt + x.delay) a])
      else when (s.beyondOv n x && x.lasts g && from_ + filt ≤ x.stop && (again || !before))
        (ovTrip n from_ (g + filt + x.delay) a)

/-- An overvoltage excursion was beyond the threshold in effect. -/
def State.ovBefore (s : State) (n : Nat) : Bool := match (s.fe n).ov with | some x => s.beyondOv n x | none => false

/-! ## The boundary (R81) -/

/-- The dead times in effect rule the cycle that begins (R111). -/
def latchDeadTimes (k : Nat) : Prog := ask fun s => modDrv k fun d => { d with dtHL := s.dtHL k, dtLH := s.dtLH k }

/-- Settings in effect at boundary `g` of channel `n`, and the cycle they give it: the next boundary, half a new period away at
least where `g` lies off the new grid (R85, R110). -/
def openCycle (n k g : Nat) (l : List Req) (changes : Bool) (go : Nat → Prog) : Prog :=
  seqs [
    dev fun d => { d with reqs := d.reqs.filter fun r => !(r.core = k && reaches r.at_ g) },
    applyRegs l, applyAtBoundary n g,
    ask fun s =>
      let per := s.period k
      let phase := s.effFld (F.TG_PHASE_SUB k)
      let onGrid := !changes && gridFrom per phase g = g
      let next := if onGrid then g + per * 256 else gridFrom per phase (g + per * 128)
      seqs [
        modDrv k fun d => { d.compact d.g with next := some next, g := g, ovLow := false },
        when (!onGrid) (setB (F.TG_STAT_TRANS k)), limitClash k (next - g),
        go (next - g)]]

/-- The header of a segment that has begun asks for its mode and words (R225, R226). -/
def headerRequests (k : Nat) (l : List Req) : Prog :=
  ask fun s =>
    let h := s.freshHeader k
    seqs [
      modPlay k fun p => { p with fresh := false },
      match h with | some h => headerMode k l (h.mode % 16) | none => .done,
      wordRequests k l false (h.map fun h => BitVec.ofNat 32 h.vlim),
      wordRequests k l true (h.map fun h => BitVec.ofNat 32 h.taper)]

/-- Core `k` of channel `n` enters Calm at boundary `g` (R104). -/
def calmAt (n k g : Nat) : Prog := seqs [gatesTail k g, enterCalm n k g]

/-- An overcurrent trip ends the pulse of a DUTY cycle at `t`. -/
def endDuty (k t : Nat) : Prog :=
  modDrv k fun d =>
    if d.run = 3 && d.levelAt 0 t = 1 then ((d.dropGates t).put t 0 0).up (t + d.dtHL) 1 d.dtHL else d

/-- An overcurrent excursion of channel `n` trips, its filter time having passed at `trip`: the cycle is counted, the capture is offered a
trigger with the stamp of the crossing, and the edge ends the pulse at the pad (R113, R116, R155, R158). -/
def ocTrip (n k trip : Nat) (x : Excursion) (a : Analog) : Prog :=
  ask fun s =>
    let pad := trip + x.delay
    seqs [advance (trip / 256),
      if s.vectorMode k then setB (F.FMT_STAT_OC k)
      else seqs [
        modDrv k fun y => { y with ocStamp := x.stamp, ocHold := s.holdover },
        countTrip n k,
        when (s.leads k) (offerTrigger k 22 38 x.stamp),
        match (s.cst k).drv.pulse with
        | some p => when (pad ≤ p.tmax) (seqs [advance (pad / 256), selectionSample n pad a, endPulse k pad])
        | none => endDuty k pad]]

/-- An overcurrent excursion that began before `g` and whose filter time ends after it trips in the cycle that begins there. -/
def ocLate (n k g : Nat) (a : Analog) : Prog :=
  ask fun s =>
    match (s.fe n).oc, s.ocTripAfter n g with
    | some x, some trip => ocTrip n k trip x a
    | _, _ => .done

/-- Boundary `g` of channel `n` on core `k`: what R81 places there, in order. -/
def boundaryAt (n k g : Nat) (a : Analog) : Prog :=
  ask fun old =>
    let l := old.dueReqs k g
    let calmDue := match (old.cst k).drv.calm with | some t => reaches t g | none => false
    let leaveDue := match (old.cst k).drv.leave with | some t => reaches t g | none => false
    let wasCalm := old.calm n
    let leaves := leaveDue && wasCalm && !calmDue && !old.parked n && old.mayRun
    seqs [
      followLoop n g a,
      openCycle n k g l (old.gridChanges k l) fun len => seqs [
        loopStatus n k g,
        when (calmDue && !wasCalm) (calmAt n k g),
        when (calmDue && wasCalm) (modDrv k fun d => { d with calm := none, ocCalm := false }),
        modeRequests k l,
        when leaves (leaveCalm n k g),
        when (leaveDue && !wasCalm && !calmDue)
          (seqs [modDrv k fun d => { d with leave := none }, startStepping k (old.boundary (divUp g 256))]),
        playBoundary n k g len,
        on (fun s => !s.calm n && ((s.cst k).drv.calm.any fun t => reaches t g)) (calmAt n k g),
        headerRequests k l,
        useCur n k, leaveVector k g,
        ask fun s => seqs [
          tripBoundary n k (s.ocTripped n g), driveCycle old n k g len (s.ocTripped n g) a],
        latchDeadTimes k, auxEdges k g, ocLate n k g a,
        ovAtBoundary n g (old.ovBefore n) leaves a]]

/-- In holdover the gates go low at the next boundary counted in backup cycles (R75). -/
def holdoverLow (n k : Nat) (a : Analog) : Prog :=
  on (fun s => s.holdover && !s.calm n)
    (ask fun s =>
      let t := (s.cst k).drv.g / 256 + divUp (s.period k) 30 * 30
      seqs [advance t,
        ask fun s => seqs [
          followLoop n s.nowSub a, gatesLow k s.nowSub,
          modDrv k fun d => { d with frozeAct := d.frozeAct || d.calm.isNone, leave := none, next := none },
          enterCalm n k s.nowSub]])

/-- A channel reaches its next boundary (R81). -/
def progSwitchingCycle (n : Nat) (a : Analog) : Prog :=
  ask fun s =>
    let k := s.core n
    if s.valid then seqs [advance (s.nextBoundary k / 256), boundaryAt n k (s.nextBoundary k) a]
    else holdoverLow n k a

/-! ## Pulse ends (R93, R94, R96, R97, R113) -/

/-- The peak comparator of channel `n`, negative-peak in a reverse cycle, is seen to cross at `c`, in sub-cycles of the device's
own count: where its input has reached REF there, the edge reaches the pad `a.delay` later and ends the pulse (R93, R137). -/
def progPeakCrossing (n c : Nat) (a : Analog) : Prog :=
  ask fun s =>
    let k := s.core n
    let t := s.lineTime c
    match (s.cst k).drv.pulse with
    | none => .done
    | some p =>
      when (p.minEnd ≤ t && t + a.delay ≤ p.tmax) (seqs [
        followLoop n t a,
        on (fun s => s.crossed n t p.fwd a)
          (seqs [advance ((t + a.delay) / 256), selectionSample n (t + a.delay) a, endPulse k (t + a.delay)])])

/-- The pulse of channel `n` reaches G + TMAX (R93, R96). -/
def progPulseTmax (n : Nat) (a : Analog) : Prog :=
  ask fun s =>
    let k := s.core n
    match (s.cst k).drv.pulse with
    | none => .done
    | some p =>
      seqs [advance (p.tmax / 256), selectionSample n p.tmax a, endPulse k p.tmax, count (F.FMT_CNT_A_DLIM k)]

/-- An instant (sub-cycles) comes before the next boundary of core `k`, or no boundary comes. -/
def State.beforeNext (s : State) (k t : Nat) : Bool := !s.valid || t < s.nextBoundary k

/-- The overcurrent comparator of channel `n` crosses at `raw`, in sub-cycles of the device's own count, and stays beyond its
threshold for `lasts`: an excursion that persists for the filter time trips (R113, R116, R155, R158); where a boundary comes before, the
trip falls in the cycle that begins there. -/
def progOvercurrentTrip (n raw lasts : Nat) (a : Analog) : Prog :=
  ask fun s =>
    let k := s.core n
    let t := s.lineTime raw
    let x : Excursion := ⟨t, t + lasts, a.shunt, a.vref, a.delay, s.stampTime raw⟩
    let trip := t + s.ocFilter n
    seqs [advance (t / 256), modFe n fun f => { f with oc := some x },
      when (s.beyondOc n x && s.ocFilter n ≤ lasts && s.beforeNext k trip) (ocTrip n k trip x a)]

/-- The overvoltage comparator of channel `n` crosses at `raw`, in sub-cycles of the device's own count, and stays beyond its
threshold for `lasts` (R115, R116, R156, R158). -/
def progOvervoltageTrip (n raw lasts : Nat) (a : Analog) : Prog :=
  ask fun s =>
    let t := s.lineTime raw
    let x : Excursion := ⟨t, t + lasts, a.cell, a.vref, a.delay, s.stampTime raw⟩
    let trip := t + s.ovFilter n
    seqs [advance (t / 256), modFe n fun f => { f with ov := some x },
      when (s.beyondOv n x && s.ovFilter n ≤ lasts && s.beforeNext (s.core n) trip)
        (seqs [advance (trip / 256), ovTrip n x.stamp (trip + a.delay) a])]

/-! ## Register writes of these chapters -/

/-- `FMT.MODE.MODE` of core `k` is written with a code that is not reserved (R90, R91). DESIGN CHOICE (see
notes/assumptions/114.md): 1 written for a spare core, which serves no channel, changes nothing. -/
def effFmtMode (k m : Nat) : Prog :=
  ask fun s =>
    if m = 1 then (match s.channelOf k with | some n => calmRequest n | none => .done)
    else seqs [setF (F.FMT_MODE_MODE k) m,
      if (s.channelOf k).isSome then want k s.now (.modeReg m) else modDrv k fun d => { d with mode := m }]

/-- `FE[n].SCALE.GAIN` is written (R131). -/
def effGain (n : Nat) (w : Word) : Prog :=
  ask fun s => if s.calm n || s.parked n then setR (R.SCALE_GAIN n) w else setB (F.SCALE_STAT_BUSY n)

/-- `LOOP.VLIMREQ` of core `k` is written (R148). -/
def effVlimReq (k : Nat) (w : Word) : Prog :=
  seqs [setR (R.LOOP_VLIMREQ k) w,
    on (fun s => !bit w 31 && (s.channelOf k).isSome) (ask fun s => want k s.now (.wordReg false w))]

/-- `LOOP.TAPERREQ` of core `k` is written (R148). -/
def effTaperReq (k : Nat) (w : Word) : Prog :=
  seqs [setR (R.LOOP_TAPERREQ k) w,
    on (fun s => !bit w 31 && (s.channelOf k).isSome) (ask fun s => want k s.now (.wordReg true w))]

/-! ## VECTOR mode (R105 to R109, R257 to R259) -/

/-- The state code of a line, "don't care" and reserved codes resolved against the previous vector's (Table 3.6). -/
def resolveLine (prev code : Nat) : Nat :=
  if code = 4 then (if prev = 2 || prev = 3 then 5 else prev) else if 6 ≤ code then 5 else code

/-- The level that a resolved code drives. -/
def codeLevel (c : Nat) : Nat := if c ≤ 1 then c else 2

/-- The pins of core `k` take the vector `w` at `t` (sub-cycles): falls first, then rises (R106 to R108). With a late strobe the
expect codes count as "don't care". A reserved code on line 3 does not count while AUX1 carries the trigger. DESIGN CHOICE (see
notes/assumptions/75.md). -/
def driveVector (n k w t : Nat) (late : Bool) : Prog :=
  ask fun s =>
    let codes := (List.range 4).map fun i =>
      let c := w / 16 ^ i % 16
      if late && (c = 2 || c = 3) then 4 else c
    let trig := s.fld (F.FMT_AUX_SRC k 1) = 4
    let seen := if trig then codes.take 3 else codes
    let lines := (List.range 4).map fun i => resolveLine ((s.cst k).drv.lines.getD i 5) (codes.getD i 5)
    let both := lines.getD 0 5 = 1 && lines.getD 1 5 = 1
    let lines := if both then [0, 0] ++ lines.drop 2 else lines
    let gh := codeLevel (lines.getD 0 5)
    let gl := codeLevel (lines.getD 1 5)
    seqs [
      when (seen.any fun c => 6 ≤ c) (setB (F.FMT_STAT_VEC_BAD k)),
      when both (seqs [setB (F.FMT_STAT_XLOCK k), faultSource n]),
      modDrv k fun d =>
        let d := { d with lines := lines, edges := d.edges.filter fun e => e.t ≤ t || 2 ≤ e.pin }
        let d := if gh = 1 then d else d.put t 0 gh
        let d := if gl = 1 then d else d.put t 1 gl
        let d := if gh = 1 then d.up t 0 d.dtLH else d
        let d := if gl = 1 then d.up t 1 d.dtHL else d
        let d := d.put t 2 (codeLevel (lines.getD 2 5))
        if trig then d else d.put t 3 (codeLevel (lines.getD 3 5))]

/-- A segment-start trigger begins at cycle `v0` (R259). -/
def startTrigger (k v0 : Nat) : Prog :=
  ask fun s =>
    let w := (s.header (s.leadOf k) (s.cst k).play.slot).trigw
    when (w ≠ 0 && s.vectorMode k) (seqs [
      modDrv k fun d =>
        let e := max (d.trigEnd.getD 0) (v0 + 8 * w)
        { d with
          trigEnd := some e
          trigs := match d.trigEnd, d.trigs with
            | some _, (b, _) :: r => (b, e) :: r
            | _, r => (v0, e) :: (r.filter fun x => decide (v0 < x.2 + 256)) },
      when (s.fld (F.FMT_AUX_SRC k 1) = 4)
        (modDrv k fun d => d.put (v0 * 256 + s.fld (F.FMT_AUX_DLY k 1)) 3 (1 - s.fld (F.FMT_AUX_POL k 1)))])

/-- Vector `v.k` of the segment of core `k` starts (R106, R241, R246, R257). -/
def oneVector (n k : Nat) (v : Vec) : Prog :=
  ask fun s =>
    let t := v.v0 + v.k * v.per
    let x := s.sampleWord k v.k
    let strb := s.fld (F.FMT_VEC_STRB k)
    seqs [
      advance t,
      eccRead (s.slotAddr k (s.cst k).play.slot + 32 + 4 * v.k) 4,
      setMarks k (x / 2 ^ 18 % 16) (t * 256),
      when (s.vectorMode k) (seqs [
        driveVector n k (x % 65536) (t * 256 + s.fld (F.FMT_VEC_DRV k)) (v.per * 256 ≤ strb),
        if strb < v.per * 256 then modDrv k fun d => { d with strobe := some (t * 256 + strb, v.k) }
        else seqs [modDrv k fun d => { d with strobe := none }, setB (F.FMT_STAT_STRB_LATE k), eventSource n]]),
      when (v.k = 0) (startTrigger k t),
      modPlay k fun p => { p with vec := some { v with k := v.k + 1 }, idx := v.k, seen := v.k },
      when (v.k = s.decisionSample k) (decide_ n k)]

/-- The first vector of a segment of core `k` that has just begun at its V_0. -/
def firstVector (n k : Nat) : Prog :=
  ask fun s => match (s.cst k).play.vec with | some v => oneVector n k v | none => .done

/-- The last vector of the segment of core `k` ends at cycle `t`: on a single channel vectors of a committed VECTOR segment, or of a
hold segment in its place, follow back to back; else the lines keep their drive and the markers are 0 (R242, R243, R257, R258). -/
def vectorEnd (n k t : Nat) : Prog :=
  ask fun s =>
    let p := (s.cst k).play
    seqs [
      advance t,
      endSegment k,
      match p.next with
      | some i => seqs [
          modPlay k fun q => { q with vecEnd := some t, lull := s.ganged n, lullFrom := t * 256 },
          when (!s.ganged n && s.vectorSlot k i) (startSegment n k i (t * 256))]
      | none => modPlay k fun q => { q with vecEnd := none, dwell := true, name := q.name.map fun x => (x.1, t) },
      firstVector n k,
      on (fun s => !(s.cst k).play.playing) (setMarks k 0 (t * 256))]

/-- The next instant of the vectors of channel `n` (R257): a vector starts, the last one ends, or after a gang's lull the
vectors of the committed segment begin. -/
def progVectorStart (n : Nat) : Prog :=
  on (fun s => s.valid && !s.calm n)
    (ask fun s =>
      let k := s.core n
      let p := (s.cst k).play
      match p.vec with
      | some v => if v.k < v.len then oneVector n k v else vectorEnd n k (v.v0 + v.len * v.per)
      | none =>
        match p.next, p.vecEnd with
        | some i, some e =>
          when (!p.playing && p.lull && s.vectorSlot (s.leadOf k) i && !p.subNext)
            (seqs [startSegment n k i ((e + 512) * 256), firstVector n k])
        | _, _ => .done)

/-- The strobe of the vector in progress of channel `n`; `levels` are the pad levels of lines 3 to 0 (R106, R109). -/
def progVectorStrobe (n levels : Nat) : Prog :=
  ask fun s =>
    let k := s.core n
    match (s.cst k).drv.strobe with
    | none => .done
    | some (t, i) =>
      let w := s.sampleWord k i % 65536
      let fails := (List.range 4).foldl (fun m j =>
        let c := w / 16 ^ j % 16
        let bad := (c = 2 && levels.testBit j) || (c = 3 && !levels.testBit j)
        if bad && !(j = 3 && s.fld (F.FMT_AUX_SRC k 1) = 4) then m + 2 ^ j else m) 0
      seqs [advance (t / 256), modDrv k fun d => { d with strobe := none },
        when (fails ≠ 0)
          (failRecord n 2 t 0 (w + 2 ^ 16 * (levels % 16) + 2 ^ 24 * fails) i (if s.holdover then 16 else 0))]

/-- The end of the segment-start trigger of channel `n` (R259). -/
def progTriggerEnd (n : Nat) : Prog :=
  ask fun s =>
    let k := s.core n
    match (s.cst k).drv.trigEnd with
    | none => .done
    | some e => seqs [advance e,
        modDrv k fun d => { d with trigEnd := none },
        when (s.fld (F.FMT_AUX_SRC k 1) = 4 && s.vectorMode k)
          (modDrv k fun d => d.put (e * 256 + s.fld (F.FMT_AUX_DLY k 1)) 3 (s.fld (F.FMT_AUX_POL k 1)))]

/-- The level of pin TRIGOUT`j` at `raw`, in sub-cycles of the device's own count: high while a segment-start trigger of its channel
lasts, delayed by `DLY`, and never past the end of VECTOR mode (R259, R260); low from power-up on (R538). -/
def State.trigOut (s : State) (j raw : Nat) : Bool :=
  let t := s.lineTime raw
  let dly := s.fld (F.EVT_TRIGOUT_DLY j)
  let cut := (s.cst (s.core (s.fld (F.EVT_TRIGOUT_CH j)))).drv.trigCut
  let high := s.flg (F.EVT_TRIGOUT_EN j) &&
    ((s.cst (s.core (s.fld (F.EVT_TRIGOUT_CH j)))).drv.trigs.any fun x =>
      x.1 * 256 + dly ≤ t && t < x.2 * 256 + dly && (cut ≤ x.1 * 256 || t < cut))
  s.dev.rst.por = 0 && high != s.flg (F.EVT_TRIGOUT_POL j)

end Sys2Proof.Machine
end

