-- ==== Sys2Proof/Machine/Profiles.lean ====
section
/-!
DEFINITION. Profile tables of the loaded image and the selection of their entries (R43, R121, R163, R196, R342, R343).
-/
namespace Sys2Proof.Machine

/-- The number that bytes `a` to `a + n − 1` of an entry hold (R7). -/
def entryNum (e : List Byte) (a n : Nat) : Nat := leNat ((e.drop a).take n)

/-- `w` holds no reserved bit of register `r` (R43). -/
def noReserved (r : RegId) (w : Nat) : Bool := w < 2 ^ 32 && (BitVec.ofNat 32 w &&& ~~~r.mask) = 0

/-- A reserved encoding is written: the field keeps its value and `BADVAL` of the block is set (R13). -/
def badVal (block : Nat) : Prog := setB (F.BSTAT_BADVAL block)

/-! ## Ranges that registers and profile entries share -/

/-- A switching period that R82 accepts. -/
def periodOk (p : Nat) : Bool := 600 ≤ p && p ≤ 30000 && p % 4 = 0

/-- A window that R170 accepts. -/
def windowOk (w : Nat) : Bool := 8192 ≤ w && w ≤ 2097152 && w % 32 = 0

/-- A grid offset that R171 accepts for window `w`. -/
def offsetOk (w ofs : Nat) : Bool := ofs % 8 = 0 && ofs ≤ max w 12000 - 8

/-- A capture depth that R305 accepts. -/
def depthOk (d : Nat) : Bool := d % 32 = 0 && d ≤ 32768

/-! ## Entries -/

/-- A drive profile entry that may be selected (Table 3.8). -/
def driveEntryOk (e : List Byte) : Bool :=
  e.length = 16 && periodOk (entryNum e 0 4) && entryNum e 8 2 < 1024 && entryNum e 10 2 < 1024
    && 1 ≤ entryNum e 12 2 && entryNum e 12 2 ≤ 1000 && entryNum e 15 1 = 0

/-- A loop profile entry that may be selected (R163). -/
def loopEntryOk (e : List Byte) : Bool :=
  e.length = 8 && noReserved .VLOOP_CFG (entryNum e 0 4) && noReserved .PROT_FILT (entryNum e 6 1) && entryNum e 7 1 = 0

/-- A conversion profile entry that may be selected (Table 5.7). -/
def convEntryOk (e : List Byte) : Bool :=
  e.length = 16 && windowOk (entryNum e 0 4) && offsetOk (entryNum e 0 4) (entryNum e 4 4)
    && noReserved .CONV_CFG (entryNum e 8 4) && entryNum e 12 4 = 0

/-- A capture profile entry that may be selected (Table 9.8). -/
def captureEntryOk (e : List Byte) : Bool :=
  e.length = 16 && depthOk (entryNum e 0 2) && entryNum e 3 1 % 32 ≤ 27 && entryNum e 3 1 / 32 ≤ 2
    && entryNum e 8 1 ≤ 3 && entryNum e 9 7 = 0

/-- A mask descriptor that may be loaded (R343). -/
def maskEntryOk (e : List Byte) : Bool :=
  e.length = 16 && noReserved .MASK_CFG (entryNum e 0 4) && fieldGet (BitVec.ofNat 32 (entryNum e 0 4)) 20 3 ≤ 5
    && fieldGet (BitVec.ofNat 32 (entryNum e 0 4)) 16 2 ≤ 2 && entryNum e 4 4 < 2 ^ 24 && entryNum e 8 2 ≤ 1024
    && entryNum e 10 2 = 0

/-- A profile load or a raw write: the registers no longer hold raw values, or do. -/
def unraw (ks : List RegKey) : Prog :=
  dev fun d => { d with bus := { d.bus with raw := d.bus.raw.filter fun k => !ks.contains k } }

/-- A dead time, clamped up to `TG.DTMIN` (R86). -/
def State.deadTime (s : State) (k dt : Nat) : Nat := max dt (s.dtMin k)

/-- `TG.DT` of core `k` takes two dead times (R86). -/
def effDt (k lh hl : Nat) : Prog :=
  ask fun s => seqs [
    when (s.deadTime k lh ≠ lh || s.deadTime k hl ≠ hl) (setB (F.TG_STAT_CLAMPED k)),
    setLater k (R.TG_DT k) (fieldPut (fieldPut 0 16 16 (s.deadTime k lh)) 0 16 (s.deadTime k hl))]

/-- Dead times of core `k` that lie below `TG.DTMIN` are clamped (R86). -/
def clampDt (k : Nat) : Prog :=
  ask fun s =>
    let lh := s.fld (F.TG_DT_DT_LH k)
    let hl := s.fld (F.TG_DT_DT_HL k)
    when (s.deadTime k lh ≠ lh || s.deadTime k hl ≠ hl) (effDt k lh hl)

/-- The registers that a drive profile covers. -/
def driveKeys (k : Nat) : List RegKey := [R.TG_PERIOD k, R.TG_DT k, R.TG_PULSE k, R.TG_DMAX k, R.FMT_OCLIM k]

/-- Drive profile `i` may be selected. -/
def State.driveOk (s : State) (i : Nat) : Bool := i < 16 && driveEntryOk (s.dev.image.drive.get [] i)

/-- Drive profile `i` is selected in core `k` (R121, R123). DESIGN CHOICE (see notes/assumptions/112.md): an entry whose
`DMAX` fails R87 sets `BADVAL` alone. -/
def selectDrive (k i : Nat) : Prog :=
  ask fun s =>
    let e := s.dev.image.drive.get [] i
    if s.driveOk i then seqs [
      setF (F.TG_PROF_IDX k) i, unraw (driveKeys k),
      setLater k (R.TG_PERIOD k) (BitVec.ofNat 32 (entryNum e 0 4)),
      effDt k (entryNum e 6 2) (entryNum e 4 2),
      setLater k (R.TG_PULSE k) (fieldPut (fieldPut 0 16 10 (entryNum e 10 2)) 0 10 (entryNum e 8 2)),
      setLater k (R.TG_DMAX k) (BitVec.ofNat 32 (entryNum e 12 2)),
      setLater k (R.FMT_OCLIM k) (BitVec.ofNat 32 (entryNum e 14 1))]
    else badVal (0x100 + k)

/-- The registers that a loop profile covers. -/
def loopKeys (n : Nat) : List RegKey := [R.VLOOP_CFG n, R.VLOOP_SCOMP n, R.PROT_FILT n]

/-- Loop profile `i` is selected in front end `n` (R163). -/
def selectLoop (n i : Nat) : Prog :=
  ask fun s =>
    let e := s.dev.image.loop.get [] i
    let k := s.core n
    if i < 16 && loopEntryOk e then seqs [
      setF (F.VLOOP_PROF_IDX n) i, unraw (loopKeys n),
      setLater k (R.VLOOP_CFG n) (BitVec.ofNat 32 (entryNum e 0 4)),
      setLater k (R.VLOOP_SCOMP n) (BitVec.ofNat 32 (entryNum e 4 2)),
      setLater k (R.PROT_FILT n) (BitVec.ofNat 32 (entryNum e 6 1))]
    else badVal (0x180 + n)

/-- Conversion profile `i` is selected in core `k` (R196). -/
def selectConv (k i : Nat) : Prog :=
  ask fun s =>
    let e := s.dev.image.conv.get [] i
    if i < 16 && convEntryOk e then seqs [
      setF (F.CONV_PROF_IDX k) i, unraw [R.CONV_WIN k, R.CONV_OFS k, R.CONV_CFG k],
      setR (R.CONV_WIN k) (BitVec.ofNat 32 (entryNum e 0 4)), setR (R.CONV_OFS k) (BitVec.ofNat 32 (entryNum e 4 4)),
      setR (R.CONV_CFG k) (BitVec.ofNat 32 (entryNum e 8 4)), gridWritten k,
      nextWindow k (R.CONV_CFG k)]
    else badVal (0x100 + k)

/-- Capture profile `i` may be selected. -/
def State.captureOk (s : State) (i : Nat) : Bool := i < 16 && captureEntryOk (s.dev.image.capture.get [] i)

/-- Capture profile `i` is selected in core `k` (R342). -/
def selectCapture (k i : Nat) : Prog :=
  ask fun s =>
    let e := s.dev.image.capture.get [] i
    let t := entryNum e 3 1
    if s.captureOk i then seqs [
      setF (F.CAP_PROF_IDX k) i, unraw [R.CAP_CFG k, R.CAP_POST k, R.CAP_OPT k],
      setF (F.CAP_CFG_DEPTH k) (entryNum e 0 2), setF (F.CAP_CFG_DEC k) (entryNum e 2 1),
      setF (F.CAP_CFG_TSRC k) (t % 32), setF (F.CAP_CFG_TEDGE k) (t / 32),
      setR (R.CAP_POST k) (BitVec.ofNat 32 (entryNum e 4 4)), setR (R.CAP_OPT k) (BitVec.ofNat 32 (entryNum e 8 1))]
    else badVal (0x100 + k)

/-- The registers that a mask descriptor covers. -/
def maskKeys (k i : Nat) : List RegKey := [R.MASK_CFG k i, R.MASK_ADDR k i, R.MASK_NBP k i, R.MASK_APPR k i]

/-- Mask descriptor `d` is loaded into mask `i` of core `k` (R343); the mask is not enabled (R331). -/
def selectMask (k i d : Nat) : Prog :=
  ask fun s =>
    let e := s.dev.image.mask.get [] d
    if d < 256 && maskEntryOk e then seqs [
      setF (F.MASK_SEL_IDX k i) d, unraw (maskKeys k i),
      setR (R.MASK_CFG k i) (BitVec.ofNat 32 (entryNum e 0 4)), setR (R.MASK_ADDR k i) (BitVec.ofNat 32 (entryNum e 4 4)),
      setR (R.MASK_NBP k i) (BitVec.ofNat 32 (entryNum e 8 2)), setR (R.MASK_APPR k i) (BitVec.ofNat 32 (entryNum e 12 4))]
    else badVal (0x100 + k)

end Sys2Proof.Machine
end

