-- ==== Sys2Proof/Machine/Micro.lean ====
section
/-!
DEFINITION. The control store (spec/08_step_programs.md, R296 to R302): dispatch, the patch overlay, and the microwords of a
patched routine. A routine of the ROM, whose words are vendor content, has the meaning of its step (Machine/Seq.lean).
-/
namespace Sys2Proof.Machine

/-! ## Step words (R263, R265) -/

/-- The byte address of step address `a`. -/
def stepAddr (a : Nat) : Nat := padBase + 8 * (a % 2 ^ 21)

/-- The PC of the sequencer of core `k`. -/
def State.pc (s : State) (k : Nat) : Nat := s.fld (F.SEQ_PC_ADDR k)

/-- The step word at the PC of core `k`. -/
def State.stepWord (s : State) (k : Nat) : Nat := s.num (stepAddr (s.pc k)) 8

/-- Its opcode. -/
def State.opcode (s : State) (k : Nat) : Nat := s.stepWord k / 2 ^ 56

/-- An operand field: bits `lo + w - 1` down to `lo` of the step word. -/
def operand (word lo w : Nat) : Nat := word / 2 ^ lo % 2 ^ w

/-- The program goes on at step `a`. -/
def goTo (k a : Nat) : Prog := setF (F.SEQ_PC_ADDR k) a

/-! ## Dispatch (R299 to R301) -/

/-- The dispatch table entry for an opcode (R300). -/
def dispatchAddr (op : Nat) : Nat := ctlBase + 0x48000 + 4 * op

/-- The patch RAM word that an enabled match entry puts in place of the ROM address `a`, the lowest such entry's; none
where no entry matches (R301). -/
def State.overlay (s : State) (a : Nat) : Option Nat :=
  ((List.range 64).map fun i => s.num (ctlBase + 0x48400 + 4 * i) 4).findSome? fun e =>
    if e / 2 ^ 31 = 1 && e / 2 ^ 16 % 2 ^ 14 = a then some (e % 2 ^ 11) else none

/-- The microaddress that dispatch entry `op` names. -/
def State.entryTarget (s : State) (op : Nat) : Nat := s.num (dispatchAddr op) 4 % 2 ^ 15

/-- The copy of the control store that serves the sequencer of core `k` (R407). -/
def copyOf (k : Nat) : Nat := k / 4

/-- Dispatch entry `op` is valid and readable for core `k` (R300). -/
def State.entryOk (s : State) (k op : Nat) : Bool :=
  !s.badWord (dispatchAddr op) 4 (copyOf k) && s.num (dispatchAddr op) 4 / 2 ^ 31 = 1

/-- The byte address of the microword at microaddress `a`, with the overlay; none where there is no word (R296, R301). -/
def State.microAddr (s : State) (a : Nat) : Option Nat :=
  if a < 0x4000 then
    match s.overlay a with
    | some w => some (ctlBase + 0x40000 + 16 * w)
    | none => some (ctlBase + 16 * a)
  else if a < 0x4800 then some (ctlBase + 0x40000 + 16 * (a - 0x4000))
  else none

/-- The microword at microaddress `a` for core `k`: none where it, or a match entry that a fetch of a ROM address consults, cannot be read
(R418, R419). -/
def State.microWord (s : State) (k a : Nat) : Option Nat :=
  match s.microAddr a with
  | none => none
  | some x =>
    if s.badWord x 12 (copyOf k) || (decide (a < 0x4000) && s.badWord (ctlBase + 0x48400) 256 (copyOf k)) then none
    else if x < ctlBase + 0x40000 then some (leNat ((List.range 12).map fun i => Config.romByte (x - ctlBase + i)))
    else some (s.num x 12)

/-- The address that dispatch entry `op` has in the ROM's default table (R477). -/
def defaultTarget (op : Nat) : Nat := leNat ((List.range 4).map fun i => Config.dispatchByte (4 * op + i)) % 2 ^ 15

/-- A word that the ROM's routine of entry `op` may fetch is not the ROM's own for core `k`: a match entry replaces it (R301), or it
cannot be read (R419). -/
def State.romChanged (s : State) (k op : Nat) : Bool :=
  (((List.range 64).map fun i => s.num (ctlBase + 0x48400 + 4 * i) 4).any fun e =>
      e / 2 ^ 31 = 1 && Config.romFetches op (e / 2 ^ 16 % 2 ^ 14))
    || s.dev.bus.ecc.any fun e =>
      e.2.ue && eccHit e.1 (copyOf k) ctlBase 0x40000 && Config.romFetches op ((e.1 % 2 ^ 40 - ctlBase) / 16)

/-- Dispatch entry `op` leads core `k` to the routine of the ROM for that entry: it is valid, names the address of the default table,
and every word that the routine may fetch is the ROM's own and readable. Such a routine carries out its step as the rule of the step
says; any other runs word by word. -/
def State.dispatchOk (s : State) (k op : Nat) : Bool :=
  s.entryOk k op && s.entryTarget op < 0x4000 && (s.overlay (s.entryTarget op)).isNone && (s.microWord k (s.entryTarget op)).isSome
    && !s.romChanged k op && (!s.dev.bus.entries.contains op || s.entryTarget op = defaultTarget op)

/-- A microword holds a reserved code (Table 8.12). -/
def microReserved (w : Nat) : Bool :=
  5 ≤ operand w 93 3 || 16 ≤ operand w 88 5 || 10 ≤ operand w 67 5 || 16 ≤ operand w 50 5 || 14 ≤ operand w 44 6
    || 10 ≤ operand w 40 4

/-! ## Pending classes (R282, R283) -/

/-- `ACT` of an enabled entry of the event jump table; 0 for one that is not enabled. -/
def State.evjAct (s : State) (k c : Nat) : Nat := if s.flg (F.EVJ_E_EN k c) then s.fld (F.EVJ_E_ACT k c) else 0

/-- The pending bit of class `c` of core `k`. -/
def State.evjPend (s : State) (k c : Nat) : Bool := (s.fld (F.EVJ_PEND_PEND k)).testBit c

/-- The classes. -/
def classes : List Nat := List.range 16

/-- The lowest pending class that is a jump request. -/
def State.jumpClass (s : State) (k : Nat) : Option Nat :=
  classes.find? fun c => s.evjPend k c && (s.evjAct k c = 1 || s.evjAct k c = 2)

/-- Clear the pending bits in `m`. -/
def clearPend (k m : Nat) : Prog :=
  ask fun s => setF (F.EVJ_PEND_PEND k) (s.fld (F.EVJ_PEND_PEND k) &&& (0xFFFF ^^^ (m % 0x10000)))

/-- Pending bits of core `k` that its WAITEV waits for. -/
def State.waitedFor (s : State) (k : Nat) : Nat := s.fld (F.EVJ_PEND_PEND k) &&& (s.cst k).seq.mask

/-- The bit that a DISPATCH selector gives (Table 8.4). -/
def State.selector (s : State) (k c : Nat) : Bool :=
  let q := (s.cst k).seq
  match c with
  | 0 => false
  | 1 => true
  | 2 => s.flg (F.LOOP_STAT_CVA k)
  | 3 => s.flg (F.LOOP_STAT_TPR k)
  | 4 => q.wtmo
  | 5 => q.ltpast
  | 6 => q.armok
  | 7 => s.flg (F.PLAY_STAT_UNDERRUN k)
  | 8 | 9 | 10 | 11 => s.flg (F.MASK_STATE_APPR k (c - 8))
  | 12 | 13 | 14 | 15 => Machine.bit (s.reg (R.EVM_STAT k)) (c - 12)
  | 16 => s.flg (F.EVM_GATE_NOW k)
  | _ => s.evjPend k (c - 5)

/-- The selector fields of a DISPATCH word, that of index bit 0 first. -/
def selectors (w : Nat) : List Nat := (List.range 4).map fun j => operand w (21 + 5 * j) 5

/-- The index that the selectors of a DISPATCH word form (R278). -/
def State.selectorIndex (s : State) (k w : Nat) : Nat :=
  ((selectors w).zip [1, 2, 4, 8]).foldl (fun a p => a + if s.selector k p.1 then p.2 else 0) 0

/-! ## What steps and channel commands ask of the channel (R275 to R277) -/

/-- A limit word, or a taper word, is asked for at cycle `e`; bit 31 makes it no request. -/
def askWord (k w e : Nat) (taper : Bool) : Prog :=
  let x : Word := BitVec.ofNat 32 w
  when (!bit x 31) (want k e (.wordStep taper x))

/-- The request of a SETFMT word, made at cycle `e`. -/
def askFormat (k w e : Nat) (next : Prog) : Prog :=
  ask fun s =>
    let mode := operand w 40 3
    let pen := operand w 39 1 = 1
    let prof := operand w 35 4
    if mode = 1 || (pen && (s.dev.image.drive.get [] prof).isEmpty) then seqFault k 2
    else seqs [next,
      when (mode ≠ 7) (seqs [setF (F.FMT_MODE_MODE k) mode, want k e (.modeStep mode)]),
      when pen (selectDrive k prof),
      when (operand w 32 1 = 1) (setLater k (R.FMT_BURST k) (BitVec.ofNat 32 (operand w 0 24)))]

/-- The mark record (Table 8.5) of a MARK word at step `pc`, stamped at cycle `b`; its `HOLDOVER` as R76 gives it, also for a charge that
includes the holdover charge before any result has. -/
def State.markBytes (s : State) (n k w b : Nat) : List Byte :=
  let q := (s.cst k).seq
  natLE 8 b ++ natLE 4 (operand w 0 32) ++ natLE 3 (s.pc k) ++ natLE 1 n ++ natLE 8 (unsigned 64 (s.charge n (b * 256)))
    ++ natLE 3 (match q.loops with | l :: _ => l.rem | [] => 0) ++ natLE 1 (q.calls.length * 16 + q.loops.length)
    ++ natLE 2 q.markSeq ++ natLE 1 (if s.holdover || (s.fe n).holdCharge then 1 else 0) ++ natLE 1 0

/-- A mark is written (R276); `record` is its record. -/
def writeMark (n k w : Nat) (record : List Byte) : Prog :=
  ask fun s => seqs [
    bufOffer 0 n (s.chRing n 6) 1 2 record (count (F.SEQ_CNT_MDROP k)),
    modSeq k fun q => { q with markSeq := (q.markSeq + 1) % 65536 },
    when (operand w 40 1 = 1) (eventSource n)]

/-- The capture of the gang of channel `n` is armed or disarmed by an ARMCAP word at cycle `e` (R277, R295). -/
def askCapture (n k w e : Nat) : Prog :=
  ask fun s =>
    if operand w 6 1 = 1 then each (s.gangCores n) fun m => disarmCapture m e
    else seqs [
      when (operand w 5 1 = 1) (each (s.gangCores n) fun m => selectCapture m (operand w 0 4)),
      each (s.gangCores n) fun m => armCapture m e,
      ask fun s => modSeq k fun q => { q with armok := s.fld (F.CAP_STATE_ACODE k) = 0 }]

/-- The program ends (R280). -/
def haltProgram (n k : Nat) : Prog := seqs [setF (F.SEQ_STATE_ST k) stHalted, setB (F.SEQ_STAT_HALT k), eventSource n]

/-- A JUMP or CALL action takes effect (R285): two sequencer cycles pass before the target step begins. -/
def takeAction (k : Nat) (x : Action) : Prog :=
  ask fun s =>
    let q := (s.cst k).seq
    if x.call then
      if 8 ≤ q.calls.length then seqFault k 6
      else seqs [modSeq k fun q => { q with calls := (s.pc k, q.loops.length) :: q.calls, b := q.b + 16 }, goTo k x.tgt]
    else seqs [modSeq k fun q => { q with loops := [], calls := [], b := q.b + 16 }, goTo k x.tgt]

/-! ## Microwords (R297 to R299, Tables 8.11 and 8.12) -/

/-- An action as the word that a routine of entries 0xF0 to 0xF2 routes: `TGT` below, the kind in bit 31. -/
def Action.word (x : Action) : Nat := x.tgt + if x.call then 2 ^ 31 else 0

/-- The field of word `w` that `XF` routes to register X. -/
def routed (xf w : Nat) : Nat :=
  match xf with
  | 0 => operand w 0 21 | 1 => operand w 0 24 | 2 => operand w 24 21 | 3 => operand w 0 32 | 4 => operand w 32 1
  | 5 => operand w 0 5 | 6 => operand w 0 52 * 8 | 7 => operand w 54 2 | 8 => operand w 53 1 | 9 => operand w 40 16
  | 10 => operand w 39 1 | 11 => operand w 24 4 | 12 => operand w 0 1 | 13 => operand w 32 11 | 14 => operand w 21 20
  | _ => operand w 0 7

/-- X of microword `m`. -/
def SeqSt.x (q : SeqSt) (m : Nat) : Nat := routed (operand m 50 5) q.word

/-- The value of a register code in microword `m`. -/
def State.microReg (s : State) (k m code : Nat) : Nat :=
  let q := (s.cst k).seq
  match code with
  | 0 => 0
  | 1 => s.pc k
  | 2 => (s.pc k + 1) % 2 ^ 21
  | 3 => q.t0
  | 4 => q.t1
  | 5 => s.reg64 (R.SEQ_ANCHOR_LO k) (R.SEQ_ANCHOR_HI k)
  | 6 => s.reg64 (R.SEQ_LASTLT_LO k) (R.SEQ_LASTLT_HI k)
  | 7 => q.ut
  | 8 => q.x m
  | 9 => operand m 0 32
  | 10 => s.fld (F.EVJ_PEND_PEND k)
  | 11 => q.mask
  | 12 => s.fld (F.SEQ_WHY_CLASS k)
  | 13 => match q.loops with | l :: _ => l.rem | [] => 0
  | 14 => s.num (stepAddr q.t0) 8
  | _ => s.lastBeat

/-- A register takes a value; a source-only code and NPC take none, and LREM belongs to the loop stack, which only `STK` changes (R297). -/
def microDst (k code v : Nat) : Prog :=
  match code with
  | 1 => goTo k v
  | 3 => modSeq k fun q => { q with t0 := v }
  | 4 => modSeq k fun q => { q with t1 := v }
  | 5 => set64 (R.SEQ_ANCHOR_LO k) (R.SEQ_ANCHOR_HI k) v
  | 6 => set64 (R.SEQ_LASTLT_LO k) (R.SEQ_LASTLT_HI k) v
  | 10 => setF (F.EVJ_PEND_PEND k) v
  | 11 => modSeq k fun q => { q with mask := v % 65536 }
  | 12 => setF (F.SEQ_WHY_CLASS k) v
  | _ => .done

/-- The result of an ALU operation on 64 bits; `i` is the DISPATCH selector index. -/
def microAlu (op a b i : Nat) : Option Nat :=
  match op with
  | 0 => none
  | 1 => some a
  | 2 => some ((a + b) % 2 ^ 64)
  | 3 => some ((a + 2 ^ 64 - b) % 2 ^ 64)
  | 4 => some (a &&& b)
  | 5 => some (a ||| b)
  | 6 => some (a &&& (b ^^^ (2 ^ 64 - 1)))
  | 7 => some ((a + 2 ^ 64 - 1) % 2 ^ 64)
  | 8 => some (max a b)
  | _ => some ((a + i) % 2 ^ 64)

/-- A condition code at cycle `t`. -/
def State.microCond (s : State) (n k code t : Nat) : Bool :=
  let q := (s.cst k).seq
  let top := q.loops.head?
  match code with
  | 0 => true
  | 1 => match top with | some l => l.rem = 0 | none => true
  | 2 => 8 ≤ q.loops.length
  | 3 => q.loops.isEmpty
  | 4 => 8 ≤ q.calls.length
  | 5 => q.calls.isEmpty
  | 6 => q.t0 ≤ t
  | 7 => s.waitedFor k ≠ 0
  | 8 => q.t1 ≠ 0 && q.t1 ≤ t
  | 9 => (s.cst (s.core n)).play.started
  | 10 => (s.cst (s.core n)).play.next.isSome
  | 11 => match top with | some l => s.pc k = l.enda | none => false
  | 12 => match q.calls with | (_, d) :: _ => q.loops.length = d | [] => false
  | 13 => q.zero
  | 14 => !q.dq.isEmpty
  | _ => q.armok

/-- A stack operation; `ret` is the value of `SA`. A push on a full stack or queue, and a pop of an empty one, change nothing. -/
def microStk (k op ret x : Nat) : Prog :=
  match op with
  | 1 => ask fun s => modSeq k fun q =>
      if 8 ≤ q.loops.length then q
      else { q with loops := ⟨operand q.word 24 21, (s.pc k + 1) % 2 ^ 21, operand q.word 0 24⟩ :: q.loops }
  | 2 => modSeq k fun q => { q with loops := match q.loops with | l :: r => { l with rem := l.rem - 1 } :: r | [] => [] }
  | 3 => modSeq k fun q => { q with loops := q.loops.drop 1 }
  | 4 => modSeq k fun q => if 8 ≤ q.calls.length then q else { q with calls := (ret % 2 ^ 21, q.loops.length) :: q.calls }
  | 5 => ask fun s =>
      match (s.cst k).seq.calls with
      | (a, _) :: r => seqs [goTo k a, modSeq k fun q => { q with calls := r }]
      | [] => .done
  | 6 => modSeq k fun q => { q with loops := [], calls := [] }
  | 7 => modSeq k fun q => { q with loops := q.loops.drop x }
  | 8 => modSeq k fun q => if 4 ≤ q.dq.length then q else { q with dq := q.dq ++ [⟨q.word.testBit 31, operand q.word 0 21⟩] }
  | 9 => modSeq k fun q => { q with dq := q.dq.drop 1, word := match q.dq with | x :: _ => x.word | [] => q.word }
  | _ => .done

/-- A channel command with X, at cycle `t`; a request arrives at the end of the sequencer cycle. -/
def microCmd (n k op x t : Nat) : Prog :=
  match op with
  | 1 => seqs [modSeq k fun q => { q with slot := x % 32 }, nameSlot n (x % 32) (t + 8)]
  | 2 => withdrawName n
  | 3 => askWord k x (t + 8) false
  | 4 => askWord k x (t + 8) true
  | 5 => ask fun s => askFormat k (x % 2 ^ 11 * 2 ^ 32 + (s.cst k).seq.word % 2 ^ 32) (t + 8) .done
  | 6 => ask fun s =>
      let w := operand (s.cst k).seq.word 40 1 * 2 ^ 40 + x % 2 ^ 32
      writeMark n k w (s.markBytes n k w (s.cst k).seq.b)
  | 7 => askCapture n k (x % 64) (t + 8)
  | 8 => askCapture n k 64 (t + 8)
  | 9 => calmRequest n
  | 10 => seqs [squallRequest n, holdSequencer k]
  | 11 => haltProgram n k
  | 12 => ask fun s => clearPend k (s.cst k).seq.mask
  | 13 => seqs [setF (F.SEQ_WHY_CLASS k) 16, setB (F.SEQ_STAT_WTMO k), modSeq k fun q => { q with wtmo := true }]
  | _ => .done

/-- The step that a routine carries out ends at cycle `t` (R299); what is taken next, the sequencer's own order decides. -/
def microEnd (k t : Nat) : Prog :=
  seqs [modSeq k fun q => { q with ua := none, stall := .none, b := t, thawed := false },
    on (fun s => s.seqSt k = stWait) (setF (F.SEQ_STATE_ST k) stRun)]

/-- The routine of core `k` goes on from microaddress `a` at cycle `t`. -/
def microGo (k a t : Nat) : Prog := modSeq k fun q => { q with ua := some (a % 2 ^ 15), ut := t }

/-- The routine stands before the word at `a`, whose turn is at cycle `t`. -/
def microStand (k a t : Nat) : Prog := seqs [microGo k a t, modSeq k fun q => { q with stall := .micro }]

/-- The routine waits: it is to repeat the word at `a` at cycle `t` (Table 8.12, WAIT). -/
def microWait (k a t : Nat) : Prog := seqs [microStand k a t, setF (F.SEQ_STATE_ST k) stWait]

/-- A word that, repeated, changes nothing: it has no operation, no stack operation and no command. -/
def microIdle (m : Nat) : Bool := operand m 67 5 = 0 && operand m 44 6 = 0 && operand m 40 4 = 0

/-- The cycle at which the word `m`, repeated from cycle `t` on, is to be judged next, none later than `h` but the cycle after `t`: a word
that changes nothing and waits for an instant of Line Time need not be judged before it. -/
def SeqSt.repeatAt (q : SeqSt) (m t h : Nat) : Nat :=
  let e := match operand m 88 5 with | 6 => q.t0 | 8 => if q.t1 = 0 then h else q.t1 | _ => h
  if microIdle m then max (t + 8) (t + divUp (min e h - t) 8 * 8) else t + 8

/-- Deferred actions of channel `n` are due: the segment that was committed when they arrived has begun (R288). -/
def State.deferredDue (s : State) (n k : Nat) : Bool :=
  !(s.cst k).seq.dq.isEmpty && (s.cst (s.core n)).play.next.isNone && s.seqSt k = stRun

/-- The ROM's routine of entry 0xF2: the deferred actions of core `k` are applied, in order of arrival (R288). -/
def applyAll (k : Nat) : Prog :=
  ask fun s =>
    let q := (s.cst k).seq
    seqs [modSeq k fun q => { q with dq := [] }, each q.dq fun x => on (fun s => s.seqSt k = stRun) (takeAction k x)]

/-- Deferred actions that are due at the end of a step, at cycle `t`, are dispatched through entry 0xF2 (R299); `go` runs the words of a
patched routine. -/
def microDeferred (n k t : Nat) (go : Prog) : Prog :=
  on (fun s => s.deferredDue n k)
    (ask fun s => seqs [eccRead (dispatchAddr 0xF2) 4 (copyOf k),
      if s.dispatchOk k 0xF2 then applyAll k
      else if s.entryOk k 0xF2 then
        seqs [modSeq k fun q => { q with word := 0, stall := .none }, microGo k (s.entryTarget 0xF2) t, go]
      else seqFault k 10])

/-- The microword `m` at address `a` of core `k` is carried out at cycle `t`: its operation, its stack operation, its command;
`go` goes on with the next word. Its condition is that of the beginning of the cycle; `h` is the last cycle that this command carries
the routine to, and up to it what the routine waits for from outside (EVMATCH, STARTED, COMMITTED) has not yet come. -/
def microExec (n k a t h m : Nat) (go : Prog) : Prog :=
  ask fun s =>
    let q := (s.cst k).seq
    let sa := s.microReg k m (operand m 59 4)
    let waits := operand m 93 3 = 3
    let cond := !(waits && t < h && [7, 9, 10].contains (operand m 88 5))
      && s.microCond n k (operand m 88 5) t != (operand m 87 1 = 1)
    let out := microAlu (operand m 67 5) sa (s.microReg k m (operand m 55 4)) (s.selectorIndex k q.word)
    let usesMem := operand m 59 4 = 14 || operand m 55 4 = 14
    if operand m 36 4 ≠ 0 then seqFault k (operand m 36 4)
    else if usesMem && s.badWord (stepAddr q.t0) 8 then seqs [eccRead (stepAddr q.t0) 8, seqFault k 9]
    else if operand m 67 5 = 9 && (selectors q.word).any (21 ≤ ·) then seqFault k 2
    else seqs [
      when usesMem (eccRead (stepAddr q.t0) 8),
      match out with
      | some v => seqs [microDst k (operand m 63 4) v, modSeq k fun q => { q with zero := v = 0 }]
      | none => .done,
      microStk k (operand m 40 4) sa (q.x m), microCmd n k (operand m 44 6) (q.x m) t,
      on (fun s => s.seqSt k = stRun || s.seqSt k = stWait || operand m 93 3 = 4) <|
        match operand m 93 3 with
        | 0 => (microGo k (a + 1) (t + 8)).seq go
        | 1 => (microGo k (operand m 72 15) (t + 8)).seq go
        | 2 => (microGo k (if cond then operand m 72 15 else a + 1) (t + 8)).seq go
        | 3 =>
          if cond then (microGo k (a + 1) (t + 8)).seq go
          else if q.repeatAt m t h ≤ h then (microGo k a (q.repeatAt m t h)).seq go
          else microWait k a (t + 8)
        | _ => (microEnd k (t + 8)).seq (microDeferred n k (t + 8) go)]

/-- A fetch of the microword at microaddress `a` by core `k`, and of the match entries for a ROM address, finds what ECC shows (R418,
R419). -/
def microRead (k a : Nat) : Prog :=
  ask fun s => seqs [
    match s.microAddr a with | some x => eccRead x 12 (copyOf k) | none => .done,
    when (a < 0x4000) (eccRead (ctlBase + 0x48400) 256 (copyOf k))]

/-- The routine in progress of core `k` runs its next words, at most so many; a routine that is not yet at its end then stands before
its next word (R297, R298). -/
def microRun (n k h : Nat) : Nat → Prog
  | 0 => ask fun s => match (s.cst k).seq.ua with | some a => microStand k a (s.cst k).seq.ut | none => .done
  | fuel + 1 =>
    ask fun s =>
      match (s.cst k).seq.ua with
      | none => .done
      | some a =>
        seqs [advance (s.cst k).seq.ut, microRead k a,
          match s.microWord k a with
          | none => seqFault k 10
          | some m => if microReserved m then seqFault k 10 else microExec n k a (s.cst k).seq.ut h m (microRun n k h fuel)]

/-- The words that a routine runs within one command, beside those that it repeats up to the instant of the command. -/
def microFuel : Nat := 256

/-- The patched routine of dispatch entry `op` starts for core `k` at cycle `t`, routing fields of `w`. -/
def microStart (n k op w t : Nat) : Prog :=
  ask fun s => seqs [
    modSeq k fun q => { q with word := w, stall := .none }, microGo k (s.entryTarget op) t, microRun n k t microFuel]

/-- Dispatch through entry `op` at cycle `t` (R299 to R301): an invalid or unreadable entry is the fault UCODE, an entry of the ROM
does what `own` says, a patched one runs its microwords. -/
def dispatched (n k op w t : Nat) (own : Prog) : Prog :=
  ask fun s => seqs [eccRead (dispatchAddr op) 4 (copyOf k),
    if s.dispatchOk k op then (microRead k (s.entryTarget op)).seq own
    else if s.entryOk k op then microStart n k op w t
    else seqFault k 10]

end Sys2Proof.Machine
end

