-- ==== Sys2Proof/Machine/Seq.lean ====
section
/-!
DEFINITION. Step programs, event classes and the commands of a channel (spec/08_step_programs.md).
-/
namespace Sys2Proof.Machine

/-! ## Steps (R266) -/

/-- `SEQ.STATE.OP`: the opcode of the step in progress. DEDUCED (see notes/assumptions/31.md): it reads 0 where no step is in progress, as in IDLE,
HALTED and FAULT and where a held step is to be taken again (R290). -/
def State.stepOp (s : State) (k : Nat) : Nat :=
  let st := s.seqSt k
  if st = stRun || st = stWait || ((st = stHeld || st = stFrozen) && (s.cst k).seq.stall ≠ .none) then s.opcode k else 0

/-- The opcodes of Table 8.1. -/
def opcodes : List Nat :=
  [0x00, 0x01, 0x02, 0x08, 0x09, 0x0A, 0x0B, 0x0C, 0x0D, 0x10, 0x11, 0x12, 0x18, 0x19, 0x1A, 0x1B]

/-- The sequencer of channel `n` may run: it runs the program of its gang's leader, the channel is not about to leave Calm, and the
control store is locked (R295, R302). -/
def State.sequencing (s : State) (n : Nat) : Bool :=
  s.leader n = n && (s.cst (s.core n)).drv.leave.isNone && s.dev.bus.locked

/-- The sequencer of channel `n` is about to take a step: it is in RUN, and no jump request is to be taken first; one has
been where a class was taken at this step boundary (R283). -/
def State.stepping (s : State) (n : Nat) : Bool :=
  let k := s.core n
  s.sequencing n && s.seqSt k = stRun && (s.cst k).seq.stall ≠ .micro
    && ((s.jumpClass k).isNone || (s.cst k).seq.taken = some (s.cst k).seq.b)

/-- The instant at which the step in progress of core `k` began. -/
def State.stepB (s : State) (k : Nat) : Nat := (s.cst k).seq.b

/-- A step of channel `n` with opcode `op`, of so many sequencer cycles: `body` gets the core, the step word and the
instant at which the step ends (R266, R294). -/
def aStep (n op cycles : Nat) (body : Nat → Nat → Nat → Prog) : Prog :=
  on (fun s => s.stepping n)
    (ask fun s =>
      let k := s.core n
      let e := s.stepB k + 8 * cycles
      if s.badWord (stepAddr (s.pc k)) 8 then
        seqs [advance (s.stepB k), eccRead (stepAddr (s.pc k)) 8, seqFault k 9]
      else when (s.opcode k = op)
        (seqs [advance (s.stepB k), eccRead (stepAddr (s.pc k)) 8,
          dispatched n k op (s.stepWord k) (s.stepB k)
            (seqs [advance e, modSeq k fun q => { q with b := e }, body k (s.stepWord k) e])]))

/-- The program goes on at the next step. -/
def nextStep (k : Nat) : Prog := ask fun s => goTo k (s.pc k + 1)

/-- NOP. -/
def progNop (n : Nat) : Prog := aStep n 0x00 2 fun k _ _ => nextStep k

/-- HALT (R280). -/
def progHalt (n : Nat) : Prog :=
  aStep n 0x01 2 fun k _ _ => haltProgram n k

/-- CALM (R279). -/
def progCalm (n : Nat) : Prog :=
  aStep n 0x02 2 fun k w _ => seqs [nextStep k,
    if operand w 0 1 = 1 then seqs [squallRequest n, holdSequencer k] else calmRequest n]

/-- JUMP (R270). -/
def progJump (n : Nat) : Prog :=
  aStep n 0x08 2 fun k w _ => ask fun s =>
    let q := (s.cst k).seq
    let pop := operand w 24 4
    let floor := match q.calls with | (_, d) :: _ => d | [] => 0
    if q.loops.length < pop || q.loops.length - pop < floor then seqFault k 8
    else seqs [modSeq k fun q => { q with loops := q.loops.drop pop }, goTo k (operand w 0 21)]

/-- CALL (R269). -/
def progCall (n : Nat) : Prog :=
  aStep n 0x09 3 fun k w _ => ask fun s =>
    let q := (s.cst k).seq
    if 8 ≤ q.calls.length then seqFault k 6
    else seqs [modSeq k fun q => { q with calls := ((s.pc k + 1) % 2 ^ 21, q.loops.length) :: q.calls },
      goTo k (operand w 0 21)]

/-- RET (R269). -/
def progRet (n : Nat) : Prog :=
  aStep n 0x0A 3 fun k _ _ => ask fun s =>
    let q := (s.cst k).seq
    match q.calls with
    | [] => seqFault k 7
    | (a, d) :: r => if q.loops.length ≠ d then seqFault k 8
      else seqs [modSeq k fun q => { q with calls := r }, goTo k a]

/-- LOOP (R267). -/
def progLoop (n : Nat) : Prog :=
  aStep n 0x0B 3 fun k w _ => ask fun s =>
    let q := (s.cst k).seq
    let enda := operand w 24 21
    let cnt := operand w 0 24
    if cnt = 0 then goTo k (enda + 1)
    else if 8 ≤ q.loops.length then seqFault k 3
    else seqs [modSeq k fun q => { q with loops := ⟨enda, (s.pc k + 1) % 2 ^ 21, cnt⟩ :: q.loops }, nextStep k]

/-- ENDL (R268). -/
def progEndl (n : Nat) : Prog :=
  aStep n 0x0C 2 fun k _ _ => ask fun s =>
    match (s.cst k).seq.loops with
    | [] => seqFault k 4
    | l :: r =>
      if l.enda ≠ s.pc k then seqFault k 5
      else if 1 < l.rem then seqs [modSeq k fun q => { q with loops := { l with rem := l.rem - 1 } :: r }, goTo k l.body]
      else seqs [modSeq k fun q => { q with loops := r }, nextStep k]

/-- DISPATCH (R278). -/
def progDispatch (n : Nat) : Prog :=
  aStep n 0x0D 4 fun k w _ => ask fun s =>
    let a := stepAddr (operand w 0 21 + s.selectorIndex k w)
    if (selectors w).any (21 ≤ ·) then seqFault k 2
    else if s.badWord a 8 then seqs [eccRead a 8, seqFault k 9]
    else seqs [eccRead a 8, goTo k (operand (s.num a 8) 0 21)]

/-! ## PLAY and waits (R271 to R274, R288) -/

/-- The sequencer stalls in the step in progress; `f` notes what it waits for. -/
def stallStep (k b : Nat) (f : SeqSt → SeqSt) : Prog :=
  seqs [setF (F.SEQ_STATE_ST k) stWait, modSeq k fun q => { f q with b := b, thawed := false }]

/-- PLAY (R271): it names its slot at b + 16 and stalls. -/
def progPlay (n : Nat) : Prog :=
  aStep n 0x10 2 fun k w e => ask fun s =>
    let p := (s.cst k).play
    let late := p.playing && p.pastD && p.next.isNone
    seqs [
      when late (seqs [setB (F.SEQ_STAT_SLIP k), count (F.SEQ_CNT_SLIP k)]),
      nameSlot n (operand w 0 5) e,
      stallStep k (e - 16) fun q => { q with stall := .play, slot := operand w 0 5 }]

/-- WAITLT (R273). -/
def progWaitlt (n : Nat) : Prog :=
  aStep n 0x11 2 fun k w e => ask fun s =>
    let base := match operand w 54 2 with
      | 0 => s.reg64 (R.SEQ_ANCHOR_LO k) (R.SEQ_ANCHOR_HI k)
      | 1 => s.reg64 (R.SEQ_LASTLT_LO k) (R.SEQ_LASTLT_HI k)
      | _ => s.lastBeat
    if operand w 54 2 = 3 then seqFault k 2
    else stallStep k (e - 16) fun q => { q with
      stall := .waitlt, t0 := (base + 8 * operand w 0 52) % 2 ^ 64, anch := operand w 53 1 = 1 }

/-- WAITEV (R274). -/
def progWaitev (n : Nat) : Prog :=
  aStep n 0x12 2 fun k w e =>
    let mask := operand w 40 16
    let tmo := operand w 0 32
    if mask = 0 && tmo = 0 then seqFault k 2
    else seqs [
      when (operand w 39 1 = 1) (clearPend k mask),
      stallStep k (e - 16) fun q => { q with
        stall := .waitev, mask := mask, t1 := if tmo = 0 then 0 else e - 16 + 256 * tmo }]

/-- The sequencer of channel `n` stalls in a step of this kind. -/
def State.stalled (s : State) (n : Nat) (x : Stall) : Bool :=
  let k := s.core n
  s.sequencing n && s.seqSt k = stWait && (s.cst k).seq.stall = x

/-- The stalled step of core `k` ends at `t` and the next step begins. -/
def unstall (k t : Nat) : Prog :=
  seqs [advance t, setF (F.SEQ_STATE_ST k) stRun, nextStep k,
    modSeq k fun q => { q with stall := .none, b := t, thawed := false }]

/-- A patched routine of channel `n` waits, or stands between two of its words. -/
def State.inRoutine (s : State) (n : Nat) : Bool :=
  let k := s.core n
  s.sequencing n && (s.seqSt k = stWait || s.seqSt k = stRun) && (s.cst k).seq.stall = .micro

/-- The instant that the word before which the routine of channel `n` stands waits for: its T0, its T1 or the start of the named segment;
for any other the present one. -/
def State.waitsUntil (s : State) (n k : Nat) : Nat :=
  let q := (s.cst k).seq
  match q.ua.bind fun a => s.microWord k a with
  | some m =>
    if operand m 93 3 ≠ 3 || operand m 87 1 = 1 then s.now
    else match operand m 88 5 with
      | 6 => q.t0
      | 8 => q.t1
      | 9 => if (s.cst (s.core n)).play.started then divUp (s.cst (s.core n)).play.segSince 256 else s.now
      | _ => s.now
  | none => s.now

/-- The patched routine of channel `n` goes on, repeating the word that waits in every sequencer cycle up to cycle `upto` (Table 8.12,
WAIT). -/
def microTo (n upto : Nat) : Prog :=
  on (fun s => s.inRoutine n)
    (ask fun s =>
      let k := s.core n
      let u := max (s.cst k).seq.ut (s.cst k).seq.since
      let m := divUp (upto - u) 8
      seqs [modSeq k fun q => { q with stall := .none, ut := u }, microRun n k (u + 8 * m) (microFuel + m)])

/-- The patched routine of channel `n` goes on up to what it waits for. -/
def microResume (n : Nat) : Prog :=
  ask fun s => microTo n (s.boundary (max s.now (s.waitsUntil n (s.core n))))

/-- The deferred actions of core `k` are applied (R288). -/
def applyDeferred (n k t : Nat) : Prog :=
  ask fun s => when (!(s.cst k).seq.dq.isEmpty) (dispatched n k 0xF2 0 t (applyAll k))

/-- The end of a PLAY (R271, R288): the deferred actions that were held are applied there. -/
def progPlayEnd (n : Nat) : Prog :=
  seqs [microResume n, on (fun s => s.stalled n .play && (s.cst (s.core n)).play.started)
    (ask fun s =>
      let k := s.core n
      let q := (s.cst k).seq
      let t := max (s.boundary (divUp (s.cst k).play.segSince 256)) (max (q.b + 16) q.since)
      seqs [unstall k t, applyDeferred n k t])]

/-- The end of a WAITLT (R273, R291). -/
def progWaitltEnd (n : Nat) : Prog :=
  seqs [microResume n, on (fun s => s.stalled n .waitlt)
    (ask fun s =>
      let k := s.core n
      let q := (s.cst k).seq
      let past := q.t0 < q.b + 16 || (q.thawed && q.t0 < q.since)
      seqs [
        unstall k (max q.t0 (max (q.b + 16) q.since)),
        set64 (R.SEQ_LASTLT_LO k) (R.SEQ_LASTLT_HI k) q.t0,
        when q.anch (set64 (R.SEQ_ANCHOR_LO k) (R.SEQ_ANCHOR_HI k) q.t0),
        when past (seqs [setB (F.SEQ_STAT_LTPAST k), count (F.SEQ_CNT_LTPAST k)]),
        modSeq k fun q => { q with ltpast := past }])]

/-- The end of a WAITEV (R274): by a class, which prevails, or by the deadline. -/
def progWaitevEnd (n : Nat) : Prog :=
  seqs [microResume n, on (fun s => s.stalled n .waitev)
    (ask fun s =>
      let k := s.core n
      let q := (s.cst k).seq
      let hit := s.waitedFor k
      let soon := max (q.b + 16) q.since
      if hit ≠ 0 then seqs [
        unstall k (max soon (s.boundary s.now)),
        clearPend k q.mask, setF (F.SEQ_WHY_CLASS k) ((classes.find? fun c => hit.testBit c).getD 0),
        modSeq k fun q => { q with wtmo := false }]
      else when (q.t1 ≠ 0) (seqs [
        unstall k (max soon q.t1), setF (F.SEQ_WHY_CLASS k) 16, setB (F.SEQ_STAT_WTMO k),
        modSeq k fun q => { q with wtmo := true }]))]

/-! ## Channel steps (R275 to R277) -/

/-- SETLIM (R275). -/
def progSetlim (n : Nat) : Prog :=
  aStep n 0x18 2 fun k w e => seqs [nextStep k, askWord k (operand w 0 32) e (operand w 32 1 = 1)]

/-- SETFMT (R275). -/
def progSetfmt (n : Nat) : Prog := aStep n 0x19 2 fun k w e => askFormat k w e (nextStep k)

/-- MARK (R276). -/
def progMark (n : Nat) : Prog :=
  aStep n 0x1A 3 fun k w e => ask fun s => seqs [nextStep k, writeMark n k w (s.markBytes n k w (e - 24))]

/-- ARMCAP (R277, R295). -/
def progArmcap (n : Nat) : Prog := aStep n 0x1B 3 fun k w e => seqs [nextStep k, askCapture n k w e]

/-- A step word with an opcode that Table 8.1 does not list (R264), which is dispatched through its own entry or, from 0xF0 on,
through entry 0xFF (R299). -/
def progIllop (n : Nat) : Prog :=
  on (fun s => s.stepping n && !opcodes.contains (s.opcode (s.core n)) && !s.badWord (stepAddr (s.pc (s.core n))) 8)
    (ask fun s =>
      let k := s.core n
      let op := s.opcode k
      seqs [advance (s.stepB k), eccRead (stepAddr (s.pc k)) 8,
        dispatched n k (if 0xF0 ≤ op then 0xFF else op) (s.stepWord k) (s.stepB k) (seqFault k 1)])

/-! ## Event classes (R281 to R289) -/

/-- Entry `c` of the event jump table for the offers that reach core `k` at boundary `b`: a write serves those of later boundaries only
(R303). -/
def State.evjEntry (s : State) (k c b : Nat) : Word :=
  match (s.cst k).seq.evjWas.find? fun e => e.1 = c && b < e.2.1 with
  | some e => e.2.2
  | none => s.reg (R.EVJ_E k c)

/-- Entry `c` of core `k` is about to be written: what it held serves the offers up to the present boundary. -/
def keepEntry (k c : Nat) : Prog :=
  ask fun s =>
    let b := s.boundary (s.now + 1)
    when (!((s.cst k).seq.evjWas.any fun e => e.1 = c && e.2.1 = b))
      (modSeq k fun q => { q with evjWas := (c, b, s.reg (R.EVJ_E k c)) :: q.evjWas.filter fun e => e.1 ≠ c })

/-- An offer of class `c` reaches the sequencer of channel `n` at boundary `b` (R282). -/
def takeOffer (n k c b : Nat) : Prog :=
  ask fun s =>
    let e := s.evjEntry k c b
    when (bit e 31) (match fieldGet e 28 3 with
      | 3 => calmRequest n
      | 4 => squallRequest n
      | _ => seqs [setF (F.EVJ_PEND_PEND k) (s.fld (F.EVJ_PEND_PEND k) ||| 2 ^ c),
        modSeq k fun q => { q with offered :=
          if q.offered.1 = b then (b, q.offered.2 ||| 2 ^ c) else if q.offered.1 < b then (b, 2 ^ c) else q.offered }])

/-- The earliest boundary at which an offer reaches the sequencer of core `k`. -/
def State.offerDue (s : State) (k : Nat) : Option Nat := ((s.cst k).seq.offers.map fun o => s.boundary o.2).min?

/-- The earliest boundary at which offers reach the sequencer of channel `n`: they are handled in rising order of class
(R281). -/
def progEventOffer (n : Nat) : Prog :=
  ask fun s =>
    let k := s.core n
    match s.offerDue k with
    | none => .done
    | some b =>
      seqs [advance b,
        modSeq k fun q => { q with offers := q.offers.filter fun o => s.boundary o.2 ≠ b },
        each (classes.filter fun c => (s.cst k).seq.offers.any fun o => o.1 = c && s.boundary o.2 = b) fun c => takeOffer n k c b]

/-- The offers that reach the sequencer of channel `n` at boundaries before cycle `t` do so, at so many boundaries at most. -/
def offersUpTo (n t : Nat) : Nat → Prog
  | 0 => .done
  | m + 1 =>
    ask fun s =>
      match s.offerDue (s.core n) with
      | some b => when (b < t) ((progEventOffer n).seq (offersUpTo n t m))
      | none => .done

/-- The boundary at which the sequencer of core `k` takes an action: the step boundary in RUN, the present boundary while a
step stalls, a later one where a class has been taken there (R283). -/
def State.actionAt (s : State) (k : Nat) : Nat :=
  let q := (s.cst k).seq
  let b := max (max q.b q.since) (s.boundary s.now)
  if s.seqSt k = stRun then q.b else if q.taken = some b then s.boundary (b + 1) else b

/-- The sequencer of channel `n` can take a jump request: it is at a step boundary at which it has taken none, or stalls, and a
WAITEV is not about to end by a class. -/
def State.takesJump (s : State) (n : Nat) : Bool :=
  let k := s.core n
  s.sequencing n
    && ((s.seqSt k = stRun && (s.cst k).seq.stall ≠ .micro && (s.cst k).seq.taken ≠ some (s.cst k).seq.b)
      || (s.seqSt k = stWait && !((s.cst k).seq.stall = .waitev && s.waitedFor k ≠ 0)))

/-- The lowest pending jump request of channel `n` is taken, or deferred, where its action is a CALL or a JUMP as `call`
says (R283, R285 to R287, R289). -/
def jumpAction (n : Nat) (call : Bool) : Prog :=
  seqs [on (fun s => s.takesJump n) (ask fun s => microTo n (s.boundary s.now - 8)), on (fun s => s.takesJump n)
    (ask fun s =>
      let k := s.core n
      match s.jumpClass k with
      | none => .done
      | some c =>
        let x : Action := ⟨call, if c = 0 then (s.cst k).seq.superTgt else s.fld (F.EVJ_E_TGT k c)⟩
        when (s.evjAct k c = (if call then 2 else 1))
          (seqs [
            advance (s.actionAt k), clearPend k (2 ^ c), modSeq k fun q => { q with taken := some (s.actionAt k) },
            dispatched n k (if call then 0xF1 else 0xF0) x.word (s.actionAt k) <|
              if (s.cst k).play.next.isSome then
                if (s.cst k).seq.dq.length < 4 then seqs [
                  modSeq k fun q => { q with dq := q.dq ++ [x] },
                  setB (F.PLAY_STAT_DEFER k), count (F.PLAY_CNT_B_DEFER k), eventSource n]
                else seqs [count (F.SEQ_CNT_DROPJ k), eventSource n]
              else seqs [
                when ((s.cst k).seq.stall = .play || (s.cst k).seq.stall = .micro) (withdrawName n),
                setF (F.SEQ_STATE_ST k) stRun,
                modSeq k fun q => { q with stall := .none, b := s.actionAt k },
                takeAction k x]]))]

/-- The alarm of channel `n` is reached (R284). -/
def progLtAlarm (n : Nat) : Prog :=
  ask fun s =>
    let k := s.core n
    let a := s.reg64 (R.SEQ_LTALM_LO k) (R.SEQ_LTALM_HI k)
    when (a ≠ 0 && s.leader n = n) (seqs [advance (s.boundary a), set64 (R.SEQ_LTALM_LO k) (R.SEQ_LTALM_HI k) 0, offer n 6])

/-! ## Freezing (R75, R76, R291, R293, R498) -/

/-- The sequencers of every channel freeze. A channel that waits to enter Calm by another request is none that is to leave it by itself
(R336). -/
def freezeSequencers : Prog :=
  each channels fun n =>
    ask fun s =>
      let k := s.core n
      seqs [
        modDrv k fun d => { d with frozeAct := d.frozeAct || (d.calm.isNone && (!s.calm n || d.leave.isSome)), leave := none },
        when (s.seqSt k ≠ stFrozen) (seqs [
          modSeq k fun q => { q with frozeSt := s.seqSt k }, setF (F.SEQ_STATE_ST k) stFrozen])]

/-- The resume routine, dispatch entry 0xFE, which a sequencer that goes on enters (R300): the ROM's goes on where it was held; a
patched one begins once the channel has left Calm. -/
def resumeRoutine (k : Nat) : Prog :=
  ask fun s =>
    seqs [eccRead (dispatchAddr 0xFE) 4 (copyOf k),
      if s.dispatchOk k 0xFE then microRead k (s.entryTarget 0xFE)
      else if s.entryOk k 0xFE then seqs [modSeq k fun q => { q with word := s.stepWord k }, microWait k (s.entryTarget 0xFE) s.now]
      else seqFault k 10]

/-- The frozen channel `n` resumes (R293): the sequencer returns to the state in which it froze; a channel that was outside
Calm leaves it. One that was HELD, or is parked, stays in Calm. -/
def resumeChannel (n : Nat) : Prog :=
  on (fun s => s.seqSt (s.core n) = stFrozen)
    (ask fun s =>
      let k := s.core n
      let f := (s.cst k).seq.frozeSt
      let live := f = stRun || f = stWait
      if f = stHeld || s.parked n then seqs [
        setF (F.SEQ_STATE_ST k) (if live then stHeld else f),
        modSeq k fun q => if live then q.heldAs f else q,
        modDrv k fun d => { d with frozeAct := false }]
      else seqs [
        setF (F.SEQ_STATE_ST k) f, modSeq k fun q => { q with thawed := true, since := s.boundary s.now },
        modDrv k fun d => { d with leave := if d.frozeAct then some s.now else none, frozeAct := false },
        when live (resumeRoutine k)])

/-- Every frozen channel resumes. -/
def resumeFrozen : Prog := each channels resumeChannel

/-! ## Commands (R292, Table 8.10) -/

/-- A command of core `k` is refused with a reason. -/
def refuseCommand (k code : Nat) : Prog := seqs [setB (F.CTL_STAT_REJ k), setF (F.CTL_STAT_RCODE k) code]

/-- A command of core `k` is decided at the sequencer boundary at which it arrives: a spare core refuses it, and so does a
gang member. -/
def command (k : Nat) (f : Nat → Prog) : Prog :=
  ask fun s =>
    match s.channelOf k with
    | none => refuseCommand k 1
    | some n =>
      if s.leader n ≠ n then refuseCommand k 4
      else seqs [advance (s.boundary s.now), f n]

/-- The cores of the gang of channel `n` are to leave Calm at their next boundaries. -/
def leaveRequest (n : Nat) : Prog :=
  ask fun s => each (s.gangCores n) fun k => modDrv k fun d => { d with leave := some s.now }

/-- The device is in RUN (`PWR.STATE`). -/
def State.powerRun (s : State) : Bool := s.fld F.PWR_STATE_ST = 0

/-- START at step `a`. -/
def effStart (k a : Nat) : Prog :=
  command k fun n => ask fun s =>
    if !(s.seqSt k = stIdle || s.seqSt k = stHalted || s.seqSt k = stFault) || s.parked n then refuseCommand k 1
    else if !s.valid then refuseCommand k 2
    else seqs [
      setF (F.EVJ_PEND_PEND k) 0, setF (F.SEQ_WHY_CLASS k) 0, goTo k a, setF (F.SEQ_STATE_ST k) stRun,
      modSeq k fun q => { q with loops := [], calls := [], dq := [], stall := .none, taken := none, b := s.now },
      leaveRequest n]

/-- RESUME. -/
def effResume (k : Nat) : Prog :=
  command k fun n => ask fun s =>
    let held := s.seqSt k = stHeld
    let frozen := s.seqSt k = stFrozen && (!s.flg F.LT_CTL_RESUME || s.dev.lt.abandoned) && s.powerRun
    if !(held || frozen) || s.parked n then refuseCommand k 1
    else if !s.valid then refuseCommand k 2
    else seqs [modSeq k fun q => { q with resumed := some s.now },
      if held then seqs [setF (F.SEQ_STATE_ST k) (s.cst k).seq.heldSt, leaveRequest n, resumeRoutine k]
      else each (s.gang n).2 resumeChannel]

/-- STOP. -/
def effStop (k : Nat) : Prog := command k calmRequest

/-- The JUMP command to step `a`. -/
def effJump (k a : Nat) : Prog :=
  command k fun n => ask fun s =>
    if !(s.seqSt k = stRun || s.seqSt k = stWait) then refuseCommand k 1
    else if !(s.evjAct k 0 = 1 || s.evjAct k 0 = 2) then refuseCommand k 3
    else seqs [modSeq k fun q => { q with superTgt := a % 2 ^ 21 }, offer n 0]

/-- OFFER of class 12 + `a`. -/
def effOffer (k a : Nat) : Prog :=
  command k fun n => if 3 < a then refuseCommand k 1 else offer n (12 + a)

/-- A reserved command. -/
def effReserved (k : Nat) : Prog := command k fun _ => refuseCommand k 1

/-- A command code and argument (Table 8.10). -/
def effCommand (k cmd arg : Nat) : Prog :=
  match cmd with
  | 1 => effStart k arg
  | 2 => effResume k
  | 3 => effStop k
  | 4 => effJump k arg
  | 5 => effOffer k arg
  | _ => effReserved k

end Sys2Proof.Machine
end

