-- ==== Sys2Proof/Machine/LineTime.lean ====
section
/-!
DEFINITION. Line Time, the reference and the lock machine (spec/02_line_time.md).
-/
namespace Sys2Proof.Machine

/-- `Fc/REFIN`, the cycles per REFIN period, for `LT.XREF.RATE` 0 to 4 (Table 2.1); 0 for none. -/
def cyclesPerRef (rate : Nat) : Nat :=
  match rate with
  | 0 => 300 | 1 => 120 | 2 => 60 | 3 => 30 | 4 => 15 | _ => 0

/-- The expected edge count of a presence window, for `LT.XREF.RATE` (R52). -/
def presenceExpected (rate : Nat) : Nat :=
  match rate with
  | 0 => 100 | 1 => 250 | 2 => 500 | 3 => 1000 | 4 => 2000 | _ => 0

/-- A presence window with this count is good (R52). -/
def presenceGood (rate n : Nat) : Bool :=
  presenceExpected rate - presenceExpected rate / 16 ≤ n && n ≤ presenceExpected rate + presenceExpected rate / 16

/-- `REFIN × p` in kHz for `RATE` and `PRE` (Table 2.20). -/
def preconditioned (rate pre : Nat) : Nat :=
  match pre with
  | 0 => presenceExpected rate * 100 | 1 => presenceExpected rate * 200 | _ => presenceExpected rate * 50

/-- A combination of `RATE`, `PRE` and `NDIV` that R51 and Table 2.1 call valid. -/
def validCombination (rate pre n : Nat) : Bool :=
  rate ≤ 4 && pre ≤ 2 && preconditioned rate pre * n = 3000000 && 15 ≤ n && n ≤ 300
    && preconditioned rate pre ≤ 200000

/-- The lock machine enters WAIT_REF, and passes to CAL at once where REFIN is present (R53, Table 2.3). -/
def enterWaitRef : Prog :=
  ask fun s => setF F.LT_STATE_LOCK_ST (if s.flg F.LT_STATE_REF_OK then 2 else 1)

/-- The remap ends with an outcome of Table 16.9. -/
def endRemap (code : Nat) : Prog :=
  seqs [setF F.CAL_RMST_ST 2, setF F.CAL_RMST_OUT code, dev fun d => { d with xbar := { d.xbar with remap := none } }]

/-- A pending commit is cancelled because Line Time leaves VALID (R27), and a remap that runs with it (R527). -/
def cancelCommit : Prog :=
  seqs [
    on (fun s => s.flg F.XBAR_STATUS_PENDING) (seqs [clrB F.XBAR_STATUS_PENDING, setB F.XBAR_STATUS_CANCELLED]),
    on (fun s => s.dev.xbar.remap.isSome) (endRemap 7)]

/-- Loss of lock, t0 of R75: every transition out of LOCKED, to the lock state `dest`. -/
def lossOfLock (dest : Nat) : Prog :=
  seqs [setB F.LT_STATE_HOLDOVER, setB F.LT_EVT_LOCK_LOSS, count F.LT_LOCKDIAG_LOSSES, raise 145,
    cancelCommit, cancelClears, discardWindows, if dest = 1 then enterWaitRef else setF F.LT_STATE_LOCK_ST dest,
    dev fun d => { d with lt := { d.lt with
      freezeDue := true, tick := d.lt.cyc, resumeWait := none, abandoned := false, clockOuts := false, syncBad := false
      fcLost := d.lt.fcCycles, backupLost := d.lt.backupCycles } }]

/-- A cause of loss: out of LOCKED to LOST, out of ACQUIRE to WAIT_REF (Table 2.3). -/
def lockCause : Prog :=
  ask fun s =>
    if s.fld F.LT_STATE_LOCK_ST = 4 then lossOfLock 5
    else if s.fld F.LT_STATE_LOCK_ST = 3 then enterWaitRef
    else .done

/-- A declaration that REFIN is absent or of the wrong rate (R52). -/
def refLoss : Prog := seqs [clrB F.LT_STATE_REF_OK, setB F.LT_EVT_REF_LOSS, raise 147, lockCause]

/-- The end of a presence window with `n` edges (R52). -/
def progPresenceWindow (n : Nat) : Prog :=
  ask fun s =>
    if 4 < s.fld F.LT_XREF_RATE then .done
    else if presenceGood (s.fld F.LT_XREF_RATE) n then
      seqs [dev fun d => { d with lt := { d.lt with goodWindows := min 4 (d.lt.goodWindows + 1) } },
        on (fun s => s.dev.lt.goodWindows = 4 && !s.flg F.LT_STATE_REF_OK)
          (seqs [setB F.LT_STATE_REF_OK, raise 148,
            on (fun s => s.fld F.LT_STATE_LOCK_ST = 1) (setF F.LT_STATE_LOCK_ST 2)])]
    else
      seqs [dev fun d => { d with lt := { d.lt with goodWindows := 0 } }, refLoss]

/-- A missing edge (R53): a cause of loss of lock only. -/
def progMissingEdge : Prog := lockCause

/-- Coarse calibration ends (Table 2.3). -/
def progCalDone : Prog :=
  on (fun s => s.fld F.LT_STATE_LOCK_ST = 2)
    (seqs [setF F.LT_STATE_LOCK_ST 3, dev fun d => { d with lt := { d.lt with lockGood := 0, lockTotal := 0 } }])

/-- Core `k` calibrates its timing generators at the reading of its channel's sensor, of sensor 16 where it is spare
(R516). -/
def calibrateTg (k : Nat) : Prog :=
  ask fun s => modCore k fun c => { c with tgCal := some (s.sfld (F.MON_TEMP_T (match s.channelOf k with | some n => n / 4 | none => 16))) }

/-- The lock machine reaches LOCKED (t2 of R75): the delay of R57 is measured, the dividers run from this instant (R58), and the
holdover charge is added. -/
def reachLocked (phase : BitVec 16) : Prog :=
  seqs [setF F.LT_STATE_LOCK_ST 4, setF F.LT_PHASE_SUB phase.toNat, raise 146, addHoldoverCharge,
    each cores calibrateTg,
    dev fun d => { d with lt := { d.lt with lockGood := 0, lockTotal := 0, divider := d.lt.cyc % 8 } }]

/-- The end of a lock window (R54, R55) that counted `n` Fc cycles and `backup` backup cycles; `phase` is what the lane of
R57 measures where the window ends in LOCKED. -/
def progLockWindow (n backup : Nat) (phase : BitVec 16) : Prog :=
  ask fun s =>
    let d : Int := (n : Int) - (16384 * cyclesPerRef (s.fld F.LT_XREF_RATE) : Nat)
    let diag := seqs [setZ F.LT_LOCKDIAG_LAST_D (clampInt (-127) 127 d),
      dev fun d => { d with lt := { d.lt with fcCycles := n, backupCycles := max 1 backup } }]
    if s.fld F.LT_STATE_LOCK_ST = 3 then
      let good := if d.natAbs ≤ 2 then s.dev.lt.lockGood + 1 else 0
      let total := s.dev.lt.lockTotal + 1
      diag.seq
        (if good = 4 then reachLocked phase
        else if total = 64 then
          seqs [setF F.LT_STATE_LOCK_ST 2, count F.LT_LOCKDIAG_ACQ_RETRY,
            dev fun d => { d with lt := { d.lt with lockGood := 0, lockTotal := 0 } }]
        else dev fun d => { d with lt := { d.lt with lockGood := good, lockTotal := total } })
    else if s.fld F.LT_STATE_LOCK_ST = 4 then
      diag.seq (if 8 < d.natAbs then lossOfLock 5 else when (2 < d.natAbs) (count F.LT_LOCKDIAG_WARN))
    else .done

/-- The tracking limit (R56). -/
def progTrackingLimit : Prog :=
  on (fun s => s.locked) (seqs [setB F.LT_EVT_TRACK, raise 154, lossOfLock 5])

/-- One backup cycle after entry to LOST (Table 2.3). -/
def progLostHoldEnd : Prog := on (fun s => s.fld F.LT_STATE_LOCK_ST = 5) enterWaitRef

/-- t0 plus two backup cycles of R75: steps 2 and 3. As Line Time leaves VALID, a clear that has been requested since t0 is cancelled
(R194), and the first window after it is re-established carries `GAP` (R174). -/
def progHoldoverFreeze : Prog :=
  on (fun s => s.dev.lt.freezeDue)
    (seqs [dev fun d => { d with lt := { d.lt with freezeDue := false, tick := d.lt.cyc } },
      on (fun s => s.fld F.LT_STATE_LT_ST = 1) (seqs [setF F.LT_STATE_LT_ST 2, cancelClears, missWindows]),
      freezeSequencers, closeAllCaptures])

/-- The 112 bits of an EPOCHIN frame, bit 0 sent first, from its runs in transmit order (Table 2.4). -/
def frameBits (pre head : BitVec 16) (beat : BitVec 64) (crc : BitVec 16) : BitVec 112 := crc ++ beat ++ head ++ pre

/-- The fields of an EPOCHIN frame whose bit 0 is sent first: each least significant bit first, the bytes of `BEAT` and `CRC`
low byte first (R61, Table 2.4). The preamble has bits 0 to 15. -/
def frameSfd (bits : BitVec 112) : Byte := bits.extractLsb' 16 8
def frameFlags (bits : BitVec 112) : Byte := bits.extractLsb' 24 8
def frameBeat (bits : BitVec 112) : BitVec 64 := bits.extractLsb' 32 64
def frameCrc (bits : BitVec 112) : BitVec 16 := bits.extractLsb' 96 16

/-- A frame has the start byte, the version and the CRC of Table 2.4 (R62, R63); the preamble is not judged. -/
def frameOk (bits : BitVec 112) : Bool :=
  frameSfd bits = 0x5D && (frameFlags bits).toNat / 16 = 1
    && frameCrc bits = crc16 (frameFlags bits :: natLE 8 (frameBeat bits).toNat)

/-- A complete EPOCHIN frame (R63, R64). `clean` tells that every transition lay within the tolerance, and `gap` is the
number of REFIN periods from its last bit to the beat it announces. -/
def progEpochinFrame (clean : Bool) (bits : BitVec 112) (gap : Nat) : Prog :=
  if clean && frameOk bits && 64 ≤ gap then
    seqs [on (fun s => s.dev.lt.frame.isSome) (count F.LT_CNT_FRAME_DROP),
      dev fun d => { d with lt := { d.lt with
        frame := some ⟨(frameBeat bits).toNat, (frameFlags bits).toNat.testBit 3⟩ } }]
  else count F.LT_CNT_FRAME_DROP

/-- Line Time is loaded with `t` (R66): what waits for a boundary waits from now on (R85), and the grid is taken up anew
(R112). -/
def rebaseRequests (t : Nat) : Prog :=
  seqs [dev fun d => { d with
      chb := []
      reqs := d.reqs.map fun r => { r with at_ := t }
      fes := d.fes.map fun e => (e.1, { e.2 with trims := e.2.trims.map fun x => { x with at_ := t } }) },
    each channels fun n => ask fun s => modCore (s.core n) fun c => { c with
      drv := { c.drv with next := none, calm := c.drv.calm.map fun _ => t, leave := c.drv.leave.map fun _ => t }
      play := { c.play with name := c.play.name.map fun x => (x.1, t) }
      seq := { c.seq with
        offers := c.seq.offers.map fun o => (o.1, t), since := t, b := min c.seq.b t, ut := min c.seq.ut t
        taken := none, resumed := none, evjWas := [], offered := (0, 0) } }]

/-- An instant on the count before the load, on the count after it. -/
def shifted (old new t : Nat) : Nat := t + new - old

/-- What measures time at the event inputs since an instant keeps its distance from now as the count goes from `old` to `new`
(R66): the lanes' last edges and queues, the input levels, the gates, and the boundaries at which stamps fall due; stamps keep
their values (R218). -/
def rebaseEvents (old new : Nat) : Prog :=
  dev fun d => { d with
    evt := {
      last := d.evt.last.map fun e => (e.1, shifted (old * 256) (new * 256) e.2)
      queue := d.evt.queue.map fun e => (e.1, shifted old new e.2)
      levels := d.evt.levels.map fun e => (e.1, e.2.map fun x => (shifted old new x.1, shifted old new x.2.1, x.2.2)) }
    cores := d.cores.map fun e => (e.1, { e.2 with
      gates := e.2.gates.map fun x => (shifted old new x.1, x.2)
      gateFrom := shifted old new e.2.gateFrom
      stamps := e.2.stamps.map fun p => { p with from_ := shifted old new p.from_, last := shifted old new p.last } }) }

/-- A window on the count before the load, on the count after it; where S has passed, its stamp S keeps its value (R76), and the charge
there, `q`, is kept. -/
def Window.rebased (old new : Nat) (q : Nat → Int) (x : Window) : Window :=
  if old < x.s then { x with b := shifted old new x.b, s := shifted old new x.s }
  else { x with b := shifted old new x.b, q := some (x.q.getD (q x.s)) }

/-- The charge at the origins of the masks before the load is kept (Table 9.5). -/
def keepOrigins : Prog :=
  ask fun s => each channels fun n => each ((List.range 4).filter fun i => (s.mask (s.core n) i).origins ≠ []) fun i =>
    modMask (s.core n) i fun m => { m with
      charges := m.origins.map fun o => (o, ((m.charges.find? fun e => e.1 = o).map (·.2)).getD (s.charge n (o * 256))) }

/-- The same for what the front ends measure: windows, packets in progress, the loops and the comparators. A charge before a load that
sets the count back is told only where it has been kept. -/
def rebaseFronts (old new : Nat) : Prog :=
  ask fun s =>
  let sub := shifted (old * 256) (new * 256)
  let exc (x : Excursion) := { x with start := sub x.start, stop := sub x.stop }
  dev fun d => { d with fes := d.fes.map fun e => (e.1, { e.2 with
    window := e.2.window.map (·.rebased old new fun t => s.charge e.1 (t * 256))
    ready := e.2.ready.map (·.rebased old new fun t => s.charge e.1 (t * 256))
    packetEnd := e.2.packetEnd.map (shifted old new), qpFrom := e.2.qpFrom.map (shifted old new)
    lastSwap := e.2.lastSwap.map (shifted old new), hist := if old ≤ new then e.2.hist else []
    loop := { e.2.loop with load := sub e.2.loop.load, at_ := sub e.2.loop.at_ }
    oc := e.2.oc.map exc, ov := e.2.ov.map exc }) }

/-- The same for what resets, power states and the watchdog measure. An instant that has passed has no distance to keep. -/
def rebasePower (old new : Nat) : Prog :=
  dev fun d =>
    let kept (t : Nat) : Nat := if t ≤ old then 0 else shifted old new t
    { d with
      pins := { d.pins with bootResetEnd := kept d.pins.bootResetEnd }
      rst := { d.rst with
        due := kept d.rst.due, wdEnd := kept d.rst.wdEnd, standby := d.rst.standby.map (shifted old new)
        settle := d.rst.settle.map fun e => (e.1, shifted old new e.2) } }

/-- What `LT_CYC` is loaded with at beat `b`: its Line Time, corrected by the skew that takes effect and by the phase (R66). -/
def State.loadedCyc (s : State) (b : Nat) : Nat :=
  let skew := s.dev.lt.skewPending.getD s.dev.lt.skew
  (((b * (s.reg R.LT_BEATCYC).toNat * 256 : Nat) + skew + (s.fld F.LT_PHASE_SUB : Nat) : Int) / 256).toNat % 2 ^ 64

/-- The announced beat makes Line Time valid (R66, t3 of R75); the dividers are realigned (R58). -/
def loadLineTime (f : Frame) : Prog :=
  ask fun s =>
    let t := s.loadedCyc f.beat
    seqs [
      when (s.fld F.LT_STATE_LT_ST = 2)
        (setZ F.LT_REEST_STEP (clampInt (-(2 ^ 31)) (2 ^ 31 - 1) ((t : Int) - s.now))),
      set64 R.LT_BEAT_LO R.LT_BEAT_HI f.beat,
      setF F.LT_STATE_LT_ST 1, setF F.LT_STATE_MHOLD (if f.mhold then 1 else 0), clrB F.LT_STATE_SUSPECT,
      setLevel 153 false, raise 149,
      when (s.dev.lt.skewPending.isSome) (raise 155),
      on (fun s => s.flg F.LT_STATE_HOLDOVER)
        (dev fun d => { d with lt := { d.lt with resumeWait := some 0 } }),
      clrB F.LT_STATE_HOLDOVER,
      dev fun d => { d with lt := { d.lt with
        cyc := t, frame := none, syncBad := false, mismatches := 0, clockOuts := true, divider := 0,
        skew := d.lt.skewPending.getD d.lt.skew, skewPending := none } },
      keepOrigins, rebaseRequests t, rebaseEvents s.now t, rebaseFronts s.now t, rebasePower s.now t]

/-- A beat that loads nothing: a skew that waits takes effect (R70). -/
def skewBeat : Prog :=
  on (fun s => s.dev.lt.skewPending.isSome)
    (seqs [raise 155, dev fun d => { d with lt := { d.lt with skew := d.lt.skewPending.getD d.lt.skew, skewPending := none } }])

/-- SYNCIN is sampled 1 after 0 at a REFIN edge (R59): it loads Line Time where a frame announced it (R66); a frame that
announced it while unlocked is spent, but for its `MHOLD` (R64, R65). While VALID it stands for one that falls at an edge other than an expected one
(R67; the expected one belongs to BEAT). -/
def progSyncinBeat : Prog :=
  ask fun s =>
    if s.fld F.LT_STATE_LT_ST = 1 then
      seqs [count F.LT_CNT_SYNC_ERR, raise 152, dev fun d => { d with lt := { d.lt with syncBad := true } }]
    else
      match s.dev.lt.frame with
      | some f =>
        if s.locked then loadLineTime f
        else seqs [setF F.LT_STATE_MHOLD (if f.mhold then 1 else 0), skewBeat,
          dev fun d => { d with lt := { d.lt with frame := none } }]
      | none => skewBeat

/-- The automatic resume of R75 to R77 at a beat that raised an error or none. DESIGN CHOICE (see notes/assumptions/80.md):
beats count only while `RESUME` is BEAT. -/
def automaticResume (error : Bool) : Prog :=
  on (fun s => s.flg F.LT_CTL_RESUME)
    (seqs [
      ask fun s =>
        match s.dev.lt.resumeWait with
        | none => .done
        | some n =>
          if !error then
            seqs [dev fun d => { d with lt := { d.lt with resumeWait := none } },
              when s.powerRun (seqs [dev fun d => { d with lt := { d.lt with standbyResume := false } }, resumeFrozen])]
          else if n + 1 = 8 then
            seqs [setB F.LT_EVT_RES_FAIL, raise 156,
              dev fun d => { d with lt := { d.lt with resumeWait := none, abandoned := true } }]
          else dev fun d => { d with lt := { d.lt with resumeWait := some (n + 1) } },
      on (fun s => s.dev.lt.standbyResume && s.dev.lt.resumeWait.isNone && !s.dev.lt.abandoned)
        (seqs [dev fun d => { d with lt := { d.lt with standbyResume := false } }, resumeFrozen])])

/-- An expected beat while VALID (R67); `sync` tells whether a SYNCIN beat occurs at its REFIN edge. -/
def progBeat (sync : Bool) : Prog :=
  on (fun s => s.fld F.LT_STATE_LT_ST = 1)
    (ask fun s =>
      let num := (s.reg64 R.LT_BEAT_LO R.LT_BEAT_HI + 1) % 2 ^ 64
      let frame := s.dev.lt.frame
      let differs := match frame with | some f => f.beat != num | none => false
      let row := match frame with | some _ => (if differs then min 3 (s.dev.lt.mismatches + 1) else 0) | none => s.dev.lt.mismatches
      seqs [
        advance (num * (s.reg R.LT_BEATCYC).toNat),
        set64 R.LT_BEAT_LO R.LT_BEAT_HI num,
        when (!sync) (seqs [count F.LT_CNT_BEAT_MISS, raise 151]),
        when differs (seqs [count F.LT_CNT_EPOCH_ERR, raise 150]),
        match frame with
        | some f => setF F.LT_STATE_MHOLD (if f.mhold then 1 else 0)
        | none => .done,
        when (frame.isSome && row = 0) (seqs [clrB F.LT_STATE_SUSPECT, setLevel 153 false]),
        when (frame.isSome && row = 3) (seqs [setB F.LT_STATE_SUSPECT, setLevel 153 true]),
        when s.dev.lt.skewPending.isSome (raise 155),
        dev fun d => { d with lt := { d.lt with
          frame := none, mismatches := row, syncBad := false, clockOuts := true,
          skew := d.lt.skewPending.getD d.lt.skew, skewPending := none } },
        automaticResume (differs || s.dev.lt.syncBad)])

/-- `LT.CTL.REALIGN` written with 1 (R69). DESIGN CHOICE (see notes/assumptions/78.md): a frame that waits still announces its
beat. -/
def effRealign : Prog :=
  ask fun s =>
    if s.anyActive then setB F.LT_EVT_BUSY
    else seqs [when s.valid missWindows, setF F.LT_STATE_LT_ST 0, cancelCommit, cancelClears]

/-- `LT.CTL.RELOCK` written with 1 (R79): LOST and a new lock. -/
def effRelock : Prog :=
  ask fun s =>
    if s.anyActive then setB F.LT_EVT_BUSY
    else if s.locked then lossOfLock 5
    else when (s.fld F.LT_STATE_LOCK_ST ≠ 0) (setF F.LT_STATE_LOCK_ST 5)

/-- A write of `LT.SKEW` (R70). -/
def effSkew (v : Nat) : Prog :=
  ask fun s =>
    if 256 < (signed 20 v - s.dev.lt.skew).natAbs && s.anyActive then setB F.LT_EVT_BUSY
    else seqs [setF F.LT_SKEW_SUB v, dev fun d => { d with lt := { d.lt with skewPending := some (signed 20 v) } }]

/-- A clock profile that forms the word `w` of `LT.XREF` takes effect (R52, R54, R80); it is known to be allowed. DESIGN
CHOICE (see notes/assumptions/77.md): RATE 7 counts as another nominal rate. -/
def profileTakesEffect (w : Word) : Prog :=
  ask fun s =>
    let rate := fieldGet w 12 3
    let newRate := rate != s.fld F.LT_XREF_RATE
    seqs [
      setR R.LT_XREF w,
      when newRate (seqs [clrB F.LT_STATE_REF_OK, dev fun d => { d with lt := { d.lt with goodWindows := 0 } }]),
      if rate = 7 then (if s.locked then lossOfLock 0 else setF F.LT_STATE_LOCK_ST 0)
      else if s.locked then lossOfLock 1 else enterWaitRef]

/-- The combination of a word of `LT.XREF` may take effect: R80. -/
def xrefAllowed (s : State) (w : Word) : Bool :=
  (fieldGet w 12 3 = 7 && fieldGet w 10 2 ≠ 3) ||
    (validCombination (fieldGet w 12 3) (fieldGet w 10 2) (fieldGet w 0 9)
      && (s.reg R.LT_BEATCYC).toNat % cyclesPerRef (fieldGet w 12 3) = 0)

/-- A clock profile is asked for, by a write of `LT.XREF` or a selection in `LT.CLKPROF` (R79, R80); `ok` is what a
selection that is not refused does besides. -/
def effXref (w : Word) (ok : Prog) : Prog :=
  ask fun s =>
    let w' := w &&& R.LT_XREF.id.mask
    if !xrefAllowed s w then setB (F.BSTAT_BADVAL 1)
    else if w' = s.reg R.LT_XREF then ok
    else if s.anyActive then setB F.LT_EVT_BUSY
    else ok.seq (profileTakesEffect w')

/-- A write of `LT.BEATCYC` is accepted (R60). -/
def beatCycOk (s : State) (v : Nat) : Bool :=
  v % 8 = 0 && 300000 ≤ v && v ≤ 3000000000
    && v % (if s.fld F.LT_XREF_RATE ≤ 4 then cyclesPerRef (s.fld F.LT_XREF_RATE) else 600) = 0

/-- A word of `LT.CLKOUT[i]` has a divider that R73 accepts, whatever its source. -/
def clkoutDivOk (s : State) (w : Word) : Bool :=
  let div := fieldGet w 0 16
  let fmt := fieldGet w 28 2
  div ≠ 0 && (s.reg R.LT_BEATCYC).toNat % div = 0 && (if fmt = 3 then 12 ≤ div else if fmt = 0 then true else 4 ≤ div)

/-- A word of `LT.CLKOUT[i]` has a level that Table 2.19 names for its format. -/
def clkoutLevelOk (w : Word) : Bool :=
  if fieldGet w 28 2 = 2 then fieldGet w 26 2 = 0 else fieldGet w 26 2 ≤ 2

/-- What the pair `CLKOUT[i]` gives at cycle `raw` of the device's own count (R70, R72 to R74): none where it is off or
follows REFIN, else the level of its `_P` pin. DESIGN CHOICE (see notes/assumptions/79.md): BEAT outputs, too, are low until
Line Time is valid. -/
def clockOut (s : State) (i raw : Nat) : Option Bool :=
  let t := s.lineTime (raw * 256) / 256
  let div := s.fld (F.LT_CLKOUT_DIV i)
  if s.fld (F.LT_CLKOUT_FMT i) = 0 then none
  else match s.fld (F.LT_CLKOUT_SRC i) with
    | 0 => some (s.locked && s.dev.lt.clockOuts && decide (t % div < (div + 1) / 2))
    | 2 => some (s.locked && s.dev.lt.clockOuts && decide (t % (s.reg R.LT_BEATCYC).toNat < div))
    | _ => none

end Sys2Proof.Machine
end

