-- ==== Sys2Proof/Machine/Xbar.lean ====
section
/-!
DEFINITION. The crossbar (R21 to R28), what a commit moves (R193, R219, R318, R525, R526), and the sequencer context of
`SEQ.CTX`.
-/
namespace Sys2Proof.Machine

/-! ## The commit request (R25, R28) -/

/-- The pending map and gangs. -/
def State.pendMap (s : State) : List Nat := channels.map fun n => s.fld (F.XBAR_MAP_PEND n)
def State.pendGangs (s : State) : List Nat := (List.range 16).map fun g => s.fld (F.XBAR_GANG_PEND g)

/-- Two entries of a list are equal. -/
def hasRepeat : List Nat → Bool
  | [] => false
  | a :: r => r.contains a || hasRepeat r

/-- A gang group whose arrangement is to change has a channel that is not parked. -/
def State.gangBusy (s : State) : Bool :=
  (List.range 16).any fun g =>
    s.fld (F.XBAR_GANG_PEND g) ≠ s.fld (F.XBAR_GANG_MODE g) && !([0, 1, 2, 3].all fun i => s.parked (4 * g + i))

/-- A commit is requested for beat `b` (R25). -/
def effCommit (b : Nat) : Prog :=
  ask fun s =>
    let nolt := !s.valid
    let busy := s.flg F.XBAR_STATUS_PENDING
    let past := !nolt && b ≤ s.reg64 R.LT_BEAT_LO R.LT_BEAT_HI
    let conflict := hasRepeat s.pendMap
    if nolt || busy || past || conflict || s.gangBusy then seqs [
      when nolt (setB F.XBAR_STATUS_NOLT), when busy (setB F.XBAR_STATUS_BUSY), when past (setB F.XBAR_STATUS_PAST),
      when conflict (setB F.XBAR_STATUS_CONFLICT), when s.gangBusy (setB F.XBAR_STATUS_GANG_BUSY)]
    else seqs [
      dev fun d => { d with xbar := { d.xbar with map := s.pendMap, gangs := s.pendGangs, beat := b } },
      setB F.XBAR_STATUS_PENDING]

/-! ## The context of a sequencer (Table 8.20) -/

/-- A 64-bit number as two context words. -/
def ctxWide (n : Nat) : List Nat := [n % 2 ^ 32, n / 2 ^ 32 % 2 ^ 32]

/-- A list of context words filled with 0 to `n` words. -/
def ctxPad (n : Nat) (l : List Nat) : List Nat := (l ++ List.replicate n 0).take n

/-- The code of a stall in a context. -/
def Stall.code : Stall → Nat | .none => 0 | .play => 1 | .waitlt => 2 | .waitev => 3 | .micro => 0

/-- The 64 words of the context of core `k`: PC, `WHY`, pending bits, T0, T1, the stacks, the deferred actions. -/
def State.ctxWords (s : State) (k : Nat) : List Nat :=
  let q := (s.cst k).seq
  let b (x : Bool) (i : Nat) : Nat := if x then 2 ^ i else 0
  ctxPad 64 (
    [s.pc k, s.fld (F.SEQ_WHY_CLASS k), s.fld (F.EVJ_PEND_PEND k),
      q.stall.code + b q.wtmo 2 + b q.ltpast 3 + b q.armok 4 + b q.anch 5 + b q.thawed 6 + 256 * q.heldSt + 65536 * q.slot,
      q.mask, q.superTgt, q.loops.length + 16 * q.calls.length + 256 * q.dq.length, s.stepOp k]
    ++ ctxWide q.t0 ++ ctxWide q.t1 ++ ctxWide q.b
    ++ ctxPad 24 (q.loops.flatMap fun l => [l.enda, l.body, l.rem])
    ++ ctxPad 16 (q.calls.flatMap fun c => [c.1, c.2])
    ++ ctxPad 4 (q.dq.map fun x => x.tgt + b x.call 31))

/-- Groups of a list: `n` groups of `k` members. -/
def chunks (k : Nat) (l : List Nat) : Nat → List (List Nat)
  | 0 => []
  | n + 1 => l.take k :: chunks k (l.drop k) n

/-- The sequencer of core `k` takes its context from words (R526). -/
def ctxLoad (k : Nat) (l : List Nat) : Prog :=
  let w (i : Nat) : Nat := l.getD i 0
  let fl := w 3
  let wide (i : Nat) : Nat := w i + 2 ^ 32 * w (i + 1)
  let nl := w 6 % 16
  let nc := w 6 / 16 % 16
  let nd := w 6 / 256 % 16
  seqs [
    setF (F.SEQ_PC_ADDR k) (w 0), setF (F.SEQ_WHY_CLASS k) (w 1), setF (F.EVJ_PEND_PEND k) (w 2),
    modSeq k fun q => { q with
      stall := match fl % 4 with | 1 => .play | 2 => .waitlt | 3 => .waitev | _ => .none
      wtmo := fl.testBit 2, ltpast := fl.testBit 3, armok := fl.testBit 4, anch := fl.testBit 5, thawed := fl.testBit 6
      heldSt := fl / 256 % 256, slot := fl / 65536 % 32, mask := w 4, superTgt := w 5
      t0 := wide 8, t1 := wide 10, b := wide 12, offers := []
      loops := (chunks 3 (l.drop 14) nl).map fun g => ⟨g.getD 0 0, g.getD 1 0, g.getD 2 0⟩
      calls := (chunks 2 (l.drop 38) nc).map fun g => (g.getD 0 0, g.getD 1 0)
      dq := ((l.drop 54).take nd).map fun x => ⟨x.testBit 31, x % 2 ^ 21⟩ }]

/-- Word `i` of `SEQ.CTX` of core `k` as it reads: the context of a sequencer that serves a channel, the stored word of a
spare core. -/
def State.ctxWord (s : State) (k i : Nat) : Word :=
  if (s.channelOf k).isSome then BitVec.ofNat 32 ((s.ctxWords k).getD i 0) else s.reg (R.SEQ_CTX k i)

/-! ## The commit takes effect (R26, R525, R526) -/

/-- The conversion settings of two cores are equal (R193). -/
def State.sameConv (s : State) (a b : Nat) : Bool :=
  s.reg (R.CONV_CTL a) = s.reg (R.CONV_CTL b) && s.reg (R.CONV_WIN a) = s.reg (R.CONV_WIN b)
    && s.reg (R.CONV_OFS a) = s.reg (R.CONV_OFS b) && s.reg (R.CONV_CFG a) = s.reg (R.CONV_CFG b)

/-- The window in progress of channel `n` as the channel moves from core `a` to core `b`; `s` is the state before the commit
(R193). One that has ended does not span the commit. -/
def moveWindow (s : State) (n a b : Nat) : Prog :=
  let same := s.sameConv a b
  seqs [
    modWin b fun w => { w with gap := (s.cst a).win.gap || (!same && (s.fe n).window.isSome) },
    modFe n fun f => { f with
      window := if same then f.window.map fun x => { x with flags := x.flags ||| 128 } else none }]

/-- The sample history that the resampler of core `a` holds: the index of the first sample, and the words of those that the cycle in
progress was formed from (R238, R525). -/
def State.sampleHistory (s : State) (a : Nat) : Int × List Nat :=
  let p := (s.cst a).play
  if p.playing && p.vec.isNone then
    let lo : Int := (p.idx : Int) - (taps p.filt).1
    (lo, (List.range ((taps p.filt).1 + (taps p.filt).2 + 1)).map fun j => s.sampleWord a (lo + j))
  else (0, [])

/-- What the crossbar moves from core `a` to core `b` (R525). A slot playing that is not READY in the new core is one that
cannot play: it is taken as a segment that is to start, and its successor as the name that follows. -/
def movePlay (s : State) (a b : Nat) : Prog :=
  let p := (s.cst a).play
  let nm := (p.next.map fun i => (i, s.now)).orElse fun _ => p.name
  let p' := if p.playing && s.slotSt b p.slot ≠ 2 then
      { p with playing := false, vec := none, next := some p.slot, name := nm, checked := none, dwell := false, lull := false }
    else { p with checked := none, moved := s.sampleHistory a }
  seqs [
    modPlay b fun _ => p',
    setF (F.PLAY_SEGID_SEGID b) (s.fld (F.PLAY_SEGID_SEGID a)),
    setF (F.LOOP_NOW_VLIM b) (s.fld (F.LOOP_NOW_VLIM a)), setF (F.LOOP_TAPERNOW_MAG b) (s.fld (F.LOOP_TAPERNOW_MAG a)),
    modDrv b fun d => { d with
      levels := (s.cst a).drv.levels, edges := (s.cst a).drv.edges, run := (s.cst a).drv.run, dir := 0
      pulse := none, next := none, calm := none, leave := none, lines := (s.cst a).drv.lines }]

/-- The sequencer of the new core `b` of channel `n`, whose old core was `a` (R526). -/
def moveSequencer (s : State) (n a b : Nat) : Prog :=
  let st := s.seqSt a
  if st = stHeld && (s.cst b).ctxWritten then
    seqs [ctxLoad b ((List.range 64).map fun i => (s.reg (R.SEQ_CTX b i)).toNat), setF (F.SEQ_STATE_ST b) stHeld]
  else seqs [setF (F.SEQ_STATE_ST b) stIdle,
    when (st = stRun || st = stWait || st = stHeld) (setB (F.CAL_CH_TST_CTXLOST n))]

/-- Channel `n` moves from core `a` to core `b`; `s` is the state before any channel has moved, so that two channels may
exchange their cores. -/
def moveChannel (s : State) (n a b : Nat) : Prog :=
  seqs [moveWindow s n a b, movePlay s a b, moveSequencer s n a b]

/-- A core has become spare (R22): it is idle. -/
def becomeSpare (k : Nat) : Prog :=
  seqs [setF (F.FMT_MODE_CUR k) 0, setF (F.SEQ_STATE_ST k) stIdle,
    modCore k fun c => { c with drv := {}, play := {}, seq := { markSeq := c.seq.markSeq }, ctxWritten := false },
    dev fun d => { d with reqs := d.reqs.filter fun r => r.core ≠ k }]

/-- Requests for registers of core `k` take effect at once: the core no longer serves the channel whose boundary they
waited for. -/
def settleRegs (k : Nat) : Prog := ask fun s => applyRegs (s.dev.reqs.filter fun r => r.core = k)

/-- The beat of the pending commit (R26). -/
def progCommitTakesEffect : Prog :=
  on (fun s => s.flg F.XBAR_STATUS_PENDING && s.valid)
    (ask fun s =>
      let x := s.dev.xbar
      let moved := channels.filter fun n => x.map.getD n n ≠ s.core n
      let olds := moved.map s.core
      let news := moved.map fun n => x.map.getD n n
      seqs [
        advance (x.beat * (s.reg R.LT_BEATCYC).toNat),
        each olds settleRegs, each olds useGrid,
        each olds fun k => seqs [closeCapture k 16, commitUnits k],
        ask fun s' => each moved fun n => moveChannel s' n (s'.core n) (x.map.getD n n),
        each channels fun n => setF (F.XBAR_MAP_CORE n) (x.map.getD n n),
        each (List.range 16) fun g => setF (F.XBAR_GANG_MODE g) (x.gangs.getD g 0),
        clrB F.XBAR_STATUS_PENDING, setB F.XBAR_STATUS_DONE,
        each (olds.filter fun k => !news.contains k) becomeSpare,
        each moved fun n => ask fun s' => seqs [
          windowCalm n s'.now true, setF (F.FMT_MODE_CUR (s'.core n)) 1,
          when (!s.calm n) (calmRequest n)]])

end Sys2Proof.Machine
end

