-- ==== Sys2Proof/Machine/Warm.lean ====
section
/-!
DEFINITION. What a CORE reset does to a slice core (R494), and what the warm resets and a POR do to all of them (R219, R234,
R318, R567).
-/
namespace Sys2Proof.Machine

/-- A register of core `k`, or of the header of its block. -/
def ofCore (k : Nat) (r : RegKey) : Bool :=
  (r.id.blk = .core && r.u = k) || (r.id.blk = .hdr && r.u = 0x100 + k)

/-- Every register of `CORE[k]` takes its Cold value, but for its RWL field `TG.DTMIN` and `FMT.MODE.CUR`, which reads Calm
where the core serves a channel (R22, R124, R494). -/
def coldCore (k : Nat) : Prog :=
  ask fun s => seqs [
    .regMap (fun r w => if ofCore k r && r.id ≠ .TG_DTMIN then r.cold else w) .done,
    setF (F.FMT_MODE_CUR k) (if (s.channelOf k).isSome then 1 else 0),
    dev fun d => { d with
      eff := d.eff.filter fun e => !ofCore k e.1
      reqs := d.reqs.filter fun r => r.core ≠ k
      bus := { d.bus with raw := d.bus.raw.filter fun r => !ofCore k r
                          held := d.bus.held.filter fun e => !ofCore k e.1 } }]

/-- A CORE reset of core `k` (R494): its slots are EMPTY and refills into them end, its sequencer, units and capture are
IDLE, its masks OFF. The front end is not touched, and the timing generators stay calibrated (R516). -/
def coreReset (k : Nat) : Prog := ask fun s =>
  seqs [coldCore k, modCore k fun c => { gateFrom := s.boundary s.now, tgCal := c.tgCal }, cancelRefills k]

/-- A write of `GO` to `PWR.CORERST` for core `k` (R494): a RESUME of its channel at the same boundary finds the sequencer IDLE and is
refused (R503). -/
def effCoreReset (k : Nat) : Prog :=
  seqs [ask fun s => advance (s.boundary s.now),
    ask fun s =>
      let ok := match s.channelOf k with | some n => s.calm n || s.parked n | none => true
      if !ok then setB F.PWR_STAT_CREJ
      else if (s.cst k).seq.resumed = some s.now then seqs [
        each (match s.channelOf k with | some n => s.gangCores n | none => []) fun m => modDrv m fun d => { d with leave := none },
        coreReset k, refuseCommand k 1]
      else coreReset k]

/-- What a core holds after a warm reset at boundary `t`: sequencer, units, capture and masks at rest, no slot active, the gates low, the
measurement gate true and judged from then on, the window grid and what belongs to the channel kept (R219, R234, R318, R567). -/
def CoreSt.warm (t : Nat) (c : CoreSt) : CoreSt :=
  { drv := { levels := [0, 0, c.drv.level 2, c.drv.level 3] }
    validating := c.validating, div := c.div, gateFrom := t, tgCal := c.tgCal
    win := { w := c.win.w, ofs := c.win.ofs, gap := c.win.gap, fresh := c.win.fresh, judged := c.win.judged } }

/-- Every core at t3 of a warm reset: requests that wait for a boundary have taken effect by then, or do so now. -/
def warmCores : Prog :=
  seqs [ask fun s => applyRegs s.dev.reqs,
    ask fun s => dev fun d => { d with reqs := [], cores := d.cores.map fun e => (e.1, e.2.warm (s.boundary s.now)) },
    ask fun s => each cores fun k => setF (F.FMT_MODE_CUR k) (if (s.channelOf k).isSome then 1 else 0)]

end Sys2Proof.Machine
end

