-- ==== Sys2Proof/Machine/Health.lean ====
section
/-!
DEFINITION. Calibration, monitors, remap and hand-off (spec/16_calibration_health.md, R509 to R531).
-/
namespace Sys2Proof.Machine

/-! ## The calibration store (R509 to R512) -/

/-- The base and the size of the calibration store (R509). -/
def calBase : Nat := padBase + 0xFC0000
def calSize : Nat := 0x20000

/-- `n` bytes of the store at offset `o`, as an unsigned and as a signed number (R8). -/
def State.cal (s : State) (o n : Nat) : Nat := s.num (calBase + o) n
def State.calZ (s : State) (o n : Nat) : Int := signed (8 * n) (s.cal o n)

/-- The header of the store is valid (R511): `MAGIC`, `VER`, `DEV`. DESIGN CHOICE (see notes/assumptions/107.md): one with an
uncorrectable word, whose read ends in a bus error, is not. -/
def State.calHeader (s : State) : Bool :=
  s.cal 0 4 = 0xCA1B5E70 && s.cal 4 2 = 1 && s.cal 8 2 = s.devId && !s.badWord calBase 128

/-- A quantity table of a channel set: its quantity, its number of points, and the offset of its first point. -/
structure CalTable where
  qty : Nat
  npt : Nat
  ofs : Nat

/-- The `n` quantity tables from offset `o`, and the offset behind them. -/
def State.calTables (s : State) (o : Nat) : Nat → List CalTable × Nat
  | 0 => ([], o)
  | n + 1 =>
    let npt := s.cal (o + 1) 1
    let r := s.calTables (o + 4 + 8 * npt) n
    (⟨s.cal o 1, npt, o + 4⟩ :: r.1, r.2)

/-- Whether a quantity is unsigned, and the range of its values (Table 16.3). -/
def calRange (q : Nat) : Bool × Int × Int :=
  match q with
  | 0 => (true, 1200000000, 1300000000)
  | 1 => (true, 700000, 4000000000)
  | 2 => (true, 270000000, 330000000)
  | 3 | 4 => (false, -2048, 2047)
  | 5 => (false, -512, 511)
  | 6 | 7 => (false, -128, 127)
  | 11 | 15 => (true, 0, 4095)
  | _ => (false, -512, 511)

/-- Temperature and value of point `i` of a table. -/
def State.calT (s : State) (t : CalTable) (i : Nat) : Int := s.calZ (t.ofs + 8 * i) 2
def State.calV (s : State) (t : CalTable) (i : Nat) : Int :=
  if (calRange t.qty).1 then (s.cal (t.ofs + 8 * i + 4) 4 : Nat) else s.calZ (t.ofs + 8 * i + 4) 4

/-- A quantity table is valid by itself (R511). -/
def State.calTableOk (s : State) (t : CalTable) : Bool :=
  t.qty ≤ 15 && 1 ≤ t.npt && t.npt ≤ 8 && s.cal (t.ofs - 2) 2 = 0
    && (List.range t.npt).all fun i =>
      -4000 ≤ s.calT t i && s.calT t i ≤ 12500 && s.cal (t.ofs + 8 * i + 2) 2 = 0
        && (i = 0 || s.calT t (i - 1) < s.calT t i)
        && (calRange t.qty).2.1 ≤ s.calV t i && s.calV t i ≤ (calRange t.qty).2.2

/-- The channel set at offset `o` is valid (R511), apart from a channel that repeats; none of its words is uncorrectable. -/
def State.calSetOk (s : State) (o : Nat) : Bool :=
  let nq := s.cal (o + 1) 1
  let len := s.cal (o + 4) 4
  let t := s.calTables (o + 16) nq
  s.cal o 1 ≤ 63 && 1 ≤ nq && nq ≤ 16 && s.cal (o + 2) 1 ≤ 1 && s.cal (o + 3) 1 = 0 && s.cal (o + 8) 8 = 0
    && len % 8 = 0 && t.2 ≤ o + len && o + len ≤ min s.dev.image.calLen calSize
    && t.1.all s.calTableOk && !hasRepeat (t.1.map (·.qty)) && !s.badWord (calBase + o) len

/-- Offsets of the channel sets, at most `n` from offset `o`; a length that leads nowhere ends the list. -/
def State.calSets (s : State) (o : Nat) : Nat → List Nat
  | 0 => []
  | n + 1 =>
    let len := s.cal (o + 4) 4
    if calSize ≤ o then []
    else if len < 16 || len % 8 ≠ 0 then [o]
    else o :: s.calSets (o + len) n

/-- The channels with a valid set, and the offsets of the sets (R511). -/
def State.calChannels (s : State) : List (Nat × Nat) :=
  if !s.calHeader then []
  else
    let l := s.calSets 128 (min 64 (s.cal 6 2))
    let named := l.map fun o => (s.cal o 1, o)
    (l.zipIdx.filter fun e => s.calSetOk e.1 && !((named.take e.2).any fun x => x.1 = s.cal e.1 1)).map
      fun e => (s.cal e.1 1, e.1)

/-- MP1 reads the store (R418, R419): its header, then the sets that this leads to. -/
def calRead : Prog :=
  ask fun s => seqs [
    eccRead calBase 128,
    when s.calHeader (each (s.calSets 128 (min 64 (s.cal 6 2))) fun o => eccRead (calBase + o) (s.cal (o + 4) 4))]

/-- The greatest index below `n` of a point whose temperature does not exceed `t`. -/
def State.calIndex (s : State) (c : CalTable) (t : Int) : Nat → Nat
  | 0 => 0
  | n + 1 => if s.calT c n ≤ t then n else s.calIndex c t n

/-- The value of a quantity at sensor reading `t`, before the clamp (R512). -/
def State.calValue (s : State) (c : CalTable) (t : Int) : Int :=
  let m := c.npt - 1
  if t ≤ s.calT c 0 then s.calV c 0
  else if s.calT c m ≤ t then s.calV c m
  else
    let k := s.calIndex c t c.npt
    let d := s.calT c (k + 1) - s.calT c k
    divNear (s.calV c k * d + (s.calV c (k + 1) - s.calV c k) * (t - s.calT c k)) d.toNat

/-! ## Levels of the monitor sources (Table 16.12) -/

/-- A bit of `CAL.CH[n].TST` is set in some channel. -/
def State.someTst (s : State) (f : Nat → Field) : Bool := channels.any fun n => s.flg (f n)

/-- Sources 230 to 232 follow the status bits. -/
def judgeTst : Prog :=
  ask fun s => seqs [
    setLevel 230 (s.someTst (fun n => F.CAL_CH_TST_LIMIT n) || s.someTst fun n => F.CAL_CH_TST_SWAPPED n),
    setLevel 231 (s.someTst fun n => F.CAL_CH_TST_NOSET n), setLevel 232 (s.someTst fun n => F.CAL_CH_TST_SERVO_LIM n)]

/-- The indices of the valid temperature sensors. -/
def State.sensors (s : State) : List Nat := (List.range 18).filter fun i => s.flg (F.MON_TEMP_VALID i)

/-- The reading of a sensor. -/
def State.temp (s : State) (i : Nat) : Int := s.sfld (F.MON_TEMP_T i)

/-- The limits of R521. -/
def State.tcrit (s : State) : Int := s.sfld F.MON_TLIM_TCRIT
def State.twarn (s : State) : Int := s.sfld F.MON_TLIM_TWARN

/-- The condition of R521: it begins at `TCRIT` and ends where every valid sensor reads below `TCRIT` − 500. -/
def State.critical (s : State) : Bool :=
  (s.sensors.any fun i => s.tcrit ≤ s.temp i)
    || (s.flg (liveField 226) && s.sensors.any fun i => s.tcrit - 500 ≤ s.temp i)

/-- A rail reads outside its window (R520). -/
def State.railOut (s : State) (j : Nat) : Bool :=
  s.fld (F.MON_RAIL_V j) < s.fld (F.MON_RWIN_LO j) || s.fld (F.MON_RWIN_HI j) < s.fld (F.MON_RAIL_V j)

/-- Sources 225 to 228 follow the readings and the limits (R520, R521). -/
def judgeMonitors : Prog :=
  ask fun s => seqs [
    setLevel 225 (s.sensors.any fun i => s.twarn ≤ s.temp i), setLevel 226 s.critical,
    setLevel 227 (s.sensors.length < 18), setLevel 228 ((List.range 8).any s.railOut)]

/-- Source 229 follows `MON.AGE` and `MON.AGEWARN` (R522). -/
def judgeAge : Prog :=
  ask fun s => setLevel 229 (s.calHeader && (List.range 9).any fun k => s.sfld (F.MON_AGE_PPM k) < s.sfld F.MON_AGEWARN_PPM)

/-- Source 233 follows `MON.LIFE` (R524). -/
def judgeLife : Prog := ask fun s => setLevel 233 (1136073600 < s.reg64 R.MON_LIFE_LO R.MON_LIFE_HI)

/-! ## Update and APPLY (R513, R514) -/

/-- `CAL.CH[n].TST.APPLY` (R514): the trims of the channel are taken as one set and held pending. -/
def effApply (n : Nat) : Prog :=
  ask fun s => seqs [
    modFe n fun f => { f with trims := some {
      at_ := s.now, loopt := s.reg (R.CAL_CH_LOOPT n), misc := s.reg (R.CAL_CH_MISC n), cmpa := s.reg (R.CAL_CH_CMPA n)
      cmpb := s.reg (R.CAL_CH_CMPB n), ramp := s.reg (R.CAL_CH_RAMP n) } },
    setB (F.CAL_CH_TST_PEND n)]

/-- Quantity `q` of channel `n` is written to its target (Table 16.3). -/
def calTarget (n q : Nat) (v : Int) : Prog :=
  match q with
  | 0 => setF (F.VREF_NV_NV n) v.toNat
  | 1 => seqs [setF (F.SCALE_SHUNT_NOHM n) v.toNat, recomputeQp n]
  | 2 => seqs [setF (F.FPKT_VP_VP n) v.toNat, recomputeQp n]
  | 3 => setZ (F.CAL_CH_LOOPT_SETG n) v
  | 4 => setZ (F.CAL_CH_LOOPT_SETO n) v
  | 5 => setZ (F.CAL_CH_MISC_VLO n) v
  | 6 => setZ (F.CAL_CH_MISC_PWP n) v
  | 7 => setZ (F.CAL_CH_MISC_PWN n) v
  | 8 => setZ (F.CAL_CH_CMPA_V n) v
  | 9 => setZ (F.CAL_CH_CMPA_I n) v
  | 10 => setZ (F.CAL_CH_CMPA_T n) v
  | 11 => setZ (F.CAL_CH_RAMP_A n) v
  | 12 => setZ (F.CAL_CH_CMPB_V n) v
  | 13 => setZ (F.CAL_CH_CMPB_I n) v
  | 14 => setZ (F.CAL_CH_CMPB_T n) v
  | 15 => setZ (F.CAL_CH_RAMP_B n) v
  | _ => .done

/-- A quantity of channel `n` is recomputed at reading `t` (R512): a clamp sets `LIMIT`, and of a conversion trim of the
active path it may swap the paths (R519). -/
def calQuantity (n : Nat) (t : Int) (c : CalTable) : Prog :=
  ask fun s =>
    let r := (calRange c.qty).2
    let v := s.calValue c t
    let path := s.fld (F.PATH_STAT_NOW n)
    seqs [calTarget n c.qty (clampInt r.1 r.2 v),
      when (v < r.1 || r.2 < v) (seqs [setB (F.CAL_CH_TST_LIMIT n),
        when ((path = 0 && 8 ≤ c.qty && c.qty ≤ 11) || (path = 1 && 12 ≤ c.qty)) (autoSwap n)])]

/-- The sensor that MP1 takes for channel `n` (R513): its own, else the one below it; none where both are invalid. -/
def State.sensorFor (s : State) (n : Nat) : Option Nat :=
  let i := n / 4
  let j := if i = 0 then 1 else i - 1
  if s.flg (F.MON_TEMP_VALID i) then some i else if s.flg (F.MON_TEMP_VALID j) then some j else none

/-- MP1 considers channel `n`: every quantity is recomputed where `always` holds or the reading has moved by more than
0.50 °C (R513). -/
def calChannel (n o : Nat) (always : Bool) : Prog :=
  seqs [
    on (fun s => !s.flg (F.MON_TEMP_VALID (n / 4))) (setB (F.CAL_CH_TST_SENSOR_BAD n)),
    ask fun s =>
      match s.sensorFor n with
      | none => .done
      | some i =>
        let t := s.temp i
        when (always || 50 < (t - s.sfld (F.CAL_CH_TUSED_T n)).natAbs) (seqs [
          each (s.calTables (o + 16) (s.cal (o + 1) 1)).1 (calQuantity n t),
          setZ (F.CAL_CH_TUSED_T n) t, setF (F.CAL_CH_TUSED_SENS n) i, setB (F.CAL_CH_TUSED_VALID n), effApply n])]

/-- MP1 goes through the channels that have a valid set; with `AUTO` 0, or while its firmware does not run or it is frozen, it
makes no update (R427, R513). -/
def calUpdate (always : Bool) : Prog :=
  on (fun s => s.flg F.CAL_CTL_AUTO && s.mp1)
    (seqs [calRead, ask fun s => each (s.calChannels.filter fun c => !s.flg (F.CAL_CH_TST_NOSET c.1)) fun c => calChannel c.1 c.2 always,
      judgeTst])

/-- MP1 starts (R511, R513): channels without a valid set are marked, a valid header gives the lane delays, and every
quantity is recomputed. -/
def calStart : Prog :=
  ask fun s =>
    let l := s.calChannels.map (·.1)
    seqs [
      calRead,
      each channels fun n => seqs [
        setF (F.CAL_CH_TST_NOSET n) (if l.contains n then 0 else 1),
        setF (bitField (fun w => R.CAL_NOSET w) n) (if l.contains n then 0 else 1)],
      when s.calHeader (each (List.range 20) fun i => setZ (F.EVT_XDLY_SUB i) (s.calZ (56 + 2 * i) 2)),
      judgeTst, calUpdate true]

/-- A write of `CAL.CTL.FORCE` (R513). -/
def effForce : Prog := calUpdate true

/-! ## Monitors (R520, R521) -/

/-- A temperature sensor is sampled: none where it fails to convert. -/
def sampleTemp (i : Nat) (r : Option (BitVec 16)) : Prog :=
  match r with
  | none => clrB (F.MON_TEMP_VALID i)
  | some w => seqs [setF (F.MON_TEMP_T i) w.toNat,
      setF (F.MON_TEMP_VALID i) (if -5500 ≤ w.toInt ∧ w.toInt ≤ 15000 then 1 else 0)]

/-- A core calibrates its timing generators anew where its sensor has moved by more than 2 °C (R516). -/
def tgFollow (k : Nat) : Prog :=
  on (fun s =>
      let t := s.temp (match s.channelOf k with | some n => n / 4 | none => 16)
      match (s.cst k).tgCal with | some c => 200 < (t - c).natAbs | none => false)
    (calibrateTg k)

/-- The distance, doubled, of reading `v` from the centre of the window of rail 7. -/
def State.offCentre (s : State) (v : Nat) : Nat := ((2 * v : Nat) - (s.fld (F.MON_RWIN_LO 7) + s.fld (F.MON_RWIN_HI 7) : Nat) : Int).natAbs

/-- What `MON.RAIL[7]` reads of the pairs VREFPq − VREFMq: the one that lies furthest from the centre of `MON.RWIN[7]` (R537), the
first of several. -/
def State.vrefPair (s : State) (l : List Nat) : Nat :=
  (l.find? fun v => l.all fun w => s.offCentre w ≤ s.offCentre v).getD 0

/-- The monitors are sampled (R520): `temps` are the readings of the sensors from 0 on, `rails` those of rails 0 to 6 and of the four
reference pairs. -/
def progMonitorSample (temps : List (Option (BitVec 16))) (rails : List (BitVec 16)) : Prog :=
  on (fun s => s.dev.rst.hib < 3)
    (seqs [
      each (List.range 18) fun i => sampleTemp i (temps.getD i none),
      each (rails.take 7).zipIdx fun r => setF (F.MON_RAIL_V r.2) r.1.toNat,
      when (7 < rails.length) (ask fun s => setF (F.MON_RAIL_V 7) (s.vrefPair ((rails.drop 7).map (·.toNat)))),
      judgeMonitors, on State.critical (each channels calmRequest), calUpdate false, each cores tgFollow])

/-! ## Aging and service life (R522, R524) -/

/-- A_k of R522 in ppm; none where the baseline is 0 and it has no value. -/
def State.ageOf (s : State) (k c : Nat) : Option Int :=
  let base := s.cal (12 + 4 * k) 4
  if base = 0 then none
  else
    let x : Int := 100000000 - s.calZ 52 2 * (s.temp 16 - s.calZ 48 2)
      - 100 * s.calZ 54 2 * ((s.fld (F.MON_RAIL_V 0) : Int) - s.cal 50 2)
    some (divNear ((c : Int) * x - (base * 100000000 : Nat)) (base * 100))

/-- e^(num ÷ den) in units of 2^−128, the terms of its series from `i` on, `term` being the last term formed. -/
def expTerms (num den term i : Nat) : Nat → Nat
  | 0 => term
  | n + 1 => term + expTerms num den (term * num / (den * i)) (i + 1) n

/-- 60 × AF of R524, rounded down, for the junction at `t` in 0.01 °C: with a = 8,123.5, AF is the exponential of
a ÷ 358.15 − a ÷ (T + 273.15). -/
def lifeSeconds (t : Int) : Nat :=
  let k := (t + 27315).toNat
  let one := 2 ^ 128
  let e (d : Nat) : Nat := expTerms (812350 * d) (35815 * k) one 1 90
  if 35815 ≤ k then 60 * e (k - 35815) / one else 60 * one / e (35815 - k)

/-- `MON.LIFE` grows by `n` seconds. -/
def addLife (n : Nat) : Prog :=
  ask fun s => set64 R.MON_LIFE_LO R.MON_LIFE_HI ((s.reg64 R.MON_LIFE_LO R.MON_LIFE_HI + n) % 2 ^ 64)

/-- 60 s of life at the highest valid reading (R524). The spec does not state how the fraction of 60 × AF is rounded: either
way is left open, and so is the amount where no sensor is valid. -/
def lifeStep : Prog :=
  ask fun s =>
    match s.sensors.map s.temp with
    | [] => free addLife
    | t :: ts =>
      let top := ts.foldl max t
      if top = 8500 then addLife 60 else free fun k => addLife (lifeSeconds top + k % 2)

/-- MP1 counts the ring oscillators (R522) and adds to the life (R524). An A_k that has no value, or none in 32 bits, is left
open. -/
def progAging (counts : List (BitVec 24)) : Prog :=
  on (fun s => s.mp1 && s.dev.rst.hib < 3)
    (seqs [
      eccRead calBase 128,
      each counts.zipIdx fun c => when (c.2 < 9) (seqs [
        setF (F.MON_PROC_N c.2) c.1.toNat,
        ask fun s =>
          if !s.calHeader then setF (F.MON_AGE_PPM c.2) 0x80000000
          else match s.ageOf c.2 c.1.toNat with
            | some z => if -(2 ^ 31) ≤ z && z < 2 ^ 31 then setZ (F.MON_AGE_PPM c.2) z
                else free fun k => setF (F.MON_AGE_PPM c.2) k
            | none => free fun k => setF (F.MON_AGE_PPM c.2) k]),
      judgeAge, lifeStep, judgeLife])

/-! ## Remap (R527, R528, Table 16.8) -/

/-- A remap or a hand-off is running. -/
def State.repairing (s : State) : Bool := s.dev.xbar.remap.isSome || s.dev.xbar.handoff.isSome

/-- `SUSPECT` names core `k`. -/
def State.suspect (s : State) (k : Nat) : Bool := s.bit (fun w => R.CAL_SUSPECT w) k

/-- The number of the current beat. -/
def State.beatNow (s : State) : Nat := s.reg64 R.LT_BEAT_LO R.LT_BEAT_HI

/-- The outcome of a remap request (Table 16.9): 0 where it is accepted. A number that names no core names no spare one. -/
def State.remapCode (s : State) (n k b : Nat) : Nat :=
  if s.repairing || s.flg F.XBAR_STATUS_PENDING then 1
  else if 68 ≤ k || (s.channelOf k).isSome || s.suspect k then 2
  else if b < s.beatNow + 16 then 3
  else if s.ganged n && !((s.gang n).2.all s.parked) then 4
  else if !s.valid then 5
  else 0

/-- `GO` is written to `CAL.RMAP` (R527). A request that is refused while a remap runs leaves `RMST.ST` at RUNNING. -/
def effRemap (n k : Nat) : Prog :=
  ask fun s =>
    let b := s.reg64 R.CAL_RMB_LO R.CAL_RMB_HI
    let code := s.remapCode n k b
    seqs [
      setF F.CAL_RMST_OUT code,
      if code = 0 then seqs [setF F.CAL_RMST_ST 1,
        dev fun d => { d with xbar := { d.xbar with remap := some ⟨n, s.core n, k, b, false, false⟩ } }]
      else when (!s.dev.xbar.remap.isSome) (setF F.CAL_RMST_ST 2)]

/-- The registers of a core that a remap copies as they stand. -/
def remapKeys (k : Nat) : List RegKey :=
  [R.TG_PROF k, R.FMT_MODE k, R.FMT_AUX k 0, R.FMT_AUX k 1, R.FMT_VEC k, R.LOOP_VLIMREQ k, R.LOOP_TAPERREQ k, R.CONV_PROF k,
    R.CONV_CTL k, R.CONV_WIN k, R.CONV_OFS k, R.CONV_CFG k, R.PKT_STREAM k, R.PLAY_HOLD k, R.CAP_PROF k, R.CAP_CFG k,
    R.CAP_POST k, R.CAP_OPT k, R.FAIL_CFG k, R.SEQ_ANCHOR_LO k, R.SEQ_ANCHOR_HI k, R.SEQ_LTALM_LO k, R.SEQ_LTALM_HI k,
    R.EVM_GATE k]
  ++ (List.range 16).map (fun c => R.EVJ_E k c)
  ++ units.flatMap (fun u => [R.EVM_SRC k u, R.EVM_CFG k u, R.EVM_RWIN k u, R.EVM_TMO_LO k u, R.EVM_TMO_HI k u])
  ++ units.flatMap (fun i => [R.MASK_CFG k i, R.MASK_ADDR k i, R.MASK_NBP k i, R.MASK_APPR k i, R.MASK_ORG_LO k i, R.MASK_ORG_HI k i])

/-- Those that take effect at a boundary (R85). -/
def remapLater (k : Nat) : List RegKey :=
  [R.TG_PHASE k, R.TG_PERIOD k, R.TG_DT k, R.TG_PULSE k, R.TG_DMAX k, R.FMT_OCLIM k, R.FMT_BURST k]

/-- Bytes of memory are copied. -/
def copyBytes (src dst n : Nat) : Prog := ask fun s => dpWrite dst (s.bytes src n)

/-- Slot `i` of core `a`, being READY, is copied into core `b`, with its entry of the slot table, and validated there. -/
def copySlot (a b i : Nat) : Prog :=
  ask fun s =>
    let base := s.fld (F.PLAY_SLOT_BASE a i)
    seqs [setF (F.PLAY_SLOT_BASE b i) base, setF (F.PLAY_SLOT_CAP b i) (s.fld (F.PLAY_SLOT_CAP a i)),
      copyBytes (segBase a + 32 * base) (segBase b + 32 * base) (32 + 128 * s.fld (F.PLAY_SLOT_CAP a i)),
      ask fun s => judgeSlot b i (s.validCode b i 0)]

/-- Mask `i` of core `a` is copied into core `b`: enabled with `ORG` ABS and its latest origin; one that is OFF or TRIPPED
is copied disabled. -/
def copyMask (a b i : Nat) : Prog :=
  ask fun s =>
    let st := s.fld (F.MASK_STATE_ST a i)
    seqs [setF (F.MASK_SEL_IDX b i) (s.fld (F.MASK_SEL_IDX a i)), clrB (F.MASK_SEL_EN b i),
      when (s.flg (F.MASK_SEL_EN a i) && st ≠ 0 && st ≠ 4) (seqs [
        setF (F.MASK_CFG_ORG b i) 0,
        set64 (R.MASK_ORG_LO b i) (R.MASK_ORG_HI b i) (((s.mask a i).origins.head?).getD (s.reg64 (R.MASK_ORG_LO a i) (R.MASK_ORG_HI a i))),
        effMaskEnable b i])]

/-- The READY slots and the fail memory of core `a` are copied into core `b`. -/
def copyMemories (a b : Nat) : Prog :=
  ask fun s => seqs [each (slots.filter fun i => s.slotSt a i = 2) (copySlot a b), copyBytes (failBase a) (failBase b) 0x20000]

/-- MP1 copies the configuration of core `a` into core `b` (Table 16.8, t0 to t1). -/
def copyCore (a b : Nat) : Prog :=
  ask fun s => seqs [
    each ((remapKeys a).zip (remapKeys b)) fun e => setR e.2 (s.reg e.1),
    setF (F.FMT_MODE_CUR b) 0,
    each ((remapLater a).zip (remapLater b)) fun e => setLater b e.2 (s.reg e.1),
    useGrid b, nextWindow b (R.CONV_CFG b), nextWindow b (R.PKT_STREAM b),
    each slots fun i => seqs [setR (R.PLAY_SLOT b i) (s.reg (R.PLAY_SLOT a i)), setSlotSt b i 0],
    copyMemories a b, each units (copyMask a b)]

/-- A step of MP1, which stalls while it is frozen (R427). -/
def whileMp1 (p : State → Prog) : Prog := on (fun s => !s.frozen 2) (ask p)

/-- MP1 has copied the core and commits the map at the named beat (t1). -/
def progRemapCopyDone : Prog :=
  whileMp1 fun s =>
    match s.dev.xbar.remap with
    | none => .done
    | some r => when (!r.copied && s.beatNow + 4 ≤ r.beat) (seqs [
        copyCore r.old r.new,
        each channels fun n => setF (F.XBAR_MAP_PEND n) (if n = r.ch then r.new else s.core n),
        effCommit r.beat,
        dev fun d => { d with xbar := { d.xbar with remap := some { r with copied := true } } }])

/-- The copy is not complete by B − 4 beats (t1). -/
def progRemapLate : Prog :=
  whileMp1 fun s =>
    match s.dev.xbar.remap with
    | none => .done
    | some r => when (!r.copied && r.beat ≤ s.beatNow + 4) (endRemap 6)

/-- MP1 writes STOP at B − 300,000 cycles to a channel outside Calm and PARK (t2). -/
def progRemapStop : Prog :=
  whileMp1 fun s =>
    match s.dev.xbar.remap with
    | none => .done
    | some r => when (r.copied && !r.stopped && !s.calm r.ch && !s.parked r.ch && s.core r.ch = r.old) (seqs [
        advance (r.beat * (s.reg R.LT_BEATCYC).toNat - 300000), effStop r.old,
        dev fun d => { d with xbar := { d.xbar with remap := some { r with stopped := true } } }])

/-- The sequencer is HELD: MP1 copies its context, and again the slots and fail records (t3). -/
def progRemapContext : Prog :=
  whileMp1 fun s =>
    match s.dev.xbar.remap with
    | none => .done
    | some r => when (r.copied && s.core r.ch = r.old && s.seqSt r.old = stHeld) (seqs [
        each (s.ctxWords r.old).zipIdx fun w => setR (R.SEQ_CTX r.new w.2) (BitVec.ofNat 32 w.1),
        modCore r.new fun c => { c with ctxWritten := true }, copyMemories r.old r.new])

/-- After DONE, MP1 resumes the channel, resets the old core and marks it suspect (t5, t6). -/
def progRemapResume : Prog :=
  whileMp1 fun s =>
    match s.dev.xbar.remap with
    | none => .done
    | some r => when (r.copied && s.core r.ch = r.new) (seqs [
        when (r.stopped && !s.parked r.ch) (effResume r.new),
        coreReset r.old, setF (bitField (fun w => R.CAL_SUSPECT w) r.old) 1, endRemap 0])

/-! ## Hand-off (R529 to R531) -/

/-- The hand-off area and the length of the package. -/
def handoffBase : Nat := retBase + 0x8000
def packageLen : Nat := 2112

/-- `HSTAT` reads a state, an outcome. -/
def handoffStat (st code : Nat) : Prog := seqs [setF F.CAL_HSTAT_ST st, setF F.CAL_HSTAT_OUT code]

/-- A hand-off operation waits for a beat, or none does. -/
def setHandoff (h : Option (Nat × Nat)) : Prog := dev fun d => { d with xbar := { d.xbar with handoff := h } }

/-- The outcome of CUT at beat `b` (R530). -/
def State.cutCode (s : State) (b : Nat) : Nat :=
  if s.repairing then 1 else if !(channels.all s.parked) then 2 else if b < s.beatNow + 2 then 3 else if !s.valid then 4 else 0

/-- A request that is refused while another operation waits leaves `HSTAT.ST` as it is. -/
def handoffRefused (s : State) (code : Nat) : Prog :=
  if s.dev.xbar.handoff.isSome then setF F.CAL_HSTAT_OUT code else handoffStat 5 code

/-- CUT (R530). -/
def effCut : Prog :=
  ask fun s =>
    let b := s.reg64 R.CAL_HB_LO R.CAL_HB_HI
    let code := s.cutCode b
    if code = 0 then seqs [handoffStat 1 0, setHandoff (some (1, b)), each channels fun n => clearRequest n b]
    else handoffRefused s code

/-- The entry of channel `n` in the package (Table 16.10). -/
def State.handoffEntry (s : State) (n b : Nat) : List Byte :=
  if (s.fe n).lastClear = some b then
    let f := s.num (chBlock n + 12) 1
    s.bytes (chBlock n + 16) 8 ++ s.bytes (chBlock n + 40) 6 ++ natLE 1 (1 + 2 * (f % 4)) ++ List.replicate 17 0
  else List.replicate 32 0

/-- The package, its CRC being `c`. -/
def State.package (s : State) (b c : Nat) : List Byte :=
  natLE 4 0xCA1B0FF0 ++ natLE 2 1 ++ natLE 2 s.devId ++ natLE 8 b ++ natLE 4 packageLen ++ natLE 4 c
    ++ List.replicate 40 0 ++ channels.flatMap fun n => s.handoffEntry n b

/-- MP1 builds the package at Bc + 1 (R530). -/
def progPackageBuild : Prog :=
  on State.valid (whileMp1 fun s =>
    match s.dev.xbar.handoff with
    | some (1, b) => seqs [
        advance ((b + 1) * (s.reg R.LT_BEATCYC).toNat),
        putBytes handoffBase (s.package b (crc32c (s.package b 0)).toNat), eccWritten handoffBase packageLen,
        setHandoff none, setF F.CAL_HSTAT_DEV s.devId, handoffStat 2 0]
    | _ => .done)

/-- RXOPEN (R531). -/
def effRxopen : Prog :=
  seqs [setB F.PEER_CFG_HOFF_RX, .memClear (fun a => handoffBase ≤ a && a < handoffBase + 0x8000) .done,
    eccWritten handoffBase 0x8000, handoffStat 3 0]

/-- The hand-off area holds a package: `MAGIC`, `VER`, `LEN` and `CRC` (R531). -/
def State.packageOk (s : State) : Bool :=
  let b := s.bytes handoffBase packageLen
  s.num handoffBase 4 = 0xCA1B0FF0 && s.num (handoffBase + 4) 2 = 1 && s.num (handoffBase + 16) 4 = packageLen
    && s.num (handoffBase + 20) 4 = (crc32c (b.take 20 ++ List.replicate 4 0 ++ b.drop 24)).toNat

/-- The address of the entry of channel `n` in the hand-off area, and whether it is valid. -/
def entryAt (n : Nat) : Nat := handoffBase + 64 + 32 * n
def State.entryValid (s : State) (n : Nat) : Bool := (s.byte (entryAt n + 14)).toNat.testBit 0

/-- The outcome of IMPORT at beat `b` (R531). -/
def State.importCode (s : State) (b : Nat) : Nat :=
  if s.repairing then 1
  else if !s.packageOk then 5
  else if !((channels.filter s.entryValid).all s.parked) then 2
  else if b < s.beatNow + 2 then 3
  else if !s.valid then 4
  else 0

/-- IMPORT (R531). -/
def effImport : Prog :=
  ask fun s =>
    let b := s.reg64 R.CAL_HB_LO R.CAL_HB_HI
    let code := s.importCode b
    if code = 0 then seqs [handoffStat 4 0, setHandoff (some (3, b))] else handoffRefused s code

/-- The entry of channel `n` is imported at instant `tb` in sub-cycles (R531). A clear that has been requested still acts at its
beat. -/
def importEntry (n tb : Nat) : Prog :=
  ask fun s₀ => seqs [clearAt n tb,
    modFe n fun f => { f with clear := (s₀.fe n).clear }, when (s₀.fe n).clear.isSome (setB (F.FPKT_STAT_CLR_PEND n)),
    ask fun s =>
      let e := entryAt n
      seqs [setAcc n (s.acc n + signed 64 (s.num e 8) * 4294967296),
        dpWrite (chBlock n + 40) (s.bytes (e + 8) 6 ++ [0, 0]),
        putNum (chBlock n + 12) 1 (s.num (e + 14) 1 / 2 % 4), eccWritten (chBlock n + 8) 8]]

/-- The import at Bi (R531). -/
def progImportApply : Prog :=
  on State.valid (ask fun s =>
    match s.dev.xbar.handoff with
    | some (3, b) =>
      let t := b * (s.reg R.LT_BEATCYC).toNat
      seqs [advance t, each (channels.filter s.entryValid) fun n => importEntry n (t * 256),
        clrB F.PEER_CFG_HOFF_RX, setHandoff none, setF F.CAL_HSTAT_DEV (s.num (handoffBase + 6) 2 % 4096), handoffStat 5 0]
    | _ => .done)

/-- ABORT (R531): it ends a CUT or an IMPORT before its beat. -/
def effAbort : Prog :=
  on (fun s => match s.dev.xbar.handoff with | some (_, b) => decide (s.beatNow < b) | none => false)
    (seqs [setHandoff none, handoffStat 5 6])

end Sys2Proof.Machine
end

