-- ==== Sys2Proof/Machine/Power.lean ====
section
/-!
DEFINITION. Taking a reset (t1 of Table 15.3), and what the registers of the `PWR` block ask for: parking, STANDBY, RUN,
HIBERNATE, the watchdog (spec/15_reset_power.md). The other instants of resets and power states are in Machine/Reset.lean.
-/
namespace Sys2Proof.Machine

/-- Change what resets and power states hold. -/
def modRst (f : RstSt → RstSt) : Prog := dev fun d => { d with rst := f d.rst }

/-! ## Sessions end (R439) -/

/-- Session `i` ends, 8 being the service session: entries that its REC messages carried are sent again (R451), a notice without an
acknowledgement is void, and source 197 or 207 is raised. -/
def endSession (i : Nat) : Prog :=
  ask fun s =>
    match s.dev.line.sessions.find? fun e => e.1 = i with
    | none => .done
    | some (_, x) => seqs [
        when (x.out.any fun q => q.typ = 0x10) (dev fun d => { d with irq := { d.irq with
          noticed := d.irq.noticed.filter (· ≠ if i = 8 then 3 else 2) } }),
        dev fun d => { d with line := { d.line with
          sessions := d.line.sessions.del i
          recs := d.line.recs.map fun c =>
            if c.st = 0 && x.out.any (fun q => q.typ = 0x11 && q.ring = c.ring && q.first = c.first && q.part = c.part)
            then { c with st := 2 } else c } },
        if i = 8 then seqs [clrB F.SVC_STAT_SESS, raise 207] else raise 197]

/-- Every session ends. -/
def endSessions : Prog := each (List.range 9) endSession

/-! ## Calm for every channel -/

/-- Every channel receives a Calm request. -/
def calmAll : Prog := each channels calmRequest

/-- Both gates of a channel that is not yet in Calm go low now, and it is in Calm: the latest instant that a reset or
STANDBY leaves it (t2 of Table 15.3, t1 of R498). -/
def calmNow (n : Nat) : Prog :=
  on (fun s => !s.calm n)
    (ask fun s =>
      let k := s.core n
      seqs [gatesLow k s.nowSub, modDrv k fun d => { d with leave := none, next := none },
        enterCalm n k s.nowSub])

/-! ## Taking a reset (R490, t1 of Table 15.3) -/

/-- A reset of a rank and a cause is taken: unless one of higher or equal rank is in progress, every channel receives a Calm
request, the masters stop, sessions end, and an entry into STANDBY or HIBERNATE is abandoned (R503). -/
def takeReset (rank cause : Nat) : Prog :=
  ask fun s =>
    let acts := match s.dev.rst.run with | some (r, _) => rank < r | none => true
    when acts (seqs [
      modRst fun r => { r with run := some (rank, cause), applied := false, portDue := false, standby := none, hib := 0
                               wakeDue := false, mp := false, due := s.now + 33000 },
      when (rank ≤ 2) (dev fun d => { d with boot := { d.boot with due := false, passed := false } }),
      setF F.PWR_STATE_ST 0, endSessions, calmAll])

/-! ## Parking (R497) -/

/-- Channel `n` is to be parked: a Calm request, and `PARKED` where the gates are low already. -/
def parkChannel (n : Nat) : Prog :=
  seqs [calmRequest n,
    modRst fun r => { r with settle := r.settle.filter fun e => e.1 != n },
    on (fun s => s.calm n) (setB (bitField (fun w => R.PWR_PARKED w) n))]

/-- The analog parts of channel `n` are powered up; they settle. -/
def unparkChannel (n : Nat) : Prog :=
  on (fun s => s.parked n)
    (ask fun s => modRst fun r => { r with settle := r.settle ++ [(n, s.now)] })

/-- `PWR.PARK[w]` takes a value. -/
def effPark (w : Nat) (v : Word) : Prog :=
  ask fun s =>
    let old := s.reg (R.PWR_PARK w)
    let changed (b : Bool) : List Nat := (List.range 32).filter fun i => bit v i = b && bit old i != b
    seqs [setR (R.PWR_PARK w) v,
      each (changed true) fun i => parkChannel (32 * w + i),
      each (changed false) fun i => unparkChannel (32 * w + i)]

/-- The analog parts of channel `n` have settled: `PARKED` clears at the first boundary at least 60,000 cycles after the
unparking (R497), which waits for Line Time to be VALID (R85). -/
def progUnparkSettled (n : Nat) : Prog :=
  on (fun s => s.valid)
    (ask fun s =>
      match s.dev.rst.settle.find? fun e => e.1 = n with
      | none => .done
      | some (_, t) =>
        let k := s.core n
        seqs [advance (gridFrom (s.period k) (s.effFld (F.TG_PHASE_SUB k)) ((t + 60000) * 256) / 256),
          modRst fun r => { r with settle := r.settle.filter fun e => e.1 != n },
          clrB (bitField (fun w => R.PWR_PARKED w) n)])

/-! ## Power states (R498, R499) -/

/-- A request of RUN ends STANDBY at the boundary at which it arrives (R498). -/
def effRun : Prog :=
  on State.standing
    (seqs [ask fun s => advance (s.boundary s.now), setF F.PWR_STATE_ST 0, modRst fun r => { r with standby := none },
      on (fun s => s.flg F.LT_CTL_RESUME) (dev fun d => { d with lt := { d.lt with standbyResume := true } })])

/-- t0 of STANDBY (R498): sequencers freeze, every channel that is not parked receives a Calm request, and no window starts, so that
the next one carries `GAP`. -/
def effStandby : Prog :=
  ask fun s =>
    if s.powerRun then seqs [
      advance (s.boundary s.now), freezeSequencers,
      ask fun s => each (channels.filter fun n => !s.parked n) fun n =>
        modDrv (s.core n) fun d => { d with calm := some (d.calm.getD s.now) },
      setF F.PWR_STATE_ST 1,
      ask fun s => each channels fun n => modWin (s.core n) fun w => { w with gap := true },
      ask fun s => modRst fun r => { r with standby := some s.now },
      dev fun d => { d with lt := { d.lt with standbyResume := false } }]
    else setB F.PWR_STAT_SREJ

/-- t1 of STANDBY (R498). -/
def progStandbyEntered : Prog :=
  ask fun s =>
    match s.dev.rst.standby with
    | none => .done
    | some t => when (s.fld F.PWR_STATE_ST = 1) (seqs [
        advance (t + 30072), each channels calmNow, setF F.PWR_STATE_ST 2, modRst fun r => { r with standby := none }])

/-- A request of HIBERNATE is judged (R499); its t0 (R500). -/
def effHibernate : Prog :=
  ask fun s =>
    let stor := s.storSt = 0 || s.storSt = 4 || s.storSt = 6 || s.storSt = 7
    let run := s.fld F.PWR_STATE_ST = 0 || s.fld F.PWR_STATE_ST = 2
    if channels.all s.parked && stor && run then seqs [
      endSessions, setF F.PWR_STATE_ST 3, modRst fun r => { r with hib := 1, wakeDue := false }]
    else setB F.PWR_STAT_HREJ

/-- A value of `PWR.CTL.REQ`. -/
def effPwrCtl (req : Nat) : Prog :=
  match req with
  | 1 => effRun
  | 2 => effStandby
  | 3 => effHibernate
  | _ => .done

/-! ## The watchdog (R496) -/

/-- The cycles of 1 ms of the watchdog: 100,000 backup cycles, of 30 cycles each. -/
def wdMs : Nat := 3000000

/-- The count takes `half` halves of a millisecond; `REM` holds what it was last set to. -/
def wdCount (half : Nat) : Prog :=
  seqs [setF F.PWR_WDCNT_REM (half / 2), ask fun s => modRst fun r => { r with wdEnd := s.now + half * (wdMs / 2) }]

/-- The count is reloaded. -/
def wdReload : Prog := ask fun s => wdCount (2 * s.fld F.PWR_WDOG_TMO)

/-- A write of `PWR.WDOG.TMO`. -/
def effWdog (tmo : Nat) : Prog := seqs [setF F.PWR_WDOG_TMO tmo, wdReload]

/-- A write of `PWR.WDKICK`. -/
def effWdkick (key : Nat) : Prog := if key = 0xA5 then wdReload else setB F.PWR_STAT_WDBAD

/-- The watchdog runs: its time is not 0, and the device is not in HIBERNATE. -/
def State.wdRuns (s : State) : Bool := s.fld F.PWR_WDOG_TMO ≠ 0 && s.dev.rst.hib < 3

/-- The count passes half of `TMO`. -/
def progWdwarn : Prog :=
  on (fun s => s.wdRuns && s.fld F.PWR_WDOG_TMO < 2 * s.fld F.PWR_WDCNT_REM)
    (seqs [ask fun s => wdCount (s.fld F.PWR_WDOG_TMO), setB F.PWR_STAT_WDWARN, raise 255])

/-- The count reaches 0. -/
def progWdog : Prog := on State.wdRuns (seqs [wdCount 0, takeReset 2 2])

/-- The cause RESTART of a PIN reset (R487). -/
def effRestart : Prog := takeReset 1 4

end Sys2Proof.Machine
end

