-- ==== Sys2Proof/Machine/Image.lean ====
section
/-!
DEFINITION. The flash, and the checks that an image in one of its slots passes (spec/14_boot_security.md, R467 to R476, Table 14.8).
-/
namespace Sys2Proof.Machine

/-! ## The flash (R467, R468) -/

/-- Where the state keeps the flash: above the 40-bit map, its bits inverted, so that an erased byte is not listed. -/
def flashBase : Nat := 0x40000000000

/-- The instruction memory of processor `mp` (Table 14.6). -/
def fwBase (mp : Nat) : Nat := 0x80000000000 + mp * 0x10000000000

/-- The `n` bytes of the flash from offset `o`. -/
def State.flash (s : State) (o n : Nat) : List Byte := (s.bytes (flashBase + o) n).map fun b => ~~~b

/-- The little-endian number in them. -/
def State.flashNum (s : State) (o n : Nat) : Nat := leNat (s.flash o n)

/-- Bytes of the flash are set. -/
def flashSet (o : Nat) (bs : List Byte) : Prog := putBytes (flashBase + o) (bs.map fun b => ~~~b)

/-- Bytes are programmed: bits go from 1 to 0 only. -/
def flashProgram (o : Nat) (bs : List Byte) : Prog :=
  ask fun s => flashSet o (List.zipWith (· &&& ·) (s.flash o bs.length) bs)

/-- The `n` bytes from offset `o` are erased. -/
def flashErase (o n : Nat) : Prog := .memClear (fun a => flashBase + o ≤ a && a < flashBase + o + n) .done

/-- The density F of the flash. -/
def State.density (s : State) : Nat := s.dev.boot.flash.density

/-- The flash has the properties of R467. -/
def State.flashOk (s : State) : Bool :=
  s.dev.boot.flash.erase4k && (List.range 6).any fun i => s.density = 2 ^ (24 + i)

/-- The offsets of the state block and of the image of slot `x`, and the size of an image area (Table 14.1). -/
def State.slotBlock (s : State) (x : Nat) : Nat := x * (s.density / 2)
def State.slotImage (s : State) (x : Nat) : Nat := s.slotBlock x + 4096
def State.slotSize (s : State) : Nat := s.density / 2 - 4096

/-- The state of slot `x` (R468, Table 14.3): EMPTY without the magic number, BAD for a code that is not listed. -/
def State.bootState (s : State) (x : Nat) : Nat :=
  let c := s.flashNum (s.slotBlock x + 4) 1
  if s.flashNum (s.slotBlock x) 4 ≠ 0x5E1A0B07 then 0xFF
  else if c = 0xFF || c = 0x7F || c = 0x3F || c = 0x1F then c else 0

/-- `STATE` of the state block of slot `x` is programmed, and `BOOT.SLOT` reads it. -/
def setBootState (x c : Nat) : Prog :=
  seqs [ask fun s => flashProgram (s.slotBlock x + 4) (natLE 1 c), setF (F.BOOT_SLOT_ST_STATE x) c]

/-- `BOOT.SLOT[x]` reads the state block. -/
def showSlot (x : Nat) : Prog :=
  ask fun s =>
    let st := s.bootState x
    let plt := if st = 0xFF then 0 else s.flashNum (s.slotBlock x + 8) 8
    seqs [setF (F.BOOT_SLOT_ST_STATE x) st, set64 (R.BOOT_SLOT_PLT_LO x) (R.BOOT_SLOT_PLT_HI x) plt]

/-- The state block of slot `x` is erased: the slot is EMPTY. -/
def emptySlot (x : Nat) : Prog := seqs [ask fun s => flashErase (s.slotBlock x) 4096, showSlot x]

/-- The state block of slot `x` is written: `STATE`, `PLT` now, `ILEN`. -/
def writeSlot (x st ilen : Nat) : Prog :=
  seqs [
    ask fun s => seqs [flashErase (s.slotBlock x) 4096,
      flashSet (s.slotBlock x) (natLE 4 0x5E1A0B07 ++ natLE 1 st ++ [0xFF, 0xFF, 0xFF] ++ natLE 8 s.now ++ natLE 4 ilen)],
    showSlot x]

/-! ## The image (R469, Tables 14.4 and 14.5) -/

/-- The `n` bytes at offset `o` of the image of slot `x`, and the number they hold. -/
def State.img (s : State) (x o n : Nat) : List Byte := s.flash (s.slotImage x + o) n
def State.imgNum (s : State) (x o n : Nat) : Nat := leNat (s.img x o n)

/-- The `n` bytes at offset `o` of an image are 0. -/
def State.imgZero (s : State) (x o n : Nat) : Bool := (s.img x o n).all (· == 0)

/-- A section table entry (Table 14.5). -/
structure Section where
  typ : Nat
  flags : Nat
  ofs : Nat
  len : Nat
  target : Nat
  digest : List Byte
  /-- Its reserved bytes are 0. -/
  clean : Bool
  deriving DecidableEq, Repr

/-- Entry `i` of the section table of slot `x`. -/
def State.section_ (s : State) (x i : Nat) : Section :=
  let a := 1152 + 96 * i
  { typ := s.imgNum x a 1, flags := s.imgNum x (a + 1) 1, ofs := s.imgNum x (a + 4) 4, len := s.imgNum x (a + 8) 4
    target := s.imgNum x (a + 16) 8, digest := s.img x (a + 32) 64
    clean := s.imgZero x (a + 2) 2 && s.imgZero x (a + 12) 4 && s.imgZero x (a + 24) 8 }

/-- The sections of slot `x`. -/
def State.sections (s : State) (x : Nat) : List Section := (List.range (s.imgNum x 6 2)).map (s.section_ x)

/-- The bytes of a section. -/
def State.sectionBytes (s : State) (x : Nat) (c : Section) : List Byte := s.img x c.ofs c.len

/-- Key slot `i` is programmed. -/
def FuseSt.keySet (f : FuseSt) (i : Nat) : Bool := i = 0 || f.keyHash.any fun e => e.1 = i

/-- The key hash of slot `i`, 64 bytes; an unprogrammed slot reads 0. -/
def FuseSt.hash (f : FuseSt) (i : Nat) : List Byte :=
  if i = 0 then (List.range 64).map Config.keyHash0 else f.keyHash.get (List.replicate 64 0) i

/-! ## Checks (R470, R472 to R476, Table 14.8) -/

/-- Step 2: the header. -/
def State.headerOk (s : State) (x : Nat) : Bool :=
  s.imgNum x 0 4 = 0xE7E11A01 && s.imgNum x 4 2 = 1 && 8192 ≤ s.imgNum x 8 4 && s.imgNum x 8 4 ≤ s.slotSize
    && s.imgNum x 14 1 < 4 && s.imgNum x 24 2 < 4096 && s.imgZero x 26 6 && s.imgZero x 64 64 && s.imgZero x 644 508
    && s.imgZero x 4224 3456 && s.imgNum x 640 4 = 65537

/-- Step 3: the part. -/
def State.partOk (s : State) (x : Nat) : Bool :=
  (s.imgNum x 14 1).testBit (if Config.gradeX then 1 else 0) && s.imgNum x 15 1 ≤ 0xB0

/-- Step 4: the key slot (R472). -/
def State.keyOk (s : State) (x : Nat) : Bool :=
  let i := s.imgNum x 13 1
  i < 4 && s.dev.boot.read.keySet i && !s.dev.boot.read.revoked.contains i
    && sha512 (s.img x 128 516) = s.dev.boot.read.hash i

/-- Step 5: the signature, under a modulus of exactly 4,096 bits (R472). -/
def State.signatureOk (s : State) (x : Nat) : Bool :=
  128 ≤ s.imgNum x 128 1 && pssVerify (s.img x 128 512) (s.img x 7680 512) (s.img x 0 7680)

/-- An entry of the section table fits by itself (R470, Tables 14.5 and 14.6). -/
def Section.ok (c : Section) : Bool :=
  c.clean && c.ofs % 8 = 0 && 8192 ≤ c.ofs && 1 ≤ c.len && c.flags ≤ (if c.typ = 5 then 1 else 0)
    && match c.typ with
      | 4 => c.target < 2 * 2 ^ 40
      | 7 => c.target + c.len ≤ 0xFE0000
      | _ => 1 ≤ c.typ && c.typ ≤ 0xA && c.target = 0

/-- Sections lie one behind the other (R470). -/
def inOrder : List Section → Bool
  | a :: b :: r => a.ofs + a.len ≤ b.ofs && inOrder (b :: r)
  | _ => true

/-- How many sections satisfy `p`. -/
def countIf (l : List Section) (p : Section → Bool) : Nat := (l.filter p).length

/-- A section is firmware of MP0. -/
def Section.fw0 (c : Section) : Bool := c.typ = 4 && c.target < 2 ^ 40

/-- Step 7: the section table (R470), and `DEV`. -/
def State.sectionsOk (s : State) (x : Nat) : Bool :=
  let l := s.sections x
  let n := s.imgNum x 6 2
  1 ≤ n && n ≤ 32 && s.imgZero x (1152 + 96 * n) (96 * (32 - n)) && l.all (·.ok) && inOrder l
    && l.all (fun c => c.ofs + c.len ≤ s.imgNum x 8 4)
    && (match l with | c :: _ => c.typ = 1 && 82 ≤ c.len && s.imgNum x (c.ofs + 80) 2 = s.imgNum x 24 2 | [] => false)
    && countIf l (·.typ = 1) = 1 && countIf l (·.typ = 2) = 1 && countIf l (·.fw0) = 1
    && countIf l (·.typ = 5) ≤ 1 && countIf l (·.typ = 10) ≤ 1

/-- The plaintext of a PATCH section (R476): none where its tag or its layout fails. -/
def patchPlain (b : List Byte) : Option (List Byte) :=
  let n (o k : Nat) := entryNum b o k
  if (b.drop 10).take 6 = List.replicate 6 0 && (b.drop 28).take 4 = List.replicate 4 0
      && n 4 2 ≤ 2048 && n 6 2 ≤ 256 && n 8 2 ≤ 64 && b.length = 48 + 16 * n 4 2 + 8 * n 6 2 + 4 * n 8 2 then
    gcmOpen ((List.range 32).map Config.patchKey) ((b.drop 16).take 12) (b.take 16) (b.drop 48) ((b.drop 32).take 16)
  else none

/-- Steps 8 and 9 for one section. -/
def sectionCode (c : Section) (b : List Byte) : Nat :=
  if sha512 b ≠ c.digest then 8
  else if c.typ = 5 then
    (if entryNum b 2 2 ≠ Config.romId % 65536 then 9 else if (patchPlain b).isNone then 10 else 0)
  else 0

/-- Steps 2 to 9 of Table 14.8 for slot `x`: the code of the first check that fails, or 0. -/
def State.imageCode (s : State) (x : Nat) : Nat :=
  if !s.headerOk x then 2
  else if !s.partOk x then 3
  else if !s.keyOk x then 4
  else if !s.signatureOk x then 5
  else if s.imgNum x 12 1 < s.dev.boot.read.svn then 6
  else if !s.sectionsOk x then 7
  else (((s.sections x).map fun c => sectionCode c (s.sectionBytes x c)).find? (· ≠ 0)).getD 0

end Sys2Proof.Machine
end

