-- ==== Sys2Proof/Machine/BootCmd.lean ====
section
/-!
DEFINITION. The requests of the update and refresh functions and of the fuses (R483 to R488). How they end is in
Machine/Boot.lean.
-/
namespace Sys2Proof.Machine

/-! ## Functions (R483 to R487) -/

/-- Change what boot holds. -/
def modBoot (f : BootSt → BootSt) : Prog := dev fun d => { d with boot := f d.boot }

/-- A request is refused with a code of `BOOT.USTAT`; a function that runs goes on. -/
def bootRefuse (code : Nat) : Prog :=
  ask fun s => seqs [
    setF F.BOOT_USTAT_ST (if s.dev.boot.fn.isSome then 1 else 2), setF F.BOOT_USTAT_OUT code, raise 212]

/-- A function begins. -/
def bootStart (f : BootFn) : Prog :=
  seqs [modBoot fun b => { b with fn := some f }, setF F.BOOT_USTAT_ST 1, setF F.BOOT_USTAT_OUT 0]

/-- Slot `x` is the slot booted. -/
def State.booted (s : State) (x : Nat) : Bool := s.flg F.BOOT_STAT_DONE && s.fld F.BOOT_STAT_SLOT = x

/-- The staging buffer of `n` bytes at scratchpad offset `o` lies in the windows of master `m`; else the request is refused
and the violation freezes the master (R483). -/
def staging (m o n : Nat) (wr : Bool) (p : Prog) : Prog :=
  ask fun s =>
    let a := padBase + o
    if n = 0 || (s.inWindow m a n false && (!wr || s.inWindow m a n true)) then p
    else seqs [bootRefuse 21, violation m a (s.inWindow m a n false) false]

/-- OPEN (R484). -/
def effOpen : Prog :=
  ask fun s =>
    let x := (s.reg R.BOOT_ARG0).toNat
    let len := (s.reg R.BOOT_ARG1).toNat
    if s.booted x then bootRefuse 17
    else if 1 < x || s.slotSize < len then bootRefuse 18
    else seqs [emptySlot x, modBoot fun b => { b with slot := none }, bootStart (.open_ x len)]

/-- WRITE (R484). -/
def effWrite (m : Nat) : Prog :=
  ask fun s =>
    let ofs := (s.reg R.BOOT_ARG0).toNat
    let n := (s.reg R.BOOT_ARG1).toNat
    let buf := (s.reg R.BOOT_ARG2).toNat
    let b := s.dev.boot
    if b.slot.isNone || ofs ≠ b.written then bootRefuse 19
    else if 1048576 < n || b.len < ofs + n then bootRefuse 18
    else staging m buf n false (bootStart (.write ofs n buf))

/-- CLOSE (R484). -/
def effClose : Prog := ask fun s => if s.dev.boot.slot.isNone then bootRefuse 19 else bootStart .close

/-- CONFIRM (R485). -/
def effConfirm : Prog := bootStart .confirm

/-- REFRESH (R486): the slot is verified, and its state block erased, before the blocks are rewritten. -/
def effRefresh (m : Nat) : Prog :=
  ask fun s =>
    let x := (s.reg R.BOOT_ARG0).toNat
    let buf := (s.reg R.BOOT_ARG2).toNat
    if 1 < x || s.bootState (1 - x) ≠ 0x1F || !s.flashOk then bootRefuse 20
    else staging m buf 65536 true (seqs [bootStart (.refresh x buf (s.imageCode x) (s.bootState x)), emptySlot x])

/-- An operation is written to `BOOT.CMD` by master `m`: RESTART acts at once, any other while a function runs is refused
with BUSY (R483, R487). -/
def effBootCmd (m op : Nat) : Prog :=
  ask fun s =>
    if op = 6 then effRestart
    else if op = 0 || 6 < op then setB (F.BSTAT_BADVAL 9)
    else if s.dev.boot.fn.isSome then bootRefuse 16
    else match op with
      | 1 => effOpen
      | 2 => effWrite m
      | 3 => effClose
      | 4 => effConfirm
      | _ => effRefresh m

/-! ## Fuses (R473, R488) -/

/-- A fuse operation begins. -/
def fuseStart (f : BootFn) : Prog := modBoot fun b => { b with fuse := some f }

/-- A fuse operation is refused with a status. -/
def fuseRefuse (st : Nat) : Prog := seqs [setF F.SEC_ST_ST st, raise 212]

/-- A write of `SEC.CTL`; it is ignored while another operation runs. DESIGN CHOICE (see notes/assumptions/74.md): operation 0
does nothing. -/
def effSecCtl (op slot ofs : Nat) : Prog :=
  ask fun s =>
    let f := s.dev.boot.fuses
    if s.dev.boot.fuse.isSome then .done
    else match op with
      | 1 =>
        if slot = 0 || f.keySet slot then fuseRefuse 1
        else if ofs % 8 ≠ 0 || 0x1000000 < ofs + 64 then setB (F.BSTAT_BADVAL 15)
        else fuseStart (.keyprog slot ofs)
      | 2 =>
        if s.flg F.BOOT_STAT_DONE && slot = s.dev.image.keyIdx then fuseRefuse 2 else fuseStart (.revoke slot)
      | 3 => fuseStart .svnadv
      | _ => .done

end Sys2Proof.Machine
end

