-- ==== Sys2Proof/Machine/Handoff.lean ====
section
/-!
DEFINITION. The sender of a hand-off transfer over a peer link (R455, R458).
-/
namespace Sys2Proof.Machine

/-- Change what the peer links hold. -/
def modPeer (f : PeerSt → PeerSt) : Prog := dev fun d => { d with peer := f d.peer }

/-- The frames of a transfer of `len` bytes. -/
def HoffTx.frames (t : HoffTx) : Nat := divUp t.len 256

/-- Frame `i` of a transfer (Table 13.8). -/
def State.hoffFrame (s : State) (t : HoffTx) (i : Nat) : List Byte :=
  natLE 1 0x10 ++ natLE 1 0 ++ natLE 2 i ++ natLE 4 (t.ofs + 256 * i)
    ++ s.bytes (retBase + t.ofs + 256 * i) (min 256 (t.len - 256 * i))

/-- The frames from `a` to `b − 1` go out. -/
def sendFrames (t : HoffTx) (a b : Nat) : Prog :=
  ask fun s => each (List.range (b - a)) fun i => sendFrame t.link (s.hoffFrame t (a + i))

/-- The transfer ends with an outcome of `PEER.HSTAT`. -/
def hoffEnd (out : Nat) : Prog :=
  seqs [modPeer fun p => { p with tx := none }, setF F.PEER_HSTAT_ST 2, setF F.PEER_HSTAT_OUT out, raise 205]

/-- Frames go out until 16 are unacknowledged or all have been sent. -/
def fillWindow (t : HoffTx) : Prog :=
  let b := min t.frames (t.acked + 16)
  seqs [sendFrames t t.sent b, modPeer fun p => { p with tx := some { t with sent := b } }]

/-- A write of `GO` to `PEER.HTX`; it is ignored while a transfer runs. A transfer that would reach beyond the retention RAM
is one that every receiver refuses. -/
def effHandoffSend : Prog :=
  ask fun s =>
    let len := s.fld F.PEER_HLEN_LEN
    let ofs := s.fld F.PEER_HTX_OFS
    if s.dev.peer.tx.isSome then .done
    else if len = 0 then hoffEnd 4
    else if 0x10000 < ofs + len then hoffEnd 3
    else seqs [setF F.PEER_HSTAT_ST 1, setF F.PEER_HSTAT_OUT 0,
      fillWindow { link := s.fld F.PEER_HTX_LINK, ofs := ofs, len := len, sent := 0, acked := 0 }]

/-- 10 µs after the oldest unacknowledged frame was sent, all of them are sent again, up to 8 transmissions. -/
def progHandoffRetransmit : Prog :=
  ask fun s =>
    match s.dev.peer.tx with
    | none => .done
    | some t => when (t.tries < 8) (seqs [
        sendFrames t t.acked t.sent, modPeer fun p => { p with tx := some { t with tries := t.tries + 1 } }])

/-- `PEER.HOFF.TMO` passes. -/
def progHandoffTimeout : Prog :=
  on (fun s => s.dev.peer.tx.isSome && s.fld F.PEER_HOFF_TMO ≠ 0) (hoffEnd 1)

/-- An acknowledgement: the highest sequence number received in order, and a code (Table 13.8). One that finds no transfer on
its link is late. -/
def progHoffAck (link : Nat) (seq code : Nat) : Prog :=
  ask fun s =>
    match s.dev.peer.tx with
    | none => count F.PEER_CNT_LATE
    | some t =>
      if t.link ≠ link then count F.PEER_CNT_LATE
      else if code = 1 then hoffEnd 2
      else if code = 2 then hoffEnd 3
      else if t.acked ≤ seq && seq < t.sent then
        (if seq + 1 = t.frames then hoffEnd 0 else fillWindow { t with acked := seq + 1, tries := 1 })
      else .done

end Sys2Proof.Machine
end

