-- ==== Sys2Proof/Machine/Access.lean ====
section
/-!
DEFINITION. Who may touch what: ports and their authorities, the register that an offset reaches, the rows of Table 13.2, and
the order in which an access is judged (spec/13_ports.md, R424 to R433, R565).
-/
namespace Sys2Proof.Machine

/-- The master that a port's accesses come from (Tables 12.2 and 13.1); boot firmware runs on MP0 (R466). -/
def portMaster : Port → Nat
  | .image | .mp0 => 1 | .mp1 => 2 | .service => 3 | .line => 4 | .peer => 5

/-- A row of Table 13.2: what each authority may do, 0 nothing, 1 read, 2 read and write. -/
structure Row where
  image : Nat
  ops : Nat
  peer : Nat
  maint : Nat
  dev : Nat
  deriving DecidableEq, Repr

/-- What a port may do under a row (R429). -/
def Row.of (r : Row) : Port → Nat
  | .image => r.image | .mp0 | .mp1 => r.dev | .service => r.maint | .line => r.ops | .peer => r.peer

/-- The row of RWL fields and of the control store window. -/
def rowLocked : Row := ⟨2, 1, 0, 1, 2⟩
/-- The rows that every authority but PEER writes. -/
def rowOpen : Row := ⟨2, 2, 0, 2, 2⟩
/-- The rows that OPERATIONS reads and IMAGE, MAINTENANCE and DEVICE write; the last row is one of them. -/
def rowRead : Row := ⟨2, 1, 0, 2, 2⟩
/-- `PAGE.EXPERT_EN`, `PWR.CORERST`. -/
def rowService : Row := ⟨0, 1, 0, 2, 2⟩
/-- `BOOT.CMD` and its arguments. -/
def rowBoot : Row := ⟨0, 0, 0, 2, 2⟩
/-- Status that no authority writes. -/
def rowStatus : Row := ⟨1, 1, 0, 1, 1⟩
/-- `SEC`; writes that ring the doorbells of rings 3,072 to 3,135. -/
def rowSec : Row := ⟨0, 1, 0, 1, 2⟩

/-- How an offset reaches a register: at its own offset, its set alias or its clear alias (R14). -/
inductive Via where
  | own | set | clear
  deriving DecidableEq, Repr

/-- The register that offset `off` of block number `n` reaches (R14, R39, Table 1.9); none for a reserved offset. -/
def regVia (n off : Nat) : Option (RegKey × Via) :=
  let page := off / 0x4000
  let own := page * 0x4000 + off % 0x1000
  if 2 ≤ page then none
  else match regAt n own, off % 0x4000 / 0x1000 with
    | some k, 0 => some (k, .own)
    | some k, 1 => if k.id.hasSetAlias then some (k, .set) else none
    | some k, 2 => if k.id.hasClearAlias then some (k, .clear) else none
    | _, _ => none

/-- An offset lies on the EXPERT page of its block, or reaches one of its set or clear aliases (Table 1.9). -/
def expertOffset (off : Nat) : Bool := 0x4000 ≤ off && off < 0x7000

/-- The EXPERT page of block number `n` is open (R41). -/
def State.pageOpen (s : State) (n : Nat) : Bool := s.flg (F.PAGE_EXPERT_EN n)

/-- A register holds an RWL field. -/
def RegId.isLocked (r : RegId) : Bool := r.desc.fields.any fun f => f.acc = .rwl

/-- The row of Table 13.2 for an access to a register of block number `n` with the word `v` (R565): every access to `PAGE`, whose row
names its field, falls under that row. -/
def registerRow (n : Nat) (k : RegKey) (wr : Bool) (v : Word) : Row :=
  if k.id.isLocked then rowLocked
  else match k.id with
  | .PAGE => rowService
  | .IRQ_T_CLAIM | .IRQ_T_COMPLETE | .IRQ_T_THRESH | .IRQ_T_RUN | .IRQ_T_CNT =>
    (match k.i with | 0 | 1 => ⟨0, 0, 0, 0, 2⟩ | 2 => ⟨0, 2, 0, 0, 0⟩ | _ => ⟨0, 0, 0, 2, 0⟩)
  | .IRQ_MASK | .IRQ_PEND => rowOpen
  | .LT_CTL | .LT_SKEW | .LT_CLKOUT => rowOpen
  | .LT_STATE | .LT_EVT | .LT_NOW_LO | .LT_NOW_HI | .LT_BEAT_LO | .LT_BEAT_HI | .LT_PHASE | .LT_LOCKDIAG | .LT_CNT
  | .LT_REEST => rowOpen
  | .RING_CTL =>
    let r := fieldGet v 0 12
    if wr && 3072 ≤ r && r ≤ 3135 then rowSec else rowOpen
  | .RING_DB | .RING_DBC =>
    let r := fieldGet v 20 12
    if wr && 3072 ≤ r && r ≤ 3135 then rowSec else rowOpen
  | .RING_CHB | .RING_CRES | .RING_STAT => rowOpen
  | .STOR_STATE | .STOR_TAGS | .STOR_STAT | .STOR_CNT_A | .STOR_CNT_B => rowOpen
  | .MEM_FRZREL => ⟨0, 0, 0, 2, 0⟩
  | .SYS_ID => rowStatus
  | .PWR_CTL | .PWR_PARK | .PWR_WAKE | .PWR_HIBTMR => rowOpen
  | .PWR_CORERST => rowService
  | .PWR_RSTCAUSE | .PWR_STATE | .PWR_STAT | .PWR_PARKED | .PWR_WDCNT | .PWR_HIBDUR | .PWR_LOST => rowOpen
  | .BOOT_CMD | .BOOT_ARG0 | .BOOT_ARG1 | .BOOT_ARG2 => rowBoot
  | .BOOT_STAT | .BOOT_APPERR | .BOOT_SLOT_ST | .BOOT_SLOT_PLT_LO | .BOOT_SLOT_PLT_HI | .BOOT_USTAT | .BOOT_PATCH =>
    rowStatus
  | .EVT_XDLY => rowOpen
  | _ => if n = 15 then rowSec else if 0x100 ≤ n || n = 14 then rowOpen else rowRead

/-- The row of Table 13.2 for an access to the `n` bytes from `a`; a reserved offset falls under that of its page or block, or
under the last row. -/
def State.accessRow (s : State) (a n : Nat) (wr : Bool) (v : Word) : Row :=
  match s.place a with
  | .block b off =>
    (match regVia b off with
    | some (k, _) => registerRow b k wr v
    | none => if b = 15 then rowSec else if 0x100 ≤ b || b = 14 || expertOffset off then rowOpen else rowRead)
  | .segment _ | .capture _ | .fail _ | .pad => rowOpen
  | .control _ => rowLocked
  | .retention o => ⟨2, 1, if 0x8000 ≤ o && o + n ≤ 0x10000 && s.flg F.PEER_CFG_HOFF_RX then 2 else 0, 1, 2⟩
  | .reserved | .outside => rowRead

/-- The master whose route reaches interrupt target `t` (R403). -/
def routeMaster (t : Nat) : Nat :=
  match t with
  | 0 => 1 | 1 => 2 | 2 => 4 | _ => 3

/-- An access to a register that R403 reserves for another master's route. -/
def State.otherRoute (s : State) (p : Port) (a : Nat) : Bool :=
  match s.place a with
  | .block 3 off =>
    (match regVia 3 off with
    | some (k, _) =>
      (match k.id with
      | .IRQ_T_CLAIM | .IRQ_T_COMPLETE | .IRQ_T_THRESH | .IRQ_T_RUN | .IRQ_T_CNT =>
        portMaster p ≠ routeMaster k.i
      | _ => false)
    | none => false)
  | _ => false

/-- How an access is judged before the rules of the block or memory that it reaches (R424, R432). -/
inductive Verdict where
  /-- It is made. -/
  | pass
  /-- A write to a closed EXPERT page: ignored, with `EXPERT_REJ` (R41). -/
  | closed (block : Nat)
  /-- A write after the lock, by an authority that could write before it: ignored (R432). -/
  | afterLock
  /-- A violation: `auth` on authority, else on the window (R425). -/
  | violation (auth : Bool)
  deriving DecidableEq, Repr

/-- The block of a closed EXPERT page that address `a` lies on. -/
def State.closedPage (s : State) (a : Nat) : Option Nat :=
  match s.place a with
  | .block b off => if expertOffset off && !s.pageOpen b then some b else none
  | _ => none

/-- The address reaches an RWL field or the control store window. -/
def State.lockedPlace (s : State) (a : Nat) : Bool :=
  match s.place a with
  | .block b off => (match regVia b off with | some (k, _) => k.id.isLocked | none => false)
  | .control _ => true
  | _ => false

/-- An access of port `p` to the `n` bytes from `a` is judged; `v` is the word written (R424). An address outside the regions of
Table 1.13 falls under no row of Table 13.2 and is a window violation (R46). DEDUCED (see notes/assumptions/105.md): an access that
R403 reserves for another route is one too, whatever the row gives. -/
def State.judge (s : State) (p : Port) (a n : Nat) (wr : Bool) (v : Word) : Verdict :=
  let right := (s.accessRow a n wr v).of p
  match wr, s.closedPage a with
  | true, some b => if s.inWindow (portMaster p) a n true then .closed b else .violation false
  | _, _ =>
    if !mapped a n || s.otherRoute p a then .violation false
    else if right < (if wr then 2 else 1) then .violation true
    else if !s.inWindow (portMaster p) a n wr then .violation false
    else if wr && s.lockedPlace a && s.dev.bus.locked then .afterLock
    else .pass

/-- A port can issue accesses: no reset holds the masters (t1 to t5 of Table 15.3), the device does not hibernate, the
processors run their firmware, boot firmware is at work, so that IMAGE authority exists (R430), and recovery has not left the line port and
the peer links disabled (R482). -/
def State.issues (s : State) (p : Port) : Bool :=
  s.dev.rst.run.isNone && s.dev.rst.hib < 3 &&
    match p with
    | .image => !s.dev.bus.locked
    | .mp0 | .mp1 => s.dev.rst.mp
    | .service => true
    | .line | .peer => !s.flg F.BOOT_STAT_REC

end Sys2Proof.Machine
end

