-- ==== Sys2Proof/Machine/RegRead.lean ====
section
/-!
DEFINITION. What a read of a register returns and does: the registers that are views of other state, the latches of R9, R180,
R202 and R216, and the claim (R393).
-/
namespace Sys2Proof.Machine

/-! ## Views -/

/-- The bits of a register whose fields read as 0 because they are WO (R11). -/
def RegId.woMask (r : RegId) : Word := fieldsMask (r.desc.fields.filter fun f => f.acc = .wo)

/-- The core whose sequencer, limits and loop status core `k` reads: in a gang its leader's (R164, R295). -/
def State.readCore (s : State) (k : Nat) : Nat :=
  match s.channelOf k with
  | some n => s.leadCore n
  | none => k

/-- Word `w` of the memory at `a`. -/
def State.word (s : State) (a : Nat) : Word := BitVec.ofNat 32 (s.num a 4)

/-- A word with fields at the values listed: lowest bit, width, value. -/
def packWord : List (Nat × Nat × Nat) → Word
  | [] => 0
  | (lo, w, n) :: fs => fieldPut (packWord fs) lo w n

/-- 1 for true. -/
def bitNat (b : Bool) : Nat := if b then 1 else 0

/-- `SEC.FUSE` (R488): the fuses as the last start found them. -/
def FuseSt.word (f : FuseSt) : Word :=
  packWord [(0, 4, (List.range 4).foldl (fun n i => n + bitNat (f.keySet i) * 2 ^ i) 0),
    (4, 4, (List.range 4).foldl (fun n i => n + bitNat (f.revoked.contains i) * 2 ^ i) 0), (8, 8, f.svn), (16, 1, 1)]

/-- `LINE.SESS[i]` (Table 13.16): views of the session. -/
def sessWord (z : Option Session) (id : RegId) (w : Nat) : Word :=
  match z with
  | none => 0
  | some x =>
    match id with
    | .LINE_SESS_CTL =>
      packWord [(31, 1, 1), (30, 1, bitNat x.src.v6), (29, 1, bitNat x.rec_), (28, 1, bitNat x.note), (0, 7, x.out.length)]
    | .LINE_SESS_NEXT => BitVec.ofNat 32 x.next
    | .LINE_SESS_CTO => BitVec.ofNat 32 x.cto
    | .LINE_SESS_SPORT => BitVec.ofNat 32 x.src.udp.toNat
    | _ => BitVec.ofNat 32 (x.src.addr.toNat / 2 ^ (32 * w))

/-- `PLAY.NOW` (Table 7.12) at instant `t` (sub-cycles); a lull lasts 512 cycles (R245). DEDUCED (see
notes/assumptions/31.md): a slot number of no slot reads 0. -/
def PlaySt.nowWord (p : PlaySt) (t : Nat) : Word :=
  packWord [(31, 1, bitNat p.dwell), (30, 1, bitNat (p.lull && t < p.lullFrom + 512 * 256)), (29, 1, bitNat p.subst),
    (28, 1, bitNat p.next.isSome),
    (8, 5, p.next.getD 0), (5, 1, bitNat p.playing), (0, 5, if p.playing then p.slot else 0)]

/-- `PLAY.POS`: in VECTOR the index is that of the vector. -/
def PlaySt.posWord (p : PlaySt) : Word :=
  packWord [(16, 1, bitNat (p.playing && p.pastD)), (0, 16, match p.vec with | some v => v.k | none => p.idx)]

/-- `SEQ.STATE` of core `k` (Table 8.16). -/
def State.seqWord (s : State) (k : Nat) : Word :=
  let q := (s.cst k).seq
  fieldPut (fieldPut (fieldPut (fieldPut (s.reg (R.SEQ_STATE k)) 20 4 q.calls.length) 16 4 q.loops.length) 12 4 q.dq.length)
    24 8 (s.stepOp k)

/-- `BSTAT` of block number `n`: `RAW` tells that a register of the block holds a raw value (Table 1.12). -/
def State.bstatWord (s : State) (n : Nat) : Word :=
  fieldPut (s.reg (R.BSTAT n)) 2 1 (bitNat (s.dev.bus.raw.any fun k => k.blockNumber = n))

/-- The level of EV`i` at the last sequencer-cycle boundary (Table 6.8). -/
def State.inputLevel (s : State) (i : Nat) : Bool :=
  match (s.dev.evt.levels.get [] i).find? fun e => e.1 ≤ s.lastBoundary s.now with
  | some e => e.2.2
  | none => false

/-- The raw value in effect of a register of an EXPERT page (R42), which may wait for a boundary (R85), for the next window (R197)
or for the end of the window in progress (R173). -/
def State.rawView (s : State) (k : RegKey) : Word :=
  match k.id with
  | .TG_PERIOD | .TG_DT | .TG_PULSE | .TG_DMAX | .FMT_OCLIM | .VLOOP_CFG | .VLOOP_SCOMP | .PROT_FILT | .CONV_CFG => s.effReg k
  | .CONV_WIN => BitVec.ofNat 32 (s.cst k.u).win.w
  | .CONV_OFS => BitVec.ofNat 32 (s.cst k.u).win.ofs
  | _ => s.reg k

/-- What a register reads as, but for the pads whose level the model does not know. -/
def State.view (s : State) (k : RegKey) : Word :=
  let own := s.rawView k &&& ~~~k.id.woMask
  match k.id with
  | .LT_NOW_LO => BitVec.ofNat 32 s.now
  | .LT_NOW_HI => BitVec.ofNat 32 (s.now / 2 ^ 32)
  | .IRQ_T_CLAIM => s.claimWord k.i
  | .IRQ_T_RUN => fieldPut (fieldPut own 31 1 (bitNat (s.running k.i))) 16 8 (s.runRank k.i)
  | .STOR_TAGS => packWord [(16, 11, s.tagCounts.1), (0, 9, s.tagCounts.2)]
  | .LINE_SESS_CTL | .LINE_SESS_NEXT | .LINE_SESS_CTO | .LINE_SESS_SPORT | .LINE_SESS_ADDR =>
    sessWord (regSession s.dev.line.sessions k.i) k.id k.j
  | .SVC_STAT => fieldPut own 0 1 (bitNat (regSession s.dev.line.sessions 8).isSome)
  | .SEC_FUSE => s.dev.boot.read.word
  | .SEC_KEYHASH => BitVec.ofNat 32 (leNat (((s.dev.boot.read.hash k.i).drop (4 * k.j)).take 4))
  | .PROT_STAT => fieldPut (fieldPut own 1 1 (bitNat (s.ocLive k.u))) 2 1 (bitNat (s.ovLive k.u))
  | .TG_NOWPER => BitVec.ofNat 32 (s.period k.u)
  | .LOOP_NOW => s.reg (R.LOOP_NOW (s.readCore k.u))
  | .LOOP_TAPERNOW => s.reg (R.LOOP_TAPERNOW (s.readCore k.u))
  | .LOOP_STAT =>
    let l := s.reg (R.LOOP_STAT (s.readCore k.u))
    fieldPut (fieldPut own 0 1 (fieldGet l 0 1)) 1 1 (fieldGet l 1 1)
  | .PLAY_NOW => (s.cst (s.readCore k.u)).play.nowWord s.nowSub
  | .PLAY_POS => (s.cst (s.readCore k.u)).play.posWord
  | .PLAY_SLOT => fieldPut own 29 1 (bitNat (s.slotActive k.u k.i))
  | .EVM_STATE => fieldPut own 0 2 (s.unitSeen k.u k.i)
  | .SEQ_STATE => s.seqWord (s.readCore k.u)
  | .SEQ_PC | .SEQ_FADDR | .SEQ_ANCHOR_LO | .SEQ_ANCHOR_HI | .SEQ_LASTLT_LO | .SEQ_LASTLT_HI | .SEQ_LTALM_LO
  | .SEQ_LTALM_HI | .SEQ_WHY | .SEQ_STAT | .SEQ_CNT => s.reg { k with u := s.readCore k.u }
  | .SEQ_CTX => s.ctxWord (s.readCore k.u) k.i
  | .FPKT_ACC_LO => s.word (chBlock k.u)
  | .FPKT_ACC_HI => s.word (chBlock k.u + 4)
  | .FPKT_ACCF => s.word (chBlock k.u + 8)
  | .FPKT_LAST_LO => s.word (chBlock k.u + 16)
  | .FPKT_LAST_HI => s.word (chBlock k.u + 20)
  | .FPKT_QP_LO => s.word (chBlock k.u + 48)
  | .FPKT_QP_HI => s.word (chBlock k.u + 52)
  | .FAIL_CNT => match s.channelOf k.u with | some n => BitVec.ofNat 32 (s.failCount n) | none => 0
  | .FAIL_WPTR => match s.channelOf k.u with | some n => BitVec.ofNat 32 (s.failPtr n) | none => 0
  | .BSTAT => s.bstatWord k.u
  | .PWR_WDCNT => fieldPut own 0 24 (divUp (s.dev.rst.wdEnd - s.now) wdMs)
  | .EVT_LVL => packWord ((List.range 16).map fun i => (i, 1, bitNat (s.inputLevel i)))
  | _ => own
where
  /-- A session, if it is open. -/
  regSession (t : Table Session) (i : Nat) : Option Session := (t.find? fun e => e.1 = i).map (·.2)

/-- `FMT.PIN` (R126): the pads at the last sequencer-cycle boundary. A pin in high impedance has the level that is outside the
device. -/
def viewPins (k : Nat) (go : Word → Prog) : Prog :=
  ask fun s =>
    let level (p : Nat) := (s.cst k).drv.levelAt p (s.lastBoundary s.now * 256)
    free fun x =>
      let b (p : Nat) := if level p = 2 then x / 2 ^ p % 2 else level p
      go (packWord [(0, 1, b 0), (1, 1, b 1), (2, 1, b 2), (3, 1, b 3)])

/-- A register is read, without what the read does. -/
def viewed (k : RegKey) (go : Word → Prog) : Prog :=
  match k.id with
  | .FMT_PIN => viewPins k.u go
  | _ => ask fun s => go (s.view k)

/-! ## What a read does -/

/-- The registers that a read of register `k` latches for the reading master (R9, R180, R202, R216, Table 5.25). -/
def latchesOf (k : RegKey) : List RegKey :=
  let with_ (l : List RegId) := l.map fun r => { k with id := r }
  match k.id with
  | .CONV_V => with_ [.CONV_I, .CONV_T, .CONV_FLAGS, .CONV_S_LO, .CONV_S_HI, .CONV_Q_LO, .CONV_Q_HI]
  | .EVT_LAST_LO => with_ [.EVT_LAST_HI, .EVT_LAST_INFO]
  | .EVM_IVL_LO => with_ [.EVM_IVL_HI, .EVM_ST_LO, .EVM_ST_HI, .EVM_INFO, .EVM_SUBR]
  | .FPKT_ACC_LO => with_ [.FPKT_ACC_HI, .FPKT_ACCF]
  | .LT_NOW_LO => with_ [.LT_NOW_HI] | .LT_BEAT_LO => with_ [.LT_BEAT_HI]
  | .SYS_SQL_LAST_LO => with_ [.SYS_SQL_LAST_HI]
  | .MEM_FRZLOG_LO => with_ [.MEM_FRZLOG_HI] | .MEM_ECCA_LO => with_ [.MEM_ECCA_HI]
  | .BOOT_SLOT_PLT_LO => with_ [.BOOT_SLOT_PLT_HI] | .LINE_MAC_LO => with_ [.LINE_MAC_HI]
  | .CONV_S_LO => with_ [.CONV_S_HI] | .CONV_Q_LO => with_ [.CONV_Q_HI]
  | .PLAY_ULT_LO => with_ [.PLAY_ULT_HI]
  | .SEQ_ANCHOR_LO => with_ [.SEQ_ANCHOR_HI] | .SEQ_LASTLT_LO => with_ [.SEQ_LASTLT_HI]
  | .SEQ_LTALM_LO => with_ [.SEQ_LTALM_HI]
  | .CAP_TRIG_LO => with_ [.CAP_TRIG_HI] | .MASK_ORG_LO => with_ [.MASK_ORG_HI]
  | .EVM_TMO_LO => with_ [.EVM_TMO_HI] | .EVM_ST_LO => with_ [.EVM_ST_HI]
  | .FPKT_QP_LO => with_ [.FPKT_QP_HI] | .FPKT_LAST_LO => with_ [.FPKT_LAST_HI]
  | .MON_LIFE_LO => with_ [.MON_LIFE_HI] | .CAL_RMB_LO => with_ [.CAL_RMB_HI] | .CAL_HB_LO => with_ [.CAL_HB_HI]
  | _ => []

/-- The word that master `m` has latched for register `k`. -/
def State.latched (s : State) (m : Nat) (k : RegKey) : Option Word :=
  (s.dev.bus.shadow.find? fun e => e.1 = m && e.2.1 = k).map (·.2.2)

/-- Latched words of master `m` for the registers `ks` are gone. -/
def unlatch (m : Nat) (ks : List RegKey) : Prog :=
  dev fun d => { d with bus := { d.bus with shadow := d.bus.shadow.filter fun e => !(e.1 = m && ks.contains e.2.1) } }

/-- Master `m` latches the registers that a read of `k` latches. -/
def latchFor (m : Nat) (k : RegKey) : Prog :=
  match latchesOf k with
  | [] => .done
  | ks => seqs [unlatch m ks,
      ask fun s => dev fun d => { d with bus := { d.bus with shadow := ks.map (fun x => (m, x, s.view x)) ++ d.bus.shadow } }]

/-- QP of a front end is brought up to date before it is read (R188). -/
def settleRead (k : RegKey) : Prog :=
  match k.id with
  | .FPKT_QP_LO | .FPKT_QP_HI => ask fun s => settleQp k.u s.now
  | _ => .done

/-- The words of the retention RAM that a read of register `k`, with what it latches, reads: the first byte and how many; 0 for a
register that is no view of one. -/
def State.blockWords (s : State) (k : RegKey) : Nat × Nat :=
  match k.id with
  | .FPKT_ACC_LO => (chBlock k.u, 16)
  | .FPKT_ACC_HI => (chBlock k.u, 8)
  | .FPKT_ACCF => (chBlock k.u + 8, 8)
  | .FPKT_LAST_LO | .FPKT_LAST_HI => (chBlock k.u + 16, 8)
  | .FPKT_QP_LO | .FPKT_QP_HI => (chBlock k.u + 48, 8)
  | .FAIL_CNT | .FAIL_WPTR => match s.channelOf k.u with | some n => (chBlock n + 40, 8) | none => (0, 0)
  | _ => (0, 0)

/-- A read of register `k` reads those words of its channel block (R418, R419, R506). -/
def blockRead (k : RegKey) : Prog :=
  ask fun s => when ((s.blockWords k).2 ≠ 0) (eccRead (s.blockWords k).1 (s.blockWords k).2)

/-- The same for a word of the retention RAM (Table 15.5). -/
def settleBlock (a : Nat) : Prog :=
  when (chBlock 0 ≤ a && a < chBlock nChannels) (ask fun s => settleQp ((a - chBlock 0) / 64) s.now)

/-- Master `m` reads register `k`; `go` goes on with the word. -/
def readReg (m : Nat) (k : RegKey) (go : Word → Prog) : Prog :=
  ask fun s =>
    match s.latched m k with
    | some w => (unlatch m [k]).seq (go w)
    | none => (seqs [settleRead k, blockRead k]).seq <| viewed k fun w => seqs [latchFor m k, when (k.id = .IRQ_T_CLAIM) (claim k.i), go w]

/-- The word of the control store window at offset `o` (Table 8.13): the ROM holds microwords of 12 bytes in 16; the patch RAM
(R478) and the reserved part read 0. -/
def State.controlWord (s : State) (o : Nat) : Word :=
  if o < 0x40000 then
    if 12 ≤ o % 16 then 0 else BitVec.ofNat 32 (leNat ((List.range 4).map fun i => Config.romByte (o + i)))
  else if 0x48000 ≤ o && o < 0x48500 then s.word (ctlBase + o)
  else 0

/-- A read of the word at `a`, which has passed the checks of R424, by master `m`; `go` goes on with a status of Table 13.7 and
the word. A closed EXPERT page and reserved offsets read 0 (R12, R41); an uncorrectable word answers BUSERR (Table 12.3). -/
def readPlace (m a : Nat) (go : Nat → Word → Prog) : Prog :=
  ask fun s =>
    match s.place a with
    | .block b off =>
      (match regVia b off with
      | some (k, _) => if expertOffset off && !s.pageOpen b then go 0 0 else readReg m k (go 0)
      | none => go 0 0)
    | .control o => (eccRead a 4).seq (if s.badWord a 4 then go 7 0 else go 0 (s.controlWord o))
    | .reserved | .outside => go 0 0
    | _ => seqs [settleBlock a, eccRead a 4, ask fun s => if s.badWord a 4 then go 7 0 else go 0 (s.word a)]

end Sys2Proof.Machine
end

