-- ==== Sys2Proof/Machine/RegWrite.lean ====
section
/-!
DEFINITION. What a write of a register does, field by field (R11 to R15, R564): the ranges and encodings that the chapters
give, and the registers whose write is an action.
-/
namespace Sys2Proof.Machine

/-! ## Fields -/

/-- The word `old` after a write of `v`: RW and RWL fields take their bits unless their lowest bit is in `kept`; W1C and W1S
fields clear and set, but the bits of `hw`, which the hardware sets in the same cycle, stay set (R15); RO and WO fields stay
(R11). -/
def fieldsWrite (old v hw : Word) (kept : List Nat) : List FieldDesc → Word
  | [] => old
  | f :: fs =>
    let w := fieldsWrite old v hw kept fs
    let n := fieldGet v f.lo (f.hi + 1 - f.lo)
    let now := fieldGet w f.lo (f.hi + 1 - f.lo)
    let stays := fieldGet hw f.lo (f.hi + 1 - f.lo)
    match f.acc with
    | .rw | .rwl => if kept.contains f.lo then w else fieldPut w f.lo (f.hi + 1 - f.lo) n
    | .w1c => fieldPut w f.lo (f.hi + 1 - f.lo) (now &&& (((2 ^ (f.hi + 1 - f.lo) - 1) ^^^ n) ||| stays))
    | .w1s => fieldPut w f.lo (f.hi + 1 - f.lo) (now ||| n)
    | .ro | .wo => w

/-- The word that register `k` takes when `v` is written to it and the fields at `kept` are refused. -/
def State.written (s : State) (k : RegKey) (v : Word) (kept : List Nat) : Word :=
  fieldsWrite (s.reg k) v s.dev.bus.hwSets kept k.id.desc.fields

/-- The lowest bits of the fields that are refused: each with its test. -/
def refusals (l : List (Nat × Bool)) : List Nat := (l.filter (·.2)).map (·.1)

/-- Where fields are refused, the block's `BADVAL` is set, once for the write (R564). -/
def refusedBy (k : RegKey) (bad : List (Nat × Bool)) : Prog := when (bad.any (·.2)) (badVal k.blockNumber)

/-- A write of register `k` by its fields; `bad` lists fields with the test that refuses them. -/
def plain (k : RegKey) (v : Word) (bad : List (Nat × Bool)) : Prog :=
  seqs [ask fun s => setR k (s.written k v (refusals bad)), refusedBy k bad]

/-- A write of register `k` whose value takes effect at the next boundary of core `c`. -/
def plainLater (c : Nat) (k : RegKey) (v : Word) (bad : List (Nat × Bool)) : Prog :=
  seqs [ask fun s => setLater c k (s.written k v (refusals bad)), refusedBy k bad]

/-- Register `k`, which a profile covers, holds a raw value: one of its fields has been written (`BSTAT.RAW`). -/
def markRaw (k : RegKey) (bad : List (Nat × Bool)) : Prog :=
  when (bad.any (fun b => !b.2) || bad = [])
    (dev fun d => { d with bus := { d.bus with raw := k :: d.bus.raw.filter (· != k) } })

/-- A raw write of a register that a profile covers. -/
def rawPlain (k : RegKey) (v : Word) (bad : List (Nat × Bool)) : Prog := seqs [plain k v bad, markRaw k bad]

/-- A raw write whose value takes effect at the next boundary of core `c`. -/
def rawLater (c : Nat) (k : RegKey) (v : Word) (bad : List (Nat × Bool)) : Prog := seqs [plainLater c k v bad, markRaw k bad]

/-- The `_LO` word of a 64-bit quantity is held (R9). -/
def holdLow (k : RegKey) (v : Word) : Prog :=
  dev fun d => { d with bus := { d.bus with held := (k, v) :: d.bus.held.filter fun e => e.1 != k } }

/-- The `_HI` word is written: `take` gets the 64-bit value (R9). -/
def wide (lo : RegKey) (v : Word) (take : Nat → Prog) : Prog :=
  ask fun s =>
    let low := ((s.dev.bus.held.find? fun e => e.1 = lo).map (·.2)).getD (s.reg lo)
    seqs [dev fun d => { d with bus := { d.bus with held := d.bus.held.filter fun e => e.1 != lo } },
      take (low.toNat + 2 ^ 32 * v.toNat)]

/-- A 64-bit register pair takes its value. -/
def widePlain (lo hi : RegKey) (v : Word) : Prog := wide lo v fun n => set64 lo hi n

/-! ## `SYS`, `LT`, `XBAR` -/

/-- A write of a register of `LT` (spec/02); a clock profile with a reserved bit that is not 0 is a reserved encoding (R43). -/
def writeLt (k : RegKey) (v : Word) : Prog :=
  match k.id with
  | .LT_CLKPROF =>
    ask fun s =>
      let i := fieldGet v 0 4
      (match s.dev.image.clock.find? fun e => e.1 = i with
      | some e =>
        if e.2 &&& ~~~R.LT_XREF.id.mask = 0 then effXref e.2 (seqs [setF F.LT_CLKPROF_PROF i, unraw [R.LT_XREF]])
        else badVal 1
      | none => badVal 1)
  | .LT_XREF => effXref v (markRaw k [])
  | .LT_CTL => seqs [setF F.LT_CTL_RESUME (fieldGet v 0 1), when (bit v 1) effRealign, when (bit v 2) effRelock]
  | .LT_BEATCYC => ask fun s => plain k v [(0, !beatCycOk s v.toNat)]
  | .LT_SKEW => effSkew (fieldGet v 0 20)
  | .LT_CNT => plain k 0 []
  | .LT_CLKOUT =>
    ask fun s =>
      let w := s.written k v (refusals [(30, fieldGet v 30 2 = 3)])
      plain k v [(30, fieldGet v 30 2 = 3), (26, !clkoutLevelOk w), (0, !clkoutDivOk s w)]
  | _ => plain k v []

/-- A write of a register of `XBAR` (spec/01). -/
def writeXbar (k : RegKey) (v : Word) : Prog :=
  match k.id with
  | .XBAR_MAP => plain k v [(16, 68 ≤ fieldGet v 16 7)]
  | .XBAR_GANG => plain k v [(16, 5 ≤ fieldGet v 16 3)]
  | .XBAR_COMMIT_LO => holdLow k v
  | .XBAR_COMMIT_HI => wide R.XBAR_COMMIT_LO v fun n => seqs [setR R.XBAR_COMMIT_LO (BitVec.ofNat 32 n), effCommit n]
  | _ => plain k v []

/-! ## `IRQ`, `RING`, `STOR`, `MEM` -/

/-- A write of a register of `IRQ` (spec/11). -/
def writeIrq (k : RegKey) (v : Word) : Prog :=
  match k.id with
  | .IRQ_MASK => setR k (if k.i = 0 then v &&& 0xFFFFFFFE else v)
  | .IRQ_T_COMPLETE => complete k.i (fieldGet v 0 9)
  | .IRQ_T_CNT => plain k 0 []
  | .IRQ_SWI => seqs [when (bit v 0) (raise 253), when (bit v 1) (raise 254)]
  | .IRQ_SRC => seqs [plain k v [], rejudge k.i]
  | .IRQ_COAL => seqs [plain k v [(0, 1048576 < fieldGet v 0 21)], rejudge k.i]
  | _ => plain k v []

/-- A write of `RING.CHB` (R353): the base in effect stays so up to the next sequencer cycle. -/
def ringBase (k : RegKey) (v : Word) : Prog :=
  let bad := fieldGet v 0 12 % 16 ≠ 0 || 4032 < fieldGet v 0 12
  ask fun s => seqs [
    when (!bad) (dev fun d => { d with chb := d.chb.put k.i (s.boundary (s.now + 1), s.chBase k.i) }),
    plain k v [(0, bad)]]

/-- A write of a register of `RING` by master `m` (spec/10). -/
def writeRing (m : Nat) (k : RegKey) (v : Word) : Prog :=
  match k.id with
  | .RING_CTL =>
    (match fieldGet v 30 2 with
    | 1 => ringEnable (fieldGet v 0 12) ((spillRoom (fieldGet v 0 12)).seq spillUpdate)
    | 2 => disableRing (fieldGet v 0 12)
    | 3 => badVal 4
    | _ => .done)
  | .RING_DB => ringDb m (fieldGet v 20 12) (fieldGet v 0 20)
  | .RING_DBC => ringDbc (fieldGet v 20 12) (fieldGet v 0 20) (spillRoom (fieldGet v 20 12))
  | .RING_CHB => ringBase k v
  | _ => plain k v []

/-- A write of a register of `STOR` (spec/10). -/
def writeStor (k : RegKey) (v : Word) : Prog :=
  match k.id with
  | .STOR_CTL =>
    (match fieldGet v 0 3 with
    | 1 => effAttach
    | 2 => effDetach
    | 3 => effFormat
    | 4 => effStorReset
    | _ => badVal 5)
  | .STOR_CFG => seqs [plain k v [], spillUpdate]
  | .STOR_RETRY => effStorRetry v
  | .STOR_CNT_A | .STOR_CNT_B => plain k 0 []
  | _ => plain k v []

/-- A window that ends beyond 2^40 is ignored (R423). -/
def writeWindow (base size : Nat) (k : RegKey) (v : Word) : Prog :=
  if 0x10000000 < base + size then badVal 10 else plain k v []

/-- A write of a register of `MEM` (spec/12). -/
def writeMem (k : RegKey) (v : Word) : Prog :=
  match k.id with
  | .MEM_FRZREL => release (fieldGet v 0 16)
  | .MEM_COLL => setF F.MEM_COLL_COUNT 0
  | .MEM_ECCCNT => plain k 0 []
  | .MEM_STARVE => setF F.MEM_STARVE_N 0
  | .MEM_WIN_BASE => ask fun s => writeWindow (fieldGet v 0 28) (s.fld (F.MEM_WIN_SIZE_SIZE k.i k.j)) k v
  | .MEM_WIN_SIZE => ask fun s => writeWindow (s.fld (F.MEM_WIN_BASE_BASE k.i k.j)) (fieldGet v 0 29) k v
  | _ => plain k v []

/-! ## `LINE`, `PEER`, `BOOT`, `SEC` -/

/-- A write of `LINE.HLP` or `LINE.UTMO` is judged against R449: `tries`, `rto` and `utmo` are the values it would leave.
DEDUCED (see notes/assumptions/73.md): a `TRIES` that is refused keeps the whole write out. -/
def writeBudget (k : RegKey) (v : Word) (tries rto utmo : Nat) : Prog :=
  if tries = 0 || 8 < tries then badVal 6
  else if utmo ≠ 0 && utmo < 2 * (tries * rto) then setB F.LINE_STAT_BUDGET
  else plain k v []

/-- A write of a register of `LINE` (spec/13). -/
def writeLine (k : RegKey) (v : Word) : Prog :=
  match k.id with
  | .LINE_PHY => plain k v [(0, fieldGet v 0 2 = 3)]
  | .LINE_MAC_LO => holdLow k v
  | .LINE_MAC_HI => widePlain R.LINE_MAC_LO k v
  | .LINE_HLP => ask fun s => writeBudget k v (fieldGet v 28 4) (fieldGet v 0 20) (s.fld F.LINE_UTMO_UTMO)
  | .LINE_UTMO =>
    ask fun s => writeBudget k v (s.fld F.LINE_HLP_TRIES) (s.fld F.LINE_HLP_RTO) (fieldGet v 0 24)
  | .LINE_CNT | .LINE_CNT_A => plain k 0 []
  | _ => plain k v []

/-- A write of a register of `PEER` (spec/13). -/
def writePeer (k : RegKey) (v : Word) : Prog :=
  match k.id with
  | .PEER_CFG =>
    seqs [on (fun s => !s.flg F.PEER_CFG_HOFF_RX && bit v 4) (modPeer fun p => { p with rxNext := 0 }), plain k v []]
  | .PEER_HOFF => plain k v [(0, fieldGet v 0 24 ≠ 0 && fieldGet v 0 24 < 160)]
  | .PEER_HTX => seqs [plain k v [(0, fieldGet v 0 16 % 8 ≠ 0)], when (bit v 31) effHandoffSend]
  | .PEER_HLEN => plain k v [(0, fieldGet v 0 17 % 8 ≠ 0 || 65536 < fieldGet v 0 17)]
  | .PEER_CNT => plain k 0 []
  | _ => plain k v []

/-- A write of `BOOT.CMD`, of `SEC.CTL` by master `m`, or of another register of their blocks (spec/14). -/
def writeBoot (m : Nat) (k : RegKey) (v : Word) : Prog :=
  match k.id with
  | .BOOT_CMD => effBootCmd m (fieldGet v 0 4)
  | .SEC_CTL => effSecCtl (fieldGet v 30 2) (fieldGet v 28 2) (fieldGet v 0 24)
  | _ => plain k v []

/-! ## `MON`, `CAL`, `PWR` -/

/-- A write of a register of `MON` (spec/16). -/
def writeMon (k : RegKey) (v : Word) : Prog :=
  match k.id with
  | .MON_TLIM => seqs [plain k v [(16, (if Config.gradeX then 11500 else 10500) < fieldGet v 16 16)], judgeMonitors]
  | .MON_RWIN => seqs [plain k v [], judgeMonitors]
  | .MON_AGEWARN => seqs [plain k v [], judgeAge]
  | .MON_LIFE_LO => holdLow k v
  | .MON_LIFE_HI => seqs [widePlain R.MON_LIFE_LO k v, judgeLife]
  | _ => plain k v []

/-- A write of `CAL.HCTL` (R530, R531). -/
def writeHctl (op : Nat) : Prog :=
  match op with
  | 1 => effCut
  | 2 => effRxopen
  | 3 => effImport
  | 4 => effAbort
  | _ => badVal 12

/-- A write of a register of `CAL` through port `p` (spec/16). -/
def writeCal (p : Port) (k : RegKey) (v : Word) : Prog :=
  match k.id with
  | .CAL_CTL => seqs [plain k v [], when (bit v 8) effForce]
  | .CAL_RMAP => seqs [plain k v [], when (bit v 31) (effRemap (fieldGet v 0 6) (fieldGet v 16 7))]
  | .CAL_RMB_LO | .CAL_HB_LO => holdLow k v
  | .CAL_RMB_HI => widePlain R.CAL_RMB_LO k v
  | .CAL_HB_HI => widePlain R.CAL_HB_LO k v
  | .CAL_HCTL => writeHctl (fieldGet v 0 3)
  | .CAL_SUSPECT =>
    ask fun s =>
      let w := if k.i = 2 then v &&& 0xF else v
      setR k (if p = .service || p = .mp0 || p = .mp1 then w else s.reg k ||| w)
  | .CAL_CH_CORR =>
    plain k v [(0, fieldGet v 0 6 = 32), (6, fieldGet v 6 6 = 32), (12, fieldGet v 12 6 = 32), (18, fieldGet v 18 6 = 32)]
  | .CAL_CH_TST => seqs [plain k v [], judgeTst, when (bit v 8) (effApply k.i)]
  | _ => plain k v []

/-- A write of a register of `PWR` (spec/15). -/
def writePwr (k : RegKey) (v : Word) : Prog :=
  match k.id with
  | .PWR_CTL => effPwrCtl (fieldGet v 0 2)
  | .PWR_PARK => effPark k.i v
  | .PWR_CORERST =>
    if 68 ≤ fieldGet v 0 7 then badVal 13 else when (bit v 31) (effCoreReset (fieldGet v 0 7))
  | .PWR_WDOG => effWdog (fieldGet v 0 24)
  | .PWR_WDKICK => effWdkick (fieldGet v 0 8)
  | _ => plain k v []

/-! ## `EVT` -/

/-- Two lanes stamp the same edge of one input (R200). -/
def State.lanesClash (s : State) : Bool :=
  (List.range 16).any fun i => [false, true].any fun f => 1 < ((List.range 20).filter fun l => s.laneTakes l i f).length

/-- A write of `EVT.IN[i]` or `EVT.AUX[j]`, which R200 may ignore whole. -/
def writeLane (k : RegKey) (v : Word) (bad : List (Nat × Bool)) : Prog :=
  ask fun s =>
    if (s.setReg k (s.written k v (refusals bad))).lanesClash then badVal 14 else plain k v bad

/-- A write of a register of `EVT` (spec/06). -/
def writeEvt (k : RegKey) (v : Word) : Prog :=
  match k.id with
  | .EVT_IN =>
    ask fun s => seqs [
      each cores fun c => when (s.fld (F.EVM_GATE_SRC c) = k.i + 1) (gateSet c (s.boundary s.now) .done),
      writeLane k v [(1, fieldGet v 1 2 = 3)]]
  | .EVT_AUX => writeLane k v [(4, fieldGet v 4 2 = 3)]
  | .EVT_LOST => plain k 0 []
  | _ => plain k v []

/-! ## `CORE` -/

/-- A write of `MASK.SEL[i]` (R321, R331, R343): while `EN` stays 1, another `IDX` is refused; else `IDX` loads its descriptor. -/
def writeMaskSel (c i : Nat) (v : Word) : Prog :=
  ask fun s =>
    let en := s.flg (F.MASK_SEL_EN c i)
    let idx := fieldGet v 0 8
    if en && bit v 31 then
      seqs [when (idx ≠ s.fld (F.MASK_SEL_IDX c i)) (badVal (0x100 + c)),
        when (s.fld (F.MASK_STATE_ST c i) = 0 && !(s.mask c i).checking) (effMaskEnable c i)]
    else seqs [
      when en (seqs [clrB (F.MASK_SEL_EN c i), setF (F.MASK_STATE_ST c i) 0, clrB (F.MASK_STATE_EXC c i),
        clrB (F.MASK_STATE_APPR c i), modMask c i fun _ => {}]),
      selectMask c i idx, when (bit v 31) (effMaskEnable c i)]

/-- A raw write of an EXPERT register of mask `i`, which R331 refuses while the mask is enabled. -/
def writeMaskRaw (k : RegKey) (v : Word) (bad : List (Nat × Bool)) : Prog :=
  ask fun s => if s.flg (F.MASK_SEL_EN k.u k.i) then badVal k.blockNumber else rawPlain k v bad

/-- A write of a conversion, packet or timing register of core `k.u` (spec/03 to spec/05). DESIGN CHOICE (see
notes/assumptions/81.md): the written `TG.PERIOD` bounds `PHASE`. -/
def writeCoreA (k : RegKey) (v : Word) : Prog :=
  let c := k.u
  match k.id with
  | .TG_PROF => selectDrive c (fieldGet v 0 4)
  | .TG_PHASE =>
    ask fun s => plainLater c k v [(0, s.fld (F.TG_PERIOD_CYC c) * 256 ≤ fieldGet v 0 23)]
  | .TG_PERIOD => rawLater c k v [(0, !periodOk (fieldGet v 0 15))]
  | .TG_DTMIN => seqs [plain k v [], clampDt c]
  | .TG_DT => seqs [effDt c (fieldGet v 16 16) (fieldGet v 0 16), markRaw k []]
  | .TG_PULSE => rawLater c k v []
  | .TG_DMAX =>
    if fieldGet v 0 10 = 0 || 1000 < fieldGet v 0 10 then setB (F.TG_STAT_DMAX_REJ c) else rawLater c k v []
  | .FMT_MODE => if fieldGet v 0 3 = 7 then badVal (0x100 + c) else effFmtMode c (fieldGet v 0 3)
  | .TG_STAT => ask fun s => plain k (if s.clashNow c then fieldPut v 2 1 0 else v) []
  | .FMT_BURST => plainLater c k v []
  | .FMT_AUX => plain k v [(0, 6 ≤ fieldGet v 0 4)]
  | .FMT_OCLIM => rawLater c k v []
  | .FMT_CNT_A | .FMT_CNT_B | .CONV_CNT | .PKT_DROP => plain k 0 []
  | .LOOP_VLIMREQ => effVlimReq c v
  | .LOOP_TAPERREQ => effTaperReq c v
  | .CONV_PROF => selectConv c (fieldGet v 0 4)
  | .CONV_CTL => plain k v [(0, fieldGet v 0 2 = 3)]
  | .CONV_WIN => seqs [rawPlain k v [(0, !windowOk (fieldGet v 0 22))], gridWritten c]
  | .CONV_OFS =>
    ask fun s => seqs [rawPlain k v [(0, !offsetOk (s.fld (F.CONV_WIN_W c)) v.toNat)], gridWritten c]
  | .CONV_CFG => seqs [rawPlain k v [], nextWindow c k]
  | .PKT_STREAM => seqs [plain k v [], nextWindow c k]
  | _ => plain k v []

/-- A write of an event, playback or sequencer register of core `k.u` (spec/06 to spec/08). -/
def writeCoreB (k : RegKey) (v : Word) : Prog :=
  let c := k.u
  match k.id with
  | .EVM_SRC =>
    plain k v [(21, fieldGet v 21 2 = 3), (16, 22 ≤ fieldGet v 16 5), (13, fieldGet v 13 2 = 3), (8, 22 ≤ fieldGet v 8 5),
      (5, fieldGet v 5 2 = 3), (0, 22 ≤ fieldGet v 0 5)]
  | .EVM_CFG => plain k v [(0, fieldGet v 0 2 = 3)]
  | .EVM_TMO_LO => holdLow k v
  | .EVM_TMO_HI =>
    wide { k with id := .EVM_TMO_LO } (v &&& 0x1FF) fun n =>
      if 2 ^ 40 < n then badVal (0x100 + c) else set64 { k with id := .EVM_TMO_LO } k n
  | .EVM_CTL =>
    seqs [when (bit v 0) (effEvmArm c k.i),
      when (bit v 1) (ask fun s => seqs [advance (s.boundary s.now), disarmAt c k.i (s.boundary s.now)])]
  | .EVM_GATE =>
    ask fun s => gateSet c (s.boundary s.now) (plain k v [(0, 17 ≤ fieldGet v 0 5)])
  | .EVM_CNT | .EVM_DROP | .PLAY_CNT_A | .PLAY_CNT_B | .SEQ_CNT => plain k 0 []
  | .PLAY_VALID => effValid c (fieldGet v 0 5)
  | .PLAY_INVAL => effInval c (fieldGet v 0 5)
  | .PLAY_SLOT => effSlot c k.i v
  | .CTL_CMD => ask fun s => effCommand c (fieldGet v 0 4) (s.fld (F.CTL_ARG_ARG c))
  | .SEQ_ANCHOR_LO | .SEQ_LTALM_LO => holdLow k v
  | .SEQ_ANCHOR_HI =>
    wide (R.SEQ_ANCHOR_LO c) v fun n => if n % 8 ≠ 0 then badVal (0x100 + c) else set64 (R.SEQ_ANCHOR_LO c) k n
  | .SEQ_LTALM_HI =>
    wide (R.SEQ_LTALM_LO c) v fun n =>
      ask fun s =>
        if n ≠ 0 && n ≤ s.now then
          seqs [set64 (R.SEQ_LTALM_LO c) k 0, match s.channelOf c with | some ch => offer ch 6 | none => .done]
        else set64 (R.SEQ_LTALM_LO c) k n
  | .SEQ_CTX =>
    ask fun s =>
      if (s.channelOf c).isSome then badVal (0x100 + c)
      else seqs [setR k v, modCore c fun x => { x with ctxWritten := true }]
  | .EVJ_E =>
    seqs [
      ask fun s => match s.channelOf c with
        | some n => offersUpTo n s.now (s.cst c).seq.offers.length
        | none => .done,
      keepEntry c k.i,
      plain k v [(28, 5 ≤ fieldGet v 28 3)]]
  | .EVJ_PEND =>
    ask fun s =>
      let set := if (s.cst c).seq.offered.1 = s.now then (s.cst c).seq.offered.2 else 0
      plain k (v &&& ~~~BitVec.ofNat 32 set) []
  | _ => plain k v []

/-- A write of a capture, mask or fail register of core `k.u` (spec/09). -/
def writeCoreC (k : RegKey) (v : Word) : Prog :=
  let c := k.u
  match k.id with
  | .CAP_PROF => selectCapture c (fieldGet v 0 4)
  | .CAP_CTL =>
    ask fun s =>
      let d := s.boundary s.now
      seqs [when (v.toNat % 8 ≠ 0) (advance d), when (bit v 0) (armCapture c d), when (bit v 1) (disarmCapture c d),
        when (bit v 2) (effCapTrig c)]
  | .CAP_CFG =>
    rawPlain k v [(16, !depthOk (fieldGet v 16 16)), (3, 28 ≤ fieldGet v 3 5), (1, fieldGet v 1 2 = 3), (8, false)]
  | .CAP_POST | .CAP_OPT => rawPlain k v []
  | .CAP_HDROP | .MASK_VCNT | .FAIL_RDROP => plain k 0 []
  | .MASK_SEL => writeMaskSel c k.i v
  | .MASK_ORG_LO => holdLow k v
  | .MASK_ORG_HI =>
    wide (R.MASK_ORG_LO c k.i) v fun n =>
      ask fun s =>
        if s.fld (F.MASK_CFG_ORG c k.i) = 0 then maskOrigin c k.i n else set64 (R.MASK_ORG_LO c k.i) k n
  | .MASK_CFG => writeMaskRaw k v [(20, 6 ≤ fieldGet v 20 3), (16, fieldGet v 16 2 = 3), (0, false)]
  | .MASK_ADDR => writeMaskRaw k v []
  | .MASK_NBP => writeMaskRaw k v [(0, 1024 < fieldGet v 0 11)]
  | .MASK_APPR => rawPlain k v []
  | .FAIL_CLR =>
    when (bit v 0) (ask fun s => match s.channelOf c with | some n => failClear n | none => .done)
  | _ => plain k v []

/-- A write of a register of a core. -/
def writeCore (k : RegKey) (v : Word) : Prog :=
  match k.offset % 0x4000 / 0x100 with
  | 1 | 2 | 3 | 4 | 5 => writeCoreA k v
  | 0 | 6 | 7 | 8 | 12 => writeCoreB k v
  | _ => writeCoreC k v

/-! ## `FE` -/

/-- A write of a register of front end `k.u` (spec/04, spec/05). -/
def writeFe (k : RegKey) (v : Word) : Prog :=
  let n := k.u
  match k.id with
  | .PATH_CTL => effPathActive n v
  | .SCALE_SHUNT =>
    seqs [plain k v [(0, v.toNat < 700000 || 4000000000 < v.toNat)], recomputeQp n]
  | .SCALE_GAIN => effGain n v
  | .VLOOP_PROF => selectLoop n (fieldGet v 0 4)
  | .VLOOP_CFG | .VLOOP_SCOMP | .PROT_FILT => ask fun s => rawLater (s.core n) k v []
  | .PROT_OC =>
    ask fun s =>
      let bad : List (Nat × Bool) := [(16, fieldGet v 16 10 = 0), (0, fieldGet v 0 10 = 0)]
      seqs [setLater (s.core n) k (s.written k v (refusals bad)), when (bad.any (·.2)) (setB (F.PROT_STAT_TH_REJ n)),
        widthCheck n (s.widthLeast n)]
  | .PROT_OV =>
    ask fun s =>
      if fieldGet v 0 12 = 0 then setB (F.PROT_STAT_TH_REJ n) else setLater (s.core n) k v
  | .FPKT_WIDTH => effWidth n (fieldGet v 0 16)
  | .FPKT_VP => seqs [plain k v [], recomputeQp n]
  | .FPKT_CLRB_LO => holdLow k v
  | .FPKT_CLRB_HI =>
    wide (R.FPKT_CLRB_LO n) v fun b => seqs [setR (R.FPKT_CLRB_LO n) (BitVec.ofNat 32 b), clearRequest n b]
  | _ => plain k v []

/-! ## A register -/

/-- A write through a register's own offset, by port `p`. -/
def writeOwn (p : Port) (k : RegKey) (v : Word) : Prog :=
  match k.id.blk with
  | .sys => if k.id = .SYS_SQL_CNT then plain k 0 [] else plain k v []
  | .lt => writeLt k v
  | .xbar => writeXbar k v
  | .irq => writeIrq k v
  | .ring => writeRing (portMaster p) k v
  | .stor => writeStor k v
  | .mem => writeMem k v
  | .line => writeLine k v
  | .peer => writePeer k v
  | .svc => plain k v [(0, k.id = .SVC_UART && fieldGet v 0 2 = 3)]
  | .boot | .sec => writeBoot (portMaster p) k v
  | .mon => writeMon k v
  | .cal => writeCal p k v
  | .pwr => writePwr k v
  | .evt => writeEvt k v
  | .core => writeCore k v
  | .fe => writeFe k v
  | .hdr => plain k v []

/-- A write of register `k` by port `p`, through its own offset or an alias (R14). -/
def writeReg (p : Port) (k : RegKey) (via : Via) (v : Word) : Prog :=
  match via, k.id with
  | .own, .IRQ_PEND => .done
  | .own, _ => writeOwn p k v
  | .set, .IRQ_PEND => pendSet k.i v
  | .clear, .IRQ_PEND => pendClear k.i v
  | .set, .PWR_PARK | .set, .IRQ_MASK => ask fun s => writeOwn p k (s.reg k ||| v)
  | .clear, .PWR_PARK | .clear, .IRQ_MASK => ask fun s => writeOwn p k (s.reg k &&& ~~~v)
  | .set, .PAGE => when (bit v 0) (setF (F.PAGE_EXPERT_EN k.u) 1)
  | .clear, .PAGE =>
    seqs [when (bit v 0) (clrB (F.PAGE_EXPERT_EN k.u)),
      ask fun s => when (bit v 1 && !bit s.dev.bus.hwSets 1) (clrB (F.PAGE_EXPERT_REJ k.u))]
  | .set, _ => .done
  | .clear, _ => writeOwn p k v

/-! ## An address -/

/-- Bytes are written from `a` on, after the checks of R424: into a memory that accepts them, with the effect of R229 in segment
memory. The ROM, the channel blocks of the retention RAM, which the device keeps (R505), and reserved addresses discard them. -/
def writeBytes (a : Nat) (bs : List Byte) (go : Nat → Word → Prog) : Prog :=
  ask fun s =>
    match s.place a with
    | .segment k => partWrite a bs.length (segWrite k (a - segBase k) bs) go
    | .capture _ | .fail _ | .pad => partWrite a bs.length (dpWrite a bs) go
    | .retention o =>
      if 0x100 ≤ o && o < 0x1100 then go 0 0 else partWrite a bs.length (dpWrite a bs) go
    | .control o =>
      if 0x40000 ≤ o && o < 0x48500 && !(o < 0x48000 && 12 ≤ o % 16) then partWrite a bs.length (dpWrite a bs) go
      else go 0 0
    | .block _ _ | .reserved | .outside => go 0 0

/-- The word `v` is written to address `a` by port `p`, after the checks of R424. -/
def writePlace (p : Port) (a : Nat) (v : Word) (go : Nat → Word → Prog) : Prog :=
  ask fun s =>
    match s.place a with
    | .block b off =>
      (match regVia b off with
      | some (k, via) => (writeReg p k via v).seq (go 0 0)
      | none => go 0 0)
    | _ => writeBytes a (natLE 4 v.toNat) go

end Sys2Proof.Machine
end

