-- ==== Sys2Proof/Machine/Bus.lean ====
section
/-!
DEFINITION. An access of a port: frozen masters, the checks of R424, violations, closed pages and the lock, collisions; and the
accesses that the commands of the table are (spec/01, spec/12, spec/13).
-/
namespace Sys2Proof.Machine

/-- A processor's access stalls where a port master's ends with FROZEN (R427). -/
def frozenEnd (m : Nat) (go : Nat → Word → Prog) : Prog := if m = 1 ∨ m = 2 then frozenAccess m else go 2 0

/-- An access of port `p` to the `n` bytes from `a`, the write of `v` where `wr`: `ok` makes it once the checks of R424 are
passed; `go` gets the status of Table 13.7 where it is not made. -/
def judged (p : Port) (a n : Nat) (wr : Bool) (v : Word) (ok : Prog) (go : Nat → Word → Prog) : Prog :=
  ask fun s =>
    let m := portMaster p
    if s.frozen m then frozenEnd m go
    else match s.judge p a n wr v with
      | .violation auth => seqs [violation m a wr auth, frozenEnd m go]
      | .closed b => seqs [setB (F.PAGE_EXPERT_REJ b), go 0 0]
      | .afterLock => go 0 0
      | .pass => ok

/-- Port `p` reads the word at `a`; `go` goes on with the status and the word. -/
def readAt (p : Port) (a : Nat) (go : Nat → Word → Prog) : Prog := judged p a 4 false 0 (readPlace (portMaster p) a go) go

/-- Port `p` writes the word `v` to `a`; `go` goes on with the status. -/
def writeAt (p : Port) (a : Nat) (v : Word) (go : Nat → Word → Prog) : Prog :=
  judged p a 4 true v (writePlace p a v go) go

/-- The answer goes to the port's master. -/
def toMaster (p : Port) (status : Nat) (w : Word) : Prog := answer (portMaster p) status w

/-- A write is made while the hardware sets the bits `hw` of the register (R15). -/
def whileSetting (hw : Word) (p : Prog) : Prog :=
  ask fun s =>
    seqs [dev fun d => { d with bus := { d.bus with hwSets := hw } }, p,
      dev fun d => { d with bus := { d.bus with hwSets := s.dev.bus.hwSets } }]

/-- Port `p` makes a read: the master takes the answer. -/
def busRead (p : Port) (a : Nat) : Prog := on (fun s => s.issues p) (readAt p a (toMaster p))

/-- Port `p` makes a write: the master takes the answer. -/
def busWrite (p : Port) (a : Nat) (v : Word) : Prog := on (fun s => s.issues p) (writeAt p a v (toMaster p))

/-- A write of port `p` at `a` meets those of `rivals` (R413): one that wins is `made` once the checks of R424 are passed; one that
loses is no violation, whatever its authority (R432). -/
def contested (p : Port) (rivals : List (Fin 8)) (a n : Nat) (v : Word) (made lose : Prog) (go : Nat → Word → Prog) : Prog :=
  ask fun s =>
    let m := portMaster p
    if s.frozen m then frozenEnd m go
    else if (s.writers m rivals).head? = some m then judged p a n true v (arbitrate m rivals a made lose) go
    else arbitrate m rivals a made lose

/-- Port `p` makes a write that meets writes of other masters to the same word in the same bank cycle. -/
def writeAgainst (p : Port) (rivals : List (Fin 8)) (a : Nat) (v : Word) (go : Nat → Word → Prog) : Prog :=
  contested p rivals a 4 v (writePlace p a v go) (go 1 0) go

/-- The same, with the answer to the master. -/
def busWriteAgainst (p : Port) (rivals : List (Fin 8)) (a : Nat) (v : Word) : Prog :=
  on (fun s => s.issues p) (writeAgainst p rivals a v (toMaster p))

/-- Port `p` makes a write of a string of bytes to a memory. Writes of `rivals` meet the word of its first byte: where they win, the
rest of the string is written. -/
def busBytes (p : Port) (a : Nat) (x : RivalBytes) : Prog :=
  let rest := x.bytes.drop (eccWord a + eccSize a - a)
  on (fun s => s.issues p)
    (contested p x.rivals a x.bytes.length 0 (writeBytes a x.bytes (toMaster p))
      (if rest = [] then toMaster p 1 0
      else judged p (eccWord a + eccSize a) rest.length true 0 (writeBytes (eccWord a + eccSize a) rest fun _ _ => toMaster p 1 0)
        (toMaster p)) (toMaster p))

/-- Port `p` writes register `k` through its own offset. -/
def regWrite (p : Port) (k : RegKey) (v : Word) : Prog := busWrite p k.addr v

/-- Port `p` writes the 64-bit quantity `n` to a `_LO` and a `_HI` register (R9). -/
def regWrite64 (p : Port) (lo hi : RegKey) (n : Nat) : Prog :=
  seqs [regWrite p lo (BitVec.ofNat 32 n), regWrite p hi (BitVec.ofNat 32 (n / 2 ^ 32))]

/-- Port `p` writes a field of register `k`, and the register's other fields as they read. -/
def fieldWrite (p : Port) (f : Field) (n : Nat) : Prog :=
  ask fun s => regWrite p f.reg (fieldPut (s.reg f.reg) f.lo f.w n)

/-- Port `p` reads register `k`. -/
def regRead (p : Port) (k : RegKey) : Prog := busRead p k.addr

end Sys2Proof.Machine
end

