-- ==== Sys2Proof/Machine/Boot.lean ====
section
/-!
DEFINITION. The boot ROM: choosing a slot, applying an image section by section, recovery, and the
ends of the update, refresh and fuse functions (spec/14_boot_security.md).
-/
namespace Sys2Proof.Machine

/-! ## Applying an image (R471, R477, R479, Table 14.6) -/

/-- A refusal of entry `i` is counted (R479). -/
def appErr (i : Nat) : Prog :=
  seqs [on (fun s => s.fld F.BOOT_APPERR_N = 0) (setF F.BOOT_APPERR_FIRST (min i 65535)), count F.BOOT_APPERR_N]

/-- Before the sections: default dispatch, no patch, no match entry (R477), every slot EMPTY (R234), no profile tables. -/
def bootClear : Prog :=
  seqs [
    .memClear (fun a => ctlBase + 0x40000 ≤ a && a < ctlBase + 0x48500) .done, eccWritten (ctlBase + 0x40000) 0x8500,
    engineWrite (ctlBase + 0x48000) ((List.range 1024).map Config.dispatchByte),
    dev fun d => { d with bus := { d.bus with entries := [] } },
    .regMap (fun k w => match k.id with
      | .PLAY_SLOT => fieldPut w 30 2 0
      | .PLAY_READY | .PLAY_FILLING | .BOOT_PATCH => 0
      | _ => w) .done,
    dev fun d => { d with image := {} }]

/-- DEVCFG. -/
def applyConfig (b : List Byte) : Prog :=
  let clock := ((List.range 16).map fun i => (i, BitVec.ofNat 32 (entryNum b (16 + 4 * i) 4))).filter fun e => e.2 != 0
  seqs [
    writeLt R.LT_BEATCYC (BitVec.ofNat 32 (entryNum b 0 4)),
    dev fun d => { d with image := { d.image with clock := clock } },
    writeLt R.LT_CLKPROF (BitVec.ofNat 32 (entryNum b 4 1)),
    each cores fun k => seqs [setF (F.TG_DTMIN_SUB k) (entryNum b 8 2), clampDt k],
    setF F.SYS_DEVID_DEV (entryNum b 80 2)]

/-- Core `k` may stand in for the one that SLICEMAP names for channel `n` (R471); `used` are the cores written for lower
channels. -/
def State.qualifies (s : State) (map : List Nat) (used : List Nat) (n k : Nat) : Bool :=
  !s.suspect k && !(channels.any fun m => m ≠ n && map.getD m 0 = k) && !used.contains k

/-- The core that boot writes for channel `n`: none where SLICEMAP's core is suspect and no core qualifies. -/
def State.sliceCore (s : State) (map used : List Nat) (n : Nat) : Option Nat :=
  let k := map.getD n 0
  if !s.suspect k then some k
  else if s.qualifies map used n (s.core n) then some (s.core n)
  else cores.find? (s.qualifies map used n)

/-- The slice map of the channels from `n` on (R471). -/
def applyMap (map : List Nat) (used : List Nat) : List Nat → Prog
  | [] => .done
  | n :: ns =>
    ask fun s =>
      let c := s.sliceCore map used n
      let k := c.getD (map.getD n 0)
      seqs [
        writeXbar (R.XBAR_MAP n) (fieldPut 0 16 7 k),
        when (c ≠ some (map.getD n 0) && c.isSome) (appErr n),
        when c.isNone (writePwr (R.PWR_PARK (n / 32)) (s.reg (R.PWR_PARK (n / 32)) ||| BitVec.ofNat 32 (2 ^ (n % 32)))),
        applyMap map (k :: used) ns]

/-- SLICEMAP. -/
def applySlices (b : List Byte) : Prog :=
  seqs [applyMap ((b.take 64).map (·.toNat)) [] channels,
    each (List.range 16) fun g => writeXbar (R.XBAR_GANG g) (fieldPut 0 16 3 (entryNum b (64 + g) 1))]

/-- CAL: the calibration store (R509). -/
def applyCal (b : List Byte) : Prog :=
  seqs [dpWrite calBase (b.take calSize), dev fun d => { d with image := { d.image with calLen := min b.length calSize } }]

/-- FW: the instruction memory of a processor. -/
def applyFw (target : Nat) (b : List Byte) : Prog := putBytes (fwBase (target / 2 ^ 40) + target % 2 ^ 40) b

/-- PATCH, whose tag has passed (R476, R477). -/
def applyPatch (b : List Byte) : Prog :=
  let p := (patchPlain b).getD []
  let nw := entryNum b 4 2
  let nd := entryNum b 6 2
  seqs [
    engineWrite (ctlBase + 0x40000) (p.take (16 * nw)),
    each (List.range nd) fun i =>
      let o := 16 * nw + 8 * i
      when (entryNum p o 4 < 256) (engineWrite (ctlBase + 0x48000 + 4 * entryNum p o 4) ((p.drop (o + 4)).take 4)),
    engineWrite (ctlBase + 0x48400) ((p.drop (16 * nw + 8 * nd)).take (4 * entryNum b 8 2)),
    setF F.BOOT_PATCH_PVER (entryNum b 0 2), setF F.BOOT_PATCH_ROMID (entryNum b 2 2)]

/-- A subtable of a PROF section: its kind and its entries; a phase offset table is one entry. -/
def profTables (b : List Byte) : Nat → List (Nat × List (List Byte))
  | 0 => []
  | fuel + 1 =>
    let kind := entryNum b 0 1
    let n := entryNum b 2 2
    let size := if kind = 2 then 8 else 16
    let r := b.drop 8
    if b.length < 8 || kind = 0 || 6 < kind then []
    else if kind = 6 then
      let len := 16 + 12 * min 64 (entryNum r 2 2)
      (6, [r.take len]) :: profTables (r.drop len) fuel
    else (kind, (List.range n).map fun i => (r.drop (size * i)).take size) :: profTables (r.drop (size * n)) fuel

/-- A profile table joins the image's. -/
def ImageSt.withTable (m : ImageSt) (kind : Nat) (l : List (List Byte)) : ImageSt :=
  let t : Table (List Byte) := (List.range l.length).zip l
  match kind with
  | 1 => { m with drive := t }
  | 2 => { m with loop := t }
  | 3 => { m with conv := t }
  | 4 => { m with capture := t }
  | 5 => { m with mask := t }
  | _ => m

/-- Entry `i` of a phase offset table (R122): to the core that `PEND` names for its channel. -/
def applyPhase (b : List Byte) (i : Nat) : Prog :=
  ask fun s =>
    let o := 16 + 12 * i
    let n := entryNum b o 1
    let p := entryNum b (o + 1) 1
    let phase := entryNum b (o + 4) 4
    let k := s.fld (F.XBAR_MAP_PEND n)
    if 64 ≤ n || !s.driveOk p || entryNum (s.dev.image.drive.get [] p) 0 4 * 256 ≤ phase then
      seqs [when (n < 64) (badVal (0x100 + k)), appErr i]
    else seqs [selectDrive k p, setLater k (R.TG_PHASE k) (BitVec.ofNat 32 phase),
      setLater k (R.FMT_BURST k) (BitVec.ofNat 32 (entryNum b (o + 8) 4))]

/-- The tables of a PROF section. -/
def applyTables (b : List Byte) : Prog :=
  each (profTables b b.length) fun t => dev fun d => { d with image := d.image.withTable t.1 t.2 }

/-- The phase offset entries of a PROF section. DESIGN CHOICE (see notes/assumptions/113.md): `VER` and the reserved bytes of the table are
not judged, and entries past the 64th are not there. -/
def applyPhases (b : List Byte) : Prog :=
  each ((profTables b b.length).filter fun t => t.1 = 6) fun t =>
    each t.2 fun p => each (List.range (min 64 (entryNum p 2 2))) (applyPhase p)

/-- Record `i` of a SEGMENTS section: a slot is written and validated; one whose `CAP` is 0 gives `SEG_SLOT` and stays as it is (R231). -/
def applySegment (core slot value i : Nat) (seg : List Byte) : Prog :=
  seqs [
    effSlot core slot (BitVec.ofNat 32 value),
    ask fun s =>
      let cap := s.fld (F.PLAY_SLOT_CAP core slot)
      if core < 68 && slot < 32 && cap = 0 then seqs [vstat core slot 1, appErr i]
      else if core < 68 && slot < 32 && s.slotSt core slot = 0 && cap = value % 2048
          && s.fld (F.PLAY_SLOT_BASE core slot) = value / 65536 % 8192 then
        seqs [dpWrite (s.slotAddr core slot) (seg.take (32 + 128 * cap)),
          ask fun s =>
            let code := s.validCode core slot 0
            seqs [judgeSlot core slot code, when (code ≠ 0) (appErr i)]]
      else appErr i]

/-- The records of a SEGMENTS section, from record `i` on. -/
def applySegments (b : List Byte) (i : Nat) : Nat → Prog
  | 0 => .done
  | fuel + 1 =>
    let len := 32 + 4 * entryNum b 12 4
    if b.length < 40 then .done
    else seqs [applySegment (entryNum b 0 1) (entryNum b 1 1 % 32) (entryNum b 4 4) i ((b.drop 8).take len),
      applySegments (b.drop (8 + (len + 7) / 8 * 8)) (i + 1) fuel]

/-- The status bits by which block number `n` tells that a write was refused. -/
def refusalBits (n : Nat) : List Field :=
  let c := n - 0x100
  let f := n - 0x180
  F.BSTAT_BADVAL n :: F.PAGE_EXPERT_REJ n ::
    match n with
    | 1 => [F.LT_EVT_BUSY]
    | 2 => [F.XBAR_STATUS_NOLT, F.XBAR_STATUS_BUSY, F.XBAR_STATUS_PAST, F.XBAR_STATUS_GANG_BUSY, F.XBAR_STATUS_CONFLICT]
    | 4 => [F.RING_STAT_DB_BAD]
    | 5 => [F.STOR_STAT_REFUSED, F.STOR_STAT_BUDGET]
    | 6 => [F.LINE_STAT_BUDGET]
    | 13 => [F.PWR_STAT_SREJ, F.PWR_STAT_HREJ, F.PWR_STAT_CREJ]
    | _ =>
      if n < 0x100 then []
      else if n < 0x180 then [F.TG_STAT_DMAX_REJ c, F.PLAY_STAT_SLOT_REJ c, F.PLAY_STAT_ACT_WR c, F.CTL_STAT_REJ c,
        F.CAP_STAT_REFUSED c]
      else [F.SCALE_STAT_BUSY f, F.PROT_STAT_TH_REJ f, F.FPKT_STAT_PKT_W f, F.FPKT_STAT_CLR_PAST f]

/-- A write of `v` to `a` clears the status bit `f`: through its register's own offset or clear alias, which clear what is written 1. -/
def clearsBit (a : Nat) (v : Word) (f : Field) : Bool := (a = f.reg.addr || a = f.reg.addr + 0x2000) && bit v f.lo

/-- The result register by which a write of `v` to `a` tells that it was refused: of a ring command, of a function of the boot port and of a fuse
operation. -/
def State.refusedBy (s : State) (a : Nat) (v : Word) : Bool :=
  if a = R.RING_CTL.addr then fieldGet v 30 2 = 1 && s.fld F.RING_CRES_CODE ≠ 0
  else if a = R.BOOT_CMD.addr then fieldGet v 0 4 ≠ 6 && 16 ≤ s.fld F.BOOT_USTAT_OUT
  else if a = R.SEC_CTL.addr then fieldGet v 30 2 ≠ 0 && (s.fld F.SEC_ST_ST = 1 || s.fld F.SEC_ST_ST = 2)
  else false

/-- Entry `i` of a REGS section: a 32-bit write with IMAGE authority; a refusal is seen by the status bits that it sets, or by the result
that it gives (R479). -/
def applyReg (a : Nat) (v : Word) (i : Nat) : Prog :=
  ask fun s =>
    let l := match s.place a with
      | .block n _ => refusalBits n
      | .segment k => [F.PLAY_STAT_ACT_WR k]
      | _ => []
    let was := l.filter s.flg
    if s.frozen 1 then .done
    else seqs [each was clrB, writeAt .image a v fun _ _ => .done,
      ask fun s => seqs [when (l.any s.flg || s.refusedBy a v) (appErr i), each (was.filter fun f => !clearsBit a v f) setB]]

/-- The entries of a REGS section. -/
def applyRegs_ (b : List Byte) : Prog :=
  each (List.range (b.length / 16)) fun i =>
    applyReg (entryNum b (16 * i) 8) (BitVec.ofNat 32 (entryNum b (16 * i + 8) 4)) i

/-- Section `i` of slot `x` is applied (Table 14.6). Phase offset entries are applied once the slice map has been written
(R122). -/
def applySection (l : List (Section × List Byte)) (i : Nat) (c : Section) (b : List Byte) : Prog :=
  match c.typ with
  | 1 => applyConfig b
  | 2 => seqs [applySlices b, each ((l.take i).filter fun e => e.1.typ = 6) fun e => applyPhases e.2]
  | 3 => applyCal b
  | 4 => applyFw c.target b
  | 5 => applyPatch b
  | 6 => seqs [applyTables b, when ((l.take i).any fun e => e.1.typ = 2) (applyPhases b)]
  | 7 => dpWrite (padBase + c.target) b
  | 8 => applySegments b 0 b.length
  | 9 => applyRegs_ b
  | _ => dev fun d => { d with image := { d.image with volume := { superVolume b with gen := 0 } } }

/-- The image of slot `x`, which has passed its checks, is applied; where a violation of the image's freezes MP0, boot hangs
there. -/
def bootApply (x : Nat) : Prog :=
  ask fun s =>
    let l := (s.sections x).map fun c => (c, s.sectionBytes x c)
    seqs [
      bootClear,
      each ((List.range l.length).zip l) fun e => on (fun s => !s.frozen 1) (applySection l e.1 e.2.1 e.2.2),
      dev fun d => { d with image := { d.image with svn := s.imgNum x 12 1, keyIdx := s.imgNum x 13 1 } },
      setF F.BOOT_STAT_SLOT x,
      on (fun s => !s.frozen 1) (modBoot fun b => { b with passed := true })]

/-! ## A start (R480 to R482) -/

/-- Recovery (R482): there is no valid image (R47), the MDLL is OFF, and the service port has its cold rate and window. -/
def bootRecovery : Prog :=
  seqs [setB F.BOOT_STAT_REC, raise 213, dev fun d => { d with image := {}, pins := { d.pins with lineTxDisable := true } },
    ask fun s => if s.locked then lossOfLock 0 else setF F.LT_STATE_LOCK_ST 0,
    setF F.SYS_DEVID_DEV 0, setF F.LT_XREF_RATE 7, setF F.SVC_UART_BAUD 0,
    setR (R.MEM_WIN_BASE 0 0) 0, setR (R.MEM_WIN_SIZE 0 0) (R.MEM_WIN_SIZE 0 0).cold,
    setR (R.MEM_WIN_PERM 0 0) (R.MEM_WIN_PERM 0 0).cold]

/-- The outcome for slot `x`. -/
def bootCode (x code : Nat) : Prog := setF (if x = 0 then F.BOOT_STAT_CODE_A else F.BOOT_STAT_CODE_B) code

/-- A state block that has been started and never confirmed is abandoned (R480). -/
def abandonTrying (x : Nat) : Prog :=
  seqs [on (fun s => s.bootState x = 0x3F) (seqs [setBootState x 0, raise 215]), showSlot x]

/-- The slot that is tried first (R480). -/
def State.firstSlot (s : State) : Option Nat :=
  let a := s.bootState 0
  let b := s.bootState 1
  if a = 0x7F then some 0
  else if b = 0x7F then some 1
  else if a = 0x1F && b = 0x1F then (if s.imgNum 0 16 8 < s.imgNum 1 16 8 then some 1 else some 0)
  else if a = 0x1F then some 0
  else if b = 0x1F then some 1
  else none

/-- The patch RAM is 0. -/
def patchClear : Prog :=
  seqs [.memClear (fun a => ctlBase + 0x40000 ≤ a && a < ctlBase + 0x48000) .done, eccWritten (ctlBase + 0x40000) 0x8000]

/-- Slot `x` is tried: a TRIAL is written TRYING first, and the watchdog is reloaded as the image is read (R496). The patch RAM is cleared
where the tag of a PATCH section fails (R476); `fail` goes on where the slot does not pass. -/
def trySlot (x : Nat) (fail : Prog) : Prog :=
  seqs [
    on (fun s => s.bootState x = 0x7F) (setBootState x 0x3F), wdReload,
    ask fun s =>
      let code := s.imageCode x
      seqs [bootCode x code, when (code = 10) patchClear, if code = 0 then bootApply x else fail]]

/-- The boot ROM starts (R474, R480): the flash is what discovery finds, with the bytes `bs` that an external programmer has put
at `o` since the last start. -/
def progBoot (density : Nat) (erase4k : Bool) (o : Nat) (bs : List Byte) : Prog :=
  on (fun s => s.dev.boot.due && s.dev.rst.run.isNone && !s.dev.rst.testMode) (seqs [
    modBoot fun b => { b with flash := ⟨density, erase4k⟩, due := false, passed := false },
    flashSet o bs,
    setF F.BOOT_STAT_DONE 0, setF F.BOOT_STAT_REC 0, bootCode 0 15, bootCode 1 15,
    setR R.BOOT_APPERR 0, setR R.BOOT_PATCH 0,
    ask fun s =>
      if !s.flashOk then seqs [bootCode 0 1, bootCode 1 1, bootRecovery]
      else seqs [abandonTrying 0, abandonTrying 1,
        ask fun s =>
          match s.firstSlot with
          | none => bootRecovery
          | some x =>
            trySlot x (ask fun s =>
              let y := 1 - x
              if s.bootState y = 0x7F || s.bootState y = 0x1F then seqs [raise 210, trySlot y bootRecovery]
              else bootRecovery)]])

/-- A slot has passed: boot completes (R481); MP1 starts. -/
def progBootComplete : Prog :=
  on (fun s => s.dev.boot.passed && s.dev.rst.run.isNone) (seqs [
    modBoot fun b => { b with passed := false },
    dev fun d => { d with bus := { d.bus with locked := true } },
    modRst fun r => { r with mp := true }, dev fun d => { d with pins := { d.pins with lineTxDisable := false } },
    setB F.BOOT_STAT_DONE, raise 209, calStart])

/-! ## The ends of the functions (R484 to R488) -/

/-- The function in progress ends (R487). -/
def bootEnd (code : Nat) : Prog :=
  seqs [modBoot fun b => { b with fn := none }, setF F.BOOT_USTAT_ST 2, setF F.BOOT_USTAT_OUT code,
    raise (if code = 0 then 211 else 212)]

/-- REFRESH of slot `x`, which its verification gave `code`, has come to its end (R486): a failure leaves the slot EMPTY; else the staging
buffer holds the last block, and the state block is written again with the state `st` that it had. -/
def refreshEnd (x buf code st : Nat) : Prog :=
  ask fun s =>
    let n := s.imgNum x 8 4
    if code ≠ 0 then bootEnd code
    else seqs [dpWrite (padBase + buf) (s.img x ((n - 1) / 65536 * 65536) 65536), writeSlot x st n, bootEnd 0]

/-- A function of the boot port ends; `err` for a flash erase or program error. -/
def progBootFunctionDone (err : Bool) : Prog :=
  ask fun s =>
    match s.dev.boot.fn with
    | none => .done
    | some (.open_ x len) =>
      if err then bootEnd 22
      else seqs [flashErase (s.slotImage x) s.slotSize, modBoot fun b => { b with slot := some x, len := len, written := 0 },
        bootEnd 0]
    | some (.write ofs n buf) =>
      if err then bootEnd 22
      else seqs [flashProgram (s.slotImage (s.dev.boot.slot.getD 0) + ofs) (s.bytes (padBase + buf) n),
        modBoot fun b => { b with written := b.written + n }, bootEnd 0]
    | some .close =>
      let x := s.dev.boot.slot.getD 0
      let code := if err then 22 else s.imageCode x
      seqs [modBoot fun b => { b with slot := none }, when (code = 0) (writeSlot x 0x7F s.dev.boot.len), bootEnd code]
    | some .confirm =>
      let x := s.fld F.BOOT_STAT_SLOT
      if err then bootEnd 22
      else seqs [when (s.booted x && s.bootState x = 0x3F) (setBootState x 0x1F), bootEnd 0]
    | some (.refresh x buf code st) => refreshEnd x buf (if err && code = 0 then 22 else code) st
    | some _ => modBoot fun b => { b with fn := none }

/-- What a fuse operation leaves in the fuses (R473, R488). -/
def FuseSt.after (f : FuseSt) (s : State) (op : BootFn) : FuseSt :=
  match op with
  | .keyprog slot ofs => { f with keyHash := f.keyHash.put slot (s.bytes (padBase + ofs) 64) }
  | .revoke slot => { f with revoked := slot :: f.revoked.filter (· != slot) }
  | .svnadv => { f with svn := max f.svn s.dev.image.svn }
  | _ => f

/-- The fuse operation in progress ends; `err` for a programming error (R488). -/
def progFuseDone (err : Bool) : Prog :=
  ask fun s =>
    match s.dev.boot.fuse with
    | none => .done
    | some op =>
      if err then seqs [modBoot fun b => { b with fuse := none }, setF F.SEC_ST_ST 3]
      else seqs [modBoot fun b => { b with fuse := none, fuses := b.fuses.after s op }, setF F.SEC_ST_ST 0, raise 214]

end Sys2Proof.Machine
end

