-- ==== Sys2Proof/Machine/Reset.lean ====
section
/-!
DEFINITION. The instants of resets and power states that no register asks for: Tables 15.2 and 15.3, RESET_N, the rails, the
entry into HIBERNATE and the wake (spec/15_reset_power.md).
-/
namespace Sys2Proof.Machine

/-- The core domain has power and clocks: no POR is in progress, and the device is not between t2 of R500 and its wake. -/
def State.awake (s : State) : Bool := s.dev.rst.hib < 3 && s.dev.rst.por = 0

/-- What happens only while the core domain has power and clocks. -/
def awake (p : Prog) : Prog := on State.awake p

/-- The registers of the always-on domain (Table 15.7, R524). -/
def RegId.alwaysOn (r : RegId) : Bool :=
  match r with
  | .PWR_PARK | .PWR_PARKED | .PWR_WAKE | .PWR_HIBTMR | .PWR_HIBDUR | .PWR_LOST | .PWR_RSTCAUSE | .MON_LIFE_LO
  | .MON_LIFE_HI => true
  | _ => false

/-- An address lies in the retention RAM. -/
def inRetention (a : Nat) : Bool := retBase ≤ a && a < retBase + 0x10000

/-- An address lies in the flash. -/
def inFlash (a : Nat) : Bool := flashBase ≤ a && a < fwBase 0

/-- The link of the line port is down and its search starts again; the peer links are out of sync. -/
def linksDown : Prog :=
  seqs [setF F.LINE_PHY_ST 0, clrB F.PEER_STAT_LINK_E, clrB F.PEER_STAT_LINK_W,
    dev fun d => { d with line := { d.line with search := 1, neighbours := [], unresolved := [] } }]

/-! ## Power is lost (R489, R502) -/

/-- The pads hold every gate low, whatever has been scheduled (R124, R544); an ENABLE output falls with the gates (R119). -/
def padsLow : Prog := ask fun s => each cores fun k => seqs [gatesLow k s.nowSub, enableLow k s.nowSub]

/-- Pins of Table 17.8 that a function of the part owns. -/
inductive Pin where
  | lineTxDisable | pcieRefclk | pciePerstN | ssdPwren | bootClk | bootCsN | bootDq | bootResetN | uartTxd | tdo | hiboutN
  deriving DecidableEq, Repr

/-- The level of a pin while its function moves nothing over it: 0 low or off, 1 high or running, 2 high impedance (R538 to
R540). -/
def State.pin (s : State) (p : Pin) : Nat :=
  let lvl (b : Bool) : Nat := if b then 1 else 0
  match p with
  | .lineTxDisable => lvl s.dev.pins.lineTxDisable
  | .pcieRefclk | .ssdPwren => lvl s.dev.pins.ssdPwren
  | .pciePerstN => lvl s.dev.pins.perstN
  | .bootClk => 0
  | .bootCsN | .uartTxd => 1
  | .bootDq | .tdo => 2
  | .bootResetN => lvl (s.dev.rst.por = 0 && s.dev.pins.bootResetEnd ≤ s.now)
  | .hiboutN => lvl s.dev.pins.hiboutN

/-- From power-up the pads drive the pins to the states of Table 17.8 (R538, R545): the AUX pins are inputs. -/
def pinsCold : Prog :=
  seqs [padsLow,
    ask fun s => each cores fun k => modDrv k fun d =>
      { ((d.dropPin 2 s.nowSub).put s.nowSub 2 2 |>.dropPin 3 s.nowSub).put s.nowSub 3 2 with trigs := [], trigEnd := none },
    dev fun d => { d with pins := {} }]

/-- The LOST flags of a loss of the core domain's power (R502). -/
def lostFlags : Prog :=
  seqs [setB F.PWR_LOST_SEG, setB F.PWR_LOST_CAP, setB F.PWR_LOST_FAIL, setB F.PWR_LOST_SCR, setB F.PWR_LOST_LT,
    on (fun s => s.dev.rings.any fun q => q.2.on && q.2.pi ≠ q.2.ci) (setB F.PWR_LOST_RING)]

/-- The memories of the core domain lose their contents; the retention RAM and the flash keep theirs. -/
def memoriesLost : Prog :=
  seqs [.memLose (· + 1) (fun a => inRetention a || inFlash a) .done,
    dev fun d => { d with
      rings := [], buf := []
      bus := { d.bus with ecc := d.bus.ecc.filter (fun e => inRetention e.1), writeBack := [] } }]

/-- The MDLL stops: loss of lock, `LT_ST` UNSET, and an `LT_CYC` that the spec leaves open. -/
def lineTimeLost : Prog :=
  seqs [on State.locked (lossOfLock 0), setF F.LT_STATE_LOCK_ST 0, setF F.LT_STATE_LT_ST 0,
    .regMap (fun k w => if k.id = .LT_XREF then k.cold else w) .done,
    ask fun s => free fun v => seqs [rebasePower s.now (v % 2 ^ 64), dev fun d => { d with chb := [], lt := { cyc := v % 2 ^ 64 } }]]

/-- A rail has been below its threshold for 1 µs: VAON09, which ends in a POR and so in any hibernation, or another one, outside
HIBERNATE. -/
def progRailDrop (vaon : Bool) : Prog :=
  if vaon then seqs [padsLow, dev fun d => { d with pins := { d.pins with hiboutN := true } },
    modRst fun r => { r with por := 3, run := some (0, 0) }]
  else awake (seqs [
    takeReset 1 5, padsLow, each channels calmNow, lostFlags, memoriesLost, lineTimeLost])

/-! ## POR (R491) -/

/-- t0: the last rail reaches its threshold. The pins have the states of Table 17.8 (R545), and HIBOUT_N is released (R540). -/
def progPor : Prog :=
  seqs [pinsCold, setF F.LT_STATE_LOCK_ST 0, setF F.LT_STATE_LT_ST 0, modRst fun r => { r with por := 1, run := some (0, 0) }]

/-- `QP` of every channel block from the Cold values of `WIDTH`, `VP` and `SHUNT`: 6,400 nC (R188). -/
def coldQp : Prog := each channels fun n => putNum (chBlock n + 48) 8 (6400 * 2 ^ 32)

/-- t1: the always-on domain is released; `testMode` is the level of TESTMODE (R541). -/
def progPorAlwaysOn (testMode : Bool) : Prog :=
  on (fun s => s.dev.rst.por = 1) (seqs [
    .memClear inRetention .done, coldQp,
    .regMap (fun k w => if k.id.alwaysOn then k.cold else w) .done,
    dev fun d => { d with fes := [], irq := { d.irq with latch := [] } },
    modRst fun r => { r with por := 2, testMode := testMode }])

/-- t2 and t3: every memory is cleared, every register has its Cold value, and the boot ROM starts. -/
def progPorMemoryClear : Prog :=
  on (fun s => s.dev.rst.por = 2) (seqs [
    .memLose (fun _ => 0) (fun a => inRetention a || inFlash a) .done,
    .regMap (fun k _ => k.cold) .done,
    dev fun d => {
      draws := d.draws, out := d.out, evt := { levels := d.evt.levels }
      boot := { flash := d.boot.flash, fuses := d.boot.fuses, read := d.boot.fuses }
      rst := { testMode := d.rst.testMode, pinLow := d.rst.pinLow } }])

/-! ## Warm resets (R490, R492 to R495) -/

/-- RESET_N falls. -/
def progResetNFall : Prog := modRst fun r => { r with pinLow := true, pinDue := true }

/-- RESET_N rises: a pulse that has not lasted 200 ns is ignored (R489), but in HIBERNATE its fall has been a wake cause (R501). Of the
reset of RESET_N in progress this is t4 (R492). -/
def progResetNRise : Prog :=
  ask fun s => modRst fun r => { r with
    pinLow := false, pinDue := r.pinDue && r.hib = 3
    due := if r.applied && r.run = some (1, 1) then max r.due (s.now + 30000) else r.due }

/-- RESET_N has been low for 200 ns, and the PIN reset is taken. -/
def progPin : Prog :=
  on (fun s => s.dev.rst.pinDue && s.awake)
    (seqs [modRst fun r => { r with pinDue := false }, ask fun s => advance (s.now + 600), takeReset 1 1])

/-- 10 µs after the response to an HLP RESET request (R447). -/
def progPort : Prog := on (fun s => s.dev.rst.portDue && s.awake) (takeReset 3 3)

/-- What a warm reset leaves of the interrupt controller: no pending or active bit, counter, timer or P_t, every mask bit set;
the latches, and the inputs of level sources, are kept (R404). -/
def warmIrq : Prog :=
  seqs [dev fun d => { d with irq := { d.irq with timer := [], noticed := [], stopped := false } },
    judgeTst, judgeMonitors, judgeAge, judgeLife,
    ask fun s => each (sources.filter sourceLevel) fun i => seqs [setF (pendField i) (s.fld (liveField i)), setF (cntField i) 0]]

/-- `MEM.FRZ`, and the accesses that stall with it (R428): a PORT reset keeps both. -/
def warmFreeze (cause : Nat) : Prog :=
  ask fun s => seqs [
    setF F.MEM_FRZ_M (if cause = 2 then s.fld F.MEM_FRZ_M &&& 0xFFF9 else if cause = 3 then s.fld F.MEM_FRZ_M else 0),
    dev fun d => { d with bus := { d.bus with stalled := if cause = 3 then d.bus.stalled else [], answer := [], shadow := [], held := [] } }]

/-- t3 of Table 15.3 for a reset of a cause. -/
def warmApply (cause : Nat) : Prog :=
  let port := cause = 3
  seqs [
    each channels calmNow,
    when (!port) (seqs [driveLost refillFail, dev fun d => { d with pins := { d.pins with perstN := false } }]),
    .regMap (fun k w => if k.id = .IRQ_LIVE
        || (port && k.id.blk = .boot && k.id ≠ .BOOT_ARG0 && k.id ≠ .BOOT_ARG1 && k.id ≠ .BOOT_ARG2)
      then w else k.warm w) .done,
    warmCores, warmFreeze cause,
    when (!port) (seqs [setF F.PWR_WDOG_TMO 4000, wdReload, linksDown]),
    setF F.PWR_RSTCAUSE_LAST cause, count F.PWR_RSTCAUSE_NWARM,
    dev fun d => { d with
      evt := { levels := d.evt.levels }
      fes := d.fes.map fun e => (e.1, { e.2 with trims := none, clear := none })
      xbar := { d.xbar with beat := 0, map := [], gangs := [], remap := none }
      peer := { rxNext := 0 }
      jtag := { d.jtag with busy := none }
      boot := if port then d.boot else { d.boot with fn := none, fuse := none, slot := none } },
    warmIrq,
    modRst fun r => { r with applied := true }]

/-- t3 of the reset in progress: 11 µs after t1. -/
def progWarmApply : Prog :=
  ask fun s =>
    match s.dev.rst.run with
    | some (_, cause) => when (s.dev.rst.por = 0 && !s.dev.rst.applied) (seqs [
        advance s.dev.rst.due, modRst fun r => { r with due := r.due + 30000 }, warmApply cause])
    | none => .done

/-- t5 of the reset in progress, 10 µs after t3, or after t4 where RESET_N rises later: the boot ROM starts, or after a PORT reset the
management firmware that is loaded, on a processor that is not frozen (R428). -/
def progWarmRelease : Prog :=
  ask fun s =>
    match s.dev.rst.run with
    | some (_, cause) =>
      when (s.dev.rst.por = 0 && s.dev.rst.applied && !(s.dev.rst.pinLow && cause = 1)) (seqs [
        advance s.dev.rst.due,
        modRst fun r => { r with run := none, applied := false },
        if cause = 3 then
          on (fun s => s.flg F.BOOT_STAT_DONE) (seqs [modRst fun r => { r with mp := true }, on State.mp1 calStart])
        else seqs [
          dev fun d => { d with bus := { d.bus with locked := false } },
          modBoot fun b => { b with due := true, passed := false, read := b.fuses },
          ask fun s => dev fun d => { d with pins := { d.pins with bootResetEnd := s.now + 30000 } }]])
    | none => .done

/-! ## HIBERNATE (R500, R501) -/

/-- The header of the retention RAM (Table 15.4), `HLT` being now. -/
def State.retHeader (s : State) : List Byte := natLE 4 0x7E7A0001 ++ natLE 2 1 ++ natLE 2 s.devId ++ natLE 8 s.now

/-- t1: the header is written with `HLT`, the packets that holdover has counted are added to the accumulators, and the packet integrators
stop. -/
def progHibernatePacketStop : Prog :=
  on (fun s => s.dev.rst.hib = 1)
    (seqs [ask fun s => putBytes retBase s.retHeader, addHoldoverCharge, modRst fun r => { r with hib := 2 }])

/-- w0: the length of the hibernation is written, and HIBOUT_N goes high; `pin` where it is RESET_N that wakes. -/
def wake (ms : Nat) (pin : Bool) : Prog :=
  seqs [setF F.PWR_HIBDUR_MS (min ms 0xFFFFFFFF), dev fun d => { d with pins := { d.pins with hiboutN := true } },
    modRst fun r => { r with hib := 4, wakeDue := false, wakePin := pin }]

/-- t2: the clocks stop. What the core domain held is gone; the always-on domain, the retention RAM, the flash and fuses and the
asynchronous latches stay. A wake cause that has come before takes effect at once. -/
def progHibernateEntered : Prog :=
  on (fun s => s.dev.rst.hib = 2) (seqs [
    ask fun s => modRst fun r => { r with scrub := (s.fld F.MEM_SCRUB_PERIOD, s.fld F.MEM_SCRUB_CETH) },
    dev fun d => { d with irq := { d.irq with stopped := true } },
    lostFlags, lineTimeLost, memoriesLost,
    .regMap (fun k w => if k.id.alwaysOn || k.id = .CAL_SUSPECT then w else k.cold) .done,
    dev fun d => {
      draws := d.draws, out := d.out, evt := { levels := d.evt.levels }
      irq := { latch := d.irq.latch, stopped := true }
      bus := { ecc := d.bus.ecc }
      pins := { hiboutN := false }
      boot := { flash := d.boot.flash, fuses := d.boot.fuses, read := d.boot.read, due := false }
      lt := d.lt
      fes := d.fes.map fun e => (e.1, { qp := e.2.qp, width := e.2.width, qpNext := e.2.qpNext, qpFrom := e.2.qpFrom, counted := e.2.counted, posAsync := e.2.posAsync, negAsync := e.2.negAsync, unwritten := e.2.unwritten })
      sql := { seq := d.sql.seq }
      rst := { hib := 3, pinLow := d.rst.pinLow, pinDue := d.rst.pinDue, wakeDue := d.rst.wakeDue, scrub := d.rst.scrub,
               testMode := d.rst.testMode } },
    on (fun s => s.dev.rst.wakeDue || s.dev.rst.pinDue) (ask fun s => wake 0 s.dev.rst.pinDue)])

/-- A wake cause holds: the latch of an EV input that may wake, the hibernation timer, which wakes after its own time, or
RESET_N. -/
def State.wakes (s : State) (c : WakeCause) : Bool :=
  match c with
  | .edge i => s.dev.irq.latch.contains (129 + i.val) && (s.fld F.PWR_WAKE_EV).testBit i.val
  | .timer => s.flg F.PWR_WAKE_TMR && s.fld F.PWR_HIBTMR_S ≠ 0
  | .resetN => s.dev.rst.pinDue

/-- An event of the scrubber is latched while the controller's clock is stopped, for delivery as R401 states (R422). -/
def latchScrub (n : Nat) : Prog :=
  dev fun d => { d with irq := { d.irq with latch := n :: d.irq.latch.filter (· != n) } }

/-- In HIBERNATE the scrubber goes on in the retention RAM (R422), where the bits `flips` of the ECC word at `a` have flipped
since; `last` marks the last word of a pass. -/
def hibernateScrub (a flips : Nat) (last : Bool) : Prog :=
  on (fun s => s.dev.rst.scrub.1 ≠ 0 && inRetention a) (seqs [
    eccFlip a flips,
    ask fun s => match s.dev.bus.ecc.find? fun e => e.1 = a with
      | none => .done
      | some e =>
        if e.2.ue then seqs [latchScrub 242, retentionBad a]
        else seqs [latchScrub 241, dev fun d => { d with bus := { d.bus with
          ecc := d.bus.ecc.del a, passCE := d.bus.passCE + 1 } }],
    when last (ask fun s => seqs [
      latchScrub 244, when (s.dev.rst.scrub.2 ≠ 0 && s.dev.rst.scrub.2 < s.dev.bus.passCE) (latchScrub 246),
      dev fun d => { d with bus := { d.bus with passCE := 0 } }])])

/-- The scrubber reads a word (R420 to R422). -/
def progScrub (a copy flips : Nat) (last : Bool) : Prog :=
  ask fun s =>
    if s.awake then progScrubRead a copy flips last
    else when (s.dev.rst.hib = 3 && s.dev.rst.por = 0) (hibernateScrub (eccWord a) flips last)

/-- w0 by a cause, `ms` after t2; the timer's own time is `HIBTMR` seconds. -/
def progHibernateWake (c : WakeCause) (ms : Nat) : Prog :=
  on (fun s => s.dev.rst.hib = 3 && s.wakes c)
    (ask fun s => wake (if c = .timer then 1000 * s.fld F.PWR_HIBTMR_S else ms) (c = .resetN))

/-- w1: every monitored rail is at or above its threshold. -/
def progWakeRails : Prog := on (fun s => s.dev.rst.hib = 4) (modRst fun r => { r with hib := 5 })

/-- w1 + 2 ms: a PIN reset, by the wake or by RESET_N. -/
def progHibwake : Prog :=
  on (fun s => s.dev.rst.hib = 5)
    (ask fun s => seqs [takeReset 1 (if s.dev.rst.wakePin || s.dev.rst.pinDue then 1 else 6),
      modRst fun r => { r with pinDue := false, wakePin := false }])

/-- An edge on EV`i` (R401, R501): in HIBERNATE its asynchronous latch alone catches it; on the way there it is also a wake cause;
else the lanes stamp it. -/
def progEdge (i : Nat) (fall : Bool) (raw : Nat) : Prog :=
  ask fun s => seqs [
    levelEdge i (!fall) raw,
    if s.dev.rst.por ≠ 0 then .done
    else if 3 ≤ s.dev.rst.hib then raise (129 + i)
    else seqs [
      when (1 ≤ s.dev.rst.hib && (s.fld F.PWR_WAKE_EV).testBit i) (modRst fun r => { r with wakeDue := true }),
      progEvEdge i fall raw]]

end Sys2Proof.Machine
end

