-- ==== Sys2Proof/Machine/Operands.lean ====
section
/-!
DEFINITION. The operand forms of the commands: words built from fields, the registers that a selector names, alias addresses,
channel commands; and how a command's program becomes its outcome.
-/
namespace Sys2Proof.Machine

/-- The outcome of a command whose effect is `p`: always a next state. -/
def effect (p : Prog) (s : State) : Host.Outcome State Fault Refusal := .next (p.run s)

/-- The word whose field `f` is `n` and whose other bits are 0. -/
def fieldWord (f : Field) (n : Nat) : Word := fieldPut 0 f.lo f.w n

/-- The profile register that a selector names. -/
def selectorKey : Selector → RegKey
  | .drive k => R.TG_PROF k
  | .loop n => R.VLOOP_PROF n
  | .conv k => R.CONV_PROF k
  | .capture k => R.CAP_PROF k
  | .mask k i => R.MASK_SEL k i

/-- `WIDTH`, `VP` or `SHUNT` of front end `n`. -/
def qpKey (q : QpReg) (n : Nat) : RegKey :=
  match q with
  | .width => R.FPKT_WIDTH n
  | .vp => R.FPKT_VP n
  | .shunt => R.SCALE_SHUNT n

/-- The set alias and the clear alias of a register (R14). -/
def setAlias (k : RegKey) : Nat := k.addr + 0x1000
def clearAlias (k : RegKey) : Nat := k.addr + 0x2000

/-- Port `p` writes an argument and a command to `CTL` of channel `n` through `CH[n]` (R292). -/
def channelCommand (p : Port) (n cmd arg : Nat) : Prog :=
  seqs [busWrite p (0x02000000 + 0x10000 * n + 4) (BitVec.ofNat 32 arg),
    busWrite p (0x02000000 + 0x10000 * n) (BitVec.ofNat 32 cmd)]

/-- The JTAG code of a boundary-scan instruction (Table 13.9). -/
def boundaryCode : Boundary → Nat
  | .extest => 0
  | .clamp => 3
  | .highz => 4

/-- What the packet counters do: they stop at t1 of the entry into HIBERNATE (R500). -/
def counting (p : Prog) : Prog := on (fun s => s.dev.rst.hib < 2 && s.dev.rst.por = 0) p

end Sys2Proof.Machine
end

