-- ==== Sys2Proof/Machine/ExecBoot.lean ====
section
/-!
DEFINITION. Commands of boot, updates and fuses (spec/14_boot_security.md). Each meaning runs its program of effects on the state.
-/
namespace Sys2Proof.Machine

/-- `BOOT` (R480). -/
def execBoot (density : Nat) (erase4k : Bool) (o : Nat) (bytes : List Byte) (s : State) : Host.Outcome State Fault Refusal :=
  effect (awake (progBoot density erase4k o bytes)) s

/-- `BOOT_COMPLETE` (R481). -/
def execBootComplete (s : State) : Host.Outcome State Fault Refusal :=
  effect (awake (progBootComplete)) s

/-- `BOOT_OPEN` (R484). -/
def execBootOpen (p : Port) (slot : Word) (len : Word) (s : State) : Host.Outcome State Fault Refusal :=
  effect (seqs [regWrite p R.BOOT_ARG0 slot, regWrite p R.BOOT_ARG1 len, regWrite p R.BOOT_CMD 1]) s

/-- `BOOT_WRITE` (R484). -/
def execBootWrite (p : Port) (ofs : Word) (len : Word) (buf : Word) (s : State) : Host.Outcome State Fault Refusal :=
  effect
    (seqs [regWrite p R.BOOT_ARG0 ofs, regWrite p R.BOOT_ARG1 len, regWrite p R.BOOT_ARG2 buf, regWrite p R.BOOT_CMD 2])
    s

/-- `BOOT_CLOSE` (R484). -/
def execBootClose (p : Port) (s : State) : Host.Outcome State Fault Refusal :=
  effect (regWrite p R.BOOT_CMD 3) s

/-- `CONFIRM` (R485). -/
def execConfirm (p : Port) (s : State) : Host.Outcome State Fault Refusal :=
  effect (regWrite p R.BOOT_CMD 4) s

/-- `REFRESH` (R486). -/
def execRefresh (p : Port) (slot : Word) (buf : Word) (s : State) : Host.Outcome State Fault Refusal :=
  effect (seqs [regWrite p R.BOOT_ARG0 slot, regWrite p R.BOOT_ARG2 buf, regWrite p R.BOOT_CMD 5]) s

/-- `RESTART` (R487). -/
def execRestart (p : Port) (s : State) : Host.Outcome State Fault Refusal :=
  effect (regWrite p R.BOOT_CMD 6) s

/-- `BOOT_FUNCTION_DONE` (R487). -/
def execBootFunctionDone (err : Bool) (s : State) : Host.Outcome State Fault Refusal :=
  effect (awake (progBootFunctionDone err)) s

/-- `KEYPROG` (R488). -/
def execKeyprog (p : Port) (slot : Fin 4) (ofs : BitVec 24) (s : State) : Host.Outcome State Fault Refusal :=
  effect
    (regWrite p R.SEC_CTL (fieldWord F.SEC_CTL_OP 1 ||| fieldWord F.SEC_CTL_SLOT slot ||| fieldWord F.SEC_CTL_OFS ofs.toNat))
    s

/-- `REVOKE` (R488). -/
def execRevoke (p : Port) (slot : Fin 4) (s : State) : Host.Outcome State Fault Refusal :=
  effect (regWrite p R.SEC_CTL (fieldWord F.SEC_CTL_OP 2 ||| fieldWord F.SEC_CTL_SLOT slot)) s

/-- `SVNADV` (R473). -/
def execSvnadv (p : Port) (s : State) : Host.Outcome State Fault Refusal :=
  effect (regWrite p R.SEC_CTL (fieldWord F.SEC_CTL_OP 3)) s

/-- `FUSE_OP_DONE` (R488). -/
def execFuseOpDone (err : Bool) (s : State) : Host.Outcome State Fault Refusal :=
  effect (awake (progFuseDone err)) s

end Sys2Proof.Machine
end

