-- ==== Sys2Proof/Machine/ExecCapture.lean ====
section
/-!
DEFINITION. Commands of capture, masks, fail memory and squalls (spec/09_capture.md). Each meaning runs its program of effects on the state.
-/
namespace Sys2Proof.Machine

/-- `CAP_ARM` (R306). -/
def execCapArm (p : Port) (k : Fin 68) (s : State) : Host.Outcome State Fault Refusal :=
  effect (regWrite p (R.CAP_CTL k) (fieldWord (F.CAP_CTL_ARM k) 1)) s

/-- `CAP_TRIG` (R308). -/
def execCapTrig (p : Port) (k : Fin 68) (s : State) : Host.Outcome State Fault Refusal :=
  effect (regWrite p (R.CAP_CTL k) (fieldWord (F.CAP_CTL_TRIG k) 1)) s

/-- `CAP_DISARM` (R312). -/
def execCapDisarm (p : Port) (k : Fin 68) (s : State) : Host.Outcome State Fault Refusal :=
  effect (regWrite p (R.CAP_CTL k) (fieldWord (F.CAP_CTL_DISARM k) 1)) s

/-- `CAPTURE_TRIGGER` (R309). -/
def execCaptureTrigger (n : Fin 64) (s : State) : Host.Outcome State Fault Refusal :=
  effect (awake (progCaptureTrigger n)) s

/-- `MASK_ENABLE` (R321). -/
def execMaskEnable (p : Port) (k : Fin 68) (i : Fin 4) (idx : Byte) (s : State) : Host.Outcome State Fault Refusal :=
  effect (regWrite p (R.MASK_SEL k i) (fieldWord (F.MASK_SEL_EN k i) 1 ||| fieldWord (F.MASK_SEL_IDX k i) idx.toNat)) s

/-- `MASK_CHECK_COMPLETE` (R321). -/
def execMaskCheckComplete (k : Fin 68) (i : Fin 4) (s : State) : Host.Outcome State Fault Refusal :=
  effect (awake (progMaskCheckComplete k i)) s

/-- `MASK_ORIGIN_WRITE` (R323). -/
def execMaskOriginWrite (p : Port) (k : Fin 68) (i : Fin 4) (origin : BitVec 64)
    (s : State) : Host.Outcome State Fault Refusal :=
  effect (regWrite64 p (R.MASK_ORG_LO k i) (R.MASK_ORG_HI k i) origin.toNat) s

/-- `MASK_EVALUATION` (R324). -/
def execMaskEvaluation (n : Fin 64) (s : State) : Host.Outcome State Fault Refusal :=
  effect (awake (progMaskEvaluation n)) s

/-- `SQUALL` (R332). -/
def execSquall (s : State) : Host.Outcome State Fault Refusal :=
  effect (awake (progSquall)) s

/-- `FAIL_CLR` (R339). -/
def execFailClr (p : Port) (k : Fin 68) (s : State) : Host.Outcome State Fault Refusal :=
  effect (regWrite p (R.FAIL_CLR k) (fieldWord (F.FAIL_CLR_CLR k) 1)) s

end Sys2Proof.Machine
end

