-- ==== Sys2Proof/Machine/ExecConv.lean ====
section
/-!
DEFINITION. Commands of conversion and of charge packets (spec/05_conversion.md). Each meaning runs its program of effects on the state.
-/
namespace Sys2Proof.Machine

/-- `QP_RECOMPUTE` (R188). -/
def execQpRecompute (p : Port) (q : QpReg) (n : Fin 64) (w : Word) (s : State) : Host.Outcome State Fault Refusal :=
  effect (regWrite p (qpKey q n) w) s

/-- `CONVERSION_WINDOW_START` (R172). -/
def execConversionWindowStart (n : Fin 64) (s : State) : Host.Outcome State Fault Refusal :=
  effect (awake (progWindowStart n)) s

/-- `CONVERSION_WINDOW_END` (R167). -/
def execConversionWindowEnd (n : Fin 64) (s : State) : Host.Outcome State Fault Refusal :=
  effect (awake (progWindowEnd n)) s

/-- `RESULT_DELIVERY` (R177). -/
def execResultDelivery (n : Fin 64) (v : Lane) (i : Lane) (t : Lane) (v2 : Lane) (i2 : Lane) (t2 : Lane)
    (s : State) : Host.Outcome State Fault Refusal :=
  effect (awake (progResultDelivery n v i t v2 i2 t2)) s

/-- `CONV_V_READ` (R180). -/
def execConvVRead (p : Port) (k : Fin 68) (s : State) : Host.Outcome State Fault Refusal :=
  effect (regRead p (R.CONV_V k)) s

/-- `PATH_ACTIVE_WRITE` (R184). -/
def execPathActiveWrite (p : Port) (n : Fin 64) (w : Word) (s : State) : Host.Outcome State Fault Refusal :=
  effect (regWrite p (R.PATH_CTL n) w) s

/-- `PACKET_CROSSING` (R186). -/
def execPacketCrossing (n : Fin 64) (t : Nat) (neg : Bool) (s : State) : Host.Outcome State Fault Refusal :=
  effect (counting (progPacketCrossing n t neg)) s

/-- `PACKET_END` (R186). -/
def execPacketEnd (n : Fin 64) (s : State) : Host.Outcome State Fault Refusal :=
  effect (counting (progPacketEnd n)) s

/-- `PACKET_SATURATION` (R187). -/
def execPacketSaturation (n : Fin 64) (s : State) : Host.Outcome State Fault Refusal :=
  effect (counting (progPacketSaturation n)) s

/-- `CHARGE_CLEAR_REQUEST` (R194). -/
def execChargeClearRequest (p : Port) (n : Fin 64) (beat : BitVec 64) (s : State) : Host.Outcome State Fault Refusal :=
  effect (regWrite64 p (R.FPKT_CLRB_LO n) (R.FPKT_CLRB_HI n) beat.toNat) s

/-- `CHARGE_CLEAR` (R194). -/
def execChargeClear (n : Fin 64) (s : State) : Host.Outcome State Fault Refusal :=
  effect (awake (progChargeClear n)) s

end Sys2Proof.Machine
end

