-- ==== Sys2Proof/Machine/ExecDrive.lean ====
section
/-!
DEFINITION. Commands of the drive and of the loop (spec/03_drive.md, spec/04_current_voltage_loop.md). Each meaning runs its program of effects on the state.
-/
namespace Sys2Proof.Machine

/-- `SWITCHING_CYCLE` (R81). -/
def execSwitchingCycle (n : Fin 64) (a : Analog) (s : State) : Host.Outcome State Fault Refusal :=
  effect (awake (progSwitchingCycle n a)) s

/-- `PEAK_COMPARATOR_CROSSING` (R93). -/
def execPeakComparatorCrossing (n : Fin 64) (c vref : Nat) (pins : PinVolts) (delay : Nat) (s : State) :
    Host.Outcome State Fault Refusal :=
  effect (awake (progPeakCrossing n c ⟨vref, pins.shunt, pins.cell, delay⟩)) s

/-- `PULSE_TMAX` (R96). -/
def execPulseTmax (n : Fin 64) (vref : Nat) (pins : PinVolts) (s : State) : Host.Outcome State Fault Refusal :=
  effect (awake (progPulseTmax n ⟨vref, pins.shunt, pins.cell, 0⟩)) s

/-- `OVERCURRENT_TRIP` (R113). -/
def execOvercurrentTrip (n : Fin 64) (x : Overrun) (vref : Nat) (pins : PinVolts) (delay : Nat) (s : State) :
    Host.Outcome State Fault Refusal :=
  effect (awake (progOvercurrentTrip n x.at_ x.lasts ⟨vref, pins.shunt, pins.cell, delay⟩)) s

/-- `OVERVOLTAGE_TRIP` (R115). -/
def execOvervoltageTrip (n : Fin 64) (x : Overrun) (a : Analog) (s : State) : Host.Outcome State Fault Refusal :=
  effect (awake (progOvervoltageTrip n x.at_ x.lasts a)) s

/-- `FMT_MODE_WRITE` (R90). -/
def execFmtModeWrite (p : Port) (k : Fin 68) (w : Word) (s : State) : Host.Outcome State Fault Refusal :=
  effect (regWrite p (R.FMT_MODE k) w) s

/-- `VECTOR_START` (R106). -/
def execVectorStart (n : Fin 64) (s : State) : Host.Outcome State Fault Refusal :=
  effect (awake (progVectorStart n)) s

/-- `VECTOR_STROBE` (R106). -/
def execVectorStrobe (n : Fin 64) (levels : BitVec 4) (s : State) : Host.Outcome State Fault Refusal :=
  effect (awake (progVectorStrobe n levels.toNat)) s

/-- `TRIGGER_PULSE_END` (R259). -/
def execTriggerPulseEnd (n : Fin 64) (s : State) : Host.Outcome State Fault Refusal :=
  effect (awake (progTriggerEnd n)) s

/-- `SCALE_GAIN_WRITE` (R131). -/
def execScaleGainWrite (p : Port) (n : Fin 64) (w : Word) (s : State) : Host.Outcome State Fault Refusal :=
  effect (regWrite p (R.SCALE_GAIN n) w) s

/-- `VLIMREQ_WRITE` (R148). -/
def execVlimreqWrite (p : Port) (k : Fin 68) (w : Word) (s : State) : Host.Outcome State Fault Refusal :=
  effect (regWrite p (R.LOOP_VLIMREQ k) w) s

/-- `TAPERREQ_WRITE` (R148). -/
def execTaperreqWrite (p : Port) (k : Fin 68) (w : Word) (s : State) : Host.Outcome State Fault Refusal :=
  effect (regWrite p (R.LOOP_TAPERREQ k) w) s

end Sys2Proof.Machine
end

