-- ==== Sys2Proof/Machine/ExecEvent.lean ====
section
/-!
DEFINITION. Commands of external events (spec/06_event_timing.md). Each meaning runs its program of effects on the state.
-/
namespace Sys2Proof.Machine

/-- `EV_EDGE` (R201). -/
def execEvEdge (i : Fin 16) (fall : Bool) (raw : Nat) (s : State) : Host.Outcome State Fault Refusal :=
  effect (progEdge i fall raw) s

/-- `STAMP_ACTION` (R203). -/
def execStampAction (k : Fin 68) (s : State) : Host.Outcome State Fault Refusal :=
  effect (awake (progStampAction k)) s

/-- `GATE_CHANGE` (R206). -/
def execGateChange (k : Fin 68) (t : Nat) (s : State) : Host.Outcome State Fault Refusal :=
  effect (awake (progGateChange k t)) s

/-- `EVM_ARM` (R209). -/
def execEvmArm (p : Port) (k : Fin 68) (u : Fin 4) (s : State) : Host.Outcome State Fault Refusal :=
  effect (regWrite p (R.EVM_CTL k u) (fieldWord (F.EVM_CTL_ARM k u) 1)) s

/-- `EVM_DISARM` (R210). -/
def execEvmDisarm (p : Port) (k : Fin 68) (u : Fin 4) (s : State) : Host.Outcome State Fault Refusal :=
  effect (regWrite p (R.EVM_CTL k u) (fieldWord (F.EVM_CTL_DISARM k u) 1)) s

/-- `UNIT_TIMEOUT` (R215). -/
def execUnitTimeout (k : Fin 68) (u : Fin 4) (s : State) : Host.Outcome State Fault Refusal :=
  effect (awake (progUnitTimeout k u)) s

/-- `UNIT_HOLD_LIMIT` (R212). -/
def execUnitHoldLimit (k : Fin 68) (u : Fin 4) (s : State) : Host.Outcome State Fault Refusal :=
  effect (awake (progUnitHoldLimit k u)) s

/-- `EVM_RESULT_READ` (R216). -/
def execEvmResultRead (p : Port) (k : Fin 68) (u : Fin 4) (s : State) : Host.Outcome State Fault Refusal :=
  effect (regRead p (R.EVM_IVL_LO k u)) s

/-- `EVT_LAST_READ` (R202). -/
def execEvtLastRead (p : Port) (l : Fin 20) (s : State) : Host.Outcome State Fault Refusal :=
  effect (regRead p (R.EVT_LAST_LO l)) s

end Sys2Proof.Machine
end

