-- ==== Sys2Proof/Machine/ExecHealth.lean ====
section
/-!
DEFINITION. Commands of calibration, monitors, remaps and hand-offs (spec/16_calibration_health.md). Each meaning runs its program of effects on the state.
-/
namespace Sys2Proof.Machine

/-- `MONITOR_SAMPLE` (R520). -/
def execMonitorSample (temps : List (Option (BitVec 16))) (rails : List (BitVec 16))
    (s : State) : Host.Outcome State Fault Refusal :=
  effect (awake (progMonitorSample temps rails)) s

/-- `AGING_MEASUREMENT` (R522). -/
def execAgingMeasurement (counts : List (BitVec 24)) (s : State) : Host.Outcome State Fault Refusal :=
  effect (awake (progAging counts)) s

/-- `FORCE` (R513). -/
def execForce (p : Port) (s : State) : Host.Outcome State Fault Refusal :=
  effect (fieldWrite p F.CAL_CTL_FORCE 1) s

/-- `APPLY` (R514). -/
def execApply (p : Port) (n : Fin 64) (s : State) : Host.Outcome State Fault Refusal :=
  effect (regWrite p (R.CAL_CH_TST n) (fieldWord (F.CAL_CH_TST_APPLY n) 1)) s

/-- `REMAP_REQUEST` (R527). -/
def execRemapRequest (p : Port) (n : Fin 64) (k : Fin 128) (beat : BitVec 64)
    (s : State) : Host.Outcome State Fault Refusal :=
  effect
    (seqs [regWrite64 p R.CAL_RMB_LO R.CAL_RMB_HI beat.toNat,
      regWrite p R.CAL_RMAP (fieldWord F.CAL_RMAP_GO 1 ||| fieldWord F.CAL_RMAP_CORE k ||| fieldWord F.CAL_RMAP_CH n)])
    s

/-- `REMAP_COPY_DONE` (R527). -/
def execRemapCopyDone (s : State) : Host.Outcome State Fault Refusal :=
  effect (awake (progRemapCopyDone)) s

/-- `REMAP_LATE` (R527). -/
def execRemapLate (s : State) : Host.Outcome State Fault Refusal :=
  effect (awake (progRemapLate)) s

/-- `REMAP_STOP` (R527). -/
def execRemapStop (s : State) : Host.Outcome State Fault Refusal :=
  effect (awake (progRemapStop)) s

/-- `REMAP_CONTEXT_COPY` (R527). -/
def execRemapContextCopy (s : State) : Host.Outcome State Fault Refusal :=
  effect (awake (progRemapContext)) s

/-- `REMAP_RESUME` (R527). -/
def execRemapResume (s : State) : Host.Outcome State Fault Refusal :=
  effect (awake (progRemapResume)) s

/-- `CUT` (R530). -/
def execCut (p : Port) (beat : BitVec 64) (s : State) : Host.Outcome State Fault Refusal :=
  effect (seqs [regWrite64 p R.CAL_HB_LO R.CAL_HB_HI beat.toNat, regWrite p R.CAL_HCTL 1]) s

/-- `HANDOFF_PACKAGE_BUILD` (R530). -/
def execHandoffPackageBuild (s : State) : Host.Outcome State Fault Refusal :=
  effect (awake (progPackageBuild)) s

/-- `RXOPEN` (R531). -/
def execRxopen (p : Port) (s : State) : Host.Outcome State Fault Refusal :=
  effect (regWrite p R.CAL_HCTL 2) s

/-- `IMPORT` (R531). -/
def execImport (p : Port) (beat : BitVec 64) (s : State) : Host.Outcome State Fault Refusal :=
  effect (seqs [regWrite64 p R.CAL_HB_LO R.CAL_HB_HI beat.toNat, regWrite p R.CAL_HCTL 3]) s

/-- `HANDOFF_IMPORT_APPLY` (R531). -/
def execHandoffImportApply (s : State) : Host.Outcome State Fault Refusal :=
  effect (awake (progImportApply)) s

/-- `ABORT` (R531). -/
def execAbort (p : Port) (s : State) : Host.Outcome State Fault Refusal :=
  effect (regWrite p R.CAL_HCTL 4) s

end Sys2Proof.Machine
end

