-- ==== Sys2Proof/Machine/ExecIrq.lean ====
section
/-!
DEFINITION. Commands of the interrupt controller (spec/11_interrupts.md). Each meaning runs its program of effects on the state.
-/
namespace Sys2Proof.Machine

/-- `COALESCE_TIMEOUT` (R383). -/
def execCoalesceTimeout (i : Fin 256) (s : State) : Host.Outcome State Fault Refusal :=
  effect (progCoalesceTimeout i) s

/-- `IRQ_PRESENT` (R391). -/
def execIrqPresent (t : Fin 4) (s : State) : Host.Outcome State Fault Refusal :=
  effect (progIrqPresent t) s

/-- `IRQ_CLAIM` (R393). -/
def execIrqClaim (p : Port) (t : Fin 4) (s : State) : Host.Outcome State Fault Refusal :=
  effect (regRead p (R.IRQ_T_CLAIM t)) s

/-- `IRQ_COMPLETE` (R396). -/
def execIrqComplete (p : Port) (t : Fin 4) (w : Word) (s : State) : Host.Outcome State Fault Refusal :=
  effect (regWrite p (R.IRQ_T_COMPLETE t) w) s

/-- `IRQ_PEND_SET` (R388). -/
def execIrqPendSet (p : Port) (i : Fin 8) (w : Word) (s : State) : Host.Outcome State Fault Refusal :=
  effect (busWrite p (setAlias (R.IRQ_PEND i)) w) s

/-- `IRQ_PEND_CLEAR` (R388). -/
def execIrqPendClear (p : Port) (i : Fin 8) (w : ClearWord) (s : State) : Host.Outcome State Fault Refusal :=
  effect (whileSetting w.sets (busWrite p (clearAlias (R.IRQ_PEND i)) w.bits)) s

/-- `IRQ_SOURCE_WRITE` (R405). -/
def execIrqSourceWrite (p : Port) (coal : Bool) (i : Fin 256) (w : Word) (s : State) : Host.Outcome State Fault Refusal :=
  effect (regWrite p (if coal then R.IRQ_COAL i else R.IRQ_SRC i) w) s

/-- `SW253` (R402). -/
def execSw253 (p : Port) (s : State) : Host.Outcome State Fault Refusal :=
  effect (regWrite p R.IRQ_SWI (fieldWord F.IRQ_SWI_SW253 1)) s

/-- `SW254` (R402). -/
def execSw254 (p : Port) (s : State) : Host.Outcome State Fault Refusal :=
  effect (regWrite p R.IRQ_SWI (fieldWord F.IRQ_SWI_SW254 1)) s

/-- `ASYNC_LATCH_DELIVERY` (R401). -/
def execAsyncLatchDelivery (s : State) : Host.Outcome State Fault Refusal :=
  effect (progAsyncLatchDelivery) s

end Sys2Proof.Machine
end

