-- ==== Sys2Proof/Machine/ExecMap.lean ====
section
/-!
DEFINITION. Commands of registers and of the crossbar (spec/01_architecture.md). Each meaning runs its program of effects on the state.
-/
namespace Sys2Proof.Machine

/-- `REGISTER_WRITE` (R564). -/
def execRegisterWrite (p : Port) (a : BitVec 40) (v : Word) (same : SameCycle) (s : State) :
    Host.Outcome State Fault Refusal :=
  effect
    (whileSetting same.sets (match same.rivals with
    | [] => busWrite p a.toNat v
    | rivals => busWriteAgainst p rivals a.toNat v))
    s

/-- `LO_WORD_READ_SHADOW` (R9). -/
def execLoWordReadShadow (p : Port) (a : BitVec 40) (s : State) : Host.Outcome State Fault Refusal :=
  effect (busRead p a.toNat) s

/-- `PROFILE_SELECT` (R43). A raw write of the same cycle is applied first, so that the profile's values prevail (R44). -/
def execProfileSelect (p : Port) (sel : Selector) (w : ProfileWord) (s : State) :
    Host.Outcome State Fault Refusal :=
  effect
    (seqs [match w.raw with | some (q, a, v) => busWrite q a.toNat v | none => .done, regWrite p (selectorKey sel) w.word]) s

/-- `COMMIT` (R25). -/
def execCommit (p : Port) (beat : BitVec 64) (s : State) : Host.Outcome State Fault Refusal :=
  effect (regWrite64 p R.XBAR_COMMIT_LO R.XBAR_COMMIT_HI beat.toNat) s

/-- `COMMIT_TAKES_EFFECT` (R26). -/
def execCommitTakesEffect (s : State) : Host.Outcome State Fault Refusal :=
  effect (awake (progCommitTakesEffect)) s

end Sys2Proof.Machine
end

