-- ==== Sys2Proof/Machine/ExecMem.lean ====
section
/-!
DEFINITION. Commands of the memories and masters (spec/12_memory.md). Each meaning runs its program of effects on the state.
-/
namespace Sys2Proof.Machine

/-- `ECC_WRITEBACK` (R418). -/
def execEccWriteback (s : State) : Host.Outcome State Fault Refusal :=
  effect (awake (progEccWriteback)) s

/-- `SCRUB_READ` (R420). -/
def execScrubRead (a : BitVec 40) (copy : Fin 17) (flips : BitVec 104) (last : Bool)
    (s : State) : Host.Outcome State Fault Refusal :=
  effect (progScrub a.toNat copy flips.toNat last) s

/-- `STARVE` (R412). -/
def execStarve (m : Fin 16) (s : State) : Host.Outcome State Fault Refusal :=
  effect (awake (progStarve m)) s

/-- `FRZREL` (R428). -/
def execFrzrel (p : Port) (m : BitVec 16) (s : State) : Host.Outcome State Fault Refusal :=
  effect (regWrite p R.MEM_FRZREL (fieldWord F.MEM_FRZREL_M m.toNat)) s

end Sys2Proof.Machine
end

