-- ==== Sys2Proof/Machine/ExecPlay.lean ====
section
/-!
DEFINITION. Commands of segments, playback and refill (spec/07_playback.md). Each meaning runs its program of effects on the state.
-/
namespace Sys2Proof.Machine

/-- `START_CHECK` (R249). -/
def execStartCheck (n : Fin 64) (s : State) : Host.Outcome State Fault Refusal :=
  effect (awake (progStartCheck n)) s

/-- `SLOT_TABLE_WRITE` (R227). -/
def execSlotTableWrite (p : Port) (k : Fin 68) (i : Fin 32) (w : Word) (s : State) : Host.Outcome State Fault Refusal :=
  effect (regWrite p (R.PLAY_SLOT k i) w) s

/-- `SEGMENT_MEMORY_WRITE` (R229). -/
def execSegmentMemoryWrite (p : Port) (k : Fin 68) (o : BitVec 18) (bytes : RivalBytes)
    (s : State) : Host.Outcome State Fault Refusal :=
  effect (busBytes p (segBase k + o.toNat) bytes) s

/-- `SLOT_VALIDATE` (R231). -/
def execSlotValidate (p : Port) (k : Fin 68) (i : Fin 32) (s : State) : Host.Outcome State Fault Refusal :=
  effect (regWrite p (R.PLAY_VALID k) (fieldWord (F.PLAY_VALID_SLOT k) i)) s

/-- `VALIDATION_COMPLETE` (R232). -/
def execValidationComplete (k : Fin 68) (s : State) : Host.Outcome State Fault Refusal :=
  effect (awake (progValidationComplete k)) s

/-- `SLOT_INVALIDATE` (R233). -/
def execSlotInvalidate (p : Port) (k : Fin 68) (i : Fin 32) (s : State) : Host.Outcome State Fault Refusal :=
  effect (regWrite p (R.PLAY_INVAL k) (fieldWord (F.PLAY_INVAL_SLOT k) i)) s

/-- `REFILL_HEAD` (R256). -/
def execRefillHead (r : Fin 4096) (s : State) : Host.Outcome State Fault Refusal :=
  effect (awake (progRefillHead r)) s

/-- `REFILL_TAKE` (R253). -/
def execRefillTake (r : Fin 4096) (s : State) : Host.Outcome State Fault Refusal :=
  effect (awake (progRefillTake r)) s

/-- `REFILL_COMPLETE` (R255). -/
def execRefillComplete (r : Fin 4096) (s : State) : Host.Outcome State Fault Refusal :=
  effect (awake (progRefillComplete r)) s

end Sys2Proof.Machine
end

