-- ==== Sys2Proof/Machine/Jtag.lean ====
section
/-!
DEFINITION. The JTAG port (spec/13_ports.md, R460 to R463).
-/
namespace Sys2Proof.Machine

/-- EXTEST, CLAMP or HIGHZ is loaded (R462): it takes effect where every channel is in Calm or PARK, else BYPASS is
selected. -/
def progBoundary (c : Nat) : Prog :=
  ask fun s =>
    if s.anyActive then boundaryRefused
    else jtagSelect c

/-- An instruction is loaded (R460). -/
def progJtagLoad (c : Nat) : Prog :=
  if c = 0 || c = 3 || c = 4 then progBoundary c else jtagSelect (jtagCode c)

/-- The TAP is reset: IDCODE is selected. -/
def progTapReset : Prog := jtagSelect 0x01

/-- An Update-DR of SVCADDR with the 44 bits `w` (R461). -/
def progSvcaddr (w : BitVec 44) : Prog :=
  on (fun s => s.dev.jtag.ir = 0x21)
    (let a := w.toNat % 2 ^ 40
    let ok := a % 4 = 0
    modJtag fun j => { j with
      kind := if ok then w.toNat / 2 ^ 42 else 0, inc := w.toNat.testBit 41, addr := if ok then a else 0 })

/-- The service access of an Update-DR has an outcome: captures report it once the access has completed. -/
def jtagResult (status : Nat) (w : Word) : Prog := modJtag fun j => { j with busy := some (status, w) }

/-- An Update-DR of SVCDATA with the word `x` (R461): one access at `ADDR`, which then advances where `INC` is 1. While an access
is in progress, and for a `KIND` of none, it makes none; a frozen master's captures FROZEN. -/
def progSvcdata (x : RivalWord) : Prog :=
  on (fun s => s.dev.jtag.ir = 0x22 && s.dev.jtag.busy.isNone && s.issues .service) (ask fun s =>
    let j := s.dev.jtag
    if j.kind ≠ 1 && j.kind ≠ 2 then .done
    else if s.frozen 3 then modJtag fun j => { j with last := (2, 0) }
    else seqs [
      if j.kind = 1 then readAt .service j.addr jtagResult
      else writeAgainst .service x.rivals j.addr x.word fun st _ => jtagResult st 0,
      when j.inc (modJtag fun j => { j with addr := (j.addr + 4) % 2 ^ 40 })])

/-- A Capture-DR of SVCDATA (R461): BUSY while an access is in progress, else the outcome of the last one. -/
def progSvcCapture : Prog :=
  on (fun s => s.dev.jtag.ir = 0x22) (modJtag fun j => { j with captured := if j.busy.isSome then (3, 0) else j.last })

/-- The access in progress completes. -/
def progSvcComplete : Prog :=
  modJtag fun j => match j.busy with
    | some r => { j with last := r, busy := none }
    | none => j

end Sys2Proof.Machine
end

