-- ==== Sys2Proof/Machine/Line.lean ====
section
/-!
DEFINITION. The line port below HLP, and the messages of HLP as they leave (spec/13_ports.md, R434 to R438): the PHY, addresses,
IP datagrams, SLIP frames.
-/
namespace Sys2Proof.Machine

/-- Change what the line port holds. -/
def modLine (f : LineSt → LineSt) : Prog := dev fun d => { d with line := f d.line }

/-- The line port works: recovery leaves it disabled (R482). -/
def onLine (p : Prog) : Prog := awake (on (fun s => !s.flg F.BOOT_STAT_REC) p)

/-! ## The physical link (R435) -/

/-- 500 ms of the AUTO search have passed without a link: the other mode is tried. -/
def progPhySearch : Prog :=
  onLine (on (fun s => s.fld F.LINE_PHY_MODE = 0 && s.fld F.LINE_PHY_ST = 0)
    (modLine fun l => { l with search := if l.search = 1 then 2 else 1 }))

/-- The link comes up, in the mode that the search tries or the one that `MODE` names. -/
def progLinkUp : Prog :=
  onLine (on (fun s => s.fld F.LINE_PHY_ST = 0)
    (ask fun s =>
      let m := if s.fld F.LINE_PHY_MODE = 0 then s.dev.line.search else s.fld F.LINE_PHY_MODE
      seqs [setF F.LINE_PHY_ST m, raise 193, when (m = 2) (raise 195)]))

/-- The link is lost; the search starts again with 10GBASE-R. HLP sessions stay. -/
def progLinkDown : Prog :=
  onLine (on (fun s => s.fld F.LINE_PHY_ST ≠ 0)
    (seqs [setF F.LINE_PHY_ST 0, modLine fun l => { l with search := 1 }, raise 194]))

/-- A frame, packet or datagram outside the subset of Table 13.3 is dropped (R434). -/
def progFrameDropped : Prog := onLine (count F.LINE_CNT_BADHDR)

/-! ## Addresses and datagrams (R434) -/

/-- The device's IPv4 and IPv6 addresses, and its MAC address as the number that its bytes, the first the most significant,
form. -/
def State.ip4 (s : State) : Nat := (s.reg R.LINE_IP4).toNat
def State.ip6 (s : State) : Nat :=
  (List.range 4).foldl (fun n i => n + (s.reg (R.LINE_IP6 i)).toNat * 2 ^ (32 * i)) 0
def State.mac (s : State) : Nat := beNat (natLE 4 (s.reg R.LINE_MAC_LO).toNat ++ natLE 2 (s.reg R.LINE_MAC_HI).toNat)

/-- The Internet checksum of a byte string. -/
def inetSum (bs : List Byte) : Nat :=
  let n := ((groups 2 bs bs.length).map fun g => beNat (g ++ List.replicate (2 - g.length) 0)).foldl (· + ·) 0
  let n := n % 65536 + n / 65536
  65535 - (n % 65536 + n / 65536)

/-- An IPv4 datagram of the device (DF set, TTL 64) to `dst`, its identification being `id`. -/
def ip4Bytes (src dst proto id : Nat) (body : List Byte) : List Byte :=
  let head (sum : Nat) := natBE 1 0x45 ++ natBE 1 0 ++ natBE 2 (20 + body.length) ++ natBE 2 id ++ natBE 2 0x4000
    ++ natBE 1 64 ++ natBE 1 proto ++ natBE 2 sum ++ natBE 4 src ++ natBE 4 dst
  head (inetSum (head 0)) ++ body

/-- An IPv6 packet of the device to `dst`. -/
def ip6Bytes (src dst next hops : Nat) (body : List Byte) : List Byte :=
  natBE 4 0x60000000 ++ natBE 2 body.length ++ natBE 1 next ++ natBE 1 hops ++ natBE 16 src ++ natBE 16 dst ++ body

/-- The pseudo-header of a checksum. -/
def pseudo (v6 : Bool) (src dst proto len : Nat) : List Byte :=
  if v6 then natBE 16 src ++ natBE 16 dst ++ natBE 4 len ++ natBE 4 proto
  else natBE 4 src ++ natBE 4 dst ++ natBE 2 proto ++ natBE 2 len

/-- `body`, whose checksum is the two bytes at offset `o`, with that checksum. -/
def withSum (o : Nat) (pre body : List Byte) : List Byte := body.take o ++ natBE 2 (inetSum (pre ++ body)) ++ body.drop (o + 2)

/-- An Ethernet II frame of the device, its FCS left out: destination, source, type, and what it carries. -/
def etherBytes (dst src typ : Nat) (body : List Byte) : List Byte := natBE 6 dst ++ natBE 6 src ++ natBE 2 typ ++ body

/-- A frame goes out on the line to a link address. -/
def sendEther (dst typ : Nat) (body : List Byte) : Prog := ask fun s => send 0 (etherBytes dst s.mac typ body)

/-- The Ethernet type of IP. -/
def etherType (v6 : Bool) : Nat := if v6 then 0x86DD else 0x0800

/-- The gateways; 0 means none. -/
def State.gw4 (s : State) : Nat := (s.reg R.LINE_GW4).toNat
def State.gw6 (s : State) : Nat :=
  (List.range 4).foldl (fun n i => n + (s.reg (R.LINE_GW6 i)).toNat * 2 ^ (32 * i)) 0

/-- The address of the link to which a packet for `dst` goes: a destination off the link goes through the gateway. -/
def State.nextHop (s : State) (v6 : Bool) (dst : Nat) : Nat :=
  let gw := if v6 then s.gw6 else s.gw4
  if gw = 0 || (v6 && dst / 2 ^ 120 = 0xFF) || Config.onLink v6 (if v6 then s.ip6 else s.ip4) dst then dst else gw

/-- The link address of an address of the link: that of an IPv6 multicast group is formed from it (RFC 2464), another has been learned. -/
def State.linkAddr (s : State) (v6 : Bool) (hop : Nat) : Option Nat :=
  if v6 && hop / 2 ^ 120 = 0xFF then some (0x333300000000 + hop % 2 ^ 32)
  else (s.dev.line.neighbours.find? fun e => e.1 = v6 && e.2.1 = hop).map (·.2.2)

/-- An ARP packet (RFC 826). -/
def arpBytes (op mac ip tmac tip : Nat) : List Byte :=
  natBE 2 1 ++ natBE 2 0x0800 ++ natBE 1 6 ++ natBE 1 4 ++ natBE 2 op ++ natBE 6 mac ++ natBE 4 ip ++ natBE 6 tmac ++ natBE 4 tip

/-- The solicited-node group of an IPv6 address (RFC 4861). -/
def solicitedNode (a : Nat) : Nat := 0xFF0200000000000000000001FF000000 + a % 2 ^ 24

/-- A Neighbour Solicitation of the device (RFC 4861). -/
def solicitBytes (ip mac target : Nat) : List Byte :=
  let m := natBE 1 135 ++ natBE 3 0 ++ natBE 4 0 ++ natBE 16 target ++ natBE 1 1 ++ natBE 1 1 ++ natBE 6 mac
  ip6Bytes ip (solicitedNode target) 58 255 (withSum 2 (pseudo true ip (solicitedNode target) 58 m.length) m)

/-- The link address of an address of the link is asked for. -/
def solicit (v6 : Bool) (hop : Nat) : Prog :=
  ask fun s =>
    if v6 then sendEther (0x333300000000 + solicitedNode hop % 2 ^ 32) 0x86DD (solicitBytes s.ip6 s.mac hop)
    else sendEther 0xFFFFFFFFFFFF 0x0806 (arpBytes 1 s.mac s.ip4 0 hop)

/-- An IP packet goes out on the line to `dst`. Where the link address of its next hop is not known, it waits for it, and the first to
wait asks for it. -/
def sendPacket (v6 : Bool) (dst : Nat) (bs : List Byte) : Prog :=
  ask fun s =>
    let hop := s.nextHop v6 dst
    match s.linkAddr v6 hop with
    | some a => sendEther a (etherType v6) bs
    | none => seqs [
        when (!(s.dev.line.unresolved.any fun e => e.1 = v6 && e.2.1 = hop)) (solicit v6 hop),
        modLine fun l => { l with unresolved := l.unresolved ++ [(v6, hop, bs)] }]

/-- A packet of the device goes out on the line to an address. -/
def sendIp (v6 : Bool) (dst proto hops : Nat) (body : List Byte) : Prog :=
  ask fun s =>
    if v6 then sendPacket true dst (ip6Bytes s.ip6 dst proto hops body)
    else free fun id => sendPacket false dst (ip4Bytes s.ip4 dst proto (id % 65536) body)

/-- A datagram goes out to a supervisor; a checksum of 0 is sent as all ones. -/
def sendUdp (dest : Source) (data : List Byte) : Prog :=
  ask fun s =>
    let n := 8 + data.length
    let me := if dest.v6 then s.ip6 else s.ip4
    let head (sum : Nat) := natBE 2 (s.fld F.LINE_UDP_PORT) ++ natBE 2 dest.udp.toNat ++ natBE 2 n ++ natBE 2 sum ++ data
    let sum := inetSum (pseudo dest.v6 me dest.addr.toNat 17 n ++ head 0)
    sendIp dest.v6 dest.addr.toNat 17 64 (head (if sum = 0 then 65535 else sum))

/-- The link address of a network address becomes known, and the packets that wait for it go out. -/
def learn (v6 : Bool) (addr mac : Nat) : Prog :=
  ask fun s =>
    let mine (e : Bool × Nat × List Byte) : Bool := e.1 = v6 && e.2.1 = addr
    seqs [
      modLine fun l => { l with
        neighbours := (v6, addr, mac) :: l.neighbours.filter fun e => !(e.1 = v6 && e.2.1 = addr)
        unresolved := l.unresolved.filter fun e => !mine e },
      each (s.dev.line.unresolved.filter mine) fun e => sendEther mac (etherType v6) e.2.2]

/-- An ARP request for `target` from the holder of `ip` and `mac`: answered where it asks for the device (RFC 826). -/
def progArpRequest (mac ip target : Nat) : Prog :=
  onLine (on (fun s => s.ip4 = target && target ≠ 0)
    (ask fun s => seqs [learn false ip mac,
      sendEther mac 0x0806 (arpBytes 2 s.mac s.ip4 mac ip)]))

/-- An ARP reply: `ip` has the link address `mac`. -/
def progArpReply (mac ip : Nat) : Prog := onLine (learn false ip mac)

/-- An Echo request from `src` with identifier, sequence number and data `body`: it is answered (RFC 792, RFC 4443). -/
def progEcho (v6 : Bool) (src : Nat) (body : List Byte) : Prog :=
  onLine (on (fun s => (if v6 then s.ip6 else s.ip4) ≠ 0)
    (ask fun s =>
      if v6 then
        let m := natBE 1 129 ++ natBE 3 0 ++ body
        sendIp true src 58 64 (withSum 2 (pseudo true s.ip6 src 58 m.length) m)
      else sendIp false src 1 64 (withSum 2 [] (natBE 4 0 ++ body))))

/-- A Neighbour Solicitation for `target` from `src`, with its link address where it gives one: answered where it asks for the
device (RFC 4861). -/
def progNeighbourSolicitation (src target : Nat) (mac : Option Nat) : Prog :=
  onLine (on (fun s => s.ip6 = target && target ≠ 0)
    (ask fun s =>
      let dst := if src = 0 then 0xFF020000000000000000000000000001 else src
      let m := natBE 1 136 ++ natBE 3 0 ++ natBE 4 (if src = 0 then 0x20000000 else 0x60000000) ++ natBE 16 target
        ++ natBE 1 2 ++ natBE 1 1 ++ natBE 6 s.mac
      seqs [match mac with | some a => when (src ≠ 0) (learn true src a) | none => .done,
        sendIp true dst 58 255 (withSum 2 (pseudo true s.ip6 dst 58 m.length) m)]))

/-- A Neighbour Advertisement: `addr` has the link address `mac`. -/
def progNeighbourAdvertisement (addr mac : Nat) : Prog := onLine (learn true addr mac)

/-! ## HLP messages (R436, R459) -/

/-- The bytes of an HLP message (Table 13.4). -/
def hlpBytes (typ dev sess seq try_ flags status : Nat) (payload : List Byte) : List Byte :=
  let head := natLE 2 0xE17A ++ natLE 1 1 ++ natLE 1 typ ++ natLE 2 dev ++ natLE 2 sess ++ natLE 4 seq ++ natLE 1 try_
    ++ natLE 1 flags ++ natLE 2 status ++ natLE 2 payload.length ++ natLE 2 0
  head ++ natLE 4 (crc32c (head ++ natLE 4 0 ++ payload)).toNat ++ payload

/-- A SLIP frame (RFC 1055). -/
def slip (bs : List Byte) : List Byte :=
  bs.flatMap (fun b => if b = 0xC0 then [0xDB, 0xDC] else if b = 0xDB then [0xDB, 0xDD] else [b]) ++ [0xC0]

/-- A message goes out: on the UART for the service session, else to a supervisor. -/
def sendHlp (svc : Bool) (dest : Source) (bs : List Byte) : Prog := if svc then send 1 (slip bs) else sendUdp dest bs

/-- A response goes out. The spec does not say which `TRY` a response carries: one from 1 to 8. -/
def respond (svc : Bool) (dest : Source) (typ sess seq status : Nat) (replay : Bool) (payload : List Byte) : Prog :=
  free fun n =>
    ask fun s =>
      sendHlp svc dest (hlpBytes typ (s.fld F.SYS_DEVID_DEV) sess seq (n % 8 + 1) (if replay then 5 else 1) status payload)

end Sys2Proof.Machine
end

