-- ==== Sys2Proof/Machine/Hlp.lean ====
section
/-!
DEFINITION. HLP: sessions, requests of a supervisor, requests of the device (spec/13_ports.md, R437 to R453, R459). The line port
and the UART share it; the UART has one session, which the state keeps as number 8.
-/
namespace Sys2Proof.Machine

/-! ## Sessions -/

/-- The device's port of a session: the service port or the line port. -/
def hlpPort (svc : Bool) : Port := if svc then .service else .line

/-- The interrupt target that a port's CLAIM and COMPLETE act on, and that its notices follow (R452, R459). -/
def hlpTarget (svc : Bool) : Nat := if svc then 3 else 2

/-- Session `i`, if it is open. -/
def State.session (s : State) (i : Nat) : Option Session := (s.dev.line.sessions.find? fun e => e.1 = i).map (·.2)

/-- Change session `i`. -/
def modSession (i : Nat) (f : Session → Session) : Prog :=
  modLine fun l => { l with sessions := l.sessions.map fun e => if e.1 = i then (e.1, f e.2) else e }

/-- The port takes part in HLP: no reset holds it, and for the line port the device is not in recovery. -/
def onHlp (svc : Bool) (p : Prog) : Prog :=
  awake (on (fun s => s.dev.rst.run.isNone && (svc || !s.flg F.BOOT_STAT_REC)) p)

/-- The wire number of session `i`. -/
def wireSession (i : Nat) : Nat := if i = 8 then 0 else i

/-- A request cannot be taken now: BUSY (R439, R442). -/
def busy (svc : Bool) (dest : Source) (typ sess seq : Nat) : Prog :=
  seqs [count F.LINE_CNT_BUSY, raise 201, respond svc dest typ sess seq 3 false []]

/-! ## Executing a request (R446, R447, R452) -/

/-- 32-bit reads of a port in address order, until one does not complete: its status, and the words before it. -/
def readSeries (p : Port) (a : Nat) (got : List Byte) : Nat → (Nat → List Byte → Prog) → Prog
  | 0, go => go 0 got
  | n + 1, go => readAt p a fun st w => if st = 0 then readSeries p (a + 4) (got ++ natLE 4 w.toNat) n go else go st got

/-- 32-bit writes of a port in address order, until one does not complete: its status, and how many came before it. `clash`
names a word of the series whose write meets those of other masters (R413), and these masters. -/
def writeSeries (p : Port) (a : Nat) (clash : Option (Nat × List (Fin 8))) (n : Nat) : List Word → (Nat → Nat → Prog) → Prog
  | [], go => go 0 n
  | w :: ws, go =>
    let next (st : Nat) (_ : Word) : Prog := if st = 0 then writeSeries p (a + 4) clash (n + 1) ws go else go st n
    match clash with
    | some (i, rivals) => if i = n then writeAgainst p rivals a w next else writeAt p a w next
    | none => writeAt p a w next

/-- The 32-bit words of a byte string. -/
def wordsOf (bs : List Byte) : List Word := (groups 4 bs (bs.length / 4)).map fun g => BitVec.ofNat 32 (leNat g)

/-- The window `CH[n]` (R48). -/
def chWindow (n : Nat) : Nat := 0x02000000 + 0x10000 * n

/-- A command and its argument are written to `CTL` of channel `n` (R447); a refusal shows in `REJ`. -/
def hlpCmd (p : Port) (n cmd arg : Nat) (fin : Nat → List Byte → Prog) : Prog :=
  ask fun s =>
    let k := s.core n
    let was := s.flg (F.CTL_STAT_REJ k)
    seqs [clrB (F.CTL_STAT_REJ k),
      writeAt p (chWindow n + 4) (BitVec.ofNat 32 arg) fun st _ =>
        if st ≠ 0 then seqs [when was (setB (F.CTL_STAT_REJ k)), fin st []]
        else writeAt p (chWindow n) (BitVec.ofNat 32 cmd) fun st _ =>
          ask fun s =>
            let rej := s.flg (F.CTL_STAT_REJ k)
            let code := natLE 1 (s.fld (F.CTL_STAT_RCODE k))
            seqs [when was (setB (F.CTL_STAT_REJ k)),
              if st ≠ 0 then fin st [] else fin (if rej then 10 else 0) code]]

/-- A request of type `typ` is executed; `fin` gets its status and its payload. BADMSG for a payload that does not fit the type,
and for a reserved type (R438). -/
def execute (svc : Bool) (clash : Option (Nat × List (Fin 8))) (typ : Nat) (b : List Byte) (fin : Nat → List Byte → Prog) : Prog :=
  let p := hlpPort svc
  let n (o k : Nat) := leNat ((b.drop o).take k)
  match typ with
  | 0x02 => if b.length = 0 then fin 0 [] else fin 4 []
  | 0x03 =>
    if b.length = 12 && n 0 8 % 4 = 0 && n 8 2 ≤ 356 && n 10 2 = 0 then readSeries p (n 0 8) [] (n 8 2) fin else fin 4 []
  | 0x04 =>
    if 12 ≤ b.length && n 0 8 % 4 = 0 && n 8 2 ≤ 353 && n 10 2 = 0 && b.length = 12 + 4 * n 8 2 then
      writeSeries p (n 0 8) clash 0 (wordsOf (b.drop 12)) fun st k => fin st (natLE 2 k)
    else fin 4 []
  | 0x05 =>
    if b.length = 8 && n 0 1 < 64 && n 1 1 < 16 && n 2 2 = 0 then hlpCmd p (n 0 1) (n 1 1) (n 4 4) fin else fin 4 []
  | 0x06 =>
    if b.length = 0 then
      readAt p (R.IRQ_T_CLAIM (hlpTarget svc)).addr fun st w => fin st (if st = 0 then natLE 4 w.toNat else [])
    else fin 4 []
  | 0x07 =>
    if b.length = 2 then writeAt p (R.IRQ_T_COMPLETE (hlpTarget svc)).addr (BitVec.ofNat 32 (n 0 2)) fun st _ => fin st []
    else fin 4 []
  | 0x08 => if b = [0] then fin 0 [] else fin 4 []
  | _ => fin 4 []

/-- Request `seq` of session `i` has an outcome: its response is sent and cached, and N moves on (R442, R443). -/
def finish (svc : Bool) (i seq typ status : Nat) (payload : List Byte) : Prog :=
  ask fun s =>
    match s.session i with
    | none => .done
    | some x => seqs [
        modSession i fun x => { x with
          next := (seq + 1) % 2 ^ 32, cache := (⟨seq, typ, status, payload⟩ :: x.cache).take 64 },
        respond svc x.src typ (wireSession i) seq status false payload]

/-- Request N of session `i` is executed, or answered FROZEN where the port's master is frozen (R433). A CLOSE ends the session,
a RESET is followed by a PORT reset. -/
def runRequest (svc : Bool) (i : Nat) (clash : Option (Nat × List (Fin 8))) (seq typ : Nat) (payload : List Byte) : Prog :=
  ask fun s =>
    if s.frozen (portMaster (hlpPort svc)) then finish svc i seq typ 2 []
    else execute svc clash typ payload fun st out => seqs [
      finish svc i seq typ st out,
      when (typ = 0x02 && st = 0) (endSession i),
      when (typ = 0x08 && st = 0) (modRst fun r => { r with portDue := true })]

/-- Held requests whose turn has come are executed in `SEQ` order (R442). -/
def runHeld (svc : Bool) (i : Nat) : Nat → Prog
  | 0 => .done
  | fuel + 1 =>
    ask fun s =>
      match s.session i with
      | none => .done
      | some x =>
        match x.held.find? fun h => h.seq = x.next with
        | none => .done
        | some h => seqs [
            modSession i fun x => { x with held := x.held.filter fun y => y.seq ≠ h.seq },
            if h.answered then modSession i fun x => { x with next := (x.next + 1) % 2 ^ 32 }
            else runRequest svc i none h.seq h.typ h.payload,
            runHeld svc i fuel]

/-- Request `seq` of an open session is judged by its place in the window (R442, R443, R444). -/
def inSession (svc : Bool) (i : Nat) (x : Session) (clash : Option (Nat × List (Fin 8))) (seq typ : Nat) (payload : List Byte) : Prog :=
  ask fun s =>
    let d := (seq + 2 ^ 32 - x.next % 2 ^ 32) % 2 ^ 32
    let frozen := s.frozen (portMaster (hlpPort svc))
    match x.cache.find? fun c => c.seq = seq with
    | some c => respond svc x.src c.typ (wireSession i) seq c.status true c.payload
    | none =>
      if d < 64 then
        if x.held.any fun h => h.seq = seq then count F.LINE_CNT_A_DUP
        else if d = 0 then seqs [runRequest svc i clash seq typ payload, runHeld svc i 64]
        else seqs [
          modSession i fun x => { x with
            held := x.held ++ [⟨seq, typ, payload, frozen⟩]
            cache := if frozen then (⟨seq, typ, 2, []⟩ :: x.cache).take 64 else x.cache },
          when frozen (respond svc x.src typ (wireSession i) seq 2 false [])]
      else if frozen then respond svc x.src typ (wireSession i) seq 2 false []
      else if d < 2 ^ 31 then busy svc x.src typ (wireSession i) seq
      else if x.expired.contains seq then respond svc x.src typ (wireSession i) seq 9 false []
      else respond svc x.src typ (wireSession i) seq 8 false []

/-- A request other than OPEN that has passed R437 is received from `src`: of an open session of its sender's address, else
NOSESS. -/
def receive (svc : Bool) (src : Source) (typ : Nat) (clash : Option (Nat × List (Fin 8))) (m : HlpMsg) : Prog :=
  onHlp svc (ask fun s =>
    let i := if svc then (if m.sess = 0 then 8 else 9) else m.sess.toNat
    let mine := match s.session i with
      | some x => if svc || (i < 8 && x.src.v6 = src.v6 && x.src.addr = src.addr) then some x else none
      | none => none
    match mine with
    | some x => inSession svc i x clash m.seq.toNat typ m.payload
    | none =>
      respond svc src typ m.sess.toNat m.seq.toNat
        (if s.frozen (portMaster (hlpPort svc)) then 2 else if typ = 0 || 8 < typ then 4 else 5) false [])

/-! ## OPEN (R439, R441) -/

/-- The lowest free session number of the line port. -/
def State.freeSession (s : State) : Option Nat := (List.range 8).find? fun i => (s.session i).isNone

/-- The payload of an OPEN response: `RTO`, `TRIES` and `UTMO` of the device. -/
def State.openPayload (s : State) : List Byte :=
  natLE 4 (s.fld F.LINE_HLP_RTO) ++ natLE 1 (s.fld F.LINE_HLP_TRIES) ++ natLE 3 0 ++ natLE 4 (s.fld F.LINE_UTMO_UTMO)

/-- Session `i` opens for a request from `src`. -/
def openSession (svc : Bool) (i : Nat) (src : Source) (seq rto tries : Nat) (note rec_ : Bool) (cto : Nat) : Prog :=
  seqs [
    modLine fun l => { l with
      sessions := (i, { src := src, next := (seq + 1) % 2 ^ 32, rto := rto, tries := tries, note := note, rec_ := rec_, cto := cto })
        :: l.sessions.filter fun e => e.1 ≠ i },
    if svc then seqs [setB F.SVC_STAT_SESS, raise 207] else raise 196,
    ask fun s => respond svc src 0x01 (wireSession i) seq 0 false s.openPayload]

/-- An OPEN request from `src`. A refused one has no other effect; an accepted one closes the session that its sender's address
holds. -/
def progOpen (svc : Bool) (src : Source) (m : HlpMsg) : Prog :=
  onHlp svc (ask fun s =>
    let b := m.payload
    let n (o k : Nat) := leNat ((b.drop o).take k)
    let tries := n 4 1
    let refuse (st : Nat) := respond svc src 0x01 m.sess.toNat m.seq.toNat st false []
    let old := s.dev.line.sessions.find? fun e =>
      if svc then e.1 = 8 else e.1 < 8 && e.2.src.v6 = src.v6 && e.2.src.addr = src.addr
    if s.frozen (portMaster (hlpPort svc)) then refuse 2
    else if b.length ≠ 12 || tries = 0 || 8 < tries || 4 ≤ n 5 1 || n 6 2 ≠ 0 then refuse 4
    else if n 8 4 ≠ 0 && n 8 4 < 2 * tries * n 0 4 then refuse 6
    else if !svc && old.isNone && s.freeSession.isNone then busy svc src 0x01 m.sess.toNat m.seq.toNat
    else seqs [
      match old with | some e => endSession e.1 | none => .done,
      ask fun s => openSession svc (if svc then 8 else s.freeSession.getD 0) src m.seq.toNat (n 0 4) tries
        ((n 5 1).testBit 0) ((n 5 1).testBit 1) (n 8 4)])

/-! ## Expiry (R444) -/

/-- Numbers that are missing expire, until the lowest held request is N; `fuel` bounds how many. -/
def expire (i : Nat) : Nat → Prog
  | 0 => .done
  | fuel + 1 =>
    ask fun s =>
      match s.session i with
      | none => .done
      | some x =>
        when (!x.held.isEmpty && !(x.held.any fun h => h.seq = x.next)) (seqs [
          modSession i fun x => { x with expired := x.next :: x.expired, next := (x.next + 1) % 2 ^ 32 },
          count F.LINE_CNT_EXPIRED, raise 200, expire i fuel])

/-- A later request of session `i` has been held for `CTO_S` µs while N is missing. -/
def progExpire (svc : Bool) (i : Nat) : Prog :=
  onHlp svc (ask fun s =>
    let i := if svc then 8 else i
    match s.session i with
    | none => .done
    | some x => when (x.cto ≠ 0 && !x.held.isEmpty) (seqs [expire i 64, runHeld svc i 64]))

/-! ## Requests of the device (R448 to R451) -/

/-- The open session of a port with the lowest number that satisfies `p`. -/
def State.lowest (s : State) (svc : Bool) (p : Session → Bool) : Option (Nat × Session) :=
  let l := if svc then [8] else List.range 8
  l.findSome? fun i => (s.session i).bind fun x => if p x then some (i, x) else none

/-- Request `q` of the device goes out in session `i`, as transmission `q.tries`. -/
def transmit (i : Nat) (src : Source) (q : DevReq) : Prog :=
  ask fun s =>
    sendHlp (i = 8) src (hlpBytes q.typ (s.fld F.SYS_DEVID_DEV) (wireSession i) q.seq q.tries 2 0 q.payload)

/-- The device makes a request in session `i`; at most 64 are without an acknowledgement. -/
def makeRequest (i : Nat) (x : Session) (q : DevReq) (made : Prog) : Prog :=
  when (x.out.length < 64) (seqs [
    modSession i fun x => { x with seq := (x.seq + 1) % 2 ^ 32, out := x.out ++ [{ q with seq := x.seq }] },
    transmit i x.src { q with seq := x.seq }, made])

/-- Target `t` has a notice that stands, or has none (R450); a claim, with which P_t becomes none, ends it too. -/
def setNoticed (t : Nat) (b : Bool) : Prog :=
  dev fun d => { d with irq := { d.irq with
    noticed := if b then t :: d.irq.noticed.filter (· ≠ t) else d.irq.noticed.filter (· ≠ t) } }

/-- A NOTICE of port `svc` goes out, where its target's line is asserted and none is outstanding (R450). -/
def sendNotice (svc : Bool) : Prog :=
  ask fun s =>
    let t := hlpTarget svc
    match s.lowest svc (·.note) with
    | none => .done
    | some (i, x) =>
      let out := s.dev.line.sessions.any fun e => (e.1 = 8) = svc && e.2.out.any fun q => q.typ = 0x10
      when (s.presented t ≠ 0 && !s.dev.irq.noticed.contains t && !out)
        (makeRequest i x { seq := 0, typ := 0x10, payload := natLE 2 (s.presented t) ++ natLE 2 0 } (setNoticed t true))

/-- The device sends a NOTICE. -/
def progNotice (svc : Bool) : Prog := onHlp svc (sendNotice svc)

/-- Entries of a ring with an entry size code that one message carries (R451). -/
def recEntries (esz : Nat) : Nat := if esz = 4 then 1 else 1412 / entrySize esz

/-- The message for `count` entries of ring `r` from index `first` on, or a part of one entry. -/
def State.recPayload (s : State) (r first count part : Nat) : List Byte :=
  let q := s.ring r
  let body := (idxRange first count).flatMap fun x => s.bytes (q.entry x) (entrySize q.esz)
  natLE 2 r ++ natLE 1 q.esz ++ natLE 1 part ++ natLE 4 first ++ natLE 2 count ++ natLE 2 0
    ++ (if q.esz = 4 then (body.drop (1024 * part)).take 1024 else body)

/-- The message that ring `r` sends next: one to be sent again, else the next part of an entry, else the entries that
go out next. -/
def State.nextRec (s : State) (r : Nat) : Option Rec :=
  let q := s.ring r
  let mine := s.dev.line.recs.filter fun c => c.ring = r
  match mine.find? fun c => c.st = 2 with
  | some c => some c
  | none =>
    let (x, n) := q.nextOut (recEntries q.esz)
    if n = 0 then none
    else some ⟨r, x, n, if q.esz = 4 then (mine.filter fun c => c.first = x).length else 0, 0⟩

/-- Ring `r` goes to the record session: its `SINK` is LINE, or it spills (R377). -/
def State.recRing (s : State) (r : Nat) : Bool :=
  let q := s.ring r
  q.on && !q.consumed && (q.sink = 2 || (q.sink = 1 && s.spillNow && !(s.dev.stor.work.any fun w => w.ring = r && !w.landed)))

/-- The record session (R440): that of the line port, or, where it has none, that of the UART (R459). -/
def State.recSession (s : State) : Option (Nat × Session) := (s.lowest false (·.rec_)).orElse fun _ => s.lowest true (·.rec_)

/-- Ring `r` may send message `c`: one that begins new entries where the ring goes to the record session and is not being disabled, one
that goes on with entries that have begun to go out always. -/
def State.recMay (s : State) (r : Nat) (c : Rec) : Bool :=
  (s.ring r).on && !(s.ring r).consumed && (c.st = 2 || c.part ≠ 0 || (s.recRing r && !(s.ring r).stopping))

/-- The device sends a REC with entries of ring `r` (R451). -/
def progRec (r : Nat) : Prog :=
  onHlp true (ask fun s =>
    match s.recSession, s.nextRec r with
    | some (i, x), some c =>
      when (s.recMay r c) (seqs [
        each (idxRange c.first c.count) fun e => eccRead ((s.ring r).entry e) (entrySize (s.ring r).esz),
        makeRequest i x
          { seq := 0, typ := 0x11, payload := s.recPayload r c.first c.count c.part, ring := r, first := c.first, part := c.part }
          (seqs [
            modLine fun l => { l with
              recs := l.recs.filter (fun d => !(d.ring = r && d.first = c.first && d.part = c.part)) ++ [{ c with st := 0 }] },
            when (c.st ≠ 2 && ((s.ring r).esz ≠ 4 || c.part = 3))
              (modRing r fun q => q.take c.first c.count)])])
    | _, _ => .done)

/-- What a REC carried takes a state: 1 delivered, 2 to be sent again; deliveries move `CI` (R350). -/
def recState (q : DevReq) (st : Nat) : Prog :=
  seqs [
    modLine fun l => { l with
      recs := l.recs.map fun c => if c.ring = q.ring && c.first = q.first && c.part = q.part then { c with st := st } else c },
    ask fun s => deliverBlocks q.ring (s.dev.stor.work.length + s.dev.line.recs.length)]

/-- Request `seq` of session `i` of the device, if it has no acknowledgement yet. -/
def State.devReq (s : State) (i seq : Nat) : Option (Session × DevReq) :=
  (s.session i).bind fun x => (x.out.find? fun q => q.seq = seq).map fun q => (x, q)

/-- A request of the device is complete. -/
def dropReq (i seq : Nat) : Prog := modSession i fun x => { x with out := x.out.filter fun q => q.seq ≠ seq }

/-- An acknowledgement of request `seq`, with a status: one that comes after the completion is late (R448). Entries whose REC is
acknowledged with another status than OK are not delivered, and go out again. -/
def progAck (svc : Bool) (i seq status : Nat) : Prog :=
  onHlp svc (ask fun s =>
    let i := if svc then 8 else i
    match s.devReq i seq with
    | none => seqs [count F.LINE_CNT_LATE, raise 199]
    | some (_, q) => seqs [
        dropReq i seq, when (q.typ ≠ 0x10) (recState q (if status = 0 then 1 else 2))])

/-- `RTO` has passed without an acknowledgement of request `seq` (R448). -/
def progRetransmit (svc : Bool) (i seq : Nat) : Prog :=
  onHlp svc (ask fun s =>
    let i := if svc then 8 else i
    match s.devReq i seq with
    | none => .done
    | some (x, q) => when (q.tries < s.fld F.LINE_HLP_TRIES) (seqs [
        modSession i fun x => { x with out := x.out.map fun p => if p.seq = seq then { p with tries := p.tries + 1 } else p },
        count F.LINE_CNT_A_RETX, transmit i x.src { q with tries := q.tries + 1 }]))

/-- `UTMO` has passed since the first transmission of request `seq` (R448): it completes with TIMEOUT. A NOTICE is followed by
another where a source is still presented (R450). -/
def progReqTimeout (svc : Bool) (i seq : Nat) : Prog :=
  onHlp svc (ask fun s =>
    let i := if svc then 8 else i
    match s.devReq i seq with
    | none => .done
    | some (_, q) => when (s.fld F.LINE_UTMO_UTMO ≠ 0) (seqs [
        dropReq i seq, setB F.LINE_STAT_TMO, raise 198,
        if q.typ = 0x10 then seqs [setNoticed (hlpTarget svc) false, sendNotice svc] else recState q 2]))

/-- The received message `b` fails R437 (Tables 13.4 and 13.5): its length, `MAGIC`, `VER`, `DEV`, `LEN`, `CRC` or a reserved bit of
its header. -/
def State.badMessage (s : State) (b : List Byte) : Bool :=
  let n (o k : Nat) := leNat ((b.drop o).take k)
  b.length < 24 || n 0 2 ≠ 0xE17A || n 2 1 ≠ 1 || n 4 2 ≠ s.fld F.SYS_DEVID_DEV || n 16 2 ≠ b.length - 24 || 8 ≤ n 13 1
    || n 18 2 ≠ 0 || n 20 4 ≠ (crc32c (b.take 20 ++ natLE 4 0 ++ b.drop 24)).toNat

/-- A message that fails R437 is dropped. -/
def progHlpDropped (svc : Bool) (b : List Byte) : Prog :=
  onHlp svc (on (fun s => s.badMessage b) (seqs [count F.LINE_CNT_BADHDR, raise 202]))

/-- A SLIP frame that breaks HLP framing is dropped (R459). -/
def progSlipDropped : Prog := awake (setB F.SVC_STAT_SLIPERR)

end Sys2Proof.Machine
end

