-- ==== Sys2Proof/Machine/Peer.lean ====
section
/-!
DEFINITION. The peer links: sync, frames, peer commands, the receiver of a hand-off transfer (spec/13_ports.md, R454 to R458).
-/
namespace Sys2Proof.Machine

/-- A link, 0 PEER_E or 1 PEER_W, takes what it receives: it is enabled, and the core domain works (R454). -/
def onLink (link : Nat) (p : Prog) : Prog := awake (on (fun s => s.linkOn link) p)

/-- A link gains or loses sync. -/
def progPeerSync (link : Nat) (up : Bool) : Prog :=
  let f := if link = 0 then F.PEER_STAT_LINK_E else F.PEER_STAT_LINK_W
  awake (on (fun s => !s.flg F.BOOT_STAT_REC && s.flg f != up)
    (seqs [setF f (if up then 1 else 0), raise (if link = 0 then 203 else 204)]))

/-- A frame is discarded: for its CRC or a code group, which is counted, or for a reserved type. -/
def progPeerDiscard (link : Nat) (reserved : Bool) : Prog :=
  onLink link (seqs [
    setB (if link = 0 then F.PEER_STAT_CRC_E else F.PEER_STAT_CRC_W),
    when (!reserved) (count (if link = 0 then F.PEER_CNT_CRC_E else F.PEER_CNT_CRC_W))])

/-- A SQUALL frame (R335). -/
def progSquallFrame (link word : Nat) : Prog := onLink link (squallFrame link word)

/-- A PCMD frame (R457): the argument for channel `n`, and an offer of class PEER. -/
def progPcmd (link n : Nat) (arg : Word) : Prog :=
  onLink link (ask fun s =>
    if s.flg (if link = 0 then F.PEER_CFG_PCMD_E else F.PEER_CFG_PCMD_W) then
      seqs [setR (R.PEER_PARG n) arg, offer n 10, raise 206]
    else count F.PEER_CNT_PCMD_IGN)

/-- An acknowledgement goes back (Table 13.8): the highest frame received in order, and a code. -/
def hoffAck (link code : Nat) : Prog :=
  ask fun s =>
    sendFrame link (natLE 1 0x11 ++ natLE 1 0 ++ natLE 2 ((s.dev.peer.rxNext + 65535) % 65536) ++ natLE 1 code ++ natLE 3 0)

/-- The bytes lie in the hand-off area, and `HOFF_RX` is 1 (R458). -/
def State.hoffOpen (s : State) (ofs n : Nat) : Bool := s.flg F.PEER_CFG_HOFF_RX && 0x8000 ≤ ofs && ofs + n ≤ 0x10000

/-- A HOFF_DATA frame: the next in order is written as the PEER master. Frame 0 starts a transfer. Any other frame is
acknowledged with what has come in order. A frame that may not be written is refused, in order or not. -/
def progHoffData (link seq ofs : Nat) (data : List Byte) : Prog :=
  onLink link (on (fun s => s.issues .peer) (ask fun s =>
    if s.frozen 5 then hoffAck link 1
    else if !s.hoffOpen ofs data.length then hoffAck link 2
    else if seq = 0 || seq = s.dev.peer.rxNext then
      judged .peer (retBase + ofs) data.length true 0
        (seqs [modPeer fun p => { p with rxNext := (seq + 1) % 65536 },
          writeBytes (retBase + ofs) data fun st _ => hoffAck link (if st = 0 then 0 else 2)])
        fun _ _ => hoffAck link 1
    else hoffAck link 0))

/-- A HOFF_ACK frame. -/
def progHoffAcked (link seq code : Nat) : Prog := onLink link (progHoffAck link seq code)

end Sys2Proof.Machine
end

