-- ==== Sys2Proof/Machine/ExecPort.lean ====
section
/-!
DEFINITION. Commands of the line port, the peer links and the service port (spec/13_ports.md). Each meaning runs its program of effects on the state.
-/
namespace Sys2Proof.Machine

/-- `LINE_PHY_SEARCH_TIMEOUT` (R435). -/
def execLinePhySearchTimeout (s : State) : Host.Outcome State Fault Refusal :=
  effect (progPhySearch) s

/-- `LINE_LINK_UP` (R435). -/
def execLineLinkUp (s : State) : Host.Outcome State Fault Refusal :=
  effect (progLinkUp) s

/-- `LINE_LINK_DOWN` (R435). -/
def execLineLinkDown (s : State) : Host.Outcome State Fault Refusal :=
  effect (progLinkDown) s

/-- `LINE_FRAME_DROPPED` (R434). -/
def execLineFrameDropped (s : State) : Host.Outcome State Fault Refusal :=
  effect (progFrameDropped) s

/-- `ARP_REQUEST` (R434). -/
def execArpRequest (mac : BitVec 48) (ip : BitVec 32) (target : BitVec 32) (s : State) : Host.Outcome State Fault Refusal :=
  effect (progArpRequest mac.toNat ip.toNat target.toNat) s

/-- `ECHO_REQUEST` (R434). -/
def execEchoRequest (v6 : Bool) (src : BitVec 128) (body : List Byte) (s : State) : Host.Outcome State Fault Refusal :=
  effect (progEcho v6 src.toNat body) s

/-- `NEIGHBOUR_SOLICITATION` (R434). -/
def execNeighbourSolicitation (src : BitVec 128) (target : BitVec 128) (mac : Option (BitVec 48))
    (s : State) : Host.Outcome State Fault Refusal :=
  effect (progNeighbourSolicitation src.toNat target.toNat (mac.map BitVec.toNat)) s

/-- `HLP_DROPPED_MESSAGE` (R437). -/
def execHlpDroppedMessage (m : RawMsg) (s : State) : Host.Outcome State Fault Refusal :=
  effect (progHlpDropped m.svc m.bytes) s

/-- `OPEN` (R439). -/
def execHlpOpen (svc : Bool) (src : Source) (m : HlpMsg) (s : State) : Host.Outcome State Fault Refusal :=
  effect (progOpen svc src m) s

/-- `CLOSE` (R439). -/
def execHlpClose (svc : Bool) (src : Source) (m : HlpMsg) (s : State) : Host.Outcome State Fault Refusal :=
  effect (receive svc src 0x02 none m) s

/-- `READ` (R446). -/
def execHlpRead (svc : Bool) (src : Source) (m : HlpMsg) (s : State) : Host.Outcome State Fault Refusal :=
  effect (receive svc src 0x03 none m) s

/-- `WRITE` (R446). -/
def execHlpWrite (svc : Bool) (src : Source) (m : HlpMsg) (clash : Option (Nat × List (Fin 8)))
    (s : State) : Host.Outcome State Fault Refusal :=
  effect (receive svc src 0x04 clash m) s

/-- `CMD` (R447). -/
def execHlpCmd (svc : Bool) (src : Source) (m : HlpMsg) (s : State) : Host.Outcome State Fault Refusal :=
  effect (receive svc src 0x05 none m) s

/-- `CLAIM` (R452). -/
def execHlpClaim (svc : Bool) (src : Source) (m : HlpMsg) (s : State) : Host.Outcome State Fault Refusal :=
  effect (receive svc src 0x06 none m) s

/-- `COMPLETE` (R452). -/
def execHlpComplete (svc : Bool) (src : Source) (m : HlpMsg) (s : State) : Host.Outcome State Fault Refusal :=
  effect (receive svc src 0x07 none m) s

/-- `RESET` (R447). -/
def execHlpReset (svc : Bool) (src : Source) (m : HlpMsg) (s : State) : Host.Outcome State Fault Refusal :=
  effect (receive svc src 0x08 none m) s

/-- `HLP_RESERVED_TYPE` (R438). -/
def execHlpReservedType (svc : Bool) (src : Source) (typ : Byte) (m : HlpMsg)
    (s : State) : Host.Outcome State Fault Refusal :=
  effect (receive svc src typ.toNat none m) s

/-- `HLP_SEQ_EXPIRE` (R444). -/
def execHlpSeqExpire (svc : Bool) (i : Fin 8) (s : State) : Host.Outcome State Fault Refusal :=
  effect (progExpire svc i) s

/-- `NOTICE` (R450). -/
def execNotice (svc : Bool) (s : State) : Host.Outcome State Fault Refusal :=
  effect (progNotice svc) s

/-- `REC` (R451). -/
def execRec (r : Fin 4096) (s : State) : Host.Outcome State Fault Refusal :=
  effect (progRec r) s

/-- `DEVICE_REQUEST_ACK` (R448). -/
def execDeviceRequestAck (svc : Bool) (i : Fin 8) (seq : BitVec 32) (status : BitVec 16)
    (s : State) : Host.Outcome State Fault Refusal :=
  effect (progAck svc i seq.toNat status.toNat) s

/-- `DEVICE_REQUEST_RETRANSMIT` (R448). -/
def execDeviceRequestRetransmit (svc : Bool) (i : Fin 8) (seq : BitVec 32) (s : State) : Host.Outcome State Fault Refusal :=
  effect (progRetransmit svc i seq.toNat) s

/-- `DEVICE_REQUEST_TIMEOUT` (R448). -/
def execDeviceRequestTimeout (svc : Bool) (i : Fin 8) (seq : BitVec 32) (s : State) : Host.Outcome State Fault Refusal :=
  effect (progReqTimeout svc i seq.toNat) s

/-- `PEER_SYNC_CHANGE` (R454). -/
def execPeerSyncChange (link : Fin 2) (up : Bool) (s : State) : Host.Outcome State Fault Refusal :=
  effect (progPeerSync link up) s

/-- `PEER_FRAME_DISCARD` (R455). -/
def execPeerFrameDiscard (link : Fin 2) (reserved : Bool) (s : State) : Host.Outcome State Fault Refusal :=
  effect (progPeerDiscard link reserved) s

/-- `SQUALL_FRAME` (R335). -/
def execSquallFrame (link : Fin 2) (w : Word) (s : State) : Host.Outcome State Fault Refusal :=
  effect (progSquallFrame link w.toNat) s

/-- `PCMD` (R457). -/
def execPcmd (link : Fin 2) (n : Fin 64) (arg : Word) (s : State) : Host.Outcome State Fault Refusal :=
  effect (progPcmd link n arg) s

/-- `HOFF_DATA` (R458). -/
def execHoffData (link : Fin 2) (seq : BitVec 16) (ofs : Word) (data : List Byte)
    (s : State) : Host.Outcome State Fault Refusal :=
  effect (progHoffData link seq.toNat ofs.toNat data) s

/-- `HOFF_ACK` (R458). -/
def execHoffAck (link : Fin 2) (seq : BitVec 16) (code : Byte) (s : State) : Host.Outcome State Fault Refusal :=
  effect (progHoffAcked link seq.toNat code.toNat) s

/-- `HANDOFF_SEND` (R458). -/
def execHandoffSend (p : Port) (link : Fin 2) (ofs : BitVec 16) (s : State) : Host.Outcome State Fault Refusal :=
  effect
    (regWrite p R.PEER_HTX (fieldWord F.PEER_HTX_GO 1 ||| fieldWord F.PEER_HTX_LINK link ||| fieldWord F.PEER_HTX_OFS ofs.toNat))
    s

/-- `HANDOFF_RETRANSMIT` (R458). -/
def execHandoffRetransmit (s : State) : Host.Outcome State Fault Refusal :=
  effect (awake (progHandoffRetransmit)) s

/-- `HANDOFF_TIMEOUT` (R458). -/
def execHandoffTimeout (s : State) : Host.Outcome State Fault Refusal :=
  effect (awake (progHandoffTimeout)) s

/-- `JTAG_INSTRUCTION_LOAD` (R460). -/
def execJtagInstructionLoad (code : Byte) (s : State) : Host.Outcome State Fault Refusal :=
  effect (awake (progJtagLoad code.toNat)) s

/-- `JTAG_BOUNDARY_INSTRUCTION` (R462). -/
def execJtagBoundaryInstruction (c : Boundary) (s : State) : Host.Outcome State Fault Refusal :=
  effect (awake (progBoundary (boundaryCode c))) s

/-- `SVCADDR` (R461). -/
def execSvcaddr (w : BitVec 44) (s : State) : Host.Outcome State Fault Refusal :=
  effect (awake (progSvcaddr w)) s

/-- `SVCDATA` (R461). -/
def execSvcdata (w : RivalWord) (s : State) : Host.Outcome State Fault Refusal :=
  effect (awake (progSvcdata w)) s

/-- `SVCDATA_CAPTURE` (R461). -/
def execSvcdataCapture (s : State) : Host.Outcome State Fault Refusal :=
  effect (awake (progSvcCapture)) s

/-- `SVC_ACCESS_COMPLETE` (R461). -/
def execSvcAccessComplete (s : State) : Host.Outcome State Fault Refusal :=
  effect (awake (progSvcComplete)) s

/-- `SLIP_FRAME_DROPPED` (R459). -/
def execSlipFrameDropped (s : State) : Host.Outcome State Fault Refusal :=
  effect (progSlipDropped) s

/-- `TAP_RESET` (R460). -/
def execTapReset (s : State) : Host.Outcome State Fault Refusal :=
  effect (awake (progTapReset)) s

/-- `ARP_REPLY` (R434). -/
def execArpReply (mac : BitVec 48) (ip : BitVec 32) (s : State) : Host.Outcome State Fault Refusal :=
  effect (progArpReply mac.toNat ip.toNat) s

/-- `NEIGHBOUR_ADVERTISEMENT` (R434). -/
def execNeighbourAdvertisement (addr : BitVec 128) (mac : BitVec 48) (s : State) : Host.Outcome State Fault Refusal :=
  effect (progNeighbourAdvertisement addr.toNat mac.toNat) s

end Sys2Proof.Machine
end

