-- ==== Sys2Proof/Machine/ExecReset.lean ====
section
/-!
DEFINITION. Commands of resets and power states (spec/15_reset_power.md). Each meaning runs its program of effects on the state.
-/
namespace Sys2Proof.Machine

/-- `POR` (R491). -/
def execPor (s : State) : Host.Outcome State Fault Refusal :=
  effect (progPor) s

/-- `POR_ALWAYS_ON_RELEASE` (R491). -/
def execPorAlwaysOnRelease (testMode : Bool) (s : State) : Host.Outcome State Fault Refusal :=
  effect (progPorAlwaysOn testMode) s

/-- `POR_MEMORY_CLEAR` (R491). -/
def execPorMemoryClear (s : State) : Host.Outcome State Fault Refusal :=
  effect (progPorMemoryClear) s

/-- `RESET_N_FALL` (R489). -/
def execResetNFall (s : State) : Host.Outcome State Fault Refusal :=
  effect (progResetNFall) s

/-- `RESET_N_RISE` (R492). -/
def execResetNRise (s : State) : Host.Outcome State Fault Refusal :=
  effect (progResetNRise) s

/-- `RAIL_DROP` (R544). -/
def execRailDrop (vaon : Bool) (s : State) : Host.Outcome State Fault Refusal :=
  effect (progRailDrop vaon) s

/-- `PIN` (R492). -/
def execPin (s : State) : Host.Outcome State Fault Refusal :=
  effect (progPin) s

/-- `WDOG` (R496). -/
def execWdog (s : State) : Host.Outcome State Fault Refusal :=
  effect (awake (progWdog)) s

/-- `PORT` (R493). -/
def execPort (s : State) : Host.Outcome State Fault Refusal :=
  effect (progPort) s

/-- `WARM_RESET_APPLY` (R492). -/
def execWarmResetApply (s : State) : Host.Outcome State Fault Refusal :=
  effect (progWarmApply) s

/-- `WARM_RESET_RELEASE` (R492). -/
def execWarmResetRelease (s : State) : Host.Outcome State Fault Refusal :=
  effect (progWarmRelease) s

/-- `CORE` (R494). -/
def execCore (p : Port) (k : Fin 128) (s : State) : Host.Outcome State Fault Refusal :=
  effect (regWrite p R.PWR_CORERST (fieldWord F.PWR_CORERST_GO 1 ||| fieldWord F.PWR_CORERST_CORE k)) s

/-- `WDKICK` (R496). -/
def execWdkick (p : Port) (key : Byte) (s : State) : Host.Outcome State Fault Refusal :=
  effect (regWrite p R.PWR_WDKICK (key.setWidth 32)) s

/-- `WDWARN` (R496). -/
def execWdwarn (s : State) : Host.Outcome State Fault Refusal :=
  effect (awake (progWdwarn)) s

/-- `PARK_SET` (R497). -/
def execParkSet (p : Port) (i : Fin 2) (w : Word) (s : State) : Host.Outcome State Fault Refusal :=
  effect (busWrite p (setAlias (R.PWR_PARK i)) w) s

/-- `PARK_CLEAR` (R497). -/
def execParkClear (p : Port) (i : Fin 2) (w : Word) (s : State) : Host.Outcome State Fault Refusal :=
  effect (busWrite p (clearAlias (R.PWR_PARK i)) w) s

/-- `UNPARK_SETTLED` (R497). -/
def execUnparkSettled (n : Fin 64) (s : State) : Host.Outcome State Fault Refusal :=
  effect (awake (progUnparkSettled n)) s

/-- `RUN` (R498). -/
def execRun (p : Port) (s : State) : Host.Outcome State Fault Refusal :=
  effect (regWrite p R.PWR_CTL 1) s

/-- `STANDBY` (R498). -/
def execStandby (p : Port) (s : State) : Host.Outcome State Fault Refusal :=
  effect (regWrite p R.PWR_CTL 2) s

/-- `STANDBY_ENTERED` (R498). -/
def execStandbyEntered (s : State) : Host.Outcome State Fault Refusal :=
  effect (awake (progStandbyEntered)) s

/-- `HIBERNATE` (R499). -/
def execHibernate (p : Port) (s : State) : Host.Outcome State Fault Refusal :=
  effect (regWrite p R.PWR_CTL 3) s

/-- `HIBERNATE_PACKET_STOP` (R500). -/
def execHibernatePacketStop (s : State) : Host.Outcome State Fault Refusal :=
  effect (progHibernatePacketStop) s

/-- `HIBERNATE_ENTERED` (R500). -/
def execHibernateEntered (s : State) : Host.Outcome State Fault Refusal :=
  effect (progHibernateEntered) s

/-- `HIBERNATE_WAKE` (R501). -/
def execHibernateWake (c : WakeCause) (ms : Nat) (s : State) : Host.Outcome State Fault Refusal :=
  effect (progHibernateWake c ms) s

/-- `WAKE_RAILS_READY` (R501). -/
def execWakeRailsReady (s : State) : Host.Outcome State Fault Refusal :=
  effect (progWakeRails) s

/-- `HIBWAKE` (R501). -/
def execHibwake (s : State) : Host.Outcome State Fault Refusal :=
  effect (progHibwake) s

end Sys2Proof.Machine
end

