-- ==== Sys2Proof/Machine/ExecSeq.lean ====
section
/-!
DEFINITION. Commands of step programs and channel commands (spec/08_step_programs.md). Each meaning runs its program of effects on the state.
-/
namespace Sys2Proof.Machine

/-- `NOP` (R264). -/
def execNop (n : Fin 64) (s : State) : Host.Outcome State Fault Refusal :=
  effect (awake (progNop n)) s

/-- `HALT` (R280). -/
def execHalt (n : Fin 64) (s : State) : Host.Outcome State Fault Refusal :=
  effect (awake (progHalt n)) s

/-- `CALM` (R279). -/
def execCalm (n : Fin 64) (s : State) : Host.Outcome State Fault Refusal :=
  effect (awake (progCalm n)) s

/-- `JUMP` (R270). -/
def execJump (n : Fin 64) (s : State) : Host.Outcome State Fault Refusal :=
  effect (awake (progJump n)) s

/-- `CALL` (R269). -/
def execCall (n : Fin 64) (s : State) : Host.Outcome State Fault Refusal :=
  effect (awake (progCall n)) s

/-- `RET` (R269). -/
def execRet (n : Fin 64) (s : State) : Host.Outcome State Fault Refusal :=
  effect (awake (progRet n)) s

/-- `LOOP` (R267). -/
def execLoop (n : Fin 64) (s : State) : Host.Outcome State Fault Refusal :=
  effect (awake (progLoop n)) s

/-- `ENDL` (R268). -/
def execEndl (n : Fin 64) (s : State) : Host.Outcome State Fault Refusal :=
  effect (awake (progEndl n)) s

/-- `DISPATCH` (R278). -/
def execDispatch (n : Fin 64) (s : State) : Host.Outcome State Fault Refusal :=
  effect (awake (progDispatch n)) s

/-- `PLAY` (R271). -/
def execPlay (n : Fin 64) (s : State) : Host.Outcome State Fault Refusal :=
  effect (awake (progPlay n)) s

/-- `PLAY_END` (R271). -/
def execPlayEnd (n : Fin 64) (s : State) : Host.Outcome State Fault Refusal :=
  effect (awake (progPlayEnd n)) s

/-- `WAITLT` (R273). -/
def execWaitlt (n : Fin 64) (s : State) : Host.Outcome State Fault Refusal :=
  effect (awake (progWaitlt n)) s

/-- `WAITLT_END` (R273). -/
def execWaitltEnd (n : Fin 64) (s : State) : Host.Outcome State Fault Refusal :=
  effect (awake (progWaitltEnd n)) s

/-- `WAITEV` (R274). -/
def execWaitev (n : Fin 64) (s : State) : Host.Outcome State Fault Refusal :=
  effect (awake (progWaitev n)) s

/-- `WAITEV_END` (R274). -/
def execWaitevEnd (n : Fin 64) (s : State) : Host.Outcome State Fault Refusal :=
  effect (awake (progWaitevEnd n)) s

/-- `SETLIM` (R275). -/
def execSetlim (n : Fin 64) (s : State) : Host.Outcome State Fault Refusal :=
  effect (awake (progSetlim n)) s

/-- `SETFMT` (R275). -/
def execSetfmt (n : Fin 64) (s : State) : Host.Outcome State Fault Refusal :=
  effect (awake (progSetfmt n)) s

/-- `MARK` (R276). -/
def execMark (n : Fin 64) (s : State) : Host.Outcome State Fault Refusal :=
  effect (awake (progMark n)) s

/-- `ARMCAP` (R277). -/
def execArmcap (n : Fin 64) (s : State) : Host.Outcome State Fault Refusal :=
  effect (awake (progArmcap n)) s

/-- `ILLOP` (R264). -/
def execIllop (n : Fin 64) (s : State) : Host.Outcome State Fault Refusal :=
  effect (awake (progIllop n)) s

/-- `EVENT_OFFER` (R282). -/
def execEventOffer (n : Fin 64) (s : State) : Host.Outcome State Fault Refusal :=
  effect (awake (progEventOffer n)) s

/-- `EVENT_JUMP_ACTION` (R285). -/
def execEventJumpAction (n : Fin 64) (s : State) : Host.Outcome State Fault Refusal :=
  effect (awake (jumpAction n false)) s

/-- `EVENT_CALL_ACTION` (R285). -/
def execEventCallAction (n : Fin 64) (s : State) : Host.Outcome State Fault Refusal :=
  effect (awake (jumpAction n true)) s

/-- `LT_ALARM` (R284). -/
def execLtAlarm (n : Fin 64) (s : State) : Host.Outcome State Fault Refusal :=
  effect (awake (progLtAlarm n)) s

/-- `START` (R292). -/
def execStart (p : Port) (n : Fin 64) (arg : BitVec 21) (s : State) : Host.Outcome State Fault Refusal :=
  effect (channelCommand p n 1 arg.toNat) s

/-- `RESUME` (R292). -/
def execResume (p : Port) (n : Fin 64) (s : State) : Host.Outcome State Fault Refusal :=
  effect (channelCommand p n 2 0) s

/-- `STOP` (R292). -/
def execStop (p : Port) (n : Fin 64) (s : State) : Host.Outcome State Fault Refusal :=
  effect (channelCommand p n 3 0) s

/-- `JUMP_COMMAND` (R292). -/
def execJumpCommand (p : Port) (n : Fin 64) (arg : BitVec 21) (s : State) : Host.Outcome State Fault Refusal :=
  effect (channelCommand p n 4 arg.toNat) s

/-- `OFFER` (R292). -/
def execOffer (p : Port) (n : Fin 64) (arg : BitVec 21) (s : State) : Host.Outcome State Fault Refusal :=
  effect (channelCommand p n 5 arg.toNat) s

/-- `RESERVED_COMMAND` (R292). -/
def execReservedCommand (p : Port) (n : Fin 64) (cmd : Fin 16) (arg : BitVec 21)
    (s : State) : Host.Outcome State Fault Refusal :=
  effect (channelCommand p n cmd arg.toNat) s

end Sys2Proof.Machine
end

