-- ==== Sys2Proof/Machine/HostIo.lean ====
section
/-!
DEFINITION. What the storage engine does in memory for others: HOST requests as they are taken, and the tag aperture through which the drive
reaches the buffers (spec/10_rings_storage.md, R354 to R358).
-/
namespace Sys2Proof.Machine

/-! ## HOST requests (R354 to R356) -/

/-- The blocks of an area, and where it starts in the volume; none where it is not in use (Table 10.5). -/
def areaOf (v : Volume) (area reg : Nat) : Option (Nat × Nat) :=
  match area with
  | 0 => some (v.lstart, v.llen)
  | 1 => match v.regions[reg]? with
    | some g => if g.mode = 0 then none else some (g.start, g.len)
    | none => none
  | _ => some (0, v.vblk)

/-- The port whose authority a master's doorbell carries (R429). -/
def masterPort (m : Nat) : Port :=
  match m with
  | 1 => .mp0 | 2 => .mp1 | 3 => .service | 4 => .line | _ => .peer

/-- The authority of master `m` lets it write (`wr`) or read each of the `len` blocks of a buffer at `a` (R424, Table 13.2). -/
def State.bufferOpen (s : State) (m a len : Nat) (wr : Bool) : Bool :=
  (List.range len).all fun i => (if wr then 2 else 1) ≤ (s.accessRow (a + 4096 * i) 4096 wr 0).of (masterPort m)

/-- The engine takes the head HOST entry of ring `r` and judges it (R356), on behalf of the master whose doorbell added it (R426). DEDUCED
(see notes/assumptions/118.md): a buffer outside its authority completes with WINDOW, as one outside its windows does. -/
def progHostEntryTake (r : Nat) : Prog :=
  ask fun s =>
    let q := s.ring r
    if !q.on || q.stopping || q.typ ≠ 5 || q.taken = q.pi || s.storSt = 5 || s.fld F.PWR_STATE_ST = 3 then .done
    else
      let x := q.taken
      let e := q.entry x
      let op := s.num e 1
      let area := s.num (e + 1) 1
      let reg := s.num (e + 2) 1
      let len := s.num (e + 4) 4
      let blk := s.num (e + 8) 8
      let adr := s.num (e + 16) 8
      let m := q.ringer x
      let bad := s.badWord e 32 || 3 ≤ op || 3 ≤ area || s.num (e + 3) 1 ≠ 0 || adr % 4096 ≠ 0 || 2 ^ 40 ≤ adr
        || (area = 1 && op = 1) || (area = 2 && !(m = 1 || m = 2 || m = 3))
      let finish (st : Nat) := completeEntry r ⟨x, st, 0, 0, 0⟩
      let place := match s.dev.stor.vol with | some v => areaOf v area reg | none => none
      (modRing r Ring.takeNext).seq
        ((eccRead e 32).seq
          (if bad then finish 9
          else if op = 2 then
            if !s.storReady then finish 5
            else startWork (hostWork r x [{ op := .flush, blk := 0, n := 0, buf := 0 }])
          else if 65536 < len then finish 7
          else if len = 0 then finish 1
          else if !s.storReady then finish 5
          else
            match place with
            | none => finish 6
            | some (base, size) =>
              if size < blk + len then finish 6
              else if mapped adr (len * 4096) && !s.bufferOpen m adr len (op = 0) then
                seqs [violation m adr (op = 0) true, finish 8]
              else if !s.inWindow m adr (len * 4096) (op = 0) then seqs [violation m adr (op = 0) false, finish 8]
              else startWork (hostWork r x (splitCmds (if op = 0 then .read else .write) (base + blk) len adr 2048))))

/-! ## The tag aperture (R358) -/

/-- The tag and the offset of an inbound bus address, if it lies in the aperture. -/
def apertureTag (a : Nat) : Option (Nat × Nat) :=
  if 0x1000000000 ≤ a && a < 0x1000000000 + 2048 * 0x20000 then
    some ((a - 0x1000000000) / 0x20000, (a - 0x1000000000) % 0x20000) else none

/-- The live command that holds a tag. -/
def State.liveCmd (s : State) (t : Nat) : Option (Work × Cmd) :=
  match s.dev.stor.tags.find? fun e => e.1 = t with
  | some (_, g) =>
    if g.zombie then none
    else match s.workOf g.ring g.idx with
      | some w => (w.cmds[g.cmd]?).map fun c => (w, c)
      | none => none
  | none => none

/-- Data of a read command reach memory address `a` (R358): segment memory as a write of any master does (R229), the channel blocks of the
retention RAM and what accepts no write not at all (R504), the control store only before the lock (R430). -/
def bufferWrite (a : Nat) (bs : List Byte) : Prog :=
  ask fun s => when (!(s.dev.bus.locked && s.lockedPlace a)) (writeBytes a bs fun _ _ => .done)

/-- A range of a string of bytes is replaced; what lies beyond its end is left out. -/
def splice (l : List Byte) (o : Nat) (bs : List Byte) : List Byte :=
  (l.take o ++ List.replicate (o - l.length) 0 ++ bs ++ l.drop (o + bs.length)).take (max l.length 4096)

/-- The drive writes bytes to bus address `a`, or reads `n` bytes from it (R358): the window of a tag in use leads to its command's buffer,
in memory or in the engine. A refill's data beyond its slot is discarded (R252). -/
def progApertureInbound (wr : Bool) (a n : Nat) (bytes : List Byte) : Prog :=
  ask fun s =>
    match (apertureTag a).bind fun x => (s.liveCmd x.1).bind fun y => if y.2.op = .flush then none else some (x.2, y) with
    | none =>
      if wr then count F.STOR_CNT_B_APDROP else modStor fun t => { t with apertureRead := none }
    | some (o, w, c) =>
      let inMem := w.kind = .host || w.kind = .refill
      if wr then
        match w.kind with
        | .host => bufferWrite (c.buf + o) (bytes.take (c.n * 4096 - o))
        | .refill =>
          let room := s.slotAddr w.core w.slot + 32 + 128 * s.fld (F.PLAY_SLOT_CAP w.core w.slot) - (c.buf + o)
          dpWrite (c.buf + o) (bytes.take room)
        | _ => modWork w.ring w.idx fun w => { w with data := splice w.data o bytes }
      else
        seqs [
          when inMem (eccRead (c.buf + o) n),
          modStor fun t => { t with
            apertureRead := some (if inMem then s.bytes (c.buf + o) n else (w.data.drop o).take n) }]

end Sys2Proof.Machine
end

