-- ==== Sys2Proof/Machine/ExecStore.lean ====
section
/-!
DEFINITION. Commands of rings and of the storage engine (spec/10_rings_storage.md). Each meaning runs its program of effects on the state.
-/
namespace Sys2Proof.Machine

/-- `RING_ENABLE` (R347). -/
def execRingEnable (p : Port) (r : Fin 4096) (s : State) : Host.Outcome State Fault Refusal :=
  effect (regWrite p R.RING_CTL (fieldWord F.RING_CTL_OP 1 ||| fieldWord F.RING_CTL_RING r)) s

/-- `RING_DISABLE` (R351). -/
def execRingDisable (p : Port) (r : Fin 4096) (s : State) : Host.Outcome State Fault Refusal :=
  effect (regWrite p R.RING_CTL (fieldWord F.RING_CTL_OP 2 ||| fieldWord F.RING_CTL_RING r)) s

/-- `RING_DISABLE_DONE` (R351). -/
def execRingDisableDone (r : Fin 4096) (s : State) : Host.Outcome State Fault Refusal :=
  effect (awake (seqs [progRingDisableDone r, spillUpdate])) s

/-- `RING_DB` (R348). -/
def execRingDb (p : Port) (r : Fin 4096) (idx : BitVec 20) (s : State) : Host.Outcome State Fault Refusal :=
  effect (regWrite p R.RING_DB (fieldWord F.RING_DB_RING r ||| fieldWord F.RING_DB_IDX idx.toNat)) s

/-- `RING_DBC` (R348). -/
def execRingDbc (p : Port) (r : Fin 4096) (idx : BitVec 20) (s : State) : Host.Outcome State Fault Refusal :=
  effect (regWrite p R.RING_DBC (fieldWord F.RING_DBC_RING r ||| fieldWord F.RING_DBC_IDX idx.toNat)) s

/-- `HOST_ENTRY_TAKE` (R356). -/
def execHostEntryTake (r : Fin 4096) (s : State) : Host.Outcome State Fault Refusal :=
  effect (awake (progHostEntryTake r)) s

/-- `TAG_ISSUE` (R363). -/
def execTagIssue (t : Fin 2048) (s : State) : Host.Outcome State Fault Refusal :=
  effect (awake (progTagIssue t)) s

/-- `NVME_COMPLETION` (R367). -/
def execNvmeCompletion (c : Posted) (sct : BitVec 3) (sc : Byte) (dnr : Bool)
    (s : State) : Host.Outcome State Fault Refusal :=
  effect (awake (drivePosts c sct.toNat sc.toNat dnr refillFail)) s

/-- `COMMAND_TIMEOUT` (R367). -/
def execCommandTimeout (t : Fin 2048) (s : State) : Host.Outcome State Fault Refusal :=
  effect (awake (commandTimeout t refillFail)) s

/-- `BACKOFF_END` (R367). -/
def execBackoffEnd (r : Nat) (x : Nat) (c : Nat) (s : State) : Host.Outcome State Fault Refusal :=
  effect (awake (progBackoffEnd r x c)) s

/-- `ENTRY_TIMEOUT` (R368). -/
def execEntryTimeout (r : Fin 4096) (x : TimedEntry) (s : State) : Host.Outcome State Fault Refusal :=
  effect (awake (entryTimeout r x refillFail)) s

/-- `ZOMBIE_TIMEOUT` (R365). -/
def execZombieTimeout (t : Fin 2048) (s : State) : Host.Outcome State Fault Refusal :=
  effect (awake (progZombieTimeout t)) s

/-- `RECORD_BLOCK_WRITE` (R373). -/
def execRecordBlockWrite (r : Fin 4096) (s : State) : Host.Outcome State Fault Refusal :=
  effect (awake (progRecordBlockWrite r)) s

/-- `PARTIAL_BLOCK_FLUSH` (R373). -/
def execPartialBlockFlush (r : Fin 4096) (s : State) : Host.Outcome State Fault Refusal :=
  effect (awake (progPartialBlockFlush r)) s

/-- `JOURNAL_FLUSH` (R374). -/
def execJournalFlush (s : State) : Host.Outcome State Fault Refusal :=
  effect (awake (progJournalFlush)) s

/-- `APERTURE_INBOUND` (R358). -/
def execApertureInbound (wr : Bool) (a : BitVec 64) (len : Nat) (bytes : List Byte)
    (s : State) : Host.Outcome State Fault Refusal :=
  effect (awake (progApertureInbound wr a.toNat len bytes)) s

/-- `STOR_RETRY_WRITE` (R366). -/
def execStorRetryWrite (p : Port) (w : Word) (s : State) : Host.Outcome State Fault Refusal :=
  effect (regWrite p R.STOR_RETRY w) s

/-- `ATTACH` (R361). -/
def execAttach (p : Port) (s : State) : Host.Outcome State Fault Refusal :=
  effect (regWrite p R.STOR_CTL 1) s

/-- `DRIVE_PRESENT` (R361). -/
def execDrivePresent (s : State) : Host.Outcome State Fault Refusal :=
  effect (awake (progDrivePresent)) s

/-- `PERST_RELEASE` (R361). -/
def execPerstRelease (s : State) : Host.Outcome State Fault Refusal :=
  effect (awake (progPerstRelease)) s

/-- `PCIE_LINK_UP` (R361). -/
def execPcieLinkUp (width : BitVec 4) (speed : BitVec 4) (s : State) : Host.Outcome State Fault Refusal :=
  effect (awake (progPcieLinkUp width.toNat speed.toNat)) s

/-- `PCIE_LINK_TIMEOUT` (R361). -/
def execPcieLinkTimeout (s : State) : Host.Outcome State Fault Refusal :=
  effect (awake (progPcieLinkTimeout)) s

/-- `CONTROLLER_INIT_DONE` (R360). -/
def execControllerInitDone (ver : Nat) (pairs : Nat) (mqes : Nat) (mdts : Nat) (size : Nat) (msize : Nat) (lbas : Nat) (cache : Bool)
    (s : State) : Host.Outcome State Fault Refusal :=
  effect (awake (progControllerInitDone ver pairs mqes mdts size msize lbas cache)) s

/-- `SUPERBLOCK_READ_DONE` (R370). -/
def execSuperblockReadDone (a : List Byte) (b : List Byte) (blocks : List ReadBlock) (journal : List ReadBlock)
    (s : State) : Host.Outcome State Fault Refusal :=
  effect (awake (progSuperblockReadDone a b blocks journal)) s

/-- `DETACH` (R378). -/
def execDetach (p : Port) (s : State) : Host.Outcome State Fault Refusal :=
  effect (regWrite p R.STOR_CTL 2) s

/-- `DETACH_COMPLETE` (R378). -/
def execDetachComplete (s : State) : Host.Outcome State Fault Refusal :=
  effect (awake (progDetachComplete)) s

/-- `FORMAT` (R376). -/
def execFormat (p : Port) (s : State) : Host.Outcome State Fault Refusal :=
  effect (regWrite p R.STOR_CTL 3) s

/-- `FORMAT_COMPLETE` (R376). -/
def execFormatComplete (s : State) : Host.Outcome State Fault Refusal :=
  effect (awake (progFormatComplete)) s

/-- `CONTROLLER_RESET` (R365). -/
def execControllerReset (p : Port) (s : State) : Host.Outcome State Fault Refusal :=
  effect (regWrite p R.STOR_CTL 4) s

/-- `DRIVE_LOST` (R379). -/
def execDriveLost (s : State) : Host.Outcome State Fault Refusal :=
  effect (awake (driveLost refillFail)) s

/-- `PCIE_ERROR` (R367). -/
def execPcieError (t : Fin 2048) (s : State) : Host.Outcome State Fault Refusal :=
  effect (awake (pcieError t refillFail)) s

/-- `CONTROLLER_FATAL_STATUS` (R360). -/
def execControllerFatalStatus (s : State) : Host.Outcome State Fault Refusal :=
  effect (awake (progControllerFatalStatus)) s

end Sys2Proof.Machine
end

