-- ==== Sys2Proof/Machine/ExecTime.lean ====
section
/-!
DEFINITION. Commands of Line Time and the lock machine (spec/02_line_time.md). Each meaning runs its program of effects on the state.
-/
namespace Sys2Proof.Machine

/-- `PRESENCE_WINDOW` (R52). -/
def execPresenceWindow (edges : Nat) (s : State) : Host.Outcome State Fault Refusal :=
  effect (awake (progPresenceWindow edges)) s

/-- `MISSING_EDGE` (R53). -/
def execMissingEdge (s : State) : Host.Outcome State Fault Refusal :=
  effect (awake (progMissingEdge)) s

/-- `CAL_DONE` (R54). -/
def execCalDone (s : State) : Host.Outcome State Fault Refusal :=
  effect (awake (progCalDone)) s

/-- `LOCK_WINDOW` (R54). -/
def execLockWindow (cycles : Nat) (backup : Nat) (phase : BitVec 16) (s : State) : Host.Outcome State Fault Refusal :=
  effect (awake (progLockWindow cycles backup phase)) s

/-- `TRACKING_LIMIT` (R56). -/
def execTrackingLimit (s : State) : Host.Outcome State Fault Refusal :=
  effect (awake (progTrackingLimit)) s

/-- `LOST_HOLD_END` (R54). -/
def execLostHoldEnd (s : State) : Host.Outcome State Fault Refusal :=
  effect (awake (progLostHoldEnd)) s

/-- `HOLDOVER_FREEZE` (R75). -/
def execHoldoverFreeze (s : State) : Host.Outcome State Fault Refusal :=
  effect (awake (progHoldoverFreeze)) s

/-- `SYNCIN_BEAT` (R59). -/
def execSyncinBeat (s : State) : Host.Outcome State Fault Refusal :=
  effect (awake (progSyncinBeat)) s

/-- `BEAT` (R67). -/
def execBeat (sync : Bool) (s : State) : Host.Outcome State Fault Refusal :=
  effect (awake (progBeat sync)) s

/-- `EPOCHIN_FRAME` (R63). -/
def execEpochinFrame (clean : Bool) (pre head : BitVec 16) (beat : BitVec 64) (crc : BitVec 16) (gap : Nat) (s : State) :
    Host.Outcome State Fault Refusal :=
  effect (awake (progEpochinFrame clean (frameBits pre head beat crc) gap)) s

/-- `REALIGN` (R69). -/
def execRealign (p : Port) (s : State) : Host.Outcome State Fault Refusal :=
  effect (fieldWrite p F.LT_CTL_REALIGN 1) s

/-- `RELOCK` (R79). -/
def execRelock (p : Port) (s : State) : Host.Outcome State Fault Refusal :=
  effect (fieldWrite p F.LT_CTL_RELOCK 1) s

/-- `SKEW_WRITE` (R70). -/
def execSkewWrite (p : Port) (w : Word) (s : State) : Host.Outcome State Fault Refusal :=
  effect (regWrite p R.LT_SKEW w) s

/-- `XREF_WRITE` (R80). -/
def execXrefWrite (p : Port) (w : Word) (s : State) : Host.Outcome State Fault Refusal :=
  effect (regWrite p R.LT_XREF w) s

/-- `CLKPROF_SELECT` (R80). -/
def execClkprofSelect (p : Port) (w : Word) (s : State) : Host.Outcome State Fault Refusal :=
  effect (regWrite p R.LT_CLKPROF w) s

/-- With nothing to do, time goes on (DESIGN CHOICE, see notes/assumptions/2.md): one cycle of Line Time while the MDLL is locked, one backup cycle, which
is 30 cycles of Line Time, in holdover (R75); while Line Time stands still, nothing. -/
def tick : Prog :=
  ask fun s =>
    if s.dev.rst.hib ≥ 3 || s.dev.rst.por ≠ 0 then .done
    else if s.locked then advance (s.now + 1)
    else if s.holdover then advance (s.now + 30)
    else .done

end Sys2Proof.Machine
end

