-- ==== Sys2Proof/Machine/Dispatch.lean ====
section
/-!
DEFINITION. The meaning of each command: one arm per constructor of Instr, each one direct call.
-/
namespace Sys2Proof.Machine

def exec (i : Instr) (s : State) : Host.Outcome State Fault Refusal :=
  match i with
  | .registerWrite p a v same => Sys2Proof.Machine.execRegisterWrite p a v same s
  | .loWordReadShadow p a => Sys2Proof.Machine.execLoWordReadShadow p a s
  | .profileSelect p sel w => Sys2Proof.Machine.execProfileSelect p sel w s
  | .commit p beat => Sys2Proof.Machine.execCommit p beat s
  | .commitTakesEffect => Sys2Proof.Machine.execCommitTakesEffect s
  | .presenceWindow edges => Sys2Proof.Machine.execPresenceWindow edges s
  | .missingEdge => Sys2Proof.Machine.execMissingEdge s
  | .calDone => Sys2Proof.Machine.execCalDone s
  | .lockWindow cycles backup phase => Sys2Proof.Machine.execLockWindow cycles backup phase s
  | .trackingLimit => Sys2Proof.Machine.execTrackingLimit s
  | .lostHoldEnd => Sys2Proof.Machine.execLostHoldEnd s
  | .holdoverFreeze => Sys2Proof.Machine.execHoldoverFreeze s
  | .syncinBeat => Sys2Proof.Machine.execSyncinBeat s
  | .beat sync => Sys2Proof.Machine.execBeat sync s
  | .epochinFrame clean pre head beat crc gap => Sys2Proof.Machine.execEpochinFrame clean pre head beat crc gap s
  | .realign p => Sys2Proof.Machine.execRealign p s
  | .relock p => Sys2Proof.Machine.execRelock p s
  | .skewWrite p w => Sys2Proof.Machine.execSkewWrite p w s
  | .xrefWrite p w => Sys2Proof.Machine.execXrefWrite p w s
  | .clkprofSelect p w => Sys2Proof.Machine.execClkprofSelect p w s
  | .switchingCycle n a => Sys2Proof.Machine.execSwitchingCycle n a s
  | .peakComparatorCrossing n c vref pins delay => Sys2Proof.Machine.execPeakComparatorCrossing n c vref pins delay s
  | .pulseTmax n vref pins => Sys2Proof.Machine.execPulseTmax n vref pins s
  | .overcurrentTrip n x vref pins delay => Sys2Proof.Machine.execOvercurrentTrip n x vref pins delay s
  | .overvoltageTrip n x a => Sys2Proof.Machine.execOvervoltageTrip n x a s
  | .fmtModeWrite p k w => Sys2Proof.Machine.execFmtModeWrite p k w s
  | .vectorStart n => Sys2Proof.Machine.execVectorStart n s
  | .vectorStrobe n levels => Sys2Proof.Machine.execVectorStrobe n levels s
  | .triggerPulseEnd n => Sys2Proof.Machine.execTriggerPulseEnd n s
  | .scaleGainWrite p n w => Sys2Proof.Machine.execScaleGainWrite p n w s
  | .vlimreqWrite p k w => Sys2Proof.Machine.execVlimreqWrite p k w s
  | .taperreqWrite p k w => Sys2Proof.Machine.execTaperreqWrite p k w s
  | .qpRecompute p q n w => Sys2Proof.Machine.execQpRecompute p q n w s
  | .conversionWindowStart n => Sys2Proof.Machine.execConversionWindowStart n s
  | .conversionWindowEnd n => Sys2Proof.Machine.execConversionWindowEnd n s
  | .resultDelivery n v j t v2 j2 t2 => Sys2Proof.Machine.execResultDelivery n v j t v2 j2 t2 s
  | .convVRead p k => Sys2Proof.Machine.execConvVRead p k s
  | .pathActiveWrite p n w => Sys2Proof.Machine.execPathActiveWrite p n w s
  | .packetCrossing n t neg => Sys2Proof.Machine.execPacketCrossing n t neg s
  | .packetEnd n => Sys2Proof.Machine.execPacketEnd n s
  | .packetSaturation n => Sys2Proof.Machine.execPacketSaturation n s
  | .chargeClearRequest p n beat => Sys2Proof.Machine.execChargeClearRequest p n beat s
  | .chargeClear n => Sys2Proof.Machine.execChargeClear n s
  | .evEdge idx fall raw => Sys2Proof.Machine.execEvEdge idx fall raw s
  | .stampAction k => Sys2Proof.Machine.execStampAction k s
  | .gateChange k t => Sys2Proof.Machine.execGateChange k t s
  | .evmArm p k u => Sys2Proof.Machine.execEvmArm p k u s
  | .evmDisarm p k u => Sys2Proof.Machine.execEvmDisarm p k u s
  | .unitTimeout k u => Sys2Proof.Machine.execUnitTimeout k u s
  | .unitHoldLimit k u => Sys2Proof.Machine.execUnitHoldLimit k u s
  | .evmResultRead p k u => Sys2Proof.Machine.execEvmResultRead p k u s
  | .evtLastRead p l => Sys2Proof.Machine.execEvtLastRead p l s
  | .startCheck n => Sys2Proof.Machine.execStartCheck n s
  | .slotTableWrite p k idx w => Sys2Proof.Machine.execSlotTableWrite p k idx w s
  | .segmentMemoryWrite p k o bytes => Sys2Proof.Machine.execSegmentMemoryWrite p k o bytes s
  | .slotValidate p k idx => Sys2Proof.Machine.execSlotValidate p k idx s
  | .validationComplete k => Sys2Proof.Machine.execValidationComplete k s
  | .slotInvalidate p k idx => Sys2Proof.Machine.execSlotInvalidate p k idx s
  | .refillHead r => Sys2Proof.Machine.execRefillHead r s
  | .refillTake r => Sys2Proof.Machine.execRefillTake r s
  | .refillComplete r => Sys2Proof.Machine.execRefillComplete r s
  | .nop n => Sys2Proof.Machine.execNop n s
  | .halt n => Sys2Proof.Machine.execHalt n s
  | .calm n => Sys2Proof.Machine.execCalm n s
  | .jump n => Sys2Proof.Machine.execJump n s
  | .call n => Sys2Proof.Machine.execCall n s
  | .ret n => Sys2Proof.Machine.execRet n s
  | .loop n => Sys2Proof.Machine.execLoop n s
  | .endl n => Sys2Proof.Machine.execEndl n s
  | .dispatch n => Sys2Proof.Machine.execDispatch n s
  | .play n => Sys2Proof.Machine.execPlay n s
  | .playEnd n => Sys2Proof.Machine.execPlayEnd n s
  | .waitlt n => Sys2Proof.Machine.execWaitlt n s
  | .waitltEnd n => Sys2Proof.Machine.execWaitltEnd n s
  | .waitev n => Sys2Proof.Machine.execWaitev n s
  | .waitevEnd n => Sys2Proof.Machine.execWaitevEnd n s
  | .setlim n => Sys2Proof.Machine.execSetlim n s
  | .setfmt n => Sys2Proof.Machine.execSetfmt n s
  | .mark n => Sys2Proof.Machine.execMark n s
  | .armcap n => Sys2Proof.Machine.execArmcap n s
  | .illop n => Sys2Proof.Machine.execIllop n s
  | .eventOffer n => Sys2Proof.Machine.execEventOffer n s
  | .eventJumpAction n => Sys2Proof.Machine.execEventJumpAction n s
  | .eventCallAction n => Sys2Proof.Machine.execEventCallAction n s
  | .ltAlarm n => Sys2Proof.Machine.execLtAlarm n s
  | .start p n arg => Sys2Proof.Machine.execStart p n arg s
  | .resume p n => Sys2Proof.Machine.execResume p n s
  | .stop p n => Sys2Proof.Machine.execStop p n s
  | .jumpCommand p n arg => Sys2Proof.Machine.execJumpCommand p n arg s
  | .offer p n arg => Sys2Proof.Machine.execOffer p n arg s
  | .reservedCommand p n cmd arg => Sys2Proof.Machine.execReservedCommand p n cmd arg s
  | .capArm p k => Sys2Proof.Machine.execCapArm p k s
  | .capTrig p k => Sys2Proof.Machine.execCapTrig p k s
  | .capDisarm p k => Sys2Proof.Machine.execCapDisarm p k s
  | .captureTrigger n => Sys2Proof.Machine.execCaptureTrigger n s
  | .maskEnable p k m idx => Sys2Proof.Machine.execMaskEnable p k m idx s
  | .maskCheckComplete k idx => Sys2Proof.Machine.execMaskCheckComplete k idx s
  | .maskOriginWrite p k idx origin => Sys2Proof.Machine.execMaskOriginWrite p k idx origin s
  | .maskEvaluation n => Sys2Proof.Machine.execMaskEvaluation n s
  | .squall => Sys2Proof.Machine.execSquall s
  | .failClr p k => Sys2Proof.Machine.execFailClr p k s
  | .ringEnable p r => Sys2Proof.Machine.execRingEnable p r s
  | .ringDisable p r => Sys2Proof.Machine.execRingDisable p r s
  | .ringDisableDone r => Sys2Proof.Machine.execRingDisableDone r s
  | .ringDb p r idx => Sys2Proof.Machine.execRingDb p r idx s
  | .ringDbc p r idx => Sys2Proof.Machine.execRingDbc p r idx s
  | .hostEntryTake r => Sys2Proof.Machine.execHostEntryTake r s
  | .tagIssue t => Sys2Proof.Machine.execTagIssue t s
  | .nvmeCompletion c sct sc dnr => Sys2Proof.Machine.execNvmeCompletion c sct sc dnr s
  | .commandTimeout t => Sys2Proof.Machine.execCommandTimeout t s
  | .backoffEnd r x c => Sys2Proof.Machine.execBackoffEnd r x c s
  | .entryTimeout r x => Sys2Proof.Machine.execEntryTimeout r x s
  | .zombieTimeout t => Sys2Proof.Machine.execZombieTimeout t s
  | .recordBlockWrite r => Sys2Proof.Machine.execRecordBlockWrite r s
  | .partialBlockFlush r => Sys2Proof.Machine.execPartialBlockFlush r s
  | .journalFlush => Sys2Proof.Machine.execJournalFlush s
  | .apertureInbound wr a len bytes => Sys2Proof.Machine.execApertureInbound wr a len bytes s
  | .storRetryWrite p w => Sys2Proof.Machine.execStorRetryWrite p w s
  | .attach p => Sys2Proof.Machine.execAttach p s
  | .drivePresent => Sys2Proof.Machine.execDrivePresent s
  | .perstRelease => Sys2Proof.Machine.execPerstRelease s
  | .pcieLinkUp width speed => Sys2Proof.Machine.execPcieLinkUp width speed s
  | .pcieLinkTimeout => Sys2Proof.Machine.execPcieLinkTimeout s
  | .controllerInitDone ver pairs mqes mdts size msize lbas cache => Sys2Proof.Machine.execControllerInitDone ver pairs mqes mdts size msize lbas cache s
  | .superblockReadDone a b blocks journal => Sys2Proof.Machine.execSuperblockReadDone a b blocks journal s
  | .detach p => Sys2Proof.Machine.execDetach p s
  | .detachComplete => Sys2Proof.Machine.execDetachComplete s
  | .format p => Sys2Proof.Machine.execFormat p s
  | .formatComplete => Sys2Proof.Machine.execFormatComplete s
  | .controllerReset p => Sys2Proof.Machine.execControllerReset p s
  | .driveLost => Sys2Proof.Machine.execDriveLost s
  | .coalesceTimeout idx => Sys2Proof.Machine.execCoalesceTimeout idx s
  | .irqPresent t => Sys2Proof.Machine.execIrqPresent t s
  | .irqClaim p t => Sys2Proof.Machine.execIrqClaim p t s
  | .irqComplete p t w => Sys2Proof.Machine.execIrqComplete p t w s
  | .irqPendSet p idx w => Sys2Proof.Machine.execIrqPendSet p idx w s
  | .irqPendClear p idx w => Sys2Proof.Machine.execIrqPendClear p idx w s
  | .irqSourceWrite p coal idx w => Sys2Proof.Machine.execIrqSourceWrite p coal idx w s
  | .sw253 p => Sys2Proof.Machine.execSw253 p s
  | .sw254 p => Sys2Proof.Machine.execSw254 p s
  | .asyncLatchDelivery => Sys2Proof.Machine.execAsyncLatchDelivery s
  | .eccWriteback => Sys2Proof.Machine.execEccWriteback s
  | .scrubRead a copy flips last => Sys2Proof.Machine.execScrubRead a copy flips last s
  | .starve m => Sys2Proof.Machine.execStarve m s
  | .frzrel p m => Sys2Proof.Machine.execFrzrel p m s
  | .linePhySearchTimeout => Sys2Proof.Machine.execLinePhySearchTimeout s
  | .lineLinkUp => Sys2Proof.Machine.execLineLinkUp s
  | .lineLinkDown => Sys2Proof.Machine.execLineLinkDown s
  | .lineFrameDropped => Sys2Proof.Machine.execLineFrameDropped s
  | .arpRequest mac ip target => Sys2Proof.Machine.execArpRequest mac ip target s
  | .echoRequest v6 src body => Sys2Proof.Machine.execEchoRequest v6 src body s
  | .neighbourSolicitation src target mac => Sys2Proof.Machine.execNeighbourSolicitation src target mac s
  | .hlpDroppedMessage m => Sys2Proof.Machine.execHlpDroppedMessage m s
  | .hlpOpen svc src m => Sys2Proof.Machine.execHlpOpen svc src m s
  | .hlpClose svc src m => Sys2Proof.Machine.execHlpClose svc src m s
  | .hlpRead svc src m => Sys2Proof.Machine.execHlpRead svc src m s
  | .hlpWrite svc src m clash => Sys2Proof.Machine.execHlpWrite svc src m clash s
  | .hlpCmd svc src m => Sys2Proof.Machine.execHlpCmd svc src m s
  | .hlpClaim svc src m => Sys2Proof.Machine.execHlpClaim svc src m s
  | .hlpComplete svc src m => Sys2Proof.Machine.execHlpComplete svc src m s
  | .hlpReset svc src m => Sys2Proof.Machine.execHlpReset svc src m s
  | .hlpReservedType svc src typ m => Sys2Proof.Machine.execHlpReservedType svc src typ m s
  | .hlpSeqExpire svc idx => Sys2Proof.Machine.execHlpSeqExpire svc idx s
  | .notice svc => Sys2Proof.Machine.execNotice svc s
  | .rec_ r => Sys2Proof.Machine.execRec r s
  | .deviceRequestAck svc idx seq status => Sys2Proof.Machine.execDeviceRequestAck svc idx seq status s
  | .deviceRequestRetransmit svc idx seq => Sys2Proof.Machine.execDeviceRequestRetransmit svc idx seq s
  | .deviceRequestTimeout svc idx seq => Sys2Proof.Machine.execDeviceRequestTimeout svc idx seq s
  | .peerSyncChange link up => Sys2Proof.Machine.execPeerSyncChange link up s
  | .peerFrameDiscard link reserved => Sys2Proof.Machine.execPeerFrameDiscard link reserved s
  | .squallFrame link w => Sys2Proof.Machine.execSquallFrame link w s
  | .pcmd link n arg => Sys2Proof.Machine.execPcmd link n arg s
  | .hoffData link seq ofs data => Sys2Proof.Machine.execHoffData link seq ofs data s
  | .hoffAck link seq code => Sys2Proof.Machine.execHoffAck link seq code s
  | .handoffSend p link ofs => Sys2Proof.Machine.execHandoffSend p link ofs s
  | .handoffRetransmit => Sys2Proof.Machine.execHandoffRetransmit s
  | .handoffTimeout => Sys2Proof.Machine.execHandoffTimeout s
  | .jtagInstructionLoad code => Sys2Proof.Machine.execJtagInstructionLoad code s
  | .jtagBoundaryInstruction c => Sys2Proof.Machine.execJtagBoundaryInstruction c s
  | .svcaddr w => Sys2Proof.Machine.execSvcaddr w s
  | .svcdata w => Sys2Proof.Machine.execSvcdata w s
  | .svcdataCapture => Sys2Proof.Machine.execSvcdataCapture s
  | .svcAccessComplete => Sys2Proof.Machine.execSvcAccessComplete s
  | .boot density erase4k o bytes => Sys2Proof.Machine.execBoot density erase4k o bytes s
  | .bootComplete => Sys2Proof.Machine.execBootComplete s
  | .bootOpen p slot len => Sys2Proof.Machine.execBootOpen p slot len s
  | .bootWrite p ofs len buf => Sys2Proof.Machine.execBootWrite p ofs len buf s
  | .bootClose p => Sys2Proof.Machine.execBootClose p s
  | .confirm p => Sys2Proof.Machine.execConfirm p s
  | .refresh p slot buf => Sys2Proof.Machine.execRefresh p slot buf s
  | .restart p => Sys2Proof.Machine.execRestart p s
  | .bootFunctionDone err => Sys2Proof.Machine.execBootFunctionDone err s
  | .keyprog p slot ofs => Sys2Proof.Machine.execKeyprog p slot ofs s
  | .revoke p slot => Sys2Proof.Machine.execRevoke p slot s
  | .svnadv p => Sys2Proof.Machine.execSvnadv p s
  | .fuseOpDone err => Sys2Proof.Machine.execFuseOpDone err s
  | .por => Sys2Proof.Machine.execPor s
  | .porAlwaysOnRelease testMode => Sys2Proof.Machine.execPorAlwaysOnRelease testMode s
  | .porMemoryClear => Sys2Proof.Machine.execPorMemoryClear s
  | .resetNFall => Sys2Proof.Machine.execResetNFall s
  | .resetNRise => Sys2Proof.Machine.execResetNRise s
  | .railDrop vaon => Sys2Proof.Machine.execRailDrop vaon s
  | .pin => Sys2Proof.Machine.execPin s
  | .wdog => Sys2Proof.Machine.execWdog s
  | .port => Sys2Proof.Machine.execPort s
  | .warmResetApply => Sys2Proof.Machine.execWarmResetApply s
  | .warmResetRelease => Sys2Proof.Machine.execWarmResetRelease s
  | .core p k => Sys2Proof.Machine.execCore p k s
  | .wdkick p key => Sys2Proof.Machine.execWdkick p key s
  | .wdwarn => Sys2Proof.Machine.execWdwarn s
  | .parkSet p idx w => Sys2Proof.Machine.execParkSet p idx w s
  | .parkClear p idx w => Sys2Proof.Machine.execParkClear p idx w s
  | .unparkSettled n => Sys2Proof.Machine.execUnparkSettled n s
  | .run p => Sys2Proof.Machine.execRun p s
  | .standby p => Sys2Proof.Machine.execStandby p s
  | .standbyEntered => Sys2Proof.Machine.execStandbyEntered s
  | .hibernate p => Sys2Proof.Machine.execHibernate p s
  | .hibernatePacketStop => Sys2Proof.Machine.execHibernatePacketStop s
  | .hibernateEntered => Sys2Proof.Machine.execHibernateEntered s
  | .hibernateWake c ms => Sys2Proof.Machine.execHibernateWake c ms s
  | .wakeRailsReady => Sys2Proof.Machine.execWakeRailsReady s
  | .hibwake => Sys2Proof.Machine.execHibwake s
  | .monitorSample temps rails => Sys2Proof.Machine.execMonitorSample temps rails s
  | .agingMeasurement counts => Sys2Proof.Machine.execAgingMeasurement counts s
  | .force p => Sys2Proof.Machine.execForce p s
  | .apply p n => Sys2Proof.Machine.execApply p n s
  | .remapRequest p n k beat => Sys2Proof.Machine.execRemapRequest p n k beat s
  | .remapCopyDone => Sys2Proof.Machine.execRemapCopyDone s
  | .remapLate => Sys2Proof.Machine.execRemapLate s
  | .remapStop => Sys2Proof.Machine.execRemapStop s
  | .remapContextCopy => Sys2Proof.Machine.execRemapContextCopy s
  | .remapResume => Sys2Proof.Machine.execRemapResume s
  | .cut p beat => Sys2Proof.Machine.execCut p beat s
  | .handoffPackageBuild => Sys2Proof.Machine.execHandoffPackageBuild s
  | .rxopen p => Sys2Proof.Machine.execRxopen p s
  | .import_ p beat => Sys2Proof.Machine.execImport p beat s
  | .handoffImportApply => Sys2Proof.Machine.execHandoffImportApply s
  | .abort p => Sys2Proof.Machine.execAbort p s
  | .pcieError t => Sys2Proof.Machine.execPcieError t s
  | .controllerFatalStatus => Sys2Proof.Machine.execControllerFatalStatus s
  | .slipFrameDropped => Sys2Proof.Machine.execSlipFrameDropped s
  | .tapReset => Sys2Proof.Machine.execTapReset s
  | .arpReply mac ip => Sys2Proof.Machine.execArpReply mac ip s
  | .neighbourAdvertisement addr mac => Sys2Proof.Machine.execNeighbourAdvertisement addr mac s

end Sys2Proof.Machine
end

