-- ==== Sys2Proof/Safety.lean ====
section
/-!
DEFINITION. The terms in which claims about the machine are stated: its invariant, when a port may make an access now, what a
command completes with, and what it leaves as it was.
-/
namespace Sys2Proof

/-- A field of a request's payload: `k` bytes at offset `o`. -/
def HlpMsg.num (m : HlpMsg) (o k : Nat) : Nat := Machine.leNat ((m.payload.drop o).take k)

end Sys2Proof

namespace Sys2Proof.Machine

/-- The invariant of the machine: the memory has its canonical form, no register is listed twice, and every reserved bit of a
register holds 0 (R12). -/
def State.Inv (s : State) : Prop :=
  Memory.wf s.losses s.mem = true ∧ (s.regs.map (·.1)).Nodup ∧ ∀ e ∈ s.regs, e.2 &&& e.1.id.mask = e.2

/-- Port `p` may write the word `v` to address `a` now: it can issue accesses, its master is not frozen, and the checks of R424
pass. -/
def State.admitsAt (s : State) (p : Port) (a : Nat) (v : Word) : Bool :=
  s.issues p && !s.frozen (portMaster p) && decide (s.judge p a 4 true v = .pass)

/-- Port `p` may write the word `v` to register `k` now. -/
def State.admits (s : State) (p : Port) (k : RegKey) (v : Word) : Bool := s.admitsAt p k.addr v

/-- Port `p` may read the word at `a` now. -/
def State.admitsRead (s : State) (p : Port) (a : Nat) : Bool :=
  s.issues p && !s.frozen (portMaster p) && decide (s.judge p a 4 false 0 = .pass)

/-- The write of a port has been made and answered: its master holds status OK of Table 13.7. -/
def State.answeredOk (s : State) (p : Port) : Bool := decide (s.dev.bus.answer.get ⟨255, 0⟩ (portMaster p) = ⟨0, 0⟩)

/-- The register map holds the register: its indices and its core or front end are in range (Tables 1.13 and 1.14). `IRQ.PEND`
is written through its aliases only. -/
def RegKey.inMap (k : RegKey) : Bool :=
  k.i < k.id.desc.n1 && k.j < k.id.desc.n2 && k.id ≠ .IRQ_PEND &&
    match k.id.blk with
    | .core => k.u < 68
    | .fe => k.u < 64
    | .hdr => false
    | _ => k.u = 0

/-- Registers of several blocks that a write reaches field by field, with no range to keep and no action: with RW, RWL, RO and
W1C fields. -/
def plainRegs : List RegId :=
  [.SYS_DEVID, .LT_EVT, .XBAR_STATUS, .IRQ_T_THRESH, .MEM_WIN_PERM, .LINE_STAT, .CTL_ARG, .CTL_STAT, .SEQ_STAT, .PROT_STAT]

/-- The last answer to the master of port `p`: a status of Table 13.7 and a word. -/
def State.lastAnswer (s : State) (p : Port) : Answer := s.dev.bus.answer.get ⟨255, 0⟩ (portMaster p)

/-- Line Time once the device has gone on to cycle `t`, where that is not past (R3). -/
def State.onTo (s : State) (t : Nat) : Nat := max s.now (t % 2 ^ 64)

/-- What a field holds after a write of `v`, if it held `old` (Table 0.4); the bits of `hw`, which the hardware sets in the same
cycle, are not cleared (R15). -/
def FieldDesc.afterWrite (f : FieldDesc) (old v hw : Word) : Nat :=
  let w := f.hi + 1 - f.lo
  match f.acc with
  | .rw | .rwl => fieldGet v f.lo w
  | .w1c => fieldGet old f.lo w &&& (((2 ^ w - 1) ^^^ fieldGet v f.lo w) ||| fieldGet hw f.lo w)
  | .w1s => fieldGet old f.lo w ||| fieldGet v f.lo w
  | .ro | .wo => fieldGet old f.lo w

/-- The comparator of channel `n`, its integrator followed to instant `c`, finds its input at REF or beyond (R136, R137, R140). -/
def State.seesCrossing (s : State) (n c : Nat) (fwd : Bool) (a : Analog) : Bool := ((followLoop n c a).run s).crossed n c fwd a

/-- Nothing is decided for the capture of core `k` by cycle `d`: no trigger falls due, and no result reaches its masks' decision
instant (R309, R324). -/
def State.captureQuiet (s : State) (k d : Nat) : Bool :=
  ((s.cst k).cap.trigs.all fun g => d < s.trigDue g) && (s.cst k).win.toJudge.all fun r => d < r.due

/-- The sequencer of channel `n` is about to take a step with opcode `op`: the step word and the routine that it enters are
readable (R263, R265, R298, R300). -/
def State.takesStep (s : State) (n op : Nat) : Bool :=
  s.awake && s.stepping n && !s.badWord (stepAddr (s.pc (s.core n))) 8 && s.opcode (s.core n) = op && s.dispatchOk (s.core n) op

/-- The step word that channel `n` is about to take. -/
def State.nextWord (s : State) (n : Nat) : Nat := s.stepWord (s.core n)

/-- The sequencer of core `k` has taken a fault with code `c` at its PC (R294). -/
def State.Faulted (s t : State) (k c : Nat) : Bool :=
  t.seqSt k = stFault && t.fld (F.SEQ_STATE_FCODE k) = c && t.fld (F.SEQ_FADDR_ADDR k) = s.pc k
    && t.fld (F.SEQ_STAT_FAULT k) = 1 && t.pc k = s.pc k

/-- The event counter of an edge source has counted one more event in `t` than in `s` (R382); while the controller's clock is
stopped, it has not (R401). -/
def State.Raised (s t : State) (i : Nat) : Bool :=
  t.fld (cntField i) = if s.dev.irq.stopped then s.fld (cntField i) else satInc 8 (s.fld (cntField i))

/-- The command answers a next state, which `P` holds of. -/
def Completes (c : Instr) (s : State) (P : State → Prop) : Prop := ∃ t, exec c s = .next t ∧ P t

/-- Every register whose name is not in the list holds in `t` what it held in `s`. -/
def State.KeepsRegs (s t : State) (names : List RegId) : Prop := ∀ k : RegKey, k.id ∉ names → t.reg k = s.reg k

/-- The same, where the names in `own` may change in core or front end `u` only. -/
def State.KeepsRegsAt (s t : State) (u : Nat) (own names : List RegId) : Prop :=
  ∀ k : RegKey, ¬(k.id ∈ own ∧ k.u = u) → k.id ∉ names → t.reg k = s.reg k

/-- Every byte of memory reads in `t` as it did in `s`. -/
def State.KeepsBytes (s t : State) : Prop := ∀ a, t.byte a = s.byte a

/-- Every byte of memory outside the `n` from `a` on reads in `t` as it did in `s`. -/
def State.KeepsBytesBut (s t : State) (a n : Nat) : Prop := ∀ x, ¬(a ≤ x ∧ x < a + n) → t.byte x = s.byte x

/-- Every byte of memory outside the regions `l`, each an address and a number of bytes, reads in `t` as it did in `s`. -/
def State.KeepsBytesOff (s t : State) (l : List (Nat × Nat)) : Prop :=
  ∀ x, (∀ r ∈ l, x < r.1 ∨ r.1 + r.2 ≤ x) → t.byte x = s.byte x

/-- A piece of storage work after a try of its command `c`: where the command stands, and the last NVMe status. -/
def Work.afterTry (w : Work) (c : Nat) (st : CmdSt) (nvst : Nat) : Work :=
  { w with cmds := w.cmds.modify c fun x => { x with st := st }, nvst := nvst }

/-- Every command of the work has succeeded. -/
def Work.isDone (w : Work) : Bool := w.cmds.all fun c => c.st = .ok

/-- An address of the scratchpad, of a capture memory or of a fail memory: they take what is written to them as it is. -/
def State.plainPlace (s : State) (a : Nat) : Bool :=
  match s.place a with
  | .pad | .capture _ | .fail _ => true
  | _ => false

/-- The superblock that an attach uses: the valid copy with the greater generation, the first of two with the same (R370). -/
def bestSuper (a b : List Byte) : Option (Volume × Nat) :=
  match parseSuper a, parseSuper b with
  | some x, some y => some (if x.1.gen < y.1.gen then y else x)
  | some x, none => some x
  | none, y => y

/-- The port takes part in HLP: no reset holds it, and for the line port the device is not in recovery (R438, R482). -/
def State.hlpOn (s : State) (svc : Bool) : Bool :=
  s.awake && s.dev.rst.run.isNone && (svc || !s.flg F.BOOT_STAT_REC)

/-- The session that a message names, the service session being number 8; the UART has no other (R459). -/
def hlpIndex (svc : Bool) (m : HlpMsg) : Nat := if svc then (if m.sess = 0 then 8 else 9) else m.sess.toNat

/-- A request is the next one of an open session of its sender's address, `x`, with no other request held and the port's
master not frozen: it is executed at once (R442). -/
def State.takesRequest (s : State) (svc : Bool) (src : Source) (m : HlpMsg) (x : Session) : Bool :=
  s.hlpOn svc && decide (s.session (hlpIndex svc m) = some x)
    && (svc || (m.sess.toNat < 8 && x.src.v6 = src.v6 && x.src.addr = src.addr))
    && x.held.isEmpty && x.next = m.seq.toNat && !(x.cache.any fun c => c.seq = m.seq.toNat)
    && !x.expired.contains m.seq.toNat && !s.frozen (portMaster (hlpPort svc))

/-- One message to `dest` has gone out on the port of HLP; on the line it waits where the link address of its next hop is not known. -/
def State.sentOn (s t : State) (svc : Bool) (dest : Source) : Bool :=
  if !svc && (s.linkAddr dest.v6 (s.nextHop dest.v6 dest.addr.toNat)).isNone then
    t.dev.line.unresolved.length = s.dev.line.unresolved.length + 1
  else t.dev.out.length = s.dev.out.length + 1 && t.dev.out.getLast?.any fun e => e.port = if svc then 1 else 0

/-- The request has its response, with a status and a payload: it has gone out and is cached, and the next request of the session
may come (R442, R443). -/
def State.repliedTo (s t : State) (svc : Bool) (m : HlpMsg) (typ status : Nat) (payload : List Byte) : Bool :=
  (t.session (hlpIndex svc m)).any fun x =>
    s.sentOn t svc x.src && x.next = (m.seq.toNat + 1) % 2 ^ 32 && x.cache.head? = some ⟨m.seq.toNat, typ, status, payload⟩

/-- A state is reached from `s` in `n` steps. -/
def State.steps (s : State) : Nat → Option State
  | 0 => some s
  | n + 1 => match step s with
    | .next t => t.steps n
    | _ => none

end Sys2Proof.Machine
end

