-- ==== Sys2Proof/Certificates/Slice0/Obligations.lean ====
section
/-!
DEFINITION. The statements for the provers. `Completes c s P` says that the command `c` answers a next state on `s`, which `P`
holds of; every statement of a result is such a completion, under hypotheses on the state and the operands alone.
-/
open Sys2Proof Sys2Proof.Machine

set_option linter.unusedVariables false

/-- A block takes its commands in order. The empty queue is the model's choice (notes/assumptions/2.md). -/
def Obligations.StepRunsTheFrontCommand : Prop :=
  (∀ (c : Instr) (rest : List Instr) (s : State), s.pending = c :: rest → step s = exec c { s with pending := rest }) ∧
  (∀ s : State, s.pending = [] → s.awake = true →
    step s = .next { s with dev := { s.dev with lt := { s.dev.lt with
      cyc := s.now + if s.locked then 1 else if s.holdover then 30 else 0 } } })

/-- No command of the table stops the block, and no command reaches the queue. Where the rules leave a corner open, the clauses
rest on the model's readings in notes/assumptions/1.md and notes/assumptions/12.md. -/
def Obligations.TheQueueDrainsInOrder : Prop :=
  (∀ (c : Instr) (s : State), Completes c s fun t => t.pending = s.pending) ∧
  (∀ (n : Nat) (s : State), n ≤ s.pending.length → ∃ t, s.steps n = some t ∧ t.pending = s.pending.drop n)

/-- R12 as an invariant: reserved bits read as 0 after every step; and the form of memory. -/
def Obligations.EveryStepKeepsTheInvariant : Prop :=
  ∀ s t : State, s.Inv → step s = .next t → t.Inv

/-- R491, R188: the machine right after a POR. SEC.ST, to which the spec gives no register table, holds 0, and bytes that nothing
has written read 0 but for QP: the model's choices (notes/assumptions/3.md and 5.md). -/
def Obligations.ResetHasTheInvariantAndTheColdValues : Prop :=
  State.reset.Inv ∧ State.reset.pending = [] ∧ (∀ k : RegKey, State.reset.reg k = k.cold) ∧
  (∀ n < 64, State.reset.num (chBlock n + 48) 8 = 6400 * 2 ^ 32) ∧
  (∀ a : Nat, (∀ n < 64, a < chBlock n + 48 ∨ chBlock n + 56 ≤ a) → State.reset.byte a = 0)

/-- R11, R13, R15, R9, R41, R413, R427, R432: register writes. Where the rules leave a corner open, the clauses rest on the
model's readings in notes/assumptions/13.md, notes/assumptions/14.md, notes/assumptions/16.md and notes/assumptions/105.md. -/
def Obligations.RegisterWritesFollowTheirAccessTypes : Prop :=
  (∀ (s : State) (p : Port) (a : BitVec 40) (v hw : Word) (k : RegKey), k.inMap = true → a.toNat = k.addr → k.id ∈ plainRegs
    → s.admits p k v = true → Completes (.registerWrite p a v ⟨[], hw⟩) s fun t => (∀ f ∈ k.id.desc.fields, fieldGet (t.reg k)
    f.lo (f.hi + 1 - f.lo) = f.afterWrite (s.reg k) v hw) ∧ t.reg k &&& k.id.mask = t.reg k ∧ (∀ k2 : RegKey, k2 ≠ k → t.reg
    k2 = s.reg k2) ∧ t.lastAnswer p = Answer.mk 0 0 ∧ s.KeepsBytes t) ∧
  (∀ (s : State) (p : Port) (a : BitVec 40) (v hw : Word) (k : RegKey), k.inMap = true → a.toNat = k.addr → ((k.id =
    .XBAR_MAP ∧ 68 ≤ fieldGet v 16 7) ∨ (k.id = .XBAR_GANG ∧ 5 ≤ fieldGet v 16 3)) → s.admits p k v = true → s.reg k &&&
    k.id.mask = s.reg k → Completes (.registerWrite p a v ⟨[], hw⟩) s fun t => t.reg k = s.reg k ∧ t.fld (F.BSTAT_BADVAL 2) =
    1 ∧ t.lastAnswer p = Answer.mk 0 0 ∧ s.KeepsRegs t [.BSTAT] ∧ s.KeepsBytes t) ∧
  (∀ (s : State) (p : Port) (a : BitVec 40) (v hw : Word), a.toNat = R.LINE_MAC_LO.addr → s.admits p R.LINE_MAC_LO v = true
    → Completes (.registerWrite p a v ⟨[], hw⟩) s fun t => t.dev.bus.held.find? (fun (e : RegKey × Word) => e.1 =
    R.LINE_MAC_LO) = some (R.LINE_MAC_LO, v) ∧ t.lastAnswer p = Answer.mk 0 0 ∧ t.regs = s.regs ∧ s.KeepsBytes t) ∧
  (∀ (s : State) (p : Port) (a : BitVec 40) (v hw : Word) (lo : Word), a.toNat = R.LINE_MAC_HI.addr → s.admits p
    R.LINE_MAC_HI v = true → s.dev.bus.held.find? (fun (e : RegKey × Word) => e.1 = R.LINE_MAC_LO) = some (R.LINE_MAC_LO, lo)
    → Completes (.registerWrite p a v ⟨[], hw⟩) s fun t => t.reg R.LINE_MAC_LO = lo ∧ t.reg R.LINE_MAC_HI = v &&& 0xFFFF ∧
    t.dev.bus.held.find? (fun (e : RegKey × Word) => e.1 = R.LINE_MAC_LO) = none ∧ t.lastAnswer p = Answer.mk 0 0 ∧
    s.KeepsRegs t [.LINE_MAC_LO, .LINE_MAC_HI] ∧ s.KeepsBytes t) ∧
  (∀ (s : State) (p : Port) (a : BitVec 40) (v hw : Word) (rivals : List (Fin 8)), s.issues p = false → Completes
    (.registerWrite p a v ⟨rivals, hw⟩) s fun t => t = s) ∧
  (∀ (s : State) (p : Port) (a : BitVec 40) (v hw : Word) (rivals : List (Fin 8)), s.issues p = true → s.frozen (portMaster
    p) = true → 3 ≤ portMaster p → Completes (.registerWrite p a v ⟨rivals, hw⟩) s fun t => t.lastAnswer p = Answer.mk 2 0 ∧
    t.regs = s.regs ∧ s.KeepsBytes t) ∧
  (∀ (s : State) (p : Port) (a : BitVec 40) (v hw : Word) (auth : Bool), s.issues p = true → s.frozen (portMaster p) = false
    → 3 ≤ portMaster p → s.judge p a.toNat 4 true v = .violation auth → Completes (.registerWrite p a v ⟨[], hw⟩) s fun t =>
    t.frozen (portMaster p) = true ∧ t.fld F.MEM_FRZLOG_LO_ADDR = a.toNat % 2 ^ 32 ∧ t.fld F.MEM_FRZLOG_HI_ADDR = a.toNat / 2
    ^ 32 ∧ t.fld F.MEM_FRZLOG_HI_MASTER = portMaster p ∧ t.fld F.MEM_FRZLOG_HI_WR = 1 ∧ (t.fld F.MEM_FRZLOG_HI_AUTH = if auth
    then 1 else 0) ∧ s.Raised t 217 = true ∧ t.lastAnswer p = Answer.mk 2 0 ∧ s.KeepsRegs t [.MEM_FRZ, .MEM_FRZLOG_LO,
    .MEM_FRZLOG_HI, .IRQ_PEND, .IRQ_CNT] ∧ s.KeepsBytes t) ∧
  (∀ (s : State) (p : Port) (a : BitVec 40) (v hw : Word) (b : Nat), s.issues p = true → s.frozen (portMaster p) = false →
    s.judge p a.toNat 4 true v = .closed b → Completes (.registerWrite p a v ⟨[], hw⟩) s fun t => t.fld (F.PAGE_EXPERT_REJ b)
    = 1 ∧ t.lastAnswer p = Answer.mk 0 0 ∧ s.KeepsRegs t [.PAGE] ∧ s.KeepsBytes t) ∧
  (∀ (s : State) (p : Port) (a : BitVec 40) (v hw : Word), s.issues p = true → s.frozen (portMaster p) = false → s.judge p
    a.toNat 4 true v = .afterLock → Completes (.registerWrite p a v ⟨[], hw⟩) s fun t => t.lastAnswer p = Answer.mk 0 0 ∧
    t.regs = s.regs ∧ s.KeepsBytes t) ∧
  (∀ (s : State) (p : Port) (a : BitVec 40) (v hw : Word) (rivals : List (Fin 8)) (w l : Nat) (ls : List Nat), s.issues p =
    true → s.frozen (portMaster p) = false → s.writers (portMaster p) rivals = w :: l :: ls → w ≠ portMaster p → Completes
    (.registerWrite p a v ⟨rivals, hw⟩) s fun t => t.fld F.MEM_COLL_COUNT = satInc 16 (s.fld F.MEM_COLL_COUNT) ∧ t.fld
    F.MEM_COLL_WINNER = w ∧ t.fld F.MEM_COLL_LOSER = l ∧ t.fld F.MEM_COLLA_ADDR = s.clashWord a.toNat % 2 ^ 32 ∧ s.Raised t
    243 = true ∧ t.lastAnswer p = Answer.mk 1 0 ∧ s.KeepsRegs t [.MEM_COLL, .MEM_COLLA, .IRQ_PEND, .IRQ_CNT] ∧ s.KeepsBytes t)

/-- R9: the shadow of a high word. Where the rules leave a corner open, the clauses rest on the model's readings in
notes/assumptions/13.md, notes/assumptions/14.md and notes/assumptions/17.md. -/
def Obligations.LowWordReadsLatchTheHighWord : Prop :=
  (∀ (s : State) (p : Port) (a : BitVec 40) (lo hi : RegKey), (lo, hi) ∈ [(R.LT_NOW_LO, R.LT_NOW_HI), (R.LT_BEAT_LO,
    R.LT_BEAT_HI), (R.SYS_SQL_LAST_LO, R.SYS_SQL_LAST_HI), (R.MEM_FRZLOG_LO, R.MEM_FRZLOG_HI), (R.LINE_MAC_LO, R.LINE_MAC_HI),
    (R.MON_LIFE_LO, R.MON_LIFE_HI)] → a.toNat = lo.addr → s.admitsRead p lo.addr = true → s.latched (portMaster p) lo = none →
    Completes (.loWordReadShadow p a) s fun t => t.lastAnswer p = Answer.mk 0 (s.view lo) ∧ t.latched (portMaster p) hi = some
    (s.view hi) ∧ t.regs = s.regs ∧ s.KeepsBytes t) ∧
  (∀ (s : State) (p : Port) (a : BitVec 40) (lo hi : RegKey) (w : Word), (lo, hi) ∈ [(R.LT_NOW_LO, R.LT_NOW_HI),
    (R.LT_BEAT_LO, R.LT_BEAT_HI), (R.SYS_SQL_LAST_LO, R.SYS_SQL_LAST_HI), (R.MEM_FRZLOG_LO, R.MEM_FRZLOG_HI), (R.LINE_MAC_LO,
    R.LINE_MAC_HI), (R.MON_LIFE_LO, R.MON_LIFE_HI)] → a.toNat = hi.addr → s.admitsRead p hi.addr = true → s.latched
    (portMaster p) hi = some w → Completes (.loWordReadShadow p a) s fun t => t.lastAnswer p = Answer.mk 0 w ∧ t.latched
    (portMaster p) hi = none ∧ t.regs = s.regs ∧ s.KeepsBytes t) ∧
  (∀ (s : State) (p : Port) (a : BitVec 40) (b off : Nat) (k : RegKey) (v : Via), s.admitsRead p a.toNat = true → s.place
    a.toNat = .block b off → regVia b off = some (k, v) → expertOffset off = true → s.pageOpen b = false → Completes
    (.loWordReadShadow p a) s fun t => t.lastAnswer p = Answer.mk 0 0 ∧ t.regs = s.regs ∧ s.KeepsBytes t) ∧
  (∀ (s : State) (p : Port) (a : BitVec 40), s.issues p = true → s.frozen (portMaster p) = true → 3 ≤ portMaster p →
    Completes (.loWordReadShadow p a) s fun t => t.lastAnswer p = Answer.mk 2 0 ∧ t.regs = s.regs ∧ s.KeepsBytes t) ∧
  (∀ (s : State) (p : Port) (a : BitVec 40) (auth : Bool), s.issues p = true → s.frozen (portMaster p) = false → 3 ≤
    portMaster p → s.judge p a.toNat 4 false 0 = .violation auth → Completes (.loWordReadShadow p a) s fun t => t.frozen
    (portMaster p) = true ∧ t.fld F.MEM_FRZLOG_LO_ADDR = a.toNat % 2 ^ 32 ∧ t.fld F.MEM_FRZLOG_HI_MASTER = portMaster p ∧
    t.fld F.MEM_FRZLOG_HI_WR = 0 ∧ (t.fld F.MEM_FRZLOG_HI_AUTH = if auth then 1 else 0) ∧ s.Raised t 217 = true ∧ t.lastAnswer
    p = Answer.mk 2 0 ∧ s.KeepsRegs t [.MEM_FRZ, .MEM_FRZLOG_LO, .MEM_FRZLOG_HI, .IRQ_PEND, .IRQ_CNT] ∧ s.KeepsBytes t)

/-- R43, R121, R163, R196, R342, R343: profiles. Where the rules leave a corner open, the clauses rest on the model's readings in
notes/assumptions/18.md and notes/assumptions/112.md. -/
def Obligations.ProfilesLoadOrAreRefused : Prop :=
  (∀ (s : State) (p : Port) (w : Word) (k : Fin 68) (e : List Byte), s.admits p (selectorKey (.drive k)) w = true → e =
    s.dev.image.drive.get [] (fieldGet w 0 4) → driveEntryOk e = true → Completes (.profileSelect p (.drive k) ⟨w, none⟩) s
    fun t => t.fld (F.TG_PROF_IDX k) = fieldGet w 0 4 ∧ t.fld (F.TG_PERIOD_CYC k) = entryNum e 0 4 ∧ t.fld (F.TG_DT_DT_LH k) =
    s.deadTime k (entryNum e 6 2) ∧ t.fld (F.TG_DT_DT_HL k) = s.deadTime k (entryNum e 4 2) ∧ t.reg (R.TG_PULSE k) = fieldPut
    (fieldPut 0 16 10 (entryNum e 10 2)) 0 10 (entryNum e 8 2) ∧ t.reg (R.TG_DMAX k) = (BitVec.ofNat 32 (entryNum e 12 2)) &&&
    (R.TG_DMAX k).id.mask ∧ t.reg (R.FMT_OCLIM k) = (BitVec.ofNat 32 (entryNum e 14 1)) &&& (R.FMT_OCLIM k).id.mask ∧
    t.lastAnswer p = Answer.mk 0 0 ∧ s.KeepsRegsAt t k [.TG_PROF, .TG_PERIOD, .TG_DT, .TG_PULSE, .TG_DMAX, .FMT_OCLIM,
    .TG_STAT] [] ∧ s.KeepsBytes t) ∧
  (∀ (s : State) (p : Port) (w : Word) (k : Fin 68), s.admits p (selectorKey (.drive k)) w = true → driveEntryOk
    (s.dev.image.drive.get [] (fieldGet w 0 4)) = false → Completes (.profileSelect p (.drive k) ⟨w, none⟩) s fun t => t.fld
    (F.BSTAT_BADVAL (0x100 + k)) = 1 ∧ t.dev.reqs = s.dev.reqs ∧ t.lastAnswer p = Answer.mk 0 0 ∧ s.KeepsRegs t [.BSTAT] ∧
    s.KeepsBytes t) ∧
  (∀ (s : State) (p : Port) (w : Word) (n : Fin 64) (e : List Byte), s.admits p (selectorKey (.loop n)) w = true → e =
    s.dev.image.loop.get [] (fieldGet w 0 4) → loopEntryOk e = true → Completes (.profileSelect p (.loop n) ⟨w, none⟩) s fun t
    => t.fld (F.VLOOP_PROF_IDX n) = fieldGet w 0 4 ∧ t.reg (R.VLOOP_CFG n) = (BitVec.ofNat 32 (entryNum e 0 4)) &&&
    (R.VLOOP_CFG n).id.mask ∧ t.reg (R.VLOOP_SCOMP n) = (BitVec.ofNat 32 (entryNum e 4 2)) &&& (R.VLOOP_SCOMP n).id.mask ∧
    t.reg (R.PROT_FILT n) = (BitVec.ofNat 32 (entryNum e 6 1)) &&& (R.PROT_FILT n).id.mask ∧ t.lastAnswer p = Answer.mk 0 0 ∧
    s.KeepsRegsAt t n [.VLOOP_PROF, .VLOOP_CFG, .VLOOP_SCOMP, .PROT_FILT] [] ∧ s.KeepsBytes t) ∧
  (∀ (s : State) (p : Port) (w : Word) (n : Fin 64), s.admits p (selectorKey (.loop n)) w = true → loopEntryOk
    (s.dev.image.loop.get [] (fieldGet w 0 4)) = false → Completes (.profileSelect p (.loop n) ⟨w, none⟩) s fun t => t.fld
    (F.BSTAT_BADVAL (0x180 + n)) = 1 ∧ t.dev.reqs = s.dev.reqs ∧ t.lastAnswer p = Answer.mk 0 0 ∧ s.KeepsRegs t [.BSTAT] ∧
    s.KeepsBytes t) ∧
  (∀ (s : State) (p : Port) (w : Word) (k : Fin 68) (e : List Byte), s.admits p (selectorKey (.conv k)) w = true → e =
    s.dev.image.conv.get [] (fieldGet w 0 4) → convEntryOk e = true → Completes (.profileSelect p (.conv k) ⟨w, none⟩) s fun t
    => t.fld (F.CONV_PROF_IDX k) = fieldGet w 0 4 ∧ t.fld (F.CONV_WIN_W k) = entryNum e 0 4 ∧ t.fld (F.CONV_OFS_CYC k) =
    entryNum e 4 4 ∧ t.reg (R.CONV_CFG k) = (BitVec.ofNat 32 (entryNum e 8 4)) &&& (R.CONV_CFG k).id.mask ∧ t.lastAnswer p =
    Answer.mk 0 0 ∧ s.KeepsRegsAt t k [.CONV_PROF, .CONV_WIN, .CONV_OFS, .CONV_CFG] [] ∧ s.KeepsBytes t) ∧
  (∀ (s : State) (p : Port) (w : Word) (k : Fin 68), s.admits p (selectorKey (.conv k)) w = true → convEntryOk
    (s.dev.image.conv.get [] (fieldGet w 0 4)) = false → Completes (.profileSelect p (.conv k) ⟨w, none⟩) s fun t => t.fld
    (F.BSTAT_BADVAL (0x100 + k)) = 1 ∧ t.cst k = s.cst k ∧ t.lastAnswer p = Answer.mk 0 0 ∧ s.KeepsRegs t [.BSTAT] ∧
    s.KeepsBytes t) ∧
  (∀ (s : State) (p : Port) (w : Word) (k : Fin 68) (e : List Byte), s.admits p (selectorKey (.capture k)) w = true → e =
    s.dev.image.capture.get [] (fieldGet w 0 4) → captureEntryOk e = true → Completes (.profileSelect p (.capture k) ⟨w,
    none⟩) s fun t => t.fld (F.CAP_PROF_IDX k) = fieldGet w 0 4 ∧ t.fld (F.CAP_CFG_DEPTH k) = entryNum e 0 2 ∧ t.fld
    (F.CAP_CFG_DEC k) = entryNum e 2 1 ∧ t.fld (F.CAP_CFG_TSRC k) = entryNum e 3 1 % 32 ∧ t.fld (F.CAP_CFG_TEDGE k) = entryNum
    e 3 1 / 32 ∧ t.reg (R.CAP_POST k) = (BitVec.ofNat 32 (entryNum e 4 4)) &&& (R.CAP_POST k).id.mask ∧ t.reg (R.CAP_OPT k) =
    (BitVec.ofNat 32 (entryNum e 8 1)) &&& (R.CAP_OPT k).id.mask ∧ t.lastAnswer p = Answer.mk 0 0 ∧ s.KeepsRegsAt t k
    [.CAP_PROF, .CAP_CFG, .CAP_POST, .CAP_OPT] [] ∧ s.KeepsBytes t) ∧
  (∀ (s : State) (p : Port) (w : Word) (k : Fin 68), s.admits p (selectorKey (.capture k)) w = true → captureEntryOk
    (s.dev.image.capture.get [] (fieldGet w 0 4)) = false → Completes (.profileSelect p (.capture k) ⟨w, none⟩) s fun t =>
    t.fld (F.BSTAT_BADVAL (0x100 + k)) = 1 ∧ t.cst k = s.cst k ∧ t.lastAnswer p = Answer.mk 0 0 ∧ s.KeepsRegs t [.BSTAT] ∧
    s.KeepsBytes t) ∧
  (∀ (s : State) (p : Port) (w : Word) (k : Fin 68) (i : Fin 4) (e : List Byte), s.admits p (selectorKey (.mask k i)) w =
    true → s.fld (F.MASK_SEL_EN k i) = 0 → e = s.dev.image.mask.get [] (fieldGet w 0 8) → maskEntryOk e = true → Completes
    (.profileSelect p (.mask k i) ⟨w, none⟩) s fun t => t.fld (F.MASK_SEL_IDX k i) = fieldGet w 0 8 ∧ t.fld (F.MASK_SEL_EN k
    i) = fieldGet w 31 1 ∧ ((t.mask k i).checking = if bit w 31 then true else (s.mask k i).checking) ∧ t.reg (R.MASK_CFG k i)
    = (BitVec.ofNat 32 (entryNum e 0 4)) &&& (R.MASK_CFG k i).id.mask ∧ t.reg (R.MASK_ADDR k i) = (BitVec.ofNat 32 (entryNum e
    4 4)) &&& (R.MASK_ADDR k i).id.mask ∧ t.reg (R.MASK_NBP k i) = (BitVec.ofNat 32 (entryNum e 8 2)) &&& (R.MASK_NBP k
    i).id.mask ∧ t.reg (R.MASK_APPR k i) = (BitVec.ofNat 32 (entryNum e 12 4)) &&& (R.MASK_APPR k i).id.mask ∧ t.lastAnswer p
    = Answer.mk 0 0 ∧ s.KeepsRegsAt t k [.MASK_SEL, .MASK_STATE, .MASK_CFG, .MASK_ADDR, .MASK_NBP, .MASK_APPR] [] ∧
    s.KeepsBytes t) ∧
  (∀ (s : State) (p : Port) (w : Word) (k : Fin 68) (i : Fin 4), s.admits p (selectorKey (.mask k i)) w = true → s.fld
    (F.MASK_SEL_EN k i) = 1 → bit w 31 = true → fieldGet w 0 8 ≠ s.fld (F.MASK_SEL_IDX k i) → s.fld (F.MASK_STATE_ST k i) ≠ 0
    → Completes (.profileSelect p (.mask k i) ⟨w, none⟩) s fun t => t.fld (F.BSTAT_BADVAL (0x100 + k)) = 1 ∧ t.reg (R.MASK_SEL
    k i) = s.reg (R.MASK_SEL k i) ∧ t.cst k = s.cst k ∧ t.lastAnswer p = Answer.mk 0 0 ∧ s.KeepsRegs t [.BSTAT] ∧ s.KeepsBytes
    t) ∧
  (∀ (s : State) (p : Port) (w : Word) (k : Fin 68) (i : Fin 4), s.admits p (selectorKey (.mask k i)) w = true → s.fld
    (F.MASK_SEL_EN k i) = 0 → bit w 31 = false → maskEntryOk (s.dev.image.mask.get [] (fieldGet w 0 8)) = false → Completes
    (.profileSelect p (.mask k i) ⟨w, none⟩) s fun t => t.fld (F.BSTAT_BADVAL (0x100 + k)) = 1 ∧ t.cst k = s.cst k ∧
    t.lastAnswer p = Answer.mk 0 0 ∧ s.KeepsRegs t [.BSTAT] ∧ s.KeepsBytes t)

/-- R25, R26, R28: commits. Where the rules leave a corner open, the clauses rest on the model's readings in
notes/assumptions/71.md. -/
def Obligations.CommitsMoveTheMapAtTheirBeat : Prop :=
  (∀ (s : State) (p : Port) (beat : BitVec 64), s.admits p R.XBAR_COMMIT_LO (BitVec.ofNat 32 beat.toNat) = true → s.admits p
    R.XBAR_COMMIT_HI (BitVec.ofNat 32 (beat.toNat / 2 ^ 32)) = true → s.valid = true → s.flg F.XBAR_STATUS_PENDING = false →
    s.reg64 R.LT_BEAT_LO R.LT_BEAT_HI < beat.toNat → hasRepeat s.pendMap = false → s.gangBusy = false → Completes (.commit p
    beat) s fun t => t.fld F.XBAR_STATUS_PENDING = 1 ∧ t.dev.xbar.map = s.pendMap ∧ t.dev.xbar.gangs = s.pendGangs ∧
    t.dev.xbar.beat = beat.toNat ∧ t.lastAnswer p = Answer.mk 0 0 ∧ s.KeepsRegs t [.XBAR_STATUS, .XBAR_COMMIT_LO,
    .XBAR_COMMIT_HI] ∧ s.KeepsBytes t) ∧
  (∀ (s : State) (p : Port) (beat : BitVec 64), s.admits p R.XBAR_COMMIT_LO (BitVec.ofNat 32 beat.toNat) = true → s.admits p
    R.XBAR_COMMIT_HI (BitVec.ofNat 32 (beat.toNat / 2 ^ 32)) = true → (s.valid = false ∨ s.flg F.XBAR_STATUS_PENDING = true ∨
    beat.toNat ≤ s.reg64 R.LT_BEAT_LO R.LT_BEAT_HI ∨ hasRepeat s.pendMap = true ∨ s.gangBusy = true) → Completes (.commit p
    beat) s fun t => t.fld F.XBAR_STATUS_PENDING = s.fld F.XBAR_STATUS_PENDING ∧ t.dev.xbar = s.dev.xbar ∧ (t.fld
    F.XBAR_STATUS_NOLT = if s.valid = false then 1 else s.fld F.XBAR_STATUS_NOLT) ∧ (t.fld F.XBAR_STATUS_BUSY = if s.flg
    F.XBAR_STATUS_PENDING then 1 else s.fld F.XBAR_STATUS_BUSY) ∧ (t.fld F.XBAR_STATUS_PAST = if s.valid = true ∧ beat.toNat ≤
    s.reg64 R.LT_BEAT_LO R.LT_BEAT_HI then 1 else s.fld F.XBAR_STATUS_PAST) ∧ (t.fld F.XBAR_STATUS_CONFLICT = if hasRepeat
    s.pendMap then 1 else s.fld F.XBAR_STATUS_CONFLICT) ∧ (t.fld F.XBAR_STATUS_GANG_BUSY = if s.gangBusy then 1 else s.fld
    F.XBAR_STATUS_GANG_BUSY) ∧ t.lastAnswer p = Answer.mk 0 0 ∧ s.KeepsRegs t [.XBAR_STATUS, .XBAR_COMMIT_LO, .XBAR_COMMIT_HI]
    ∧ s.KeepsBytes t) ∧
  (∀ (s : State), s.awake = true → s.flg F.XBAR_STATUS_PENDING = true → s.valid = true → hasRepeat (channels.map fun (n :
    Nat) => s.dev.xbar.map.getD n n) = false → channels.all (fun n => decide (s.dev.xbar.map.getD n n < 68)) = true →
    Completes (.commitTakesEffect) s fun t => t.now = s.onTo (s.dev.xbar.beat * (s.reg R.LT_BEATCYC).toNat) ∧ (∀ n < 64, t.fld
    (F.XBAR_MAP_CORE n) = s.dev.xbar.map.getD n n % 2 ^ 7) ∧ (∀ g < 16, t.fld (F.XBAR_GANG_MODE g) = s.dev.xbar.gangs.getD g 0
    % 2 ^ 3) ∧ t.fld F.XBAR_STATUS_PENDING = 0 ∧ t.fld F.XBAR_STATUS_DONE = 1 ∧ (∀ n < 64, t.core n ≠ s.core n → t.fld
    (F.FMT_MODE_CUR (t.core n)) = 1) ∧ (∀ n < 64, t.core n ≠ s.core n → t.capSt (s.core n) = 0) ∧ (∀ n < 64, t.core n ≠ s.core
    n → ∀ u < 4, t.unitSt (s.core n) u = 0) ∧ (∀ n < 64, t.core n ≠ s.core n → t.seqSt (t.core n) = if s.seqSt (s.core n) =
    stHeld ∧ (s.cst (t.core n)).ctxWritten = true then stHeld else stIdle) ∧ (∀ n < 64, t.core n ≠ s.core n → (s.seqSt (s.core
    n) = stRun ∨ s.seqSt (s.core n) = stWait ∨ s.seqSt (s.core n) = stHeld) → t.seqSt (t.core n) ≠ stHeld → t.fld
    (F.CAL_CH_TST_CTXLOST n) = 1) ∧ s.KeepsRegs t [.CAL_CH_TST, .CAP_HDROP, .CAP_STAT, .CAP_STATE, .EVJ_PEND, .EVM_CNT,
    .EVM_DROP, .EVM_INFO, .EVM_IVL_HI, .EVM_IVL_LO, .EVM_STAT, .EVM_STATE, .EVM_ST_HI, .EVM_ST_LO, .EVM_SUBR, .FMT_MODE,
    .IRQ_CNT, .IRQ_PEND, .LOOP_NOW, .LOOP_TAPERNOW, .PLAY_SEGID, .RING_STAT, .SEQ_PC, .SEQ_STATE, .SEQ_WHY, .XBAR_GANG,
    .XBAR_MAP, .XBAR_STATUS, .MEM_ECCCNT, .MEM_ECCA_LO, .MEM_ECCA_HI, .PWR_LOST, .IRQ_PEND, .IRQ_CNT] ∧ s.KeepsBytesBut t
    padBase 0x1001000) ∧
  (∀ (s : State), s.awake = true → s.flg F.XBAR_STATUS_PENDING = true → s.valid = true → channels.all (fun n =>
    s.dev.xbar.map.getD n n = s.core n) = true → Completes (.commitTakesEffect) s fun t => t.now = s.onTo (s.dev.xbar.beat *
    (s.reg R.LT_BEATCYC).toNat) ∧ (∀ g < 16, t.fld (F.XBAR_GANG_MODE g) = s.dev.xbar.gangs.getD g 0 % 2 ^ 3) ∧ (∀ n < 64,
    t.core n = s.core n) ∧ t.fld F.XBAR_STATUS_PENDING = 0 ∧ t.fld F.XBAR_STATUS_DONE = 1 ∧ t.dev.cores = s.dev.cores ∧
    t.dev.reqs = s.dev.reqs ∧ s.KeepsRegs t [.XBAR_GANG, .XBAR_MAP, .XBAR_STATUS] ∧ s.KeepsBytes t)

/-- R55: "In ACQUIRE, a window with |d| > 2 restarts the count of four." -/
def Obligations.LargeDifferencesRestartTheCountAndSmallOnesWarn : Prop :=
  (∀ (s : State) (cycles backup : Nat) (phase : BitVec 16), s.awake = true → s.fld F.LT_STATE_LOCK_ST = 3 → 2 < ((cycles :
    Int) - (16384 * cyclesPerRef (s.fld F.LT_XREF_RATE) : Nat)).natAbs → Completes (.lockWindow cycles backup phase) s fun t
    => t.dev.lt.lockGood = 0 ∧ t.fld F.LT_STATE_LOCK_ST ≠ 4 ∧ s.KeepsRegs t [.LT_STATE, .LT_LOCKDIAG] ∧ s.KeepsBytes t) ∧
  (∀ (s : State) (cycles backup : Nat) (phase : BitVec 16), s.awake = true → s.fld F.LT_STATE_LOCK_ST = 4 → 2 < ((cycles :
    Int) - (16384 * cyclesPerRef (s.fld F.LT_XREF_RATE) : Nat)).natAbs → ((cycles : Int) - (16384 * cyclesPerRef (s.fld
    F.LT_XREF_RATE) : Nat)).natAbs ≤ 8 → Completes (.lockWindow cycles backup phase) s fun t => t.reg R.LT_STATE = s.reg
    R.LT_STATE ∧ t.fld F.LT_LOCKDIAG_WARN = min (s.fld F.LT_LOCKDIAG_WARN + 1) 255 ∧ s.KeepsRegs t [.LT_LOCKDIAG] ∧
    s.KeepsBytes t)

/-- R457: a PCMD frame. -/
def Obligations.APeerCommandOffersItsClass : Prop :=
  (∀ (s : State) (link : Fin 2) (n : Fin 64) (arg : Word), s.awake = true → s.linkOn link = true → s.flg (if link.val = 0
    then F.PEER_CFG_PCMD_E else F.PEER_CFG_PCMD_W) = true → Completes (.pcmd link n arg) s fun t => t.reg (R.PEER_PARG n) =
    arg ∧ (t.cst (s.leadCore n)).seq.offers = (s.cst (s.leadCore n)).seq.offers ++ [(10, s.now)] ∧ s.Raised t 206 = true ∧
    t.fld F.PEER_CNT_PCMD_IGN = s.fld F.PEER_CNT_PCMD_IGN ∧ s.KeepsRegs t [.PEER_PARG, .IRQ_PEND, .IRQ_CNT] ∧ s.KeepsBytes t) ∧
  (∀ (s : State) (link : Fin 2) (n : Fin 64) (arg : Word), s.awake = true → s.linkOn link = true → s.flg (if link.val = 0
    then F.PEER_CFG_PCMD_E else F.PEER_CFG_PCMD_W) = false → Completes (.pcmd link n arg) s fun t => t.fld F.PEER_CNT_PCMD_IGN
    = satInc 8 (s.fld F.PEER_CNT_PCMD_IGN) ∧ t.dev = s.dev ∧ s.KeepsRegs t [.PEER_CNT] ∧ s.KeepsBytes t)

/-- R52, R53, R56, Table 2.3: the reference and the lock machine; R75 steps 2 and 3, R291, R317. Where the rules leave a corner
open, the clauses rest on the model's readings in notes/assumptions/10.md and notes/assumptions/23.md. -/
def Obligations.ReferenceLossLeadsToHoldover : Prop :=
  (∀ (s : State) (n : Nat), s.awake = true → s.fld F.LT_XREF_RATE ≤ 4 → presenceGood (s.fld F.LT_XREF_RATE) n = true → 3 ≤
    s.dev.lt.goodWindows → s.fld F.LT_STATE_REF_OK = 0 → s.fld F.LT_STATE_LOCK_ST = 1 → Completes (.presenceWindow n) s fun t
    => t.fld F.LT_STATE_REF_OK = 1 ∧ t.fld F.LT_STATE_LOCK_ST = 2 ∧ t.dev.lt.goodWindows = 4 ∧ s.KeepsRegs t [.LT_STATE,
    .IRQ_PEND, .IRQ_CNT] ∧ s.KeepsBytes t) ∧
  (∀ (s : State) (n : Nat), s.awake = true → s.fld F.LT_XREF_RATE ≤ 4 → presenceGood (s.fld F.LT_XREF_RATE) n = false →
    s.fld F.LT_STATE_LOCK_ST = 4 → Completes (.presenceWindow n) s fun t => t.fld F.LT_STATE_REF_OK = 0 ∧ t.fld
    F.LT_EVT_REF_LOSS = 1 ∧ t.dev.lt.goodWindows = 0 ∧ t.fld F.LT_STATE_LOCK_ST = 5 ∧ t.fld F.LT_STATE_HOLDOVER = 1 ∧
    s.KeepsRegs t [.LT_STATE, .LT_EVT, .LT_LOCKDIAG, .XBAR_STATUS, .CAL_RMST, .FPKT_STAT, .IRQ_PEND, .IRQ_CNT] ∧ s.KeepsBytes
    t) ∧
  (∀ (s : State), s.awake = true → s.fld F.LT_STATE_LOCK_ST = 4 → Completes (.missingEdge) s fun t => t.fld
    F.LT_STATE_LOCK_ST = 5 ∧ t.fld F.LT_STATE_HOLDOVER = 1 ∧ t.fld F.LT_EVT_LOCK_LOSS = 1 ∧ t.fld F.LT_STATE_REF_OK = s.fld
    F.LT_STATE_REF_OK ∧ s.KeepsRegs t [.LT_STATE, .LT_EVT, .LT_LOCKDIAG, .XBAR_STATUS, .CAL_RMST, .FPKT_STAT, .IRQ_PEND,
    .IRQ_CNT] ∧ s.KeepsBytes t) ∧
  (∀ (s : State), s.awake = true → s.fld F.LT_STATE_LOCK_ST = 4 → Completes (.trackingLimit) s fun t => t.fld
    F.LT_STATE_LOCK_ST = 5 ∧ t.fld F.LT_STATE_HOLDOVER = 1 ∧ t.fld F.LT_EVT_TRACK = 1 ∧ s.KeepsRegs t [.LT_STATE, .LT_EVT,
    .LT_LOCKDIAG, .XBAR_STATUS, .CAL_RMST, .FPKT_STAT, .IRQ_PEND, .IRQ_CNT] ∧ s.KeepsBytes t) ∧
  (∀ (s : State), s.awake = true → s.fld F.LT_STATE_LOCK_ST = 2 → Completes (.calDone) s fun t => t.fld F.LT_STATE_LOCK_ST =
    3 ∧ s.KeepsRegs t [.LT_STATE] ∧ s.KeepsBytes t) ∧
  (∀ (s : State), s.awake = true → s.fld F.LT_STATE_LOCK_ST = 5 → Completes (.lostHoldEnd) s fun t => (t.fld
    F.LT_STATE_LOCK_ST = if s.flg F.LT_STATE_REF_OK then 2 else 1) ∧ s.KeepsRegs t [.LT_STATE] ∧ s.KeepsBytes t) ∧
  (∀ (s : State), s.awake = true → s.dev.lt.freezeDue = true → Completes (.holdoverFreeze) s fun t => t.dev.lt.freezeDue =
    false ∧ (t.fld F.LT_STATE_LT_ST = if s.fld F.LT_STATE_LT_ST = 1 then 2 else s.fld F.LT_STATE_LT_ST) ∧ (∀ n < 64, t.seqSt
    (s.core n) = stFrozen) ∧ (∀ k < 68, t.capSt k = 0) ∧ (s.fld F.LT_STATE_LT_ST = 1 → ∀ n < 64, (t.fe n).clear = none ∧
    (t.cst (s.core n)).win.gap = true) ∧ s.KeepsRegs t [.LT_STATE, .SEQ_STATE, .CAP_STATE, .CAP_STAT, .CAP_HDROP, .RING_STAT,
    .FPKT_STAT, .IRQ_PEND, .IRQ_CNT, .MEM_ECCCNT, .MEM_ECCA_LO, .MEM_ECCA_HI, .PWR_LOST, .IRQ_PEND, .IRQ_CNT] ∧
    s.KeepsBytesBut t padBase 0x1001000)

/-- R54, R55: lock windows. Where the rules leave a corner open, the clauses rest on the model's readings in
notes/assumptions/10.md. -/
def Obligations.LockWindowsLockAndUnlock : Prop :=
  (∀ (s : State) (cycles backup : Nat) (phase : BitVec 16), s.awake = true → s.fld F.LT_STATE_LOCK_ST = 3 → ((cycles : Int)
    - (16384 * cyclesPerRef (s.fld F.LT_XREF_RATE) : Nat)).natAbs ≤ 2 → s.dev.lt.lockGood = 3 → Completes (.lockWindow cycles
    backup phase) s fun t => t.fld F.LT_STATE_LOCK_ST = 4 ∧ t.fld F.LT_PHASE_SUB = phase.toNat ∧ s.Raised t 146 = true ∧
    t.sfld F.LT_LOCKDIAG_LAST_D = clampInt (-127) 127 ((cycles : Int) - (16384 * cyclesPerRef (s.fld F.LT_XREF_RATE) : Nat)) ∧
    s.KeepsRegs t [.LT_STATE, .LT_PHASE, .LT_LOCKDIAG, .FPKT_HOLDCNT, .FPKT_STAT, .MEM_ECCCNT, .MEM_ECCA_LO, .MEM_ECCA_HI,
    .PWR_LOST, .IRQ_PEND, .IRQ_CNT] ∧ s.KeepsBytesBut t (retBase + 0x100) 0x1000) ∧
  (∀ (s : State) (cycles backup : Nat) (phase : BitVec 16), s.awake = true → s.fld F.LT_STATE_LOCK_ST = 3 → 2 < ((cycles :
    Int) - (16384 * cyclesPerRef (s.fld F.LT_XREF_RATE) : Nat)).natAbs → s.dev.lt.lockTotal = 63 → Completes (.lockWindow
    cycles backup phase) s fun t => t.fld F.LT_STATE_LOCK_ST = 2 ∧ t.fld F.LT_LOCKDIAG_ACQ_RETRY = satInc 8 (s.fld
    F.LT_LOCKDIAG_ACQ_RETRY) ∧ s.KeepsRegs t [.LT_STATE, .LT_LOCKDIAG] ∧ s.KeepsBytes t) ∧
  (∀ (s : State) (cycles backup : Nat) (phase : BitVec 16), s.awake = true → s.fld F.LT_STATE_LOCK_ST = 3 → ((cycles : Int)
    - (16384 * cyclesPerRef (s.fld F.LT_XREF_RATE) : Nat)).natAbs ≤ 2 → s.dev.lt.lockGood < 3 → s.dev.lt.lockTotal < 63 →
    Completes (.lockWindow cycles backup phase) s fun t => t.fld F.LT_STATE_LOCK_ST = 3 ∧ t.dev.lt.lockGood =
    s.dev.lt.lockGood + 1 ∧ t.dev.lt.lockTotal = s.dev.lt.lockTotal + 1 ∧ s.KeepsRegs t [.LT_LOCKDIAG] ∧ s.KeepsBytes t) ∧
  (∀ (s : State) (cycles backup : Nat) (phase : BitVec 16), s.awake = true → s.fld F.LT_STATE_LOCK_ST = 4 → ((cycles : Int)
    - (16384 * cyclesPerRef (s.fld F.LT_XREF_RATE) : Nat)).natAbs ≤ 8 → Completes (.lockWindow cycles backup phase) s fun t =>
    t.fld F.LT_STATE_LOCK_ST = 4 ∧ t.dev.lt.fcCycles = cycles ∧ (t.fld F.LT_LOCKDIAG_WARN = if 2 < ((cycles : Int) - (16384 *
    cyclesPerRef (s.fld F.LT_XREF_RATE) : Nat)).natAbs then satInc 8 (s.fld F.LT_LOCKDIAG_WARN) else s.fld F.LT_LOCKDIAG_WARN)
    ∧ t.sfld F.LT_LOCKDIAG_LAST_D = clampInt (-127) 127 ((cycles : Int) - (16384 * cyclesPerRef (s.fld F.LT_XREF_RATE) : Nat))
    ∧ s.KeepsRegs t [.LT_LOCKDIAG] ∧ s.KeepsBytes t) ∧
  (∀ (s : State) (cycles backup : Nat) (phase : BitVec 16), s.awake = true → s.fld F.LT_STATE_LOCK_ST = 4 → 8 < ((cycles :
    Int) - (16384 * cyclesPerRef (s.fld F.LT_XREF_RATE) : Nat)).natAbs → Completes (.lockWindow cycles backup phase) s fun t
    => t.fld F.LT_STATE_LOCK_ST = 5 ∧ t.fld F.LT_STATE_HOLDOVER = 1 ∧ t.fld F.LT_EVT_LOCK_LOSS = 1 ∧ s.KeepsRegs t [.LT_STATE,
    .LT_EVT, .LT_LOCKDIAG, .XBAR_STATUS, .CAL_RMST, .FPKT_STAT, .IRQ_PEND, .IRQ_CNT] ∧ s.KeepsBytes t)

/-- R61, R63, R64, R66, R67: how Line Time is set and kept. Where the rules leave a corner open, the clauses rest on the model's
readings in notes/assumptions/10.md and notes/assumptions/23.md. -/
def Obligations.BeatsAndFramesSetLineTime : Prop :=
  (∀ (s : State) (clean : Bool) (pre : BitVec 16) (sfd flags : Byte) (beat : BitVec 64) (crc : BitVec 16) (gap : Nat),
    s.awake = true → clean = true → sfd = 0x5D → flags.toNat / 16 = 1 → crc = crc16 (flags :: natLE 8 beat.toNat) → 64 ≤ gap →
    Completes (.epochinFrame clean pre (flags ++ sfd) beat crc gap) s fun t => t.dev.lt.frame = some (Frame.mk beat.toNat
    (flags.toNat.testBit 3)) ∧ (t.fld F.LT_CNT_FRAME_DROP = if s.dev.lt.frame.isSome then satInc 8 (s.fld F.LT_CNT_FRAME_DROP)
    else s.fld F.LT_CNT_FRAME_DROP) ∧ s.KeepsRegs t [.LT_CNT] ∧ s.KeepsBytes t) ∧
  (∀ (s : State) (clean : Bool) (pre : BitVec 16) (sfd flags : Byte) (beat : BitVec 64) (crc : BitVec 16) (gap : Nat),
    s.awake = true → (clean = false ∨ sfd ≠ 0x5D ∨ flags.toNat / 16 ≠ 1 ∨ crc ≠ crc16 (flags :: natLE 8 beat.toNat) ∨ gap <
    64) → Completes (.epochinFrame clean pre (flags ++ sfd) beat crc gap) s fun t => t.dev.lt.frame = s.dev.lt.frame ∧ t.fld
    F.LT_CNT_FRAME_DROP = satInc 8 (s.fld F.LT_CNT_FRAME_DROP) ∧ s.KeepsRegs t [.LT_CNT] ∧ s.KeepsBytes t) ∧
  (∀ (s : State), s.awake = true → s.fld F.LT_STATE_LT_ST = 1 → Completes (.syncinBeat) s fun t => t.fld F.LT_CNT_SYNC_ERR =
    satInc 8 (s.fld F.LT_CNT_SYNC_ERR) ∧ s.Raised t 152 = true ∧ t.now = s.now ∧ s.KeepsRegs t [.LT_CNT, .IRQ_PEND, .IRQ_CNT]
    ∧ s.KeepsBytes t) ∧
  (∀ (s : State) (f : Frame), s.awake = true → s.fld F.LT_STATE_LT_ST ≠ 1 → s.locked = true → s.dev.lt.frame = some f →
    Completes (.syncinBeat) s fun t => t.now = s.loadedCyc f.beat ∧ t.fld F.LT_STATE_LT_ST = 1 ∧ t.reg64 R.LT_BEAT_LO
    R.LT_BEAT_HI = f.beat % 2 ^ 64 ∧ t.fld F.LT_STATE_HOLDOVER = 0 ∧ t.fld F.LT_STATE_SUSPECT = 0 ∧ (t.fld F.LT_STATE_MHOLD =
    if f.mhold then 1 else 0) ∧ t.dev.lt.frame = none ∧ s.Raised t 149 = true ∧ s.KeepsRegs t [.LT_STATE, .LT_BEAT_LO,
    .LT_BEAT_HI, .LT_REEST, .IRQ_PEND, .IRQ_CNT, .IRQ_LIVE] ∧ s.KeepsBytes t) ∧
  (∀ (s : State), s.awake = true → s.fld F.LT_STATE_LT_ST ≠ 1 → s.locked = false → Completes (.syncinBeat) s fun t =>
    t.dev.lt.frame = none ∧ t.now = s.now ∧ (t.fld F.LT_STATE_MHOLD = if s.dev.lt.frame.any (fun (f : Frame) => f.mhold) then
    1 else if s.dev.lt.frame.isSome then 0 else s.fld F.LT_STATE_MHOLD) ∧ s.KeepsRegs t [.LT_STATE] ∧ s.KeepsBytes t) ∧
  (∀ (s : State) (sync : Bool) (b : Nat), s.awake = true → s.fld F.LT_STATE_LT_ST = 1 → b = (s.reg64 R.LT_BEAT_LO
    R.LT_BEAT_HI + 1) % 2 ^ 64 → Completes (.beat sync) s fun t => t.reg64 R.LT_BEAT_LO R.LT_BEAT_HI = b ∧ t.now = s.onTo (b *
    (s.reg R.LT_BEATCYC).toNat) ∧ t.dev.lt.frame = none ∧ (t.fld F.LT_CNT_BEAT_MISS = if sync then s.fld F.LT_CNT_BEAT_MISS
    else satInc 8 (s.fld F.LT_CNT_BEAT_MISS)) ∧ (t.fld F.LT_CNT_EPOCH_ERR = if s.dev.lt.frame.any (fun (f : Frame) => f.beat
    != b) then satInc 8 (s.fld F.LT_CNT_EPOCH_ERR) else s.fld F.LT_CNT_EPOCH_ERR) ∧ s.KeepsRegs t [.LT_STATE, .LT_BEAT_LO,
    .LT_BEAT_HI, .LT_CNT, .LT_EVT, .SEQ_STATE, .IRQ_PEND, .IRQ_CNT, .IRQ_LIVE] ∧ s.KeepsBytes t)

/-- R69, R70, R79, R80: the clock registers. Where the rules leave a corner open, the clauses rest on the model's readings in
notes/assumptions/21.md and notes/assumptions/24.md. -/
def Obligations.ClockRegistersActOrRefuse : Prop :=
  (∀ (s : State) (p : Port), s.admits p R.LT_CTL (fieldPut (s.reg R.LT_CTL) 1 1 1) = true → s.anyActive = false → Completes
    (.realign p) s fun t => t.fld F.LT_STATE_LT_ST = 0 ∧ t.answeredOk p = true ∧ s.KeepsRegs t [.LT_CTL, .LT_STATE, .LT_EVT,
    .LT_LOCKDIAG, .XBAR_STATUS, .CAL_RMST, .FPKT_STAT, .IRQ_PEND, .IRQ_CNT] ∧ s.KeepsBytes t) ∧
  (∀ (s : State) (p : Port), s.admits p R.LT_CTL (fieldPut (s.reg R.LT_CTL) 1 1 1) = true → s.anyActive = true → Completes
    (.realign p) s fun t => t.fld F.LT_EVT_BUSY = 1 ∧ t.reg R.LT_STATE = s.reg R.LT_STATE ∧ t.answeredOk p = true ∧
    s.KeepsRegs t [.LT_CTL, .LT_EVT] ∧ s.KeepsBytes t) ∧
  (∀ (s : State) (p : Port), s.admits p R.LT_CTL (fieldPut (s.reg R.LT_CTL) 2 1 1) = true → s.anyActive = false → s.locked =
    true → Completes (.relock p) s fun t => t.fld F.LT_STATE_LOCK_ST = 5 ∧ t.fld F.LT_STATE_HOLDOVER = 1 ∧ t.answeredOk p =
    true ∧ s.KeepsRegs t [.LT_CTL, .LT_STATE, .LT_EVT, .LT_LOCKDIAG, .XBAR_STATUS, .CAL_RMST, .FPKT_STAT, .IRQ_PEND, .IRQ_CNT]
    ∧ s.KeepsBytes t) ∧
  (∀ (s : State) (p : Port), s.admits p R.LT_CTL (fieldPut (s.reg R.LT_CTL) 2 1 1) = true → s.anyActive = true → Completes
    (.relock p) s fun t => t.fld F.LT_EVT_BUSY = 1 ∧ t.reg R.LT_STATE = s.reg R.LT_STATE ∧ t.answeredOk p = true ∧ s.KeepsRegs
    t [.LT_CTL, .LT_EVT] ∧ s.KeepsBytes t) ∧
  (∀ (s : State) (p : Port) (w : Word), s.admits p R.LT_SKEW w = true → ((signed 20 (fieldGet w 0 20) -
    s.dev.lt.skew).natAbs ≤ 256 ∨ s.anyActive = false) → Completes (.skewWrite p w) s fun t => t.fld F.LT_SKEW_SUB = fieldGet
    w 0 20 ∧ t.dev.lt.skewPending = some (signed 20 (fieldGet w 0 20)) ∧ t.answeredOk p = true ∧ s.KeepsRegs t [.LT_SKEW] ∧
    s.KeepsBytes t) ∧
  (∀ (s : State) (p : Port) (w : Word), s.admits p R.LT_SKEW w = true → 256 < (signed 20 (fieldGet w 0 20) -
    s.dev.lt.skew).natAbs → s.anyActive = true → Completes (.skewWrite p w) s fun t => t.fld F.LT_EVT_BUSY = 1 ∧
    t.dev.lt.skewPending = s.dev.lt.skewPending ∧ t.answeredOk p = true ∧ s.KeepsRegs t [.LT_EVT] ∧ s.KeepsBytes t) ∧
  (∀ (s : State) (p : Port) (w : Word), s.admits p R.LT_XREF w = true → xrefAllowed s w = false → Completes (.xrefWrite p w)
    s fun t => t.fld (F.BSTAT_BADVAL 1) = 1 ∧ t.answeredOk p = true ∧ s.KeepsRegs t [.BSTAT] ∧ s.KeepsBytes t) ∧
  (∀ (s : State) (p : Port) (w : Word), s.admits p R.LT_XREF w = true → xrefAllowed s w = true → w &&& R.LT_XREF.id.mask ≠
    s.reg R.LT_XREF → s.anyActive = true → Completes (.xrefWrite p w) s fun t => t.fld F.LT_EVT_BUSY = 1 ∧ t.answeredOk p =
    true ∧ s.KeepsRegs t [.LT_EVT] ∧ s.KeepsBytes t) ∧
  (∀ (s : State) (p : Port) (w : Word), s.admits p R.LT_XREF w = true → xrefAllowed s w = true → w &&& R.LT_XREF.id.mask ≠
    s.reg R.LT_XREF → s.anyActive = false → Completes (.xrefWrite p w) s fun t => t.reg R.LT_XREF = w &&& R.LT_XREF.id.mask ∧
    (t.fld F.LT_STATE_LOCK_ST = if fieldGet w 12 3 = 7 then 0 else if fieldGet w 12 3 ≠ s.fld F.LT_XREF_RATE then 1 else if
    s.fld F.LT_STATE_REF_OK = 1 then 2 else 1) ∧ t.answeredOk p = true ∧ s.KeepsRegs t [.LT_XREF, .LT_STATE, .LT_EVT,
    .LT_LOCKDIAG, .XBAR_STATUS, .CAL_RMST, .FPKT_STAT, .IRQ_PEND, .IRQ_CNT] ∧ s.KeepsBytes t) ∧
  (∀ (s : State) (p : Port) (w x : Word) (i : Nat), s.admits p R.LT_CLKPROF w = true → i = fieldGet w 0 4 →
    s.dev.image.clock.find? (fun e => e.1 = i) = some (i, x) → xrefAllowed s x = true → x &&& R.LT_XREF.id.mask ≠ s.reg
    R.LT_XREF → s.anyActive = false → Completes (.clkprofSelect p w) s fun t => t.fld F.LT_CLKPROF_PROF = i ∧ t.reg R.LT_XREF
    = x &&& R.LT_XREF.id.mask ∧ t.answeredOk p = true ∧ s.KeepsRegs t [.LT_CLKPROF, .LT_XREF, .LT_STATE, .LT_EVT,
    .LT_LOCKDIAG, .XBAR_STATUS, .CAL_RMST, .FPKT_STAT, .IRQ_PEND, .IRQ_CNT] ∧ s.KeepsBytes t) ∧
  (∀ (s : State) (p : Port) (w : Word), s.admits p R.LT_CLKPROF w = true → s.dev.image.clock.find? (fun e => e.1 = fieldGet
    w 0 4) = none → Completes (.clkprofSelect p w) s fun t => t.fld (F.BSTAT_BADVAL 1) = 1 ∧ t.answeredOk p = true ∧
    s.KeepsRegs t [.BSTAT] ∧ s.KeepsBytes t)

/-- R266, R270, R279, R280: NOP, HALT, CALM, JUMP. Where the rules leave a corner open, the clauses rest on the model's readings
in notes/assumptions/27.md, notes/assumptions/31.md and notes/assumptions/34.md. -/
def Obligations.PlainStepsRun : Prop :=
  (∀ (s : State) (n : Fin 64), s.takesStep n 0x00 = true → Completes (.nop n) s fun t => t.seqSt (s.core n) = stRun ∧ t.pc
    (s.core n) = (s.pc (s.core n) + 1) % 2 ^ 21 ∧ t.now = max (s.onTo (s.stepB (s.core n))) ((s.stepB (s.core n) + 16) % 2 ^
    64) ∧ s.KeepsRegsAt t (s.core n) [.SEQ_PC] [.MEM_ECCCNT, .MEM_ECCA_LO, .MEM_ECCA_HI, .IRQ_PEND, .IRQ_CNT] ∧ s.KeepsBytes
    t) ∧
  (∀ (s : State) (n : Fin 64), s.takesStep n 0x01 = true → Completes (.halt n) s fun t => t.seqSt (s.core n) = stHalted ∧
    t.fld (F.SEQ_STAT_HALT (s.core n)) = 1 ∧ t.pc (s.core n) = s.pc (s.core n) ∧ s.Raised t (n + 65) = true ∧ t.now = max
    (s.onTo (s.stepB (s.core n))) ((s.stepB (s.core n) + 16) % 2 ^ 64) ∧ s.KeepsRegsAt t (s.core n) [.SEQ_STATE, .SEQ_STAT]
    [.IRQ_PEND, .IRQ_CNT, .MEM_ECCCNT, .MEM_ECCA_LO, .MEM_ECCA_HI] ∧ s.KeepsBytes t) ∧
  (∀ (s : State) (n : Fin 64), s.takesStep n 0x02 = true → operand (s.nextWord n) 0 1 = 0 → Completes (.calm n) s fun t =>
    t.seqSt (s.core n) = stHeld ∧ t.pc (s.core n) = (s.pc (s.core n) + 1) % 2 ^ 21 ∧ (t.cst (s.core n)).drv.calm.isSome = true
    ∧ t.now = max (s.onTo (s.stepB (s.core n))) ((s.stepB (s.core n) + 16) % 2 ^ 64) ∧ s.KeepsRegsAt t (s.core n) [.SEQ_STATE,
    .SEQ_PC] [.MEM_ECCCNT, .MEM_ECCA_LO, .MEM_ECCA_HI, .IRQ_PEND, .IRQ_CNT] ∧ s.KeepsBytes t) ∧
  (∀ (s : State) (n : Fin 64), s.takesStep n 0x02 = true → operand (s.nextWord n) 0 1 = 1 → Completes (.calm n) s fun t =>
    t.seqSt (s.core n) = stHeld ∧ t.pc (s.core n) = (s.pc (s.core n) + 1) % 2 ^ 21 ∧ t.dev.sql.joined = s.dev.sql.joined ++
    [n.val] ∧ t.now = max (s.onTo (s.stepB (s.core n))) ((s.stepB (s.core n) + 16) % 2 ^ 64) ∧ s.KeepsRegsAt t (s.core n)
    [.SEQ_STATE, .SEQ_PC] [.MEM_ECCCNT, .MEM_ECCA_LO, .MEM_ECCA_HI, .IRQ_PEND, .IRQ_CNT] ∧ s.KeepsBytes t) ∧
  (∀ (s : State) (n : Fin 64), s.takesStep n 0x08 = true → operand (s.nextWord n) 24 4 + (((s.cst (s.core
    n)).seq.calls.head?.map (·.2)).getD 0) ≤ (s.cst (s.core n)).seq.loops.length → Completes (.jump n) s fun t => t.seqSt
    (s.core n) = stRun ∧ t.pc (s.core n) = operand (s.nextWord n) 0 21 ∧ (t.cst (s.core n)).seq.loops = (s.cst (s.core
    n)).seq.loops.drop (operand (s.nextWord n) 24 4) ∧ (t.cst (s.core n)).seq.calls = (s.cst (s.core n)).seq.calls ∧ t.now =
    max (s.onTo (s.stepB (s.core n))) ((s.stepB (s.core n) + 16) % 2 ^ 64) ∧ s.KeepsRegsAt t (s.core n) [.SEQ_PC]
    [.MEM_ECCCNT, .MEM_ECCA_LO, .MEM_ECCA_HI, .IRQ_PEND, .IRQ_CNT] ∧ s.KeepsBytes t) ∧
  (∀ (s : State) (n : Fin 64) (m : Nat), s.awake = true → s.stepping n = true → s.badWord (stepAddr (s.pc (s.core n))) 8 =
    false → s.opcode (s.core n) = 0 → s.entryOk (s.core n) 0 = true → s.dispatchOk (s.core n) 0 = false → s.microWord (s.core
    n) (s.entryTarget 0) = some m → microReserved m = false → operand m 36 4 = 0 → operand m 93 3 = 4 → operand m 67 5 = 1 →
    operand m 63 4 = 1 → operand m 59 4 = 2 → operand m 55 4 ≠ 14 → operand m 44 6 = 0 → operand m 40 4 = 0 → (s.cst (s.core
    n)).seq.dq = [] → Completes (.nop n) s fun t => t.seqSt (s.core n) = stRun ∧ t.pc (s.core n) = (s.pc (s.core n) + 1) % 2 ^
    21 ∧ t.stepB (s.core n) = s.stepB (s.core n) + 8 ∧ t.now = s.onTo (s.stepB (s.core n)) ∧ s.KeepsRegsAt t (s.core n)
    [.SEQ_PC] [.MEM_ECCCNT, .MEM_ECCA_LO, .MEM_ECCA_HI, .IRQ_PEND, .IRQ_CNT] ∧ s.KeepsBytes t)

/-- R267 to R269, R278: loops, calls and DISPATCH. Where the rules leave a corner open, the clauses rest on the model's readings
in notes/assumptions/32.md and notes/assumptions/34.md. -/
def Obligations.LoopsCallsAndDispatch : Prop :=
  (∀ (s : State) (n : Fin 64), s.takesStep n 0x09 = true → (s.cst (s.core n)).seq.calls.length < 8 → Completes (.call n) s
    fun t => t.seqSt (s.core n) = stRun ∧ t.pc (s.core n) = operand (s.nextWord n) 0 21 ∧ (t.cst (s.core n)).seq.calls =
    ((s.pc (s.core n) + 1) % 2 ^ 21, (s.cst (s.core n)).seq.loops.length) :: (s.cst (s.core n)).seq.calls ∧ (t.cst (s.core
    n)).seq.loops = (s.cst (s.core n)).seq.loops ∧ t.now = max (s.onTo (s.stepB (s.core n))) ((s.stepB (s.core n) + 24) % 2 ^
    64) ∧ s.KeepsRegsAt t (s.core n) [.SEQ_PC] [.MEM_ECCCNT, .MEM_ECCA_LO, .MEM_ECCA_HI, .IRQ_PEND, .IRQ_CNT] ∧ s.KeepsBytes
    t) ∧
  (∀ (s : State) (n : Fin 64) (a d : Nat) (r : List (Nat × Nat)), s.takesStep n 0x0A = true → (s.cst (s.core n)).seq.calls =
    (a, d) :: r → (s.cst (s.core n)).seq.loops.length = d → Completes (.ret n) s fun t => t.seqSt (s.core n) = stRun ∧ t.pc
    (s.core n) = a % 2 ^ 21 ∧ (t.cst (s.core n)).seq.calls = r ∧ (t.cst (s.core n)).seq.loops = (s.cst (s.core n)).seq.loops ∧
    t.now = max (s.onTo (s.stepB (s.core n))) ((s.stepB (s.core n) + 24) % 2 ^ 64) ∧ s.KeepsRegsAt t (s.core n) [.SEQ_PC]
    [.MEM_ECCCNT, .MEM_ECCA_LO, .MEM_ECCA_HI, .IRQ_PEND, .IRQ_CNT] ∧ s.KeepsBytes t) ∧
  (∀ (s : State) (n : Fin 64), s.takesStep n 0x0B = true → operand (s.nextWord n) 0 24 = 0 → Completes (.loop n) s fun t =>
    t.seqSt (s.core n) = stRun ∧ t.pc (s.core n) = (operand (s.nextWord n) 24 21 + 1) % 2 ^ 21 ∧ (t.cst (s.core n)).seq.loops
    = (s.cst (s.core n)).seq.loops ∧ t.now = max (s.onTo (s.stepB (s.core n))) ((s.stepB (s.core n) + 24) % 2 ^ 64) ∧
    s.KeepsRegsAt t (s.core n) [.SEQ_PC] [.MEM_ECCCNT, .MEM_ECCA_LO, .MEM_ECCA_HI, .IRQ_PEND, .IRQ_CNT] ∧ s.KeepsBytes t) ∧
  (∀ (s : State) (n : Fin 64), s.takesStep n 0x0B = true → operand (s.nextWord n) 0 24 ≠ 0 → (s.cst (s.core
    n)).seq.loops.length < 8 → Completes (.loop n) s fun t => t.seqSt (s.core n) = stRun ∧ t.pc (s.core n) = (s.pc (s.core n)
    + 1) % 2 ^ 21 ∧ (t.cst (s.core n)).seq.loops = LoopEnt.mk (operand (s.nextWord n) 24 21) ((s.pc (s.core n) + 1) % 2 ^ 21)
    (operand (s.nextWord n) 0 24) :: (s.cst (s.core n)).seq.loops ∧ t.now = max (s.onTo (s.stepB (s.core n))) ((s.stepB
    (s.core n) + 24) % 2 ^ 64) ∧ s.KeepsRegsAt t (s.core n) [.SEQ_PC] [.MEM_ECCCNT, .MEM_ECCA_LO, .MEM_ECCA_HI, .IRQ_PEND,
    .IRQ_CNT] ∧ s.KeepsBytes t) ∧
  (∀ (s : State) (n : Fin 64) (l : LoopEnt) (r : List LoopEnt), s.takesStep n 0x0C = true → (s.cst (s.core n)).seq.loops = l
    :: r → l.enda = s.pc (s.core n) → 1 < l.rem → Completes (.endl n) s fun t => t.seqSt (s.core n) = stRun ∧ t.pc (s.core n)
    = l.body % 2 ^ 21 ∧ (t.cst (s.core n)).seq.loops = { l with rem := l.rem - 1 } :: r ∧ s.KeepsRegsAt t (s.core n) [.SEQ_PC]
    [.MEM_ECCCNT, .MEM_ECCA_LO, .MEM_ECCA_HI, .IRQ_PEND, .IRQ_CNT] ∧ s.KeepsBytes t) ∧
  (∀ (s : State) (n : Fin 64) (l : LoopEnt) (r : List LoopEnt), s.takesStep n 0x0C = true → (s.cst (s.core n)).seq.loops = l
    :: r → l.enda = s.pc (s.core n) → l.rem ≤ 1 → Completes (.endl n) s fun t => t.seqSt (s.core n) = stRun ∧ t.pc (s.core n)
    = (s.pc (s.core n) + 1) % 2 ^ 21 ∧ (t.cst (s.core n)).seq.loops = r ∧ s.KeepsRegsAt t (s.core n) [.SEQ_PC] [.MEM_ECCCNT,
    .MEM_ECCA_LO, .MEM_ECCA_HI, .IRQ_PEND, .IRQ_CNT] ∧ s.KeepsBytes t) ∧
  (∀ (s : State) (n : Fin 64) (a : Nat), s.takesStep n 0x0D = true → ((List.range 4).all fun j => decide (operand
    (s.nextWord n) (21 + 5 * j) 5 < 21)) = true → a = stepAddr (operand (s.nextWord n) 0 21 + (if s.selector (s.core n)
    (operand (s.nextWord n) 21 5) then 1 else 0) + (if s.selector (s.core n) (operand (s.nextWord n) 26 5) then 2 else 0) +
    (if s.selector (s.core n) (operand (s.nextWord n) 31 5) then 4 else 0) + (if s.selector (s.core n) (operand (s.nextWord n)
    36 5) then 8 else 0)) → s.badWord a 8 = false → Completes (.dispatch n) s fun t => t.seqSt (s.core n) = stRun ∧ t.pc
    (s.core n) = operand (s.num a 8) 0 21 ∧ t.now = max (s.onTo (s.stepB (s.core n))) ((s.stepB (s.core n) + 32) % 2 ^ 64) ∧
    s.KeepsRegsAt t (s.core n) [.SEQ_PC] [.MEM_ECCCNT, .MEM_ECCA_LO, .MEM_ECCA_HI, .IRQ_PEND, .IRQ_CNT] ∧ s.KeepsBytes t)

/-- R271, R273, R274, R288: steps that stall. Where the rules leave a corner open, the clauses rest on the model's readings in
notes/assumptions/32.md and notes/assumptions/34.md. -/
def Obligations.WaitingStepsStallAndEnd : Prop :=
  (∀ (s : State) (n : Fin 64), s.takesStep n 0x10 = true → ((s.cst (s.core n)).play.playing && (s.cst (s.core n)).play.pastD
    && (s.cst (s.core n)).play.next.isNone) = false → Completes (.play n) s fun t => t.seqSt (s.core n) = stWait ∧ (t.cst
    (s.core n)).seq.stall = Stall.play ∧ (t.cst (s.core n)).seq.slot = operand (s.nextWord n) 0 5 ∧ (t.cst (s.core
    n)).play.name = some (operand (s.nextWord n) 0 5, s.stepB (s.core n) + 16) ∧ t.pc (s.core n) = s.pc (s.core n) ∧ t.now =
    max (s.onTo (s.stepB (s.core n))) ((s.stepB (s.core n) + 16) % 2 ^ 64) ∧ s.KeepsRegsAt t (s.core n) [.SEQ_STATE]
    [.MEM_ECCCNT, .MEM_ECCA_LO, .MEM_ECCA_HI, .IRQ_PEND, .IRQ_CNT] ∧ s.KeepsBytes t) ∧
  (∀ (s : State) (n : Fin 64), s.takesStep n 0x10 = true → ((s.cst (s.core n)).play.playing && (s.cst (s.core n)).play.pastD
    && (s.cst (s.core n)).play.next.isNone) = true → Completes (.play n) s fun t => t.seqSt (s.core n) = stWait ∧ (t.cst
    (s.core n)).seq.stall = Stall.play ∧ t.fld (F.SEQ_STAT_SLIP (s.core n)) = 1 ∧ t.fld (F.SEQ_CNT_SLIP (s.core n)) = satInc
    (F.SEQ_CNT_SLIP (s.core n)).w (s.fld (F.SEQ_CNT_SLIP (s.core n))) ∧ (t.cst (s.core n)).play.name = some (operand
    (s.nextWord n) 0 5, s.stepB (s.core n) + 16) ∧ t.now = max (s.onTo (s.stepB (s.core n))) ((s.stepB (s.core n) + 16) % 2 ^
    64) ∧ s.KeepsRegsAt t (s.core n) [.SEQ_STATE, .SEQ_STAT, .SEQ_CNT] [.MEM_ECCCNT, .MEM_ECCA_LO, .MEM_ECCA_HI, .IRQ_PEND,
    .IRQ_CNT] ∧ s.KeepsBytes t) ∧
  (∀ (s : State) (n : Fin 64), s.takesStep n 0x11 = true → operand (s.nextWord n) 54 2 = 0 → Completes (.waitlt n) s fun t
    => t.seqSt (s.core n) = stWait ∧ (t.cst (s.core n)).seq.stall = Stall.waitlt ∧ (t.cst (s.core n)).seq.t0 = (s.reg64
    (R.SEQ_ANCHOR_LO (s.core n)) (R.SEQ_ANCHOR_HI (s.core n)) + 8 * operand (s.nextWord n) 0 52) % 2 ^ 64 ∧ t.pc (s.core n) =
    s.pc (s.core n) ∧ t.now = max (s.onTo (s.stepB (s.core n))) ((s.stepB (s.core n) + 16) % 2 ^ 64) ∧ s.KeepsRegsAt t (s.core
    n) [.SEQ_STATE] [.MEM_ECCCNT, .MEM_ECCA_LO, .MEM_ECCA_HI, .IRQ_PEND, .IRQ_CNT] ∧ s.KeepsBytes t) ∧
  (∀ (s : State) (n : Fin 64), s.takesStep n 0x11 = true → operand (s.nextWord n) 54 2 = 1 → Completes (.waitlt n) s fun t
    => t.seqSt (s.core n) = stWait ∧ (t.cst (s.core n)).seq.stall = Stall.waitlt ∧ (t.cst (s.core n)).seq.t0 = (s.reg64
    (R.SEQ_LASTLT_LO (s.core n)) (R.SEQ_LASTLT_HI (s.core n)) + 8 * operand (s.nextWord n) 0 52) % 2 ^ 64 ∧ t.now = max
    (s.onTo (s.stepB (s.core n))) ((s.stepB (s.core n) + 16) % 2 ^ 64) ∧ s.KeepsRegsAt t (s.core n) [.SEQ_STATE] [.MEM_ECCCNT,
    .MEM_ECCA_LO, .MEM_ECCA_HI, .IRQ_PEND, .IRQ_CNT] ∧ s.KeepsBytes t) ∧
  (∀ (s : State) (n : Fin 64), s.takesStep n 0x11 = true → operand (s.nextWord n) 54 2 = 2 → Completes (.waitlt n) s fun t
    => t.seqSt (s.core n) = stWait ∧ (t.cst (s.core n)).seq.stall = Stall.waitlt ∧ (t.cst (s.core n)).seq.t0 = (s.lastBeat + 8
    * operand (s.nextWord n) 0 52) % 2 ^ 64 ∧ t.now = max (s.onTo (s.stepB (s.core n))) ((s.stepB (s.core n) + 16) % 2 ^ 64) ∧
    s.KeepsRegsAt t (s.core n) [.SEQ_STATE] [.MEM_ECCCNT, .MEM_ECCA_LO, .MEM_ECCA_HI, .IRQ_PEND, .IRQ_CNT] ∧ s.KeepsBytes t) ∧
  (∀ (s : State) (n : Fin 64), s.takesStep n 0x12 = true → (operand (s.nextWord n) 40 16 ≠ 0 ∨ operand (s.nextWord n) 0 32 ≠
    0) → Completes (.waitev n) s fun t => t.seqSt (s.core n) = stWait ∧ (t.cst (s.core n)).seq.stall = Stall.waitev ∧ (t.cst
    (s.core n)).seq.mask = operand (s.nextWord n) 40 16 ∧ (t.fld (F.EVJ_PEND_PEND (s.core n)) = if operand (s.nextWord n) 39 1
    = 1 then s.fld (F.EVJ_PEND_PEND (s.core n)) &&& (0xFFFF ^^^ operand (s.nextWord n) 40 16) else s.fld (F.EVJ_PEND_PEND
    (s.core n))) ∧ ((t.cst (s.core n)).seq.t1 = if operand (s.nextWord n) 0 32 = 0 then 0 else s.stepB (s.core n) + 256 *
    operand (s.nextWord n) 0 32) ∧ t.now = max (s.onTo (s.stepB (s.core n))) ((s.stepB (s.core n) + 16) % 2 ^ 64) ∧
    s.KeepsRegsAt t (s.core n) [.SEQ_STATE, .EVJ_PEND] [.MEM_ECCCNT, .MEM_ECCA_LO, .MEM_ECCA_HI, .IRQ_PEND, .IRQ_CNT] ∧
    s.KeepsBytes t) ∧
  (∀ (s : State) (n : Fin 64), s.awake = true → s.stalled n .play = true → (s.cst (s.core n)).play.started = true → (s.cst
    (s.core n)).seq.dq = [] → Completes (.playEnd n) s fun t => t.seqSt (s.core n) = stRun ∧ t.pc (s.core n) = (s.pc (s.core
    n) + 1) % 2 ^ 21 ∧ (t.cst (s.core n)).seq.stall = Stall.none ∧ s.KeepsRegsAt t (s.core n) [.SEQ_STATE, .SEQ_PC] [] ∧
    s.KeepsBytes t) ∧
  (∀ (s : State) (n : Fin 64), s.awake = true → s.stalled n .waitlt = true → Completes (.waitltEnd n) s fun t => t.seqSt
    (s.core n) = stRun ∧ t.pc (s.core n) = (s.pc (s.core n) + 1) % 2 ^ 21 ∧ (t.cst (s.core n)).seq.stall = Stall.none ∧
    t.reg64 (R.SEQ_LASTLT_LO (s.core n)) (R.SEQ_LASTLT_HI (s.core n)) = (s.cst (s.core n)).seq.t0 % 2 ^ 64 ∧ (t.reg64
    (R.SEQ_ANCHOR_LO (s.core n)) (R.SEQ_ANCHOR_HI (s.core n)) = if (s.cst (s.core n)).seq.anch then (s.cst (s.core n)).seq.t0
    % 2 ^ 64 else s.reg64 (R.SEQ_ANCHOR_LO (s.core n)) (R.SEQ_ANCHOR_HI (s.core n))) ∧ t.now = s.onTo (max (s.cst (s.core
    n)).seq.t0 (max (s.stepB (s.core n) + 16) (s.cst (s.core n)).seq.since)) ∧ s.KeepsRegsAt t (s.core n) [.SEQ_STATE,
    .SEQ_PC, .SEQ_LASTLT_LO, .SEQ_LASTLT_HI, .SEQ_ANCHOR_LO, .SEQ_ANCHOR_HI, .SEQ_STAT, .SEQ_CNT] [] ∧ s.KeepsBytes t) ∧
  (∀ (s : State) (n : Fin 64), s.awake = true → s.stalled n .waitev = true → s.waitedFor (s.core n) ≠ 0 → Completes
    (.waitevEnd n) s fun t => t.seqSt (s.core n) = stRun ∧ t.pc (s.core n) = (s.pc (s.core n) + 1) % 2 ^ 21 ∧ (t.cst (s.core
    n)).seq.stall = Stall.none ∧ t.fld (F.SEQ_WHY_CLASS (s.core n)) = (classes.find? fun c => (s.waitedFor (s.core n)).testBit
    c).getD 0 ∧ t.fld (F.EVJ_PEND_PEND (s.core n)) = s.fld (F.EVJ_PEND_PEND (s.core n)) &&& (0xFFFF ^^^ ((s.cst (s.core
    n)).seq.mask % 0x10000)) ∧ (t.cst (s.core n)).seq.wtmo = false ∧ s.KeepsRegsAt t (s.core n) [.SEQ_STATE, .SEQ_PC,
    .EVJ_PEND, .SEQ_WHY] [] ∧ s.KeepsBytes t) ∧
  (∀ (s : State) (n : Fin 64), s.awake = true → s.stalled n .waitev = true → s.waitedFor (s.core n) = 0 → (s.cst (s.core
    n)).seq.t1 ≠ 0 → Completes (.waitevEnd n) s fun t => t.seqSt (s.core n) = stRun ∧ t.pc (s.core n) = (s.pc (s.core n) + 1)
    % 2 ^ 21 ∧ (t.cst (s.core n)).seq.stall = Stall.none ∧ t.fld (F.SEQ_WHY_CLASS (s.core n)) = 16 ∧ t.fld (F.SEQ_STAT_WTMO
    (s.core n)) = 1 ∧ (t.cst (s.core n)).seq.wtmo = true ∧ s.KeepsRegsAt t (s.core n) [.SEQ_STATE, .SEQ_PC, .SEQ_WHY,
    .SEQ_STAT] [] ∧ s.KeepsBytes t)

/-- R275 to R277: SETLIM, SETFMT, MARK, ARMCAP. Where the rules leave a corner open, the clauses rest on the model's readings in
notes/assumptions/27.md, notes/assumptions/34.md and notes/assumptions/35.md. -/
def Obligations.SettingStepsRun : Prop :=
  (∀ (s : State) (n : Fin 64), s.takesStep n 0x18 = true → bit (BitVec.ofNat 32 (operand (s.nextWord n) 0 32)) 31 = false →
    Completes (.setlim n) s fun t => t.seqSt (s.core n) = stRun ∧ t.pc (s.core n) = (s.pc (s.core n) + 1) % 2 ^ 21 ∧
    t.dev.reqs = s.dev.reqs ++ [Req.mk (s.stepB (s.core n) + 16) (s.core n) (Want.wordStep (operand (s.nextWord n) 32 1 = 1)
    (BitVec.ofNat 32 (operand (s.nextWord n) 0 32)))] ∧ t.now = max (s.onTo (s.stepB (s.core n))) ((s.stepB (s.core n) + 16) %
    2 ^ 64) ∧ s.KeepsRegsAt t (s.core n) [.SEQ_PC] [.MEM_ECCCNT, .MEM_ECCA_LO, .MEM_ECCA_HI, .IRQ_PEND, .IRQ_CNT] ∧
    s.KeepsBytes t) ∧
  (∀ (s : State) (n : Fin 64), s.takesStep n 0x18 = true → bit (BitVec.ofNat 32 (operand (s.nextWord n) 0 32)) 31 = true →
    Completes (.setlim n) s fun t => t.seqSt (s.core n) = stRun ∧ t.pc (s.core n) = (s.pc (s.core n) + 1) % 2 ^ 21 ∧
    t.dev.reqs = s.dev.reqs ∧ t.now = max (s.onTo (s.stepB (s.core n))) ((s.stepB (s.core n) + 16) % 2 ^ 64) ∧ s.KeepsRegsAt t
    (s.core n) [.SEQ_PC] [.MEM_ECCCNT, .MEM_ECCA_LO, .MEM_ECCA_HI, .IRQ_PEND, .IRQ_CNT] ∧ s.KeepsBytes t) ∧
  (∀ (s : State) (n : Fin 64), s.takesStep n 0x19 = true → operand (s.nextWord n) 40 3 ≠ 1 → operand (s.nextWord n) 40 3 ≠ 7
    → operand (s.nextWord n) 39 1 = 0 → operand (s.nextWord n) 32 1 = 0 → Completes (.setfmt n) s fun t => t.seqSt (s.core n)
    = stRun ∧ t.pc (s.core n) = (s.pc (s.core n) + 1) % 2 ^ 21 ∧ t.fld (F.FMT_MODE_MODE (s.core n)) = operand (s.nextWord n)
    40 3 ∧ t.dev.reqs = s.dev.reqs ++ [Req.mk (s.stepB (s.core n) + 16) (s.core n) (Want.modeStep (operand (s.nextWord n) 40
    3))] ∧ t.now = max (s.onTo (s.stepB (s.core n))) ((s.stepB (s.core n) + 16) % 2 ^ 64) ∧ s.KeepsRegsAt t (s.core n)
    [.SEQ_PC, .FMT_MODE] [.MEM_ECCCNT, .MEM_ECCA_LO, .MEM_ECCA_HI, .IRQ_PEND, .IRQ_CNT] ∧ s.KeepsBytes t) ∧
  (∀ (s : State) (n : Fin 64), s.takesStep n 0x1A = true → (s.dev.buf.filter fun b => b.kind = 0 && b.owner = n.val) = [] →
    s.ringTakes (s.chRing n 6) 1 32 = true → Completes (.mark n) s fun t => t.seqSt (s.core n) = stRun ∧ t.pc (s.core n) =
    (s.pc (s.core n) + 1) % 2 ^ 21 ∧ (t.cst (s.core n)).seq.markSeq = ((s.cst (s.core n)).seq.markSeq + 1) % 65536 ∧ (t.ring
    (s.chRing n 6)).pi = idxNext (s.ring (s.chRing n 6)).pi ∧ t.now = max (s.onTo (s.stepB (s.core n))) ((s.stepB (s.core n) +
    24) % 2 ^ 64) ∧ s.KeepsRegsAt t (s.core n) [.SEQ_PC] [.IRQ_PEND, .IRQ_CNT, .MEM_ECCCNT, .MEM_ECCA_LO, .MEM_ECCA_HI] ∧
    s.KeepsBytesBut t padBase 0x1001000) ∧
  (∀ (s : State) (n : Fin 64), s.takesStep n 0x1B = true → s.ganged n = false → operand (s.nextWord n) 6 1 = 0 → operand
    (s.nextWord n) 5 1 = 0 → s.armCode (s.core n) = 0 → Completes (.armcap n) s fun t => t.seqSt (s.core n) = stRun ∧ t.pc
    (s.core n) = (s.pc (s.core n) + 1) % 2 ^ 21 ∧ t.capSt (s.core n) = 1 ∧ t.fld (F.CAP_STATE_ACODE (s.core n)) = 0 ∧ (t.cst
    (s.core n)).seq.armok = true ∧ (t.cst (s.core n)).cap.a = s.stepB (s.core n) + 24 ∧ t.now = max (s.onTo (s.stepB (s.core
    n))) ((s.stepB (s.core n) + 24) % 2 ^ 64) ∧ s.KeepsRegsAt t (s.core n) [.SEQ_PC, .CAP_STATE, .CAP_COUNT, .MASK_ORG_LO,
    .MASK_ORG_HI, .MASK_STATE] [.MEM_ECCCNT, .MEM_ECCA_LO, .MEM_ECCA_HI, .IRQ_PEND, .IRQ_CNT] ∧ s.KeepsBytes t) ∧
  (∀ (s : State) (n : Fin 64), s.takesStep n 0x1B = true → s.ganged n = false → operand (s.nextWord n) 6 1 = 0 → operand
    (s.nextWord n) 5 1 = 0 → s.armCode (s.core n) ≠ 0 → Completes (.armcap n) s fun t => t.seqSt (s.core n) = stRun ∧ t.pc
    (s.core n) = (s.pc (s.core n) + 1) % 2 ^ 21 ∧ t.capSt (s.core n) = s.capSt (s.core n) ∧ t.fld (F.CAP_STATE_ACODE (s.core
    n)) = s.armCode (s.core n) ∧ t.fld (F.CAP_STAT_REFUSED (s.core n)) = 1 ∧ (t.cst (s.core n)).seq.armok = false ∧ t.now =
    max (s.onTo (s.stepB (s.core n))) ((s.stepB (s.core n) + 24) % 2 ^ 64) ∧ s.KeepsRegsAt t (s.core n) [.SEQ_PC, .CAP_STATE,
    .CAP_STAT] [.MEM_ECCCNT, .MEM_ECCA_LO, .MEM_ECCA_HI, .IRQ_PEND, .IRQ_CNT] ∧ s.KeepsBytes t) ∧
  (∀ (s : State) (n : Fin 64), s.takesStep n 0x1B = true → s.ganged n = false → s.channelOf (s.core n) = some n.val →
    s.captureQuiet (s.core n) (s.stepB (s.core n) + 24) = true → operand (s.nextWord n) 6 1 = 1 → Completes (.armcap n) s fun
    t => t.seqSt (s.core n) = stRun ∧ t.pc (s.core n) = (s.pc (s.core n) + 1) % 2 ^ 21 ∧ t.capSt (s.core n) = 0 ∧ (t.fld
    (F.CAP_STAT_DONE (s.core n)) = if s.capSt (s.core n) = 0 then s.fld (F.CAP_STAT_DONE (s.core n)) else 1) ∧ ((t.cst (s.core
    n)).cap.seq = if s.capSt (s.core n) = 0 then (s.cst (s.core n)).cap.seq else ((s.cst (s.core n)).cap.seq + 1) % 65536) ∧
    t.now = max (s.onTo (s.stepB (s.core n))) ((s.stepB (s.core n) + 24) % 2 ^ 64) ∧ s.KeepsRegsAt t (s.core n) [.SEQ_PC,
    .CAP_STATE, .CAP_STAT, .CAP_HDROP] [.RING_STAT, .IRQ_PEND, .IRQ_CNT, .MEM_ECCCNT, .MEM_ECCA_LO, .MEM_ECCA_HI] ∧
    s.KeepsBytesBut t padBase 0x1001000)

/-- R264, R294 and the rules of the steps: faults. Where the rules leave a corner open, the clauses rest on the model's readings
in notes/assumptions/32.md and notes/assumptions/34.md. -/
def Obligations.StepsFaultAtTheirPc : Prop :=
  (∀ (s : State) (n : Fin 64), s.awake = true → s.stepping n = true → opcodes.contains (s.opcode (s.core n)) = false →
    s.badWord (stepAddr (s.pc (s.core n))) 8 = false → s.channelOf (s.core n) = some n.val → s.dispatchOk (s.core n) (if 0xF0
    ≤ s.opcode (s.core n) then 0xFF else s.opcode (s.core n)) = true → Completes (.illop n) s fun t => s.Faulted t (s.core n)
    1 = true ∧ (t.cst (s.core n)).drv.calm.isSome = true ∧ s.Raised t (n + 1) = true ∧ s.KeepsRegsAt t (s.core n) [.SEQ_STATE,
    .SEQ_FADDR, .SEQ_STAT] [.MEM_ECCCNT, .MEM_ECCA_LO, .MEM_ECCA_HI, .IRQ_PEND, .IRQ_CNT, .SEQ_STATE] ∧ s.KeepsBytes t) ∧
  (∀ (s : State) (n : Fin 64), s.takesStep n 0x11 = true → operand (s.nextWord n) 54 2 = 3 → Completes (.waitlt n) s fun t
    => s.Faulted t (s.core n) 2 = true ∧ s.KeepsRegsAt t (s.core n) [.SEQ_STATE, .SEQ_FADDR, .SEQ_STAT] [.MEM_ECCCNT,
    .MEM_ECCA_LO, .MEM_ECCA_HI, .IRQ_PEND, .IRQ_CNT, .SEQ_STATE] ∧ s.KeepsBytes t) ∧
  (∀ (s : State) (n : Fin 64), s.takesStep n 0x12 = true → operand (s.nextWord n) 40 16 = 0 → operand (s.nextWord n) 0 32 =
    0 → Completes (.waitev n) s fun t => s.Faulted t (s.core n) 2 = true ∧ s.KeepsRegsAt t (s.core n) [.SEQ_STATE, .SEQ_FADDR,
    .SEQ_STAT] [.MEM_ECCCNT, .MEM_ECCA_LO, .MEM_ECCA_HI, .IRQ_PEND, .IRQ_CNT, .SEQ_STATE] ∧ s.KeepsBytes t) ∧
  (∀ (s : State) (n : Fin 64), s.takesStep n 0x19 = true → operand (s.nextWord n) 40 3 = 1 → Completes (.setfmt n) s fun t
    => s.Faulted t (s.core n) 2 = true ∧ s.KeepsRegsAt t (s.core n) [.SEQ_STATE, .SEQ_FADDR, .SEQ_STAT] [.MEM_ECCCNT,
    .MEM_ECCA_LO, .MEM_ECCA_HI, .IRQ_PEND, .IRQ_CNT, .SEQ_STATE] ∧ s.KeepsBytes t) ∧
  (∀ (s : State) (n : Fin 64), s.takesStep n 0x0B = true → operand (s.nextWord n) 0 24 ≠ 0 → 8 ≤ (s.cst (s.core
    n)).seq.loops.length → Completes (.loop n) s fun t => s.Faulted t (s.core n) 3 = true ∧ s.KeepsRegsAt t (s.core n)
    [.SEQ_STATE, .SEQ_FADDR, .SEQ_STAT] [.MEM_ECCCNT, .MEM_ECCA_LO, .MEM_ECCA_HI, .IRQ_PEND, .IRQ_CNT, .SEQ_STATE] ∧
    s.KeepsBytes t) ∧
  (∀ (s : State) (n : Fin 64), s.takesStep n 0x0C = true → (s.cst (s.core n)).seq.loops = [] → Completes (.endl n) s fun t
    => s.Faulted t (s.core n) 4 = true ∧ s.KeepsRegsAt t (s.core n) [.SEQ_STATE, .SEQ_FADDR, .SEQ_STAT] [.MEM_ECCCNT,
    .MEM_ECCA_LO, .MEM_ECCA_HI, .IRQ_PEND, .IRQ_CNT, .SEQ_STATE] ∧ s.KeepsBytes t) ∧
  (∀ (s : State) (n : Fin 64), s.takesStep n 0x0C = true → (s.cst (s.core n)).seq.loops.head?.map (·.enda) ≠ some (s.pc
    (s.core n)) → (s.cst (s.core n)).seq.loops ≠ [] → Completes (.endl n) s fun t => s.Faulted t (s.core n) 5 = true ∧
    s.KeepsRegsAt t (s.core n) [.SEQ_STATE, .SEQ_FADDR, .SEQ_STAT] [.MEM_ECCCNT, .MEM_ECCA_LO, .MEM_ECCA_HI, .IRQ_PEND,
    .IRQ_CNT, .SEQ_STATE] ∧ s.KeepsBytes t) ∧
  (∀ (s : State) (n : Fin 64), s.takesStep n 0x09 = true → 8 ≤ (s.cst (s.core n)).seq.calls.length → Completes (.call n) s
    fun t => s.Faulted t (s.core n) 6 = true ∧ s.KeepsRegsAt t (s.core n) [.SEQ_STATE, .SEQ_FADDR, .SEQ_STAT] [.MEM_ECCCNT,
    .MEM_ECCA_LO, .MEM_ECCA_HI, .IRQ_PEND, .IRQ_CNT, .SEQ_STATE] ∧ s.KeepsBytes t) ∧
  (∀ (s : State) (n : Fin 64), s.takesStep n 0x0A = true → (s.cst (s.core n)).seq.calls = [] → Completes (.ret n) s fun t =>
    s.Faulted t (s.core n) 7 = true ∧ s.KeepsRegsAt t (s.core n) [.SEQ_STATE, .SEQ_FADDR, .SEQ_STAT] [.MEM_ECCCNT,
    .MEM_ECCA_LO, .MEM_ECCA_HI, .IRQ_PEND, .IRQ_CNT, .SEQ_STATE] ∧ s.KeepsBytes t) ∧
  (∀ (s : State) (n : Fin 64), s.takesStep n 0x0A = true → (s.cst (s.core n)).seq.calls.head?.map (·.2) ≠ some (s.cst
    (s.core n)).seq.loops.length → (s.cst (s.core n)).seq.calls ≠ [] → Completes (.ret n) s fun t => s.Faulted t (s.core n) 8
    = true ∧ s.KeepsRegsAt t (s.core n) [.SEQ_STATE, .SEQ_FADDR, .SEQ_STAT] [.MEM_ECCCNT, .MEM_ECCA_LO, .MEM_ECCA_HI,
    .IRQ_PEND, .IRQ_CNT, .SEQ_STATE] ∧ s.KeepsBytes t) ∧
  (∀ (s : State) (n : Fin 64), s.takesStep n 0x08 = true → (s.cst (s.core n)).seq.loops.length < operand (s.nextWord n) 24 4
    + ((s.cst (s.core n)).seq.calls.head?.map (·.2)).getD 0 → Completes (.jump n) s fun t => s.Faulted t (s.core n) 8 = true ∧
    s.KeepsRegsAt t (s.core n) [.SEQ_STATE, .SEQ_FADDR, .SEQ_STAT] [.MEM_ECCCNT, .MEM_ECCA_LO, .MEM_ECCA_HI, .IRQ_PEND,
    .IRQ_CNT, .SEQ_STATE] ∧ s.KeepsBytes t) ∧
  (∀ (s : State) (n : Fin 64), s.awake = true → s.stepping n = true → s.badWord (stepAddr (s.pc (s.core n))) 8 = true →
    Completes (.nop n) s fun t => s.Faulted t (s.core n) 9 = true ∧ s.KeepsRegsAt t (s.core n) [.SEQ_STATE, .SEQ_FADDR,
    .SEQ_STAT] [.MEM_ECCCNT, .MEM_ECCA_LO, .MEM_ECCA_HI, .IRQ_PEND, .IRQ_CNT, .SEQ_STATE] ∧ s.KeepsBytes t) ∧
  (∀ (s : State) (n : Fin 64), s.awake = true → s.stepping n = true → s.badWord (stepAddr (s.pc (s.core n))) 8 = false →
    s.opcode (s.core n) = 0 → s.entryOk (s.core n) 0 = false → Completes (.nop n) s fun t => s.Faulted t (s.core n) 10 = true
    ∧ s.KeepsRegsAt t (s.core n) [.SEQ_STATE, .SEQ_FADDR, .SEQ_STAT] [.MEM_ECCCNT, .MEM_ECCA_LO, .MEM_ECCA_HI, .IRQ_PEND,
    .IRQ_CNT, .SEQ_STATE] ∧ s.KeepsBytes t) ∧
  (∀ (s : State) (n : Fin 64) (m : Nat), s.awake = true → s.stepping n = true → s.badWord (stepAddr (s.pc (s.core n))) 8 =
    false → s.opcode (s.core n) = 0 → s.entryOk (s.core n) 0 = true → s.dispatchOk (s.core n) 0 = false → s.microWord (s.core
    n) (s.entryTarget 0) = some m → microReserved m = false → operand m 36 4 = 5 → Completes (.nop n) s fun t => s.Faulted t
    (s.core n) 5 = true ∧ s.KeepsRegsAt t (s.core n) [.SEQ_STATE, .SEQ_FADDR, .SEQ_STAT] [.MEM_ECCCNT, .MEM_ECCA_LO,
    .MEM_ECCA_HI, .IRQ_PEND, .IRQ_CNT, .SEQ_STATE] ∧ s.KeepsBytes t) ∧
  (∀ (s : State) (n : Fin 64) (m : Nat), s.awake = true → s.stepping n = true → s.badWord (stepAddr (s.pc (s.core n))) 8 =
    false → s.opcode (s.core n) = 0 → s.entryOk (s.core n) 0 = true → s.dispatchOk (s.core n) 0 = false → s.microWord (s.core
    n) (s.entryTarget 0) = some m → microReserved m = true → Completes (.nop n) s fun t => s.Faulted t (s.core n) 10 = true ∧
    s.KeepsRegsAt t (s.core n) [.SEQ_STATE, .SEQ_FADDR, .SEQ_STAT] [.MEM_ECCCNT, .MEM_ECCA_LO, .MEM_ECCA_HI, .IRQ_PEND,
    .IRQ_CNT, .SEQ_STATE] ∧ s.KeepsBytes t)

/-- R281 to R287: event classes. Where the rules leave a corner open, the clauses rest on the model's readings in
notes/assumptions/32.md. -/
def Obligations.EventClassesReachTheSequencer : Prop :=
  (∀ (s : State) (n : Fin 64) (c x : Nat), s.awake = true → (s.cst (s.core n)).seq.offers = [(c, x)] → c < 16 → bit
    (s.evjEntry (s.core n) c (s.boundary x)) 31 = true → fieldGet (s.evjEntry (s.core n) c (s.boundary x)) 28 3 ≠ 3 → fieldGet
    (s.evjEntry (s.core n) c (s.boundary x)) 28 3 ≠ 4 → Completes (.eventOffer n) s fun t => t.fld (F.EVJ_PEND_PEND (s.core
    n)) = s.fld (F.EVJ_PEND_PEND (s.core n)) ||| 2 ^ c ∧ (t.cst (s.core n)).seq.offers = [] ∧ t.now = s.onTo (s.boundary x) ∧
    s.KeepsRegsAt t (s.core n) [.EVJ_PEND] [] ∧ s.KeepsBytes t) ∧
  (∀ (s : State) (n : Fin 64) (c x : Nat), s.awake = true → (s.cst (s.core n)).seq.offers = [(c, x)] → c < 16 → bit
    (s.evjEntry (s.core n) c (s.boundary x)) 31 = true → fieldGet (s.evjEntry (s.core n) c (s.boundary x)) 28 3 = 3 → s.leader
    n = n → Completes (.eventOffer n) s fun t => (t.cst (s.core n)).drv.calm.isSome = true ∧ t.fld (F.EVJ_PEND_PEND (s.core
    n)) = s.fld (F.EVJ_PEND_PEND (s.core n)) ∧ (t.cst (s.core n)).seq.offers = [] ∧ s.KeepsRegsAt t (s.core n) [.SEQ_STATE] []
    ∧ s.KeepsBytes t) ∧
  (∀ (s : State) (n : Fin 64) (c x : Nat), s.awake = true → (s.cst (s.core n)).seq.offers = [(c, x)] → c < 16 → bit
    (s.evjEntry (s.core n) c (s.boundary x)) 31 = true → fieldGet (s.evjEntry (s.core n) c (s.boundary x)) 28 3 = 4 →
    Completes (.eventOffer n) s fun t => t.dev.sql.joined = s.dev.sql.joined ++ [n.val] ∧ (t.cst (s.core n)).seq.offers = [] ∧
    t.regs = s.regs ∧ s.KeepsBytes t) ∧
  (∀ (s : State) (n : Fin 64) (c x : Nat), s.awake = true → (s.cst (s.core n)).seq.offers = [(c, x)] → c < 16 → c < 16 → bit
    (s.evjEntry (s.core n) c (s.boundary x)) 31 = false → Completes (.eventOffer n) s fun t => (t.cst (s.core n)).seq.offers =
    [] ∧ t.regs = s.regs ∧ s.KeepsBytes t) ∧
  (∀ (s : State) (n : Fin 64) (c : Nat), s.awake = true → s.takesJump n = true → s.jumpClass (s.core n) = some c → c ≠ 0 →
    s.evjAct (s.core n) c = 1 → s.dispatchOk (s.core n) 0xF0 = true → (s.cst (s.core n)).seq.stall ≠ Stall.micro → (s.cst
    (s.core n)).play.next = none → Completes (.eventJumpAction n) s fun t => t.seqSt (s.core n) = stRun ∧ t.pc (s.core n) =
    s.fld (F.EVJ_E_TGT (s.core n) c) ∧ (t.cst (s.core n)).seq.loops = [] ∧ (t.cst (s.core n)).seq.calls = [] ∧ (t.cst (s.core
    n)).seq.stall = Stall.none ∧ t.evjPend (s.core n) c = false ∧ t.now = s.onTo (s.actionAt (s.core n)) ∧ s.KeepsRegsAt t
    (s.core n) [.SEQ_STATE, .SEQ_PC, .EVJ_PEND] [.MEM_ECCCNT, .MEM_ECCA_LO, .MEM_ECCA_HI, .IRQ_PEND, .IRQ_CNT] ∧ s.KeepsBytes
    t) ∧
  (∀ (s : State) (n : Fin 64) (c : Nat), s.awake = true → s.takesJump n = true → s.jumpClass (s.core n) = some c → c ≠ 0 →
    s.evjAct (s.core n) c = 2 → s.dispatchOk (s.core n) 0xF1 = true → (s.cst (s.core n)).seq.stall ≠ Stall.micro → (s.cst
    (s.core n)).play.next = none → (s.cst (s.core n)).seq.calls.length < 8 → Completes (.eventCallAction n) s fun t => t.seqSt
    (s.core n) = stRun ∧ t.pc (s.core n) = s.fld (F.EVJ_E_TGT (s.core n) c) ∧ (t.cst (s.core n)).seq.calls = (s.pc (s.core n),
    (s.cst (s.core n)).seq.loops.length) :: (s.cst (s.core n)).seq.calls ∧ (t.cst (s.core n)).seq.loops = (s.cst (s.core
    n)).seq.loops ∧ (t.cst (s.core n)).seq.stall = Stall.none ∧ t.evjPend (s.core n) c = false ∧ s.KeepsRegsAt t (s.core n)
    [.SEQ_STATE, .SEQ_PC, .EVJ_PEND] [.MEM_ECCCNT, .MEM_ECCA_LO, .MEM_ECCA_HI, .IRQ_PEND, .IRQ_CNT] ∧ s.KeepsBytes t) ∧
  (∀ (s : State) (n : Fin 64) (c : Nat), s.awake = true → s.takesJump n = true → s.jumpClass (s.core n) = some c → c ≠ 0 →
    s.evjAct (s.core n) c = 1 → s.dispatchOk (s.core n) 0xF0 = true → (s.cst (s.core n)).seq.stall ≠ Stall.micro → (s.cst
    (s.core n)).play.next.isSome = true → (s.cst (s.core n)).seq.dq.length < 4 → Completes (.eventJumpAction n) s fun t =>
    t.seqSt (s.core n) = s.seqSt (s.core n) ∧ t.pc (s.core n) = s.pc (s.core n) ∧ (t.cst (s.core n)).seq.dq = (s.cst (s.core
    n)).seq.dq ++ [Sys2Proof.Machine.Action.mk false (s.fld (F.EVJ_E_TGT (s.core n) c))] ∧ t.fld (F.PLAY_STAT_DEFER (s.core
    n)) = 1 ∧ t.evjPend (s.core n) c = false ∧ s.Raised t (n + 65) = true ∧ s.KeepsRegsAt t (s.core n) [.EVJ_PEND, .PLAY_STAT,
    .PLAY_CNT_B] [.MEM_ECCCNT, .MEM_ECCA_LO, .MEM_ECCA_HI, .IRQ_PEND, .IRQ_CNT] ∧ s.KeepsBytes t) ∧
  (∀ (s : State) (n : Fin 64), s.awake = true → s.leader n = n → s.reg64 (R.SEQ_LTALM_LO (s.core n)) (R.SEQ_LTALM_HI (s.core
    n)) ≠ 0 → Completes (.ltAlarm n) s fun t => t.reg64 (R.SEQ_LTALM_LO (s.core n)) (R.SEQ_LTALM_HI (s.core n)) = 0 ∧ (t.cst
    (s.core n)).seq.offers = (s.cst (s.core n)).seq.offers ++ [(6, t.now)] ∧ t.now = s.onTo (s.boundary (s.reg64
    (R.SEQ_LTALM_LO (s.core n)) (R.SEQ_LTALM_HI (s.core n)))) ∧ s.KeepsRegsAt t (s.core n) [.SEQ_LTALM_LO, .SEQ_LTALM_HI] [] ∧
    s.KeepsBytes t)

/-- R292, Table 8.10: the commands of a channel. Where the rules leave a corner open, the clauses rest on the model's readings in
notes/assumptions/30.md and notes/assumptions/50.md. -/
def Obligations.ChannelCommandsAct : Prop :=
  (∀ (s : State) (p : Port) (n : Fin 64) (arg : BitVec 21), s.admitsAt p (0x02000004 + 0x10000 * n) (BitVec.ofNat 32
    arg.toNat) = true → s.admitsAt p (0x02000000 + 0x10000 * n) 1 = true → (s.core n) < 68 → s.channelOf (s.core n) = some
    n.val → s.leader n = n → (s.seqSt (s.core n) = stIdle ∨ s.seqSt (s.core n) = stHalted ∨ s.seqSt (s.core n) = stFault) →
    s.parked n = false → s.valid = true → Completes (.start p n arg) s fun t => t.seqSt (s.core n) = stRun ∧ t.pc (s.core n) =
    arg.toNat ∧ t.fld (F.EVJ_PEND_PEND (s.core n)) = 0 ∧ t.fld (F.SEQ_WHY_CLASS (s.core n)) = 0 ∧ (t.cst (s.core n)).seq.loops
    = [] ∧ (t.cst (s.core n)).seq.calls = [] ∧ (t.cst (s.core n)).drv.leave.isSome = true ∧ t.now = s.onTo (s.boundary s.now)
    ∧ t.answeredOk p = true ∧ s.KeepsRegsAt t (s.core n) [.CTL_ARG, .SEQ_STATE, .SEQ_PC, .SEQ_WHY, .EVJ_PEND] [] ∧
    s.KeepsBytes t) ∧
  (∀ (s : State) (p : Port) (n : Fin 64), s.admitsAt p (0x02000004 + 0x10000 * n) (BitVec.ofNat 32 0) = true → s.admitsAt p
    (0x02000000 + 0x10000 * n) 2 = true → (s.core n) < 68 → s.channelOf (s.core n) = some n.val → s.leader n = n → s.seqSt
    (s.core n) = stHeld → s.parked n = false → s.valid = true → s.dispatchOk (s.core n) 0xFE = true → Completes (.resume p n)
    s fun t => t.seqSt (s.core n) = (s.cst (s.core n)).seq.heldSt % 8 ∧ (t.cst (s.core n)).drv.leave.isSome = true ∧
    t.answeredOk p = true ∧ s.KeepsRegsAt t (s.core n) [.CTL_ARG, .SEQ_STATE] [.MEM_ECCCNT, .MEM_ECCA_LO, .MEM_ECCA_HI,
    .IRQ_PEND, .IRQ_CNT] ∧ s.KeepsBytes t) ∧
  (∀ (s : State) (p : Port) (n : Fin 64), s.admitsAt p (0x02000004 + 0x10000 * n) (BitVec.ofNat 32 0) = true → s.admitsAt p
    (0x02000000 + 0x10000 * n) 3 = true → (s.core n) < 68 → s.channelOf (s.core n) = some n.val → s.leader n = n → (s.seqSt
    (s.core n) = stRun ∨ s.seqSt (s.core n) = stWait) → Completes (.stop p n) s fun t => t.seqSt (s.core n) = stHeld ∧ (t.cst
    (s.core n)).drv.calm.isSome = true ∧ (t.cst (s.core n)).drv.leave = none ∧ t.answeredOk p = true ∧ s.KeepsRegsAt t (s.core
    n) [.CTL_ARG, .SEQ_STATE] [] ∧ s.KeepsBytes t) ∧
  (∀ (s : State) (p : Port) (n : Fin 64) (arg : BitVec 21), s.admitsAt p (0x02000004 + 0x10000 * n) (BitVec.ofNat 32
    arg.toNat) = true → s.admitsAt p (0x02000000 + 0x10000 * n) 4 = true → (s.core n) < 68 → s.channelOf (s.core n) = some
    n.val → s.leader n = n → (s.seqSt (s.core n) = stRun ∨ s.seqSt (s.core n) = stWait) → (s.evjAct (s.core n) 0 = 1 ∨
    s.evjAct (s.core n) 0 = 2) → Completes (.jumpCommand p n arg) s fun t => (t.cst (s.core n)).seq.superTgt = arg.toNat ∧
    (t.cst (s.core n)).seq.offers = (s.cst (s.core n)).seq.offers ++ [(0, s.onTo (s.boundary s.now))] ∧ t.answeredOk p = true
    ∧ s.KeepsRegsAt t (s.core n) [.CTL_ARG] [] ∧ s.KeepsBytes t) ∧
  (∀ (s : State) (p : Port) (n : Fin 64) (arg : BitVec 21), s.admitsAt p (0x02000004 + 0x10000 * n) (BitVec.ofNat 32
    arg.toNat) = true → s.admitsAt p (0x02000000 + 0x10000 * n) 5 = true → (s.core n) < 68 → s.channelOf (s.core n) = some
    n.val → s.leader n = n → arg.toNat ≤ 3 → Completes (.offer p n arg) s fun t => (t.cst (s.core n)).seq.offers = (s.cst
    (s.core n)).seq.offers ++ [(12 + arg.toNat, s.onTo (s.boundary s.now))] ∧ t.answeredOk p = true ∧ s.KeepsRegsAt t (s.core
    n) [.CTL_ARG] [] ∧ s.KeepsBytes t) ∧
  (∀ (s : State) (p : Port) (n : Fin 64) (cmd : Fin 16) (arg : BitVec 21), s.admitsAt p (0x02000004 + 0x10000 * n)
    (BitVec.ofNat 32 arg.toNat) = true → s.admitsAt p (0x02000000 + 0x10000 * n) (BitVec.ofNat 32 cmd) = true → (s.core n) <
    68 → s.channelOf (s.core n) = some n.val → s.leader n = n → (cmd.val = 0 ∨ 6 ≤ cmd.val) → Completes (.reservedCommand p n
    cmd arg) s fun t => t.fld (F.CTL_STAT_REJ (s.core n)) = 1 ∧ t.fld (F.CTL_STAT_RCODE (s.core n)) = 1 ∧ t.answeredOk p =
    true ∧ s.KeepsRegsAt t (s.core n) [.CTL_ARG, .CTL_STAT] [] ∧ s.KeepsBytes t)

/-- R81, R84, R85, R104, R139, R142: boundaries in and into Calm; R81, R84, R91, R93, R143: leaving Calm, forward cycles. Where
the rules leave a corner open, the clauses rest on the model's readings in notes/assumptions/26.md, notes/assumptions/27.md,
notes/assumptions/28.md and notes/assumptions/110.md. -/
def Obligations.BoundariesOfAChannel : Prop :=
  (∀ (s : State) (n : Fin 64) (a : Analog), s.awake = true → s.valid = true → s.calm n = true → (s.cst (s.core n)).drv.calm
    = none → (s.cst (s.core n)).drv.leave = none → (s.cst (s.core n)).drv.tripCalm = none → s.dueReqs (s.core n)
    (s.nextBoundary (s.core n)) = [] → (s.fe n).oc.all (fun (x : Excursion) => decide (x.stop ≤ (s.nextBoundary (s.core n))))
    = true → (s.fe n).ov.all (fun (x : Excursion) => decide (x.stop ≤ (s.nextBoundary (s.core n)))) = true → Completes
    (.switchingCycle n a) s fun t => t.calm n = true ∧ (t.cst (s.core n)).drv.run = 0 ∧ (t.cst (s.core n)).drv.pulse = none ∧
    (t.cst (s.core n)).drv.g = (s.nextBoundary (s.core n)) ∧ (t.fe n).loop.dac = 0 ∧ (t.fe n).loop.load = loadAt
    (s.nextBoundary (s.core n)) ∧ (t.fe n).loop.clamped = true ∧ (t.fe n).loop.d = 0 ∧ t.now = s.onTo ((s.nextBoundary (s.core
    n)) / 256) ∧ s.KeepsRegs t [.CAL_CH_TST, .FAIL_RDROP, .FAIL_STAT, .FMT_CNT_A, .FMT_CNT_B, .FMT_MODE, .FMT_STAT, .IRQ_CNT,
    .IRQ_PEND, .LOOP_NOW, .LOOP_SET, .LOOP_STAT, .LOOP_TAPERNOW, .MASK_ORG_HI, .MASK_ORG_LO, .MASK_STATE, .MEM_ECCA_HI,
    .MEM_ECCA_LO, .MEM_ECCCNT, .PLAY_CNT_A, .PLAY_SEGID, .PLAY_STAT, .PLAY_ULT_HI, .PLAY_ULT_LO, .PLAY_VSTAT, .PWR_LOST,
    .PWR_PARKED, .RING_STAT, .SEQ_STATE, .TG_STAT] ∧ s.KeepsBytes t) ∧
  (∀ (s : State) (n : Fin 64) (a : Analog) (r : Nat), s.awake = true → s.valid = true → s.calm n = false → (s.cst (s.core
    n)).drv.calm = some r → reaches r (s.nextBoundary (s.core n)) = true → (s.cst (s.core n)).drv.tripCalm = none → (s.fe
    n).oc.all (fun (x : Excursion) => decide (x.stop ≤ (s.nextBoundary (s.core n)))) = true → (s.fe n).ov.all (fun (x :
    Excursion) => decide (x.stop ≤ (s.nextBoundary (s.core n)))) = true → Completes (.switchingCycle n a) s fun t => t.calm n
    = true ∧ (t.cst (s.core n)).drv.calm = none ∧ (t.cst (s.core n)).drv.run = 0 ∧ (t.fe n).loop.dac = 0 ∧ (t.fe
    n).loop.clamped = true ∧ (t.fe n).loop.d = 0 ∧ t.now = s.onTo ((s.nextBoundary (s.core n)) / 256) ∧ s.KeepsRegs t
    [.CAL_CH_TST, .FAIL_RDROP, .FAIL_STAT, .FMT_CNT_A, .FMT_CNT_B, .FMT_MODE, .FMT_STAT, .IRQ_CNT, .IRQ_PEND, .LOOP_NOW,
    .LOOP_SET, .LOOP_STAT, .LOOP_TAPERNOW, .MASK_ORG_HI, .MASK_ORG_LO, .MASK_STATE, .MEM_ECCA_HI, .MEM_ECCA_LO, .MEM_ECCCNT,
    .PLAY_CNT_A, .PLAY_SEGID, .PLAY_STAT, .PLAY_ULT_HI, .PLAY_ULT_LO, .PLAY_VSTAT, .PWR_LOST, .PWR_PARKED, .RING_STAT,
    .SEQ_STATE, .TG_STAT] ∧ s.KeepsBytesOff t [((failBase (s.core n)), 0x20000), ((chBlock n), 64), (padBase, 0x1001000)]) ∧
  (∀ (s : State) (n : Fin 64) (a : Analog) (r : Nat), s.awake = true → s.valid = true → s.ganged n = false → s.calm n = true
    → s.parked n = false → s.mayRun = true → (s.cst (s.core n)).drv.calm = none → (s.cst (s.core n)).drv.leave = some r →
    reaches r (s.nextBoundary (s.core n)) = true → (s.cst (s.core n)).play = {} → s.dueReqs (s.core n) (s.nextBoundary (s.core
    n)) = [] → (s.fe n).oc.all (fun (x : Excursion) => decide (x.stop ≤ (s.nextBoundary (s.core n)))) = true → (s.fe n).ov.all
    (fun (x : Excursion) => decide (x.stop ≤ (s.nextBoundary (s.core n)))) = true → Completes (.switchingCycle n a) s fun t =>
    t.fld (F.FMT_MODE_CUR (s.core n)) = (s.cst (s.core n)).drv.mode % 8 ∧ (t.cst (s.core n)).drv.leave = none ∧ (t.cst (s.core
    n)).drv.g = (s.nextBoundary (s.core n)) ∧ t.now = s.onTo ((s.nextBoundary (s.core n)) / 256) ∧ s.KeepsRegs t [.CAL_CH_TST,
    .FAIL_RDROP, .FAIL_STAT, .FMT_CNT_A, .FMT_CNT_B, .FMT_MODE, .FMT_STAT, .IRQ_CNT, .IRQ_PEND, .LOOP_NOW, .LOOP_SET,
    .LOOP_STAT, .LOOP_TAPERNOW, .MASK_ORG_HI, .MASK_ORG_LO, .MASK_STATE, .MEM_ECCA_HI, .MEM_ECCA_LO, .MEM_ECCCNT, .PLAY_CNT_A,
    .PLAY_SEGID, .PLAY_STAT, .PLAY_ULT_HI, .PLAY_ULT_LO, .PLAY_VSTAT, .PWR_LOST, .PWR_PARKED, .RING_STAT, .SEQ_STATE,
    .TG_STAT, .SVC_STAT] ∧ s.KeepsBytes t) ∧
  (∀ (s : State) (n : Fin 64) (a : Analog) (v : Int), s.awake = true → s.valid = true → s.ganged n = false → s.calm n =
    false → (s.cst (s.core n)).drv.calm = none → (s.cst (s.core n)).drv.leave = none → (s.cst (s.core n)).drv.mode = 2 →
    (s.cst (s.core n)).drv.dir ≤ 1 → (s.cst (s.core n)).play = { value := v } → 0 < v → v < 131072 → s.dueReqs (s.core n)
    (s.nextBoundary (s.core n)) = [] → (s.fe n).oc.all (fun (x : Excursion) => decide (x.stop ≤ (s.nextBoundary (s.core n))))
    = true → (s.fe n).ov.all (fun (x : Excursion) => decide (x.stop ≤ (s.nextBoundary (s.core n)))) = true → Completes
    (.switchingCycle n a) s fun t => (t.cst (s.core n)).drv.run = 1 ∧ (t.cst (s.core n)).drv.dir = 1 ∧ (t.cst (s.core
    n)).drv.pulse.any (fun (q : Pulse) => q.fwd && q.g = (s.nextBoundary (s.core n))) = true ∧ (t.cst (s.core n)).drv.level 0
    = 1 ∧ t.sfld (F.LOOP_SET_S (s.core n)) = v ∧ (t.fe n).loop.dac = v ∧ (t.fe n).loop.load = loadAt (s.nextBoundary (s.core
    n)) ∧ (t.fe n).loop.clamped = false ∧ t.fld (F.FMT_MODE_CUR (s.core n)) = 2 ∧ t.now = s.onTo ((s.nextBoundary (s.core n))
    / 256) ∧ s.KeepsRegs t [.CAL_CH_TST, .FAIL_RDROP, .FAIL_STAT, .FMT_CNT_A, .FMT_CNT_B, .FMT_MODE, .FMT_STAT, .IRQ_CNT,
    .IRQ_PEND, .LOOP_NOW, .LOOP_SET, .LOOP_STAT, .LOOP_TAPERNOW, .MASK_ORG_HI, .MASK_ORG_LO, .MASK_STATE, .MEM_ECCA_HI,
    .MEM_ECCA_LO, .MEM_ECCCNT, .PLAY_CNT_A, .PLAY_SEGID, .PLAY_STAT, .PLAY_ULT_HI, .PLAY_ULT_LO, .PLAY_VSTAT, .PWR_LOST,
    .PWR_PARKED, .RING_STAT, .SEQ_STATE, .TG_STAT] ∧ s.KeepsBytes t)

/-- R93 to R97, R113, R136, R137, R155, R158: how pulses end; R115, R116, R142, R156, R158: overvoltage. Where the rules leave a
corner open, the clauses rest on the model's readings in notes/assumptions/26.md, notes/assumptions/28.md,
notes/assumptions/37.md, notes/assumptions/87.md, notes/assumptions/111.md and notes/assumptions/119.md. -/
def Obligations.PulsesEndAtTheirLimits : Prop :=
  (∀ (s : State) (n : Fin 64) (c : Nat) (a : Analog) (q : Pulse), s.awake = true → (s.cst (s.core n)).drv.pulse = some q →
    q.minEnd ≤ s.lineTime c → s.lineTime c + a.delay ≤ q.tmax → s.seesCrossing n (s.lineTime c) q.fwd a = true → Completes
    (.peakComparatorCrossing n c a.vref ⟨a.shunt, a.cell⟩ a.delay) s fun t => (t.cst (s.core n)).drv.pulse = none ∧ (t.cst
    (s.core n)).drv.level (if q.fwd then 0 else 1) = 0 ∧ (t.cst (s.core n)).drv.level (if q.fwd then 1 else 0) = 1 ∧ (t.fld
    (F.LOOP_SET_SEL (s.core n)) = if t.demand n (s.lineTime c + a.delay) < t.setpointMag n a.vref then 1 else 0) ∧ t.now =
    s.onTo ((s.lineTime c + a.delay) / 256) ∧ s.KeepsRegsAt t (s.core n) [.LOOP_SET] [] ∧ s.KeepsBytes t) ∧
  (∀ (s : State) (n : Fin 64) (c : Nat) (a : Analog) (q : Pulse), s.awake = true → (s.cst (s.core n)).drv.pulse = some q →
    s.seesCrossing n (s.lineTime c) q.fwd a = false → Completes (.peakComparatorCrossing n c a.vref ⟨a.shunt, a.cell⟩ a.delay)
    s fun t => t.dev.cores = s.dev.cores ∧ t.now = s.now ∧ t.regs = s.regs ∧ s.KeepsBytes t) ∧
  (∀ (s : State) (n : Fin 64) (c : Nat) (a : Analog), s.awake = true → (s.cst (s.core n)).drv.pulse.all (fun (q : Pulse) =>
    s.lineTime c < q.minEnd || q.tmax < s.lineTime c + a.delay) = true → Completes (.peakComparatorCrossing n c a.vref
    ⟨a.shunt, a.cell⟩ a.delay) s fun t => t = s) ∧
  (∀ (s : State) (n : Fin 64) (a : Analog) (q : Pulse), s.awake = true → (s.cst (s.core n)).drv.pulse = some q → Completes
    (.pulseTmax n a.vref ⟨a.shunt, a.cell⟩) s fun t => (t.cst (s.core n)).drv.pulse = none ∧ (t.cst (s.core n)).drv.level (if
    q.fwd then 0 else 1) = 0 ∧ (t.cst (s.core n)).drv.level (if q.fwd then 1 else 0) = 1 ∧ (t.fld (F.LOOP_SET_SEL (s.core n))
    = if t.demand n (q.tmax) < t.setpointMag n a.vref then 1 else 0) ∧ t.fld (F.FMT_CNT_A_DLIM (s.core n)) = satInc 16 (s.fld
    (F.FMT_CNT_A_DLIM (s.core n))) ∧ t.now = s.onTo (q.tmax / 256) ∧ s.KeepsRegsAt t (s.core n) [.LOOP_SET, .FMT_CNT_A] [] ∧
    s.KeepsBytes t) ∧
  (∀ (s : State) (n : Fin 64) (x lasts : Nat) (a : Analog) (q : Pulse), s.awake = true → s.vectorMode (s.core n) = false →
    (s.cst (s.core n)).drv.pulse = some q → s.beyondOc n (Excursion.mk (s.lineTime x) (s.lineTime x + lasts) a.shunt a.vref
    a.delay (s.stampTime x)) = true → s.ocFilter n ≤ lasts → s.lineTime x + s.ocFilter n + a.delay ≤ q.tmax → s.beforeNext
    (s.core n) (s.lineTime x + s.ocFilter n) = true → Completes (.overcurrentTrip n ⟨x, lasts⟩ a.vref ⟨a.shunt, a.cell⟩
    a.delay) s fun t => (t.cst (s.core n)).drv.pulse = none ∧ (t.cst (s.core n)).drv.level (if q.fwd then 0 else 1) = 0 ∧
    t.fld (F.FMT_STAT_OC (s.core n)) = 1 ∧ (t.fld (F.FMT_CNT_B_OC (s.core n)) = if (s.cst (s.core n)).drv.ocTrip then s.fld
    (F.FMT_CNT_B_OC (s.core n)) else satInc 16 (s.fld (F.FMT_CNT_B_OC (s.core n)))) ∧ s.KeepsRegs t [.FMT_STAT, .FMT_CNT_B,
    .LOOP_SET, .SEQ_STATE, .IRQ_PEND, .IRQ_CNT] ∧ s.KeepsBytes t) ∧
  (∀ (s : State) (n : Fin 64) (x lasts : Nat) (a : Analog), s.awake = true → (s.beyondOc n (Excursion.mk (s.lineTime x)
    (s.lineTime x + lasts) a.shunt a.vref a.delay (s.stampTime x)) = false ∨ lasts < s.ocFilter n ∨ s.beforeNext (s.core n)
    (s.lineTime x + s.ocFilter n) = false) → Completes (.overcurrentTrip n ⟨x, lasts⟩ a.vref ⟨a.shunt, a.cell⟩ a.delay) s fun
    t => t.dev.cores = s.dev.cores ∧ (t.fe n).oc = some (Excursion.mk (s.lineTime x) (s.lineTime x + lasts) a.shunt a.vref
    a.delay (s.stampTime x)) ∧ t.regs = s.regs ∧ s.KeepsBytes t) ∧
  (∀ (s : State) (n : Fin 64) (x lasts : Nat) (a : Analog), s.awake = true → Memory.wf s.losses s.mem = true → s.badWord
    (chBlock n + 40) 8 = false → s.vectorMode (s.core n) = false → s.calm n = false → (s.cst (s.core n)).drv.ocCalm = false →
    s.flg (F.FAIL_CFG_RING (s.core n)) = false → s.beyondOv n (Excursion.mk (s.lineTime x) (s.lineTime x + lasts) a.cell
    a.vref a.delay (s.stampTime x)) = true → s.ovFilter n ≤ lasts → s.beforeNext (s.core n) (s.lineTime x + s.ovFilter n) =
    true → Completes (.overvoltageTrip n ⟨x, lasts⟩ a) s fun t => t.fld (F.FMT_STAT_OV (s.core n)) = 1 ∧ t.calm n = true ∧
    (t.cst (s.core n)).drv.level 0 = 0 ∧ (t.cst (s.core n)).drv.level 1 = 0 ∧ (t.fe n).loop.clamped = true ∧ (t.fe n).loop.d =
    0 ∧ s.Raised t (n + 1) = true ∧ t.failCount n = min (s.failCount n + 1) (2 ^ 32 - 1) ∧ s.KeepsRegs t [.FMT_MODE,
    .FMT_STAT, .FAIL_STAT, .FAIL_RDROP, .LOOP_SET, .LOOP_STAT, .PWR_PARKED, .RING_STAT, .SEQ_STATE, .MASK_ORG_HI,
    .MASK_ORG_LO, .MASK_STATE, .MEM_ECCCNT, .MEM_ECCA_LO, .MEM_ECCA_HI, .PWR_LOST, .IRQ_PEND, .IRQ_CNT] ∧ s.KeepsBytesOff t
    [((failBase (s.core n)), 0x20000), ((chBlock n), 64), (padBase, 0x1001000)]) ∧
  (∀ (s : State) (n : Fin 64) (x lasts : Nat) (a : Analog), s.awake = true → s.vectorMode (s.core n) = true → s.beyondOv n
    (Excursion.mk (s.lineTime x) (s.lineTime x + lasts) a.cell a.vref a.delay (s.stampTime x)) = true → s.ovFilter n ≤ lasts →
    s.beforeNext (s.core n) (s.lineTime x + s.ovFilter n) = true → Completes (.overvoltageTrip n ⟨x, lasts⟩ a) s fun t =>
    t.fld (F.FMT_STAT_OV (s.core n)) = 1 ∧ t.calm n = s.calm n ∧ s.KeepsRegsAt t (s.core n) [.FMT_STAT] [] ∧ s.KeepsBytes t) ∧
  (∀ (s : State) (n : Fin 64) (x lasts : Nat) (a : Analog), s.awake = true → (s.beyondOv n (Excursion.mk (s.lineTime x)
    (s.lineTime x + lasts) a.cell a.vref a.delay (s.stampTime x)) = false ∨ lasts < s.ovFilter n ∨ s.beforeNext (s.core n)
    (s.lineTime x + s.ovFilter n) = false) → Completes (.overvoltageTrip n ⟨x, lasts⟩ a) s fun t => t.dev.cores = s.dev.cores
    ∧ (t.fe n).ov = some (Excursion.mk (s.lineTime x) (s.lineTime x + lasts) a.cell a.vref a.delay (s.stampTime x)) ∧ t.regs =
    s.regs ∧ s.KeepsBytes t)

/-- R106, R257 to R259: vectors. Where the rules leave a corner open, the clauses rest on the model's readings in
notes/assumptions/29.md. -/
def Obligations.VectorsPlayAndStrobe : Prop :=
  (∀ (s : State) (n : Fin 64) (v : Vec), s.awake = true → s.valid = true → s.calm n = false → (s.cst (s.core n)).play.vec =
    some v → v.k < v.len → v.len < 65536 → v.k ≠ s.decisionSample (s.core n) → Completes (.vectorStart n) s fun t => (t.cst
    (s.core n)).play.vec = some { v with k := v.k + 1 } ∧ (t.cst (s.core n)).play.idx = v.k ∧ t.now = s.onTo (v.v0 + v.k *
    v.per) ∧ s.KeepsRegs t [.FMT_STAT, .IRQ_CNT, .IRQ_PEND, .MASK_ORG_HI, .MASK_ORG_LO, .MASK_STATE, .MEM_ECCA_HI,
    .MEM_ECCA_LO, .MEM_ECCCNT] ∧ s.KeepsBytes t) ∧
  (∀ (s : State) (n : Fin 64) (v : Vec), s.awake = true → s.valid = true → s.calm n = false → (s.cst (s.core n)).play.vec =
    some v → v.len ≤ v.k → (s.cst (s.core n)).play.next = none → Completes (.vectorStart n) s fun t => (t.cst (s.core
    n)).play.playing = false ∧ (t.cst (s.core n)).play.dwell = true ∧ (t.cst (s.core n)).play.vec = none ∧ t.now = s.onTo
    (v.v0 + v.len * v.per) ∧ t.regs = s.regs ∧ s.KeepsBytes t) ∧
  (∀ (s : State) (n : Fin 64) (levels : BitVec 4) (x i : Nat), s.awake = true → (s.cst (s.core n)).drv.strobe = some (x, i)
    → ((List.range 4).all fun j => !(s.sampleWord (s.core n) i / 16 ^ j % 16 = 2 && levels.toNat.testBit j) && !(s.sampleWord
    (s.core n) i / 16 ^ j % 16 = 3 && !levels.toNat.testBit j)) = true → Completes (.vectorStrobe n levels) s fun t => (t.cst
    (s.core n)).drv.strobe = none ∧ t.now = s.onTo (x / 256) ∧ t.regs = s.regs ∧ s.KeepsBytes t) ∧
  (∀ (s : State) (n : Fin 64) (levels : BitVec 4) (x i : Nat), s.awake = true → Memory.wf s.losses s.mem = true → (s.cst
    (s.core n)).drv.strobe = some (x, i) → s.sampleWord (s.core n) i % 16 = 2 → levels.toNat.testBit 0 = true → s.flg
    (F.FAIL_CFG_RING (s.core n)) = false → s.badWord (chBlock n + 40) 8 = false → Completes (.vectorStrobe n levels) s fun t
    => (t.cst (s.core n)).drv.strobe = none ∧ t.failCount n = min (s.failCount n + 1) (2 ^ 32 - 1) ∧ s.KeepsRegs t
    [.FAIL_STAT, .MEM_ECCCNT, .MEM_ECCA_LO, .MEM_ECCA_HI, .PWR_LOST, .IRQ_PEND, .IRQ_CNT] ∧ s.KeepsBytesOff t [((failBase
    (s.core n)), 0x20000), ((chBlock n), 64), (padBase, 0x1001000)]) ∧
  (∀ (s : State) (n : Fin 64) (e : Nat), s.awake = true → (s.cst (s.core n)).drv.trigEnd = some e → Completes
    (.triggerPulseEnd n) s fun t => (t.cst (s.core n)).drv.trigEnd = none ∧ t.now = s.onTo e ∧ t.regs = s.regs ∧ s.KeepsBytes
    t)

/-- R90, R131, R148: registers of the drive and the loop. Where the rules leave a corner open, the clauses rest on the model's
readings in notes/assumptions/27.md and notes/assumptions/114.md. -/
def Obligations.DriveRegistersTakeTheirWords : Prop :=
  (∀ (s : State) (p : Port) (k : Fin 68) (w : Word), s.admits p (R.FMT_MODE k) w = true → fieldGet w 0 3 = 7 → Completes
    (.fmtModeWrite p k w) s fun t => t.fld (F.BSTAT_BADVAL (0x100 + k)) = 1 ∧ t.answeredOk p = true ∧ s.KeepsRegs t [.BSTAT] ∧
    s.KeepsBytes t) ∧
  (∀ (s : State) (p : Port) (k : Fin 68) (w : Word) (n : Nat), s.admits p (R.FMT_MODE k) w = true → fieldGet w 0 3 = 1 →
    s.channelOf k = some n → Completes (.fmtModeWrite p k w) s fun t => ((s.gangCores n).all fun c => (t.cst
    c).drv.calm.isSome) = true ∧ t.answeredOk p = true ∧ s.KeepsRegs t [.SEQ_STATE] ∧ s.KeepsBytes t) ∧
  (∀ (s : State) (p : Port) (k : Fin 68) (w : Word), s.admits p (R.FMT_MODE k) w = true → fieldGet w 0 3 ≠ 1 → fieldGet w 0
    3 ≠ 7 → (s.channelOf k).isSome = true → Completes (.fmtModeWrite p k w) s fun t => t.fld (F.FMT_MODE_MODE k) = fieldGet w
    0 3 ∧ t.fld (F.FMT_MODE_CUR k) = s.fld (F.FMT_MODE_CUR k) ∧ t.dev.reqs = s.dev.reqs ++ [Req.mk s.now k (Want.modeReg
    (fieldGet w 0 3))] ∧ t.answeredOk p = true ∧ s.KeepsRegs t [.FMT_MODE] ∧ s.KeepsBytes t) ∧
  (∀ (s : State) (p : Port) (n : Fin 64) (w : Word), s.admits p (R.SCALE_GAIN n) w = true → (s.calm n = true ∨ s.parked n =
    true) → Completes (.scaleGainWrite p n w) s fun t => t.reg (R.SCALE_GAIN n) = w &&& (R.SCALE_GAIN n).id.mask ∧
    t.answeredOk p = true ∧ s.KeepsRegsAt t n [.SCALE_GAIN] [] ∧ s.KeepsBytes t) ∧
  (∀ (s : State) (p : Port) (n : Fin 64) (w : Word), s.admits p (R.SCALE_GAIN n) w = true → s.calm n = false → s.parked n =
    false → Completes (.scaleGainWrite p n w) s fun t => t.reg (R.SCALE_GAIN n) = s.reg (R.SCALE_GAIN n) ∧ t.fld
    (F.SCALE_STAT_BUSY n) = 1 ∧ t.answeredOk p = true ∧ s.KeepsRegsAt t n [.SCALE_STAT] [] ∧ s.KeepsBytes t) ∧
  (∀ (s : State) (p : Port) (k : Fin 68) (w : Word), s.admits p (R.LOOP_VLIMREQ k) w = true → Completes (.vlimreqWrite p k
    w) s fun t => t.reg (R.LOOP_VLIMREQ k) = w &&& (R.LOOP_VLIMREQ k).id.mask ∧ (t.dev.reqs = if bit w 31 || (s.channelOf
    k).isNone then s.dev.reqs else s.dev.reqs ++ [Req.mk s.now k (Want.wordReg false w)]) ∧ t.answeredOk p = true ∧
    s.KeepsRegsAt t k [.LOOP_VLIMREQ] [] ∧ s.KeepsBytes t) ∧
  (∀ (s : State) (p : Port) (k : Fin 68) (w : Word), s.admits p (R.LOOP_TAPERREQ k) w = true → Completes (.taperreqWrite p k
    w) s fun t => t.reg (R.LOOP_TAPERREQ k) = w &&& (R.LOOP_TAPERREQ k).id.mask ∧ (t.dev.reqs = if bit w 31 || (s.channelOf
    k).isNone then s.dev.reqs else s.dev.reqs ++ [Req.mk s.now k (Want.wordReg true w)]) ∧ t.answeredOk p = true ∧
    s.KeepsRegsAt t k [.LOOP_TAPERREQ] [] ∧ s.KeepsBytes t)

/-- R167, R171 to R173, R184, R185, R188: window starts and ends; R175 to R177, R180, R181: results. Where the rules leave a
corner open, the clauses rest on the model's readings in notes/assumptions/22.md, notes/assumptions/36.md,
notes/assumptions/37.md and notes/assumptions/120.md. -/
def Obligations.WindowsGiveResults : Prop :=
  (∀ (s : State) (n : Fin 64), (s.gateNext (s.core n)).all (fun y => decide (s.gridNext (s.core n) < y)) = true → s.awake =
    true → s.fld F.LT_STATE_LT_ST = 1 → s.fld (F.CONV_CTL_RUN (s.core n)) = 1 → s.standing = false → (s.fe n).window = none →
    (s.fe n).qpFrom = none → s.flg (F.PATH_STAT_PENDING n) = false → (s.fe n).trims = none → (s.fe n).qpNext = none →
    Completes (.conversionWindowStart n) s fun t => (t.fe n).window.any (fun (x : Window) => x.b = s.gridNext (s.core n) &&
    x.w = (s.cst (s.core n)).win.w && x.path = s.fld (F.PATH_STAT_NOW n) && x.ival = s.interval (s.core n) && x.s = s.gridNext
    (s.core n) + (s.cst (s.core n)).win.w / 4 && x.flags.testBit 5 = (s.cst (s.core n)).win.gap) = true ∧ t.now = s.onTo
    (s.gridNext (s.core n)) ∧ (t.cst (s.core n)).win.gap = false ∧ t.regs = s.regs ∧ s.KeepsBytes t) ∧
  (∀ (s : State) (n : Fin 64), s.awake = true → s.fld F.LT_STATE_LT_ST = 1 → s.fld (F.CONV_CTL_RUN (s.core n)) = 1 →
    s.standing = true → (s.gateNext (s.core n)).all (fun y => decide (s.gridNext (s.core n) < y)) = true → (s.fe n).window =
    none → Completes (.conversionWindowStart n) s fun t => (t.fe n).window = none ∧ (t.cst (s.core n)).win.gap = ((s.cst
    (s.core n)).win.gap || !(s.cst (s.core n)).win.fresh) ∧ t.now = s.onTo (s.gridNext (s.core n)) ∧ t.regs = s.regs ∧
    s.KeepsBytes t) ∧
  (∀ (s : State) (n : Fin 64), (s.gateNext (s.core n)).all (fun y => decide (s.gridNext (s.core n) < y)) = true → s.awake =
    true → s.fld F.LT_STATE_LT_ST = 1 → s.fld (F.CONV_CTL_RUN (s.core n)) = 1 → s.standing = false → (s.fe n).window = none →
    (s.fe n).qpFrom = none → s.flg (F.PATH_STAT_PENDING n) = true → s.flg (F.PATH_CTL_CMP n) = false → (s.fe n).trims = none →
    (s.fe n).qpNext = none → Completes (.conversionWindowStart n) s fun t => t.fld (F.PATH_STAT_NOW n) = s.fld
    (F.PATH_CTL_ACTIVE n) ∧ t.fld (F.PATH_STAT_PENDING n) = 0 ∧ (t.fe n).window.any (fun (x : Window) => x.path = s.fld
    (F.PATH_CTL_ACTIVE n)) = true ∧ s.KeepsRegsAt t n [.PATH_STAT] [.CAL_CH_CORR] ∧ s.KeepsBytes t) ∧
  (∀ (s : State) (n : Fin 64), (s.gateNext (s.core n)).all (fun y => decide (s.gridNext (s.core n) < y)) = true → s.awake =
    true → s.fld F.LT_STATE_LT_ST = 1 → s.fld (F.CONV_CTL_RUN (s.core n)) = 1 → s.standing = false → (s.fe n).window = none →
    (s.fe n).qpFrom = none → s.flg (F.PATH_STAT_PENDING n) = true → s.flg (F.PATH_CTL_CMP n) = true → (s.fe n).trims = none →
    (s.fe n).qpNext = none → Completes (.conversionWindowStart n) s fun t => t.fld (F.PATH_STAT_NOW n) = s.fld
    (F.PATH_STAT_NOW n) ∧ t.fld (F.PATH_CTL_ACTIVE n) = s.fld (F.PATH_STAT_NOW n) ∧ t.fld (F.PATH_STAT_REFUSED n) = 1 ∧ t.fld
    (F.PATH_STAT_PENDING n) = 0 ∧ s.KeepsRegsAt t n [.PATH_STAT, .PATH_CTL] [] ∧ s.KeepsBytes t) ∧
  (∀ (s : State) (n : Fin 64) (q : Nat), (s.gateNext (s.core n)).all (fun y => decide (s.gridNext (s.core n) < y)) = true →
    s.awake = true → s.fld F.LT_STATE_LT_ST = 1 → s.fld (F.CONV_CTL_RUN (s.core n)) = 1 → s.standing = false → (s.fe n).window
    = none → (s.fe n).qpFrom = none → s.flg (F.PATH_STAT_PENDING n) = false → (s.fe n).trims = none → (s.fe n).qpNext = some q
    → Completes (.conversionWindowStart n) s fun t => (t.fe n).qp = q ∧ (t.fe n).qpNext = none ∧ t.reg64 (R.FPKT_QP_LO n)
    (R.FPKT_QP_HI n) = q % 2 ^ 64 ∧ s.KeepsRegsAt t n [.FPKT_QP_LO, .FPKT_QP_HI] [] ∧ s.KeepsBytesBut t (chBlock n + 48) 8) ∧
  (∀ (s : State) (n : Fin 64) (x : Window), s.awake = true → (s.fe n).window = some x → Completes (.conversionWindowEnd n) s
    fun t => (t.fe n).window = none ∧ (t.fe n).ready = (s.fe n).ready ++ [x] ∧ (t.cst (s.core n)).win.w = s.fld (F.CONV_WIN_W
    (s.core n)) ∧ (t.cst (s.core n)).win.ofs = s.fld (F.CONV_OFS_CYC (s.core n)) ∧ t.now = s.onTo (x.b + x.w) ∧ t.regs =
    s.regs ∧ s.KeepsBytes t) ∧
  (∀ (s : State) (n : Fin 64) (v i t₀ v₂ i₂ t₂ : Lane) (x : Window) (xs : List Window), s.awake = true → (s.fe n).ready = x
    :: xs → Completes (.resultDelivery n v i t₀ v₂ i₂ t₂) s fun t => (t.fe n).ready = xs ∧ t.reg (R.CONV_V (s.core n)) =
    BitVec.ofNat 32 (unsigned 32 (arithmetic v i (x.w / 4) x.vref x.shunt).1) ∧ t.reg (R.CONV_I (s.core n)) = BitVec.ofNat 32
    (unsigned 32 (arithmetic v i (x.w / 4) x.vref x.shunt).2.1) ∧ t.fld (F.CONV_FLAGS_SEQ (s.core n)) = (s.cst (s.core
    n)).win.seq % 65536 ∧ t.reg64 (R.CONV_S_LO (s.core n)) (R.CONV_S_HI (s.core n)) = x.s % 2 ^ 64 ∧ t.reg64 (R.CONV_Q_LO
    (s.core n)) (R.CONV_Q_HI (s.core n)) = unsigned 64 (x.q.getD (s.charge n (x.s * 256))) ∧ (t.fld (F.CONV_CNT_REFF (s.core
    n)) = if ((arithmetic v i (x.w / 4) x.vref x.shunt).2.2 ||| x.flags).testBit 3 then satInc 16 (s.fld (F.CONV_CNT_REFF
    (s.core n))) else s.fld (F.CONV_CNT_REFF (s.core n))) ∧ (t.cst (s.core n)).win.seq = ((s.cst (s.core n)).win.seq + 1) %
    65536 ∧ t.now = s.onTo (x.b + x.w + 256) ∧ s.KeepsRegs t [.CAL_CH_TST, .CAL_CH_CORR, .CAP_COUNT, .CAP_HDROP, .CAP_STAT,
    .CAP_STATE, .CAP_TIDX, .CAP_TPOS, .CAP_TRIG_HI, .CAP_TRIG_LO, .CONV_CNT, .CONV_FLAGS, .CONV_I, .CONV_Q_HI, .CONV_Q_LO,
    .CONV_STAT, .CONV_S_HI, .CONV_S_LO, .CONV_T, .CONV_V, .IRQ_CNT, .IRQ_LIVE, .IRQ_PEND, .PATH_CTL, .PATH_SHI, .PATH_SHV,
    .PATH_STAT, .RING_STAT, .MEM_ECCCNT, .MEM_ECCA_LO, .MEM_ECCA_HI, .PWR_LOST] ∧ s.KeepsBytesOff t [((capBase (s.core n)),
    0x40000), ((chBlock n), 64), (padBase, 0x1001000)]) ∧
  (∀ (s : State) (p : Port) (k : Fin 68), s.admitsRead p (R.CONV_V k).addr = true → s.latched (portMaster p) (R.CONV_V k) =
    none → Completes (.convVRead p k) s fun t => t.dev.bus.answer.get (Answer.mk 255 0) (portMaster p) = Answer.mk 0 (s.reg
    (R.CONV_V k)) ∧ t.latched (portMaster p) (R.CONV_I k) = some (s.reg (R.CONV_I k)) ∧ t.latched (portMaster p) (R.CONV_S_LO
    k) = some (s.reg (R.CONV_S_LO k)) ∧ t.latched (portMaster p) (R.CONV_Q_HI k) = some (s.reg (R.CONV_Q_HI k)) ∧ t.regs =
    s.regs ∧ s.KeepsBytes t)

/-- R186, R187, R190, R192: crossings and packets. Where the rules leave a corner open, the clauses rest on the model's readings
in notes/assumptions/22.md, notes/assumptions/25.md and notes/assumptions/37.md. -/
def Obligations.ChargePacketsAreCounted : Prop :=
  (∀ (s : State) (n : Fin 64) (x : Nat) (neg : Bool), s.dev.rst.hib < 2 → s.dev.rst.por = 0 → Memory.wf s.losses s.mem =
    true → s.away = false → s.effFld (F.PKT_STREAM_DIV (s.core n)) = 0 → (s.fe n).qpNext = none → (s.fe n).packetEnd = none →
    s.acc n + (if neg then -1 else 1) * ((s.fe n).qp : Int) < 2 ^ 95 → -(2 ^ 95) ≤ s.acc n + (if neg then -1 else 1) * ((s.fe
    n).qp : Int) → Completes (.packetCrossing n x neg) s fun t => t.acc n = s.acc n + (if neg then -1 else 1) * ((s.fe n).qp :
    Int) ∧ (t.fe n).counted = (s.stampTime x, neg) :: (s.fe n).counted.take 1 ∧ (t.fe n).packetEnd = some (divUp (s.stampTime
    x) 256 + 2 + (s.fe n).width) ∧ t.now = s.onTo (s.stampTime x / 256) ∧ s.KeepsRegs t [.MEM_ECCCNT, .MEM_ECCA_LO,
    .MEM_ECCA_HI, .PWR_LOST, .IRQ_PEND, .IRQ_CNT] ∧ s.KeepsBytesBut t (chBlock n) 64) ∧
  (∀ (s : State) (n : Fin 64) (x : Nat) (neg : Bool), s.dev.rst.hib < 2 → s.dev.rst.por = 0 → s.away = true → s.effFld
    (F.PKT_STREAM_DIV (s.core n)) = 0 → (s.fe n).qpNext = none → (s.fe n).packetEnd = none → Completes (.packetCrossing n x
    neg) s fun t => (t.fe n).posAsync = (s.fe n).posAsync + (if neg then 0 else 1) ∧ (t.fe n).negAsync = (s.fe n).negAsync +
    (if neg then 1 else 0) ∧ (t.fe n).counted = (s.fe n).counted ∧ (t.fe n).packetEnd = some (divUp (s.stampTime x) 256 + 2 +
    30 * divUp (s.fe n).width 30) ∧ t.regs = s.regs ∧ s.KeepsBytes t) ∧
  (∀ (s : State) (n : Fin 64) (x e : Nat) (neg : Bool), s.dev.rst.hib < 2 → s.dev.rst.por = 0 → (s.fe n).packetEnd = some e
    → Completes (.packetCrossing n x neg) s fun t => (t.fe n).packetEnd = some e ∧ (t.fe n).queued = (s.fe n).queued + 1 ∧
    s.KeepsRegs t [.FPKT_STAT, .FPKT_QP_LO, .FPKT_QP_HI, .PKT_DROP, .RING_STAT, .MEM_ECCCNT, .MEM_ECCA_LO, .MEM_ECCA_HI,
    .PWR_LOST, .IRQ_PEND, .IRQ_CNT] ∧ s.KeepsBytesOff t [((chBlock n), 64), (padBase, 0x1001000)]) ∧
  (∀ (s : State) (n : Fin 64) (e : Nat), s.dev.rst.hib < 2 → s.dev.rst.por = 0 → (s.fe n).packetEnd = some e → Completes
    (.packetEnd n) s fun t => ((t.fe n).packetEnd = if (s.fe n).queued = 0 then none else some (e + s.packetWidth n)) ∧ (t.fe
    n).queued = (s.fe n).queued - 1 ∧ t.now = s.onTo e ∧ t.regs = s.regs ∧ s.KeepsBytes t) ∧
  (∀ (s : State) (n : Fin 64), s.dev.rst.hib < 2 → s.dev.rst.por = 0 → Completes (.packetSaturation n) s fun t => t.fld
    (F.FPKT_STAT_SAT n) = 1 ∧ s.Raised t (n + 1) = true ∧ s.KeepsRegs t [.FPKT_STAT, .IRQ_CNT, .IRQ_PEND] ∧ s.KeepsBytes t)

/-- R184, R188, R189, R194. Where the rules leave a corner open, the clauses rest on the model's readings in
notes/assumptions/25.md and notes/assumptions/36.md. -/
def Obligations.ClearsWidthsAndPaths : Prop :=
  (∀ (s : State) (p : Port) (n : Fin 64) (beat : BitVec 64), s.admits p (R.FPKT_CLRB_LO n) (BitVec.ofNat 32 beat.toNat) =
    true → s.admits p (R.FPKT_CLRB_HI n) (BitVec.ofNat 32 (beat.toNat / 2 ^ 32)) = true → s.fld F.LT_STATE_LT_ST = 1 → s.reg64
    R.LT_BEAT_LO R.LT_BEAT_HI < beat.toNat → (s.fe n).clear = none → Completes (.chargeClearRequest p n beat) s fun t => (t.fe
    n).clear = some beat.toNat ∧ t.fld (F.FPKT_STAT_CLR_PEND n) = 1 ∧ t.answeredOk p = true ∧ s.KeepsRegsAt t n
    [.FPKT_CLRB_LO, .FPKT_STAT] [] ∧ s.KeepsBytes t) ∧
  (∀ (s : State) (p : Port) (n : Fin 64) (beat : BitVec 64), s.admits p (R.FPKT_CLRB_LO n) (BitVec.ofNat 32 beat.toNat) =
    true → s.admits p (R.FPKT_CLRB_HI n) (BitVec.ofNat 32 (beat.toNat / 2 ^ 32)) = true → (s.fld F.LT_STATE_LT_ST ≠ 1 ∨
    beat.toNat ≤ s.reg64 R.LT_BEAT_LO R.LT_BEAT_HI ∨ (s.fe n).clear ≠ none) → Completes (.chargeClearRequest p n beat) s fun t
    => (t.fe n).clear = (s.fe n).clear ∧ t.fld (F.FPKT_STAT_CLR_PAST n) = 1 ∧ t.answeredOk p = true ∧ s.KeepsRegsAt t n
    [.FPKT_CLRB_LO, .FPKT_STAT] [] ∧ s.KeepsBytes t) ∧
  (∀ (s : State) (n : Fin 64) (b tb : Nat), s.awake = true → s.fld F.LT_STATE_LT_ST = 1 → (s.fe n).clear = some b → tb = b *
    (s.reg R.LT_BEATCYC).toNat → Completes (.chargeClear n) s fun t => (t.fe n).clear = none ∧ (t.fe n).lastClear = some b ∧
    t.fld (F.FPKT_STAT_CLR_PEND n) = 0 ∧ t.fld (F.FPKT_STAT_CLRDONE n) = 1 ∧ t.reg64 (R.FPKT_LAST_LO n) (R.FPKT_LAST_HI n) =
    unsigned 64 (s.charge n (tb * 256)) ∧ t.now = s.onTo tb ∧ s.KeepsRegsAt t n [.FPKT_STAT, .FPKT_LAST_LO, .FPKT_LAST_HI]
    [.MEM_ECCCNT, .MEM_ECCA_LO, .MEM_ECCA_HI, .PWR_LOST, .IRQ_PEND, .IRQ_CNT] ∧ s.KeepsBytesBut t (chBlock n) 64) ∧
  (∀ (s : State) (p : Port) (n : Fin 64) (w : Word), s.admits p (R.FPKT_WIDTH n) w = true → widthMin (s.fld
    (F.PROT_OC_OC_POS n)) (s.fld (F.PROT_OC_OC_NEG n)) ≤ fieldGet w 0 16 → (s.fld (F.CONV_CTL_RUN (s.core n)) = 0 ∨ s.fld
    F.LT_STATE_LT_ST ≠ 1) → Completes (.qpRecompute p .width n w) s fun t => t.fld (F.FPKT_WIDTH_WIDTH n) = fieldGet w 0 16 ∧
    (t.fe n).qpNext = some (packetCharge (fieldGet w 0 16) (s.fld (F.FPKT_VP_VP n)) (s.fld (F.SCALE_SHUNT_NOHM n))) ∧ (t.fe
    n).qpFrom = some (s.boundary (s.now + 1)) ∧ t.answeredOk p = true ∧ s.KeepsRegsAt t n [.FPKT_WIDTH, .FPKT_QP_LO,
    .FPKT_QP_HI] [] ∧ s.KeepsBytesBut t (chBlock n + 48) 8) ∧
  (∀ (s : State) (p : Port) (n : Fin 64) (w : Word), s.admits p (R.FPKT_WIDTH n) w = true → fieldGet w 0 16 < widthMin
    (s.fld (F.PROT_OC_OC_POS n)) (s.fld (F.PROT_OC_OC_NEG n)) → Completes (.qpRecompute p .width n w) s fun t => t.fld
    (F.FPKT_WIDTH_WIDTH n) = s.fld (F.FPKT_WIDTH_WIDTH n) ∧ t.fld (F.FPKT_STAT_PKT_W n) = 1 ∧ (t.fe n).qp = (s.fe n).qp ∧
    t.answeredOk p = true ∧ s.KeepsRegsAt t n [.FPKT_STAT] [] ∧ s.KeepsBytes t) ∧
  (∀ (s : State) (p : Port) (n : Fin 64) (w : Word), s.admits p (R.SCALE_SHUNT n) w = true → 700000 ≤ w.toNat → w.toNat ≤
    4000000000 → s.fld (F.CONV_CTL_RUN (s.core n)) ≠ 0 → s.fld F.LT_STATE_LT_ST = 1 → (s.fe n).qpFrom = none → Completes
    (.qpRecompute p .shunt n w) s fun t => t.reg (R.SCALE_SHUNT n) = w ∧ (t.fe n).qp = (s.fe n).qp ∧ (t.fe n).qpNext = some
    (packetCharge (s.fld (F.FPKT_WIDTH_WIDTH n)) (s.fld (F.FPKT_VP_VP n)) w.toNat) ∧ t.answeredOk p = true ∧ s.KeepsRegsAt t n
    [.SCALE_SHUNT] [] ∧ s.KeepsBytes t) ∧
  (∀ (s : State) (p : Port) (n : Fin 64) (w : Word), s.admits p (R.FPKT_VP n) w = true → s.fld (F.CONV_CTL_RUN (s.core n)) ≠
    0 → s.fld F.LT_STATE_LT_ST = 1 → (s.fe n).qpFrom = none → Completes (.qpRecompute p .vp n w) s fun t => t.reg (R.FPKT_VP
    n) = w &&& (R.FPKT_VP n).id.mask ∧ (t.fe n).qp = (s.fe n).qp ∧ (t.fe n).qpNext = some (packetCharge (s.fld
    (F.FPKT_WIDTH_WIDTH n)) (t.fld (F.FPKT_VP_VP n)) (s.fld (F.SCALE_SHUNT_NOHM n))) ∧ t.answeredOk p = true ∧ s.KeepsRegsAt t
    n [.FPKT_VP] [] ∧ s.KeepsBytes t) ∧
  (∀ (s : State) (p : Port) (n : Fin 64) (w : Word), s.admits p (R.PATH_CTL n) w = true → Completes (.pathActiveWrite p n w)
    s fun t => t.reg (R.PATH_CTL n) = w &&& (R.PATH_CTL n).id.mask ∧ (t.fld (F.PATH_STAT_PENDING n) = if fieldGet w 0 1 =
    s.fld (F.PATH_STAT_NOW n) then 0 else 1) ∧ t.fld (F.PATH_STAT_NOW n) = s.fld (F.PATH_STAT_NOW n) ∧ t.answeredOk p = true ∧
    s.KeepsRegsAt t n [.PATH_CTL, .PATH_STAT] [] ∧ s.KeepsBytes t)

/-- R200 to R203, R218: stamps; R203, R207, R208, R211, R212: units. Where the rules leave a corner open, the clauses rest on the
model's readings in notes/assumptions/37.md, notes/assumptions/39.md, notes/assumptions/116.md and notes/assumptions/117.md. -/
def Obligations.EdgesAreStampedAndMeasured : Prop :=
  (∀ (s : State) (i : Fin 16) (fall : Bool) (raw x : Nat) (l : Fin 20) (k : Fin 68), s.awake = true → ((List.range
    20).filter fun j => s.laneTakes j i fall) = [l.val] → x = s.stampValue l raw → (s.dev.evt.last.find? fun (e : Nat × Nat)
    => decide (e.1 = l.val)).all (fun (e : Nat × Nat) => decide (e.2 + 922 ≤ raw)) = true → (s.dev.evt.queue.filter fun (q :
    Nat × Nat) => q.1 = l.val && decide (x / 256 < s.boundary q.2)).length < 8 → Completes (.evEdge i fall raw) s fun t =>
    (t.cst k).stamps = (s.cst k).stamps ++ [s.stampOf x (i + 1) fall l s.holdover] ∧ t.reg64 (R.EVT_LAST_LO l) (R.EVT_LAST_HI
    l) = x / 256 % 2 ^ 64 ∧ t.fld (F.EVT_LAST_INFO_SUB l) = x % 256 ∧ t.flg (F.EVT_LAST_INFO_FALL l) = fall ∧ t.flg
    (F.EVT_LAST_INFO_HOLD l) = s.holdover ∧ ((t.dev.evt.levels.get [] i).head?.any fun (e : Nat × Nat × Bool) => e.2.2 !=
    fall) = true ∧ (s.flg (F.EVT_IN_IRQ i) = true → s.Raised t (129 + i) = true) ∧ t.now = s.onTo (x / 256) ∧ s.KeepsRegs t
    [.EVT_LAST_LO, .EVT_LAST_HI, .EVT_LAST_INFO, .IRQ_PEND, .IRQ_CNT] ∧ s.KeepsBytes t) ∧
  (∀ (s : State) (i : Fin 16) (fall : Bool) (raw x : Nat) (l : Fin 20), s.awake = true → ((List.range 20).filter fun j =>
    s.laneTakes j i fall) = [l.val] → x = s.stampValue l raw → (s.dev.evt.last.find? fun (e : Nat × Nat) => decide (e.1 =
    l.val)).any (fun (e : Nat × Nat) => decide (raw < e.2 + 922)) = true → Completes (.evEdge i fall raw) s fun t => t.fld
    (lostField l) = satInc 8 (s.fld (lostField l)) ∧ t.fld ⟨R.EVT_STAT, l, 1⟩ = 1 ∧ t.dev.evt.last = s.dev.evt.last ∧
    t.dev.evt.queue = s.dev.evt.queue ∧ (t.cst 0).stamps = (s.cst 0).stamps ∧ t.now = s.now ∧ s.KeepsRegs t [.EVT_LOST,
    .EVT_STAT] ∧ s.KeepsBytes t) ∧
  (∀ (s : State) (i : Fin 16) (fall : Bool) (raw : Nat), s.awake = true → ((List.range 20).all fun j => !s.laneTakes j i
    fall) = true → s.dev.rst.hib = 0 → Completes (.evEdge i fall raw) s fun t => ((t.dev.evt.levels.get [] i).head?.any fun (e
    : Nat × Nat × Bool) => e.2.2 != fall) = true ∧ t.dev.cores = s.dev.cores ∧ t.dev.evt.last = s.dev.evt.last ∧
    t.dev.evt.queue = s.dev.evt.queue ∧ t.now = s.now ∧ t.regs = s.regs ∧ s.KeepsBytes t) ∧
  (∀ (s : State) (p : Port) (l : Fin 20), s.admitsRead p (R.EVT_LAST_LO l).addr = true → s.latched (portMaster p)
    (R.EVT_LAST_LO l) = none → Completes (.evtLastRead p l) s fun t => t.dev.bus.answer.get (Answer.mk 255 0) (portMaster p) =
    Answer.mk 0 (s.reg (R.EVT_LAST_LO l)) ∧ t.latched (portMaster p) (R.EVT_LAST_HI l) = some (s.reg (R.EVT_LAST_HI l)) ∧
    t.latched (portMaster p) (R.EVT_LAST_INFO l) = some (s.reg (R.EVT_LAST_INFO l)) ∧ t.regs = s.regs ∧ s.KeepsBytes t) ∧
  (∀ (s : State) (k : Fin 68) (u : Fin 4) (q : Stamp), s.awake = true → (s.cst k).stamps = [q] → (s.unit k u).a ≤ q.t →
    (s.unit k u).off = none → s.fld (F.EVM_GATE_SRC k) = 0 → s.flg (F.EVM_CFG_GATED k u) = false → s.unitSt k u = 1 → s.fld
    (F.EVM_CFG_MODE k u) = 0 → q.fits (s.fld (F.EVM_SRC_START_SRC k u)) (s.fld (F.EVM_SRC_START_EDGE k u)) = true → (s.unit k
    u).near = none → Completes (.stampAction k) s fun t => t.unitSt k u = 2 ∧ (t.unit k u).start = q.t ∧ (t.unit k u).deadline
    = s.unitDeadline k u q.t ∧ (t.cst k).stamps = [] ∧ t.now = s.onTo (s.boundary q.from_) ∧ s.KeepsRegs t [.EVM_CNT,
    .EVM_DROP, .EVM_INFO, .EVM_IVL_HI, .EVM_IVL_LO, .EVM_STATE, .EVM_STAT, .EVM_ST_HI, .EVM_ST_LO, .EVM_SUBR, .RING_STAT,
    .MEM_ECCCNT, .MEM_ECCA_LO, .MEM_ECCA_HI, .PWR_LOST, .IRQ_PEND, .IRQ_CNT] ∧ s.KeepsBytesBut t padBase 0x1001000) ∧
  (∀ (s : State) (k : Fin 68) (u : Fin 4) (q : Stamp), s.awake = true → (s.cst k).stamps = [q] → (s.unit k u).a ≤ q.t →
    (s.unit k u).off = none → s.fld (F.EVM_GATE_SRC k) = 0 → s.flg (F.EVM_CFG_GATED k u) = false → s.unitSt k u = 2 → s.fld
    (F.EVM_CFG_MODE k u) = 0 → q.fits (s.fld (F.EVM_SRC_START_SRC k u)) (s.fld (F.EVM_SRC_START_EDGE k u)) = false → q.fits
    (s.fld (F.EVM_SRC_STOP_SRC k u)) (s.fld (F.EVM_SRC_STOP_EDGE k u)) = true → (s.unit k u).start + 1 < q.t → (s.unit k
    u).deadline.all (fun (d : Nat) => decide (q.t ≤ d)) = true → Completes (.stampAction k) s fun t => t.unitSt k u = 0 ∧
    t.reg64 (R.EVM_IVL_LO k u) (R.EVM_IVL_HI k u) = (q.t - (s.unit k u).start) % 2 ^ 64 ∧ t.fld (F.EVM_SUBR_SUB k u) = (s.unit
    k u).start % 256 ∧ t.fld (F.EVM_INFO_SEQ k u) = (s.unit k u).seq % 65536 ∧ (t.unit k u).seq = ((s.unit k u).seq + 1) %
    65536 ∧ (t.cst k).stamps = [] ∧ s.KeepsRegs t [.EVM_CNT, .EVM_DROP, .EVM_INFO, .EVM_IVL_HI, .EVM_IVL_LO, .EVM_STATE,
    .EVM_STAT, .EVM_ST_HI, .EVM_ST_LO, .EVM_SUBR, .RING_STAT, .MEM_ECCCNT, .MEM_ECCA_LO, .MEM_ECCA_HI, .PWR_LOST, .IRQ_PEND,
    .IRQ_CNT] ∧ s.KeepsBytesBut t padBase 0x1001000) ∧
  (∀ (s : State) (k : Fin 68) (u : Fin 4) (q : Stamp), s.awake = true → (s.cst k).stamps = [q] → (s.unit k u).a ≤ q.t →
    (s.unit k u).off = none → s.fld (F.EVM_GATE_SRC k) = 0 → s.flg (F.EVM_CFG_GATED k u) = false → s.unitSt k u = 1 → s.fld
    (F.EVM_CFG_MODE k u) ≠ 2 → q.fits (s.fld (F.EVM_SRC_START_SRC k u)) (s.fld (F.EVM_SRC_START_EDGE k u)) = false → q.fits
    (s.fld (F.EVM_SRC_STOP_SRC k u)) (s.fld (F.EVM_SRC_STOP_EDGE k u)) = true → s.fld (F.EVM_RWIN_CYC k u) = 0 → Completes
    (.stampAction k) s fun t => t.unitSt k u = 1 ∧ t.fld (F.EVM_CNT_NOSTART k u) = satInc 8 (s.fld (F.EVM_CNT_NOSTART k u)) ∧
    (t.cst k).stamps = [] ∧ s.KeepsRegs t [.EVM_CNT, .EVM_DROP, .EVM_INFO, .EVM_IVL_HI, .EVM_IVL_LO, .EVM_STATE, .EVM_STAT,
    .EVM_ST_HI, .EVM_ST_LO, .EVM_SUBR, .RING_STAT, .MEM_ECCCNT, .MEM_ECCA_LO, .MEM_ECCA_HI, .PWR_LOST, .IRQ_PEND, .IRQ_CNT] ∧
    s.KeepsBytesBut t padBase 0x1001000)

/-- R206, R209, R210, R212, R215, R216. Where the rules leave a corner open, the clauses rest on the model's readings in
notes/assumptions/21.md and notes/assumptions/39.md. -/
def Obligations.UnitsAreArmedAndDisarmed : Prop :=
  (∀ (s : State) (p : Port) (k : Fin 68) (u : Fin 4), s.admits p (R.EVM_CTL k u) (fieldWord (F.EVM_CTL_ARM k u) 1) = true →
    s.unitSeen k u = 0 → Completes (.evmArm p k u) s fun t => t.unitSeen k u = 1 ∧ ((s.unit k u).off = none → t.unitSt k u = 1
    ∧ (t.unit k u).a = s.boundary s.now * 256) ∧ t.answeredOk p = true ∧ s.KeepsRegs t [.EVM_STATE, .EVM_STAT] ∧ s.KeepsBytes
    t) ∧
  (∀ (s : State) (p : Port) (k : Fin 68) (u : Fin 4), s.admits p (R.EVM_CTL k u) (fieldWord (F.EVM_CTL_ARM k u) 1) = true →
    s.unitSeen k u ≠ 0 → Completes (.evmArm p k u) s fun t => t.dev.cores = s.dev.cores ∧ t.answeredOk p = true ∧ t.regs =
    s.regs ∧ s.KeepsBytes t) ∧
  (∀ (s : State) (p : Port) (k : Fin 68) (u : Fin 4), s.admits p (R.EVM_CTL k u) (fieldWord (F.EVM_CTL_DISARM k u) 1) = true
    → s.unitSt k u ≠ 2 → (s.unit k u).off = none → (s.unit k u).later = [] → ((s.cst k).stamps.any fun (q : Stamp) => decide
    (q.t < s.boundary s.now * 256)) = false → Completes (.evmDisarm p k u) s fun t => t.unitSt k u = 0 ∧ (t.fld
    (F.EVM_CNT_NOSTART k u) = if s.unitSt k u = 3 then satInc 8 (s.fld (F.EVM_CNT_NOSTART k u)) else s.fld (F.EVM_CNT_NOSTART
    k u)) ∧ t.answeredOk p = true ∧ s.KeepsRegsAt t k [.EVM_STATE, .EVM_CNT] [] ∧ s.KeepsBytes t) ∧
  (∀ (s : State) (p : Port) (k : Fin 68) (u : Fin 4), s.admits p (R.EVM_CTL k u) (fieldWord (F.EVM_CTL_DISARM k u) 1) = true
    → s.unitSt k u = 2 → (s.unit k u).off = none → (s.unit k u).later = [] → ((s.cst k).stamps.any fun (q : Stamp) => decide
    (q.t < s.boundary s.now * 256)) = false → Completes (.evmDisarm p k u) s fun t => t.unitSt k u = 0 ∧ (t.fld
    (F.EVM_INFO_FLAGS k u)).testBit 3 = true ∧ t.reg64 (R.EVM_IVL_LO k u) (R.EVM_IVL_HI k u) = 0 ∧ t.answeredOk p = true ∧
    s.KeepsRegs t [.EVM_CNT, .EVM_DROP, .EVM_INFO, .EVM_IVL_HI, .EVM_IVL_LO, .EVM_STATE, .EVM_STAT, .EVM_ST_HI, .EVM_ST_LO,
    .EVM_SUBR, .RING_STAT, .MEM_ECCCNT, .MEM_ECCA_LO, .MEM_ECCA_HI, .PWR_LOST, .IRQ_PEND, .IRQ_CNT] ∧ s.KeepsBytesBut t
    padBase 0x1001000) ∧
  (∀ (s : State) (k : Fin 68) (u : Fin 4) (d : Nat), s.awake = true → s.unitSt k u = 2 → (s.unit k u).deadline = some d →
    (s.unit k u).start ≤ d → (s.cst k).stamps = [] → s.fld (F.EVM_GATE_SRC k) = 0 → Completes (.unitTimeout k u) s fun t =>
    t.reg64 (R.EVM_IVL_LO k u) (R.EVM_IVL_HI k u) = (d - (s.unit k u).start) % 2 ^ 64 ∧ (t.fld (F.EVM_INFO_FLAGS k u)).testBit
    2 = true ∧ t.fld (F.EVM_CNT_TMOCNT k u) = satInc 8 (s.fld (F.EVM_CNT_TMOCNT k u)) ∧ (t.unitSt k u = if s.fld
    (F.EVM_CFG_MODE k u) = 0 then 0 else 1) ∧ t.now = s.onTo (s.boundary (divUp d 256 + 192)) ∧ s.KeepsRegs t [.EVM_CNT,
    .EVM_DROP, .EVM_INFO, .EVM_IVL_HI, .EVM_IVL_LO, .EVM_STATE, .EVM_STAT, .EVM_ST_HI, .EVM_ST_LO, .EVM_SUBR, .RING_STAT,
    .MEM_ECCCNT, .MEM_ECCA_LO, .MEM_ECCA_HI, .PWR_LOST, .IRQ_PEND, .IRQ_CNT] ∧ s.KeepsBytesBut t padBase 0x1001000) ∧
  (∀ (s : State) (k : Fin 68) (u : Fin 4), s.awake = true → s.unitSt k u = 3 → (s.cst k).stamps = [] → s.fld (F.EVM_GATE_SRC
    k) = 0 → Completes (.unitHoldLimit k u) s fun t => t.unitSt k u = 1 ∧ t.fld (F.EVM_CNT_NOSTART k u) = satInc 8 (s.fld
    (F.EVM_CNT_NOSTART k u)) ∧ t.now = s.onTo (s.boundary (divUp (s.unit k u).limit 256 + 192)) ∧ s.KeepsRegsAt t k
    [.EVM_STATE, .EVM_CNT] [] ∧ s.KeepsBytes t) ∧
  (∀ (s : State) (k : Fin 68) (x b : Nat), s.awake = true → s.gateNext k = some b → b ≤ x → (((gateTurns k b).run
    s).gateNext k).all (fun (y : Nat) => decide (x < y)) = true → Completes (.gateChange k x) s fun t => t.flg (F.EVM_GATE_NOW
    k) = !s.flg (F.EVM_GATE_NOW k) ∧ (t.cst k).gates = (b, !s.flg (F.EVM_GATE_NOW k)) :: (s.cst k).gates ∧ t.now = s.onTo b ∧
    s.KeepsRegs t [.EVM_CNT, .EVM_DROP, .EVM_INFO, .EVM_IVL_HI, .EVM_IVL_LO, .EVM_STATE, .EVM_STAT, .EVM_ST_HI, .EVM_ST_LO,
    .EVM_SUBR, .RING_STAT, .MEM_ECCCNT, .MEM_ECCA_LO, .MEM_ECCA_HI, .PWR_LOST, .IRQ_PEND, .IRQ_CNT, .EVM_GATE] ∧
    s.KeepsBytesBut t padBase 0x1001000) ∧
  (∀ (s : State) (k : Fin 68) (x : Nat), s.awake = true → (s.gateNext k).all (fun (y : Nat) => decide (x < y)) = true →
    Completes (.gateChange k x) s fun t => t = s) ∧
  (∀ (s : State) (p : Port) (k : Fin 68) (u : Fin 4), s.admitsRead p (R.EVM_IVL_LO k u).addr = true → s.latched (portMaster
    p) (R.EVM_IVL_LO k u) = none → Completes (.evmResultRead p k u) s fun t => t.dev.bus.answer.get (Answer.mk 255 0)
    (portMaster p) = Answer.mk 0 (s.reg (R.EVM_IVL_LO k u)) ∧ t.latched (portMaster p) (R.EVM_INFO k u) = some (s.reg
    (R.EVM_INFO k u)) ∧ t.latched (portMaster p) (R.EVM_SUBR k u) = some (s.reg (R.EVM_SUBR k u)) ∧ t.regs = s.regs ∧
    s.KeepsBytes t)

/-- R227, R229, R231 to R233: slots. Where the rules leave a corner open, the clauses rest on the model's readings in
notes/assumptions/40.md. -/
def Obligations.SlotsAreDefinedFilledAndJudged : Prop :=
  (∀ (s : State) (p : Port) (k : Fin 68) (i : Fin 32) (w : Word), s.admits p (R.PLAY_SLOT k i) w = true → s.slotSt k i = 0 →
    8 * fieldGet w 16 13 + 8 + 32 * fieldGet w 0 11 ≤ 65536 → (fieldGet w 0 11 = 0 ∨ (slots.all fun j => decide (j = i.val) ||
    decide (s.fld (F.PLAY_SLOT_CAP k j) = 0) || decide (8 * fieldGet w 16 13 + 8 + 32 * fieldGet w 0 11 ≤ 8 * s.fld
    (F.PLAY_SLOT_BASE k j)) || decide (8 * s.fld (F.PLAY_SLOT_BASE k j) + 8 + 32 * s.fld (F.PLAY_SLOT_CAP k j) ≤ 8 * fieldGet
    w 16 13)) = true) → Completes (.slotTableWrite p k i w) s fun t => t.fld (F.PLAY_SLOT_BASE k i) = fieldGet w 16 13 ∧ t.fld
    (F.PLAY_SLOT_CAP k i) = fieldGet w 0 11 ∧ t.slotSt k i = 0 ∧ t.answeredOk p = true ∧ s.KeepsRegsAt t k [.PLAY_SLOT] [] ∧
    s.KeepsBytes t) ∧
  (∀ (s : State) (p : Port) (k : Fin 68) (i : Fin 32) (w : Word), s.admits p (R.PLAY_SLOT k i) w = true → (s.slotSt k i ≠ 0
    ∨ 65536 < 8 * fieldGet w 16 13 + 8 + 32 * fieldGet w 0 11) → Completes (.slotTableWrite p k i w) s fun t => t.fld
    (F.PLAY_STAT_SLOT_REJ k) = 1 ∧ t.reg (R.PLAY_SLOT k i) = s.reg (R.PLAY_SLOT k i) ∧ t.answeredOk p = true ∧ s.KeepsRegsAt t
    k [.PLAY_STAT] [] ∧ s.KeepsBytes t) ∧
  (∀ (s : State) (p : Port) (k : Fin 68) (o : BitVec 18) (x : RivalBytes), Memory.wf s.losses s.mem = true → s.issues p =
    true → (s.writers (portMaster p) x.rivals).head? = some (portMaster p) → s.frozen (portMaster p) = false → s.judge p
    (segBase k + o.toNat) x.bytes.length true 0 = .pass → ((partWords (segBase k + o.toNat) x.bytes.length).any fun y =>
    s.badWord y 1) = false → ((s.slotsAt k o.toNat x.bytes.length).any fun i => s.slotActive k i || decide (s.slotSt k i = 1))
    = false → Completes (.segmentMemoryWrite p k o x) s fun t => t.bytes (segBase k + o.toNat) x.bytes.length = x.bytes ∧
    ((s.slotsAt k o.toNat x.bytes.length).all fun i => decide (t.slotSt k i ≠ 2)) = true ∧ t.answeredOk p = true ∧ s.KeepsRegs
    t [.PLAY_SLOT, .PLAY_READY, .PLAY_FILLING, .MEM_ECCCNT, .MEM_ECCA_LO, .MEM_ECCA_HI, .PWR_LOST, .IRQ_PEND, .IRQ_CNT,
    .MEM_COLL, .MEM_COLLA] ∧ s.KeepsBytesBut t (segBase k + o.toNat) x.bytes.length) ∧
  (∀ (s : State) (p : Port) (k : Fin 68) (o : BitVec 18) (x : RivalBytes), s.issues p = true → (s.writers (portMaster p)
    x.rivals).head? = some (portMaster p) → s.frozen (portMaster p) = false → s.judge p (segBase k + o.toNat) x.bytes.length
    true 0 = .pass → ((partWords (segBase k + o.toNat) x.bytes.length).any fun y => s.badWord y 1) = false → ((s.slotsAt k
    o.toNat x.bytes.length).any fun i => s.slotActive k i || decide (s.slotSt k i = 1)) = true → Completes
    (.segmentMemoryWrite p k o x) s fun t => t.fld (F.PLAY_STAT_ACT_WR k) = 1 ∧ t.fld (F.PLAY_CNT_B_ACT_WR k) = satInc 16
    (s.fld (F.PLAY_CNT_B_ACT_WR k)) ∧ t.answeredOk p = true ∧ s.KeepsRegs t [.PLAY_STAT, .PLAY_CNT_B, .MEM_ECCCNT,
    .MEM_ECCA_LO, .MEM_ECCA_HI, .PWR_LOST, .IRQ_PEND, .IRQ_CNT, .MEM_COLL, .MEM_COLLA] ∧ s.KeepsBytes t) ∧
  (∀ (s : State) (p : Port) (k : Fin 68) (i : Fin 32), s.admits p (R.PLAY_VALID k) (fieldWord (F.PLAY_VALID_SLOT k) i) =
    true → Completes (.slotValidate p k i) s fun t => (t.cst k).validating = (s.cst k).validating ++ [i.val] ∧ t.answeredOk p
    = true ∧ t.regs = s.regs ∧ s.KeepsBytes t) ∧
  (∀ (s : State) (k : Fin 68) (i : Fin 32) (l : List Nat), s.awake = true → (s.cst k).validating = i.val :: l → (s.slotSt k
    i ≠ 0 ∨ s.fld (F.PLAY_SLOT_CAP k i) = 0) → Completes (.validationComplete k) s fun t => (t.cst k).validating = l ∧ t.fld
    (F.PLAY_VSTAT_CODE k) = 1 ∧ t.fld (F.PLAY_VSTAT_SLOT k) = i.val ∧ t.slotSt k i = s.slotSt k i ∧ s.KeepsRegsAt t k
    [.PLAY_VSTAT] [] ∧ s.KeepsBytes t) ∧
  (∀ (s : State) (k : Fin 68) (i : Fin 32) (l : List Nat), s.awake = true → (s.cst k).validating = i.val :: l → s.slotSt k i
    = 0 → s.fld (F.PLAY_SLOT_CAP k i) ≠ 0 → Completes (.validationComplete k) s fun t => (t.cst k).validating = l ∧ t.fld
    (F.PLAY_VSTAT_CODE k) = s.validCode k i 0 ∧ t.fld (F.PLAY_VSTAT_SLOT k) = i.val ∧ (t.slotSt k i = if s.validCode k i 0 = 0
    then 2 else 0) ∧ t.flg (F.PLAY_STAT_VFAIL k) = (s.flg (F.PLAY_STAT_VFAIL k) || decide (s.validCode k i 0 ≠ 0)) ∧
    s.KeepsRegsAt t k [.PLAY_VSTAT, .PLAY_STAT, .PLAY_SLOT, .PLAY_READY, .PLAY_FILLING] [.MEM_ECCCNT, .MEM_ECCA_LO,
    .MEM_ECCA_HI, .PWR_LOST, .IRQ_PEND, .IRQ_CNT] ∧ s.KeepsBytes t) ∧
  (∀ (s : State) (p : Port) (k : Fin 68) (i : Fin 32), s.admits p (R.PLAY_INVAL k) (fieldWord (F.PLAY_INVAL_SLOT k) i) =
    true → s.slotActive k i = false → s.slotSt k i = 2 → Completes (.slotInvalidate p k i) s fun t => t.slotSt k i = 0 ∧
    t.answeredOk p = true ∧ s.KeepsRegsAt t k [.PLAY_SLOT, .PLAY_READY, .PLAY_FILLING] [] ∧ s.KeepsBytes t) ∧
  (∀ (s : State) (p : Port) (k : Fin 68) (i : Fin 32), s.admits p (R.PLAY_INVAL k) (fieldWord (F.PLAY_INVAL_SLOT k) i) =
    true → (s.slotActive k i = true ∨ s.slotSt k i = 1) → Completes (.slotInvalidate p k i) s fun t => t.fld
    (F.PLAY_STAT_ACT_WR k) = 1 ∧ t.slotSt k i = s.slotSt k i ∧ t.answeredOk p = true ∧ s.KeepsRegs t [.PLAY_STAT, .IRQ_CNT,
    .IRQ_PEND] ∧ s.KeepsBytes t)

/-- R236, R249, R253, R255, R256: refill, and the start check. Where the rules leave a corner open, the clauses rest on the
model's readings in notes/assumptions/40.md. -/
def Obligations.RefillRequestsFillSlots : Prop :=
  (∀ (s : State) (r : Fin 4096) (c : Nat), s.awake = true → Memory.wf s.losses s.mem = true → s.refillHead r = true →
    s.refillAccepted r = false → s.refillJudge r = some c → (s.ring r).waiting = [] → (s.ring r).ci = (s.ring r).taken →
    ((s.ring r).entry (s.ring r).taken) + 32 ≤ descAddr 0 → ((partWords (((s.ring r).entry (s.ring r).taken) + 16) 16).any fun
    y => s.badWord y 1) = false → Completes (.refillHead r) s fun t => t.num (((s.ring r).entry (s.ring r).taken) + 16) 2 = c
    ∧ (t.ring r).taken = idxNext (s.ring r).taken ∧ (t.ring r).ci = idxNext (s.ring r).taken ∧ (t.ring r).waiting = [] ∧
    (s.ringChannel r).all (fun (n : Nat) => decide (c = 1) || t.flg (F.PLAY_STAT_REF_ERR (s.core n))) = true ∧ s.KeepsRegs t
    [.PLAY_STAT, .MEM_ECCCNT, .MEM_ECCA_LO, .MEM_ECCA_HI, .PWR_LOST, .IRQ_PEND, .IRQ_CNT] ∧ s.KeepsBytesBut t padBase
    0x1001000) ∧
  (∀ (s : State) (r : Fin 4096) (n : Fin 64), s.awake = true → s.refillHead r = true → s.refillAccepted r = false →
    s.refillJudge r = none → s.ringChannel r = some n.val → s.slotActive (s.core n) (s.num (((s.ring r).entry (s.ring
    r).taken) + 10) 1 % 32) = true → Completes (.refillHead r) s fun t => (t.ring r).stall = (s.ring r).stall + 1 ∧ (t.ring
    r).taken = (s.ring r).taken ∧ t.refillAccepted r = true ∧ s.KeepsRegs t [.MEM_ECCCNT, .MEM_ECCA_LO, .MEM_ECCA_HI,
    .PWR_LOST, .IRQ_PEND, .IRQ_CNT] ∧ s.KeepsBytesBut t (descAddr r + 16) 12) ∧
  (∀ (s : State) (r : Fin 4096) (n : Fin 64) (v : Volume), s.awake = true → s.refillHead r = true → s.refillJudge r = none →
    s.ringChannel r = some n.val → s.slotActive (s.core n) (s.num (((s.ring r).entry (s.ring r).taken) + 10) 1 % 32) = false →
    s.storReady = true → s.dev.stor.vol = some v → s.num ((s.ring r).entry (s.ring r).taken) 8 + s.num (((s.ring r).entry
    (s.ring r).taken) + 8) 2 ≤ v.llen → Completes (.refillTake r) s fun t => t.slotSt (s.core n) (s.num (((s.ring r).entry
    (s.ring r).taken) + 10) 1 % 32) = 1 ∧ (t.ring r).taken = idxNext (s.ring r).taken ∧ (t.dev.stor.work.any fun (w : Work) =>
    w.kind = WorkKind.refill && w.ring = r.val && w.idx = (s.ring r).taken && w.core = s.core n && w.slot = (s.num (((s.ring
    r).entry (s.ring r).taken) + 10) 1 % 32)) = true ∧ s.KeepsRegs t [.PLAY_SLOT, .PLAY_READY, .PLAY_FILLING, .MEM_ECCCNT,
    .MEM_ECCA_LO, .MEM_ECCA_HI, .PWR_LOST, .IRQ_PEND, .IRQ_CNT] ∧ s.KeepsBytesBut t (descAddr r + 16) 12) ∧
  (∀ (s : State) (r : Fin 4096) (w : Work), s.awake = true → (s.dev.stor.work.find? fun (w : Work) => w.ring = r.val &&
    w.kind = WorkKind.refill && w.cmds.all fun (c : Cmd) => c.st = CmdSt.ok) = some w → Completes (.refillComplete r) s fun t
    => (t.slotSt w.core w.slot = if s.validCode w.core w.slot (s.num ((s.ring r).entry w.idx + 12) 4) = 0 then 2 else 0) ∧
    (t.dev.stor.work.all fun (x : Work) => x.ring ≠ r.val || x.idx ≠ w.idx) = true ∧ t.fld (F.PLAY_VSTAT_CODE w.core) =
    s.validCode w.core w.slot (s.num ((s.ring r).entry w.idx + 12) 4) ∧ s.KeepsRegs t [.PLAY_SLOT, .PLAY_READY, .PLAY_FILLING,
    .PLAY_VSTAT, .PLAY_STAT, .MEM_ECCCNT, .MEM_ECCA_LO, .MEM_ECCA_HI, .PWR_LOST, .IRQ_PEND, .IRQ_CNT] ∧ s.KeepsBytesBut t
    padBase 0x1001000) ∧
  (∀ (s : State) (n : Fin 64) (i g : Nat), s.awake = true → s.startInstant n = some (i, g) → Completes (.startCheck n) s fun
    t => ((s.gangCores n).all fun k => decide ((t.cst k).play.checked = some (s.startCheck n i)) && (t.cst k).play.holdOk ==
    s.holdPlays n) = true ∧ t.now = s.onTo (g / 256 - 256) ∧ s.KeepsRegs t [.MEM_ECCCNT, .MEM_ECCA_LO, .MEM_ECCA_HI,
    .PWR_LOST, .IRQ_PEND, .IRQ_CNT] ∧ s.KeepsBytes t)

/-- R346 to R348, R351: rings. Where the rules leave a corner open, the clauses rest on the model's readings in
notes/assumptions/44.md. -/
def Obligations.RingsAreEnabledAndRung : Prop :=
  (∀ (s : State) (p : Port) (r : Fin 4096), s.admits p R.RING_CTL (fieldWord F.RING_CTL_OP 1 ||| fieldWord F.RING_CTL_RING
    r) = true → s.enableCode r = 0 → Completes (.ringEnable p r) s fun t => (t.ring r).on = true ∧ (t.ring r).base =
    (s.readDesc r).base ∧ (t.ring r).typ = (s.readDesc r).typ ∧ (t.ring r).k = (s.readDesc r).k ∧ (t.ring r).ci = 0 ∧ t.fld
    F.RING_CRES_CODE = 0 ∧ t.fld F.RING_CRES_RING = r ∧ t.answeredOk p = true ∧ s.KeepsRegs t [.RING_CRES, .CAP_STATE,
    .CAP_STAT, .CAP_HDROP, .RING_STAT, .MEM_ECCA_HI, .MEM_ECCA_LO, .MEM_ECCCNT, .PWR_LOST, .IRQ_CNT, .IRQ_PEND, .IRQ_LIVE] ∧
    s.KeepsBytesBut t padBase 0x1001000) ∧
  (∀ (s : State) (p : Port) (r : Fin 4096), s.admits p R.RING_CTL (fieldWord F.RING_CTL_OP 1 ||| fieldWord F.RING_CTL_RING
    r) = true → s.enableCode r ≠ 0 → Completes (.ringEnable p r) s fun t => t.dev.rings = s.dev.rings ∧ t.fld F.RING_CRES_CODE
    = s.enableCode r ∧ t.fld F.RING_CRES_RING = r ∧ t.answeredOk p = true ∧ s.KeepsRegs t [.RING_CRES, .MEM_ECCA_HI,
    .MEM_ECCA_LO, .MEM_ECCCNT, .PWR_LOST, .IRQ_CNT, .IRQ_PEND] ∧ s.KeepsBytes t) ∧
  (∀ (s : State) (p : Port) (r : Fin 4096), s.admits p R.RING_CTL (fieldWord F.RING_CTL_OP 2 ||| fieldWord F.RING_CTL_RING
    r) = true → (s.ring r).on = false → Completes (.ringDisable p r) s fun t => t.dev.rings = s.dev.rings ∧ t.fld
    F.RING_CRES_CODE = 0 ∧ t.fld F.RING_CRES_RING = r ∧ t.answeredOk p = true ∧ s.KeepsRegs t [.RING_CRES] ∧ s.KeepsBytes t) ∧
  (∀ (s : State) (p : Port) (r : Fin 4096), s.admits p R.RING_CTL (fieldWord F.RING_CTL_OP 2 ||| fieldWord F.RING_CTL_RING
    r) = true → (s.ring r).on = true → Completes (.ringDisable p r) s fun t => (t.ring r).on = true ∧ (t.ring r).stopping =
    true ∧ ((t.ring r).taken = if (s.ring r).consumed then (s.ring r).pi else (s.ring r).taken) ∧ t.answeredOk p = true ∧
    s.KeepsRegs t [.PLAY_STAT, .IRQ_CNT, .IRQ_PEND, .MEM_ECCA_HI, .MEM_ECCA_LO, .MEM_ECCCNT, .PWR_LOST] ∧ s.KeepsBytesBut t
    padBase 0x1001000) ∧
  (∀ (s : State) (r : Fin 4096), s.awake = true → (s.ring r).on = true → (s.ring r).stopping = true → s.ringBusy r = false →
    Completes (.ringDisableDone r) s fun t => (t.ring r).on = false ∧ (t.ring r).stopping = false ∧ t.fld F.RING_CRES_CODE = 0
    ∧ t.fld F.RING_CRES_RING = r ∧ s.KeepsRegs t [.RING_CRES, .IRQ_CNT, .IRQ_PEND, .IRQ_LIVE] ∧ s.KeepsBytes t) ∧
  (∀ (s : State) (p : Port) (r : Fin 4096) (idx : BitVec 20), s.admits p R.RING_DB (fieldWord F.RING_DB_RING r ||| fieldWord
    F.RING_DB_IDX idx.toNat) = true → s.fld F.PWR_STATE_ST ≠ 3 → (s.ring r).on = true → (s.ring r).stopping = false → (s.ring
    r).consumed = true → idxSub idx.toNat (s.ring r).pi ≤ 2 ^ (s.ring r).k → idxSub idx.toNat (s.ring r).ci ≤ 2 ^ (s.ring r).k
    → Completes (.ringDb p r idx) s fun t => (t.ring r) =
    { (s.ring r) with pi := idx.toNat, rang := (s.ring r).rang ++ [(idx.toNat, portMaster p)] } ∧ t.answeredOk p = true ∧
    s.KeepsRegs t [.MEM_ECCA_HI, .MEM_ECCA_LO, .MEM_ECCCNT, .PWR_LOST, .IRQ_CNT, .IRQ_PEND] ∧ s.KeepsBytesBut t (descAddr r +
    16) 12) ∧
  (∀ (s : State) (p : Port) (r : Fin 4096) (idx : BitVec 20), s.admits p R.RING_DB (fieldWord F.RING_DB_RING r ||| fieldWord
    F.RING_DB_IDX idx.toNat) = true → ((s.ring r).on = false ∨ s.fld F.PWR_STATE_ST ≠ 3) → ((s.ring r).on = false ∨ (s.ring
    r).stopping = true ∨ (s.ring r).consumed = false ∨ 2 ^ (s.ring r).k < idxSub idx.toNat (s.ring r).pi ∨ 2 ^ (s.ring r).k <
    idxSub idx.toNat (s.ring r).ci) → Completes (.ringDb p r idx) s fun t => t.fld F.RING_STAT_DB_BAD = 1 ∧ t.dev.rings =
    s.dev.rings ∧ t.answeredOk p = true ∧ s.KeepsRegs t [.RING_STAT] ∧ s.KeepsBytes t) ∧
  (∀ (s : State) (p : Port) (r : Fin 4096) (idx : BitVec 20), s.admits p R.RING_DBC (fieldWord F.RING_DBC_RING r |||
    fieldWord F.RING_DBC_IDX idx.toNat) = true → (s.ring r).on = true → (s.ring r).stopping = false → (s.ring r).consumed =
    false → (s.ring r).sink = 0 → idxSub idx.toNat (s.ring r).ci ≤ idxSub (s.ring r).pi (s.ring r).ci → Completes (.ringDbc p
    r idx) s fun t => (t.ring r).ci = idx.toNat ∧ (t.ring r).taken = idx.toNat ∧ (t.ring r).on = true ∧ t.answeredOk p = true
    ∧ s.KeepsRegs t [.CAP_STATE, .CAP_STAT, .CAP_HDROP, .RING_STAT, .MEM_ECCA_HI, .MEM_ECCA_LO, .MEM_ECCCNT, .PWR_LOST,
    .IRQ_CNT, .IRQ_PEND] ∧ s.KeepsBytesBut t padBase 0x1001000) ∧
  (∀ (s : State) (p : Port) (r : Fin 4096) (idx : BitVec 20), s.admits p R.RING_DBC (fieldWord F.RING_DBC_RING r |||
    fieldWord F.RING_DBC_IDX idx.toNat) = true → ((s.ring r).on = false ∨ (s.ring r).stopping = true ∨ (s.ring r).consumed =
    true ∨ (s.ring r).sink ≠ 0 ∨ idxSub (s.ring r).pi (s.ring r).ci < idxSub idx.toNat (s.ring r).ci) → Completes (.ringDbc p
    r idx) s fun t => t.fld F.RING_STAT_DB_BAD = 1 ∧ t.dev.rings = s.dev.rings ∧ t.answeredOk p = true ∧ s.KeepsRegs t
    [.RING_STAT] ∧ s.KeepsBytes t)

/-- R354 to R356: HOST entries. Where the rules leave a corner open, the clauses rest on the model's readings in
notes/assumptions/44.md and notes/assumptions/118.md. -/
def Obligations.HostEntriesBecomeWork : Prop :=
  (∀ (s : State) (r : Fin 4096), s.awake = true → (s.ring r).on = true → (s.ring r).stopping = false → (s.ring r).typ = 5 →
    (s.ring r).taken ≠ (s.ring r).pi → s.storSt ≠ 5 → s.fld F.PWR_STATE_ST ≠ 3 → Memory.wf s.losses s.mem = true → (s.ring
    r).waiting = [] → (s.ring r).ci = (s.ring r).taken → ((s.ring r).entry (s.ring r).taken) + 64 ≤ descAddr 0 → ((partWords
    (((s.ring r).entry (s.ring r).taken) + 32) 32).any fun y => s.badWord y 1) = false → (3 ≤ s.num ((s.ring r).entry (s.ring
    r).taken) 1 ∨ 3 ≤ s.num (((s.ring r).entry (s.ring r).taken) + 1) 1 ∨ s.num (((s.ring r).entry (s.ring r).taken) + 3) 1 ≠
    0 ∨ s.num (((s.ring r).entry (s.ring r).taken) + 16) 8 % 4096 ≠ 0 ∨ 2 ^ 40 ≤ s.num (((s.ring r).entry (s.ring r).taken) +
    16) 8 ∨ (s.num (((s.ring r).entry (s.ring r).taken) + 1) 1 = 1 ∧ s.num ((s.ring r).entry (s.ring r).taken) 1 = 1)) →
    Completes (.hostEntryTake r) s fun t => t.num (((s.ring r).entry (s.ring r).taken) + 32) 2 = 9 ∧ (t.ring r).ci = idxNext
    (s.ring r).taken ∧ (t.ring r).taken = idxNext (s.ring r).taken ∧ s.KeepsRegs t [.IRQ_CNT, .IRQ_PEND, .MEM_ECCA_HI,
    .MEM_ECCA_LO, .MEM_ECCCNT, .PWR_LOST] ∧ s.KeepsBytesBut t padBase 0x1001000) ∧
  (∀ (s : State) (r : Fin 4096), s.awake = true → (s.ring r).on = true → (s.ring r).stopping = false → (s.ring r).typ = 5 →
    (s.ring r).taken ≠ (s.ring r).pi → s.storSt ≠ 5 → s.fld F.PWR_STATE_ST ≠ 3 → s.badWord ((s.ring r).entry (s.ring r).taken)
    32 = false → s.num (((s.ring r).entry (s.ring r).taken) + 1) 1 < 3 → s.num (((s.ring r).entry (s.ring r).taken) + 3) 1 = 0
    → s.num (((s.ring r).entry (s.ring r).taken) + 16) 8 % 4096 = 0 → s.num (((s.ring r).entry (s.ring r).taken) + 16) 8 < 2 ^
    40 → (s.num (((s.ring r).entry (s.ring r).taken) + 1) 1 ≠ 1 ∨ s.num ((s.ring r).entry (s.ring r).taken) 1 ≠ 1) → (s.num
    (((s.ring r).entry (s.ring r).taken) + 1) 1 = 2 → ((s.ring r).ringer (s.ring r).taken) = 1 ∨ ((s.ring r).ringer (s.ring
    r).taken) = 2 ∨ ((s.ring r).ringer (s.ring r).taken) = 3) → s.num ((s.ring r).entry (s.ring r).taken) 1 = 2 → s.storReady
    = true → Completes (.hostEntryTake r) s fun t => (t.ring r).taken = idxNext (s.ring r).taken ∧ (t.dev.stor.work.any fun (w
    : Work) => w.kind = WorkKind.host && w.ring = r.val && w.idx = (s.ring r).taken && w.cmds = [Cmd.mk StorOp.flush 0 0 0 0
    CmdSt.waiting false]) = true ∧ s.KeepsRegs t [.IRQ_CNT, .IRQ_PEND, .MEM_ECCA_HI, .MEM_ECCA_LO, .MEM_ECCCNT, .PWR_LOST] ∧
    s.KeepsBytesBut t (descAddr r + 16) 12) ∧
  (∀ (s : State) (r : Fin 4096), s.awake = true → (s.ring r).on = true → (s.ring r).stopping = false → (s.ring r).typ = 5 →
    (s.ring r).taken ≠ (s.ring r).pi → s.storSt ≠ 5 → s.fld F.PWR_STATE_ST ≠ 3 → Memory.wf s.losses s.mem = true → (s.ring
    r).waiting = [] → (s.ring r).ci = (s.ring r).taken → ((s.ring r).entry (s.ring r).taken) + 64 ≤ descAddr 0 → ((partWords
    (((s.ring r).entry (s.ring r).taken) + 32) 32).any fun y => s.badWord y 1) = false → s.badWord ((s.ring r).entry (s.ring
    r).taken) 32 = false → s.num (((s.ring r).entry (s.ring r).taken) + 1) 1 < 3 → s.num (((s.ring r).entry (s.ring r).taken)
    + 3) 1 = 0 → s.num (((s.ring r).entry (s.ring r).taken) + 16) 8 % 4096 = 0 → s.num (((s.ring r).entry (s.ring r).taken) +
    16) 8 < 2 ^ 40 → (s.num (((s.ring r).entry (s.ring r).taken) + 1) 1 ≠ 1 ∨ s.num ((s.ring r).entry (s.ring r).taken) 1 ≠ 1)
    → (s.num (((s.ring r).entry (s.ring r).taken) + 1) 1 = 2 → ((s.ring r).ringer (s.ring r).taken) = 1 ∨ ((s.ring r).ringer
    (s.ring r).taken) = 2 ∨ ((s.ring r).ringer (s.ring r).taken) = 3) → s.num ((s.ring r).entry (s.ring r).taken) 1 < 2 →
    (s.num (((s.ring r).entry (s.ring r).taken) + 4) 4 = 0 ∨ 65536 < s.num (((s.ring r).entry (s.ring r).taken) + 4) 4) →
    Completes (.hostEntryTake r) s fun t => t.num (((s.ring r).entry (s.ring r).taken) + 32) 2 = (if s.num (((s.ring r).entry
    (s.ring r).taken) + 4) 4 = 0 then 1 else 7) ∧ (t.ring r).ci = idxNext (s.ring r).taken ∧ (t.ring r).taken = idxNext
    (s.ring r).taken ∧ s.KeepsRegs t [.IRQ_CNT, .IRQ_PEND, .MEM_ECCA_HI, .MEM_ECCA_LO, .MEM_ECCCNT, .PWR_LOST] ∧
    s.KeepsBytesBut t padBase 0x1001000) ∧
  (∀ (s : State) (r : Fin 4096) (v : Volume) (b z : Nat), s.awake = true → (s.ring r).on = true → (s.ring r).stopping =
    false → (s.ring r).typ = 5 → (s.ring r).taken ≠ (s.ring r).pi → s.storSt ≠ 5 → s.fld F.PWR_STATE_ST ≠ 3 → s.badWord
    ((s.ring r).entry (s.ring r).taken) 32 = false → s.num (((s.ring r).entry (s.ring r).taken) + 1) 1 < 3 → s.num (((s.ring
    r).entry (s.ring r).taken) + 3) 1 = 0 → s.num (((s.ring r).entry (s.ring r).taken) + 16) 8 % 4096 = 0 → s.num (((s.ring
    r).entry (s.ring r).taken) + 16) 8 < 2 ^ 40 → (s.num (((s.ring r).entry (s.ring r).taken) + 1) 1 ≠ 1 ∨ s.num ((s.ring
    r).entry (s.ring r).taken) 1 ≠ 1) → (s.num (((s.ring r).entry (s.ring r).taken) + 1) 1 = 2 → ((s.ring r).ringer (s.ring
    r).taken) = 1 ∨ ((s.ring r).ringer (s.ring r).taken) = 2 ∨ ((s.ring r).ringer (s.ring r).taken) = 3) → s.num ((s.ring
    r).entry (s.ring r).taken) 1 < 2 → 0 < s.num (((s.ring r).entry (s.ring r).taken) + 4) 4 → s.num (((s.ring r).entry
    (s.ring r).taken) + 4) 4 ≤ 65536 → s.storReady = true → s.dev.stor.vol = some v → areaOf v (s.num (((s.ring r).entry
    (s.ring r).taken) + 1) 1) (s.num (((s.ring r).entry (s.ring r).taken) + 2) 1) = some (b, z) → s.num (((s.ring r).entry
    (s.ring r).taken) + 8) 8 + s.num (((s.ring r).entry (s.ring r).taken) + 4) 4 ≤ z → s.inWindow ((s.ring r).ringer (s.ring
    r).taken) (s.num (((s.ring r).entry (s.ring r).taken) + 16) 8) (s.num (((s.ring r).entry (s.ring r).taken) + 4) 4 * 4096)
    (decide (s.num ((s.ring r).entry (s.ring r).taken) 1 = 0)) = true → s.bufferOpen ((s.ring r).ringer (s.ring r).taken)
    (s.num (((s.ring r).entry (s.ring r).taken) + 16) 8) (s.num (((s.ring r).entry (s.ring r).taken) + 4) 4) (decide (s.num
    ((s.ring r).entry (s.ring r).taken) 1 = 0)) = true → Completes (.hostEntryTake r) s fun t => (t.ring r).taken = idxNext
    (s.ring r).taken ∧ (t.dev.stor.work.any fun (w : Work) => w.kind = WorkKind.host && w.ring = r.val && w.idx = (s.ring
    r).taken && w.cmds = splitCmds (if s.num ((s.ring r).entry (s.ring r).taken) 1 = 0 then StorOp.read else StorOp.write) (b
    + s.num (((s.ring r).entry (s.ring r).taken) + 8) 8) (s.num (((s.ring r).entry (s.ring r).taken) + 4) 4) (s.num (((s.ring
    r).entry (s.ring r).taken) + 16) 8) 2048) = true ∧ s.KeepsRegs t [.IRQ_CNT, .IRQ_PEND, .MEM_ECCA_HI, .MEM_ECCA_LO,
    .MEM_ECCCNT, .PWR_LOST] ∧ s.KeepsBytesBut t (descAddr r + 16) 12) ∧
  (∀ (s : State) (r : Fin 4096) (v : Volume) (b z : Nat), s.awake = true → (s.ring r).on = true → (s.ring r).stopping =
    false → (s.ring r).typ = 5 → (s.ring r).taken ≠ (s.ring r).pi → s.storSt ≠ 5 → s.fld F.PWR_STATE_ST ≠ 3 → Memory.wf
    s.losses s.mem = true → (s.ring r).waiting = [] → (s.ring r).ci = (s.ring r).taken → ((s.ring r).entry (s.ring r).taken) +
    64 ≤ descAddr 0 → ((partWords (((s.ring r).entry (s.ring r).taken) + 32) 32).any fun y => s.badWord y 1) = false →
    s.badWord ((s.ring r).entry (s.ring r).taken) 32 = false → s.num (((s.ring r).entry (s.ring r).taken) + 1) 1 < 3 → s.num
    (((s.ring r).entry (s.ring r).taken) + 3) 1 = 0 → s.num (((s.ring r).entry (s.ring r).taken) + 16) 8 % 4096 = 0 → s.num
    (((s.ring r).entry (s.ring r).taken) + 16) 8 < 2 ^ 40 → (s.num (((s.ring r).entry (s.ring r).taken) + 1) 1 ≠ 1 ∨ s.num
    ((s.ring r).entry (s.ring r).taken) 1 ≠ 1) → (s.num (((s.ring r).entry (s.ring r).taken) + 1) 1 = 2 → ((s.ring r).ringer
    (s.ring r).taken) = 1 ∨ ((s.ring r).ringer (s.ring r).taken) = 2 ∨ ((s.ring r).ringer (s.ring r).taken) = 3) → s.num
    ((s.ring r).entry (s.ring r).taken) 1 < 2 → 0 < s.num (((s.ring r).entry (s.ring r).taken) + 4) 4 → s.num (((s.ring
    r).entry (s.ring r).taken) + 4) 4 ≤ 65536 → s.storReady = true → s.dev.stor.vol = some v → areaOf v (s.num (((s.ring
    r).entry (s.ring r).taken) + 1) 1) (s.num (((s.ring r).entry (s.ring r).taken) + 2) 1) = some (b, z) → z < s.num (((s.ring
    r).entry (s.ring r).taken) + 8) 8 + s.num (((s.ring r).entry (s.ring r).taken) + 4) 4 → Completes (.hostEntryTake r) s fun
    t => t.num (((s.ring r).entry (s.ring r).taken) + 32) 2 = 6 ∧ (t.ring r).ci = idxNext (s.ring r).taken ∧ (t.ring r).taken
    = idxNext (s.ring r).taken ∧ s.KeepsRegs t [.IRQ_CNT, .IRQ_PEND, .MEM_ECCA_HI, .MEM_ECCA_LO, .MEM_ECCCNT, .PWR_LOST] ∧
    s.KeepsBytesBut t padBase 0x1001000)

/-- R363, R365, R367, R368: tags and tries. Where the rules leave a corner open, the clauses rest on the model's readings in
notes/assumptions/44.md, notes/assumptions/45.md, notes/assumptions/97.md and notes/assumptions/109.md. -/
def Obligations.TagsAndTries : Prop :=
  (∀ (s : State) (g : Fin 2048) (r : Nat) (w : Work), s.awake = true → (s.dev.stor.tags.any fun (e : Nat × Tag) => decide
    (e.1 = g.val)) = false → 2 ≤ s.storSt → s.storSt ≤ 5 → s.nextRing (g.val / 128) = some r → (s.dev.stor.work.find? fun (w :
    Work) => decide (w.ring = r) && decide (w.queue = g.val / 128) && decide (w.waitingCmds ≠ 0)) = some w → Completes
    (.tagIssue g) s fun t => t.dev.stor.tags.get (Tag.mk 0 0 0 false false false) g = Tag.mk r w.idx (w.cmds.findIdx fun (c :
    Cmd) => decide (c.st = CmdSt.waiting)) false false false ∧ t.dev.stor.served.get 4096 (g.val / 128) = r ∧ t.regs = s.regs
    ∧ s.KeepsBytes t) ∧
  (∀ (s : State) (g : Fin 2048) (a : Tag) (w : Work) (c : Cmd) (dnr : Bool), s.awake = true → (s.dev.stor.tags.find? fun (e
    : Nat × Tag) => decide (e.1 = g.val)) = some (g.val, a) → a.zombie = false → s.workOf a.ring a.idx = some w →
    w.cmds[a.cmd]? = some c → (w.afterTry a.cmd CmdSt.ok w.nvst).isDone = false → Completes (.nvmeCompletion (.io g) 0 0 dnr)
    s fun t => t.workOf a.ring a.idx = some (w.afterTry a.cmd CmdSt.ok (w.nvst)) ∧ (t.dev.stor.tags.any fun (e : Nat × Tag) =>
    decide (e.1 = g.val)) = false ∧ t.regs = s.regs ∧ s.KeepsBytes t) ∧
  (∀ (s : State) (g : Fin 2048) (a : Tag) (w : Work) (c : Cmd) (dnr : Bool), s.awake = true → (s.dev.stor.tags.find? fun (e
    : Nat × Tag) => decide (e.1 = g.val)) = some (g.val, a) → a.zombie = false → s.workOf a.ring a.idx = some w →
    w.cmds[a.cmd]? = some c → Memory.wf s.losses s.mem = true → w.kind = WorkKind.host → (s.ring a.ring).typ = 5 → (s.ring
    a.ring).waiting = [] → (s.ring a.ring).ci = a.idx → (s.ring a.ring).entry a.idx + 64 ≤ descAddr 0 → ((partWords ((s.ring
    a.ring).entry a.idx + 32) 32).any fun y => s.badWord y 1) = false → (w.afterTry a.cmd CmdSt.ok w.nvst).isDone = true →
    Completes (.nvmeCompletion (.io g) 0 0 dnr) s fun t => t.num ((s.ring a.ring).entry a.idx + 32) 2 = 0 ∧ (t.ring a.ring).ci
    = idxNext a.idx ∧ t.workOf a.ring a.idx = none ∧ (t.dev.stor.tags.any fun (e : Nat × Tag) => decide (e.1 = g.val)) = false
    ∧ s.KeepsRegs t [.IRQ_CNT, .IRQ_PEND, .MEM_ECCA_HI, .MEM_ECCA_LO, .MEM_ECCCNT, .PWR_LOST] ∧ s.KeepsBytesBut t padBase
    0x1001000) ∧
  (∀ (s : State) (g : Fin 2048) (a : Tag) (w : Work) (c : Cmd) (sct : BitVec 3) (sc : Byte), s.awake = true →
    (s.dev.stor.tags.find? fun (e : Nat × Tag) => decide (e.1 = g.val)) = some (g.val, a) → a.zombie = false → s.workOf a.ring
    a.idx = some w → w.cmds[a.cmd]? = some c → (sct ≠ 0 ∨ sc ≠ 0) → c.tries < 3 → s.fld F.STOR_RETRY_BACKOFF ≠ 0 → Completes
    (.nvmeCompletion (.io g) sct sc false) s fun t => t.workOf a.ring a.idx = some (w.afterTry a.cmd CmdSt.backoff (sct.toNat
    * 256 + sc.toNat)) ∧ (t.dev.stor.tags.any fun (e : Nat × Tag) => decide (e.1 = g.val)) = false ∧ t.regs = s.regs ∧
    s.KeepsBytes t) ∧
  (∀ (s : State) (g : Fin 2048) (a : Tag) (w : Work) (c : Cmd) (sct : BitVec 3) (sc : Byte), s.awake = true →
    (s.dev.stor.tags.find? fun (e : Nat × Tag) => decide (e.1 = g.val)) = some (g.val, a) → a.zombie = false → s.workOf a.ring
    a.idx = some w → w.cmds[a.cmd]? = some c → (sct ≠ 0 ∨ sc ≠ 0) → c.tries < 3 → s.fld F.STOR_RETRY_BACKOFF = 0 → w.stalled =
    true → Completes (.nvmeCompletion (.io g) sct sc false) s fun t => t.workOf a.ring a.idx = some (w.afterTry a.cmd
    CmdSt.waiting (sct.toNat * 256 + sc.toNat)) ∧ (t.dev.stor.tags.any fun (e : Nat × Tag) => decide (e.1 = g.val)) = false ∧
    t.fld F.STOR_CNT_A_RETRY = satInc 16 (s.fld F.STOR_CNT_A_RETRY) ∧ s.Raised t 165 = true ∧ s.KeepsRegs t [.IRQ_CNT,
    .IRQ_PEND, .STOR_CNT_A] ∧ s.KeepsBytes t) ∧
  (∀ (s : State) (g : Fin 2048) (a : Tag) (w : Work) (c : Cmd) (sct : BitVec 3) (sc : Byte) (dnr : Bool), s.awake = true →
    (s.dev.stor.tags.find? fun (e : Nat × Tag) => decide (e.1 = g.val)) = some (g.val, a) → a.zombie = false → s.workOf a.ring
    a.idx = some w → w.cmds[a.cmd]? = some c → Memory.wf s.losses s.mem = true → w.kind = WorkKind.host → (s.ring a.ring).typ
    = 5 → (s.ring a.ring).waiting = [] → (s.ring a.ring).ci = a.idx → (s.ring a.ring).entry a.idx + 64 ≤ descAddr 0 →
    ((partWords ((s.ring a.ring).entry a.idx + 32) 32).any fun y => s.badWord y 1) = false → (sct ≠ 0 ∨ sc ≠ 0) → (dnr = true
    ∨ 3 ≤ c.tries) → Completes (.nvmeCompletion (.io g) sct sc dnr) s fun t => t.num ((s.ring a.ring).entry a.idx + 32) 2 = 3
    ∧ (t.ring a.ring).ci = idxNext a.idx ∧ t.workOf a.ring a.idx = none ∧ (t.dev.stor.tags.any fun (e : Nat × Tag) => decide
    (e.1 = g.val)) = false ∧ s.KeepsRegs t [.IRQ_CNT, .IRQ_PEND, .PLAY_FILLING, .PLAY_READY, .PLAY_SLOT, .PLAY_STAT,
    .RING_STAT, .STOR_CNT_A, .MEM_ECCA_HI, .MEM_ECCA_LO, .MEM_ECCCNT, .PWR_LOST] ∧ s.KeepsBytesBut t padBase 0x1001000) ∧
  (∀ (s : State) (g : Fin 2048) (a : Tag) (sct : BitVec 3) (sc : Byte) (dnr : Bool), s.awake = true → (s.dev.stor.tags.find?
    fun (e : Nat × Tag) => decide (e.1 = g.val)) = some (g.val, a) → a.zombie = true → a.ended = true → sct = 0 → sc = 0 →
    Completes (.nvmeCompletion (.io g) sct sc dnr) s fun t => (t.dev.stor.tags.any fun (e : Nat × Tag) => decide (e.1 =
    g.val)) = false ∧ t.fld F.STOR_CNT_B_LATE = satInc 11 (s.fld F.STOR_CNT_B_LATE) ∧ s.Raised t 167 = true ∧ s.KeepsRegs t
    [.IRQ_CNT, .IRQ_PEND, .STOR_CNT_B] ∧ s.KeepsBytes t) ∧
  (∀ (s : State) (g : Fin 2048) (a : Tag) (sct : BitVec 3) (sc : Byte) (dnr : Bool), s.awake = true → (s.dev.stor.tags.find?
    fun (e : Nat × Tag) => decide (e.1 = g.val)) = some (g.val, a) → a.zombie = true → a.ended = false → Completes
    (.nvmeCompletion (.io g) sct sc dnr) s fun t => (t.dev.stor.tags.any fun (e : Nat × Tag) => decide (e.1 = g.val)) = false
    ∧ t.regs = s.regs ∧ s.KeepsBytes t) ∧
  (∀ (s : State) (g : Fin 2048) (a : Tag) (w : Work) (c : Cmd), s.awake = true → (s.dev.stor.tags.find? fun (e : Nat × Tag)
    => decide (e.1 = g.val)) = some (g.val, a) → a.zombie = false → s.workOf a.ring a.idx = some w → w.cmds[a.cmd]? = some c →
    s.fld F.STOR_RETRY_CTO ≠ 0 → c.tries < 3 → s.fld F.STOR_RETRY_BACKOFF ≠ 0 → Completes (.commandTimeout g) s fun t =>
    t.workOf a.ring a.idx = some (w.afterTry a.cmd CmdSt.backoff (w.nvst)) ∧ t.dev.stor.tags.get (Tag.mk 0 0 0 false false
    false) g = { a with zombie := true } ∧ t.regs = s.regs ∧ s.KeepsBytes t) ∧
  (∀ (s : State) (g : Fin 2048) (a : Tag) (w : Work) (c : Cmd), s.awake = true → (s.dev.stor.tags.find? fun (e : Nat × Tag)
    => decide (e.1 = g.val)) = some (g.val, a) → a.zombie = false → s.workOf a.ring a.idx = some w → w.cmds[a.cmd]? = some c →
    Memory.wf s.losses s.mem = true → w.kind = WorkKind.host → (s.ring a.ring).typ = 5 → (s.ring a.ring).waiting = [] →
    (s.ring a.ring).ci = a.idx → (s.ring a.ring).entry a.idx + 64 ≤ descAddr 0 → ((partWords ((s.ring a.ring).entry a.idx +
    32) 32).any fun y => s.badWord y 1) = false → s.fld F.STOR_RETRY_CTO ≠ 0 → 3 ≤ c.tries → Completes (.commandTimeout g) s
    fun t => t.num ((s.ring a.ring).entry a.idx + 32) 2 = 4 ∧ (t.ring a.ring).ci = idxNext a.idx ∧ t.workOf a.ring a.idx =
    none ∧ s.KeepsRegs t [.IRQ_CNT, .IRQ_PEND, .PLAY_FILLING, .PLAY_READY, .PLAY_SLOT, .PLAY_STAT, .RING_STAT, .STOR_CNT_A,
    .MEM_ECCA_HI, .MEM_ECCA_LO, .MEM_ECCCNT, .PWR_LOST] ∧ s.KeepsBytesBut t padBase 0x1001000) ∧
  (∀ (s : State) (g : Fin 2048) (a : Tag) (w : Work) (c : Cmd), s.awake = true → (s.dev.stor.tags.find? fun (e : Nat × Tag)
    => decide (e.1 = g.val)) = some (g.val, a) → a.zombie = false → s.workOf a.ring a.idx = some w → w.cmds[a.cmd]? = some c →
    c.tries < 3 → s.fld F.STOR_RETRY_BACKOFF ≠ 0 → Completes (.pcieError g) s fun t => t.workOf a.ring a.idx = some
    (w.afterTry a.cmd CmdSt.backoff (w.nvst)) ∧ t.dev.stor.tags.get (Tag.mk 0 0 0 false false false) g =
    { a with zombie := true } ∧ s.Raised t 175 = true ∧ s.KeepsRegs t [.IRQ_CNT, .IRQ_PEND] ∧ s.KeepsBytes t) ∧
  (∀ (s : State) (r x i : Nat) (w : Work), s.awake = true → s.workOf r x = some w → ((w.cmds[i]?).any fun (c : Cmd) => c.st
    = CmdSt.backoff) = true → w.stalled = true → Completes (.backoffEnd r x i) s fun t => t.workOf r x = some (w.afterTry i
    CmdSt.waiting w.nvst) ∧ t.fld F.STOR_CNT_A_RETRY = satInc 16 (s.fld F.STOR_CNT_A_RETRY) ∧ s.Raised t 165 = true ∧
    s.KeepsRegs t [.IRQ_CNT, .IRQ_PEND, .STOR_CNT_A] ∧ s.KeepsBytes t) ∧
  (∀ (s : State) (r : Fin 4096) (x : BitVec 20) (w : Work), s.awake = true → s.workOf r x.toNat = some w → w.timed = true →
    (s.ring r).tmo ≠ 0 → w.isDone = false → Memory.wf s.losses s.mem = true → w.kind = WorkKind.host → (s.ring r).typ = 5 →
    (s.ring r).waiting = [] → (s.ring r).ci = x.toNat → (s.ring r).entry x.toNat + 64 ≤ descAddr 0 → ((partWords ((s.ring
    r).entry x.toNat + 32) 32).any fun y => s.badWord y 1) = false → Completes (.entryTimeout r ⟨x, false⟩) s fun t => t.num
    ((s.ring r).entry x.toNat + 32) 2 = 2 ∧ (t.ring r).ci = idxNext x.toNat ∧ t.workOf r x.toNat = none ∧ t.fld
    F.STOR_CNT_A_TMO = satInc 16 (s.fld F.STOR_CNT_A_TMO) ∧ s.Raised t 166 = true ∧ s.KeepsRegs t [.IRQ_CNT, .IRQ_PEND,
    .PLAY_FILLING, .PLAY_READY, .PLAY_SLOT, .PLAY_STAT, .RING_STAT, .STOR_CNT_A, .MEM_ECCA_HI, .MEM_ECCA_LO, .MEM_ECCCNT,
    .PWR_LOST] ∧ s.KeepsBytesBut t padBase 0x1001000) ∧
  (∀ (s : State) (r : Fin 4096) (x : BitVec 20), s.awake = true → Completes (.entryTimeout r ⟨x, true⟩) s fun t => t = s) ∧
  (∀ (s : State) (g : Fin 2048) (a : Tag), s.awake = true → (s.dev.stor.tags.find? fun (e : Nat × Tag) => decide (e.1 =
    g.val)) = some (g.val, a) → a.zombie = true → a.warned = false → s.fld F.STOR_RETRY_CTO ≠ 0 → Completes (.zombieTimeout g)
    s fun t => t.dev.stor.tags.get (Tag.mk 0 0 0 false false false) g = { a with warned := true } ∧ ((s.dev.stor.tags.any fun
    (e : Nat × Tag) => e.2.warned) = false → s.Raised t 169 = true) ∧ s.KeepsRegs t [.IRQ_CNT, .IRQ_PEND] ∧ s.KeepsBytes t)

/-- R358, R366, R372 to R374. Where the rules leave a corner open, the clauses rest on the model's readings in
notes/assumptions/44.md, notes/assumptions/45.md, notes/assumptions/98.md and notes/assumptions/126.md. -/
def Obligations.BlocksJournalAndAperture : Prop :=
  (∀ (s : State) (r : Fin 4096) (v : Volume) (z : Region), s.awake = true → (s.ring r).on = true → (s.ring r).stopping =
    false → (s.ring r).consumed = false → (s.ring r).sink = 1 → s.storReady = true → s.dev.stor.vol = some v →
    v.regions[(s.ring r).region]? = some z → z.len ≠ 0 → (s.ring r).again = [] → (s.dev.line.recs.any fun (c : Rec) => decide
    (c.ring = r.val) && decide (c.first = (s.ring r).taken)) = false → (if (s.ring r).esz = 4 then 1 else entriesPerBlock
    (s.ring r).esz) ≤ idxSub (s.ring r).pi (s.ring r).taken → Completes (.recordBlockWrite r) s fun t => (t.ring r).taken =
    ((s.ring r).taken + (if (s.ring r).esz = 4 then 1 else entriesPerBlock (s.ring r).esz)) % 2 ^ 20 ∧ t.bseqOf (s.ring
    r).region = s.bseqOf (s.ring r).region + 1 ∧ (t.dev.stor.work.any fun (w : Work) => w.kind = WorkKind.block && w.ring =
    r.val && w.idx = (s.ring r).taken && w.count = (if (s.ring r).esz = 4 then 1 else entriesPerBlock (s.ring r).esz) &&
    (w.cmds.map fun (c : Cmd) => c.blk) = [z.start + s.bseqOf (s.ring r).region % z.len]) = true ∧ s.KeepsRegs t [.IRQ_CNT,
    .IRQ_PEND, .MEM_ECCA_HI, .MEM_ECCA_LO, .MEM_ECCCNT, .PWR_LOST] ∧ s.KeepsBytesBut t (descAddr r + 16) 12) ∧
  (∀ (s : State) (r : Fin 4096) (v : Volume) (z : Region), s.awake = true → (s.ring r).on = true → (s.ring r).stopping =
    false → (s.ring r).consumed = false → (s.ring r).sink = 1 → s.storReady = true → s.dev.stor.vol = some v →
    v.regions[(s.ring r).region]? = some z → z.len ≠ 0 → (s.ring r).again = [] → (s.dev.line.recs.any fun (c : Rec) => decide
    (c.ring = r.val) && decide (c.first = (s.ring r).taken)) = false → s.fld F.STOR_CFG_FLUSH ≠ 0 → (s.ring r).esz ≠ 4 → 0 <
    idxSub (s.ring r).pi (s.ring r).taken → idxSub (s.ring r).pi (s.ring r).taken < entriesPerBlock (s.ring r).esz → Completes
    (.partialBlockFlush r) s fun t => (t.ring r).taken = ((s.ring r).taken + (idxSub (s.ring r).pi (s.ring r).taken)) % 2 ^ 20
    ∧ t.bseqOf (s.ring r).region = s.bseqOf (s.ring r).region + 1 ∧ (t.dev.stor.work.any fun (w : Work) => w.kind =
    WorkKind.block && w.ring = r.val && w.idx = (s.ring r).taken && w.count = (idxSub (s.ring r).pi (s.ring r).taken) &&
    (w.cmds.map fun (c : Cmd) => c.blk) = [z.start + s.bseqOf (s.ring r).region % z.len]) = true ∧ s.KeepsRegs t [.IRQ_CNT,
    .IRQ_PEND, .MEM_ECCA_HI, .MEM_ECCA_LO, .MEM_ECCCNT, .PWR_LOST] ∧ s.KeepsBytesBut t (descAddr r + 16) 12) ∧
  (∀ (s : State) (v : Volume), s.awake = true → s.storReady = true → (s.fld F.STOR_CFG_FLUSH ≠ 0 ∨ 126 ≤
    s.dev.stor.journal.length) → s.dev.stor.vol = some v → s.dev.stor.journal ≠ [] → v.jlen ≠ 0 → Completes (.journalFlush) s
    fun t => t.dev.stor.journal = s.dev.stor.journal.drop 126 ∧ t.dev.stor.jseq = s.dev.stor.jseq + 1 ∧ (t.dev.stor.work.any
    fun (w : Work) => w.kind = WorkKind.own && w.ring = 4096 && w.data = s.journalBlock v && (w.cmds.map fun (c : Cmd) =>
    c.blk) = [v.jstart + s.dev.stor.jseq % v.jlen]) = true ∧ t.regs = s.regs ∧ s.KeepsBytes t) ∧
  (∀ (s : State) (wr : Bool) (a : BitVec 64) (len : Nat) (bytes : List Byte) (g o : Nat) (w : Work) (c : Cmd), s.awake =
    true → Memory.wf s.losses s.mem = true → wr = true → apertureTag a.toNat = some (g, o) → s.liveCmd g = some (w, c) → c.op
    ≠ StorOp.flush → w.kind = WorkKind.host → o + bytes.length ≤ c.n * 4096 → s.plainPlace (c.buf + o) = true → ((partWords
    (c.buf + o) bytes.length).any fun y => s.badWord y 1) = false → Completes (.apertureInbound wr a len bytes) s fun t =>
    t.bytes (c.buf + o) bytes.length = bytes ∧ s.KeepsRegs t [.MEM_ECCA_HI, .MEM_ECCA_LO, .MEM_ECCCNT, .PWR_LOST, .IRQ_CNT,
    .IRQ_PEND] ∧ s.KeepsBytesBut t (c.buf + o) bytes.length) ∧
  (∀ (s : State) (wr : Bool) (a : BitVec 64) (len : Nat) (bytes : List Byte) (g o : Nat) (w : Work) (c : Cmd), s.awake =
    true → wr = true → apertureTag a.toNat = some (g, o) → s.liveCmd g = some (w, c) → c.op ≠ StorOp.flush → w.kind =
    WorkKind.host → (s.dev.bus.locked = true ∨ s.place (c.buf + o) = .outside) → (s.lockedPlace (c.buf + o) = true ∨ s.place
    (c.buf + o) = .outside) → Completes (.apertureInbound wr a len bytes) s fun t => t.dev = s.dev ∧ t.regs = s.regs ∧
    s.KeepsBytes t) ∧
  (∀ (s : State) (wr : Bool) (a : BitVec 64) (len : Nat) (bytes : List Byte) (g o : Nat) (w : Work) (c : Cmd), s.awake =
    true → Memory.wf s.losses s.mem = true → wr = true → apertureTag a.toNat = some (g, o) → s.liveCmd g = some (w, c) → c.op
    ≠ StorOp.flush → w.kind = WorkKind.refill → (c.buf + o) + bytes.length ≤ s.slotAddr w.core w.slot + 32 + 128 * s.fld
    (F.PLAY_SLOT_CAP w.core w.slot) → Completes (.apertureInbound wr a len bytes) s fun t => t.bytes (c.buf + o) bytes.length
    = bytes ∧ t.regs = s.regs ∧ s.KeepsBytesBut t (c.buf + o) bytes.length) ∧
  (∀ (s : State) (wr : Bool) (a : BitVec 64) (len : Nat) (bytes : List Byte) (g o : Nat) (w : Work) (c : Cmd), s.awake =
    true → wr = true → apertureTag a.toNat = some (g, o) → s.liveCmd g = some (w, c) → c.op ≠ StorOp.flush → w.kind ≠
    WorkKind.host → w.kind ≠ WorkKind.refill → Completes (.apertureInbound wr a len bytes) s fun t => t.workOf w.ring w.idx =
    some { w with data := splice w.data o bytes } ∧ t.regs = s.regs ∧ s.KeepsBytes t) ∧
  (∀ (s : State) (wr : Bool) (a : BitVec 64) (len : Nat) (bytes : List Byte) (g o : Nat) (w : Work) (c : Cmd), s.awake =
    true → wr = false → apertureTag a.toNat = some (g, o) → s.liveCmd g = some (w, c) → c.op ≠ StorOp.flush → Completes
    (.apertureInbound wr a len bytes) s fun t => t.dev.stor.apertureRead = some (if w.kind = WorkKind.host ∨ w.kind =
    WorkKind.refill then s.bytes (c.buf + o) len else (w.data.drop o).take len) ∧ s.KeepsRegs t [.IRQ_CNT, .IRQ_PEND,
    .MEM_ECCA_HI, .MEM_ECCA_LO, .MEM_ECCCNT, .PWR_LOST] ∧ s.KeepsBytesBut t (retBase + 0x100) 0x1000) ∧
  (∀ (s : State) (wr : Bool) (a : BitVec 64) (len : Nat) (bytes : List Byte), s.awake = true → (match apertureTag a.toNat
    with | some x => (s.liveCmd x.1).isNone | none => true) = true → Completes (.apertureInbound wr a len bytes) s fun t =>
    (t.fld F.STOR_CNT_B_APDROP = if wr then satInc 10 (s.fld F.STOR_CNT_B_APDROP) else s.fld F.STOR_CNT_B_APDROP) ∧ (wr =
    false → t.dev.stor.apertureRead = none) ∧ s.KeepsRegs t [.STOR_CNT_B] ∧ s.KeepsBytes t) ∧
  (∀ (s : State) (p : Port) (w : Word), s.admits p R.STOR_RETRY w = true → (s.dev.rings.any fun (q : Nat × Ring) => q.2.on
    && q.2.usesStorage && !budgetOk (fieldGet w 0 16) (fieldGet w 16 16) q.2.tmo) = false → Completes (.storRetryWrite p w) s
    fun t => t.reg R.STOR_RETRY = w &&& R.STOR_RETRY.id.mask ∧ t.answeredOk p = true ∧ s.KeepsRegs t [.STOR_RETRY] ∧
    s.KeepsBytes t) ∧
  (∀ (s : State) (p : Port) (w : Word), s.admits p R.STOR_RETRY w = true → (s.dev.rings.any fun (q : Nat × Ring) => q.2.on
    && q.2.usesStorage && !budgetOk (fieldGet w 0 16) (fieldGet w 16 16) q.2.tmo) = true → Completes (.storRetryWrite p w) s
    fun t => t.fld F.STOR_STAT_BUDGET = 1 ∧ s.Raised t 173 = true ∧ t.answeredOk p = true ∧ s.KeepsRegs t [.STOR_STAT,
    .IRQ_CNT, .IRQ_PEND] ∧ s.KeepsBytes t)

/-- R360, R361, R365, R370, R376, R378, R379. Where the rules leave a corner open, the clauses rest on the model's readings in
notes/assumptions/44.md and notes/assumptions/45.md. -/
def Obligations.TheVolumeIsAttachedAndDetached : Prop :=
  (∀ (s : State) (p : Port), s.admits p R.STOR_CTL 1 = true → (s.storSt = 0 ∨ s.storSt = 6 ∨ s.storSt = 7) → Completes
    (.attach p) s fun t => t.dev.pins.ssdPwren = true ∧ t.dev.pins.perstN = false ∧ t.answeredOk p = true ∧ t.regs = s.regs ∧
    s.KeepsBytes t) ∧
  (∀ (s : State) (p : Port), s.admits p R.STOR_CTL 1 = true → s.storSt ≠ 0 → s.storSt ≠ 6 → s.storSt ≠ 7 → Completes
    (.attach p) s fun t => t.fld F.STOR_STAT_REFUSED = 1 ∧ t.dev.pins = s.dev.pins ∧ t.answeredOk p = true ∧ s.KeepsRegs t
    [.STOR_STAT] ∧ s.KeepsBytes t) ∧
  (∀ (s : State), s.awake = true → (s.storSt = 0 ∨ s.storSt = 6 ∨ s.storSt = 7) → Completes (.drivePresent) s fun t =>
    t.dev.pins.ssdPwren = true ∧ t.dev.pins.perstN = false ∧ t.regs = s.regs ∧ s.KeepsBytes t) ∧
  (∀ (s : State), s.awake = true → s.dev.pins.ssdPwren = true → s.dev.pins.perstN = false → Completes (.perstRelease) s fun
    t => t.dev.pins.perstN = true ∧ t.storSt = 1 ∧ s.KeepsRegs t [.STOR_STATE, .IRQ_CNT, .IRQ_PEND, .IRQ_LIVE] ∧ s.KeepsBytes
    t) ∧
  (∀ (s : State) (width speed : BitVec 4), s.awake = true → s.storSt = 1 → Completes (.pcieLinkUp width speed) s fun t =>
    t.storSt = 2 ∧ t.fld F.STOR_STATE_WIDTH = width.toNat % 2 ^ F.STOR_STATE_WIDTH.w ∧ t.fld F.STOR_STATE_SPEED = speed.toNat
    % 2 ^ F.STOR_STATE_SPEED.w ∧ s.KeepsRegs t [.STOR_STATE, .IRQ_CNT, .IRQ_PEND, .IRQ_LIVE] ∧ s.KeepsBytes t) ∧
  (∀ (s : State), s.awake = true → s.storSt = 1 → Completes (.pcieLinkTimeout) s fun t => t.storSt = 7 ∧ t.fld
    F.STOR_STATE_WHY = 1 ∧ s.KeepsRegs t [.STOR_STATE, .IRQ_CNT, .IRQ_PEND, .IRQ_LIVE] ∧ s.KeepsBytes t) ∧
  (∀ (s : State) (ver pairs mqes mdts size msize lbas : Nat) (cache : Bool), s.awake = true → s.storSt = 2 → 13 ≤ ver → 16 ≤
    pairs → 255 ≤ mqes → (mdts = 0 ∨ 128 ≤ mdts) → (size = 512 ∨ size = 4096) → msize = 0 → s.dev.image.volume.vblk ≤
    volumeBlocks lbas size → Completes (.controllerInitDone ver pairs mqes mdts size msize lbas cache) s fun t =>
    t.dev.stor.fua = cache ∧ t.storSt = 2 ∧ t.regs = s.regs ∧ s.KeepsBytes t) ∧
  (∀ (s : State) (ver pairs mqes mdts size msize lbas : Nat) (cache : Bool), s.awake = true → s.storSt = 2 → (ver < 13 ∨
    pairs < 16 ∨ mqes < 255 ∨ (mdts ≠ 0 ∧ mdts < 128) ∨ ¬((size = 512 ∨ size = 4096) ∧ msize = 0) ∨ volumeBlocks lbas size <
    s.dev.image.volume.vblk) → Completes (.controllerInitDone ver pairs mqes mdts size msize lbas cache) s fun t => t.storSt =
    7 ∧ t.fld F.STOR_STATE_WHY = (if ver < 13 then 2 else if pairs < 16 ∨ mqes < 255 then 3 else if mdts ≠ 0 ∧ mdts < 128 then
    4 else if ¬((size = 512 ∨ size = 4096) ∧ msize = 0) then 5 else 6) ∧ s.KeepsRegs t [.STOR_STATE, .IRQ_CNT, .IRQ_PEND,
    .IRQ_LIVE] ∧ s.KeepsBytes t) ∧
  (∀ (s : State) (a b : List Byte) (blocks journal : List ReadBlock), s.awake = true → s.storSt = 2 → parseSuper a = none →
    parseSuper b = none → Completes (.superblockReadDone a b blocks journal) s fun t => t.storSt = 4 ∧ t.fld F.STOR_STATE_WHY
    = 8 ∧ s.Raised t 168 = true ∧ s.Raised t 161 = true ∧ t.dev.stor.vol = none ∧ t.dev.stor.gen = 0 ∧ s.KeepsRegs t
    [.STOR_STATE, .IRQ_CNT, .IRQ_PEND, .IRQ_LIVE] ∧ s.KeepsBytes t) ∧
  (∀ (s : State) (a b : List Byte) (blocks journal : List ReadBlock) (v : Volume) (d : Nat), s.awake = true → s.storSt = 2 →
    bestSuper a b = some (v, d) → (d = s.fld F.SYS_DEVID_DEV ∨ s.flg F.STOR_CFG_ADOPT = true) → Completes (.superblockReadDone
    a b blocks journal) s fun t => t.storSt = 3 ∧ t.dev.stor.vol = some v ∧ t.dev.stor.jseq = headAfter (runSeqs v.gen
    v.jstart v.jlen true journal) ∧ t.dev.stor.bseq = regionHeads v blocks journal ∧ t.dev.stor.gen = v.gen ∧ s.Raised t 161 =
    true ∧ s.KeepsRegs t [.STOR_STATE, .IRQ_CNT, .IRQ_PEND, .IRQ_LIVE] ∧ s.KeepsBytes t) ∧
  (∀ (s : State) (a b : List Byte) (blocks journal : List ReadBlock) (v : Volume) (d : Nat), s.awake = true → s.storSt = 2 →
    bestSuper a b = some (v, d) → d ≠ s.fld F.SYS_DEVID_DEV → s.flg F.STOR_CFG_ADOPT = false → Completes (.superblockReadDone
    a b blocks journal) s fun t => t.storSt = 4 ∧ t.fld F.STOR_STATE_WHY = 7 ∧ s.Raised t 168 = true ∧ t.dev.stor.vol = none ∧
    s.KeepsRegs t [.STOR_STATE, .IRQ_CNT, .IRQ_PEND, .IRQ_LIVE] ∧ s.KeepsBytes t) ∧
  (∀ (s : State) (p : Port), s.admits p R.STOR_CTL 2 = true → (s.storSt = 3 ∨ s.storSt = 4) → Completes (.detach p) s fun t
    => t.storSt = 5 ∧ t.answeredOk p = true ∧ s.KeepsRegs t [.STOR_STATE, .IRQ_CNT, .IRQ_PEND, .IRQ_LIVE] ∧ s.KeepsBytes t) ∧
  (∀ (s : State) (p : Port), s.admits p R.STOR_CTL 2 = true → s.storSt ≠ 3 → s.storSt ≠ 4 → Completes (.detach p) s fun t =>
    t.fld F.STOR_STAT_REFUSED = 1 ∧ t.storSt = s.storSt ∧ t.answeredOk p = true ∧ s.KeepsRegs t [.STOR_STAT] ∧ s.KeepsBytes t) ∧
  (∀ (s : State), s.awake = true → s.storSt = 5 → s.dev.stor.work = [] → Completes (.detachComplete) s fun t => t.storSt = 6
    ∧ t.dev.stor.vol = none ∧ t.dev.stor.tags = [] ∧ t.dev.pins.ssdPwren = false ∧ t.fld F.STOR_STATE_WIDTH = 0 ∧ s.Raised t
    162 = true ∧ s.KeepsRegs t [.STOR_STATE, .IRQ_CNT, .IRQ_PEND, .IRQ_LIVE] ∧ s.KeepsBytes t) ∧
  (∀ (s : State) (p : Port), s.admits p R.STOR_CTL 3 = true → (s.storSt = 3 ∨ s.storSt = 4) → (s.dev.stor.work.any fun (w :
    Work) => w.kind = WorkKind.block) = false → s.dev.stor.formatting = false → Completes (.format p) s fun t =>
    t.dev.stor.formatting = true ∧ t.dev.stor.vol = some { s.dev.image.volume with gen := s.dev.stor.gen + 1 } ∧
    t.dev.stor.gen = s.dev.stor.gen + 1 ∧ (t.dev.stor.work.any fun (w : Work) => w.kind = WorkKind.own && w.ring = 4097 &&
    w.idx = 1) = true ∧ t.answeredOk p = true ∧ t.regs = s.regs ∧ s.KeepsBytes t) ∧
  (∀ (s : State) (p : Port), s.admits p R.STOR_CTL 3 = true → ((s.storSt ≠ 3 ∧ s.storSt ≠ 4) ∨ s.dev.stor.formatting = true)
    → Completes (.format p) s fun t => t.fld F.STOR_STAT_REFUSED = 1 ∧ t.dev.stor = s.dev.stor ∧ t.answeredOk p = true ∧
    s.KeepsRegs t [.STOR_STAT] ∧ s.KeepsBytes t) ∧
  (∀ (s : State), s.awake = true → s.dev.stor.formatting = true → (s.dev.stor.work.any fun (w : Work) => w.kind =
    WorkKind.own) = false → Completes (.formatComplete) s fun t => t.storSt = 3 ∧ t.dev.stor.formatting = false ∧ t.fld
    F.STOR_STATE_WHY = 0 ∧ s.Raised t 170 = true ∧ s.KeepsRegs t [.STOR_STATE, .IRQ_CNT, .IRQ_PEND, .IRQ_LIVE] ∧ s.KeepsBytes
    t) ∧
  (∀ (s : State) (p : Port), s.admits p R.STOR_CTL 4 = true → Completes (.controllerReset p) s fun t => t.dev.stor.tags =
    (s.dev.stor.tags.filter fun (e : Nat × Tag) => !e.2.zombie) ∧ t.answeredOk p = true ∧ t.regs = s.regs ∧ s.KeepsBytes t) ∧
  (∀ (s : State), s.awake = true → s.storSt ≠ 0 → s.storSt ≠ 6 → Completes (.driveLost) s fun t => t.storSt = 0 ∧
    (t.dev.stor.work.all fun (w : Work) => w.landed) = true ∧ t.dev.stor.tags = [] ∧ t.dev.stor.vol = none ∧ s.Raised t 162 =
    true ∧ s.Raised t 163 = true ∧ s.KeepsRegs t [.STOR_STATE, .IRQ_CNT, .IRQ_PEND, .IRQ_LIVE, .PLAY_FILLING, .PLAY_READY,
    .PLAY_SLOT, .PLAY_STAT, .MEM_ECCA_HI, .MEM_ECCA_LO, .MEM_ECCCNT, .PWR_LOST] ∧ s.KeepsBytesBut t padBase 0x1001000) ∧
  (∀ (s : State), s.awake = true → 1 ≤ s.storSt → s.storSt ≤ 5 → Completes (.controllerFatalStatus) s fun t => t.storSt = 7
    ∧ t.fld F.STOR_STATE_WHY = 9 ∧ s.KeepsRegs t [.STOR_STATE, .IRQ_CNT, .IRQ_PEND, .IRQ_LIVE] ∧ s.KeepsBytes t)

/-- R306, R308, R309, R312: captures. Where the rules leave a corner open, the clauses rest on the model's readings in
notes/assumptions/35.md, notes/assumptions/42.md, notes/assumptions/92.md and notes/assumptions/106.md. -/
def Obligations.CapturesAreArmedAndTriggered : Prop :=
  (∀ (s : State) (p : Port) (k : Fin 68), s.admits p (R.CAP_CTL k) (fieldWord (F.CAP_CTL_ARM k) 1) = true → s.armCode k = 0
    → Completes (.capArm p k) s fun t => t.capSt k = 1 ∧ t.fld (F.CAP_STATE_ACODE k) = 0 ∧ t.fld (F.CAP_COUNT_N k) = 0 ∧
    (t.cst k).cap.a = s.boundary s.now ∧ (t.cst k).cap.depth = s.fld (F.CAP_CFG_DEPTH k) ∧ (t.cst k).cap.post = s.fld
    (F.CAP_POST_N k) ∧ (t.cst k).cap.n = 0 ∧ (t.cst k).cap.seq = (s.cst k).cap.seq ∧ t.now = s.onTo (s.boundary s.now) ∧
    t.answeredOk p = true ∧ s.KeepsRegsAt t k [.CAP_STATE, .CAP_COUNT, .MASK_ORG_LO, .MASK_ORG_HI, .MASK_STATE] [] ∧
    s.KeepsBytes t) ∧
  (∀ (s : State) (p : Port) (k : Fin 68), s.admits p (R.CAP_CTL k) (fieldWord (F.CAP_CTL_ARM k) 1) = true → s.armCode k ≠ 0
    → Completes (.capArm p k) s fun t => t.capSt k = s.capSt k ∧ t.fld (F.CAP_STATE_ACODE k) = s.armCode k ∧ t.fld
    (F.CAP_STAT_REFUSED k) = 1 ∧ t.answeredOk p = true ∧ s.KeepsRegsAt t k [.CAP_STATE, .CAP_STAT] [] ∧ s.KeepsBytes t) ∧
  (∀ (s : State) (p : Port) (k : Fin 68), s.admits p (R.CAP_CTL k) (fieldWord (F.CAP_CTL_TRIG k) 1) = true → s.takesTrig k
    31 = true → Completes (.capTrig p k) s fun t => (t.cst k).cap.trigs = (s.cst k).cap.trigs ++ [Trig.mk (s.boundary s.now *
    256) 31 31 none s.holdover] ∧ t.now = s.onTo (s.boundary s.now) ∧ t.answeredOk p = true ∧ t.regs = s.regs ∧ s.KeepsBytes
    t) ∧
  (∀ (s : State) (p : Port) (k : Fin 68), s.admits p (R.CAP_CTL k) (fieldWord (F.CAP_CTL_TRIG k) 1) = true → s.takesTrig k
    31 = false → Completes (.capTrig p k) s fun t => t.dev.cores = s.dev.cores ∧ t.now = s.onTo (s.boundary s.now) ∧
    t.answeredOk p = true ∧ t.regs = s.regs ∧ s.KeepsBytes t) ∧
  (∀ (s : State) (p : Port) (k : Fin 68), s.admits p (R.CAP_CTL k) (fieldWord (F.CAP_CTL_DISARM k) 1) = true → s.capSt k ≠ 0
    → s.captureQuiet k (s.boundary s.now) = true → (s.channelOf k).all (fun (n : Nat) => s.captureQuiet (s.core (s.leader n))
    (s.boundary s.now)) = true → Completes (.capDisarm p k) s fun t => t.capSt k = 0 ∧ t.fld (F.CAP_STAT_DONE k) = 1 ∧ t.fld
    (F.CAP_STATE_SEQ k) = (s.cst k).cap.seq % 65536 ∧ (t.cst k).cap.seq = ((s.cst k).cap.seq + 1) % 65536 ∧ (((s.trigCores
    k).any fun (m : Nat) => decide (m ≠ k.val) && decide (s.capSt m ≠ 0)) = false → (t.cst k).cap.trigs = []) ∧ t.now = s.onTo
    (s.boundary s.now) ∧ t.answeredOk p = true ∧ s.KeepsRegs t [.CAP_HDROP, .CAP_STAT, .CAP_STATE, .CAP_TIDX, .CAP_TPOS,
    .CAP_TRIG_HI, .CAP_TRIG_LO, .RING_STAT, .MEM_ECCA_HI, .MEM_ECCA_LO, .MEM_ECCCNT, .PWR_LOST, .IRQ_CNT, .IRQ_PEND] ∧
    s.KeepsBytesBut t padBase 0x1001000) ∧
  (∀ (s : State) (p : Port) (k : Fin 68), s.admits p (R.CAP_CTL k) (fieldWord (F.CAP_CTL_DISARM k) 1) = true → s.capSt k = 0
    → s.captureQuiet k (s.boundary s.now) = true → (s.channelOf k).all (fun (n : Nat) => s.captureQuiet (s.core (s.leader n))
    (s.boundary s.now)) = true → Completes (.capDisarm p k) s fun t => t.answeredOk p = true ∧ t.now = s.onTo (s.boundary
    s.now) ∧ (t.cst k).cap = (s.cst k).cap ∧ t.regs = s.regs ∧ s.KeepsBytes t) ∧
  (∀ (s : State) (n : Fin 64) (g : Trig), s.awake = true → s.channelOf (s.core n) = some n.val → s.ganged n = false → (s.cst
    (s.core n)).cap.trigs = [g] → ((s.cst (s.core n)).win.toJudge.all fun (r : ResultSet) => decide (s.trigDue g < r.due)) =
    true → s.capSt (s.core n) = 1 → (s.cst (s.core n)).cap.a * 256 ≤ g.t → (s.cst (s.core n)).cap.n = 0 → Completes
    (.captureTrigger n) s fun t => t.capSt (s.core n) = 2 ∧ (t.cst (s.core n)).cap.trig = some g ∧ (t.cst (s.core
    n)).cap.trigs = [] ∧ (t.cst (s.core n)).cap.qT = s.charge n g.t ∧ t.reg64 (R.CAP_TRIG_LO (s.core n)) (R.CAP_TRIG_HI
    (s.core n)) = g.t / 256 % 2 ^ 64 ∧ t.fld (F.CAP_TIDX_SUB (s.core n)) = g.t % 256 ∧ t.now = s.onTo (s.trigDue g) ∧
    s.KeepsRegsAt t (s.core n) [.CAP_STATE, .CAP_TIDX, .CAP_TRIG_HI, .CAP_TRIG_LO] [] ∧ s.KeepsBytes t) ∧
  (∀ (s : State) (n : Fin 64) (g : Trig), s.awake = true → s.channelOf (s.core n) = some n.val → s.ganged n = false → (s.cst
    (s.core n)).cap.trigs = [g] → ((s.cst (s.core n)).win.toJudge.all fun (r : ResultSet) => decide (s.trigDue g < r.due)) =
    true → s.capSt (s.core n) = 2 → Completes (.captureTrigger n) s fun t => t.capSt (s.core n) = 2 ∧ t.fld (F.CAP_STAT_RETRIG
    (s.core n)) = 1 ∧ (t.cst (s.core n)).cap.trig = (s.cst (s.core n)).cap.trig ∧ s.KeepsRegsAt t (s.core n) [.CAP_STAT] [] ∧
    s.KeepsBytes t)

/-- R321, R323: masks; R322 to R328: evaluation. Where the rules leave a corner open, the clauses rest on the model's readings in
notes/assumptions/18.md. -/
def Obligations.MasksAreCheckedAndJudge : Prop :=
  (∀ (s : State) (p : Port) (k : Fin 68) (i : Fin 4) (idx : Byte), s.admits p (R.MASK_SEL k i) (fieldWord (F.MASK_SEL_EN k
    i) 1 ||| fieldWord (F.MASK_SEL_IDX k i) idx.toNat) = true → s.flg (F.MASK_SEL_EN k i) = false → maskEntryOk
    (s.dev.image.mask.get [] idx.toNat) = true → Completes (.maskEnable p k i idx) s fun t => t.flg (F.MASK_SEL_EN k i) = true
    ∧ t.fld (F.MASK_SEL_IDX k i) = idx.toNat ∧ (t.mask k i).checking = true ∧ t.fld (F.MASK_STATE_ST k i) = 0 ∧ t.reg
    (R.MASK_CFG k i) = BitVec.ofNat 32 (entryNum (s.dev.image.mask.get [] idx.toNat) 0 4) &&& (R.MASK_CFG k i).id.mask ∧ t.reg
    (R.MASK_NBP k i) = BitVec.ofNat 32 (entryNum (s.dev.image.mask.get [] idx.toNat) 8 2) &&& (R.MASK_NBP k i).id.mask ∧
    t.answeredOk p = true ∧ s.KeepsRegsAt t k [.MASK_SEL, .MASK_STATE, .MASK_CFG, .MASK_ADDR, .MASK_NBP, .MASK_APPR] [] ∧
    s.KeepsBytes t) ∧
  (∀ (s : State) (p : Port) (k : Fin 68) (i : Fin 4) (idx : Byte), s.admits p (R.MASK_SEL k i) (fieldWord (F.MASK_SEL_EN k
    i) 1 ||| fieldWord (F.MASK_SEL_IDX k i) idx.toNat) = true → s.flg (F.MASK_SEL_EN k i) = true → idx.toNat ≠ s.fld
    (F.MASK_SEL_IDX k i) → s.fld (F.MASK_STATE_ST k i) ≠ 0 → Completes (.maskEnable p k i idx) s fun t => t.fld
    (F.BSTAT_BADVAL (0x100 + k)) = 1 ∧ t.reg (R.MASK_SEL k i) = s.reg (R.MASK_SEL k i) ∧ t.answeredOk p = true ∧ s.KeepsRegs t
    [.BSTAT] ∧ s.KeepsBytes t) ∧
  (∀ (s : State) (k : Fin 68) (i : Fin 4), s.awake = true → (s.mask k i).checking = true → s.flg (F.MASK_SEL_EN k i) = true
    → s.fld (F.MASK_NBP_N k i) = 0 → Completes (.maskCheckComplete k i) s fun t => t.flg (F.MASK_SEL_EN k i) = false ∧ t.fld
    (F.MASK_STATE_ST k i) = 0 ∧ t.fld (maskStat k 0 i) = 1 ∧ (s.channelOf k).all (fun (n : Nat) => s.Raised t (n + 1)) = true
    ∧ (t.mask k i).checking = false ∧ s.KeepsRegs t [.MASK_SEL, .MASK_STATE, .MASK_STAT, .IRQ_CNT, .IRQ_PEND] ∧ s.KeepsBytes
    t) ∧
  (∀ (s : State) (k : Fin 68) (i : Fin 4), s.awake = true → (s.mask k i).checking = true → s.flg (F.MASK_SEL_EN k i) = true
    → s.fld (F.MASK_NBP_N k i) ≠ 0 → s.fld (F.MASK_ADDR_OFS k i) % 16 = 0 → s.fld (F.MASK_ADDR_OFS k i) + 16 * s.fld
    (F.MASK_NBP_N k i) ≤ 0x1000000 → s.bpFault k i 0 (s.fld (F.MASK_NBP_N k i)) = none → Completes (.maskCheckComplete k i) s
    fun t => (t.fld (F.MASK_STATE_ST k i) = if s.fld (F.MASK_CFG_ORG k i) = 0 then 2 else 1) ∧ ((t.mask k i).origins = if
    s.fld (F.MASK_CFG_ORG k i) = 0 then [s.reg64 (R.MASK_ORG_LO k i) (R.MASK_ORG_HI k i)] else []) ∧ (t.mask k i).checking =
    false ∧ s.KeepsRegsAt t k [.MASK_STATE] [.MEM_ECCA_HI, .MEM_ECCA_LO, .MEM_ECCCNT, .PWR_LOST, .IRQ_CNT, .IRQ_PEND] ∧
    s.KeepsBytes t) ∧
  (∀ (s : State) (p : Port) (k : Fin 68) (i : Fin 4) (origin : BitVec 64), s.admits p (R.MASK_ORG_LO k i) (BitVec.ofNat 32
    origin.toNat) = true → s.admits p (R.MASK_ORG_HI k i) (BitVec.ofNat 32 (origin.toNat / 2 ^ 32)) = true → s.fld
    (F.MASK_CFG_ORG k i) = 0 → Completes (.maskOriginWrite p k i origin) s fun t => t.reg64 (R.MASK_ORG_LO k i) (R.MASK_ORG_HI
    k i) = origin.toNat ∧ (t.mask k i).origins = (origin.toNat :: (s.mask k i).origins).take 2 ∧ (t.mask k i).count = 0 ∧
    (t.fld (F.MASK_STATE_ST k i) = if s.fld (F.MASK_STATE_ST k i) = 1 ∨ s.fld (F.MASK_STATE_ST k i) = 3 then 2 else s.fld
    (F.MASK_STATE_ST k i)) ∧ t.answeredOk p = true ∧ s.KeepsRegsAt t k [.MASK_ORG_LO, .MASK_ORG_HI, .MASK_STATE] [] ∧
    s.KeepsBytes t) ∧
  (∀ (s : State) (p : Port) (k : Fin 68) (i : Fin 4) (origin : BitVec 64), s.admits p (R.MASK_ORG_LO k i) (BitVec.ofNat 32
    origin.toNat) = true → s.admits p (R.MASK_ORG_HI k i) (BitVec.ofNat 32 (origin.toNat / 2 ^ 32)) = true → s.fld
    (F.MASK_CFG_ORG k i) ≠ 0 → Completes (.maskOriginWrite p k i origin) s fun t => t.reg64 (R.MASK_ORG_LO k i) (R.MASK_ORG_HI
    k i) = origin.toNat ∧ (t.mask k i).origins = (s.mask k i).origins ∧ t.answeredOk p = true ∧ s.KeepsRegsAt t k
    [.MASK_ORG_LO, .MASK_ORG_HI] [] ∧ s.KeepsBytes t) ∧
  (∀ (s : State) (n : Fin 64) (i : Fin 4) (v j t₀ v₂ i₂ t₂ : Lane) (x : Window) (xs : List Window) (o m b : Nat) (e : Int),
    s.awake = true → (s.fe n).ready = x :: xs → s.capSt (s.core n) = 0 → s.flg (F.MASK_SEL_EN (s.core n) i) = true → s.fld
    (F.MASK_STATE_ST (s.core n) i) = 2 → s.fld (F.MASK_CFG_QTY (s.core n) i) < 2 → (s.mask (s.core n) i).origin x.s = some o →
    m = s.fld (F.MASK_NBP_N (s.core n) i) → b = s.bpIndex (s.core n) i (x.s - o) m → s.bpFault (s.core n) i 0 (min m (b + 2))
    = none → s.bpOff (s.core n) i 0 ≤ x.s - o → (b + 1 ≠ m ∨ s.flg (F.MASK_CFG_TAIL (s.core n) i) = false) → e = (if b + 1 = m
    then s.bpVal (s.core n) i b else s.bpVal (s.core n) i b + divNear ((s.bpVal (s.core n) i (b + 1) - s.bpVal (s.core n) i b)
    * (x.s - o - s.bpOff (s.core n) i b : Nat)) (s.bpOff (s.core n) i (b + 1) - s.bpOff (s.core n) i b)) → Completes
    (.resultDelivery n v j t₀ v₂ i₂ t₂) s fun t => ((t.cst (s.core n)).win.toJudge.getLast?.any fun (r : ResultSet) => r.s =
    x.s && r.due = x.b + x.w + 768 && r.evals.contains
    ({ i := i.val, cfg := s.reg (R.MASK_CFG (s.core n) i), appr := s.reg (R.MASK_APPR (s.core n) i), x := (if s.fld (F.MASK_CFG_QTY (s.core n) i) = 0 then (arithmetic v j (x.w / 4) x.vref x.shunt).1 else (arithmetic v j (x.w / 4) x.vref x.shunt).2.1), e := e }
    : MaskEval)) = true ∧ s.KeepsRegs t [.CAL_CH_TST, .CAL_CH_CORR, .CONV_CNT, .CONV_FLAGS, .CONV_I, .CONV_Q_HI, .CONV_Q_LO,
    .CONV_STAT, .CONV_S_HI, .CONV_S_LO, .CONV_T, .CONV_V, .IRQ_LIVE, .PATH_CTL, .PATH_SHI, .PATH_SHV, .PATH_STAT, .RING_STAT,
    .MEM_ECCA_HI, .MEM_ECCA_LO, .MEM_ECCCNT, .PWR_LOST, .IRQ_CNT, .IRQ_PEND] ∧ s.KeepsBytesOff t [((chBlock n), 64), (padBase,
    0x1001000)]) ∧
  (∀ (s : State) (n : Fin 64) (r : ResultSet) (l : List ResultSet) (v : MaskEval), s.awake = true → ((s.cst (s.core
    n)).cap.trigs.all fun (g : Trig) => decide (r.due < s.trigDue g)) = true → (s.cst (s.core n)).win.toJudge = r :: l →
    r.evals = [v] → v.i < 4 → v.fault = none → v.ended = false → maskOut (v.fld F.MASK_CFG_QTY) r.flags = false → (if v.fld
    F.MASK_CFG_SENSE = 0 then v.e < v.x else v.x < v.e) → (s.mask (s.core n) v.i).count ≠ v.fld F.MASK_CFG_PERSIST → Completes
    (.maskEvaluation n) s fun t => t.flg (F.MASK_STATE_EXC (s.core n) v.i) = (s.flg (F.MASK_SEL_EN (s.core n) v.i) || s.flg
    (F.MASK_STATE_EXC (s.core n) v.i)) ∧ t.flg (F.MASK_STATE_APPR (s.core n) v.i) = (!s.flg (F.MASK_SEL_EN (s.core n) v.i) &&
    s.flg (F.MASK_STATE_APPR (s.core n) v.i)) ∧ t.fld (F.MASK_VCNT_N (s.core n) v.i) = satInc 32 (s.fld (F.MASK_VCNT_N (s.core
    n) v.i)) ∧ (t.mask (s.core n) v.i).count = (s.mask (s.core n) v.i).count + 1 ∧ t.fld (F.MASK_STATE_ST (s.core n) v.i) =
    s.fld (F.MASK_STATE_ST (s.core n) v.i) ∧ (t.cst (s.core n)).win.toJudge = l ∧ t.now = s.onTo r.due ∧ s.KeepsRegsAt t
    (s.core n) [.MASK_STATE, .MASK_VCNT] [] ∧ s.KeepsBytes t) ∧
  (∀ (s : State) (n : Fin 64) (r : ResultSet) (l : List ResultSet) (v : MaskEval), s.awake = true → ((s.cst (s.core
    n)).cap.trigs.all fun (g : Trig) => decide (r.due < s.trigDue g)) = true → (s.cst (s.core n)).win.toJudge = r :: l →
    r.evals = [v] → v.i < 4 → v.fault = none → v.ended = false → maskOut (v.fld F.MASK_CFG_QTY) r.flags = false → (if v.fld
    F.MASK_CFG_SENSE = 0 then v.e < v.x else v.x < v.e) → (s.mask (s.core n) v.i).count = v.fld F.MASK_CFG_PERSIST → Completes
    (.maskEvaluation n) s fun t => t.flg (F.MASK_STATE_EXC (s.core n) v.i) = (s.flg (F.MASK_SEL_EN (s.core n) v.i) || s.flg
    (F.MASK_STATE_EXC (s.core n) v.i)) ∧ t.fld (maskStat (s.core n) 16 v.i) = 1 ∧ (t.fld (F.MASK_STATE_ST (s.core n) v.i) = if
    v.fld F.MASK_CFG_POL = 0 ∨ s.flg (F.MASK_SEL_EN (s.core n) v.i) = false then s.fld (F.MASK_STATE_ST (s.core n) v.i) else
    4) ∧ (t.cst (s.core n)).win.toJudge = l ∧ s.KeepsRegs t [.FAIL_RDROP, .FAIL_STAT, .MASK_SEL, .MASK_STAT, .MASK_STATE,
    .MASK_VCNT, .SEQ_STATE, .CAP_HDROP, .CAP_STAT, .CAP_STATE, .CAP_TIDX, .CAP_TPOS, .CAP_TRIG_HI, .CAP_TRIG_LO, .RING_STAT,
    .MEM_ECCA_HI, .MEM_ECCA_LO, .MEM_ECCCNT, .PWR_LOST, .IRQ_CNT, .IRQ_PEND] ∧ s.KeepsBytesOff t [((failBase (s.core n)),
    0x20000), ((chBlock n), 64), (padBase, 0x1001000)]) ∧
  (∀ (s : State) (n : Fin 64) (r : ResultSet) (l : List ResultSet) (v : MaskEval), s.awake = true → ((s.cst (s.core
    n)).cap.trigs.all fun (g : Trig) => decide (r.due < s.trigDue g)) = true → (s.cst (s.core n)).win.toJudge = r :: l →
    r.evals = [v] → v.i < 4 → v.fault = none → v.ended = false → maskOut (v.fld F.MASK_CFG_QTY) r.flags = false → ¬((if v.fld
    F.MASK_CFG_SENSE = 0 then v.e < v.x else v.x < v.e)) → Completes (.maskEvaluation n) s fun t => t.flg (F.MASK_STATE_EXC
    (s.core n) v.i) = (!s.flg (F.MASK_SEL_EN (s.core n) v.i) && s.flg (F.MASK_STATE_EXC (s.core n) v.i)) ∧ (t.mask (s.core n)
    v.i).count = 0 ∧ t.fld (F.MASK_VCNT_N (s.core n) v.i) = s.fld (F.MASK_VCNT_N (s.core n) v.i) ∧ t.fld (F.MASK_STATE_ST
    (s.core n) v.i) = s.fld (F.MASK_STATE_ST (s.core n) v.i) ∧ (t.cst (s.core n)).win.toJudge = l ∧ s.KeepsRegsAt t (s.core n)
    [.MASK_STATE] [] ∧ s.KeepsBytes t) ∧
  (∀ (s : State) (n : Fin 64) (r : ResultSet) (l : List ResultSet) (v : MaskEval) (f : Nat), s.awake = true → ((s.cst
    (s.core n)).cap.trigs.all fun (g : Trig) => decide (r.due < s.trigDue g)) = true → (s.cst (s.core n)).win.toJudge = r :: l
    → r.evals = [v] → v.i < 4 → v.fault = some f → f ≤ 28 → Completes (.maskEvaluation n) s fun t => t.flg (F.MASK_SEL_EN
    (s.core n) v.i) = false ∧ t.fld (F.MASK_STATE_ST (s.core n) v.i) = 0 ∧ t.fld (maskStat (s.core n) f v.i) = 1 ∧
    (s.channelOf (s.core n)).all (fun (c : Nat) => s.Raised t (c + 1)) = true ∧ (t.cst (s.core n)).win.toJudge = l ∧
    s.KeepsRegs t [.MASK_SEL, .MASK_STATE, .MASK_STAT, .IRQ_CNT, .IRQ_PEND] ∧ s.KeepsBytes t) ∧
  (∀ (s : State) (n : Fin 64) (r : ResultSet) (l : List ResultSet) (v : MaskEval), s.awake = true → ((s.cst (s.core
    n)).cap.trigs.all fun (g : Trig) => decide (r.due < s.trigDue g)) = true → (s.cst (s.core n)).win.toJudge = r :: l →
    r.evals = [v] → v.i < 4 → v.fault = none → v.ended = true → Completes (.maskEvaluation n) s fun t => (t.fld
    (F.MASK_STATE_ST (s.core n) v.i) = if s.fld (F.MASK_STATE_ST (s.core n) v.i) = 2 then 3 else s.fld (F.MASK_STATE_ST
    (s.core n) v.i)) ∧ (t.cst (s.core n)).win.toJudge = l ∧ s.KeepsRegsAt t (s.core n) [.MASK_STATE] [] ∧ s.KeepsBytes t) ∧
  (∀ (s : State) (n : Fin 64) (r : ResultSet) (l : List ResultSet), s.awake = true → (s.cst (s.core n)).win.toJudge = r :: l
    → ((s.cst (s.core n)).cap.trigs.all fun (g : Trig) => decide (r.due < s.trigDue g)) = true → r.evals = [] → Completes
    (.maskEvaluation n) s fun t => (t.cst (s.core n)).win.toJudge = l ∧ t.now = s.onTo r.due ∧ t.regs = s.regs ∧ s.KeepsBytes
    t)

/-- R332 to R334, R339: squalls, FAIL.CLR. Where the rules leave a corner open, the clauses rest on the model's readings in
notes/assumptions/43.md. -/
def Obligations.SquallsCalmTheDevice : Prop :=
  (∀ (s : State), s.awake = true → (s.dev.sql.joined ≠ [] ∨ s.dev.sql.recv ≠ []) → Completes (.squall) s fun t =>
    (channels.all fun n => (t.cst (s.core n)).drv.calm.isSome) = true ∧ t.reg64 R.SYS_SQL_LAST_LO R.SYS_SQL_LAST_HI = s.onTo
    (s.boundary s.now) % 2 ^ 64 ∧ t.fld F.SYS_SQL_CNT_ACTED = satInc 16 (s.fld F.SYS_SQL_CNT_ACTED) ∧ t.dev.sql.joined = [] ∧
    t.dev.sql.recv = [] ∧ t.now = s.onTo (s.boundary s.now) ∧ s.KeepsRegs t [.SEQ_STATE, .SYS_SQL_CNT, .SYS_SQL_LAST_HI,
    .SYS_SQL_LAST_LO, .SYS_SQL_ORIG, .SYS_SQL_STAT, .IRQ_CNT, .IRQ_PEND] ∧ s.KeepsBytes t) ∧
  (∀ (s : State) (c : Fin 64) (l : List Nat), s.awake = true → s.dev.sql.joined = c.val :: l → Completes (.squall) s fun t
    => t.fld F.SYS_SQL_STAT_LOCAL = 1 ∧ t.fld F.SYS_SQL_ORIG_DEV = s.devId % 4096 ∧ t.fld F.SYS_SQL_ORIG_CH = l.foldl min
    c.val ∧ t.fld F.SYS_SQL_ORIG_SEQ = s.dev.sql.seq % 1024 ∧ t.fld F.SYS_SQL_ORIG_HOPS = s.fld F.SYS_SQL_CFG_HOPS ∧
    t.dev.sql.seq = (s.dev.sql.seq + 1) % 1024 ∧ s.Raised t (c + 1) = true ∧ s.KeepsRegs t [.SEQ_STATE, .SYS_SQL_CNT,
    .SYS_SQL_LAST_HI, .SYS_SQL_LAST_LO, .SYS_SQL_ORIG, .SYS_SQL_STAT, .IRQ_CNT, .IRQ_PEND] ∧ s.KeepsBytes t) ∧
  (∀ (s : State) (p : Port) (k : Fin 68) (n : Fin 64), s.admits p (R.FAIL_CLR k) (fieldWord (F.FAIL_CLR_CLR k) 1) = true →
    Memory.wf s.losses s.mem = true → s.channelOf k = some n.val → ((s.fe n).fails.any fun x => decide (x.at_ = s.now)) =
    false → Completes (.failClr p k) s fun t => t.failCount n = 0 ∧ t.failPtr n = 0 ∧ t.answeredOk p = true ∧ s.KeepsRegs t
    [.MEM_ECCA_HI, .MEM_ECCA_LO, .MEM_ECCCNT, .PWR_LOST, .IRQ_CNT, .IRQ_PEND] ∧ s.KeepsBytesBut t (chBlock n) 64) ∧
  (∀ (s : State) (p : Port) (k : Fin 68), s.admits p (R.FAIL_CLR k) (fieldWord (F.FAIL_CLR_CLR k) 1) = true → s.channelOf k
    = none → Completes (.failClr p k) s fun t => t.answeredOk p = true ∧ t.regs = s.regs ∧ s.KeepsBytes t)

/-- R389 to R398: presentation, claim, completion. Where the rules leave a corner open, the clauses rest on the model's readings
in notes/assumptions/46.md. -/
def Obligations.PresentClaimComplete : Prop :=
  (∀ (s : State) (g : Fin 4), s.dev.irq.stopped = false → s.best g ≠ 0 → (s.presented g = 0 ∨ s.ranksAbove (s.best g)
    (s.presented g) = true) → Completes (.irqPresent g) s fun t => t.presented g = s.best g ∧ s.KeepsRegs t [.IRQ_T_RUN] ∧
    s.KeepsBytes t) ∧
  (∀ (s : State) (g : Fin 4), (s.dev.irq.stopped = true ∨ s.best g = 0 ∨ (s.presented g ≠ 0 ∧ s.ranksAbove (s.best g)
    (s.presented g) = false)) → Completes (.irqPresent g) s fun t => t = s) ∧
  (∀ (s : State) (p : Port) (g : Fin 4) (q : Nat), s.admitsRead p (R.IRQ_T_CLAIM g).addr = true → s.latched (portMaster p)
    (R.IRQ_T_CLAIM g) = none → s.presented g = q → q ≠ 0 → s.eligible g q = true → Completes (.irqClaim p g) s fun t =>
    t.dev.bus.answer.get (Answer.mk 255 0) (portMaster p) = Answer.mk 0 (fieldPut (BitVec.ofNat 32 q) 16 8 (s.fld (cntField
    q))) ∧ t.fld (activeField q) = 1 ∧ t.fld (F.IRQ_SRC_OWNER q) = g ∧ t.fld (pendField q) = 0 ∧ t.fld (cntField q) = 0 ∧
    t.presented g = 0 ∧ s.KeepsRegs t [.IRQ_ACTIVE, .IRQ_SRC, .IRQ_PEND, .IRQ_CNT, .IRQ_T_RUN] ∧ s.KeepsBytes t) ∧
  (∀ (s : State) (p : Port) (g : Fin 4), s.admitsRead p (R.IRQ_T_CLAIM g).addr = true → s.latched (portMaster p)
    (R.IRQ_T_CLAIM g) = none → s.presented g ≠ 0 → s.eligible g (s.presented g) = false → Completes (.irqClaim p g) s fun t =>
    t.dev.bus.answer.get (Answer.mk 255 0) (portMaster p) = Answer.mk 0 511 ∧ t.fld (F.IRQ_T_CNT_SPUR g) = satInc 16 (s.fld
    (F.IRQ_T_CNT_SPUR g)) ∧ t.presented g = 0 ∧ s.KeepsRegs t [.IRQ_T_CNT, .IRQ_T_RUN] ∧ s.KeepsBytes t) ∧
  (∀ (s : State) (p : Port) (g : Fin 4), s.admitsRead p (R.IRQ_T_CLAIM g).addr = true → s.latched (portMaster p)
    (R.IRQ_T_CLAIM g) = none → s.presented g = 0 → Completes (.irqClaim p g) s fun t => t.dev.bus.answer.get (Answer.mk 255 0)
    (portMaster p) = Answer.mk 0 0 ∧ t.presented g = 0 ∧ s.KeepsRegs t [.IRQ_T_RUN] ∧ s.KeepsBytes t) ∧
  (∀ (s : State) (p : Port) (g : Fin 4) (w : Word) (q : Nat), s.admits p (R.IRQ_T_COMPLETE g) w = true → q = fieldGet w 0 9
    → q ≠ 0 → q ≤ 255 → s.owns g q = true → Completes (.irqComplete p g w) s fun t => t.fld (activeField q) = 0 ∧ t.fld
    (F.IRQ_SRC_OWNER q) = 0 ∧ (t.fld (pendField q) = if sourceLevel q then s.fld (liveField q) else s.fld (pendField q)) ∧
    t.answeredOk p = true ∧ s.KeepsRegs t [.IRQ_ACTIVE, .IRQ_SRC, .IRQ_PEND] ∧ s.KeepsBytes t) ∧
  (∀ (s : State) (p : Port) (g : Fin 4) (w : Word) (q : Nat), s.admits p (R.IRQ_T_COMPLETE g) w = true → q = fieldGet w 0 9
    → q ≠ 0 → q ≤ 255 → s.owns g q = false → Completes (.irqComplete p g w) s fun t => t.fld (F.IRQ_T_CNT_ORPH g) = satInc 16
    (s.fld (F.IRQ_T_CNT_ORPH g)) ∧ s.Raised t 252 = true ∧ t.fld (activeField q) = s.fld (activeField q) ∧ t.answeredOk p =
    true ∧ s.KeepsRegs t [.IRQ_T_CNT, .IRQ_CNT, .IRQ_PEND] ∧ s.KeepsBytes t)

/-- R382, R383, R388, R401, R402, R405. Where the rules leave a corner open, the clauses rest on the model's readings in
notes/assumptions/46.md. -/
def Obligations.SourcesBecomePending : Prop :=
  (∀ (s : State) (i : Fin 256), s.dev.irq.timer.contains i.val = true → s.fld (F.IRQ_COAL_CTIME i) ≠ 0 → s.dev.irq.stopped =
    false → Completes (.coalesceTimeout i) s fun t => t.fld (pendField i) = 1 ∧ t.dev.irq.timer.contains i.val = false ∧
    s.KeepsRegs t [.IRQ_PEND] ∧ s.KeepsBytes t) ∧
  (∀ (s : State) (p : Port) (i : Fin 8) (j : Fin 32) (w : Word), s.admitsAt p (setAlias (R.IRQ_PEND i)) w = true → (32 *
    i.val + j.val) ≠ 0 → sourceLevel (32 * i.val + j.val) = false → Completes (.irqPendSet p i w) s fun t => (t.fld (pendField
    (32 * i.val + j.val)) = if w.toNat.testBit j then 1 else s.fld (pendField (32 * i.val + j.val))) ∧ t.answeredOk p = true ∧
    s.KeepsRegs t [.IRQ_PEND] ∧ s.KeepsBytes t) ∧
  (∀ (s : State) (p : Port) (i : Fin 8) (j : Fin 32) (w : Word), s.admitsAt p (setAlias (R.IRQ_PEND i)) w = true → ((32 *
    i.val + j.val) = 0 ∨ sourceLevel (32 * i.val + j.val) = true) → Completes (.irqPendSet p i w) s fun t => t.fld (pendField
    (32 * i.val + j.val)) = s.fld (pendField (32 * i.val + j.val)) ∧ t.answeredOk p = true ∧ s.KeepsRegs t [.IRQ_PEND] ∧
    s.KeepsBytes t) ∧
  (∀ (s : State) (p : Port) (i : Fin 8) (j : Fin 32) (w hw : Word), s.admitsAt p (clearAlias (R.IRQ_PEND i)) w = true → (32
    * i.val + j.val) ≠ 0 → sourceLevel (32 * i.val + j.val) = false → w.toNat.testBit j = true → hw.toNat.testBit j = false →
    Completes (.irqPendClear p i ⟨w, hw⟩) s fun t => t.fld (pendField (32 * i.val + j.val)) = 0 ∧ t.fld (cntField (32 * i.val
    + j.val)) = 0 ∧ t.answeredOk p = true ∧ s.KeepsRegs t [.IRQ_CNT, .IRQ_PEND] ∧ s.KeepsBytes t) ∧
  (∀ (s : State) (p : Port) (i : Fin 8) (j : Fin 32) (w hw : Word), s.admitsAt p (clearAlias (R.IRQ_PEND i)) w = true → (32
    * i.val + j.val) ≠ 0 → sourceLevel (32 * i.val + j.val) = false → (w.toNat.testBit j = false ∨ hw.toNat.testBit j = true)
    → Completes (.irqPendClear p i ⟨w, hw⟩) s fun t => t.fld (pendField (32 * i.val + j.val)) = s.fld (pendField (32 * i.val +
    j.val)) ∧ t.answeredOk p = true ∧ s.KeepsRegs t [.IRQ_CNT, .IRQ_PEND] ∧ s.KeepsBytes t) ∧
  (∀ (s : State) (p : Port) (i : Fin 256) (w : Word), s.admits p (R.IRQ_SRC i) w = true → Completes (.irqSourceWrite p false
    i w) s fun t => t.fld (F.IRQ_SRC_PRIO i) = fieldGet w 0 8 ∧ t.fld (F.IRQ_SRC_RANK i) = fieldGet w 8 8 ∧ t.fld
    (F.IRQ_SRC_CCNT i) = fieldGet w 16 8 ∧ t.fld (F.IRQ_SRC_TGT i) = fieldGet w 24 4 ∧ t.fld (F.IRQ_SRC_OWNER i) = s.fld
    (F.IRQ_SRC_OWNER i) ∧ (t.fld (pendField i) = if sourceLevel i = false ∧ s.fld (cntField i) ≠ 0 ∧ ((fieldGet w 16 8 ≠ 0 ∧
    fieldGet w 16 8 ≤ s.fld (cntField i)) ∨ (fieldGet w 16 8 = 0 ∧ s.fld (F.IRQ_COAL_CTIME i) = 0)) then 1 else s.fld
    (pendField i)) ∧ t.answeredOk p = true ∧ s.KeepsRegs t [.IRQ_SRC, .IRQ_PEND] ∧ s.KeepsBytes t) ∧
  (∀ (s : State) (p : Port) (i : Fin 256) (w : Word), s.admits p (R.IRQ_COAL i) w = true → fieldGet w 0 21 ≤ 1048576 →
    Completes (.irqSourceWrite p true i w) s fun t => t.fld (F.IRQ_COAL_CTIME i) = fieldGet w 0 21 ∧ t.answeredOk p = true ∧
    s.KeepsRegs t [.IRQ_COAL, .IRQ_PEND] ∧ s.KeepsBytes t) ∧
  (∀ (s : State) (p : Port), s.admits p R.IRQ_SWI (fieldWord F.IRQ_SWI_SW253 1) = true → Completes (.sw253 p) s fun t =>
    s.Raised t 253 = true ∧ t.answeredOk p = true ∧ s.KeepsRegs t [.IRQ_CNT, .IRQ_PEND] ∧ s.KeepsBytes t) ∧
  (∀ (s : State) (p : Port), s.admits p R.IRQ_SWI (fieldWord F.IRQ_SWI_SW254 1) = true → Completes (.sw254 p) s fun t =>
    s.Raised t 254 = true ∧ t.answeredOk p = true ∧ s.KeepsRegs t [.IRQ_CNT, .IRQ_PEND] ∧ s.KeepsBytes t) ∧
  (∀ (s : State) (q : Fin 256), s.dev.irq.stopped = false → s.dev.irq.latch = [q.val] → Completes (.asyncLatchDelivery) s
    fun t => t.fld (bitField (fun w => R.IRQ_ALATCH w) q) = 1 ∧ t.fld (cntField q) = satInc 8 (s.fld (cntField q)) ∧
    t.dev.irq.latch = [] ∧ s.KeepsRegs t [.IRQ_ALATCH, .IRQ_CNT, .IRQ_PEND] ∧ s.KeepsBytes t)

/-- R412, R418 to R421, R428, R506. Where the rules leave a corner open, the clauses rest on the model's readings in
notes/assumptions/47.md, notes/assumptions/64.md and notes/assumptions/99.md. -/
def Obligations.ErrorsAreCorrectedOrRecorded : Prop :=
  (∀ (s : State) (a : Nat) (l : List Nat), s.awake = true → s.dev.bus.writeBack = a :: l → Completes (.eccWriteback) s fun t
    => t.dev.bus.writeBack = l ∧ (t.dev.bus.ecc.all fun (e : Nat × EccErr) => decide (e.1 ≠ a) || e.2.ue) = true ∧ t.regs =
    s.regs ∧ s.KeepsBytes t) ∧
  (∀ (s : State) (a : BitVec 40) (copy : Fin 17) (flips : BitVec 104) (x : EccErr), s.awake = true → s.fld
    F.MEM_SCRUB_PERIOD ≠ 0 → s.scrubbed a.toNat copy = true → x = (s.dev.bus.ecc.get ⟨0, false⟩ (eccKey copy (eccWord
    a.toNat))).flip (eccKey copy (eccWord a.toNat)) flips.toNat → x.ue = false → x.bits ≠ 0 → Completes (.scrubRead a copy
    flips false) s fun t => t.fld F.MEM_ECCCNT_CE = satInc 16 (s.fld F.MEM_ECCCNT_CE) ∧ t.fld F.MEM_ECCA_LO_ADDR = (eccWord
    a.toNat) % 2 ^ 32 ∧ t.fld F.MEM_ECCA_HI_ADDR = (eccWord a.toNat) / 2 ^ 32 % 2 ^ F.MEM_ECCA_HI_ADDR.w ∧ t.fld
    F.MEM_ECCA_HI_UE = 0 ∧ t.fld F.MEM_ECCA_HI_COPY = copy ∧ s.Raised t 241 = true ∧ t.dev.bus.writeBack.contains (eccKey copy
    (eccWord a.toNat)) = true ∧ t.dev.bus.ecc.get ⟨0, false⟩ (eccKey copy (eccWord a.toNat)) = x ∧ t.dev.bus.passCE =
    s.dev.bus.passCE + 1 ∧ s.KeepsRegs t [.MEM_ECCA_HI, .MEM_ECCA_LO, .MEM_ECCCNT, .IRQ_CNT, .IRQ_PEND] ∧ s.KeepsBytes t) ∧
  (∀ (s : State) (a : BitVec 40) (copy : Fin 17) (flips : BitVec 104) (x : EccErr), s.awake = true → s.fld
    F.MEM_SCRUB_PERIOD ≠ 0 → s.scrubbed a.toNat copy = true → x = (s.dev.bus.ecc.get ⟨0, false⟩ (eccKey copy (eccWord
    a.toNat))).flip (eccKey copy (eccWord a.toNat)) flips.toNat → x.ue = true → (copy.val ≠ 0 ∨ (eccWord a.toNat) < retBase +
    0x100 ∨ retBase + 0x1100 ≤ (eccWord a.toNat)) → Completes (.scrubRead a copy flips false) s fun t => t.fld F.MEM_ECCCNT_UE
    = satInc 16 (s.fld F.MEM_ECCCNT_UE) ∧ t.fld F.MEM_ECCA_HI_UE = 1 ∧ t.fld F.MEM_ECCA_LO_ADDR = (eccWord a.toNat) % 2 ^ 32 ∧
    s.Raised t 242 = true ∧ t.dev.bus.ecc.get ⟨0, false⟩ (eccKey copy (eccWord a.toNat)) = x ∧ s.KeepsRegs t [.MEM_ECCA_HI,
    .MEM_ECCA_LO, .MEM_ECCCNT, .IRQ_CNT, .IRQ_PEND] ∧ s.KeepsBytesBut t (eccWord a.toNat) (eccSize (eccWord a.toNat))) ∧
  (∀ (s : State) (n : Fin 64) (o : Fin 8) (flips : BitVec 104) (x : EccErr), s.awake = true → Memory.wf s.losses s.mem =
    true → s.fld F.MEM_SCRUB_PERIOD ≠ 0 → (o.val < 5 ∨ o.val = 6) → x = (s.dev.bus.ecc.get ⟨0, false⟩ (chBlock n + 8 *
    o)).flip (chBlock n + 8 * o) flips.toNat → x.ue = true → Completes (.scrubRead (BitVec.ofNat 40 (chBlock n + 8 * o)) 0
    flips false) s fun t => t.fld F.PWR_LOST_RET = 1 ∧ (t.num (chBlock n + 12) 1).testBit 0 = true ∧ (o.val ≠ 1 → t.num
    (chBlock n + 12) 1 = s.num (chBlock n + 12) 1 ||| 1) ∧ (o.val ≠ 1 → t.badWord (chBlock n + 8 * o) 8 = true) ∧ (o.val = 1 →
    (t.dev.bus.ecc.any fun (e : Nat × EccErr) => decide (e.1 = (chBlock n + 8 * o))) = false) ∧ s.Raised t (n + 1) = true ∧
    s.Raised t 242 = true ∧ s.KeepsRegs t [.MEM_ECCA_HI, .MEM_ECCA_LO, .MEM_ECCCNT, .IRQ_CNT, .IRQ_PEND, .PWR_LOST] ∧
    s.KeepsBytesBut t (chBlock n) 64) ∧
  (∀ (s : State) (n : Fin 64) (flips : BitVec 104) (x : EccErr), s.awake = true → Memory.wf s.losses s.mem = true → s.fld
    F.MEM_SCRUB_PERIOD ≠ 0 → x = (s.dev.bus.ecc.get ⟨0, false⟩ (chBlock n + 40)).flip (chBlock n + 40) flips.toNat → x.ue =
    true → Completes (.scrubRead (BitVec.ofNat 40 (chBlock n + 40)) 0 flips false) s fun t => t.fld F.PWR_LOST_RET = 1 ∧ t.num
    (chBlock n + 12) 1 = s.num (chBlock n + 12) 1 ||| 2 ∧ t.num (chBlock n + 40) 6 = 0 ∧ (t.dev.bus.ecc.any fun (e : Nat ×
    EccErr) => decide (e.1 = chBlock n + 40)) = false ∧ s.Raised t (n + 1) = true ∧ s.KeepsRegs t [.MEM_ECCA_HI, .MEM_ECCA_LO,
    .MEM_ECCCNT, .IRQ_CNT, .IRQ_PEND, .PWR_LOST] ∧ s.KeepsBytesBut t (chBlock n) 64) ∧
  (∀ (s : State) (a : BitVec 40) (copy : Fin 17), s.awake = true → s.fld F.MEM_SCRUB_PERIOD ≠ 0 → (s.dev.bus.ecc.any fun (e
    : Nat × EccErr) => decide (e.1 = (eccKey copy (eccWord a.toNat)))) = false → Completes (.scrubRead a copy 0 false) s fun t
    => t = s) ∧
  (∀ (s : State) (a : BitVec 40) (copy : Fin 17), s.awake = true → s.fld F.MEM_SCRUB_PERIOD ≠ 0 → (s.dev.bus.ecc.any fun (e
    : Nat × EccErr) => decide (e.1 = (eccKey copy (eccWord a.toNat)))) = false → Completes (.scrubRead a copy 0 true) s fun t
    => t.fld F.MEM_SCRUBST_PASSES = satInc 16 (s.fld F.MEM_SCRUBST_PASSES) ∧ t.fld F.MEM_SCRUBST_LASTCE = min s.dev.bus.passCE
    65535 ∧ s.Raised t 244 = true ∧ t.dev.bus.passCE = 0 ∧ s.KeepsRegs t [.MEM_SCRUBST, .IRQ_CNT, .IRQ_PEND] ∧ s.KeepsBytes t) ∧
  (∀ (s : State) (n : Fin 64) (copy : Fin 17) (flips : BitVec 104) (x : EccErr), s.dev.rst.hib = 3 → s.dev.rst.por = 0 →
    Memory.wf s.losses s.mem = true → s.dev.rst.scrub.1 ≠ 0 → s.dev.irq.stopped = true → x = (s.dev.bus.ecc.get ⟨0, false⟩
    (chBlock n + 48)).flip (chBlock n + 48) flips.toNat → x.ue = true → Completes (.scrubRead (BitVec.ofNat 40 (chBlock n +
    48)) copy flips false) s fun t => t.dev.irq.latch.contains 242 = true ∧ t.fld F.PWR_LOST_RET = 1 ∧ t.num (chBlock n + 12)
    1 = s.num (chBlock n + 12) 1 ||| 1 ∧ t.badWord (chBlock n + 48) 8 = true ∧ s.KeepsRegs t [.PWR_LOST] ∧ s.KeepsBytesBut t
    (chBlock n) 64) ∧
  (∀ (s : State) (m : Fin 16), s.awake = true → Completes (.starve m) s fun t => t.fld F.MEM_STARVE_N = satInc 16 (s.fld
    F.MEM_STARVE_N) ∧ t.fld F.MEM_STARVE_MASTER = m ∧ s.Raised t 245 = true ∧ s.KeepsRegs t [.MEM_STARVE, .IRQ_CNT, .IRQ_PEND]
    ∧ s.KeepsBytes t) ∧
  (∀ (s : State) (p : Port) (m : BitVec 16), s.admits p R.MEM_FRZREL (fieldWord F.MEM_FRZREL_M m.toNat) = true → Completes
    (.frzrel p m) s fun t => t.fld F.MEM_FRZ_M = s.fld F.MEM_FRZ_M &&& (0xFFFF ^^^ m.toNat) ∧ t.answeredOk p = true ∧
    (m.toNat.testBit 1 = true → s.dev.bus.stalled.get 0 1 ≠ 0 → t.dev.bus.answer.get (Answer.mk 255 0) 1 = Answer.mk 2 0) ∧
    (m.toNat.testBit 2 = true → s.dev.bus.stalled.get 0 2 ≠ 0 → t.dev.bus.answer.get (Answer.mk 255 0) 2 = Answer.mk 2 0) ∧
    s.KeepsRegs t [.MEM_FRZ] ∧ s.KeepsBytes t)

/-- R434, R435, R437, R459: the line port below HLP. Which answers go out, byte for byte, is the model's reading of the standards
that Table 13.3 names. Where the rules leave a corner open, the clauses rest on the model's readings in
notes/assumptions/52.md, notes/assumptions/53.md and notes/assumptions/121.md. -/
def Obligations.TheLinePortFindsItsLink : Prop :=
  (∀ (s : State), s.awake = true → s.flg F.BOOT_STAT_REC = false → s.fld F.LINE_PHY_MODE = 0 → s.fld F.LINE_PHY_ST = 0 →
    Completes (.linePhySearchTimeout) s fun t => (t.dev.line.search = if s.dev.line.search = 1 then 2 else 1) ∧ t.regs =
    s.regs ∧ s.KeepsBytes t) ∧
  (∀ (s : State), s.awake = true → s.flg F.BOOT_STAT_REC = false → (s.fld F.LINE_PHY_MODE ≠ 0 ∨ s.fld F.LINE_PHY_ST ≠ 0) →
    Completes (.linePhySearchTimeout) s fun t => t = s) ∧
  (∀ (s : State), s.awake = true → s.flg F.BOOT_STAT_REC = false → s.fld F.LINE_PHY_MODE = 0 → s.fld F.LINE_PHY_ST = 0 →
    s.dev.line.search < 4 → Completes (.lineLinkUp) s fun t => t.fld F.LINE_PHY_ST = s.dev.line.search ∧ s.Raised t 193 = true
    ∧ (s.dev.line.search = 2 → s.Raised t 195 = true) ∧ s.KeepsRegs t [.LINE_PHY, .IRQ_CNT, .IRQ_PEND] ∧ s.KeepsBytes t) ∧
  (∀ (s : State), s.awake = true → s.flg F.BOOT_STAT_REC = false → s.fld F.LINE_PHY_MODE ≠ 0 → s.fld F.LINE_PHY_ST = 0 →
    Completes (.lineLinkUp) s fun t => t.fld F.LINE_PHY_ST = s.fld F.LINE_PHY_MODE ∧ s.Raised t 193 = true ∧ (s.fld
    F.LINE_PHY_MODE = 2 → s.Raised t 195 = true) ∧ s.KeepsRegs t [.LINE_PHY, .IRQ_CNT, .IRQ_PEND] ∧ s.KeepsBytes t) ∧
  (∀ (s : State), s.awake = true → s.flg F.BOOT_STAT_REC = false → s.fld F.LINE_PHY_ST ≠ 0 → Completes (.lineLinkDown) s fun
    t => t.fld F.LINE_PHY_ST = 0 ∧ t.dev.line.search = 1 ∧ s.Raised t 194 = true ∧ t.dev.line.sessions = s.dev.line.sessions ∧
    s.KeepsRegs t [.LINE_PHY, .IRQ_CNT, .IRQ_PEND] ∧ s.KeepsBytes t) ∧
  (∀ (s : State), s.awake = true → s.flg F.BOOT_STAT_REC = false → Completes (.lineFrameDropped) s fun t => t.fld
    F.LINE_CNT_BADHDR = satInc 8 (s.fld F.LINE_CNT_BADHDR) ∧ s.KeepsRegs t [.LINE_CNT] ∧ s.KeepsBytes t) ∧
  (∀ (s : State) (mac : BitVec 48) (ip target : BitVec 32), s.awake = true → s.flg F.BOOT_STAT_REC = false → s.ip4 =
    target.toNat → target.toNat ≠ 0 → Completes (.arpRequest mac ip target) s fun t => t.dev.out = s.dev.out ++
    ((s.dev.line.unresolved.filter fun (e : Bool × Nat × List Byte) => e.1 = false && e.2.1 = ip.toNat).map fun (e : Bool ×
    Nat × List Byte) => Msg.mk 0 (etherBytes mac.toNat s.mac (etherType false) e.2.2)) ++ [Msg.mk 0 (etherBytes mac.toNat
    s.mac 0x0806 (natBE 2 1 ++ natBE 2 0x0800 ++ natBE 1 6 ++ natBE 1 4 ++ natBE 2 2 ++ natBE 6 s.mac ++ natBE 4 s.ip4 ++
    natBE 6 mac.toNat ++ natBE 4 ip.toNat))] ∧ t.dev.line.neighbours.head? = some (false, ip.toNat, mac.toNat) ∧ t.regs =
    s.regs ∧ s.KeepsBytes t) ∧
  (∀ (s : State) (mac : BitVec 48) (ip target : BitVec 32), s.ip4 ≠ target.toNat → Completes (.arpRequest mac ip target) s
    fun t => t = s) ∧
  (∀ (s : State) (mac : BitVec 48) (ip : BitVec 32), s.awake = true → s.flg F.BOOT_STAT_REC = false → Completes (.arpReply
    mac ip) s fun t => t.dev.line.neighbours.head? = some (false, ip.toNat, mac.toNat) ∧ t.dev.out = s.dev.out ++
    ((s.dev.line.unresolved.filter fun (e : Bool × Nat × List Byte) => e.1 = false && e.2.1 = ip.toNat).map fun (e : Bool ×
    Nat × List Byte) => Msg.mk 0 (etherBytes mac.toNat s.mac (etherType false) e.2.2)) ∧ t.regs = s.regs ∧ s.KeepsBytes t) ∧
  (∀ (s : State) (addr : BitVec 128) (mac : BitVec 48), s.awake = true → s.flg F.BOOT_STAT_REC = false → Completes
    (.neighbourAdvertisement addr mac) s fun t => t.dev.line.neighbours.head? = some (true, addr.toNat, mac.toNat) ∧ t.dev.out
    = s.dev.out ++ ((s.dev.line.unresolved.filter fun (e : Bool × Nat × List Byte) => e.1 = true && e.2.1 = addr.toNat).map
    fun (e : Bool × Nat × List Byte) => Msg.mk 0 (etherBytes mac.toNat s.mac (etherType true) e.2.2)) ∧ t.regs = s.regs ∧
    s.KeepsBytes t) ∧
  (∀ (s : State) (src : BitVec 128) (body : List Byte) (l : Nat), s.awake = true → s.flg F.BOOT_STAT_REC = false → s.ip6 ≠ 0
    → s.linkAddr true (s.nextHop true src.toNat) = some l → Completes (.echoRequest true src body) s fun t => t.dev.out =
    s.dev.out ++ [Msg.mk 0 (etherBytes l s.mac 0x86DD (ip6Bytes s.ip6 src.toNat 58 64 (withSum 2 (pseudo true s.ip6 src.toNat
    58 (4 + body.length)) (natBE 1 129 ++ natBE 3 0 ++ body))))] ∧ t.regs = s.regs ∧ s.KeepsBytes t) ∧
  (∀ (s : State) (src : BitVec 128) (body : List Byte) (h : Nat), s.awake = true → s.flg F.BOOT_STAT_REC = false → s.ip6 ≠ 0
    → s.nextHop true src.toNat = h → s.linkAddr true h = none → Completes (.echoRequest true src body) s fun t =>
    t.dev.line.unresolved = s.dev.line.unresolved ++ [(true, h, ip6Bytes s.ip6 src.toNat 58 64 (withSum 2 (pseudo true s.ip6
    src.toNat 58 (4 + body.length)) (natBE 1 129 ++ natBE 3 0 ++ body)))] ∧ t.dev.out = s.dev.out ++ (if
    (s.dev.line.unresolved.any fun (e : Bool × Nat × List Byte) => e.1 = true && e.2.1 = h) = true then [] else [Msg.mk 0
    (etherBytes (0x333300000000 + solicitedNode h % 2 ^ 32) s.mac 0x86DD (solicitBytes s.ip6 s.mac h))]) ∧ t.regs = s.regs ∧
    s.KeepsBytes t) ∧
  (∀ (s : State) (src : BitVec 128) (body : List Byte) (l : Nat), s.awake = true → s.flg F.BOOT_STAT_REC = false → s.ip4 ≠ 0
    → s.linkAddr false (s.nextHop false src.toNat) = some l → Completes (.echoRequest false src body) s fun t => (∃ id <
    65536, t.dev.out = s.dev.out ++ [Msg.mk 0 (etherBytes l s.mac 0x0800 (ip4Bytes s.ip4 src.toNat 1 id (withSum 2 [] (natBE 4
    0 ++ body))))]) ∧ t.regs = s.regs ∧ s.KeepsBytes t) ∧
  (∀ (s : State) (src target : BitVec 128) (mac : BitVec 48), s.awake = true → s.flg F.BOOT_STAT_REC = false → s.ip6 =
    target.toNat → target.toNat ≠ 0 → src.toNat ≠ 0 → s.nextHop true src.toNat = src.toNat → src.toNat / 2 ^ 120 ≠ 0xFF →
    Completes (.neighbourSolicitation src target (some mac)) s fun t => t.dev.out = s.dev.out ++
    ((s.dev.line.unresolved.filter fun (e : Bool × Nat × List Byte) => e.1 = true && e.2.1 = src.toNat).map fun (e : Bool ×
    Nat × List Byte) => Msg.mk 0 (etherBytes mac.toNat s.mac (etherType true) e.2.2)) ++ [Msg.mk 0 (etherBytes mac.toNat s.mac
    0x86DD (ip6Bytes s.ip6 src.toNat 58 255 (withSum 2 (pseudo true s.ip6 src.toNat 58 (natBE 1 136 ++ natBE 3 0 ++ natBE 4
    0x60000000 ++ natBE 16 target.toNat ++ natBE 1 2 ++ natBE 1 1 ++ natBE 6 s.mac).length) (natBE 1 136 ++ natBE 3 0 ++ natBE
    4 0x60000000 ++ natBE 16 target.toNat ++ natBE 1 2 ++ natBE 1 1 ++ natBE 6 s.mac))))] ∧ t.dev.line.neighbours.head? = some
    (true, src.toNat, mac.toNat) ∧ t.regs = s.regs ∧ s.KeepsBytes t) ∧
  (∀ (s : State) (src target : BitVec 128) (l : Nat), s.awake = true → s.flg F.BOOT_STAT_REC = false → s.ip6 = target.toNat
    → target.toNat ≠ 0 → src.toNat ≠ 0 → s.linkAddr true (s.nextHop true src.toNat) = some l → Completes
    (.neighbourSolicitation src target none) s fun t => t.dev.out = s.dev.out ++ [Msg.mk 0 (etherBytes l s.mac 0x86DD
    (ip6Bytes s.ip6 src.toNat 58 255 (withSum 2 (pseudo true s.ip6 src.toNat 58 (natBE 1 136 ++ natBE 3 0 ++ natBE 4
    0x60000000 ++ natBE 16 target.toNat ++ natBE 1 2 ++ natBE 1 1 ++ natBE 6 s.mac).length) (natBE 1 136 ++ natBE 3 0 ++ natBE
    4 0x60000000 ++ natBE 16 target.toNat ++ natBE 1 2 ++ natBE 1 1 ++ natBE 6 s.mac))))] ∧ t.dev.line = s.dev.line ∧ t.regs =
    s.regs ∧ s.KeepsBytes t) ∧
  (∀ (s : State) (target : BitVec 128) (mac : Option (BitVec 48)), s.awake = true → s.flg F.BOOT_STAT_REC = false → s.ip6 =
    target.toNat → target.toNat ≠ 0 → Completes (.neighbourSolicitation 0 target mac) s fun t => t.dev.out = s.dev.out ++
    [Msg.mk 0 (etherBytes 0x333300000001 s.mac 0x86DD (ip6Bytes s.ip6 0xFF020000000000000000000000000001 58 255 (withSum 2
    (pseudo true s.ip6 0xFF020000000000000000000000000001 58 (natBE 1 136 ++ natBE 3 0 ++ natBE 4 0x20000000 ++ natBE 16
    target.toNat ++ natBE 1 2 ++ natBE 1 1 ++ natBE 6 s.mac).length) (natBE 1 136 ++ natBE 3 0 ++ natBE 4 0x20000000 ++ natBE
    16 target.toNat ++ natBE 1 2 ++ natBE 1 1 ++ natBE 6 s.mac))))] ∧ t.dev.line = s.dev.line ∧ t.regs = s.regs ∧ s.KeepsBytes
    t) ∧
  (∀ (s : State) (svc : Bool) (b : List Byte), s.hlpOn svc = true → s.badMessage b = true → Completes (.hlpDroppedMessage
    ⟨svc, b⟩) s fun t => t.fld F.LINE_CNT_BADHDR = satInc 8 (s.fld F.LINE_CNT_BADHDR) ∧ s.Raised t 202 = true ∧ t.dev.out =
    s.dev.out ∧ s.KeepsRegs t [.LINE_CNT, .IRQ_CNT, .IRQ_PEND] ∧ s.KeepsBytes t) ∧
  (∀ (s : State), s.awake = true → Completes (.slipFrameDropped) s fun t => t.fld F.SVC_STAT_SLIPERR = 1 ∧ s.KeepsRegs t
    [.SVC_STAT] ∧ s.KeepsBytes t)

/-- R438, R439, R446, R447, R452: requests of an open session. Where the rules leave a corner open, the clauses rest on the
model's readings in notes/assumptions/49.md and notes/assumptions/50.md. -/
def Obligations.RequestsOfASupervisorAreExecuted : Prop :=
  (∀ (s : State) (svc : Bool) (src : Source) (m : HlpMsg) (x : Session), s.takesRequest svc src m x = true → m.payload = []
    → Completes (.hlpClose svc src m) s fun t => s.sentOn t svc x.src = true ∧ t.session (hlpIndex svc m) = none ∧ s.KeepsRegs
    t [.SVC_STAT, .IRQ_CNT, .IRQ_PEND] ∧ s.KeepsBytes t) ∧
  (∀ (s : State) (svc : Bool) (src : Source) (m : HlpMsg) (x : Session), s.takesRequest svc src m x = true →
    m.payload.length ≠ 12 → Completes (.hlpRead svc src m) s fun t => s.repliedTo t svc m 3 4 [] = true ∧ t.regs = s.regs ∧
    s.KeepsBytes t) ∧
  (∀ (s : State) (svc : Bool) (src : Source) (m : HlpMsg) (x : Session) (a n : Nat), s.takesRequest svc src m x = true →
    m.payload.length = 12 → padBase ≤ a → a + 4 * n ≤ padBase + 0x1000000 → a % 4 = 0 → a = m.num 0 8 → n = m.num 8 2 → m.num
    10 2 = 0 → n ≤ 356 → (s.dev.bus.ecc.filter fun (e : Nat × EccErr) => decide (e.1 < a + 4 * n) && decide (a < e.1 + 8)) =
    [] → (∀ j < n, s.admitsRead (hlpPort svc) (a + 4 * j) = true) → Completes (.hlpRead svc src m) s fun t => s.repliedTo t
    svc m 3 0 (s.bytes a (4 * n)) = true ∧ t.regs = s.regs ∧ s.KeepsBytes t) ∧
  (∀ (s : State) (svc : Bool) (src : Source) (m : HlpMsg) (x : Session) (a n : Nat), s.takesRequest svc src m x = true →
    m.payload.length = 12 → padBase ≤ a → a + 4 * n ≤ padBase + 0x1000000 → a % 4 = 0 → a = m.num 0 8 → n = m.num 8 2 → m.num
    10 2 = 0 → n ≤ 356 → 1 ≤ n → s.admitsRead (hlpPort svc) a = true → s.badWord a 4 = true → Completes (.hlpRead svc src m) s
    fun t => s.repliedTo t svc m 3 7 [] = true ∧ s.KeepsRegs t [.MEM_ECCA_HI, .MEM_ECCA_LO, .MEM_ECCCNT, .PWR_LOST, .IRQ_CNT,
    .IRQ_PEND] ∧ s.KeepsBytes t) ∧
  (∀ (s : State) (svc : Bool) (src : Source) (m : HlpMsg) (x : Session) (a n : Nat), s.takesRequest svc src m x = true →
    m.payload.length = 12 + 4 * n → padBase ≤ a → a + 4 * n ≤ padBase + 0x1000000 → a % 4 = 0 → a = m.num 0 8 → n = m.num 8 2
    → m.num 10 2 = 0 → n ≤ 353 → Memory.wf s.losses s.mem = true → (s.dev.bus.ecc.filter fun (e : Nat × EccErr) => decide (e.1
    < a + 4 * n) && decide (a < e.1 + 8)) = [] → (∀ j < n, s.admitsAt (hlpPort svc) (a + 4 * j) ((wordsOf (m.payload.drop
    12)).getD j 0) = true) → Completes (.hlpWrite svc src m none) s fun t => s.repliedTo t svc m 4 0 (natLE 2 n) = true ∧
    t.bytes a (4 * n) = m.payload.drop 12 ∧ t.regs = s.regs ∧ s.KeepsBytesBut t a (4 * n)) ∧
  (∀ (s : State) (svc : Bool) (src : Source) (m : HlpMsg) (x : Session) (a n : Nat) (rs : List (Fin 8)) (w l : Nat) (ls :
    List Nat), s.takesRequest svc src m x = true → m.payload.length = 12 + 4 * n → padBase ≤ a → a + 4 * n ≤ padBase +
    0x1000000 → a % 4 = 0 → a = m.num 0 8 → n = m.num 8 2 → m.num 10 2 = 0 → n ≤ 353 → 1 ≤ n → s.writers (portMaster (hlpPort
    svc)) rs = w :: l :: ls → w ≠ portMaster (hlpPort svc) → Completes (.hlpWrite svc src m (some (0, rs))) s fun t =>
    s.repliedTo t svc m 4 1 (natLE 2 0) = true ∧ t.fld F.MEM_COLL_COUNT = satInc 16 (s.fld F.MEM_COLL_COUNT) ∧ t.fld
    F.MEM_COLL_WINNER = w ∧ t.fld F.MEM_COLL_LOSER = l ∧ s.Raised t 243 = true ∧ s.KeepsRegs t [.MEM_COLL, .MEM_COLLA,
    .IRQ_CNT, .IRQ_PEND] ∧ s.KeepsBytes t) ∧
  (∀ (s : State) (svc : Bool) (src : Source) (m : HlpMsg) (x : Session) (k : Fin 68) (n : Fin 64), s.takesRequest svc src m
    x = true → m.payload.length = 8 → m.num 0 1 = n.val → m.num 2 2 = 0 → s.core n = k.val → s.channelOf k = some n.val →
    s.leader n = n.val → s.admitsAt (hlpPort svc) (chWindow n + 4) (BitVec.ofNat 32 (m.num 4 4)) = true → s.admitsAt (hlpPort
    svc) (chWindow n) (BitVec.ofNat 32 (m.num 1 1)) = true → m.num 1 1 = 5 → m.num 4 4 ≤ 3 → Completes (.hlpCmd svc src m) s
    fun t => s.repliedTo t svc m 5 0 [0] = true ∧ (t.cst (s.leadCore n)).seq.offers = (s.cst (s.leadCore n)).seq.offers ++
    [(12 + m.num 4 4, s.onTo (s.boundary s.now))] ∧ t.fld (F.CTL_ARG_ARG k) = m.num 4 4 ∧ t.now = s.onTo (s.boundary s.now) ∧
    s.KeepsRegsAt t k [.CTL_ARG, .CTL_STAT] [] ∧ s.KeepsBytes t) ∧
  (∀ (s : State) (svc : Bool) (src : Source) (m : HlpMsg) (x : Session) (k : Fin 68) (n : Fin 64), s.takesRequest svc src m
    x = true → m.payload.length = 8 → m.num 0 1 = n.val → m.num 2 2 = 0 → s.core n = k.val → s.channelOf k = some n.val →
    s.leader n = n.val → s.admitsAt (hlpPort svc) (chWindow n + 4) (BitVec.ofNat 32 (m.num 4 4)) = true → s.admitsAt (hlpPort
    svc) (chWindow n) (BitVec.ofNat 32 (m.num 1 1)) = true → 6 ≤ m.num 1 1 → m.num 1 1 < 16 → m.num 4 4 < 2 ^ 21 → Completes
    (.hlpCmd svc src m) s fun t => s.repliedTo t svc m 5 10 [1] = true ∧ t.fld (F.CTL_STAT_RCODE k) = 1 ∧ s.KeepsRegsAt t k
    [.CTL_ARG, .CTL_STAT] [] ∧ s.KeepsBytes t) ∧
  (∀ (s : State) (svc : Bool) (src : Source) (m : HlpMsg) (x : Session) (q : Nat), s.takesRequest svc src m x = true →
    m.payload = [] → s.admitsRead (hlpPort svc) (R.IRQ_T_CLAIM (hlpTarget svc)).addr = true → s.latched (portMaster (hlpPort
    svc)) (R.IRQ_T_CLAIM (hlpTarget svc)) = none → s.presented (hlpTarget svc) = q → q ≠ 0 → s.eligible (hlpTarget svc) q =
    true → Completes (.hlpClaim svc src m) s fun t => s.repliedTo t svc m 6 0 (natLE 4 (fieldPut (BitVec.ofNat 32 q) 16 8
    (s.fld (cntField q))).toNat) = true ∧ t.fld (activeField q) = 1 ∧ t.fld (F.IRQ_SRC_OWNER q) = (hlpTarget svc) ∧ t.fld
    (pendField q) = 0 ∧ s.KeepsRegs t [.IRQ_ACTIVE, .IRQ_SRC, .IRQ_PEND, .IRQ_CNT, .IRQ_T_RUN] ∧ s.KeepsBytes t) ∧
  (∀ (s : State) (svc : Bool) (src : Source) (m : HlpMsg) (x : Session) (q : Nat), s.takesRequest svc src m x = true →
    m.payload.length = 2 → q = m.num 0 2 → q ≠ 0 → q ≤ 255 → s.owns (hlpTarget svc) q = true → s.admits (hlpPort svc)
    (R.IRQ_T_COMPLETE (hlpTarget svc)) (BitVec.ofNat 32 q) = true → Completes (.hlpComplete svc src m) s fun t => s.repliedTo
    t svc m 7 0 [] = true ∧ t.fld (activeField q) = 0 ∧ t.fld (F.IRQ_SRC_OWNER q) = 0 ∧ s.KeepsRegs t [.IRQ_ACTIVE, .IRQ_SRC,
    .IRQ_PEND] ∧ s.KeepsBytes t) ∧
  (∀ (s : State) (svc : Bool) (src : Source) (m : HlpMsg) (x : Session), s.takesRequest svc src m x = true → m.payload = [0]
    → Completes (.hlpReset svc src m) s fun t => s.repliedTo t svc m 8 0 [] = true ∧ t.dev.rst.portDue = true ∧ t.regs =
    s.regs ∧ s.KeepsBytes t) ∧
  (∀ (s : State) (svc : Bool) (src : Source) (m : HlpMsg) (x : Session) (typ : Byte), s.takesRequest svc src m x = true →
    (typ.toNat = 0 ∨ 8 < typ.toNat) → Completes (.hlpReservedType svc src typ m) s fun t => s.repliedTo t svc m typ.toNat 4 []
    = true ∧ t.regs = s.regs ∧ s.KeepsBytes t)

/-- R439 to R444: sessions. Held requests that a frozen master has answered already are the ones of the last clause. Where the
rules leave a corner open, the clauses rest on the model's readings in notes/assumptions/49.md and notes/assumptions/50.md. -/
def Obligations.SessionsKeepTheOrderOfRequests : Prop :=
  (∀ (s : State) (src : Source) (m : HlpMsg) (i : Nat), s.hlpOn false = true → s.frozen (portMaster (hlpPort false)) = false
    → m.payload.length = 12 → 1 ≤ m.num 4 1 → m.num 4 1 ≤ 8 → m.num 5 1 < 4 → m.num 6 2 = 0 → (m.num 8 4 = 0 ∨ 2 * m.num 4 1 *
    m.num 0 4 ≤ m.num 8 4) → (s.dev.line.sessions.all fun e => !(decide (e.1 < 8) && decide (e.2.src.v6 = src.v6) && decide
    (e.2.src.addr = src.addr))) = true → s.freeSession = some i → Completes (.hlpOpen false src m) s fun t => t.session i =
    some
    { src := src, next := (m.seq.toNat + 1) % 2 ^ 32, rto := m.num 0 4, tries := m.num 4 1, note := (m.num 5 1).testBit 0, rec_ := (m.num 5 1).testBit 1, cto := m.num 8 4 : Session }
    ∧ s.sentOn t false src = true ∧ s.Raised t 196 = true ∧ s.KeepsRegs t [.IRQ_CNT, .IRQ_PEND] ∧ s.KeepsBytes t) ∧
  (∀ (s : State) (src : Source) (m : HlpMsg), s.hlpOn true = true → s.frozen (portMaster (hlpPort true)) = false →
    m.payload.length = 12 → 1 ≤ m.num 4 1 → m.num 4 1 ≤ 8 → m.num 5 1 < 4 → m.num 6 2 = 0 → (m.num 8 4 = 0 ∨ 2 * m.num 4 1 *
    m.num 0 4 ≤ m.num 8 4) → Completes (.hlpOpen true src m) s fun t => t.session 8 = some
    { src := src, next := (m.seq.toNat + 1) % 2 ^ 32, rto := m.num 0 4, tries := m.num 4 1, note := (m.num 5 1).testBit 0, rec_ := (m.num 5 1).testBit 1, cto := m.num 8 4 : Session }
    ∧ s.sentOn t true src = true ∧ t.fld F.SVC_STAT_SESS = 1 ∧ (s.session 8 = none → s.Raised t 207 = true) ∧ s.KeepsRegs t
    [.SVC_STAT, .IRQ_CNT, .IRQ_PEND] ∧ s.KeepsBytes t) ∧
  (∀ (s : State) (svc : Bool) (src : Source) (m : HlpMsg), s.hlpOn svc = true → s.frozen (portMaster (hlpPort svc)) = false
    → (m.payload.length ≠ 12 ∨ m.num 4 1 = 0 ∨ 8 < m.num 4 1 ∨ (m.num 8 4 ≠ 0 ∧ m.num 8 4 < 2 * m.num 4 1 * m.num 0 4)) →
    Completes (.hlpOpen svc src m) s fun t => t.dev.line.sessions = s.dev.line.sessions ∧ s.sentOn t svc src = true ∧ t.regs =
    s.regs ∧ s.KeepsBytes t) ∧
  (∀ (s : State) (svc : Bool) (src : Source) (m : HlpMsg) (x : Session), s.hlpOn svc = true → s.session (hlpIndex svc m) =
    some x → (svc = true ∨ (m.sess.toNat < 8 ∧ x.src.v6 = src.v6 ∧ x.src.addr = src.addr)) → s.frozen (portMaster (hlpPort
    svc)) = false → x.next < 2 ^ 32 → (x.cache.all fun c => decide (c.seq ≠ m.seq.toNat)) = true → x.expired.contains
    m.seq.toNat = false → 0 < (m.seq.toNat + 2 ^ 32 - x.next) % 2 ^ 32 → (m.seq.toNat + 2 ^ 32 - x.next) % 2 ^ 32 < 64 →
    (x.held.any fun h => decide (h.seq = m.seq.toNat)) = false → Completes (.hlpRead svc src m) s fun t => t.session (hlpIndex
    svc m) = some { x with held := x.held ++ [Held.mk m.seq.toNat 3 m.payload false] } ∧ t.dev.out = s.dev.out ∧ t.regs =
    s.regs ∧ s.KeepsBytes t) ∧
  (∀ (s : State) (svc : Bool) (src : Source) (m : HlpMsg) (x : Session), s.hlpOn svc = true → s.session (hlpIndex svc m) =
    some x → (svc = true ∨ (m.sess.toNat < 8 ∧ x.src.v6 = src.v6 ∧ x.src.addr = src.addr)) → s.frozen (portMaster (hlpPort
    svc)) = false → x.next < 2 ^ 32 → (x.cache.all fun c => decide (c.seq ≠ m.seq.toNat)) = true → x.expired.contains
    m.seq.toNat = false → 64 ≤ (m.seq.toNat + 2 ^ 32 - x.next) % 2 ^ 32 → (m.seq.toNat + 2 ^ 32 - x.next) % 2 ^ 32 < 2 ^ 31 →
    Completes (.hlpRead svc src m) s fun t => t.dev.line.sessions = s.dev.line.sessions ∧ t.fld F.LINE_CNT_BUSY = satInc 8
    (s.fld F.LINE_CNT_BUSY) ∧ s.Raised t 201 = true ∧ s.sentOn t svc x.src = true ∧ s.KeepsRegs t [.LINE_CNT, .IRQ_CNT,
    .IRQ_PEND] ∧ s.KeepsBytes t) ∧
  (∀ (s : State) (svc : Bool) (src : Source) (m : HlpMsg) (x : Session) (c : Cached), s.hlpOn svc = true → s.session
    (hlpIndex svc m) = some x → (svc = true ∨ (m.sess.toNat < 8 ∧ x.src.v6 = src.v6 ∧ x.src.addr = src.addr)) → s.frozen
    (portMaster (hlpPort svc)) = false → x.next < 2 ^ 32 → (x.cache.find? fun c => decide (c.seq = m.seq.toNat)) = some c →
    Completes (.hlpWrite svc src m none) s fun t => t.dev.line.sessions = s.dev.line.sessions ∧ s.sentOn t svc x.src = true ∧
    t.regs = s.regs ∧ s.KeepsBytes t) ∧
  (∀ (s : State) (src : Source) (m : HlpMsg), s.hlpOn true = true → s.session (hlpIndex true m) = none → s.frozen 3 = false
    → Completes (.hlpRead true src m) s fun t => (∃ k, 1 ≤ k ∧ k ≤ 8 ∧ t.dev.out = s.dev.out ++ [Msg.mk 1 (slip (hlpBytes 3
    (s.fld F.SYS_DEVID_DEV) m.sess.toNat m.seq.toNat k 1 5 []))]) ∧ t.dev.line = s.dev.line ∧ t.regs = s.regs ∧ s.KeepsBytes
    t) ∧
  (∀ (s : State) (svc : Bool) (i : Fin 8) (k : Nat) (x : Session) (h : Held), s.hlpOn svc = true → k = (if svc then 8 else
    i.val) → s.session k = some x → x.cto ≠ 0 → x.next < 2 ^ 32 → x.held = [h] → h.answered = true → h.seq = (x.next + 1) % 2
    ^ 32 → Completes (.hlpSeqExpire svc i) s fun t => t.session k = some
    { x with expired := x.next :: x.expired, next := (x.next + 2) % 2 ^ 32, held := [] } ∧ t.fld F.LINE_CNT_EXPIRED = satInc 8
    (s.fld F.LINE_CNT_EXPIRED) ∧ s.Raised t 200 = true ∧ s.KeepsRegs t [.LINE_CNT, .IRQ_CNT, .IRQ_PEND] ∧ s.KeepsBytes t)

/-- R448 to R451: requests of the device. Where the rules leave a corner open, the clauses rest on the model's readings in
notes/assumptions/51.md. -/
def Obligations.TheDeviceMakesRequests : Prop :=
  (∀ (s : State) (svc : Bool) (i : Nat) (x : Session), s.hlpOn svc = true → s.lowest svc (fun y => y.note) = some (i, x) →
    s.presented (hlpTarget svc) ≠ 0 → (s.dev.irq.noticed.contains (hlpTarget svc)) = false → (s.dev.line.sessions.any fun e =>
    decide ((decide (e.1 = 8)) = svc) && e.2.out.any fun q => decide (q.typ = 0x10)) = false → x.out.length < 64 → Completes
    (.notice svc) s fun t => t.session i = some
    { x with seq := (x.seq + 1) % 2 ^ 32, out := x.out ++ [{ seq := x.seq, typ := 0x10, payload := natLE 2 (s.presented (hlpTarget svc)) ++ natLE 2 0 : DevReq }] }
    ∧ s.sentOn t svc x.src = true ∧ t.regs = s.regs ∧ s.KeepsBytes t) ∧
  (∀ (s : State) (svc : Bool), s.hlpOn svc = true → (s.presented (hlpTarget svc) = 0 ∨ s.lowest svc (fun y => y.note) =
    none) → Completes (.notice svc) s fun t => t = s) ∧
  (∀ (s : State) (r : Fin 4096) (i n : Nat) (x : Session), s.hlpOn true = true → s.recSession = some (i, x) → x.out.length <
    64 → s.recRing r = true → (s.ring r).stopping = false → (s.ring r).esz ≠ 4 → (s.ring r).again = [] → (s.dev.line.recs.any
    fun c => decide (c.ring = r.val) && decide (c.st = 2)) = false → n = min (recEntries (s.ring r).esz) (idxSub (s.ring r).pi
    (s.ring r).taken) → n ≠ 0 → Completes (.rec_ r) s fun t => t.session i = some
    { x with seq := (x.seq + 1) % 2 ^ 32, out := x.out ++ [{ seq := x.seq, typ := 0x11, payload := s.recPayload r (s.ring r).taken n 0, ring := r, first := (s.ring r).taken, part := 0 : DevReq }] }
    ∧ (t.ring r).taken = ((s.ring r).taken + n) % 2 ^ 20 ∧ s.sentOn t (decide (i = 8)) x.src = true ∧ s.KeepsRegs t
    [.MEM_ECCA_HI, .MEM_ECCA_LO, .MEM_ECCCNT, .PWR_LOST, .IRQ_CNT, .IRQ_PEND] ∧ s.KeepsBytes t) ∧
  (∀ (s : State) (svc : Bool) (i : Fin 8) (k : Nat) (seq : BitVec 32) (x : Session) (q : DevReq) (status : BitVec 16),
    s.hlpOn svc = true → k = (if svc then 8 else i.val) → s.devReq k seq.toNat = some (x, q) → q.typ = 0x10 → Completes
    (.deviceRequestAck svc i seq status) s fun t => t.session k = some
    { x with out := x.out.filter fun (y : DevReq) => decide (y.seq ≠ seq.toNat) } ∧ t.dev.irq = s.dev.irq ∧ t.regs = s.regs ∧
    s.KeepsBytes t) ∧
  (∀ (s : State) (svc : Bool) (i : Fin 8) (k : Nat) (seq : BitVec 32) (x : Session) (q : DevReq) (status : BitVec 16),
    s.hlpOn svc = true → k = (if svc then 8 else i.val) → s.devReq k seq.toNat = some (x, q) → q.typ ≠ 0x10 → Completes
    (.deviceRequestAck svc i seq status) s fun t => t.session k = some
    { x with out := x.out.filter fun (y : DevReq) => decide (y.seq ≠ seq.toNat) } ∧ s.KeepsRegs t [.RING_STAT, .CAP_STATE,
    .CAP_STAT, .CAP_HDROP, .MEM_ECCA_HI, .MEM_ECCA_LO, .MEM_ECCCNT, .PWR_LOST, .IRQ_CNT, .IRQ_PEND] ∧ s.KeepsBytesBut t
    padBase 0x1001000) ∧
  (∀ (s : State) (svc : Bool) (i : Fin 8) (seq : BitVec 32) (status : BitVec 16), s.hlpOn svc = true → s.devReq (if svc then
    8 else i.val) seq.toNat = none → Completes (.deviceRequestAck svc i seq status) s fun t => t.fld F.LINE_CNT_LATE = satInc
    8 (s.fld F.LINE_CNT_LATE) ∧ s.Raised t 199 = true ∧ t.dev.line = s.dev.line ∧ s.KeepsRegs t [.LINE_CNT, .IRQ_CNT,
    .IRQ_PEND] ∧ s.KeepsBytes t) ∧
  (∀ (s : State) (svc : Bool) (i : Fin 8) (k : Nat) (seq : BitVec 32) (x : Session) (q : DevReq), s.hlpOn svc = true → k =
    (if svc then 8 else i.val) → s.devReq k seq.toNat = some (x, q) → q.tries < s.fld F.LINE_HLP_TRIES → Completes
    (.deviceRequestRetransmit svc i seq) s fun t => t.session k = some
    { x with out := x.out.map fun (y : DevReq) => if y.seq = seq.toNat then { y with tries := y.tries + 1 } else y } ∧ t.fld
    F.LINE_CNT_A_RETX = satInc 16 (s.fld F.LINE_CNT_A_RETX) ∧ s.sentOn t (decide (k = 8)) x.src = true ∧ s.KeepsRegs t
    [.LINE_CNT_A] ∧ s.KeepsBytes t) ∧
  (∀ (s : State) (svc : Bool) (i : Fin 8) (k : Nat) (seq : BitVec 32) (x : Session) (q : DevReq), s.hlpOn svc = true → k =
    (if svc then 8 else i.val) → s.devReq k seq.toNat = some (x, q) → s.fld F.LINE_HLP_TRIES ≤ q.tries → Completes
    (.deviceRequestRetransmit svc i seq) s fun t => t = s) ∧
  (∀ (s : State) (svc : Bool) (i : Fin 8) (k : Nat) (seq : BitVec 32) (x : Session) (q : DevReq), s.hlpOn svc = true → k =
    (if svc then 8 else i.val) → s.devReq k seq.toNat = some (x, q) → q.typ = 0x10 → s.fld F.LINE_UTMO_UTMO ≠ 0 → s.presented
    (hlpTarget svc) = 0 → Completes (.deviceRequestTimeout svc i seq) s fun t => t.session k = some
    { x with out := x.out.filter fun (y : DevReq) => decide (y.seq ≠ seq.toNat) } ∧ t.fld F.LINE_STAT_TMO = 1 ∧ s.Raised t 198
    = true ∧ s.KeepsRegs t [.LINE_STAT, .IRQ_CNT, .IRQ_PEND] ∧ s.KeepsBytes t) ∧
  (∀ (s : State) (svc : Bool) (i : Fin 8) (k : Nat) (seq : BitVec 32) (x : Session) (q : DevReq), s.hlpOn svc = true → k =
    (if svc then 8 else i.val) → s.devReq k seq.toNat = some (x, q) → s.fld F.LINE_UTMO_UTMO = 0 → Completes
    (.deviceRequestTimeout svc i seq) s fun t => t = s)

/-- R335, R454, R455, R458: the peer links. What counts as late, and where numbering starts, is the model's reading. Where the
rules leave a corner open, the clauses rest on the model's readings in notes/assumptions/43.md and notes/assumptions/54.md. -/
def Obligations.PeerLinksCarryFrames : Prop :=
  (∀ (s : State) (link : Fin 2) (up : Bool), s.awake = true → s.flg F.BOOT_STAT_REC = false → s.flg (if link.val = 0 then
    F.PEER_STAT_LINK_E else F.PEER_STAT_LINK_W) = !up → Completes (.peerSyncChange link up) s fun t => t.flg (if link.val = 0
    then F.PEER_STAT_LINK_E else F.PEER_STAT_LINK_W) = up ∧ s.Raised t (if link.val = 0 then 203 else 204) = true ∧
    s.KeepsRegs t [.PEER_STAT, .IRQ_CNT, .IRQ_PEND] ∧ s.KeepsBytes t) ∧
  (∀ (s : State) (link : Fin 2) (up : Bool), s.flg (if link.val = 0 then F.PEER_STAT_LINK_E else F.PEER_STAT_LINK_W) = up →
    Completes (.peerSyncChange link up) s fun t => t = s) ∧
  (∀ (s : State) (link : Fin 2) (reserved : Bool), s.awake = true → s.linkOn link = true → Completes (.peerFrameDiscard link
    reserved) s fun t => t.fld (if link.val = 0 then F.PEER_STAT_CRC_E else F.PEER_STAT_CRC_W) = 1 ∧ t.fld (if link.val = 0
    then F.PEER_CNT_CRC_E else F.PEER_CNT_CRC_W) = (if reserved then s.fld (if link.val = 0 then F.PEER_CNT_CRC_E else
    F.PEER_CNT_CRC_W) else satInc 8 (s.fld (if link.val = 0 then F.PEER_CNT_CRC_E else F.PEER_CNT_CRC_W))) ∧ s.KeepsRegs t
    [.PEER_CNT, .PEER_STAT] ∧ s.KeepsBytes t) ∧
  (∀ (s : State) (link : Fin 2) (w : Word), s.awake = true → s.linkOn link = true → s.flg (if link.val = 0 then
    F.SYS_SQL_CFG_RX_E else F.SYS_SQL_CFG_RX_W) = true → (s.dev.sql.seen.contains (w.toNat / 2 ^ 20 % 4096, w.toNat % 1024) ||
    s.dev.sql.recv.any fun r => decide (r.2 / 2 ^ 20 % 4096 = w.toNat / 2 ^ 20 % 4096) && decide (r.2 % 1024 = w.toNat %
    1024)) = false → Completes (.squallFrame link w) s fun t => t.dev.sql.recv = s.dev.sql.recv ++ [(link.val, w.toNat)] ∧
    t.regs = s.regs ∧ s.KeepsBytes t) ∧
  (∀ (s : State) (link : Fin 2) (w : Word), s.awake = true → s.linkOn link = true → s.flg (if link.val = 0 then
    F.SYS_SQL_CFG_RX_E else F.SYS_SQL_CFG_RX_W) = true → (s.dev.sql.seen.contains (w.toNat / 2 ^ 20 % 4096, w.toNat % 1024) ||
    s.dev.sql.recv.any fun r => decide (r.2 / 2 ^ 20 % 4096 = w.toNat / 2 ^ 20 % 4096) && decide (r.2 % 1024 = w.toNat %
    1024)) = true → Completes (.squallFrame link w) s fun t => t.dev.sql = s.dev.sql ∧ t.fld F.SYS_SQL_CNT_DUP = satInc 16
    (s.fld F.SYS_SQL_CNT_DUP) ∧ t.fld F.SYS_SQL_STAT_DUP = 1 ∧ s.KeepsRegs t [.SYS_SQL_CNT, .SYS_SQL_STAT] ∧ s.KeepsBytes t) ∧
  (∀ (s : State) (link : Fin 2) (seq : BitVec 16) (ofs : Word) (data : List Byte), s.awake = true → s.linkOn link = true →
    s.issues .peer = true → s.frozen 5 = false → (seq.toNat = 0 ∨ seq.toNat = s.dev.peer.rxNext) → s.hoffOpen ofs.toNat
    data.length = true → s.judge .peer (retBase + ofs.toNat) data.length true 0 = .pass → s.dev.bus.ecc = [] → Memory.wf
    s.losses s.mem = true → Completes (.hoffData link seq ofs data) s fun t => t.bytes (retBase + ofs.toNat) data.length =
    data ∧ t.dev.peer.rxNext = (seq.toNat + 1) % 65536 ∧ t.dev.out = s.dev.out ++ [Msg.mk (2 + link.val) (natLE 1 0x11 ++
    natLE 1 0 ++ natLE 2 seq.toNat ++ natLE 1 0 ++ natLE 3 0 ++ natLE 2 (crc16 (natLE 1 0x11 ++ natLE 1 0 ++ natLE 2 seq.toNat
    ++ natLE 1 0 ++ natLE 3 0)).toNat)] ∧ t.regs = s.regs ∧ s.KeepsBytesBut t (retBase + ofs.toNat) data.length) ∧
  (∀ (s : State) (link : Fin 2) (seq : BitVec 16) (ofs : Word) (data : List Byte), s.awake = true → s.linkOn link = true →
    s.issues .peer = true → s.frozen 5 = false → seq.toNat ≠ 0 → seq.toNat ≠ s.dev.peer.rxNext → s.hoffOpen ofs.toNat
    data.length = true → Completes (.hoffData link seq ofs data) s fun t => t.dev.out = s.dev.out ++ [Msg.mk (2 + link.val)
    (natLE 1 0x11 ++ natLE 1 0 ++ natLE 2 ((s.dev.peer.rxNext + 65535) % 65536) ++ natLE 1 0 ++ natLE 3 0 ++ natLE 2 (crc16
    (natLE 1 0x11 ++ natLE 1 0 ++ natLE 2 ((s.dev.peer.rxNext + 65535) % 65536) ++ natLE 1 0 ++ natLE 3 0)).toNat)] ∧
    t.dev.peer = s.dev.peer ∧ t.regs = s.regs ∧ s.KeepsBytes t) ∧
  (∀ (s : State) (link : Fin 2) (seq : BitVec 16) (ofs : Word) (data : List Byte), s.awake = true → s.linkOn link = true →
    s.issues .peer = true → s.frozen 5 = false → s.hoffOpen ofs.toNat data.length = false → Completes (.hoffData link seq ofs
    data) s fun t => t.dev.out = s.dev.out ++ [Msg.mk (2 + link.val) (natLE 1 0x11 ++ natLE 1 0 ++ natLE 2 ((s.dev.peer.rxNext
    + 65535) % 65536) ++ natLE 1 2 ++ natLE 3 0 ++ natLE 2 (crc16 (natLE 1 0x11 ++ natLE 1 0 ++ natLE 2 ((s.dev.peer.rxNext +
    65535) % 65536) ++ natLE 1 2 ++ natLE 3 0)).toNat)] ∧ t.dev.peer = s.dev.peer ∧ t.regs = s.regs ∧ s.KeepsBytes t) ∧
  (∀ (s : State) (link : Fin 2) (seq : BitVec 16) (x : HoffTx), s.awake = true → s.linkOn link = true → s.dev.peer.tx = some
    x → x.link = link.val → x.acked ≤ seq.toNat → seq.toNat < x.sent → seq.toNat + 1 = x.frames → Completes (.hoffAck link seq
    0) s fun t => t.dev.peer.tx = none ∧ t.fld F.PEER_HSTAT_ST = 2 ∧ t.fld F.PEER_HSTAT_OUT = 0 ∧ s.Raised t 205 = true ∧
    s.KeepsRegs t [.PEER_HSTAT, .IRQ_CNT, .IRQ_PEND] ∧ s.KeepsBytes t) ∧
  (∀ (s : State) (link : Fin 2) (seq : BitVec 16) (x : HoffTx), s.awake = true → s.linkOn link = true → s.dev.peer.tx = some
    x → x.link = link.val → x.acked ≤ seq.toNat → seq.toNat < x.sent → seq.toNat + 1 ≠ x.frames → Completes (.hoffAck link seq
    0) s fun t => t.dev.peer.tx = some { x with acked := seq.toNat + 1, tries := 1, sent := min x.frames (seq.toNat + 17) } ∧
    t.dev.out.length = s.dev.out.length + (min x.frames (seq.toNat + 17) - x.sent) ∧ t.regs = s.regs ∧ s.KeepsBytes t) ∧
  (∀ (s : State) (link : Fin 2) (seq : BitVec 16) (code : Byte) (x : HoffTx), s.awake = true → s.linkOn link = true →
    s.dev.peer.tx = some x → x.link = link.val → (code.toNat = 1 ∨ code.toNat = 2) → Completes (.hoffAck link seq code) s fun
    t => t.dev.peer.tx = none ∧ t.fld F.PEER_HSTAT_ST = 2 ∧ t.fld F.PEER_HSTAT_OUT = code.toNat + 1 ∧ s.Raised t 205 = true ∧
    s.KeepsRegs t [.PEER_HSTAT, .IRQ_CNT, .IRQ_PEND] ∧ s.KeepsBytes t) ∧
  (∀ (s : State) (link : Fin 2) (seq : BitVec 16) (code : Byte), s.awake = true → s.linkOn link = true → s.dev.peer.tx =
    none → Completes (.hoffAck link seq code) s fun t => t.fld F.PEER_CNT_LATE = satInc 8 (s.fld F.PEER_CNT_LATE) ∧ t.dev =
    s.dev ∧ s.KeepsRegs t [.PEER_CNT] ∧ s.KeepsBytes t) ∧
  (∀ (s : State) (p : Port) (link : Fin 2) (ofs : BitVec 16), s.admits p R.PEER_HTX (fieldWord F.PEER_HTX_GO 1 ||| fieldWord
    F.PEER_HTX_LINK link ||| fieldWord F.PEER_HTX_OFS ofs.toNat) = true → s.dev.peer.tx = none → s.fld F.PEER_HLEN_LEN ≠ 0 →
    ofs.toNat % 8 = 0 → ofs.toNat + s.fld F.PEER_HLEN_LEN ≤ 0x10000 → Completes (.handoffSend p link ofs) s fun t => t.fld
    F.PEER_HSTAT_ST = 1 ∧ t.fld F.PEER_HSTAT_OUT = 0 ∧ t.dev.peer.tx = some
    { link := link.val, ofs := ofs.toNat, len := s.fld F.PEER_HLEN_LEN, sent := min (divUp (s.fld F.PEER_HLEN_LEN) 256) 16, acked := 0, tries := 1 : HoffTx }
    ∧ t.answeredOk p = true ∧ s.KeepsRegs t [.PEER_HTX, .PEER_HSTAT] ∧ s.KeepsBytes t) ∧
  (∀ (s : State) (p : Port) (link : Fin 2) (ofs : BitVec 16), s.admits p R.PEER_HTX (fieldWord F.PEER_HTX_GO 1 ||| fieldWord
    F.PEER_HTX_LINK link ||| fieldWord F.PEER_HTX_OFS ofs.toNat) = true → s.dev.peer.tx = none → s.fld F.PEER_HLEN_LEN ≠ 0 →
    ofs.toNat % 8 ≠ 0 → s.fld F.PEER_HTX_OFS + s.fld F.PEER_HLEN_LEN ≤ 0x10000 → Completes (.handoffSend p link ofs) s fun t
    => t.fld (F.BSTAT_BADVAL 7) = 1 ∧ t.fld F.PEER_HSTAT_ST = 1 ∧ t.fld F.PEER_HSTAT_OUT = 0 ∧ t.dev.peer.tx = some
    { link := link.val, ofs := s.fld F.PEER_HTX_OFS, len := s.fld F.PEER_HLEN_LEN, sent := min (divUp (s.fld F.PEER_HLEN_LEN) 256) 16, acked := 0, tries := 1 : HoffTx }
    ∧ t.answeredOk p = true ∧ s.KeepsRegs t [.PEER_HTX, .PEER_HSTAT, .BSTAT] ∧ s.KeepsBytes t) ∧
  (∀ (s : State) (p : Port) (link : Fin 2) (ofs : BitVec 16), s.admits p R.PEER_HTX (fieldWord F.PEER_HTX_GO 1 ||| fieldWord
    F.PEER_HTX_LINK link ||| fieldWord F.PEER_HTX_OFS ofs.toNat) = true → s.dev.peer.tx = none → s.fld F.PEER_HLEN_LEN = 0 →
    ofs.toNat % 8 = 0 → Completes (.handoffSend p link ofs) s fun t => t.fld F.PEER_HSTAT_ST = 2 ∧ t.fld F.PEER_HSTAT_OUT = 4
    ∧ t.dev.peer.tx = none ∧ s.KeepsRegs t [.PEER_HTX, .PEER_HSTAT, .IRQ_CNT, .IRQ_PEND] ∧ s.KeepsBytes t) ∧
  (∀ (s : State) (x : HoffTx), s.awake = true → s.dev.peer.tx = some x → x.tries < 8 → s.linkOn x.link = true → Completes
    (.handoffRetransmit) s fun t => t.dev.peer.tx = some { x with tries := x.tries + 1 } ∧ t.dev.out.length = s.dev.out.length
    + (x.sent - x.acked) ∧ t.regs = s.regs ∧ s.KeepsBytes t) ∧
  (∀ (s : State) (x : HoffTx), s.awake = true → s.dev.peer.tx = some x → s.fld F.PEER_HOFF_TMO ≠ 0 → Completes
    (.handoffTimeout) s fun t => t.dev.peer.tx = none ∧ t.fld F.PEER_HSTAT_ST = 2 ∧ t.fld F.PEER_HSTAT_OUT = 1 ∧ s.Raised t
    205 = true ∧ s.KeepsRegs t [.PEER_HSTAT, .IRQ_CNT, .IRQ_PEND] ∧ s.KeepsBytes t)

/-- R460 to R462: the JTAG port. Where the rules leave a corner open, the clauses rest on the model's readings in
notes/assumptions/55.md and notes/assumptions/128.md. -/
def Obligations.TheJtagPortMakesServiceAccesses : Prop :=
  (∀ (s : State) (code : Byte), s.awake = true → code.toNat ≠ 0 → code.toNat ≠ 3 → code.toNat ≠ 4 → Completes
    (.jtagInstructionLoad code) s fun t => t.dev.jtag.ir = (if code.toNat = 1 ∨ code.toNat = 2 ∨ code.toNat = 0x21 ∨
    code.toNat = 0x22 then code.toNat else 0xFF) ∧ t.regs = s.regs ∧ s.KeepsBytes t) ∧
  (∀ (s : State) (code : Byte), s.awake = true → s.anyActive = false → (code.toNat = 0 ∨ code.toNat = 3 ∨ code.toNat = 4) →
    Completes (.jtagInstructionLoad code) s fun t => t.dev.jtag.ir = code.toNat ∧ t.regs = s.regs ∧ s.KeepsBytes t) ∧
  (∀ (s : State) (c : Boundary), s.awake = true → s.anyActive = false → Completes (.jtagBoundaryInstruction c) s fun t =>
    t.dev.jtag.ir = boundaryCode c ∧ t.regs = s.regs ∧ s.KeepsBytes t) ∧
  (∀ (s : State) (c : Boundary), s.awake = true → s.anyActive = true → Completes (.jtagBoundaryInstruction c) s fun t =>
    t.dev.jtag.ir = 0xFF ∧ t.fld F.SVC_STAT_BSREF = 1 ∧ s.Raised t 208 = true ∧ s.KeepsRegs t [.SVC_STAT, .IRQ_CNT, .IRQ_PEND]
    ∧ s.KeepsBytes t) ∧
  (∀ (s : State), s.awake = true → Completes (.tapReset) s fun t => t.dev.jtag.ir = 1 ∧ t.regs = s.regs ∧ s.KeepsBytes t) ∧
  (∀ (s : State) (w : BitVec 44), s.awake = true → s.dev.jtag.ir = 0x21 → w.toNat % 4 = 0 → Completes (.svcaddr w) s fun t
    => t.dev.jtag.kind = w.toNat / 2 ^ 42 ∧ t.dev.jtag.inc = w.toNat.testBit 41 ∧ t.dev.jtag.addr = w.toNat % 2 ^ 40 ∧ t.regs
    = s.regs ∧ s.KeepsBytes t) ∧
  (∀ (s : State) (w : RivalWord) (a : Nat), s.awake = true → s.dev.jtag.ir = 0x22 → s.dev.jtag.busy = none → s.issues
    .service = true → s.frozen 3 = false → padBase ≤ a → a + 4 ≤ padBase + 0x1000000 → a % 4 = 0 → s.dev.jtag.addr = a →
    (s.dev.bus.ecc.filter fun (e : Nat × EccErr) => decide (e.1 < a + 4) && decide (a < e.1 + 8)) = [] → s.dev.jtag.kind = 1 →
    s.admitsRead .service a = true → Completes (.svcdata w) s fun t => t.dev.jtag.busy = some (0, s.word a) ∧ t.dev.jtag.addr
    = (if s.dev.jtag.inc then (a + 4) % 2 ^ 40 else a) ∧ t.regs = s.regs ∧ s.KeepsBytes t) ∧
  (∀ (s : State) (w : RivalWord) (a x y : Nat) (l : List Nat), s.awake = true → s.dev.jtag.ir = 0x22 → s.dev.jtag.busy =
    none → s.issues .service = true → s.frozen 3 = false → padBase ≤ a → a + 4 ≤ padBase + 0x1000000 → a % 4 = 0 →
    s.dev.jtag.addr = a → (s.dev.bus.ecc.filter fun (e : Nat × EccErr) => decide (e.1 < a + 4) && decide (a < e.1 + 8)) = [] →
    s.dev.jtag.kind = 2 → s.writers 3 w.rivals = x :: y :: l → x ≠ 3 → Completes (.svcdata w) s fun t => t.dev.jtag.busy =
    some (1, 0) ∧ t.fld F.MEM_COLL_WINNER = x ∧ t.fld F.MEM_COLL_LOSER = y ∧ t.dev.jtag.addr = (if s.dev.jtag.inc then (a + 4)
    % 2 ^ 40 else a) ∧ s.KeepsRegs t [.MEM_COLL, .MEM_COLLA, .IRQ_CNT, .IRQ_PEND] ∧ s.KeepsBytes t) ∧
  (∀ (s : State) (w : RivalWord) (a : Nat), s.awake = true → s.dev.jtag.ir = 0x22 → s.dev.jtag.busy = none → s.issues
    .service = true → s.frozen 3 = false → padBase ≤ a → a + 4 ≤ padBase + 0x1000000 → a % 4 = 0 → s.dev.jtag.addr = a →
    (s.dev.bus.ecc.filter fun (e : Nat × EccErr) => decide (e.1 < a + 4) && decide (a < e.1 + 8)) = [] → s.dev.jtag.kind = 2 →
    s.admitsAt .service a w.word = true → (s.writers 3 w.rivals).head? = some 3 → Memory.wf s.losses s.mem = true → Completes
    (.svcdata w) s fun t => t.dev.jtag.busy = some (0, 0) ∧ t.bytes a 4 = natLE 4 w.word.toNat ∧ t.dev.jtag.addr = (if
    s.dev.jtag.inc then (a + 4) % 2 ^ 40 else a) ∧ s.KeepsRegs t [.MEM_COLL, .MEM_COLLA, .IRQ_CNT, .IRQ_PEND] ∧
    s.KeepsBytesBut t a 4) ∧
  (∀ (s : State) (w : RivalWord), s.awake = true → s.dev.jtag.ir = 0x22 → s.dev.jtag.busy = none → s.issues .service = true
    → s.frozen 3 = true → (s.dev.jtag.kind = 1 ∨ s.dev.jtag.kind = 2) → Completes (.svcdata w) s fun t => t.dev.jtag.last =
    (2, 0) ∧ t.dev.jtag.addr = s.dev.jtag.addr ∧ t.regs = s.regs ∧ s.KeepsBytes t) ∧
  (∀ (s : State), s.awake = true → s.dev.jtag.ir = 0x22 → Completes (.svcdataCapture) s fun t => t.dev.jtag.captured = (if
    s.dev.jtag.busy.isSome then (3, 0) else s.dev.jtag.last) ∧ t.regs = s.regs ∧ s.KeepsBytes t) ∧
  (∀ (s : State) (r : Nat × Word), s.awake = true → s.dev.jtag.busy = some r → Completes (.svcAccessComplete) s fun t =>
    t.dev.jtag.last = r ∧ t.dev.jtag.busy = none ∧ t.regs = s.regs ∧ s.KeepsBytes t)

/-- R474, R480 to R482. That the checks are made before anything is applied, and that a start resets the registers named, is how
the model reads R475 and R482. Where the rules leave a corner open, the clauses rest on the model's readings in
notes/assumptions/58.md, notes/assumptions/59.md, notes/assumptions/113.md and notes/assumptions/122.md. -/
def Obligations.ADeviceBootsOrRecovers : Prop :=
  (∀ (s : State) (density : Nat) (erase4k : Bool) (o : Nat) (bytes : List Byte) (u : State), s.awake = true → s.dev.boot.due
    = true → s.dev.rst.run = none → s.dev.rst.testMode = false → Memory.wf s.losses s.mem = true → u = (flashSet o bytes).run
    { s with dev := { s.dev with boot := { s.dev.boot with flash := ⟨density, erase4k⟩ } } } → u.flashOk = false → Completes
    (.boot density erase4k o bytes) s fun t => t.fld F.BOOT_STAT_CODE_A = 1 ∧ t.fld F.BOOT_STAT_CODE_B = 1 ∧ t.fld
    F.BOOT_STAT_REC = 1 ∧ t.fld F.BOOT_STAT_DONE = 0 ∧ s.Raised t 213 = true ∧ t.fld F.LT_XREF_RATE = 7 ∧ t.dev.boot.due =
    false ∧ t.dev.boot.passed = false ∧ t.dev.pins.lineTxDisable = true ∧ t.dev.image = ({} : ImageSt) ∧ (s.locked = false →
    t.fld F.LT_STATE_LOCK_ST = 0) ∧ s.KeepsRegs t [.BOOT_STAT, .BOOT_APPERR, .BOOT_PATCH, .IRQ_CNT, .IRQ_PEND, .LT_STATE,
    .LT_EVT, .LT_LOCKDIAG, .XBAR_STATUS, .CAL_RMST, .FPKT_STAT, .LT_XREF, .SYS_DEVID, .SVC_UART, .MEM_WIN_BASE, .MEM_WIN_SIZE,
    .MEM_WIN_PERM] ∧ s.KeepsBytesBut t (flashBase + o) bytes.length) ∧
  (∀ (s : State) (density : Nat) (erase4k : Bool) (o : Nat) (bytes : List Byte) (u : State), s.awake = true → s.dev.boot.due
    = true → s.dev.rst.run = none → s.dev.rst.testMode = false → Memory.wf s.losses s.mem = true → u = (flashSet o bytes).run
    { s with dev := { s.dev with boot := { s.dev.boot with flash := ⟨density, erase4k⟩ } } } → u.flashOk = true → (u.bootState
    0 = 0xFF ∨ u.bootState 0 = 0) → (u.bootState 1 = 0xFF ∨ u.bootState 1 = 0) → Completes (.boot density erase4k o bytes) s
    fun t => t.fld F.BOOT_STAT_CODE_A = 15 ∧ t.fld F.BOOT_STAT_CODE_B = 15 ∧ t.fld F.BOOT_STAT_REC = 1 ∧ t.fld
    F.BOOT_STAT_DONE = 0 ∧ s.Raised t 213 = true ∧ t.fld F.LT_XREF_RATE = 7 ∧ t.dev.boot.due = false ∧ t.dev.boot.passed =
    false ∧ t.dev.pins.lineTxDisable = true ∧ t.dev.image = ({} : ImageSt) ∧ (s.locked = false → t.fld F.LT_STATE_LOCK_ST = 0)
    ∧ t.fld (F.BOOT_SLOT_ST_STATE 0) = u.bootState 0 ∧ t.fld (F.BOOT_SLOT_ST_STATE 1) = u.bootState 1 ∧ s.KeepsRegs t
    [.BOOT_STAT, .BOOT_APPERR, .BOOT_PATCH, .IRQ_CNT, .IRQ_PEND, .LT_STATE, .LT_EVT, .LT_LOCKDIAG, .XBAR_STATUS, .CAL_RMST,
    .FPKT_STAT, .LT_XREF, .SYS_DEVID, .SVC_UART, .MEM_WIN_BASE, .MEM_WIN_SIZE, .MEM_WIN_PERM, .BOOT_SLOT_PLT_HI,
    .BOOT_SLOT_PLT_LO, .BOOT_SLOT_ST] ∧ s.KeepsBytesBut t (flashBase + o) bytes.length) ∧
  (∀ (s : State) (density : Nat) (erase4k : Bool) (o : Nat) (bytes : List Byte) (u : State), s.awake = true → s.dev.boot.due
    = true → s.dev.rst.run = none → s.dev.rst.testMode = false → Memory.wf s.losses s.mem = true → u = (flashSet o bytes).run
    { s with dev := { s.dev with boot := { s.dev.boot with flash := ⟨density, erase4k⟩ } } } → u.flashOk = true → u.bootState
    0 = 0x3F → (u.bootState 1 = 0xFF ∨ u.bootState 1 = 0) → Completes (.boot density erase4k o bytes) s fun t => t.fld
    F.BOOT_STAT_CODE_A = 15 ∧ t.fld F.BOOT_STAT_CODE_B = 15 ∧ t.fld F.BOOT_STAT_REC = 1 ∧ t.fld F.BOOT_STAT_DONE = 0 ∧
    s.Raised t 213 = true ∧ t.fld F.LT_XREF_RATE = 7 ∧ t.dev.boot.due = false ∧ t.dev.boot.passed = false ∧
    t.dev.pins.lineTxDisable = true ∧ t.dev.image = ({} : ImageSt) ∧ (s.locked = false → t.fld F.LT_STATE_LOCK_ST = 0) ∧
    t.bootState 0 = 0 ∧ t.fld (F.BOOT_SLOT_ST_STATE 0) = 0 ∧ s.Raised t 215 = true ∧ s.KeepsRegs t [.BOOT_STAT, .BOOT_APPERR,
    .BOOT_PATCH, .IRQ_CNT, .IRQ_PEND, .LT_STATE, .LT_EVT, .LT_LOCKDIAG, .XBAR_STATUS, .CAL_RMST, .FPKT_STAT, .LT_XREF,
    .SYS_DEVID, .SVC_UART, .MEM_WIN_BASE, .MEM_WIN_SIZE, .MEM_WIN_PERM, .BOOT_SLOT_PLT_HI, .BOOT_SLOT_PLT_LO, .BOOT_SLOT_ST] ∧
    s.KeepsBytesOff t [((flashBase + o), bytes.length), ((flashBase + u.slotBlock 0 + 4), 1)]) ∧
  (∀ (s : State) (density : Nat) (erase4k : Bool) (o : Nat) (bytes : List Byte) (u : State), s.awake = true → s.dev.boot.due
    = true → s.dev.rst.run = none → s.dev.rst.testMode = false → Memory.wf s.losses s.mem = true → u = (flashSet o bytes).run
    { s with dev := { s.dev with boot := { s.dev.boot with flash := ⟨density, erase4k⟩ } } } → u.flashOk = true → u.bootState
    0 = 0x7F → u.headerOk 0 = false → u.bootState 1 = 0x1F → u.headerOk 1 = false → Completes (.boot density erase4k o bytes)
    s fun t => t.fld F.BOOT_STAT_CODE_A = 2 ∧ t.fld F.BOOT_STAT_CODE_B = 2 ∧ t.fld F.BOOT_STAT_REC = 1 ∧ t.fld
    F.BOOT_STAT_DONE = 0 ∧ s.Raised t 213 = true ∧ t.fld F.LT_XREF_RATE = 7 ∧ t.dev.boot.due = false ∧ t.dev.boot.passed =
    false ∧ t.dev.pins.lineTxDisable = true ∧ t.dev.image = ({} : ImageSt) ∧ (s.locked = false → t.fld F.LT_STATE_LOCK_ST = 0)
    ∧ t.bootState 0 = 0x3F ∧ t.bootState 1 = 0x1F ∧ s.Raised t 210 = true ∧ s.KeepsRegs t [.BOOT_STAT, .BOOT_APPERR,
    .BOOT_PATCH, .IRQ_CNT, .IRQ_PEND, .LT_STATE, .LT_EVT, .LT_LOCKDIAG, .XBAR_STATUS, .CAL_RMST, .FPKT_STAT, .LT_XREF,
    .SYS_DEVID, .SVC_UART, .MEM_WIN_BASE, .MEM_WIN_SIZE, .MEM_WIN_PERM, .BOOT_SLOT_PLT_HI, .BOOT_SLOT_PLT_LO, .BOOT_SLOT_ST,
    .PWR_WDCNT] ∧ s.KeepsBytesOff t [((flashBase + o), bytes.length), ((flashBase + u.slotBlock 0 + 4), 1)]) ∧
  (∀ (s : State) (density : Nat) (erase4k : Bool) (o : Nat) (bytes : List Byte) (u : State), s.awake = true → s.dev.boot.due
    = true → s.dev.rst.run = none → s.dev.rst.testMode = false → Memory.wf s.losses s.mem = true → u = (flashSet o bytes).run
    { s with dev := { s.dev with boot := { s.dev.boot with flash := ⟨density, erase4k⟩ } } } → u.flashOk = true → (u.bootState
    0 = 0xFF ∨ u.bootState 0 = 0) → u.bootState 1 = 0x7F → u.headerOk 1 = false → Completes (.boot density erase4k o bytes) s
    fun t => t.fld F.BOOT_STAT_CODE_A = 15 ∧ t.fld F.BOOT_STAT_CODE_B = 2 ∧ t.fld F.BOOT_STAT_REC = 1 ∧ t.fld F.BOOT_STAT_DONE
    = 0 ∧ s.Raised t 213 = true ∧ t.fld F.LT_XREF_RATE = 7 ∧ t.dev.boot.due = false ∧ t.dev.boot.passed = false ∧
    t.dev.pins.lineTxDisable = true ∧ t.dev.image = ({} : ImageSt) ∧ (s.locked = false → t.fld F.LT_STATE_LOCK_ST = 0) ∧
    t.bootState 1 = 0x3F ∧ s.KeepsRegs t [.BOOT_STAT, .BOOT_APPERR, .BOOT_PATCH, .IRQ_CNT, .IRQ_PEND, .LT_STATE, .LT_EVT,
    .LT_LOCKDIAG, .XBAR_STATUS, .CAL_RMST, .FPKT_STAT, .LT_XREF, .SYS_DEVID, .SVC_UART, .MEM_WIN_BASE, .MEM_WIN_SIZE,
    .MEM_WIN_PERM, .BOOT_SLOT_PLT_HI, .BOOT_SLOT_PLT_LO, .BOOT_SLOT_ST, .PWR_WDCNT] ∧ s.KeepsBytesOff t [((flashBase + o),
    bytes.length), ((flashBase + u.slotBlock 1 + 4), 1)]) ∧
  (∀ (s : State) (density : Nat) (erase4k : Bool) (o : Nat) (bytes : List Byte) (u : State) (x : Fin 2), s.awake = true →
    s.dev.boot.due = true → s.dev.rst.run = none → s.dev.rst.testMode = false → Memory.wf s.losses s.mem = true → u =
    (flashSet o bytes).run { s with dev := { s.dev with boot := { s.dev.boot with flash := ⟨density, erase4k⟩ } } } →
    u.flashOk = true → u.firstSlot = some x.val → u.imageCode x = 0 → Completes (.boot density erase4k o bytes) s fun t =>
    t.fld F.BOOT_STAT_SLOT = x ∧ t.dev.image.svn = u.imgNum x 12 1 ∧ t.dev.image.keyIdx = u.imgNum x 13 1 ∧ (t.dev.boot.passed
    = true ∨ t.frozen 1 = true)) ∧
  (∀ (s : State) (density : Nat) (erase4k : Bool) (o : Nat) (bytes : List Byte) (u : State) (x : Fin 2), s.awake = true →
    s.dev.boot.due = true → s.dev.rst.run = none → s.dev.rst.testMode = false → Memory.wf s.losses s.mem = true → u =
    (flashSet o bytes).run { s with dev := { s.dev with boot := { s.dev.boot with flash := ⟨density, erase4k⟩ } } } →
    u.flashOk = true → u.firstSlot = some x.val → u.imageCode x = 0 → ((u.sections x).all fun c => c.typ ≠ 6 && c.typ ≠ 8 &&
    c.typ ≠ 9) = true → Completes (.boot density erase4k o bytes) s fun t => t.fld F.BOOT_STAT_SLOT = x ∧ t.dev.image.svn =
    u.imgNum x 12 1 ∧ t.dev.image.keyIdx = u.imgNum x 13 1 ∧ (t.dev.boot.passed = true ∨ t.frozen 1 = true) ∧ s.KeepsRegs t
    [.BOOT_STAT, .BOOT_APPERR, .BOOT_PATCH, .IRQ_CNT, .IRQ_PEND, .LT_STATE, .LT_EVT, .LT_LOCKDIAG, .XBAR_STATUS, .CAL_RMST,
    .FPKT_STAT, .BOOT_SLOT_PLT_HI, .BOOT_SLOT_PLT_LO, .BOOT_SLOT_ST, .MEM_ECCCNT, .MEM_ECCA_LO, .MEM_ECCA_HI, .PWR_LOST,
    .PWR_WDCNT, .PLAY_SLOT, .PLAY_READY, .PLAY_FILLING, .LT_BEATCYC, .LT_CLKPROF, .LT_XREF, .BSTAT, .TG_DTMIN, .TG_DT,
    .TG_STAT, .SYS_DEVID, .XBAR_MAP, .XBAR_GANG, .PWR_PARK, .PWR_PARKED, .SEQ_STATE] ∧ s.KeepsBytesOff t [((flashBase + o),
    bytes.length), ((flashBase + u.slotBlock 0 + 4), 1), ((flashBase + u.slotBlock 1 + 4), 1), ((ctlBase + 0x40000), 0x8500),
    (calBase, calSize), ((fwBase 0), (0x20000000000 + u.slotSize)), (padBase, 0xFE0000)]) ∧
  (∀ (s : State), s.awake = true → s.dev.boot.passed = true → s.dev.rst.run = none → Completes (.bootComplete) s fun t =>
    t.dev.bus.locked = true ∧ t.dev.pins.lineTxDisable = false ∧ t.dev.rst.mp = true ∧ t.fld F.BOOT_STAT_DONE = 1 ∧ s.Raised t
    209 = true ∧ t.dev.boot.passed = false ∧ s.KeepsRegs t [.BOOT_STAT, .CAL_CH_CMPA, .CAL_CH_CMPB, .CAL_CH_LOOPT,
    .CAL_CH_MISC, .CAL_CH_RAMP, .CAL_CH_TST, .CAL_CH_TUSED, .CAL_NOSET, .EVT_XDLY, .FPKT_QP_HI, .FPKT_QP_LO, .FPKT_VP,
    .IRQ_LIVE, .PATH_CTL, .PATH_STAT, .SCALE_SHUNT, .VREF_NV, .MEM_ECCCNT, .MEM_ECCA_LO, .MEM_ECCA_HI, .PWR_LOST, .IRQ_PEND,
    .IRQ_CNT] ∧ s.KeepsBytesBut t (retBase + 0x100) 0x1000)

/-- R483 to R487. That a WRITE beyond the length gives SIZE, and that OPEN needs a slot 0 or 1, is the model's reading. Where the
rules leave a corner open, the clauses rest on the model's readings in notes/assumptions/57.md. -/
def Obligations.UpdateFunctionsRun : Prop :=
  (∀ (s : State) (p : Port) (slot len : Word), s.admits p R.BOOT_ARG0 slot = true → s.admits p R.BOOT_ARG1 len = true →
    s.admits p R.BOOT_CMD 1 = true → s.dev.boot.fn = none → slot.toNat ≤ 1 → s.booted slot.toNat = false → len.toNat ≤
    s.slotSize → Completes (.bootOpen p slot len) s fun t => t.fld F.BOOT_USTAT_OUT = 0 ∧ t.fld F.BOOT_USTAT_ST = 1 ∧
    t.dev.boot.fn = some (BootFn.open_ slot.toNat len.toNat) ∧ t.dev.boot.slot = none ∧ t.bootState slot.toNat = 0xFF ∧ t.fld
    (F.BOOT_SLOT_ST_STATE slot.toNat) = 0xFF ∧ t.answeredOk p = true ∧ s.KeepsRegs t [.BOOT_ARG0, .BOOT_ARG1, .BOOT_ARG2,
    .BOOT_CMD, .BOOT_USTAT, .BOOT_SLOT_PLT_HI, .BOOT_SLOT_PLT_LO, .BOOT_SLOT_ST] ∧ s.KeepsBytesBut t (flashBase + s.slotBlock
    slot.toNat) 4096) ∧
  (∀ (s : State) (p : Port) (slot len : Word), s.admits p R.BOOT_ARG0 slot = true → s.admits p R.BOOT_ARG1 len = true →
    s.admits p R.BOOT_CMD 1 = true → s.dev.boot.fn = none → s.booted slot.toNat = true → Completes (.bootOpen p slot len) s
    fun t => t.fld F.BOOT_USTAT_OUT = 17 ∧ t.fld F.BOOT_USTAT_ST = 2 ∧ s.Raised t 212 = true ∧ t.dev.boot = s.dev.boot ∧
    t.answeredOk p = true ∧ s.KeepsRegs t [.BOOT_ARG0, .BOOT_ARG1, .BOOT_ARG2, .BOOT_CMD, .BOOT_USTAT, .IRQ_CNT, .IRQ_PEND] ∧
    s.KeepsBytes t) ∧
  (∀ (s : State) (p : Port) (slot len : Word), s.admits p R.BOOT_ARG0 slot = true → s.admits p R.BOOT_ARG1 len = true →
    s.admits p R.BOOT_CMD 1 = true → s.dev.boot.fn = none → s.booted slot.toNat = false → slot.toNat ≤ 1 → s.slotSize <
    len.toNat → Completes (.bootOpen p slot len) s fun t => t.fld F.BOOT_USTAT_OUT = 18 ∧ t.fld F.BOOT_USTAT_ST = 2 ∧ s.Raised
    t 212 = true ∧ t.dev.boot = s.dev.boot ∧ t.answeredOk p = true ∧ s.KeepsRegs t [.BOOT_ARG0, .BOOT_ARG1, .BOOT_ARG2,
    .BOOT_CMD, .BOOT_USTAT, .IRQ_CNT, .IRQ_PEND] ∧ s.KeepsBytes t) ∧
  (∀ (s : State) (p : Port) (slot len : Word), s.admits p R.BOOT_ARG0 slot = true → s.admits p R.BOOT_ARG1 len = true →
    s.admits p R.BOOT_CMD 1 = true → s.dev.boot.fn ≠ none → Completes (.bootOpen p slot len) s fun t => t.fld F.BOOT_USTAT_OUT
    = 16 ∧ t.fld F.BOOT_USTAT_ST = 1 ∧ s.Raised t 212 = true ∧ t.dev.boot = s.dev.boot ∧ t.answeredOk p = true ∧ s.KeepsRegs t
    [.BOOT_ARG0, .BOOT_ARG1, .BOOT_ARG2, .BOOT_CMD, .BOOT_USTAT, .IRQ_CNT, .IRQ_PEND] ∧ s.KeepsBytes t) ∧
  (∀ (s : State) (p : Port) (ofs len buf : Word), s.admits p R.BOOT_ARG0 ofs = true → s.admits p R.BOOT_ARG1 len = true →
    s.admits p R.BOOT_ARG2 buf = true → s.admits p R.BOOT_CMD 2 = true → s.dev.boot.fn = none → s.dev.boot.slot ≠ none →
    ofs.toNat = s.dev.boot.written → len.toNat ≤ 1048576 → ofs.toNat + len.toNat ≤ s.dev.boot.len → (len.toNat = 0 ∨
    s.inWindow (portMaster p) (padBase + buf.toNat) len.toNat false = true) → Completes (.bootWrite p ofs len buf) s fun t =>
    t.fld F.BOOT_USTAT_OUT = 0 ∧ t.fld F.BOOT_USTAT_ST = 1 ∧ t.dev.boot.fn = some (BootFn.write ofs.toNat len.toNat buf.toNat)
    ∧ t.answeredOk p = true ∧ s.KeepsRegs t [.BOOT_ARG0, .BOOT_ARG1, .BOOT_ARG2, .BOOT_CMD, .BOOT_USTAT] ∧ s.KeepsBytes t) ∧
  (∀ (s : State) (p : Port) (ofs len buf : Word), s.admits p R.BOOT_ARG0 ofs = true → s.admits p R.BOOT_ARG1 len = true →
    s.admits p R.BOOT_ARG2 buf = true → s.admits p R.BOOT_CMD 2 = true → s.dev.boot.fn = none → (s.dev.boot.slot = none ∨
    ofs.toNat ≠ s.dev.boot.written) → Completes (.bootWrite p ofs len buf) s fun t => t.fld F.BOOT_USTAT_OUT = 19 ∧ t.fld
    F.BOOT_USTAT_ST = 2 ∧ s.Raised t 212 = true ∧ t.dev.boot = s.dev.boot ∧ t.answeredOk p = true ∧ s.KeepsRegs t [.BOOT_ARG0,
    .BOOT_ARG1, .BOOT_ARG2, .BOOT_CMD, .BOOT_USTAT, .IRQ_CNT, .IRQ_PEND] ∧ s.KeepsBytes t) ∧
  (∀ (s : State) (p : Port), s.admits p R.BOOT_CMD 3 = true → s.dev.boot.fn = none → Completes (.bootClose p) s fun t =>
    t.fld F.BOOT_USTAT_OUT = (if s.dev.boot.slot.isNone then 19 else 0) ∧ t.dev.boot.fn = (if s.dev.boot.slot.isNone then none
    else some BootFn.close) ∧ t.answeredOk p = true ∧ s.KeepsRegs t [.BOOT_ARG0, .BOOT_ARG1, .BOOT_ARG2, .BOOT_CMD,
    .BOOT_USTAT, .IRQ_CNT, .IRQ_PEND] ∧ s.KeepsBytes t) ∧
  (∀ (s : State) (p : Port), s.admits p R.BOOT_CMD 4 = true → s.dev.boot.fn = none → Completes (.confirm p) s fun t => t.fld
    F.BOOT_USTAT_OUT = 0 ∧ t.fld F.BOOT_USTAT_ST = 1 ∧ t.dev.boot.fn = some BootFn.confirm ∧ t.answeredOk p = true ∧
    s.KeepsRegs t [.BOOT_ARG0, .BOOT_ARG1, .BOOT_ARG2, .BOOT_CMD, .BOOT_USTAT] ∧ s.KeepsBytes t) ∧
  (∀ (s : State) (p : Port) (slot buf : Word), s.admits p R.BOOT_ARG0 slot = true → s.admits p R.BOOT_ARG2 buf = true →
    s.admits p R.BOOT_CMD 5 = true → s.dev.boot.fn = none → slot.toNat ≤ 1 → s.bootState (1 - slot.toNat) = 0x1F → s.flashOk =
    true → s.inWindow (portMaster p) (padBase + buf.toNat) 65536 false = true → s.inWindow (portMaster p) (padBase +
    buf.toNat) 65536 true = true → Completes (.refresh p slot buf) s fun t => t.fld F.BOOT_USTAT_OUT = 0 ∧ t.fld
    F.BOOT_USTAT_ST = 1 ∧ t.dev.boot.fn = some (BootFn.refresh slot.toNat buf.toNat (s.imageCode slot.toNat) (s.bootState
    slot.toNat)) ∧ t.bootState slot.toNat = 0xFF ∧ t.fld (F.BOOT_SLOT_ST_STATE slot.toNat) = 0xFF ∧ t.answeredOk p = true ∧
    s.KeepsRegs t [.BOOT_ARG0, .BOOT_ARG1, .BOOT_ARG2, .BOOT_CMD, .BOOT_USTAT, .BOOT_SLOT_PLT_HI, .BOOT_SLOT_PLT_LO,
    .BOOT_SLOT_ST] ∧ s.KeepsBytesBut t (flashBase + s.slotBlock slot.toNat) 4096) ∧
  (∀ (s : State) (p : Port) (slot buf : Word), s.admits p R.BOOT_ARG0 slot = true → s.admits p R.BOOT_ARG2 buf = true →
    s.admits p R.BOOT_CMD 5 = true → s.dev.boot.fn = none → slot.toNat ≤ 1 → s.bootState (1 - slot.toNat) ≠ 0x1F → Completes
    (.refresh p slot buf) s fun t => t.fld F.BOOT_USTAT_OUT = 20 ∧ t.fld F.BOOT_USTAT_ST = 2 ∧ s.Raised t 212 = true ∧
    t.dev.boot = s.dev.boot ∧ t.answeredOk p = true ∧ s.KeepsRegs t [.BOOT_ARG0, .BOOT_ARG1, .BOOT_ARG2, .BOOT_CMD,
    .BOOT_USTAT, .IRQ_CNT, .IRQ_PEND] ∧ s.KeepsBytes t) ∧
  (∀ (s : State) (p : Port), s.admits p R.BOOT_CMD 6 = true → s.dev.rst.run.all (fun (x : Nat × Nat) => decide (1 < x.1)) =
    true → Completes (.restart p) s fun t => t.dev.rst.run = some (1, 4) ∧ t.dev.rst.due = t.now + 33000 ∧ t.dev.boot.passed =
    false ∧ t.dev.rst.applied = false ∧ t.dev.rst.mp = false ∧ (∀ i < 9, t.session i = none) ∧ (channels.all fun n => (t.cst
    (s.core n)).drv.calm.isSome) = true ∧ s.KeepsRegs t [.BOOT_CMD, .PWR_STATE, .SEQ_STATE, .SVC_STAT, .IRQ_CNT, .IRQ_PEND] ∧
    s.KeepsBytes t) ∧
  (∀ (s : State) (x len : Nat), s.awake = true → s.dev.boot.fn = some (BootFn.open_ x len) → Completes (.bootFunctionDone
    false) s fun t => t.fld F.BOOT_USTAT_OUT = 0 ∧ t.fld F.BOOT_USTAT_ST = 2 ∧ s.Raised t 211 = true ∧ t.dev.boot.fn = none ∧
    t.dev.boot.slot = some x ∧ t.dev.boot.len = len ∧ t.dev.boot.written = 0 ∧ (∀ i < s.slotSize, t.byte (flashBase +
    s.slotImage x + i) = 0) ∧ s.KeepsRegs t [.BOOT_USTAT, .IRQ_CNT, .IRQ_PEND] ∧ s.KeepsBytesBut t (flashBase + s.slotImage x)
    s.slotSize) ∧
  (∀ (s : State) (ofs n buf x o : Nat), s.awake = true → Memory.wf s.losses s.mem = true → s.dev.boot.fn = some
    (BootFn.write ofs n buf) → s.dev.boot.slot = some x → o = s.slotImage x + ofs → Completes (.bootFunctionDone false) s fun
    t => t.fld F.BOOT_USTAT_OUT = 0 ∧ t.fld F.BOOT_USTAT_ST = 2 ∧ s.Raised t 211 = true ∧ t.dev.boot.fn = none ∧ t.flash o n =
    List.zipWith (fun (a b : Byte) => a &&& b) (s.flash o n) (s.bytes (padBase + buf) n) ∧ t.dev.boot.written =
    s.dev.boot.written + n ∧ s.KeepsRegs t [.BOOT_USTAT, .IRQ_CNT, .IRQ_PEND] ∧ s.KeepsBytesBut t (flashBase + o) n) ∧
  (∀ (s : State) (x : Nat), s.awake = true → s.dev.boot.fn = some BootFn.close → s.dev.boot.slot = some x → s.headerOk x =
    false → Completes (.bootFunctionDone false) s fun t => t.fld F.BOOT_USTAT_OUT = 2 ∧ t.fld F.BOOT_USTAT_ST = 2 ∧ s.Raised t
    212 = true ∧ t.dev.boot.fn = none ∧ t.dev.boot.slot = none ∧ s.KeepsRegs t [.BOOT_USTAT, .IRQ_CNT, .IRQ_PEND] ∧
    s.KeepsBytes t) ∧
  (∀ (s : State) (x : Nat), s.awake = true → Memory.wf s.losses s.mem = true → s.dev.boot.fn = some BootFn.confirm →
    s.booted x = true → s.bootState x = 0x3F → Completes (.bootFunctionDone false) s fun t => t.fld F.BOOT_USTAT_OUT = 0 ∧
    t.fld F.BOOT_USTAT_ST = 2 ∧ s.Raised t 211 = true ∧ t.dev.boot.fn = none ∧ t.bootState x = 0x1F ∧ t.fld
    (F.BOOT_SLOT_ST_STATE x) = 0x1F ∧ s.KeepsRegs t [.BOOT_USTAT, .BOOT_SLOT_ST, .IRQ_CNT, .IRQ_PEND] ∧ s.KeepsBytesBut t
    (flashBase + s.slotBlock x + 4) 1) ∧
  (∀ (s : State) (x : Nat), s.awake = true → s.dev.boot.fn = some BootFn.confirm → x = s.fld F.BOOT_STAT_SLOT → (s.booted x
    = false ∨ s.bootState x ≠ 0x3F) → Completes (.bootFunctionDone false) s fun t => t.fld F.BOOT_USTAT_OUT = 0 ∧ t.fld
    F.BOOT_USTAT_ST = 2 ∧ s.Raised t 211 = true ∧ t.dev.boot.fn = none ∧ s.KeepsRegs t [.BOOT_USTAT, .IRQ_CNT, .IRQ_PEND] ∧
    s.KeepsBytes t) ∧
  (∀ (s : State) (x buf code st : Nat), s.awake = true → s.dev.boot.fn = some (BootFn.refresh x buf code st) → code ≠ 0 →
    Completes (.bootFunctionDone false) s fun t => t.fld F.BOOT_USTAT_OUT = code ∧ t.fld F.BOOT_USTAT_ST = 2 ∧ s.Raised t 212
    = true ∧ t.dev.boot.fn = none ∧ s.KeepsRegs t [.BOOT_USTAT, .IRQ_CNT, .IRQ_PEND] ∧ s.KeepsBytes t) ∧
  (∀ (s : State) (x buf st : Nat), s.awake = true → Memory.wf s.losses s.mem = true → s.dev.boot.fn = some (BootFn.refresh x
    buf 0 st) → Completes (.bootFunctionDone false) s fun t => t.fld F.BOOT_USTAT_OUT = 0 ∧ t.fld F.BOOT_USTAT_ST = 2 ∧
    s.Raised t 211 = true ∧ t.dev.boot.fn = none ∧ t.flash (s.slotBlock x) 8 = [0x07, 0x0B, 0x1A, 0x5E, BitVec.ofNat 8 st,
    0xFF, 0xFF, 0xFF] ∧ t.flashNum (s.slotBlock x + 8) 8 = s.now % 2 ^ 64 ∧ s.KeepsRegs t [.BOOT_USTAT, .BOOT_SLOT_PLT_HI,
    .BOOT_SLOT_PLT_LO, .BOOT_SLOT_ST, .IRQ_CNT, .IRQ_PEND] ∧ s.KeepsBytesOff t [((flashBase + s.slotBlock x), 4096), ((padBase
    + buf), 65536)]) ∧
  (∀ (s : State) (f : BootFn), s.awake = true → s.dev.boot.fn = some f → (f = BootFn.confirm ∨ f = BootFn.close) → Completes
    (.bootFunctionDone true) s fun t => t.fld F.BOOT_USTAT_OUT = 22 ∧ t.fld F.BOOT_USTAT_ST = 2 ∧ s.Raised t 212 = true ∧
    t.dev.boot.fn = none ∧ s.KeepsRegs t [.BOOT_USTAT, .IRQ_CNT, .IRQ_PEND] ∧ s.KeepsBytes t)

/-- R473, R488: the fuses. Where the rules leave a corner open, the clauses rest on the model's readings in
notes/assumptions/57.md and notes/assumptions/60.md. -/
def Obligations.FusesAreProgrammedOnce : Prop :=
  (∀ (s : State) (p : Port) (slot : Fin 4) (ofs : BitVec 24), s.admits p R.SEC_CTL (fieldWord F.SEC_CTL_OP 1 ||| fieldWord
    F.SEC_CTL_SLOT slot ||| fieldWord F.SEC_CTL_OFS ofs.toNat) = true → s.dev.boot.fuse = none → slot ≠ 0 →
    s.dev.boot.fuses.keySet slot = false → ofs.toNat % 8 = 0 → ofs.toNat + 64 ≤ 0x1000000 → Completes (.keyprog p slot ofs) s
    fun t => t.dev.boot.fuse = some (BootFn.keyprog slot.val ofs.toNat) ∧ t.answeredOk p = true ∧ s.KeepsRegs t [.SEC_CTL] ∧
    s.KeepsBytes t) ∧
  (∀ (s : State) (p : Port) (slot : Fin 4) (ofs : BitVec 24), s.admits p R.SEC_CTL (fieldWord F.SEC_CTL_OP 1 ||| fieldWord
    F.SEC_CTL_SLOT slot ||| fieldWord F.SEC_CTL_OFS ofs.toNat) = true → s.dev.boot.fuse = none → (slot = 0 ∨
    s.dev.boot.fuses.keySet slot = true) → Completes (.keyprog p slot ofs) s fun t => t.fld F.SEC_ST_ST = 1 ∧ s.Raised t 212 =
    true ∧ t.dev.boot = s.dev.boot ∧ t.answeredOk p = true ∧ s.KeepsRegs t [.SEC_CTL, .SEC_ST, .IRQ_CNT, .IRQ_PEND] ∧
    s.KeepsBytes t) ∧
  (∀ (s : State) (p : Port) (slot : Fin 4), s.admits p R.SEC_CTL (fieldWord F.SEC_CTL_OP 2 ||| fieldWord F.SEC_CTL_SLOT
    slot) = true → s.dev.boot.fuse = none → (s.flg F.BOOT_STAT_DONE = false ∨ slot.val ≠ s.dev.image.keyIdx) → Completes
    (.revoke p slot) s fun t => t.dev.boot.fuse = some (BootFn.revoke slot.val) ∧ t.answeredOk p = true ∧ s.KeepsRegs t
    [.SEC_CTL] ∧ s.KeepsBytes t) ∧
  (∀ (s : State) (p : Port) (slot : Fin 4), s.admits p R.SEC_CTL (fieldWord F.SEC_CTL_OP 2 ||| fieldWord F.SEC_CTL_SLOT
    slot) = true → s.dev.boot.fuse = none → s.flg F.BOOT_STAT_DONE = true → slot.val = s.dev.image.keyIdx → Completes (.revoke
    p slot) s fun t => t.fld F.SEC_ST_ST = 2 ∧ s.Raised t 212 = true ∧ t.dev.boot = s.dev.boot ∧ t.answeredOk p = true ∧
    s.KeepsRegs t [.SEC_CTL, .SEC_ST, .IRQ_CNT, .IRQ_PEND] ∧ s.KeepsBytes t) ∧
  (∀ (s : State) (p : Port), s.admits p R.SEC_CTL (fieldWord F.SEC_CTL_OP 3) = true → s.dev.boot.fuse = none → Completes
    (.svnadv p) s fun t => t.dev.boot.fuse = some BootFn.svnadv ∧ t.answeredOk p = true ∧ s.KeepsRegs t [.SEC_CTL] ∧
    s.KeepsBytes t) ∧
  (∀ (s : State) (slot ofs : Nat), s.awake = true → s.dev.boot.fuse = some (BootFn.keyprog slot ofs) → Completes
    (.fuseOpDone false) s fun t => t.dev.boot.fuses.keyHash.get [] slot = s.bytes (padBase + ofs) 64 ∧ t.dev.boot.fuse = none
    ∧ t.fld F.SEC_ST_ST = 0 ∧ s.Raised t 214 = true ∧ t.dev.boot.read = s.dev.boot.read ∧ s.KeepsRegs t [.SEC_ST, .IRQ_CNT,
    .IRQ_PEND] ∧ s.KeepsBytes t) ∧
  (∀ (s : State) (slot : Nat), s.awake = true → s.dev.boot.fuse = some (BootFn.revoke slot) → Completes (.fuseOpDone false)
    s fun t => t.dev.boot.fuses.revoked.contains slot = true ∧ t.dev.boot.fuses.keyHash = s.dev.boot.fuses.keyHash ∧
    t.dev.boot.fuse = none ∧ t.fld F.SEC_ST_ST = 0 ∧ s.Raised t 214 = true ∧ t.dev.boot.read = s.dev.boot.read ∧ s.KeepsRegs t
    [.SEC_ST, .IRQ_CNT, .IRQ_PEND] ∧ s.KeepsBytes t) ∧
  (∀ (s : State), s.awake = true → s.dev.boot.fuse = some BootFn.svnadv → Completes (.fuseOpDone false) s fun t =>
    t.dev.boot.fuses.svn = max s.dev.boot.fuses.svn s.dev.image.svn ∧ t.dev.boot.fuse = none ∧ t.fld F.SEC_ST_ST = 0 ∧
    s.Raised t 214 = true ∧ t.dev.boot.read = s.dev.boot.read ∧ s.KeepsRegs t [.SEC_ST, .IRQ_CNT, .IRQ_PEND] ∧ s.KeepsBytes t) ∧
  (∀ (s : State) (f : BootFn), s.awake = true → s.dev.boot.fuse = some f → Completes (.fuseOpDone true) s fun t =>
    t.dev.boot.fuses = s.dev.boot.fuses ∧ t.dev.boot.fuse = none ∧ t.fld F.SEC_ST_ST = 3 ∧ s.KeepsRegs t [.SEC_ST] ∧
    s.KeepsBytes t)

/-- R491, R502, R544: power-on and rails. Where the rules leave a corner open, the clauses rest on the model's readings in
notes/assumptions/5.md, notes/assumptions/62.md and notes/assumptions/123.md. -/
def Obligations.PowerOnStartsTheMachineAnew : Prop :=
  (∀ (s : State), Completes (.por) s fun t => t.dev.rst.por = 1 ∧ t.dev.rst.run = some (0, 0) ∧ t.fld F.LT_STATE_LOCK_ST = 0
    ∧ t.fld F.LT_STATE_LT_ST = 0 ∧ t.dev.pins = ({} : Pins) ∧ (cores.all fun k => [0, 1].all (fun i => (t.cst k).drv.level i =
    0) && [2, 3].all (fun i => (t.cst k).drv.level i = 2)) = true ∧ s.KeepsRegs t [.LT_STATE] ∧ s.KeepsBytes t) ∧
  (∀ (s : State) (tm : Bool), s.dev.rst.por = 1 → Memory.wf s.losses s.mem = true → Completes (.porAlwaysOnRelease tm) s fun
    t => t.dev.rst.por = 2 ∧ t.dev.rst.testMode = tm ∧ (∀ n < 64, t.num (chBlock n + 48) 8 = 6400 * 2 ^ 32) ∧ (∀ n < 64, t.num
    (chBlock n) 48 = 0) ∧ (∀ a < 0x100, t.byte (retBase + a) = 0) ∧ (∀ k : RegKey, k.id.alwaysOn = true → t.reg k = k.cold) ∧
    (∀ k : RegKey, k.id.alwaysOn = false → t.reg k = s.reg k &&& k.id.mask) ∧ s.KeepsBytesBut t retBase 0x10000) ∧
  (∀ (s : State), s.dev.rst.por = 2 → Completes (.porMemoryClear) s fun t => t.dev.rst.por = 0 ∧ t.dev.rst.run = none ∧
    t.dev.boot.due = true ∧ t.dev.bus.locked = false ∧ t.dev.rings = [] ∧ t.fld F.PWR_RSTCAUSE_LAST = 0 ∧ (∀ k : RegKey, t.reg
    k = k.cold) ∧ (∀ a, inRetention a = false → inFlash a = false → t.byte a = 0) ∧ (∀ a, inRetention a = true ∨ inFlash a =
    true → t.byte a = s.byte a)) ∧
  (∀ (s : State), Completes (.railDrop true) s fun t => t.dev.rst.por = 3 ∧ t.dev.rst.run = some (0, 0) ∧ t.dev.pins.hiboutN
    = true ∧ (cores.all fun k => [0, 1].all (fun i => (t.cst k).drv.level i = 0)) = true ∧ t.regs = s.regs ∧ s.KeepsBytes t) ∧
  (∀ (s : State), s.awake = true → Completes (.railDrop false) s fun t => t.dev.rst.run = (if s.dev.rst.run.all (fun (x :
    Nat × Nat) => decide (1 < x.1)) = true then some (1, 5) else s.dev.rst.run) ∧ t.fld F.PWR_LOST_SEG = 1 ∧ t.fld
    F.PWR_LOST_CAP = 1 ∧ t.fld F.PWR_LOST_FAIL = 1 ∧ t.fld F.PWR_LOST_SCR = 1 ∧ t.fld F.PWR_LOST_LT = 1 ∧ t.fld
    F.LT_STATE_LOCK_ST = 0 ∧ t.fld F.LT_STATE_LT_ST = 0 ∧ t.dev.rings = [] ∧ t.losses = s.losses + 1 ∧ (channels.all fun n =>
    t.calm n) = true ∧ (∀ a, inRetention a = true ∨ inFlash a = true → (∀ n < 64, a < chBlock n ∨ chBlock n + 64 ≤ a) → t.byte
    a = s.byte a) ∧ s.KeepsRegs t [.CAL_RMST, .FAIL_RDROP, .FAIL_STAT, .FMT_MODE, .FPKT_STAT, .LOOP_SET, .LOOP_STAT, .LT_EVT,
    .LT_LOCKDIAG, .LT_STATE, .LT_XREF, .PWR_PARKED, .PWR_STATE, .RING_STAT, .SEQ_STATE, .SVC_STAT, .XBAR_STATUS, .MEM_ECCCNT,
    .MEM_ECCA_LO, .MEM_ECCA_HI, .PWR_LOST, .IRQ_PEND, .IRQ_CNT])

/-- R489 to R495: warm resets. Where the rules leave a corner open, the clauses rest on the model's readings in
notes/assumptions/61.md, notes/assumptions/62.md and notes/assumptions/125.md. -/
def Obligations.WarmResetsTakeTheirCourse : Prop :=
  (∀ (s : State), Completes (.resetNFall) s fun t => t.dev.rst = { s.dev.rst with pinLow := true, pinDue := true } ∧ t.regs
    = s.regs ∧ s.KeepsBytes t) ∧
  (∀ (s : State), Completes (.resetNRise) s fun t => t.dev.rst =
    { s.dev.rst with pinLow := false, pinDue := s.dev.rst.pinDue && s.dev.rst.hib = 3, due := if s.dev.rst.applied && s.dev.rst.run = some (1, 1) then max s.dev.rst.due (s.now + 30000) else s.dev.rst.due }
    ∧ t.regs = s.regs ∧ s.KeepsBytes t) ∧
  (∀ (s : State), s.awake = true → s.dev.rst.pinDue = true → s.dev.rst.run.all (fun (x : Nat × Nat) => decide (1 < x.1)) =
    true → Completes (.pin) s fun t => t.dev.rst.run = some (1, 1) ∧ t.dev.rst.due = t.now + 33000 ∧ t.dev.rst.standby = none
    ∧ t.dev.rst.applied = false ∧ t.dev.rst.mp = false ∧ t.dev.rst.hib = 0 ∧ t.fld F.PWR_STATE_ST = 0 ∧ (∀ i < 9, t.session i
    = none) ∧ (channels.all fun n => (t.cst (s.core n)).drv.calm.isSome) = true ∧ t.dev.boot.due = false ∧ t.dev.boot.passed =
    false ∧ t.dev.rst.pinDue = false ∧ t.now = s.onTo (s.now + 600) ∧ s.KeepsRegs t [.PWR_STATE, .SEQ_STATE, .SVC_STAT,
    .IRQ_CNT, .IRQ_PEND] ∧ s.KeepsBytes t) ∧
  (∀ (s : State) (r c : Nat), s.awake = true → s.dev.rst.pinDue = true → s.dev.rst.run = some (r, c) → r ≤ 1 → Completes
    (.pin) s fun t => t.dev.rst.run = some (r, c) ∧ t.dev.rst.pinDue = false ∧ t.regs = s.regs ∧ s.KeepsBytes t) ∧
  (∀ (s : State), s.awake = true → s.wdRuns = true → s.dev.rst.run.all (fun (x : Nat × Nat) => decide (2 < x.1)) = true →
    Completes (.wdog) s fun t => t.dev.rst.run = some (2, 2) ∧ t.dev.rst.due = t.now + 33000 ∧ t.dev.rst.standby = none ∧
    t.dev.rst.applied = false ∧ t.dev.rst.mp = false ∧ t.dev.rst.hib = 0 ∧ t.fld F.PWR_STATE_ST = 0 ∧ (∀ i < 9, t.session i =
    none) ∧ (channels.all fun n => (t.cst (s.core n)).drv.calm.isSome) = true ∧ t.fld F.PWR_WDCNT_REM = 0 ∧ t.dev.boot.due =
    false ∧ t.dev.boot.passed = false ∧ s.KeepsRegs t [.PWR_STATE, .SEQ_STATE, .SVC_STAT, .IRQ_CNT, .IRQ_PEND, .PWR_WDCNT] ∧
    s.KeepsBytes t) ∧
  (∀ (s : State) (r c : Nat), s.awake = true → s.wdRuns = true → s.dev.rst.run = some (r, c) → r ≤ 2 → Completes (.wdog) s
    fun t => t.dev.rst.run = some (r, c) ∧ t.fld F.PWR_WDCNT_REM = 0 ∧ s.KeepsRegs t [.PWR_WDCNT] ∧ s.KeepsBytes t) ∧
  (∀ (s : State), s.wdRuns = false → Completes (.wdog) s fun t => t = s) ∧
  (∀ (s : State), s.awake = true → s.dev.rst.portDue = true → s.dev.rst.run.all (fun (x : Nat × Nat) => decide (3 < x.1)) =
    true → Completes (.port) s fun t => t.dev.rst.run = some (3, 3) ∧ t.dev.rst.due = t.now + 33000 ∧ t.dev.rst.standby = none
    ∧ t.dev.rst.applied = false ∧ t.dev.rst.mp = false ∧ t.dev.rst.hib = 0 ∧ t.fld F.PWR_STATE_ST = 0 ∧ (∀ i < 9, t.session i
    = none) ∧ (channels.all fun n => (t.cst (s.core n)).drv.calm.isSome) = true ∧ t.dev.rst.portDue = false ∧ t.dev.boot =
    s.dev.boot ∧ s.KeepsRegs t [.PWR_STATE, .SEQ_STATE, .SVC_STAT, .IRQ_CNT, .IRQ_PEND] ∧ s.KeepsBytes t) ∧
  (∀ (s : State) (r c : Nat), s.awake = true → s.dev.rst.portDue = true → s.dev.rst.run = some (r, c) → r ≤ 3 → Completes
    (.port) s fun t => t = s) ∧
  (∀ (s : State) (r c : Nat), s.dev.rst.run = some (r, c) → s.dev.rst.por = 0 → s.dev.rst.applied = false → c < 16 → c ≠ 3 →
    Completes (.warmResetApply) s fun t => t.dev.rst.applied = true ∧ t.dev.rst.run = some (r, c) ∧ t.fld F.PWR_RSTCAUSE_LAST
    = c ∧ t.fld F.PWR_RSTCAUSE_NWARM = satInc 16 (s.fld F.PWR_RSTCAUSE_NWARM) ∧ t.now = s.onTo s.dev.rst.due ∧ t.dev.rst.due =
    s.dev.rst.due + 30000 ∧ (∀ k < 68, t.seqSt k = 0 ∧ t.fld (F.FMT_MODE_CUR k) = if (s.channelOf k).isSome then 1 else 0) ∧
    t.fld F.PWR_WDOG_TMO = 4000 ∧ t.fld F.PWR_WDCNT_REM = 4000 ∧ t.fld F.LINE_PHY_ST = 0 ∧ t.dev.pins.perstN = false ∧ t.fld
    F.MEM_FRZ_M = (if c = 2 then s.fld F.MEM_FRZ_M &&& 0xFFF9 else 0) ∧ (∀ k : RegKey, k.id ∉ [.FAIL_RDROP, .FAIL_STAT,
    .FMT_MODE, .IRQ_CNT, .IRQ_LIVE, .IRQ_PEND, .LINE_CNT, .LINE_PHY, .LOOP_SET, .LOOP_STAT, .MEM_ECCA_HI, .MEM_ECCA_LO,
    .MEM_ECCCNT, .MEM_FRZ, .PEER_STAT, .PLAY_FILLING, .PLAY_READY, .PLAY_SLOT, .PLAY_STAT, .PWR_LOST, .PWR_PARKED,
    .PWR_RSTCAUSE, .PWR_WDCNT, .PWR_WDOG, .RING_STAT, .STOR_STATE] → t.reg k = k.warm (s.reg k)) ∧ s.KeepsBytesOff t
    ((padBase, 0x1001000) :: channels.flatMap fun n => [(failBase (s.core n), 0x20000), (chBlock n, 64)])) ∧
  (∀ (s : State) (r c : Nat), s.dev.rst.run = some (r, c) → s.dev.rst.por = 0 → s.dev.rst.applied = false → c = 3 →
    Completes (.warmResetApply) s fun t => t.dev.rst.applied = true ∧ t.dev.rst.run = some (r, c) ∧ t.fld F.PWR_RSTCAUSE_LAST
    = c ∧ t.fld F.PWR_RSTCAUSE_NWARM = satInc 16 (s.fld F.PWR_RSTCAUSE_NWARM) ∧ t.now = s.onTo s.dev.rst.due ∧ t.dev.rst.due =
    s.dev.rst.due + 30000 ∧ (∀ k < 68, t.seqSt k = 0 ∧ t.fld (F.FMT_MODE_CUR k) = if (s.channelOf k).isSome then 1 else 0) ∧
    t.fld F.MEM_FRZ_M = s.fld F.MEM_FRZ_M ∧ (∀ k : RegKey, k.id ∉ [.FAIL_RDROP, .FAIL_STAT, .FMT_MODE, .IRQ_CNT, .IRQ_LIVE,
    .IRQ_PEND, .LINE_CNT, .LINE_PHY, .LOOP_SET, .LOOP_STAT, .MEM_ECCA_HI, .MEM_ECCA_LO, .MEM_ECCCNT, .MEM_FRZ, .PEER_STAT,
    .PLAY_FILLING, .PLAY_READY, .PLAY_SLOT, .PLAY_STAT, .PWR_LOST, .PWR_PARKED, .PWR_RSTCAUSE, .PWR_WDCNT, .PWR_WDOG,
    .RING_STAT, .STOR_STATE] → k.id.blk ≠ .boot → t.reg k = k.warm (s.reg k)) ∧ (∀ k : RegKey, k.id.blk = .boot → t.reg k = if
    k.id ∈ [.BOOT_ARG0, .BOOT_ARG1, .BOOT_ARG2] then 0 else s.reg k &&& k.id.mask) ∧ t.dev.boot = s.dev.boot ∧ s.KeepsBytesOff
    t ((padBase, 0x1001000) :: channels.flatMap fun n => [(failBase (s.core n), 0x20000), (chBlock n, 64)])) ∧
  (∀ (s : State) (r c : Nat), s.dev.rst.run = some (r, c) → s.dev.rst.por = 0 → s.dev.rst.applied = true → (s.dev.rst.pinLow
    = false ∨ c ≠ 1) → c ≠ 3 → Completes (.warmResetRelease) s fun t => t.dev.rst.run = none ∧ t.dev.rst.applied = false ∧
    t.dev.boot.due = true ∧ t.dev.boot.read = s.dev.boot.fuses ∧ t.dev.bus.locked = false ∧ t.now = s.onTo s.dev.rst.due ∧
    t.dev.pins.bootResetEnd = t.now + 30000 ∧ t.dev.rst.mp = s.dev.rst.mp ∧ t.regs = s.regs ∧ s.KeepsBytes t) ∧
  (∀ (s : State) (r c : Nat), s.dev.rst.run = some (r, c) → s.dev.rst.pinLow = true → c = 1 → Completes (.warmResetRelease)
    s fun t => t = s) ∧
  (∀ (s : State) (r c : Nat), s.dev.rst.run = some (r, c) → s.dev.rst.por = 0 → s.dev.rst.applied = true → c = 3 → s.flg
    F.BOOT_STAT_DONE = true → Completes (.warmResetRelease) s fun t => t.dev.rst.run = none ∧ t.dev.rst.mp = true ∧ t.dev.boot
    = s.dev.boot ∧ t.dev.bus.locked = s.dev.bus.locked ∧ t.now = s.onTo s.dev.rst.due ∧ s.KeepsRegs t [.CAL_CH_CMPA,
    .CAL_CH_CMPB, .CAL_CH_LOOPT, .CAL_CH_MISC, .CAL_CH_RAMP, .CAL_CH_TST, .CAL_CH_TUSED, .CAL_NOSET, .EVT_XDLY, .FPKT_QP_HI,
    .FPKT_QP_LO, .FPKT_VP, .IRQ_LIVE, .PATH_CTL, .PATH_STAT, .SCALE_SHUNT, .VREF_NV, .MEM_ECCCNT, .MEM_ECCA_LO, .MEM_ECCA_HI,
    .PWR_LOST, .IRQ_PEND, .IRQ_CNT] ∧ s.KeepsBytesBut t (retBase + 0x100) 0x1000) ∧
  (∀ (s : State) (r c : Nat), s.dev.rst.run = some (r, c) → s.dev.rst.por = 0 → s.dev.rst.applied = true → c = 3 → s.flg
    F.BOOT_STAT_DONE = false → Completes (.warmResetRelease) s fun t => t.dev.rst.run = none ∧ t.dev.rst.mp = s.dev.rst.mp ∧
    t.dev.boot = s.dev.boot ∧ t.dev.bus.locked = s.dev.bus.locked ∧ t.now = s.onTo s.dev.rst.due ∧ t.regs = s.regs ∧
    s.KeepsBytes t)

/-- R494, R496 to R498: what PWR registers ask for. Where the rules leave a corner open, the clauses rest on the model's readings
in notes/assumptions/63.md. -/
def Obligations.TheSupervisorRulesPower : Prop :=
  (∀ (s : State) (p : Port) (k : Fin 128), s.admits p R.PWR_CORERST (fieldWord F.PWR_CORERST_GO 1 ||| fieldWord
    F.PWR_CORERST_CORE k) = true → k.val < 68 → (match s.channelOf k with | some n => s.calm n || s.parked n | none => true) =
    true → (s.cst k).seq.resumed = none → (s.dev.stor.work.any fun (w : Work) => w.kind = WorkKind.refill && w.core = k.val) =
    false → Completes (.core p k) s fun t => t.cst k = ({ gateFrom := t.boundary t.now, tgCal := (s.cst k).tgCal } : CoreSt) ∧
    (∀ r : RegKey, ofCore k r = true → r.id ≠ .TG_DTMIN → r.id ≠ .FMT_MODE → t.reg r = r.cold) ∧ t.fld (F.FMT_MODE_CUR k) =
    (if (s.channelOf k).isSome then 1 else 0) ∧ t.fld (F.TG_DTMIN_SUB k) = s.fld (F.TG_DTMIN_SUB k) ∧ (∀ r : RegKey, ofCore k
    r = false → r.id ∉ [.IRQ_PEND, .IRQ_CNT, .PWR_CORERST] → t.reg r = s.reg r &&& r.id.mask) ∧ t.answeredOk p = true ∧
    s.KeepsBytes t) ∧
  (∀ (s : State) (p : Port) (k : Fin 128), s.admits p R.PWR_CORERST (fieldWord F.PWR_CORERST_GO 1 ||| fieldWord
    F.PWR_CORERST_CORE k) = true → k.val < 68 → (match s.channelOf k with | some n => s.calm n || s.parked n | none => true) =
    true → (s.cst k).seq.resumed = none → Completes (.core p k) s fun t => t.cst k =
    ({ gateFrom := t.boundary t.now, tgCal := (s.cst k).tgCal } : CoreSt) ∧ (t.dev.stor.work.any fun (w : Work) => w.kind =
    WorkKind.refill && w.core = k.val) = false ∧ (∀ r : RegKey, ofCore k r = true → r.id ∉ [.TG_DTMIN, .FMT_MODE, .PLAY_STAT]
    → t.reg r = r.cold) ∧ t.fld (F.FMT_MODE_CUR k) = (if (s.channelOf k).isSome then 1 else 0) ∧ t.fld (F.TG_DTMIN_SUB k) =
    s.fld (F.TG_DTMIN_SUB k) ∧ (∀ r : RegKey, ofCore k r = false → r.id ∉ [.PLAY_STAT, .IRQ_PEND, .IRQ_CNT, .PWR_CORERST,
    .PWR_LOST, .MEM_ECCCNT, .MEM_ECCA_LO, .MEM_ECCA_HI] → t.reg r = s.reg r &&& r.id.mask) ∧ t.answeredOk p = true ∧
    s.KeepsBytesBut t padBase 0x1001000) ∧
  (∀ (s : State) (p : Port) (k : Fin 128), s.admits p R.PWR_CORERST (fieldWord F.PWR_CORERST_GO 1 ||| fieldWord
    F.PWR_CORERST_CORE k) = true → k.val < 68 → (match s.channelOf k with | some n => s.calm n || s.parked n | none => true) =
    false → Completes (.core p k) s fun t => t.fld F.PWR_STAT_CREJ = 1 ∧ t.cst k = s.cst k ∧ t.answeredOk p = true ∧
    s.KeepsRegs t [.PWR_CORERST, .PWR_STAT] ∧ s.KeepsBytes t) ∧
  (∀ (s : State) (p : Port), s.admits p R.PWR_WDKICK 0xA5 = true → Completes (.wdkick p 0xA5) s fun t => t.fld
    F.PWR_WDCNT_REM = s.fld F.PWR_WDOG_TMO ∧ t.dev.rst.wdEnd = t.now + 2 * s.fld F.PWR_WDOG_TMO * (wdMs / 2) ∧ t.answeredOk p
    = true ∧ s.KeepsRegs t [.PWR_WDKICK, .PWR_WDCNT] ∧ s.KeepsBytes t) ∧
  (∀ (s : State) (p : Port) (key : Byte), s.admits p R.PWR_WDKICK (key.setWidth 32) = true → key.toNat ≠ 0xA5 → Completes
    (.wdkick p key) s fun t => t.fld F.PWR_STAT_WDBAD = 1 ∧ t.answeredOk p = true ∧ s.KeepsRegs t [.PWR_WDKICK, .PWR_STAT] ∧
    s.KeepsBytes t) ∧
  (∀ (s : State), s.awake = true → s.wdRuns = true → s.fld F.PWR_WDOG_TMO < 2 * s.fld F.PWR_WDCNT_REM → Completes (.wdwarn)
    s fun t => t.fld F.PWR_WDCNT_REM = s.fld F.PWR_WDOG_TMO / 2 ∧ t.dev.rst.wdEnd = t.now + s.fld F.PWR_WDOG_TMO * (wdMs / 2)
    ∧ t.fld F.PWR_STAT_WDWARN = 1 ∧ s.Raised t 255 = true ∧ s.KeepsRegs t [.PWR_STAT, .PWR_WDCNT, .IRQ_CNT, .IRQ_PEND] ∧
    s.KeepsBytes t) ∧
  (∀ (s : State) (p : Port) (i : Fin 2) (w : Word) (j : Fin 32), s.admitsAt p (setAlias (R.PWR_PARK i)) w = true →
    w.toNat.testBit j = true → (s.reg (R.PWR_PARK i)).toNat.testBit j = false → Completes (.parkSet p i w) s fun t => t.reg
    (R.PWR_PARK i) = s.reg (R.PWR_PARK i) ||| w ∧ (t.cst (s.core (32 * i.val + j.val))).drv.calm.isSome = true ∧ (s.calm (32 *
    i.val + j.val) = true → t.flg (bitField (fun w => R.PWR_PARKED w) (32 * i.val + j.val)) = true) ∧ t.answeredOk p = true ∧
    s.KeepsRegs t [.PWR_PARK, .PWR_PARKED, .SEQ_STATE] ∧ s.KeepsBytes t) ∧
  (∀ (s : State) (p : Port) (i : Fin 2) (w : Word) (j : Fin 32), s.admitsAt p (clearAlias (R.PWR_PARK i)) w = true →
    w.toNat.testBit j = true → (s.reg (R.PWR_PARK i)).toNat.testBit j = true → s.parked (32 * i.val + j.val) = true →
    Completes (.parkClear p i w) s fun t => t.reg (R.PWR_PARK i) = s.reg (R.PWR_PARK i) &&& ~~~w ∧ t.dev.rst.settle.contains
    ((32 * i.val + j.val), s.now) = true ∧ t.flg (bitField (fun w => R.PWR_PARKED w) (32 * i.val + j.val)) = true ∧
    t.answeredOk p = true ∧ s.KeepsRegs t [.PWR_PARK] ∧ s.KeepsBytes t) ∧
  (∀ (s : State) (n : Fin 64) (e : Nat × Nat), s.awake = true → s.valid = true → (s.dev.rst.settle.find? fun (x : Nat × Nat)
    => decide (x.1 = n.val)) = some e → Completes (.unparkSettled n) s fun t => t.flg (bitField (fun w => R.PWR_PARKED w)
    n.val) = false ∧ (t.dev.rst.settle.all fun (x : Nat × Nat) => decide (x.1 ≠ n.val)) = true ∧ s.KeepsRegs t [.PWR_PARKED] ∧
    s.KeepsBytes t) ∧
  (∀ (s : State) (p : Port), s.admits p R.PWR_CTL 1 = true → s.standing = true → Completes (.run p) s fun t => t.fld
    F.PWR_STATE_ST = 0 ∧ t.dev.rst.standby = none ∧ (s.flg F.LT_CTL_RESUME = true → t.dev.lt.standbyResume = true) ∧ t.now =
    s.onTo (s.boundary s.now) ∧ t.answeredOk p = true ∧ s.KeepsRegs t [.PWR_CTL, .PWR_STATE] ∧ s.KeepsBytes t) ∧
  (∀ (s : State) (p : Port), s.admits p R.PWR_CTL 1 = true → s.standing = false → Completes (.run p) s fun t => t.fld
    F.PWR_STATE_ST = s.fld F.PWR_STATE_ST ∧ t.answeredOk p = true ∧ s.KeepsRegs t [.PWR_CTL] ∧ s.KeepsBytes t) ∧
  (∀ (s : State) (p : Port), s.admits p R.PWR_CTL 2 = true → s.fld F.PWR_STATE_ST = 0 → Completes (.standby p) s fun t =>
    t.fld F.PWR_STATE_ST = 1 ∧ (∀ n < 64, t.seqSt (s.core n) = stFrozen) ∧ (channels.all fun n => s.parked n || (t.cst (s.core
    n)).drv.calm.isSome) = true ∧ t.dev.rst.standby = some (s.onTo (s.boundary s.now)) ∧ (channels.all fun n => (t.cst (s.core
    n)).win.gap) = true ∧ t.now = s.onTo (s.boundary s.now) ∧ t.answeredOk p = true ∧ s.KeepsRegs t [.PWR_CTL, .PWR_STATE,
    .SEQ_STATE] ∧ s.KeepsBytes t) ∧
  (∀ (s : State) (p : Port), s.admits p R.PWR_CTL 2 = true → s.fld F.PWR_STATE_ST ≠ 0 → Completes (.standby p) s fun t =>
    t.fld F.PWR_STAT_SREJ = 1 ∧ t.answeredOk p = true ∧ s.KeepsRegs t [.PWR_CTL, .PWR_STAT] ∧ s.KeepsBytes t) ∧
  (∀ (s : State) (b : Nat), s.awake = true → s.dev.rst.standby = some b → s.fld F.PWR_STATE_ST = 1 → Completes
    (.standbyEntered) s fun t => t.fld F.PWR_STATE_ST = 2 ∧ (channels.all fun n => t.calm n) = true ∧ t.dev.rst.standby = none
    ∧ t.now = s.onTo (b + 30072) ∧ s.KeepsRegs t [.FAIL_RDROP, .FAIL_STAT, .FMT_MODE, .LOOP_SET, .LOOP_STAT, .PWR_PARKED,
    .PWR_STATE, .RING_STAT, .MEM_ECCCNT, .MEM_ECCA_LO, .MEM_ECCA_HI, .PWR_LOST, .IRQ_PEND, .IRQ_CNT] ∧ s.KeepsBytesOff t
    ((padBase, 0x1001000) :: channels.flatMap fun n => [(failBase (s.core n), 0x20000), (chBlock n, 64)]))

/-- R499 to R502: hibernation. Where the rules leave a corner open, the clauses rest on the model's readings in
notes/assumptions/62.md, notes/assumptions/63.md, notes/assumptions/69.md and notes/assumptions/124.md. -/
def Obligations.HibernationKeepsWhatItMust : Prop :=
  (∀ (s : State) (p : Port), s.admits p R.PWR_CTL 3 = true → (channels.all fun n => s.parked n) = true → (s.storSt = 0 ∨
    s.storSt = 4 ∨ s.storSt = 6 ∨ s.storSt = 7) → (s.fld F.PWR_STATE_ST = 0 ∨ s.fld F.PWR_STATE_ST = 2) → Completes
    (.hibernate p) s fun t => t.fld F.PWR_STATE_ST = 3 ∧ t.dev.rst.hib = 1 ∧ (∀ i < 9, t.session i = none) ∧ t.answeredOk p =
    true ∧ s.KeepsRegs t [.PWR_CTL, .PWR_STATE, .SVC_STAT, .IRQ_CNT, .IRQ_PEND] ∧ s.KeepsBytes t) ∧
  (∀ (s : State) (p : Port), s.admits p R.PWR_CTL 3 = true → ((channels.all fun n => s.parked n) = false ∨ ¬(s.storSt = 0 ∨
    s.storSt = 4 ∨ s.storSt = 6 ∨ s.storSt = 7) ∨ ¬(s.fld F.PWR_STATE_ST = 0 ∨ s.fld F.PWR_STATE_ST = 2)) → Completes
    (.hibernate p) s fun t => t.fld F.PWR_STAT_HREJ = 1 ∧ t.dev.rst = s.dev.rst ∧ t.answeredOk p = true ∧ s.KeepsRegs t
    [.PWR_CTL, .PWR_STAT] ∧ s.KeepsBytes t) ∧
  (∀ (s : State), s.dev.rst.hib = 1 → Memory.wf s.losses s.mem = true → Completes (.hibernatePacketStop) s fun t => t.num
    retBase 4 = 0x7E7A0001 ∧ t.num (retBase + 4) 2 = 1 ∧ t.num (retBase + 6) 2 = s.devId % 65536 ∧ t.num (retBase + 8) 8 =
    s.now % 2 ^ 64 ∧ t.dev.rst.hib = 2 ∧ (s.holdover = false → s.KeepsBytesBut t retBase 16) ∧ (s.holdover = true → ∀ n < 64,
    (t.fe n).posAsync = 0 ∧ (t.fe n).negAsync = 0 ∧ (t.fe n).holdCharge = true) ∧ s.KeepsRegs t [.FPKT_HOLDCNT, .FPKT_STAT,
    .MEM_ECCCNT, .MEM_ECCA_LO, .MEM_ECCA_HI, .PWR_LOST, .IRQ_PEND, .IRQ_CNT] ∧ s.KeepsBytesOff t ((retBase, 16) ::
    channels.map fun n => (chBlock n, 64))) ∧
  (∀ (s : State), s.dev.rst.hib = 2 → s.dev.rst.wakeDue = false → s.dev.rst.pinDue = false → Completes (.hibernateEntered) s
    fun t => t.dev.rst.hib = 3 ∧ t.dev.pins.hiboutN = false ∧ t.dev.irq.stopped = true ∧ t.dev.rings = [] ∧ t.fld
    F.PWR_LOST_SEG = 1 ∧ t.fld F.PWR_LOST_CAP = 1 ∧ t.fld F.PWR_LOST_FAIL = 1 ∧ t.fld F.PWR_LOST_SCR = 1 ∧ t.fld F.PWR_LOST_LT
    = 1 ∧ t.dev.boot.fuses = s.dev.boot.fuses ∧ (∀ k : RegKey, k.id.alwaysOn = false → k.id ≠ .CAL_SUSPECT → t.reg k = k.cold)
    ∧ (∀ k : RegKey, k.id.alwaysOn = true ∨ k.id = .CAL_SUSPECT → k.id ≠ .PWR_LOST → t.reg k = s.reg k &&& k.id.mask) ∧ (∀ a,
    inRetention a = true ∨ inFlash a = true → t.byte a = s.byte a)) ∧
  (∀ (s : State), s.dev.rst.hib = 2 → (s.dev.rst.wakeDue = true ∨ s.dev.rst.pinDue = true) → Completes (.hibernateEntered) s
    fun t => t.dev.rst.hib = 4 ∧ t.dev.rst.wakePin = s.dev.rst.pinDue ∧ t.dev.pins.hiboutN = true ∧ t.fld F.PWR_HIBDUR_MS = 0
    ∧ (∀ k : RegKey, k.id.alwaysOn = false → k.id ≠ .CAL_SUSPECT → t.reg k = k.cold) ∧ (∀ k : RegKey, k.id.alwaysOn = true ∨
    k.id = .CAL_SUSPECT → k.id ∉ [.PWR_LOST, .PWR_HIBDUR] → t.reg k = s.reg k &&& k.id.mask) ∧ (∀ a, inRetention a = true ∨
    inFlash a = true → t.byte a = s.byte a)) ∧
  (∀ (s : State) (c : WakeCause) (ms : Nat), s.dev.rst.hib = 3 → s.wakes c = true → c ≠ WakeCause.timer → Completes
    (.hibernateWake c ms) s fun t => t.fld F.PWR_HIBDUR_MS = min ms 0xFFFFFFFF ∧ t.dev.pins.hiboutN = true ∧ t.dev.rst.hib = 4
    ∧ t.dev.rst.wakePin = decide (c = WakeCause.resetN) ∧ s.KeepsRegs t [.PWR_HIBDUR] ∧ s.KeepsBytes t) ∧
  (∀ (s : State) (ms : Nat), s.dev.rst.hib = 3 → s.wakes WakeCause.timer = true → Completes (.hibernateWake WakeCause.timer
    ms) s fun t => t.fld F.PWR_HIBDUR_MS = min (1000 * s.fld F.PWR_HIBTMR_S) 0xFFFFFFFF ∧ t.dev.pins.hiboutN = true ∧
    t.dev.rst.hib = 4 ∧ s.KeepsRegs t [.PWR_HIBDUR] ∧ s.KeepsBytes t) ∧
  (∀ (s : State) (c : WakeCause) (ms : Nat), (s.dev.rst.hib ≠ 3 ∨ s.wakes c = false) → Completes (.hibernateWake c ms) s fun
    t => t = s) ∧
  (∀ (s : State), s.dev.rst.hib = 4 → Completes (.wakeRailsReady) s fun t => t.dev.rst = { s.dev.rst with hib := 5 } ∧
    t.regs = s.regs ∧ s.KeepsBytes t) ∧
  (∀ (s : State), s.dev.rst.hib = 5 → s.dev.rst.run.all (fun (x : Nat × Nat) => decide (1 < x.1)) = true → Completes
    (.hibwake) s fun t => t.dev.rst.run = some (1, if s.dev.rst.wakePin || s.dev.rst.pinDue then 1 else 6) ∧ t.dev.rst.wakePin
    = false ∧ t.dev.rst.hib = 0 ∧ t.dev.rst.pinDue = false ∧ t.fld F.PWR_STATE_ST = 0 ∧ s.KeepsRegs t [.PWR_STATE, .SEQ_STATE,
    .SVC_STAT, .IRQ_CNT, .IRQ_PEND] ∧ s.KeepsBytes t)

/-- R520 to R522, R524: monitors. How the fraction of a life step is rounded at other temperatures is open, and no clause states
it. Where the rules leave a corner open, the clauses rest on the model's readings in notes/assumptions/66.md,
notes/assumptions/67.md and notes/assumptions/127.md. -/
def Obligations.MonitorsAreSampled : Prop :=
  (∀ (s : State) (temps : List (Option (BitVec 16))) (rails : List (BitVec 16)) (i : Fin 18) (w : BitVec 16), s.awake = true
    → temps.getD i none = some w → Completes (.monitorSample temps rails) s fun t => t.fld (F.MON_TEMP_T i) = w.toNat ∧ t.fld
    (F.MON_TEMP_VALID i) = (if -5500 ≤ w.toInt ∧ w.toInt ≤ 15000 then 1 else 0) ∧ (t.flg (F.MON_TEMP_VALID i) = true → s.tcrit
    ≤ w.toInt → t.flg (liveField 226) = true ∧ ∀ n < 64, (t.cst (s.core n)).drv.calm.isSome = true) ∧ (t.flg (F.MON_TEMP_VALID
    i) = true → s.twarn ≤ w.toInt → t.flg (liveField 225) = true) ∧ s.KeepsRegs t [.MON_RAIL, .MON_TEMP, .SEQ_STATE,
    .CAL_CH_CMPA, .CAL_CH_CMPB, .CAL_CH_LOOPT, .CAL_CH_MISC, .CAL_CH_RAMP, .CAL_CH_TST, .CAL_CH_TUSED, .FPKT_QP_HI,
    .FPKT_QP_LO, .FPKT_VP, .PATH_CTL, .PATH_STAT, .SCALE_SHUNT, .VREF_NV, .IRQ_LIVE, .MEM_ECCCNT, .MEM_ECCA_LO, .MEM_ECCA_HI,
    .PWR_LOST, .IRQ_PEND, .IRQ_CNT] ∧ s.KeepsBytesBut t (retBase + 0x100) 0x1000) ∧
  (∀ (s : State) (temps : List (Option (BitVec 16))) (rails : List (BitVec 16)) (i : Fin 18), s.awake = true → temps.getD i
    none = none → Completes (.monitorSample temps rails) s fun t => t.fld (F.MON_TEMP_T i) = s.fld (F.MON_TEMP_T i) ∧ t.fld
    (F.MON_TEMP_VALID i) = 0 ∧ t.flg (liveField 227) = true ∧ s.KeepsRegs t [.MON_RAIL, .MON_TEMP, .SEQ_STATE, .CAL_CH_CMPA,
    .CAL_CH_CMPB, .CAL_CH_LOOPT, .CAL_CH_MISC, .CAL_CH_RAMP, .CAL_CH_TST, .CAL_CH_TUSED, .FPKT_QP_HI, .FPKT_QP_LO, .FPKT_VP,
    .PATH_CTL, .PATH_STAT, .SCALE_SHUNT, .VREF_NV, .IRQ_LIVE, .MEM_ECCCNT, .MEM_ECCA_LO, .MEM_ECCA_HI, .PWR_LOST, .IRQ_PEND,
    .IRQ_CNT] ∧ s.KeepsBytesBut t (retBase + 0x100) 0x1000) ∧
  (∀ (s : State) (temps : List (Option (BitVec 16))) (rails : List (BitVec 16)) (j : Fin 7) (v : BitVec 16), s.awake = true
    → rails[j.val]? = some v → Completes (.monitorSample temps rails) s fun t => t.fld (F.MON_RAIL_V j) = v.toNat ∧ (v.toNat <
    s.fld (F.MON_RWIN_LO j) ∨ s.fld (F.MON_RWIN_HI j) < v.toNat → t.flg (liveField 228) = true) ∧ s.KeepsRegs t [.MON_RAIL,
    .MON_TEMP, .SEQ_STATE, .CAL_CH_CMPA, .CAL_CH_CMPB, .CAL_CH_LOOPT, .CAL_CH_MISC, .CAL_CH_RAMP, .CAL_CH_TST, .CAL_CH_TUSED,
    .FPKT_QP_HI, .FPKT_QP_LO, .FPKT_VP, .PATH_CTL, .PATH_STAT, .SCALE_SHUNT, .VREF_NV, .IRQ_LIVE, .MEM_ECCCNT, .MEM_ECCA_LO,
    .MEM_ECCA_HI, .PWR_LOST, .IRQ_PEND, .IRQ_CNT] ∧ s.KeepsBytesBut t (retBase + 0x100) 0x1000) ∧
  (∀ (s : State) (temps : List (Option (BitVec 16))) (rails : List (BitVec 16)), s.awake = true → 7 < rails.length →
    Completes (.monitorSample temps rails) s fun t => ((rails.drop 7).any fun w => decide (w.toNat = t.fld (F.MON_RAIL_V 7)))
    = true ∧ ((rails.drop 7).all fun w => decide (s.offCentre w.toNat ≤ s.offCentre (t.fld (F.MON_RAIL_V 7)))) = true ∧
    (s.offCentre (t.fld (F.MON_RAIL_V 7)) > s.fld (F.MON_RWIN_HI 7) - s.fld (F.MON_RWIN_LO 7) → s.fld (F.MON_RWIN_LO 7) ≤
    s.fld (F.MON_RWIN_HI 7) → t.flg (liveField 228) = true) ∧ s.KeepsRegs t [.MON_RAIL, .MON_TEMP, .SEQ_STATE, .CAL_CH_CMPA,
    .CAL_CH_CMPB, .CAL_CH_LOOPT, .CAL_CH_MISC, .CAL_CH_RAMP, .CAL_CH_TST, .CAL_CH_TUSED, .FPKT_QP_HI, .FPKT_QP_LO, .FPKT_VP,
    .PATH_CTL, .PATH_STAT, .SCALE_SHUNT, .VREF_NV, .IRQ_LIVE, .MEM_ECCCNT, .MEM_ECCA_LO, .MEM_ECCA_HI, .PWR_LOST, .IRQ_PEND,
    .IRQ_CNT] ∧ s.KeepsBytesBut t (retBase + 0x100) 0x1000) ∧
  (∀ (s : State) (counts : List (BitVec 24)) (k : Fin 9) (c : BitVec 24), s.awake = true → s.mp1 = true → counts[k.val]? =
    some c → s.calHeader = false → Completes (.agingMeasurement counts) s fun t => t.fld (F.MON_PROC_N k) = c.toNat ∧ t.fld
    (F.MON_AGE_PPM k) = 0x80000000 ∧ s.KeepsRegs t [.MON_AGE, .MON_LIFE_HI, .MON_LIFE_LO, .MON_PROC, .IRQ_LIVE, .MEM_ECCCNT,
    .MEM_ECCA_LO, .MEM_ECCA_HI, .PWR_LOST, .IRQ_PEND, .IRQ_CNT] ∧ s.KeepsBytes t) ∧
  (∀ (s : State) (counts : List (BitVec 24)) (k : Fin 9) (c : BitVec 24) (z : Int), s.awake = true → s.mp1 = true →
    counts[k.val]? = some c → s.calHeader = true → s.ageOf k c.toNat = some z → -(2 ^ 31) ≤ z → z < 2 ^ 31 → Completes
    (.agingMeasurement counts) s fun t => t.fld (F.MON_PROC_N k) = c.toNat ∧ t.sfld (F.MON_AGE_PPM k) = z ∧ s.KeepsRegs t
    [.MON_AGE, .MON_LIFE_HI, .MON_LIFE_LO, .MON_PROC, .IRQ_LIVE, .MEM_ECCCNT, .MEM_ECCA_LO, .MEM_ECCA_HI, .PWR_LOST,
    .IRQ_PEND, .IRQ_CNT] ∧ s.KeepsBytes t) ∧
  (∀ (s : State) (counts : List (BitVec 24)), s.awake = true → s.mp1 = true → (s.sensors.map s.temp).foldl max (-100000) =
    8500 → Completes (.agingMeasurement counts) s fun t => t.reg64 R.MON_LIFE_LO R.MON_LIFE_HI = (s.reg64 R.MON_LIFE_LO
    R.MON_LIFE_HI + 60) % 2 ^ 64 ∧ s.KeepsRegs t [.MON_AGE, .MON_LIFE_HI, .MON_LIFE_LO, .MON_PROC, .IRQ_LIVE, .MEM_ECCCNT,
    .MEM_ECCA_LO, .MEM_ECCA_HI, .PWR_LOST, .IRQ_PEND, .IRQ_CNT] ∧ s.KeepsBytes t)

/-- R511 to R514: calibration. Where the rules leave a corner open, the clauses rest on the model's readings in
notes/assumptions/65.md and notes/assumptions/107.md. -/
def Obligations.TrimsFollowTemperature : Prop :=
  (∀ (s : State) (p : Port) (n : Fin 64) (o : Nat) (i : Fin 32), s.admits p R.CAL_CTL (fieldPut (s.reg R.CAL_CTL)
    F.CAL_CTL_FORCE.lo F.CAL_CTL_FORCE.w 1) = true → s.flg F.CAL_CTL_AUTO = true → s.mp1 = true → s.calChannels = [(n.val, o)]
    → s.flg (F.CAL_CH_TST_NOSET n) = false → s.sensorFor n = some i.val → s.cal (o + 1) 1 = 1 → s.cal (o + 16) 1 = 8 → s.cal
    (o + 17) 1 = 1 → Completes (.force p) s fun t => t.sfld (F.CAL_CH_CMPA_V n) = s.calZ (o + 24) 4 ∧ t.sfld (F.CAL_CH_TUSED_T
    n) = s.temp i ∧ t.fld (F.CAL_CH_TUSED_SENS n) = i ∧ t.fld (F.CAL_CH_TUSED_VALID n) = 1 ∧ t.fld (F.CAL_CH_TST_PEND n) = 1 ∧
    ((t.fe n).trims.any fun (x : TrimSet) => decide (x.cmpa = t.reg (R.CAL_CH_CMPA n) ∧ x.at_ = s.now)) = true ∧ t.answeredOk
    p = true ∧ s.KeepsRegs t [.CAL_CTL, .CAL_CH_CMPA, .CAL_CH_CMPB, .CAL_CH_LOOPT, .CAL_CH_MISC, .CAL_CH_RAMP, .CAL_CH_TST,
    .CAL_CH_TUSED, .FPKT_QP_HI, .FPKT_QP_LO, .FPKT_VP, .PATH_CTL, .PATH_STAT, .SCALE_SHUNT, .VREF_NV, .IRQ_LIVE, .MEM_ECCCNT,
    .MEM_ECCA_LO, .MEM_ECCA_HI, .PWR_LOST, .IRQ_PEND, .IRQ_CNT] ∧ s.KeepsBytes t) ∧
  (∀ (s : State) (p : Port), s.admits p R.CAL_CTL (fieldPut (s.reg R.CAL_CTL) F.CAL_CTL_FORCE.lo F.CAL_CTL_FORCE.w 1) = true
    → (s.flg F.CAL_CTL_AUTO = false ∨ s.mp1 = false) → Completes (.force p) s fun t => t.answeredOk p = true ∧ s.KeepsRegs t
    [.CAL_CTL] ∧ s.KeepsBytes t) ∧
  (∀ (s : State) (p : Port) (n : Fin 64), s.admits p (R.CAL_CH_TST n) (fieldWord (F.CAL_CH_TST_APPLY n) 1) = true →
    Completes (.apply p n) s fun t => (t.fe n).trims = some
    { at_ := s.now, loopt := s.reg (R.CAL_CH_LOOPT n), misc := s.reg (R.CAL_CH_MISC n), cmpa := s.reg (R.CAL_CH_CMPA n), cmpb := s.reg (R.CAL_CH_CMPB n), ramp := s.reg (R.CAL_CH_RAMP n) : TrimSet }
    ∧ t.fld (F.CAL_CH_TST_PEND n) = 1 ∧ t.answeredOk p = true ∧ s.KeepsRegs t [.CAL_CH_TST, .IRQ_CNT, .IRQ_PEND, .IRQ_LIVE] ∧
    s.KeepsBytes t)

/-- R527, R528: remap. That a core number above 67 counts as NOTSPARE, and what counts as a remap that runs, is the model's
reading. Where the rules leave a corner open, the clauses rest on the model's readings in notes/assumptions/68.md and
notes/assumptions/70.md. -/
def Obligations.ARemapMovesAChannelToASpareCore : Prop :=
  (∀ (s : State) (p : Port) (n : Fin 64) (k : Fin 128) (beat : BitVec 64), s.admits p R.CAL_RMB_LO (BitVec.ofNat 32
    beat.toNat) = true → s.admits p R.CAL_RMB_HI (BitVec.ofNat 32 (beat.toNat / 2 ^ 32)) = true → s.admits p R.CAL_RMAP
    (fieldWord F.CAL_RMAP_GO 1 ||| fieldWord F.CAL_RMAP_CORE k ||| fieldWord F.CAL_RMAP_CH n) = true → s.remapCode n k
    beat.toNat = 0 → Completes (.remapRequest p n k beat) s fun t => t.fld F.CAL_RMST_ST = 1 ∧ t.fld F.CAL_RMST_OUT = 0 ∧
    t.dev.xbar.remap = some (RemapSt.mk n.val (s.core n) k.val beat.toNat false false) ∧ t.answeredOk p = true ∧ s.KeepsRegs t
    [.CAL_RMAP, .CAL_RMB_LO, .CAL_RMB_HI, .CAL_RMST] ∧ s.KeepsBytes t) ∧
  (∀ (s : State) (p : Port) (n : Fin 64) (k : Fin 128) (beat : BitVec 64), s.admits p R.CAL_RMB_LO (BitVec.ofNat 32
    beat.toNat) = true → s.admits p R.CAL_RMB_HI (BitVec.ofNat 32 (beat.toNat / 2 ^ 32)) = true → s.admits p R.CAL_RMAP
    (fieldWord F.CAL_RMAP_GO 1 ||| fieldWord F.CAL_RMAP_CORE k ||| fieldWord F.CAL_RMAP_CH n) = true → s.remapCode n k
    beat.toNat ≠ 0 → s.dev.xbar.remap = none → Completes (.remapRequest p n k beat) s fun t => t.fld F.CAL_RMST_ST = 2 ∧ t.fld
    F.CAL_RMST_OUT = s.remapCode n k beat.toNat ∧ t.dev.xbar = s.dev.xbar ∧ t.answeredOk p = true ∧ s.KeepsRegs t [.CAL_RMAP,
    .CAL_RMB_LO, .CAL_RMB_HI, .CAL_RMST] ∧ s.KeepsBytes t) ∧
  (∀ (s : State) (p : Port) (n : Fin 64) (k : Fin 128) (beat : BitVec 64), s.admits p R.CAL_RMB_LO (BitVec.ofNat 32
    beat.toNat) = true → s.admits p R.CAL_RMB_HI (BitVec.ofNat 32 (beat.toNat / 2 ^ 32)) = true → s.admits p R.CAL_RMAP
    (fieldWord F.CAL_RMAP_GO 1 ||| fieldWord F.CAL_RMAP_CORE k ||| fieldWord F.CAL_RMAP_CH n) = true → s.repairing = false →
    s.flg F.XBAR_STATUS_PENDING = false → ((s.channelOf k).isSome = true ∨ s.suspect k = true) → Completes (.remapRequest p n
    k beat) s fun t => t.fld F.CAL_RMST_ST = 2 ∧ t.fld F.CAL_RMST_OUT = 2 ∧ t.answeredOk p = true ∧ s.KeepsRegs t [.CAL_RMAP,
    .CAL_RMB_LO, .CAL_RMB_HI, .CAL_RMST] ∧ s.KeepsBytes t) ∧
  (∀ (s : State) (p : Port) (n : Fin 64) (k : Fin 128) (beat : BitVec 64), s.admits p R.CAL_RMB_LO (BitVec.ofNat 32
    beat.toNat) = true → s.admits p R.CAL_RMB_HI (BitVec.ofNat 32 (beat.toNat / 2 ^ 32)) = true → s.admits p R.CAL_RMAP
    (fieldWord F.CAL_RMAP_GO 1 ||| fieldWord F.CAL_RMAP_CORE k ||| fieldWord F.CAL_RMAP_CH n) = true → s.repairing = false →
    s.flg F.XBAR_STATUS_PENDING = false → k.val < 68 → s.channelOf k = none → s.suspect k = false → beat.toNat < s.beatNow +
    16 → Completes (.remapRequest p n k beat) s fun t => t.fld F.CAL_RMST_ST = 2 ∧ t.fld F.CAL_RMST_OUT = 3 ∧ t.answeredOk p =
    true ∧ s.KeepsRegs t [.CAL_RMAP, .CAL_RMB_LO, .CAL_RMB_HI, .CAL_RMST] ∧ s.KeepsBytes t) ∧
  (∀ (s : State) (r : RemapSt), s.awake = true → s.frozen 2 = false → s.dev.xbar.remap = some r → r.copied = false →
    s.beatNow + 4 ≤ r.beat → r.ch < 64 → r.old < 68 → r.new < 68 → s.valid = true → s.flg F.XBAR_STATUS_PENDING = false →
    hasRepeat (channels.map fun n => if n = r.ch then r.new else s.core n) = false → s.gangBusy = false → Completes
    (.remapCopyDone) s fun t => (∀ n < 64, t.fld (F.XBAR_MAP_PEND n) = if n = r.ch then r.new else s.core n) ∧ t.fld
    F.XBAR_STATUS_PENDING = 1 ∧ t.dev.xbar.beat = r.beat ∧ t.dev.xbar.remap = some { r with copied := true } ∧ t.reg
    (R.CONV_CFG r.new) = s.reg (R.CONV_CFG r.old) &&& (R.CONV_CFG 0).id.mask ∧ t.reg (R.CAP_CFG r.new) = s.reg (R.CAP_CFG
    r.old) &&& (R.CAP_CFG 0).id.mask ∧ (∀ c < 16, t.reg (R.EVJ_E r.new c) = s.reg (R.EVJ_E r.old c) &&& (R.EVJ_E 0 0).id.mask)
    ∧ t.reg (R.TG_PERIOD r.new) = s.reg (R.TG_PERIOD r.old) &&& (R.TG_PERIOD 0).id.mask ∧ s.KeepsRegsAt t r.new [.TG_PROF,
    .FMT_MODE, .FMT_AUX, .FMT_VEC, .LOOP_VLIMREQ, .LOOP_TAPERREQ, .CONV_PROF, .CONV_CTL, .CONV_WIN, .CONV_OFS, .CONV_CFG,
    .PKT_STREAM, .PLAY_HOLD, .CAP_PROF, .CAP_CFG, .CAP_POST, .CAP_OPT, .FAIL_CFG, .SEQ_ANCHOR_LO, .SEQ_ANCHOR_HI,
    .SEQ_LTALM_LO, .SEQ_LTALM_HI, .EVM_GATE, .EVJ_E, .EVM_SRC, .EVM_CFG, .EVM_RWIN, .EVM_TMO_LO, .EVM_TMO_HI, .MASK_CFG,
    .MASK_ADDR, .MASK_NBP, .MASK_APPR, .MASK_ORG_LO, .MASK_ORG_HI, .MASK_SEL, .MASK_STATE, .TG_PHASE, .TG_PERIOD, .TG_DT,
    .TG_PULSE, .TG_DMAX, .FMT_OCLIM, .FMT_BURST, .PLAY_SLOT, .PLAY_READY, .PLAY_FILLING, .PLAY_STAT, .PLAY_VSTAT] [.XBAR_MAP,
    .XBAR_STATUS, .MEM_ECCCNT, .MEM_ECCA_LO, .MEM_ECCA_HI, .PWR_LOST, .IRQ_PEND, .IRQ_CNT] ∧ s.KeepsBytesOff t [((segBase
    r.new), 0x80000), ((failBase r.new), 0x20000)]) ∧
  (∀ (s : State) (r : RemapSt), s.awake = true → s.frozen 2 = false → s.dev.xbar.remap = some r → r.copied = false → r.beat
    ≤ s.beatNow + 4 → Completes (.remapLate) s fun t => t.fld F.CAL_RMST_ST = 2 ∧ t.fld F.CAL_RMST_OUT = 6 ∧ t.dev.xbar.remap
    = none ∧ s.KeepsRegs t [.CAL_RMST] ∧ s.KeepsBytes t) ∧
  (∀ (s : State) (r : RemapSt), s.awake = true → s.frozen 2 = false → s.dev.xbar.remap = some r → r.copied = true →
    r.stopped = false → s.calm r.ch = false → s.parked r.ch = false → s.core r.ch = r.old → s.channelOf r.old = some r.ch →
    s.leader r.ch = r.ch → Completes (.remapStop) s fun t => t.dev.xbar.remap = some { r with stopped := true } ∧ (t.cst
    r.old).drv.calm.isSome = true ∧ (s.seqSt r.old = stRun → t.seqSt r.old = stHeld) ∧ s.KeepsRegs t [.SEQ_STATE] ∧
    s.KeepsBytes t) ∧
  (∀ (s : State) (r : RemapSt), s.awake = true → s.frozen 2 = false → s.dev.xbar.remap = some r → r.copied = true → s.core
    r.ch = r.old → s.seqSt r.old = stHeld → r.old ≠ r.new → Completes (.remapContextCopy) s fun t => (∀ i < 64, t.reg
    (R.SEQ_CTX r.new i) = BitVec.ofNat 32 ((s.ctxWords r.old).getD i 0)) ∧ (t.cst r.new).ctxWritten = true ∧ s.KeepsRegsAt t
    r.new [.PLAY_SLOT, .PLAY_READY, .PLAY_FILLING, .PLAY_STAT, .PLAY_VSTAT, .SEQ_CTX] [.MEM_ECCCNT, .MEM_ECCA_LO,
    .MEM_ECCA_HI, .PWR_LOST, .IRQ_PEND, .IRQ_CNT] ∧ s.KeepsBytesOff t [((segBase r.new), 0x80000), ((failBase r.new),
    0x20000)]) ∧
  (∀ (s : State) (r : RemapSt), s.awake = true → s.frozen 2 = false → s.dev.xbar.remap = some r → r.copied = true → s.core
    r.ch = r.new → r.old < 68 → Completes (.remapResume) s fun t => t.cst r.old =
    ({ gateFrom := t.boundary t.now, tgCal := (s.cst r.old).tgCal } : CoreSt) ∧ (∀ x : RegKey, ofCore r.old x = true → x.id ∉
    [.TG_DTMIN, .FMT_MODE, .PLAY_STAT, .CTL_STAT, .SEQ_STATE, .SEQ_FADDR, .SEQ_STAT] → t.reg x = x.cold) ∧ (∀ x : RegKey,
    ofCore r.old x = false → x.id ∉ [.PLAY_STAT, .CTL_STAT, .SEQ_STATE, .SEQ_FADDR, .SEQ_STAT, .CAL_SUSPECT, .CAL_RMST,
    .IRQ_PEND, .IRQ_CNT, .PWR_LOST, .MEM_ECCCNT, .MEM_ECCA_LO, .MEM_ECCA_HI] → t.reg x = s.reg x &&& x.id.mask) ∧ t.suspect
    r.old = true ∧ t.dev.xbar.remap = none ∧ t.fld F.CAL_RMST_ST = 2 ∧ t.fld F.CAL_RMST_OUT = 0 ∧ s.KeepsBytesBut t padBase
    0x1001000)

/-- R529 to R531: hand-off. Where the rules leave a corner open, the clauses rest on the model's readings in
notes/assumptions/69.md and notes/assumptions/70.md. -/
def Obligations.AHandOffMovesTheCharge : Prop :=
  (∀ (s : State) (p : Port) (beat : BitVec 64), s.admits p R.CAL_HB_LO (BitVec.ofNat 32 beat.toNat) = true → s.admits p
    R.CAL_HB_HI (BitVec.ofNat 32 (beat.toNat / 2 ^ 32)) = true → s.admits p R.CAL_HCTL 1 = true → s.cutCode beat.toNat = 0 →
    Completes (.cut p beat) s fun t => t.fld F.CAL_HSTAT_ST = 1 ∧ t.fld F.CAL_HSTAT_OUT = 0 ∧ t.dev.xbar.handoff = some (1,
    beat.toNat) ∧ (∀ n < 64, (s.fe n).clear = none → (t.fe n).clear = some beat.toNat) ∧ t.answeredOk p = true ∧ s.KeepsRegs t
    [.CAL_HB_LO, .CAL_HB_HI, .CAL_HCTL, .CAL_HSTAT, .FPKT_STAT] ∧ s.KeepsBytes t) ∧
  (∀ (s : State) (p : Port) (beat : BitVec 64), s.admits p R.CAL_HB_LO (BitVec.ofNat 32 beat.toNat) = true → s.admits p
    R.CAL_HB_HI (BitVec.ofNat 32 (beat.toNat / 2 ^ 32)) = true → s.admits p R.CAL_HCTL 1 = true → s.cutCode beat.toNat ≠ 0 →
    s.dev.xbar.handoff = none → Completes (.cut p beat) s fun t => t.fld F.CAL_HSTAT_ST = 5 ∧ t.fld F.CAL_HSTAT_OUT =
    s.cutCode beat.toNat ∧ t.dev.xbar = s.dev.xbar ∧ t.answeredOk p = true ∧ s.KeepsRegs t [.CAL_HB_LO, .CAL_HB_HI, .CAL_HCTL,
    .CAL_HSTAT] ∧ s.KeepsBytes t) ∧
  (∀ (s : State) (b : Nat), s.awake = true → s.valid = true → s.frozen 2 = false → s.dev.xbar.handoff = some (1, b) →
    Memory.wf s.losses s.mem = true → Completes (.handoffPackageBuild) s fun t => t.fld F.CAL_HSTAT_ST = 2 ∧ t.fld
    F.CAL_HSTAT_OUT = 0 ∧ t.dev.xbar.handoff = none ∧ t.packageOk = true ∧ t.num (handoffBase + 8) 8 = b % 2 ^ 64 ∧ t.num
    (handoffBase + 6) 2 = s.devId ∧ t.fld F.CAL_HSTAT_DEV = s.devId % 4096 ∧ t.now = s.onTo ((b + 1) * (s.reg
    R.LT_BEATCYC).toNat) ∧ s.KeepsRegs t [.CAL_HSTAT] ∧ s.KeepsBytesBut t handoffBase 2112) ∧
  (∀ (s : State) (p : Port), s.admits p R.CAL_HCTL 2 = true → Completes (.rxopen p) s fun t => t.fld F.CAL_HSTAT_ST = 3 ∧
    t.fld F.CAL_HSTAT_OUT = 0 ∧ t.fld F.PEER_CFG_HOFF_RX = 1 ∧ (∀ a < 0x8000, t.byte (handoffBase + a) = 0) ∧ t.answeredOk p =
    true ∧ s.KeepsRegs t [.CAL_HCTL, .CAL_HSTAT, .PEER_CFG] ∧ s.KeepsBytesBut t handoffBase 0x8000) ∧
  (∀ (s : State) (p : Port) (beat : BitVec 64), s.admits p R.CAL_HB_LO (BitVec.ofNat 32 beat.toNat) = true → s.admits p
    R.CAL_HB_HI (BitVec.ofNat 32 (beat.toNat / 2 ^ 32)) = true → s.admits p R.CAL_HCTL 3 = true → s.importCode beat.toNat = 0
    → Completes (.import_ p beat) s fun t => t.fld F.CAL_HSTAT_ST = 4 ∧ t.fld F.CAL_HSTAT_OUT = 0 ∧ t.dev.xbar.handoff = some
    (3, beat.toNat) ∧ t.answeredOk p = true ∧ s.KeepsRegs t [.CAL_HB_LO, .CAL_HB_HI, .CAL_HCTL, .CAL_HSTAT] ∧ s.KeepsBytes t) ∧
  (∀ (s : State) (p : Port) (beat : BitVec 64), s.admits p R.CAL_HB_LO (BitVec.ofNat 32 beat.toNat) = true → s.admits p
    R.CAL_HB_HI (BitVec.ofNat 32 (beat.toNat / 2 ^ 32)) = true → s.admits p R.CAL_HCTL 3 = true → s.importCode beat.toNat ≠ 0
    → s.dev.xbar.handoff = none → Completes (.import_ p beat) s fun t => t.fld F.CAL_HSTAT_ST = 5 ∧ t.fld F.CAL_HSTAT_OUT =
    s.importCode beat.toNat ∧ t.dev.xbar = s.dev.xbar ∧ t.answeredOk p = true ∧ s.KeepsRegs t [.CAL_HB_LO, .CAL_HB_HI,
    .CAL_HCTL, .CAL_HSTAT] ∧ s.KeepsBytes t) ∧
  (∀ (s : State) (b : Nat) (n : Fin 64), s.awake = true → s.valid = true → s.dev.xbar.handoff = some (3, b) → Memory.wf
    s.losses s.mem = true → s.entryValid n = true → Completes (.handoffImportApply) s fun t => t.fld F.CAL_HSTAT_ST = 5 ∧
    t.fld F.CAL_HSTAT_OUT = 0 ∧ t.dev.xbar.handoff = none ∧ t.fld F.PEER_CFG_HOFF_RX = 0 ∧ t.failCount n = s.num (entryAt n +
    8) 4 ∧ t.failPtr n = s.num (entryAt n + 12) 2 % 4096 ∧ t.num (chBlock n + 12) 1 = s.num (entryAt n + 14) 1 / 2 % 4 ∧
    s.KeepsRegs t [.CAL_HSTAT, .FPKT_LAST_HI, .FPKT_LAST_LO, .FPKT_STAT, .PEER_CFG, .MEM_ECCCNT, .MEM_ECCA_LO, .MEM_ECCA_HI,
    .PWR_LOST, .IRQ_PEND, .IRQ_CNT] ∧ s.KeepsBytesBut t (retBase + 0x100) 0x1000) ∧
  (∀ (s : State) (p : Port) (o b : Nat), s.admits p R.CAL_HCTL 4 = true → s.dev.xbar.handoff = some (o, b) → s.beatNow < b →
    Completes (.abort p) s fun t => t.fld F.CAL_HSTAT_ST = 5 ∧ t.fld F.CAL_HSTAT_OUT = 6 ∧ t.dev.xbar.handoff = none ∧
    t.answeredOk p = true ∧ s.KeepsRegs t [.CAL_HCTL, .CAL_HSTAT] ∧ s.KeepsBytes t) ∧
  (∀ (s : State) (p : Port), s.admits p R.CAL_HCTL 4 = true → s.dev.xbar.handoff.all (fun (x : Nat × Nat) => decide (x.2 ≤
    s.beatNow)) = true → Completes (.abort p) s fun t => t.dev.xbar.handoff = s.dev.xbar.handoff ∧ t.answeredOk p = true ∧
    s.KeepsRegs t [.CAL_HCTL] ∧ s.KeepsBytes t)
end

