-- ==== Sys2Proof/Laws/State.lean ====
section
/-!
SUPPORT. What each update of the state leaves as it was: one lemma per field per update, all true by `rfl`. The updates of a
program are `setReg` and `setFld` of Machine/Ops.lean, and here `modDev` and `setByte`, which name the other two.
-/
namespace Sys2Proof.Machine

/-- The state with a change of what it holds beside its registers and memories. -/
def State.modDev (s : State) (f : Dev → Dev) : State := { s with dev := f s.dev }

/-- The state with a byte of memory set. -/
def State.setByte (s : State) (a : Nat) (b : Byte) : State := { s with mem := memPut s.losses s.mem a b }

/-! The queue -/

@[simp] theorem State.setReg_pending (s : State) (k : RegKey) (w : Word) : (s.setReg k w).pending = s.pending := rfl
@[simp] theorem State.modDev_pending (s : State) (f : Dev → Dev) : (s.modDev f).pending = s.pending := rfl
@[simp] theorem State.setFld_pending (s : State) {f : Field} {n : Nat} : (s.setFld f n).pending = s.pending := rfl
@[simp] theorem State.setByte_pending (s : State) (a : Nat) (b : Byte) : (s.setByte a b).pending = s.pending := rfl

/-! The losses -/

@[simp] theorem State.setReg_losses (s : State) (k : RegKey) (w : Word) : (s.setReg k w).losses = s.losses := rfl
@[simp] theorem State.modDev_losses (s : State) (f : Dev → Dev) : (s.modDev f).losses = s.losses := rfl
@[simp] theorem State.setFld_losses (s : State) {f : Field} {n : Nat} : (s.setFld f n).losses = s.losses := rfl
@[simp] theorem State.setByte_losses (s : State) (a : Nat) (b : Byte) : (s.setByte a b).losses = s.losses := rfl

/-! The list of memory cells -/

@[simp] theorem State.setReg_mem (s : State) (k : RegKey) (w : Word) : (s.setReg k w).mem = s.mem := rfl
@[simp] theorem State.modDev_mem (s : State) (f : Dev → Dev) : (s.modDev f).mem = s.mem := rfl
@[simp] theorem State.setFld_mem (s : State) {f : Field} {n : Nat} : (s.setFld f n).mem = s.mem := rfl

/-! The list of registers -/

@[simp] theorem State.modDev_regs (s : State) (f : Dev → Dev) : (s.modDev f).regs = s.regs := rfl
@[simp] theorem State.setByte_regs (s : State) (a : Nat) (b : Byte) : (s.setByte a b).regs = s.regs := rfl

/-! The rest of the state -/

@[simp] theorem State.setReg_dev (s : State) (k : RegKey) (w : Word) : (s.setReg k w).dev = s.dev := rfl
@[simp] theorem State.modDev_dev (s : State) (f : Dev → Dev) : (s.modDev f).dev = f s.dev := rfl
@[simp] theorem State.setFld_dev (s : State) {f : Field} {n : Nat} : (s.setFld f n).dev = s.dev := rfl
@[simp] theorem State.setByte_dev (s : State) (a : Nat) (b : Byte) : (s.setByte a b).dev = s.dev := rfl

/-! A byte of memory -/

@[simp] theorem State.setReg_byte (s : State) (k : RegKey) (w : Word) (a : Nat) : (s.setReg k w).byte a = s.byte a := rfl
@[simp] theorem State.modDev_byte (s : State) (f : Dev → Dev) (a : Nat) : (s.modDev f).byte a = s.byte a := rfl
@[simp] theorem State.setFld_byte (s : State) {f : Field} {n : Nat} (a : Nat) : (s.setFld f n).byte a = s.byte a := rfl

/-! A register -/

@[simp] theorem State.modDev_reg (s : State) (f : Dev → Dev) (k : RegKey) : (s.modDev f).reg k = s.reg k := rfl
@[simp] theorem State.setByte_reg (s : State) (a : Nat) (b : Byte) (k : RegKey) : (s.setByte a b).reg k = s.reg k := rfl

/-! A field -/

@[simp] theorem State.modDev_fld (s : State) (f : Dev → Dev) (x : Field) : (s.modDev f).fld x = s.fld x := rfl
@[simp] theorem State.setByte_fld (s : State) (a : Nat) (b : Byte) (x : Field) : (s.setByte a b).fld x = s.fld x := rfl

/-- Two states with the same registers read the same. -/
theorem State.reg_congr {s t : State} (h : t.regs = s.regs) (k : RegKey) : t.reg k = s.reg k := by
  simp [State.reg, h]

/-- Two states with the same memory read the same bytes. -/
theorem State.byte_congr {s t : State} (h : t.mem = s.mem) (l : t.losses = s.losses) (a : Nat) : t.byte a = s.byte a := by
  simp [State.byte, h, l]

end Sys2Proof.Machine
end

