-- ==== Sys2Proof/Laws/Fields.lean ====
section
/-!
SUPPORT. Reading a register or a field after a register or a field has been set. The ground fact behind them is that a field
reads as the bits of its word.
-/
namespace Sys2Proof.Machine

/-! ## Fields of a word -/

theorem fieldMask_testBit (lo w i : Nat) :
    (fieldMask lo w).toNat.testBit i = (decide (i < 32) && decide (lo ≤ i) && decide (i < lo + w)) := by
  rw [fieldMask, BitVec.toNat_ofNat, Nat.testBit_mod_two_pow, Nat.testBit_shiftLeft, Nat.testBit_two_pow_sub_one]
  by_cases h1 : i < 32 <;> by_cases h2 : lo ≤ i <;> simp [h1, h2]
  omega

/-- The bits of a word with a field set: the field's bits are those of the value, the others stay. -/
theorem fieldPut_testBit (x : Word) (lo w n i : Nat) :
    (fieldPut x lo w n).toNat.testBit i =
      if i < 32 ∧ lo ≤ i ∧ i < lo + w then n.testBit (i - lo) else x.toNat.testBit i := by
  have hm : ((~~~(fieldMask lo w)).toNat).testBit i = (decide (i < 32) && !(fieldMask lo w).toNat.testBit i) := by
    rw [← BitVec.getLsbD, ← BitVec.getLsbD, BitVec.getLsbD_not]
  have hx : 32 ≤ i → x.toNat.testBit i = false := fun h =>
    Nat.testBit_lt_two_pow (lt_of_lt_of_le x.isLt (Nat.pow_le_pow_right (by omega) h))
  rw [fieldPut, BitVec.toNat_or, Nat.testBit_or, BitVec.toNat_and, Nat.testBit_and, hm, fieldMask_testBit, BitVec.toNat_ofNat,
    Nat.testBit_mod_two_pow, Nat.testBit_shiftLeft, Nat.testBit_mod_two_pow]
  by_cases h1 : i < 32
  · by_cases h2 : lo ≤ i
    · by_cases h3 : i < lo + w
      · have : i - lo < w := by omega
        simp [h1, h2, h3, this]
      · have : ¬ i - lo < w := by omega
        simp [h1, h2, h3, this]
    · simp [h1, h2]
  · simp [h1, hx (by omega)]

theorem fieldGet_testBit (x : Word) (lo w i : Nat) :
    (fieldGet x lo w).testBit i = (decide (i < w) && x.toNat.testBit (lo + i)) := by
  rw [fieldGet, Nat.testBit_mod_two_pow, Nat.testBit_shiftRight]

/-- A field reads as what it was set to. -/
theorem fieldGet_fieldPut (x : Word) (lo w n : Nat) (h : lo + w ≤ 32) : fieldGet (fieldPut x lo w n) lo w = n % 2 ^ w := by
  apply Nat.eq_of_testBit_eq
  intro i
  rw [fieldGet_testBit, fieldPut_testBit, Nat.testBit_mod_two_pow]
  by_cases hi : i < w
  · rw [if_pos (by omega), show lo + i - lo = i by omega]
  · simp [hi]

/-- A field apart from the one set stays. -/
theorem fieldGet_fieldPut_apart (x : Word) (lo w n lo' w' : Nat) (h : lo' + w' ≤ lo ∨ lo + w ≤ lo') :
    fieldGet (fieldPut x lo w n) lo' w' = fieldGet x lo' w' := by
  apply Nat.eq_of_testBit_eq
  intro i
  rw [fieldGet_testBit, fieldGet_testBit, fieldPut_testBit]
  by_cases hi : i < w'
  · rw [if_neg (by omega)]
  · simp [hi]

/-- Bits that a mask keeps. -/
theorem fieldGet_and (x m : Word) (lo w : Nat) (h : fieldMask lo w &&& m = fieldMask lo w) (hw : lo + w ≤ 32) :
    fieldGet (x &&& m) lo w = fieldGet x lo w := by
  apply Nat.eq_of_testBit_eq
  intro i
  rw [fieldGet_testBit, fieldGet_testBit, BitVec.toNat_and, Nat.testBit_and]
  by_cases hi : i < w
  · have hb : (fieldMask lo w).toNat.testBit (lo + i) = true := by
      rw [fieldMask_testBit]; simp; omega
    have hc : m.toNat.testBit (lo + i) = true := by
      have := congrArg (fun v : Word => v.toNat.testBit (lo + i)) h
      simpa [BitVec.toNat_and, Nat.testBit_and, hb] using this
    simp [hi, hc]
  · simp [hi]

/-! ## Registers -/

/-- The bits of a field of the register map: inside its word, none reserved. -/
def Field.ok (f : Field) : Bool := f.lo + f.w ≤ 32 && fieldMask f.lo f.w &&& f.reg.id.mask == fieldMask f.lo f.w

theorem regsFind_put_same (l : List (RegKey × Word)) (k : RegKey) (w : Word) : regsFind (regsPut l k w) k = some w := by
  fun_induction regsPut l k w <;> simp_all [regsFind]

theorem regsFind_put_other (l : List (RegKey × Word)) (k k' : RegKey) (w : Word) (h : k' ≠ k) :
    regsFind (regsPut l k w) k' = regsFind l k' := by
  fun_induction regsPut l k w <;> simp_all [regsFind, h.symm]

/-- A register reads as the word set, its reserved bits 0 (R12). -/
@[simp] theorem State.reg_setReg (s : State) (k : RegKey) (w : Word) : (s.setReg k w).reg k = w &&& k.id.mask := by
  simp [State.reg, State.setReg, regsFind_put_same]

/-- Every other register stays. -/
theorem State.reg_setReg_other (s : State) (k k' : RegKey) (w : Word) (h : k' ≠ k) : (s.setReg k w).reg k' = s.reg k' := by
  simp [State.reg, State.setReg, regsFind_put_other _ _ _ _ h]

/-- A register reads after a set of any register. -/
theorem State.reg_setReg_if (s : State) (k k' : RegKey) (w : Word) :
    (s.setReg k w).reg k' = if k' = k then w &&& k.id.mask else s.reg k' := by
  by_cases h : k' = k
  · subst h; simp
  · simp [h, State.reg_setReg_other _ _ _ _ h]

/-- A field reads as it was set. -/
theorem State.fld_setFld (s : State) (f : Field) (n : Nat) (h : f.ok = true) : (s.setFld f n).fld f = n % 2 ^ f.w := by
  simp only [Field.ok, Bool.and_eq_true, decide_eq_true_eq, beq_iff_eq] at h
  rw [State.fld, State.setFld, State.reg_setReg, fieldGet_and _ _ _ _ h.2 h.1, fieldGet_fieldPut _ _ _ _ h.1]

/-- A field of another register stays. -/
theorem State.fld_setFld_reg (s : State) (f g : Field) (n : Nat) (h : g.reg ≠ f.reg) : (s.setFld f n).fld g = s.fld g := by
  rw [State.fld, State.setFld, State.reg_setReg_other _ _ _ _ h, State.fld]

/-- A field reads after a set of any register. -/
theorem State.fld_setReg (s : State) (k : RegKey) (f : Field) (w : Word) (h : f.ok = true) :
    (s.setReg k w).fld f = if f.reg = k then fieldGet w f.lo f.w else s.fld f := by
  simp only [Field.ok, Bool.and_eq_true, decide_eq_true_eq, beq_iff_eq] at h
  by_cases hk : f.reg = k
  · subst hk; rw [State.fld, State.reg_setReg, fieldGet_and _ _ _ _ h.2 h.1]; simp
  · rw [State.fld, State.reg_setReg_other _ _ _ _ hk]; simp [hk, State.fld]

/-- A field of the same register, apart from the one set, stays. -/
theorem State.fld_setFld_apart (s : State) (f g : Field) (n : Nat) (hg : g.ok = true)
    (h : g.lo + g.w ≤ f.lo ∨ f.lo + f.w ≤ g.lo) : (s.setFld f n).fld g = s.fld g := by
  rw [State.setFld, State.fld_setReg _ _ _ _ hg]
  by_cases hk : g.reg = f.reg
  · rw [if_pos hk, fieldGet_fieldPut_apart _ _ _ _ _ _ h, State.fld, hk]
  · rw [if_neg hk]

/-! ## Tables -/

@[simp] theorem Table.get_put_same {α : Type} (t : Table α) (d : α) (k : Nat) (v : α) : (t.put k v).get d k = v := by
  fun_induction Table.put t k v <;> simp_all [Table.get]

theorem Table.get_put_other {α : Type} (t : Table α) (d : α) (k k' : Nat) (v : α) (h : k' ≠ k) :
    (t.put k v).get d k' = t.get d k' := by
  fun_induction Table.put t k v <;> simp_all [Table.get]

@[simp] theorem Table.get_mod_same {α : Type} (t : Table α) (d : α) (k : Nat) (f : α → α) :
    (t.mod d k f).get d k = f (t.get d k) := by simp [Table.mod]

theorem Table.get_mod_other {α : Type} (t : Table α) (d : α) (k k' : Nat) (f : α → α) (h : k' ≠ k) :
    (t.mod d k f).get d k' = t.get d k' := by simp [Table.mod, Table.get_put_other _ _ _ _ _ h]

end Sys2Proof.Machine
end

