-- ==== Sys2Proof/Laws/Prog.lean ====
section
/-!
SUPPORT. What running each program of Machine/Ops.lean gives: one lemma per program, so that a meaning's result is reached
by rewriting, without unfolding `Prog.run`.
-/
namespace Sys2Proof.Machine

@[simp] theorem run_done (s : State) : Prog.done.run s = s := rfl
@[simp] theorem run_reg (k : RegKey) (w : Word) (p : Prog) (s : State) : (Prog.reg k w p).run s = p.run (s.setReg k w) := rfl
@[simp] theorem run_dev_cons (f : Dev → Dev) (p : Prog) (s : State) :
    (Prog.dev f p).run s = p.run (s.modDev f) := rfl
@[simp] theorem run_look (k : State → Prog) (s : State) : (Prog.look k).run s = (k s).run s := rfl

@[simp] theorem run_mem (a : Nat) (b : Byte) (p : Prog) (s : State) : (Prog.mem a b p).run s = p.run (s.setByte a b) := rfl

/-- Programs in sequence run one after the other. -/
@[simp] theorem run_seq (p q : Prog) (s : State) : (p.seq q).run s = q.run (p.run s) := by
  induction p generalizing s with
  | done => rfl
  | look k ih => exact ih s s
  | _ => rename_i ih; exact ih _

@[simp] theorem run_seqs_nil (s : State) : (seqs []).run s = s := rfl
@[simp] theorem run_seqs_cons (p : Prog) (l : List Prog) (s : State) : (seqs (p :: l)).run s = (seqs l).run (p.run s) :=
  run_seq _ _ _
@[simp] theorem run_each_nil {α : Type} (f : α → Prog) (s : State) : (each [] f).run s = s := rfl
@[simp] theorem run_each_cons {α : Type} (a : α) (l : List α) (f : α → Prog) (s : State) :
    (each (a :: l) f).run s = (each l f).run ((f a).run s) := run_seq _ _ _
@[simp] theorem run_ask (f : State → Prog) (s : State) : (ask f).run s = (f s).run s := rfl
@[simp] theorem run_on (c : State → Bool) (p : Prog) (s : State) : (on c p).run s = if c s then p.run s else s := by
  by_cases h : c s <;> simp [on, h]
@[simp] theorem run_when (c : Bool) (p : Prog) (s : State) : (when c p).run s = if c then p.run s else s := by
  cases c <;> simp [when]
@[simp] theorem run_setR (k : RegKey) (w : Word) (s : State) : (setR k w).run s = s.setReg k w := rfl
@[simp] theorem run_setB (f : Field) (s : State) : (setB f).run s = s.setFld f 1 := rfl
@[simp] theorem run_setF (f : Field) (n : Nat) (s : State) : (setF f n).run s = s.setFld f n := rfl
@[simp] theorem run_clrB (f : Field) (s : State) : (clrB f).run s = s.setFld f 0 := rfl
@[simp] theorem run_setZ (f : Field) (z : Int) (s : State) : (setZ f z).run s = s.setFld f (unsigned f.w z) := rfl
@[simp] theorem run_count (f : Field) (s : State) : (count f).run s = s.setFld f (satInc f.w (s.fld f)) := rfl
@[simp] theorem run_countBy (f : Field) (n : Nat) (s : State) :
    (countBy f n).run s = s.setFld f (min (s.fld f + n) (2 ^ f.w - 1)) := rfl
@[simp] theorem run_set64 (lo hi : RegKey) (n : Nat) (s : State) :
    (set64 lo hi n).run s = (s.setReg lo (BitVec.ofNat 32 n)).setReg hi (BitVec.ofNat 32 (n / 2 ^ 32)) := rfl
@[simp] theorem run_dev (f : Dev → Dev) (s : State) : (dev f).run s = s.modDev f := rfl
@[simp] theorem run_advance (t : Nat) (s : State) :
    (advance t).run s = s.modDev fun d => { d with lt := { d.lt with cyc := max d.lt.cyc (t % 2 ^ 64) } } := rfl
@[simp] theorem run_putBytes_nil (a : Nat) (s : State) : (putBytes a []).run s = s := rfl
@[simp] theorem run_putBytes_cons (a : Nat) (b : Byte) (l : List Byte) (s : State) :
    (putBytes a (b :: l)).run s = (putBytes (a + 1) l).run (s.setByte a b) := rfl
@[simp] theorem run_free (k : Nat → Prog) (s : State) :
    (free k).run s =
      (k (Config.freeValue s.dev.draws)).run (s.modDev fun d => { d with draws := d.draws + 1 }) := rfl

/-- A program leaves the queue of commands as it was: no effect of the language reaches it. -/
@[simp] theorem run_pending (p : Prog) (s : State) : (p.run s).pending = s.pending := by
  induction p generalizing s with
  | done => rfl
  | look k ih => exact ih s s
  | _ => rename_i ih; exact ih _

end Sys2Proof.Machine
end

