-- ==== Sys2Proof/Laws/Memory.lean ====
section
/-!
SUPPORT. The memory: read after write, and that every operation keeps the canonical form.
-/
namespace Sys2Proof.Machine

/-- Every address of the list is above `a`. -/
def above (a : Nat) (m : List Host.Cell) : Prop := ∀ c ∈ m, a < c.1

theorem above_mono {a b : Nat} {m : List Host.Cell} (h : a ≤ b) (hb : above b m) : above a m :=
  fun c hc => lt_of_le_of_lt h (hb c hc)

/-- The canonical form, said cell by cell. -/
theorem wf_cons (n a : Nat) (b : Byte) (r : List Host.Cell) :
    Memory.wf n ((a, b) :: r) = true ↔ b ≠ unlisted n a ∧ above a r ∧ Memory.wf n r = true := by
  induction r generalizing a b with
  | nil => simp [Memory.wf, above]
  | cons c r ih =>
    obtain ⟨a', b'⟩ := c
    have := ih a' b'
    constructor
    · intro h
      simp only [Memory.wf, Bool.and_eq_true, bne_iff_ne, decide_eq_true_eq] at h
      have hw : Memory.wf n ((a', b') :: r) = true := by
        simp only [Memory.wf, Bool.and_eq_true, bne_iff_ne]; exact h.2
      refine ⟨h.1.1, ?_, hw⟩
      intro c hc
      rcases List.mem_cons.1 hc with rfl | hc
      · exact h.1.2
      · exact lt_trans h.1.2 ((this.1 hw).2.1 c hc)
    · rintro ⟨hb, ha, hw⟩
      have := ha (a', b') (by simp)
      simp only [Memory.wf, Bool.and_eq_true, bne_iff_ne, decide_eq_true_eq] at hw ⊢
      exact ⟨⟨hb, this⟩, hw⟩

theorem memGet_above {n a : Nat} {m : List Host.Cell} (h : above a m) : memGet n m a = unlisted n a := by
  induction m with
  | nil => rfl
  | cons c r ih =>
    obtain ⟨a', b'⟩ := c
    have h1 : a < a' := h (a', b') (by simp)
    simp only [memGet]
    rw [if_neg (by omega)]
    exact ih fun c hc => h c (by simp [hc])

/-- A byte reads as it was written. -/
theorem memGet_memPut_same {n : Nat} {m : List Host.Cell} (a : Nat) (b : Byte) (h : Memory.wf n m = true) :
    memGet n (memPut n m a b) a = b := by
  induction m with
  | nil => by_cases hb : b = unlisted n a <;> simp [memPut, memGet, hb]
  | cons c r ih =>
    obtain ⟨a', b'⟩ := c
    obtain ⟨h1, h2, h3⟩ := (wf_cons n a' b' r).1 h
    rw [memPut]
    split
    · rw [memGet, if_neg (by omega), ih h3]
    · split
      · subst a'
        split
        · rename_i hb; rw [memGet_above h2, hb]
        · simp [memGet]
      · split
        · rename_i hb
          rw [memGet, if_neg (by omega), memGet_above (above_mono (by omega) h2), hb]
        · simp [memGet]

/-- Every other byte stays. -/
theorem memGet_memPut_other {n : Nat} (m : List Host.Cell) (a x : Nat) (b : Byte) (hx : x ≠ a) :
    memGet n (memPut n m a b) x = memGet n m x := by
  fun_induction memPut n m a b <;> grind [memGet]

/-- A cell after a write was there before or is the byte written. -/
theorem mem_memPut {n a : Nat} {m : List Host.Cell} {b : Byte} {c : Host.Cell} (h : c ∈ memPut n m a b) : c ∈ m ∨ c = (a, b) := by
  fun_induction memPut n m a b <;> grind

theorem above_memPut {n z : Nat} {m : List Host.Cell} {a : Nat} {b : Byte} (h : above z m) (hz : z < a) :
    above z (memPut n m a b) :=
  fun c hc => (mem_memPut hc).elim (h c) fun e => e ▸ hz

/-- A write keeps the canonical form. -/
theorem wf_memPut {n : Nat} {m : List Host.Cell} (a : Nat) (b : Byte) (h : Memory.wf n m = true) :
    Memory.wf n (memPut n m a b) = true := by
  fun_induction memPut n m a b with
  | case1 => rfl
  | case2 => simp_all [Memory.wf]
  | case3 _ _ _ hlt ih =>
    have hc := (wf_cons _ _ _ _).1 h
    exact (wf_cons _ _ _ _).2 ⟨hc.1, above_memPut hc.2.1 hlt, ih hc.2.2⟩
  | case4 => exact ((wf_cons _ _ _ _).1 h).2.2
  | case5 => exact (wf_cons _ _ _ _).2 ⟨by assumption, ((wf_cons _ _ _ _).1 h).2⟩
  | case6 => exact h
  | case7 =>
    refine (wf_cons _ _ _ _).2 ⟨by assumption, fun c hc => ?_, h⟩
    have := ((wf_cons _ _ _ _).1 h).2.1 c
    simp only [List.mem_cons] at hc
    rcases hc with rfl | hc
    · show _ < _; omega
    · have := this hc; omega

/-- Taking cells away keeps the canonical form, also for another count of losses where what an unlisted byte reads as does not depend
on it at the addresses that stay. -/
theorem wf_filter {n k : Nat} {m : List Host.Cell} (p : Nat → Bool) (e : ∀ a, p a = true → unlisted k a = unlisted n a)
    (h : Memory.wf n m = true) : Memory.wf k (memOnly m p) = true := by
  induction m with
  | nil => rfl
  | cons c r ih =>
    have hc := (wf_cons n c.1 c.2 r).1 h
    rw [memOnly, List.filter_cons]
    split
    · rename_i hp
      exact (wf_cons k c.1 c.2 _).2 ⟨e c.1 hp ▸ hc.1, fun x hx => hc.2.1 x (List.mem_of_mem_filter hx), ih hc.2.2⟩
    · exact ih hc.2.2

theorem wf_memOnly {n : Nat} {m : List Host.Cell} (p : Nat → Bool) (h : Memory.wf n m = true) :
    Memory.wf n (memOnly m p) = true := wf_filter p (fun _ _ => rfl) h

/-- What an unlisted byte outside the core domain's memories reads as does not depend on the losses. -/
theorem unlisted_outside (n k a : Nat) (h : coreMemory a = false) : unlisted n a = unlisted k a := by
  simp [unlisted, h]

/-- A memory that lists no byte of the core domain's memories is canonical whatever the losses. -/
theorem wf_memOnly_losses {n : Nat} (k : Nat) {m : List Host.Cell} (p : Nat → Bool) (h : Memory.wf n m = true) :
    Memory.wf k (memOnly m fun a => !coreMemory a && p a) = true :=
  wf_filter _ (fun a ha => unlisted_outside k n a (by simp_all)) h

/-! ## The memory through programs -/

/-- A program keeps the canonical form of the memory. -/
theorem run_wf (p : Prog) (s : State) (h : Memory.wf s.losses s.mem = true) :
    Memory.wf (p.run s).losses (p.run s).mem = true := by
  induction p generalizing s with
  | done => exact h
  | look k ih => exact ih s s h
  | mem a b p ih => exact ih _ (wf_memPut a b h)
  | memClear l p ih => exact ih _ (wf_memOnly (fun a => coreMemory a || !l a) h)
  | memLose n k p ih => exact ih _ (wf_memOnly_losses (n s.losses) k h)
  | _ => rename_i ih; exact ih _ h

/-- A string of bytes written changes no byte outside it. -/
theorem byte_putBytes_other (l : List Byte) (a x : Nat) (s : State) (h : x < a ∨ a + l.length ≤ x) :
    ((putBytes a l).run s).byte x = s.byte x := by
  induction l generalizing a s with
  | nil => rfl
  | cons b l ih =>
    rw [run_putBytes_cons, ih _ _ (by simp at h; omega)]
    exact memGet_memPut_other _ _ _ _ (by simp at h; omega)

/-- Writing bytes changes the memory only. -/
theorem putBytes_mem (l : List Byte) (a : Nat) (s : State) : (putBytes a l).run s = { s with mem := ((putBytes a l).run s).mem } := by
  induction l generalizing a s with
  | nil => rfl
  | cons b l ih => exact (ih (a + 1) (s.setByte a b)).trans rfl

@[simp] theorem putBytes_regs (l : List Byte) (a : Nat) (s : State) : ((putBytes a l).run s).regs = s.regs := by
  rw [putBytes_mem]
@[simp] theorem putBytes_dev (s : State) (a : Nat) (l : List Byte) : ((putBytes a l).run s).dev = s.dev := by
  rw [putBytes_mem]
@[simp] theorem putBytes_losses (a : Nat) (l : List Byte) (s : State) : ((putBytes a l).run s).losses = s.losses := by
  rw [putBytes_mem]

/-- A string of bytes reads as it was written. -/
theorem byte_putBytes (l : List Byte) (a i : Nat) (s : State) (h : Memory.wf s.losses s.mem = true) (hi : i < l.length) :
    ((putBytes a l).run s).byte (a + i) = l[i] := by
  induction l generalizing a i s with
  | nil => simp at hi
  | cons b l ih =>
    rw [run_putBytes_cons]
    cases i with
    | zero =>
      rw [Nat.add_zero, byte_putBytes_other _ _ _ _ (by omega)]
      exact memGet_memPut_same a b h
    | succ i =>
      have := ih (a + 1) i (s.setByte a b) (wf_memPut a b h) (by simpa using hi)
      rw [show a + (i + 1) = a + 1 + i by omega, this]
      rfl

end Sys2Proof.Machine
end

