-- ==== Sys2Proof/Laws/Frame.lean ====
section
/-!
SUPPORT. Footprints: which registers and which bytes a program can change at all, by recursion over the program, with one
lemma per combinator; what lies outside the footprint stays.
-/
namespace Sys2Proof.Machine

/-- The program sets only registers that satisfy `R` and bytes of memory whose address satisfies `A`. -/
def Prog.Only (R : RegKey → Prop) (A : Nat → Prop) : Prog → Prop
  | .done => True
  | .reg k _ p => R k ∧ p.Only R A
  | .mem a _ p => A a ∧ p.Only R A
  | .memClear l p => (∀ a, coreMemory a = false → l a = true → A a) ∧ p.Only R A
  | .memLose _ _ p => (∀ a, A a) ∧ p.Only R A
  | .regMap _ p => (∀ k, R k) ∧ p.Only R A
  | .dev _ p => p.Only R A
  | .look k => ∀ s, (k s).Only R A

variable {R : RegKey → Prop} {A : Nat → Prop}

theorem only_seq {p q : Prog} (hp : p.Only R A) (hq : q.Only R A) : (p.seq q).Only R A := by
  induction p with
  | done => exact hq
  | look k ih => exact fun s => ih s (hp s)
  | dev f p ih => exact ih hp
  | _ => rename_i ih; exact ⟨hp.1, ih hp.2⟩

theorem only_seqs {l : List Prog} (h : ∀ p ∈ l, p.Only R A) : (seqs l).Only R A := by
  induction l with
  | nil => trivial
  | cons p l ih => exact only_seq (h p (by simp)) (ih fun q hq => h q (by simp [hq]))

theorem only_each {α : Type} {l : List α} {f : α → Prog} (h : ∀ a ∈ l, (f a).Only R A) : (each l f).Only R A := by
  induction l with
  | nil => trivial
  | cons a l ih => exact only_seq (h a (by simp)) (ih fun q hq => h q (by simp [hq]))

theorem only_ask {f : State → Prog} (h : ∀ s, (f s).Only R A) : (ask f).Only R A := h

theorem only_on {c : State → Bool} {p : Prog} (h : p.Only R A) : (on c p).Only R A := by
  intro s
  by_cases hc : c s
  · simp only [hc, if_true]; exact h
  · simp only [hc, Bool.false_eq_true, if_false]; trivial

theorem only_when {c : Bool} {p : Prog} (h : c = true → p.Only R A) : (when c p).Only R A := by
  cases c
  · trivial
  · exact h rfl

theorem only_setR {k : RegKey} {w : Word} (h : R k) : (setR k w).Only R A := ⟨h, trivial⟩
theorem only_setF {f : Field} {n : Nat} (h : R f.reg) : (setF f n).Only R A := fun _ => ⟨h, trivial⟩
theorem only_setB {f : Field} (h : R f.reg) : (setB f).Only R A := only_setF h
theorem only_clrB {f : Field} (h : R f.reg) : (clrB f).Only R A := only_setF h
theorem only_setZ {f : Field} {z : Int} (h : R f.reg) : (setZ f z).Only R A := only_setF h
theorem only_count {f : Field} (h : R f.reg) : (count f).Only R A := fun _ => only_setF h
theorem only_countBy {f : Field} {n : Nat} (h : R f.reg) : (countBy f n).Only R A := fun _ => only_setF h
theorem only_set64 {lo hi : RegKey} {n : Nat} (h1 : R lo) (h2 : R hi) : (set64 lo hi n).Only R A := ⟨h1, h2, trivial⟩
theorem only_dev {f : Dev → Dev} : (dev f).Only R A := trivial
theorem only_advance {t : Nat} : (advance t).Only R A := trivial
theorem only_free {k : Nat → Prog} (h : ∀ n, (k n).Only R A) : (free k).Only R A := fun _ => h _

theorem only_putBytes {l : List Byte} {a : Nat} (h : ∀ i < l.length, A (a + i)) : (putBytes a l).Only R A := by
  induction l generalizing a with
  | nil => trivial
  | cons b l ih =>
    refine ⟨h 0 (by simp), ih fun i hi => ?_⟩
    have := h (i + 1) (by simp; omega)
    rwa [show a + 1 + i = a + (i + 1) by omega]

theorem only_mono {R' : RegKey → Prop} {A' : Nat → Prop} (hR : ∀ k, R k → R' k) (hA : ∀ a, A a → A' a) {p : Prog}
    (h : p.Only R A) : p.Only R' A' := by
  induction p with
  | done => trivial
  | look k ih => exact fun s => ih s (h s)
  | dev f p ih => exact ih h
  | reg => rename_i ih; exact ⟨hR _ h.1, ih h.2⟩
  | mem => rename_i ih; exact ⟨hA _ h.1, ih h.2⟩
  | memClear => rename_i ih; exact ⟨fun a x y => hA _ (h.1 a x y), ih h.2⟩
  | memLose => rename_i ih; exact ⟨fun a => hA _ (h.1 a), ih h.2⟩
  | regMap => rename_i ih; exact ⟨fun k => hR _ (h.1 k), ih h.2⟩

/-- A register outside the footprint stays. -/
theorem only_reg {p : Prog} (h : p.Only R A) (s : State) {k : RegKey} (hk : ¬R k) : (p.run s).reg k = s.reg k := by
  induction p generalizing s with
  | done => rfl
  | look k ih => exact ih s (h s) s
  | dev f p ih => exact ih h _
  | regMap => exact absurd (h.1 k) hk
  | reg k' w p ih => exact (ih h.2 _).trans (State.reg_setReg_other _ _ _ _ fun e => hk (e ▸ h.1))
  | _ => rename_i ih; exact ih h.2 _

/-- A field of a register outside the footprint stays. -/
theorem only_fld {p : Prog} (h : p.Only R A) (s : State) {f : Field} (hk : ¬R f.reg) : (p.run s).fld f = s.fld f := by
  rw [State.fld, only_reg h s hk, State.fld]

theorem memGet_filter (n : Nat) (m : List Host.Cell) (q : Nat → Bool) (a : Nat) (h : q a = true) :
    memGet n (memOnly m q) a = memGet n m a := by
  induction m with
  | nil => rfl
  | cons c r ih =>
    obtain ⟨a', b'⟩ := c
    by_cases hp : q a' = true
    · have : memOnly ((a', b') :: r) q = (a', b') :: memOnly r q := by simp [memOnly, hp]
      rw [this, memGet, memGet, ih]
    · have : memOnly ((a', b') :: r) q = memOnly r q := by simp [memOnly, hp]
      have hne : a ≠ a' := by rintro rfl; exact hp h
      rw [this, ih, memGet, if_neg hne]

/-- A byte outside the footprint stays. -/
theorem only_byte {p : Prog} (h : p.Only R A) (s : State) {a : Nat} (ha : ¬A a) : (p.run s).byte a = s.byte a := by
  induction p generalizing s with
  | done => rfl
  | look k ih => exact ih s (h s) s
  | dev f p ih => exact ih h _
  | memLose => exact absurd (h.1 a) ha
  | mem a' b p ih => exact (ih h.2 _).trans (memGet_memPut_other _ _ _ _ fun e => ha (e ▸ h.1))
  | memClear l p ih =>
    refine (ih h.2 _).trans (memGet_filter s.losses s.mem (fun a => coreMemory a || !l a) a ?_)
    have := h.1 a
    cases hc : coreMemory a <;> cases hl : l a <;> simp_all
  | _ => rename_i ih; exact ih h.2 _

/-- The program keeps what `π` reads of the rest of the state. -/
def Prog.Keeps {α : Type} (π : Dev → α) : Prog → Prop
  | .done => True
  | .reg _ _ p | .mem _ _ p | .memClear _ p | .memLose _ _ p | .regMap _ p => p.Keeps π
  | .dev f p => (∀ d, π (f d) = π d) ∧ p.Keeps π
  | .look k => ∀ s, (k s).Keeps π

theorem keeps_seq {α : Type} {π : Dev → α} {p q : Prog} (hp : p.Keeps π) (hq : q.Keeps π) : (p.seq q).Keeps π := by
  induction p with
  | done => exact hq
  | look k ih => exact fun s => ih s (hp s)
  | dev f p ih => exact ⟨hp.1, ih hp.2⟩
  | _ => rename_i ih; exact ih hp

/-- What it keeps, stays. -/
theorem keeps_run {α : Type} {π : Dev → α} {p : Prog} (h : p.Keeps π) (s : State) : π (p.run s).dev = π s.dev := by
  induction p generalizing s with
  | done => rfl
  | look k ih => exact ih s (h s) s
  | dev f p ih => exact (ih h.2 _).trans (h.1 _)
  | _ => rename_i ih; exact ih h _

end Sys2Proof.Machine
end

