-- ==== Sys2Proof/Laws/Steps.lean ====
section
/-!
SUPPORT. What every step is: each command's meaning is the run of a program, and so is a tick.
-/
namespace Sys2Proof.Machine

/-- The meaning of every command is the run of a program. -/
theorem exec_run (c : Instr) (s : State) : ∃ p : Prog, exec c s = .next (p.run s) := by
  cases c <;> exact ⟨_, rfl⟩

/-- A step is the run of a program on the state without the command at the front. -/
theorem step_run (s : State) : ∃ p : Prog, step s = .next (p.run { s with pending := s.pending.tail }) := by
  cases h : s.pending with
  | nil =>
    refine ⟨tick, ?_⟩
    have : { s with pending := [] } = s := by cases s; simp_all
    simp [step, h, this]
  | cons c rest =>
    obtain ⟨p, hp⟩ := exec_run c { s with pending := rest }
    exact ⟨p, by simp [step, h, hp]⟩

end Sys2Proof.Machine
end

