-- ==== Sys2Proof/Laws/Access.lean ====
section
/-!
SUPPORT. Where a register's address leads: to that register and to no other, in every state; and what a write of a register
that its port may make does.
-/
namespace Sys2Proof.Machine

/-- The index of the core or front end is passed through a search. -/
theorem findReg_unit (l : List RegDesc) (u off : Nat) : findReg l u off = (findReg l 0 off).map fun k => { k with u := u } := by
  induction l with
  | nil => rfl
  | cons d ds ih =>
    simp only [findReg]
    split
    · rfl
    · exact ih

/-- The registers of a block, each with its indices. -/
def keysOf (l : List RegDesc) : List RegKey :=
  l.flatMap fun d => (List.range d.n1).flatMap fun i => (List.range d.n2).map fun j => ⟨d.id, 0, i, j⟩

/-- Each register of a block is found at its offset, which is on page 0 or 1 outside the aliases. -/
def blockOk (b : Blk) : Bool :=
  (keysOf b.regs).all fun k =>
    decide (findReg b.regs 0 k.offset = some k) && decide (k.offset < 0x8000) && decide (k.offset % 0x4000 < 0xF00)

theorem blockOk_of (b : Blk) (h : b ≠ .hdr) : blockOk b = true := by
  cases b <;> first | exact absurd rfl h | decide +kernel

theorem desc_mem (r : RegId) : r.desc ∈ r.blk.regs ∧ r.desc.id = r := by
  cases r <;> decide +kernel

theorem blockOf_number (b : Blk) (u : Nat) (h : match b with | .core => u < 68 | .fe => u < 64 | .hdr => False | _ => u = 0) :
    blockOf (b.number u) = some (b, u) := by
  cases b <;> simp only at h <;> try (subst h; rfl)
  · rw [show Blk.core.number u = u + 256 by simp [Blk.number, Nat.add_comm]]
    simp only [blockOf]
    rw [if_pos (by omega)]
    simp
  · rw [show Blk.fe.number u = u + 384 by simp [Blk.number, Nat.add_comm]]
    simp only [blockOf]
    rw [if_neg (by omega), if_pos (by omega)]
    simp

theorem inMap_unit {k : RegKey} (h : k.inMap = true) :
    match k.id.blk with | .core => k.u < 68 | .fe => k.u < 64 | .hdr => False | _ => k.u = 0 := by
  simp only [RegKey.inMap, Bool.and_eq_true] at h
  have := h.2
  cases hb : k.id.blk <;> simp_all

/-- What the map says of a register's offset. -/
theorem inMap_offset {k : RegKey} (h : k.inMap = true) :
    findReg k.id.blk.regs k.u k.offset = some k ∧ k.offset < 0x8000 ∧ k.offset % 0x4000 < 0xF00 := by
  have hu := inMap_unit h
  have hb : k.id.blk ≠ .hdr := by intro e; rw [e] at hu; exact hu
  have hok := blockOk_of _ hb
  obtain ⟨hm, hid⟩ := desc_mem k.id
  simp only [RegKey.inMap, Bool.and_eq_true, decide_eq_true_eq] at h
  have hk : (⟨k.id, 0, k.i, k.j⟩ : RegKey) ∈ keysOf k.id.blk.regs := by
    simp only [keysOf, List.mem_flatMap, List.mem_map, List.mem_range]
    exact ⟨k.id.desc, hm, k.i, h.1.1.1, k.j, h.1.1.2, by rw [hid]⟩
  have := List.all_eq_true.1 hok _ hk
  simp only [Bool.and_eq_true, decide_eq_true_eq] at this
  obtain ⟨⟨h1, h2⟩, h3⟩ := this
  refine ⟨?_, h2, h3⟩
  rw [findReg_unit]
  have h1' : findReg k.id.blk.regs 0 k.offset = some ⟨k.id, 0, k.i, k.j⟩ := h1
  rw [h1']
  rfl

/-- A register's own offset reaches it. -/
theorem regVia_own {k : RegKey} (h : k.inMap = true) : regVia k.blockNumber k.offset = some (k, .own) := by
  obtain ⟨h1, h2, h3⟩ := inMap_offset h
  have hn := blockOf_number k.id.blk k.u (inMap_unit h)
  have e : k.offset / 0x4000 * 0x4000 + k.offset % 0x1000 = k.offset := by omega
  have e2 : k.offset % 0x4000 / 0x1000 = 0 := by omega
  rw [regVia]
  simp only [e, e2]
  rw [if_neg (by omega), regAt, RegKey.blockNumber, hn]
  simp only
  rw [if_neg (by omega), h1]
  rfl

/-- A register's address lies in its block. -/
theorem place_addr (s : State) {k : RegKey} (h : k.inMap = true) : s.place k.addr = .block k.blockNumber k.offset := by
  obtain ⟨_, h2, _⟩ := inMap_offset h
  have hu := inMap_unit h
  have hn : k.blockNumber < 16 ∨ (0x100 ≤ k.blockNumber ∧ k.blockNumber < 0x144)
      ∨ (0x180 ≤ k.blockNumber ∧ k.blockNumber < 0x1C0) := by
    simp only [RegKey.blockNumber, Blk.number]
    cases hb : k.id.blk <;> simp only [hb] at hu ⊢ <;> omega
  have e1 : k.addr / 0x10000 = k.blockNumber := by simp only [RegKey.addr]; omega
  have e2 : k.addr % 0x10000 = k.offset := by simp only [RegKey.addr]; omega
  have e3 : k.addr = k.blockNumber * 0x10000 + k.offset := rfl
  rw [State.place, e1, e2]
  rcases hn with hn | hn | hn
  · rw [if_pos (by omega), if_pos hn]
  · rw [if_neg (by omega), if_pos (by omega)]
  · rw [if_neg (by omega), if_neg (by omega), if_pos (by simp; omega)]

/-- A write of a register that its port may make now: the register takes it, and the master is answered OK. -/
theorem run_regWrite {p : Port} {k : RegKey} {v : Word} {s : State} (hk : k.inMap = true) (h : s.admits p k v = true) :
    (regWrite p k v).run s = (answer (portMaster p) 0 0).run ((writeOwn p k v).run s) := by
  simp only [State.admits, State.admitsAt, Bool.and_eq_true, Bool.not_eq_true', decide_eq_true_eq] at h
  obtain ⟨⟨h1, h2⟩, h3⟩ := h
  have hp : k.id ≠ .IRQ_PEND := by
    simp only [RegKey.inMap, Bool.and_eq_true, decide_eq_true_eq] at hk; exact hk.1.2
  have hw : writeReg p k .own v = writeOwn p k v := by
    unfold writeReg; split <;> simp_all
  simp [regWrite, busWrite, h1, writeAt, judged, h2, h3, writePlace, place_addr s hk, regVia_own hk, hw, toMaster]

end Sys2Proof.Machine
end

