-- ==== Sys2Proof/Laws/Crc.lean ====
section
/-!
SUPPORT. The CRC-32C of Machine/Storage.lean with a register that is evaluated byte by byte, so that the kernel can form it over a
block of 4 KiB.
-/
namespace Sys2Proof.Machine

/-- The register after a string of bytes; matching on it makes the kernel evaluate it at each byte. -/
def crcGo : List Byte → Nat → Nat
  | [], c => c
  | b :: l, 0 => crcGo l (crc32cByte 0 b).toNat
  | b :: l, c + 1 => crcGo l (crc32cByte (BitVec.ofNat 32 (c + 1)) b).toNat

theorem crcGo_cons (b : Byte) (l : List Byte) (c : Nat) : crcGo (b :: l) c = crcGo l (crc32cByte (BitVec.ofNat 32 c) b).toNat := by
  cases c <;> rfl

theorem crcGo_foldl (l : List Byte) (c : Word) : BitVec.ofNat 32 (crcGo l c.toNat) = l.foldl crc32cByte c := by
  induction l generalizing c with
  | nil => simp [crcGo]
  | cons b l ih => simp [crcGo_cons, ih]

/-- CRC-32C with such a register. -/
def crcFast (l : List Byte) : Word := ~~~BitVec.ofNat 32 (crcGo l 0xFFFFFFFF)

theorem crc32c_fast : crc32c = crcFast := by
  funext l
  rw [crc32c, crcFast, ← crcGo_foldl]
  rfl

theorem leNat_natLE (k n : Nat) : leNat (natLE k n) = n % 256 ^ k := by
  induction k generalizing n with
  | zero => simp [natLE, leNat, Nat.mod_one]
  | succ k ih =>
    have e : (BitVec.ofNat 8 n).toNat = n % 256 := BitVec.toNat_ofNat ..
    rw [natLE, leNat, ih, e, Nat.pow_succ', Nat.mod_mul]

/-- A block that ends with the CRC of what stands before passes its check. -/
theorem trailer_crc (body : List Byte) (n : Nat) (h : body.length = n) :
    leNat (((body ++ natLE 4 (crc32c body).toNat).drop n).take 4) =
      (crc32c ((body ++ natLE 4 (crc32c body).toNat).take n)).toNat := by
  subst h
  rw [List.drop_left, List.take_left, List.take_of_length_le (by simp [natLE]), leNat_natLE]
  exact Nat.mod_eq_of_lt (crc32c body).isLt

end Sys2Proof.Machine
end

