-- ==== Sys2Proof/WellFormed.lean ====
section
/-!
DEFINITION. The commands whose operands are such as the spec lets come: addresses aligned, lengths within their bounds, one
reading per monitor. A meaning is defined for every term; a statement about what the spec allows is about these.
-/
namespace Sys2Proof

/-- An IPv4 address has 32 bits. -/
def Source.wf (x : Source) : Bool := x.v6 || x.addr.toNat < 2 ^ 32

/-- A payload fits one datagram (R436). -/
def HlpMsg.wf (m : HlpMsg) : Bool := m.payload.length ≤ 1424

/-- The checks of each command. -/
def Instr.wf : Instr → Bool
  | .registerWrite _ a _ _ => a.toNat % 4 = 0
  | .loWordReadShadow _ a => a.toNat % 4 = 0
  | .lockWindow _ backup _ => 0 < backup
  | .segmentMemoryWrite _ _ o bytes => 0 < bytes.bytes.length && o.toNat + bytes.bytes.length ≤ 0x40000
  | .reservedCommand _ _ cmd _ => cmd.val = 0 || 5 < cmd.val
  | .apertureInbound wr _ len bytes => !wr || len = bytes.length
  | .superblockReadDone a b _ _ => a.length = 4096 && b.length = 4096
  | .scrubRead a _ _ _ => a.toNat % 4 = 0
  | .starve m => 3 ≤ m.val && m.val ≤ 8
  | .echoRequest v6 src _ => v6 || src.toNat < 2 ^ 32
  | .hlpOpen _ src m | .hlpClose _ src m | .hlpRead _ src m | .hlpWrite _ src m _ | .hlpCmd _ src m | .hlpClaim _ src m
  | .hlpComplete _ src m | .hlpReset _ src m => src.wf && m.wf
  | .hlpReservedType _ src typ m => src.wf && m.wf && (typ = 0 || 8 < typ.toNat)
  | .hoffData _ _ ofs data => ofs.toNat % 8 = 0 && data.length % 8 = 0 && 8 ≤ data.length && data.length ≤ 256
  | .monitorSample temps rails => temps.length = 18 && rails.length = 11
  | .agingMeasurement counts => counts.length = 9
  | .boot density _ o bytes => o + bytes.length ≤ density
  | _ => true

end Sys2Proof
end

