-- ==== Sys2Proof/Tests/Slice0.lean ====
section
/-!
SUPPORT. Tests: terms that WellFormed refuses, one per check; small facts taken from the spec's own examples; and, for every
statement with hypotheses, a state and operands that meet them.
-/
namespace Sys2Proof.Tests

open Sys2Proof.Machine

set_option linter.unusedVariables false
set_option maxRecDepth 4000
set_option Elab.async false

/-- A small state: the reset state with other registers, a change of what it holds beside them, and other memory. -/
def tst (regs : List (RegKey × Word)) (f : Dev → Dev := id) (mem : List Host.Cell := []) : State :=
  { State.reset with regs := regs, dev := f State.reset.dev, mem := mem }

/-- The RWL registers and the control store are locked (R302, R430). -/
def locked (d : Dev) : Dev := { d with bus := { d.bus with locked := true } }

/-! ## Ill-formed commands are refused -/

/-- The sender of a request: an IPv4 address with more than 32 bits. -/
def badSource : Source := ⟨false, 0x100000000, 0⟩

theorem test_wf_address : (Instr.registerWrite .mp0 0x20002 0 ⟨[], 0⟩).wf = false := by decide
theorem test_wf_read : (Instr.loWordReadShadow .mp0 0x20002).wf = false := by decide
theorem test_wf_window : (Instr.lockWindow 491520 0 0).wf = false := by decide
theorem test_wf_segment : (Instr.segmentMemoryWrite .mp0 0 0 ⟨[], []⟩).wf = false := by decide
theorem test_wf_reserved : (Instr.reservedCommand .mp0 0 3 0).wf = false := by decide
theorem test_wf_aperture : (Instr.apertureInbound true 0 8 [1]).wf = false := by decide
theorem test_wf_superblock : (Instr.superblockReadDone [] [] [] []).wf = false := by decide
theorem test_wf_scrub : (Instr.scrubRead 0x0300000002 0 0 false).wf = false := by decide
theorem test_wf_starve : (Instr.starve 2).wf = false := by decide
theorem test_wf_echo : (Instr.echoRequest false 0x100000000 []).wf = false := by decide
theorem test_wf_source : (Instr.hlpOpen false badSource ⟨0, 0, []⟩).wf = false := by decide
theorem test_wf_payload : (Instr.hlpRead true ⟨false, 0, 0⟩ ⟨0, 0, List.replicate 1425 0⟩).wf = false := by decide +kernel
theorem test_wf_type : (Instr.hlpReservedType true ⟨false, 0, 0⟩ 5 ⟨0, 0, []⟩).wf = false := by decide
theorem test_wf_handoff : (Instr.hoffData 0 0 0 [1]).wf = false := by decide
theorem test_wf_sample : (Instr.monitorSample [] []).wf = false := by decide
theorem test_wf_aging : (Instr.agingMeasurement []).wf = false := by decide
theorem test_wf_boot : (Instr.boot 0 true 0 [1]).wf = false := by decide
theorem test_wf_good : (Instr.registerWrite .mp0 0x20000 0 ⟨[], 0⟩).wf = true := by decide

/-! ## Examples of the spec -/

/-- R62: the CRC of "123456789" is 0x29B1. -/
theorem test_crc16 : crc16 [0x31, 0x32, 0x33, 0x34, 0x35, 0x36, 0x37, 0x38, 0x39] = 0x29B1 := by decide +kernel

/-- The example of R178: a window of 300,000 cycles gives 950,000,080 nV and 20.000 048 A. -/
theorem test_results : arithmetic ⟨some 1022449, .at_ 10716327, some 13777673⟩ ⟨some 0, .at_ 1020408, some 7971995⟩ 75000
    1250012000 1000000 = (950000080, 200000480, 0) := by decide +kernel

/-- The example of R189: the least width 60, and a QP of 6,400 and 366,503,876 of 2^32 nC. -/
theorem test_packet_charge : widthMin 1023 0 = 60 ∧ packetCharge 64 300004000 1000000 = 6400 * 2 ^ 32 + 366503876 := by
  decide +kernel

/-- The example of R366: B = 700,000 µs. -/
theorem test_budget : budgetOf 200 50 = some 700000 ∧ budgetOk 200 50 1000000 = false ∧ budgetOk 200 50 1500000 = true := by
  decide +kernel

/-- The example of R52 at 100 MHz is locked with 491,520 cycles in a window. -/
theorem test_lock_window : 16384 * cyclesPerRef 3 = 491520 := by decide +kernel

/-- The front command runs and leaves the queue's rest (R54). -/
theorem test_step_front : (match step { tst [(R.LT_STATE, 2)] with pending := [.calDone, .beat true] } with
    | .next t => decide (t.fld F.LT_STATE_LOCK_ST = 3 ∧ t.pending = [.beat true])
    | _ => false) = true := by decide +kernel

/-- A register address and the register found there, through its set alias (R14). -/
theorem test_alias : regVia 3 (setAlias (R.IRQ_MASK 2) % 0x10000) = some (R.IRQ_MASK 2, Via.set) := by decide +kernel

/-- A superblock of generation 5 and 9 blocks, without journal, ledger and regions, of device 6. -/
def smallHead : List Byte := [0xE5, 0x91, 0x3A, 0x7C, 1, 0, 6, 0, 5, 0, 0, 0, 0, 0, 0, 0, 9, 0, 0, 0, 0, 0, 0, 0]
def smallBody : List Byte := smallHead ++ List.replicate 4068 0
def smallSuper : List Byte := smallBody ++ natLE 4 (crc32c smallBody).toNat

theorem smallBody_length : smallBody.length = 4092 := by
  rw [smallBody, List.length_append, List.length_replicate]
  rfl

theorem leNat_zeros (n : Nat) : leNat (List.replicate n 0) = 0 := by
  induction n with
  | zero => rfl
  | succ n ih => rw [List.replicate_succ, leNat, ih]; rfl

theorem smallSuper_zeros (o n : Nat) (h : 24 ≤ o) (k : o + n ≤ 4092) : leNat ((smallSuper.drop o).take n) = 0 := by
  have a : smallHead.length = 24 := rfl
  have e : (smallSuper.drop o).take n = List.replicate n 0 := by
    rw [smallSuper, List.drop_append_of_le_length (by rw [smallBody_length]; omega),
      List.take_append_of_le_length (by rw [List.length_drop, smallBody_length]; omega), smallBody, List.drop_append,
      List.drop_of_length_le (by omega), List.nil_append, a, List.drop_replicate, List.take_replicate]
    congr 1
    omega
  rw [e, leNat_zeros]

theorem smallSuper_volume : superVolume smallSuper = { gen := 5, vblk := 9, regions := List.replicate 128 ⟨0, 0, 0⟩ } := by
  have g : leNat ((smallSuper.drop 8).take 8) = 5 := by decide +kernel
  have b : leNat ((smallSuper.drop 16).take 8) = 9 := by decide +kernel
  have r : ((List.range 128).map fun g => (⟨leNat ((smallSuper.drop (1024 + 16 * g)).take 8),
      leNat ((smallSuper.drop (1032 + 16 * g)).take 4), leNat ((smallSuper.drop (1036 + 16 * g)).take 1)⟩ : Region)) =
      List.replicate 128 ⟨0, 0, 0⟩ := by
    rw [List.eq_replicate_iff]
    refine ⟨by simp, fun x hx => ?_⟩
    obtain ⟨g, hg, rfl⟩ := List.mem_map.1 hx
    have := List.mem_range.1 hg
    rw [smallSuper_zeros _ _ (by omega) (by omega), smallSuper_zeros _ _ (by omega) (by omega),
      smallSuper_zeros _ _ (by omega) (by omega)]
  rw [superVolume]
  simp only [g, b, r, smallSuper_zeros 24 8 (by omega) (by omega), smallSuper_zeros 32 4 (by omega) (by omega),
    smallSuper_zeros 36 4 (by omega) (by omega), smallSuper_zeros 40 8 (by omega) (by omega)]

theorem parseSuper_of (b : List Byte) (v : Volume) (hv : superVolume b = v) (l : b.length = 4096)
    (m : leNat ((b.drop 0).take 4) = 0x7C3A91E5 ∧ leNat ((b.drop 4).take 2) = 1)
    (c : leNat ((b.drop 4092).take 4) = (crc32c (b.take 4092)).toNat)
    (r : ((0, 2) :: (v.jstart, v.jlen) :: (v.lstart, v.llen) :: (v.regions.filter fun g => g.mode ≠ 0).map fun g =>
      (g.start, g.len)).all (fun r => r.1 + r.2 ≤ v.vblk) = true ∧ allApart ((0, 2) :: (v.jstart, v.jlen) ::
        (v.lstart, v.llen) :: (v.regions.filter fun g => g.mode ≠ 0).map fun g => (g.start, g.len)) = true) :
    parseSuper b = some (v, leNat ((b.drop 6).take 2)) := by
  subst hv
  rw [parseSuper]
  simp only [l, m.1, m.2, c, r.1, r.2, decide_true, Bool.and_true, if_true]

/-- It is the best copy beside an unreadable one; its CRC is not evaluated. -/
theorem test_superblock :
    bestSuper smallSuper [] = some ({ gen := 5, vblk := 9, regions := List.replicate 128 ⟨0, 0, 0⟩ }, 6) := by
  have d : leNat ((smallSuper.drop 6).take 2) = 6 := by decide +kernel
  have p := parseSuper_of smallSuper _ smallSuper_volume
    (by rw [smallSuper, List.length_append, smallBody_length]; rfl) (by decide +kernel)
    (trailer_crc smallBody 4092 smallBody_length) (by decide +kernel)
  have n : parseSuper [] = none := rfl
  rw [d] at p
  rw [bestSuper, p, n]

/-! ## An image that passes (R469 to R475): its key and its signature were made with OpenSSL -/

/-- The modulus of a key made for this test. -/
def bootModulus : List Byte :=
  ([
    0xD9B937A7EA8E3152F6B12158B1F0E6319755768581C09D9B50215D95DC82E660,
    0xE58F900954A16CC2027D304437B88C0E99FA8548ADBFBD366C662D43981C46A7,
    0x02B06E8AFEE832AF76665BFE375FB7E932C16499917EF4A52D767E871EA1593F,
    0xF75D17DE5EA242E1C5B05A43FD1AB73B483D9E48B50709648896CFA0B5960D14,
    0x367F569FB6C70427C3645FDBC0F02504A323F170B9D22DDAB36011C3B475D053,
    0xDFE0FFD10F015A5DEEE1D75CB5E389F57668F6CAF45528DCE747C5B39B7DFE29,
    0xF2A598B846E7ED3F9D3BB72F98B87FFAEBEF8FF2A2596FB354DD6AA93F3F850C,
    0x2E39EB6FCA246CFDB27CEBDFC11667E1A3157EACF5860BCF2DDE39225F4FAA1F,
    0x009AC4384D66AE7FE1F2EB723075320DE373F86EF7DB90B9C38FA2CFA7634C29,
    0x701172DBDF1816154CDA7A3D756E8BB129324B5FCE5EE18E81538549BC444C8D,
    0x9CEB2041D469FE98221933F4D413931D51AAB1534B761AA976CC6765A4FFF25B,
    0xE1FFA4A052E41E7CC5C8B76B8AADB1F142A32FA63E0045609D2023DFE1934A02,
    0xB8E467F701017DEFF353CC20549A9019CC9613D720C3C23D9710A0BBD3F2DAF5,
    0xF13E069B703CB1ACCB4C7E0330A2052C222083951F93B01E705349EC4A6DDEE3,
    0x3EE10CA1A782BCED16EC9BB28CFFB8D587C563070E8137E3841A2CA0170A4BE9,
    0x5303E86D547F8741EBA8597711D0FCC9BB4477CD62F73ACC650358A64E91F867] : List Nat).flatMap (natBE 32)

/-- The signature of the image below under that key. -/
def bootSignature : List Byte :=
  ([
    0x44B34DAD77F8CE2104C982CD4BD6C837F1A54794738039AAFBF3666DCB60FF5E,
    0x0C0ABA0AF2DAF5D34FF8F9397C4018F033D03F7AA0DD047DC3A45CE195A7EB5C,
    0x07A56A1BE4881F89DD51BBE146C696DD9835F2425DBB8CFC64A270E31980BFE8,
    0x7D87A184A08BD2B996C8975725894956099B7E9AF669F3A38C93E1F4FFF1492A,
    0xB955418578B16F4F86B2C999441CC40426EA026E96599982A1544080894AA6DA,
    0x08AF247A29B8DFEE2A0A62CBE7341FE0730831AC08A3B7530477357A6DA5B8D2,
    0x66188105BF084E633E58E7144CA286851900504FA2C1A57C6109DF16B8D293FC,
    0x2A4C91E05569639E7B2AD1D08C5043BC42307E7B19F6FD203171250444ED5F22,
    0x3F4C6F561D56AEECB82417A451D9371A7B278E1564A98A7751C913A55E76A286,
    0xA5775B8F2B0AEDC0C1D1E46FA46EA6139C2132DFBF7CAD98A9CC803497EECEFB,
    0xA92F5D581504D3355C973AB755F03F811C67BB9E27D4616C65CBD270613037D0,
    0x3F0429A2EAB95903215684DBAA2DDC8BB797816754107A5F20342DE85D90F975,
    0xB7358A9A95D168BAA560B80BB558A9118EAF68E259635E6E14356869375097FA,
    0x44C00F708F5AD95C6139967357EDC5567AF476E56F578176DE12849C55D970E2,
    0xDB3C6BA08AADC25118852B6208918E7F555FCD637CC7FC66AC674E0EC8A7BD81,
    0x9FA2AE1EC4F6D46B7710FDBA16190D95091E07C60348B0713814B610F8991229] : List Nat).flatMap (natBE 32)

/-- Its DEVCFG: BEATCYC 300,000,000, no clock profile, DTMIN 20, device 6. -/
def bootConfig : List Byte := natLE 4 300000000 ++ natLE 4 0 ++ natLE 2 20 ++ List.replicate 70 0 ++ natLE 8 6
/-- Its SLICEMAP: channel n on core n, no gang. -/
def bootMap : List Byte := ((List.range 64).map fun n => natLE 1 n).flatten ++ List.replicate 16 0
/-- Its firmware for MP0. -/
def bootFirmware : List Byte := natLE 4 0x12345678

/-- The digest of DEVCFG. -/
def bootConfigDigest : List Byte :=
  ([
    0xD8C59A778B431B1DD95856EAA62121165391AD7B23D3B89CCCEA99A456F2CD6D,
    0x6A93FE2FA48CEDED35987F16E2DA7D61C10E1CDB1D71F1AF9BA2796D65B0DFC6] : List Nat).flatMap (natBE 32)
/-- The digest of SLICEMAP. -/
def bootMapDigest : List Byte :=
  ([
    0x3BC31474EF05DB49726A0D1519E34559127294BBA834623950948727E98CE380,
    0x999C270A3AF279A45CF620F9A81C0EB5562100B6653DFF085791E732B459EA0B] : List Nat).flatMap (natBE 32)
/-- The digest of FW. -/
def bootFirmwareDigest : List Byte :=
  ([
    0x71B4AAAA8EBB183E01DFEB60FEF766532FB060C91703CECA23853B25707761BA,
    0x9ADBDD5279C256B00AF797FCF6ED6953D07278B62D5EC4BCF166004A6DF87AA0] : List Nat).flatMap (natBE 32)

/-- A section table entry with target 0 (Table 14.5). -/
def bootEntry (typ ofs len : Nat) (digest : List Byte) : List Byte :=
  natLE 4 typ ++ natLE 4 ofs ++ natLE 4 len ++ List.replicate 20 0 ++ digest
/-- The header up to the signature (Table 14.4). -/
def bootHeader : List Byte :=
  natLE 4 0xE7E11A01 ++ natLE 2 1 ++ natLE 2 3 ++ natLE 4 8380 ++ [0, 1, 3, 25] ++ natLE 8 1 ++ natLE 2 6 ++ List.replicate 102 0
    ++ bootModulus ++ natLE 4 65537 ++ List.replicate 508 0 ++ bootEntry 1 8192 88 bootConfigDigest
    ++ bootEntry 2 8288 80 bootMapDigest ++ bootEntry 4 8376 4 bootFirmwareDigest ++ List.replicate 6240 0
/-- An image that passes every check of Table 14.8. -/
def bootImage : List Byte :=
  bootHeader ++ bootSignature ++ bootConfig ++ List.replicate 8 0 ++ bootMap ++ List.replicate 8 0 ++ bootFirmware
/-- Slot A of the flash: its state block, in TRIAL, and the image. -/
def bootSlot : List Byte := natLE 4 0x5E1A0B07 ++ natLE 1 0x7F ++ List.replicate 4091 255 ++ bootImage
/-- A boot is due; the fuses hold the hash of the key in key slot 1. -/
def bootDue : State :=
  tst [] fun d => { d with boot := { d.boot with due := true, read := { keyHash := [(1, sha512 (bootModulus ++ natLE 4 65537))] } } }
/-- That state with the flash of the start. -/
def bootFound : State :=
  (flashSet 0 bootSlot).run { bootDue with dev := { bootDue.dev with boot := { bootDue.dev.boot with flash := ⟨16777216, true⟩ } } }

theorem bootSlot_length : bootSlot.length = 12476 := by decide +kernel

theorem bootFound_dev : bootFound.dev = { bootDue.dev with boot := { bootDue.dev.boot with flash := ⟨16777216, true⟩ } } :=
  putBytes_dev ..

theorem bootFound_flash (o n : Nat) (h : o + n ≤ 12476) : bootFound.flash o n = (bootSlot.drop o).take n := by
  apply List.ext_getElem
  · simp [State.flash, State.bytes, bootSlot_length]
    omega
  · intro i hi hj
    have hn : i < n := by simpa [State.flash, State.bytes] using hi
    have e := byte_putBytes (bootSlot.map fun b => ~~~b) (flashBase + 0) (o + i)
      { bootDue with dev := { bootDue.dev with boot := { bootDue.dev.boot with flash := ⟨16777216, true⟩ } } } rfl
      (by simp [bootSlot_length]; omega)
    simp only [State.flash, State.bytes, List.getElem_map, List.getElem_range, List.getElem_take, List.getElem_drop]
    rw [show flashBase + o + i = flashBase + 0 + (o + i) by omega]
    exact (congrArg (~~~ ·) e).trans (by simp)

theorem bootFound_img (o n : Nat) (h : o + n ≤ 8380) : bootFound.img 0 o n = (bootImage.drop o).take n := by
  rw [State.img, show bootFound.slotImage 0 + o = 4096 + o by simp [State.slotImage, State.slotBlock], bootFound_flash _ _ (by omega),
    ← List.drop_drop, show bootSlot.drop 4096 = bootImage from List.drop_left' (by decide +kernel)]

theorem bootFound_number : bootFound.imgNum 0 6 2 = 3 := by
  rw [State.imgNum, bootFound_img _ _ (by omega)]
  decide +kernel

theorem bootFound_sections : bootFound.sections 0 =
    [⟨1, 0, 8192, 88, 0, bootConfigDigest, true⟩, ⟨2, 0, 8288, 80, 0, bootMapDigest, true⟩,
      ⟨4, 0, 8376, 4, 0, bootFirmwareDigest, true⟩] := by
  have l : bootFound.sections 0 = [bootFound.section_ 0 0, bootFound.section_ 0 1, bootFound.section_ 0 2] := by
    rw [State.sections, bootFound_number]
    rfl
  simp (disch := omega) only [l, State.section_, State.imgNum, State.imgZero, bootFound_img]
  decide +kernel

theorem bootFound_size : bootFound.slotSize = 8384512 := by
  have d : bootFound.density = 16777216 := by
    unfold State.density
    rw [bootFound_dev]
  unfold State.slotSize
  omega

theorem bootFound_fuses : bootFound.dev.boot.read = { keyHash := [(1, sha512 (bootModulus ++ natLE 4 65537))] } :=
  congrArg (fun d : Dev => d.boot.read) bootFound_dev

theorem bootFound_header : bootFound.headerOk 0 = true := by
  rw [State.headerOk, bootFound_size]
  simp (disch := omega) only [State.imgNum, State.imgZero, bootFound_img]
  decide +kernel

theorem bootFound_part : bootFound.partOk 0 = true := by
  simp (disch := omega) only [State.partOk, State.imgNum, bootFound_img]
  cases Config.gradeX <;> decide +kernel

theorem bootFound_key : bootFound.keyOk 0 = true := by
  have i : bootFound.imgNum 0 13 1 = 1 := by
    rw [State.imgNum, bootFound_img _ _ (by omega)]
    decide +kernel
  have k : (bootImage.drop 128).take 516 = bootModulus ++ natLE 4 65537 := by decide +kernel
  simp [State.keyOk, i, bootFound_img, k, bootFound_fuses, FuseSt.keySet, FuseSt.hash, Table.get]

theorem bootFound_signature : bootFound.signatureOk 0 = true := by
  simp (disch := omega) only [State.signatureOk, State.imgNum, bootFound_img]
  decide +kernel

theorem bootFound_table : bootFound.sectionsOk 0 = true := by
  rw [State.sectionsOk, bootFound_sections, bootFound_number]
  simp (disch := omega) only [State.imgNum, State.imgZero, bootFound_img]
  decide +kernel

/-- It has none of the sections that name registers and slots. -/
theorem bootFound_plain : ((bootFound.sections 0).all fun c => c.typ ≠ 6 && c.typ ≠ 8 && c.typ ≠ 9) = true := by
  rw [bootFound_sections]
  rfl

theorem bootFound_image : bootFound.imageCode 0 = 0 := by
  have v : ¬bootFound.imgNum 0 12 1 < bootFound.dev.boot.read.svn := by rw [bootFound_fuses]; exact Nat.not_lt_zero _
  simp (disch := omega) only [State.imageCode, bootFound_header, bootFound_part, bootFound_key, bootFound_signature, if_neg v,
    bootFound_table, bootFound_sections, State.sectionBytes, bootFound_img, List.map_cons, List.map_nil]
  decide +kernel

theorem bootFound_slot : bootFound.firstSlot = some 0 := by
  have b : bootFound.bootState 0 = 0x7F := by
    simp (disch := omega) only [State.bootState, State.flashNum, State.slotBlock, Nat.zero_mul, Nat.zero_add, bootFound_flash]
    decide +kernel
  rw [State.firstSlot, b]
  rfl

theorem bootFound_flashOk : bootFound.flashOk = true := by
  simp only [State.flashOk, State.density, bootFound_dev]
  decide +kernel

/-! ## The hypotheses of the statements can be met -/

/-- The hypotheses of StepRunsTheFrontCommand can be met. -/
theorem test_hyps_StepRunsTheFrontCommand : ({ tst [] with pending := [.calDone] } : State).pending = .calDone :: [] ∧
    (tst []).pending = [] ∧ (tst []).awake = true := by decide +kernel

/-- The hypotheses of TheQueueDrainsInOrder can be met. -/
theorem test_hyps_TheQueueDrainsInOrder : 2 ≤ ({ tst [] with pending := [.calDone, .beat true] } : State).pending.length := by
  decide +kernel

/-- The hypotheses of EveryStepKeepsTheInvariant can be met, by the reset state, which idles. -/
theorem test_hyps_EveryStepKeepsTheInvariant : (tst [(R.LT_STATE, 2)]).Inv ∧
    ∃ t, step (tst [(R.LT_STATE, 2)]) = .next t :=
  ⟨⟨by decide +kernel, by decide +kernel, by decide +kernel⟩, _, rfl⟩

/-- The bytes of ResetHasTheInvariantAndTheColdValues: one outside every QP. -/
theorem test_hyps_ResetHasTheInvariantAndTheColdValues : ∀ n < 64, 7 < chBlock n + 48 ∨ chBlock n + 56 ≤ 7 := by decide +kernel

/-- The hypotheses of RegisterWritesFollowTheirAccessTypes can be met. -/
theorem test_hyps_RegisterWritesFollowTheirAccessTypes :
    (let p : Port := .image; let k : RegKey := R.LT_EVT; let a : BitVec 40 := BitVec.ofNat 40 (RegKey.addr (R.LT_EVT)); let v : Word := 5; let hw : Word := 1; let s : State := tst [(R.LT_EVT, 7)]; k.inMap = true ∧ a.toNat = k.addr ∧ k.id ∈ plainRegs ∧ s.admits p k v = true) ∧
    (let hw : Word := 0; let p : Port := .image; let k : RegKey := R.XBAR_MAP 3; let a : BitVec 40 := BitVec.ofNat 40 (RegKey.addr (R.XBAR_MAP 3)); let v : Word := 0x440000; let s : State := tst []; k.inMap = true ∧ a.toNat = k.addr ∧ ((k.id = .XBAR_MAP ∧ 68 ≤ fieldGet v 16 7) ∨ (k.id = .XBAR_GANG ∧ 5 ≤ fieldGet v 16 3)) ∧ s.admits p k v = true ∧ s.reg k &&& k.id.mask = s.reg k) ∧
    (let hw : Word := 0; let p : Port := .image; let a : BitVec 40 := BitVec.ofNat 40 (RegKey.addr (R.LINE_MAC_LO)); let v : Word := 5; let s : State := tst []; a.toNat = R.LINE_MAC_LO.addr ∧ s.admits p R.LINE_MAC_LO v = true) ∧
    (let hw : Word := 0; let p : Port := .image; let a : BitVec 40 := BitVec.ofNat 40 (RegKey.addr (R.LINE_MAC_HI)); let v : Word := 0x70005; let lo : Word := 9; let s : State := tst [] fun d => { d with bus := { d.bus with held := [(R.LINE_MAC_LO, 9)] } }; a.toNat = R.LINE_MAC_HI.addr ∧ s.admits p R.LINE_MAC_HI v = true ∧ s.dev.bus.held.find? (fun (e : RegKey × Word) => e.1 = R.LINE_MAC_LO) = some (R.LINE_MAC_LO, lo)) ∧
    (let hw : Word := 0; let p : Port := .mp0; let a : BitVec 40 := 0x20000; let v : Word := 0; let rivals : List (Fin 8) := []; let s : State := tst []; s.issues p = false) ∧
    (let hw : Word := 0; let p : Port := .service; let a : BitVec 40 := 0x20000; let v : Word := 0; let rivals : List (Fin 8) := []; let s : State := tst [(R.MEM_FRZ, 8)]; s.issues p = true ∧ s.frozen (portMaster p) = true ∧ 3 ≤ portMaster p) ∧
    (let hw : Word := 0; let p : Port := .peer; let a : BitVec 40 := BitVec.ofNat 40 (RegKey.addr (R.LT_EVT)); let v : Word := 0; let auth : Bool := true; let s : State := tst []; s.issues p = true ∧ s.frozen (portMaster p) = false ∧ 3 ≤ portMaster p ∧ s.judge p a.toNat 4 true v = .violation auth) ∧
    (let hw : Word := 0; let p : Port := .image; let a : BitVec 40 := BitVec.ofNat 40 (RegKey.addr (R.LT_XREF)); let v : Word := 0; let b : Nat := 1; let s : State := tst []; s.issues p = true ∧ s.frozen (portMaster p) = false ∧ s.judge p a.toNat 4 true v = .closed b) ∧
    (let hw : Word := 0; let p : Port := .mp0; let a : BitVec 40 := BitVec.ofNat 40 (RegKey.addr (R.SYS_DEVID)); let v : Word := 0; let s : State := tst [] fun d => { d with rst := { d.rst with mp := true }, bus := { d.bus with locked := true } }; s.issues p = true ∧ s.frozen (portMaster p) = false ∧ s.judge p a.toNat 4 true v = .afterLock) ∧
    (let hw : Word := 0; let p : Port := .service; let a : BitVec 40 := 0x20000; let v : Word := 0; let rivals : List (Fin 8) := [4, 2]; let w : Nat := 2; let l : Nat := 3; let ls : List Nat := [4]; let s : State := tst []; s.issues p = true ∧ s.frozen (portMaster p) = false ∧ s.writers (portMaster p) rivals = w :: l :: ls ∧ w ≠ portMaster p) :=
  by and_intros <;> decide +kernel

/-- The hypotheses of LowWordReadsLatchTheHighWord can be met. -/
theorem test_hyps_LowWordReadsLatchTheHighWord :
    (let p : Port := .image; let lo : RegKey := R.LT_NOW_LO; let hi : RegKey := R.LT_NOW_HI; let a : BitVec 40 := BitVec.ofNat 40 (RegKey.addr (R.LT_NOW_LO)); let s : State := tst [] fun d => { d with lt := { d.lt with cyc := 0x300000007 } }; (lo, hi) ∈ [(R.LT_NOW_LO, R.LT_NOW_HI), (R.LT_BEAT_LO, R.LT_BEAT_HI), (R.SYS_SQL_LAST_LO, R.SYS_SQL_LAST_HI), (R.MEM_FRZLOG_LO, R.MEM_FRZLOG_HI), (R.LINE_MAC_LO, R.LINE_MAC_HI), (R.MON_LIFE_LO, R.MON_LIFE_HI)] ∧ a.toNat = lo.addr ∧ s.admitsRead p lo.addr = true ∧ s.latched (portMaster p) lo = none) ∧
    (let p : Port := .image; let lo : RegKey := R.LT_NOW_LO; let hi : RegKey := R.LT_NOW_HI; let w : Word := 3; let a : BitVec 40 := BitVec.ofNat 40 (RegKey.addr (R.LT_NOW_HI)); let s : State := tst [] fun d => { d with bus := { d.bus with shadow := [(1, R.LT_NOW_HI, 3)] } }; (lo, hi) ∈ [(R.LT_NOW_LO, R.LT_NOW_HI), (R.LT_BEAT_LO, R.LT_BEAT_HI), (R.SYS_SQL_LAST_LO, R.SYS_SQL_LAST_HI), (R.MEM_FRZLOG_LO, R.MEM_FRZLOG_HI), (R.LINE_MAC_LO, R.LINE_MAC_HI), (R.MON_LIFE_LO, R.MON_LIFE_HI)] ∧ a.toNat = hi.addr ∧ s.admitsRead p hi.addr = true ∧ s.latched (portMaster p) hi = some w) ∧
    (let p : Port := .image; let b : Nat := 1; let off : Nat := 0x4000; let k : RegKey := R.LT_XREF; let v : Via := .own; let a : BitVec 40 := 0x14000; let s : State := tst []; s.admitsRead p a.toNat = true ∧ s.place a.toNat = .block b off ∧ regVia b off = some (k, v) ∧ expertOffset off = true ∧ s.pageOpen b = false) ∧
    (let p : Port := .service; let a : BitVec 40 := 0x20000; let s : State := tst [(R.MEM_FRZ, 8)]; s.issues p = true ∧ s.frozen (portMaster p) = true ∧ 3 ≤ portMaster p) ∧
    (let p : Port := .peer; let a : BitVec 40 := BitVec.ofNat 40 (RegKey.addr (R.LT_EVT)); let auth : Bool := true; let s : State := tst []; s.issues p = true ∧ s.frozen (portMaster p) = false ∧ 3 ≤ portMaster p ∧ s.judge p a.toNat 4 false 0 = .violation auth) :=
  by and_intros <;> decide +kernel

/-- The hypotheses of ProfilesLoadOrAreRefused can be met. -/
theorem test_hyps_ProfilesLoadOrAreRefused :
    (let p : Port := .image; let k : Fin 68 := 5; let w : Word := 2; let e : List Byte := [0x58, 0x02, 0, 0, 0x00, 0x01, 0x40, 0x01, 9, 0, 7, 0, 100, 0, 1, 0]; let s : State := tst [] fun d => { d with image := { d.image with drive := [(2, [0x58, 0x02, 0, 0, 0x00, 0x01, 0x40, 0x01, 9, 0, 7, 0, 100, 0, 1, 0])] } }; s.admits p (selectorKey (.drive k)) w = true ∧ e = s.dev.image.drive.get [] (fieldGet w 0 4) ∧ driveEntryOk e = true) ∧
    (let p : Port := .image; let k : Fin 68 := 5; let w : Word := 2; let s : State := tst []; s.admits p (selectorKey (.drive k)) w = true ∧ driveEntryOk (s.dev.image.drive.get [] (fieldGet w 0 4)) = false) ∧
    (let p : Port := .image; let n : Fin 64 := 5; let w : Word := 2; let e : List Byte := [5, 0, 0, 0, 3, 0, 1, 0]; let s : State := tst [] fun d => { d with image := { d.image with loop := [(2, [5, 0, 0, 0, 3, 0, 1, 0])] } }; s.admits p (selectorKey (.loop n)) w = true ∧ e = s.dev.image.loop.get [] (fieldGet w 0 4) ∧ loopEntryOk e = true) ∧
    (let p : Port := .image; let n : Fin 64 := 5; let w : Word := 2; let s : State := tst []; s.admits p (selectorKey (.loop n)) w = true ∧ loopEntryOk (s.dev.image.loop.get [] (fieldGet w 0 4)) = false) ∧
    (let p : Port := .image; let k : Fin 68 := 5; let w : Word := 2; let e : List Byte := [0x00, 0x20, 0, 0, 8, 0, 0, 0, 0, 0, 0, 0, 0, 0, 0, 0]; let s : State := tst [] fun d => { d with image := { d.image with conv := [(2, [0x00, 0x20, 0, 0, 8, 0, 0, 0, 0, 0, 0, 0, 0, 0, 0, 0])] } }; s.admits p (selectorKey (.conv k)) w = true ∧ e = s.dev.image.conv.get [] (fieldGet w 0 4) ∧ convEntryOk e = true) ∧
    (let p : Port := .image; let k : Fin 68 := 5; let w : Word := 2; let s : State := tst []; s.admits p (selectorKey (.conv k)) w = true ∧ convEntryOk (s.dev.image.conv.get [] (fieldGet w 0 4)) = false) ∧
    (let p : Port := .image; let k : Fin 68 := 5; let w : Word := 2; let e : List Byte := [0x40, 0, 2, 0x25, 7, 0, 0, 0, 1, 0, 0, 0, 0, 0, 0, 0]; let s : State := tst [] fun d => { d with image := { d.image with capture := [(2, [0x40, 0, 2, 0x25, 7, 0, 0, 0, 1, 0, 0, 0, 0, 0, 0, 0])] } }; s.admits p (selectorKey (.capture k)) w = true ∧ e = s.dev.image.capture.get [] (fieldGet w 0 4) ∧ captureEntryOk e = true) ∧
    (let p : Port := .image; let k : Fin 68 := 5; let w : Word := 2; let s : State := tst []; s.admits p (selectorKey (.capture k)) w = true ∧ captureEntryOk (s.dev.image.capture.get [] (fieldGet w 0 4)) = false) ∧
    (let p : Port := .image; let k : Fin 68 := 5; let i : Fin 4 := 2; let w : Word := 0x80000009; let e : List Byte := [1, 0, 1, 0, 0x40, 0, 0, 0, 3, 0, 0, 0, 5, 0, 0, 0]; let s : State := tst [] fun d => { d with image := { d.image with mask := [(9, [1, 0, 1, 0, 0x40, 0, 0, 0, 3, 0, 0, 0, 5, 0, 0, 0])] } }; s.admits p (selectorKey (.mask k i)) w = true ∧ s.fld (F.MASK_SEL_EN k i) = 0 ∧ e = s.dev.image.mask.get [] (fieldGet w 0 8) ∧ maskEntryOk e = true) ∧
    (let p : Port := .image; let k : Fin 68 := 5; let i : Fin 4 := 2; let w : Word := 0x80000009; let s : State := tst [(R.MASK_SEL 5 2, 0x80000001), (R.MASK_STATE 5 2, 1)]; s.admits p (selectorKey (.mask k i)) w = true ∧ s.fld (F.MASK_SEL_EN k i) = 1 ∧ bit w 31 = true ∧ fieldGet w 0 8 ≠ s.fld (F.MASK_SEL_IDX k i) ∧ s.fld (F.MASK_STATE_ST k i) ≠ 0) ∧
    (let p : Port := .image; let k : Fin 68 := 5; let i : Fin 4 := 2; let w : Word := 9; let s : State := tst []; s.admits p (selectorKey (.mask k i)) w = true ∧ s.fld (F.MASK_SEL_EN k i) = 0 ∧ bit w 31 = false ∧ maskEntryOk (s.dev.image.mask.get [] (fieldGet w 0 8)) = false) :=
  by and_intros <;> decide +kernel

/-- The hypotheses of CommitsMoveTheMapAtTheirBeat can be met. -/
theorem test_hyps_CommitsMoveTheMapAtTheirBeat :
    (let p : Port := .image; let beat : BitVec 64 := 7; let s : State := tst [(R.LT_STATE, 0xC)]; s.admits p R.XBAR_COMMIT_LO (BitVec.ofNat 32 beat.toNat) = true ∧ s.admits p R.XBAR_COMMIT_HI (BitVec.ofNat 32 (beat.toNat / 2 ^ 32)) = true ∧ s.valid = true ∧ s.flg F.XBAR_STATUS_PENDING = false ∧ s.reg64 R.LT_BEAT_LO R.LT_BEAT_HI < beat.toNat ∧ hasRepeat s.pendMap = false ∧ s.gangBusy = false) ∧
    (let p : Port := .image; let beat : BitVec 64 := 7; let s : State := tst [(R.LT_STATE, 0xC), (R.LT_BEAT_LO, 7), (R.XBAR_MAP 3, 0x40003)]; s.admits p R.XBAR_COMMIT_LO (BitVec.ofNat 32 beat.toNat) = true ∧ s.admits p R.XBAR_COMMIT_HI (BitVec.ofNat 32 (beat.toNat / 2 ^ 32)) = true ∧ (s.valid = false ∨ s.flg F.XBAR_STATUS_PENDING = true ∨ beat.toNat ≤ s.reg64 R.LT_BEAT_LO R.LT_BEAT_HI ∨ hasRepeat s.pendMap = true ∨ s.gangBusy = true)) ∧
    (let s : State := tst [(R.LT_STATE, 0xC), (R.XBAR_STATUS, 1), (R.CAP_STATE 0, 2), (R.EVM_STATE 0 1, 2), (R.SEQ_STATE 2, 1), (R.FMT_MODE 2, 0)] fun d => { d with xbar := { d.xbar with beat := 7, map := [1, 0, 66], gangs := [1] } }; s.awake = true ∧ s.flg F.XBAR_STATUS_PENDING = true ∧ s.valid = true ∧ hasRepeat (channels.map fun (n : Nat) => s.dev.xbar.map.getD n n) = false ∧ channels.all (fun n => decide (s.dev.xbar.map.getD n n < 68)) = true) ∧
    (let s : State := tst [(R.LT_STATE, 0xC), (R.XBAR_STATUS, 1)] fun d => { d with xbar := { d.xbar with beat := 7, gangs := [1] } }; s.awake = true ∧ s.flg F.XBAR_STATUS_PENDING = true ∧ s.valid = true ∧ channels.all (fun n => s.dev.xbar.map.getD n n = s.core n) = true) :=
  by and_intros <;> decide +kernel

/-- The hypotheses of LargeDifferencesRestartTheCountAndSmallOnesWarn can be met. -/
theorem test_hyps_LargeDifferencesRestartTheCountAndSmallOnesWarn :
    (let cycles : Nat := 491523; let backup : Nat := 16384; let phase : BitVec 16 := 7; let s : State := tst [(R.LT_XREF, 0x3000), (R.LT_STATE, 3)] fun d => { d with lt := { d.lt with lockGood := 3 } }; s.awake = true ∧ s.fld F.LT_STATE_LOCK_ST = 3 ∧ 2 < ((cycles : Int) - (16384 * cyclesPerRef (s.fld F.LT_XREF_RATE) : Nat)).natAbs) ∧
    (let cycles : Nat := 491515; let backup : Nat := 16384; let phase : BitVec 16 := 7; let s : State := tst [(R.LT_XREF, 0x3000), (R.LT_STATE, 0xC)]; s.awake = true ∧ s.fld F.LT_STATE_LOCK_ST = 4 ∧ 2 < ((cycles : Int) - (16384 * cyclesPerRef (s.fld F.LT_XREF_RATE) : Nat)).natAbs ∧ ((cycles : Int) - (16384 * cyclesPerRef (s.fld F.LT_XREF_RATE) : Nat)).natAbs ≤ 8) :=
  by and_intros <;> decide +kernel

/-- The hypotheses of APeerCommandOffersItsClass can be met. -/
theorem test_hyps_APeerCommandOffersItsClass :
    (let link : Fin 2 := 0; let n : Fin 64 := 9; let arg : Word := 0xDEADBEEF; let s : State := tst [(R.PEER_CFG, 5)]; s.awake = true ∧ s.linkOn link = true ∧ s.flg (if link.val = 0 then F.PEER_CFG_PCMD_E else F.PEER_CFG_PCMD_W) = true) ∧
    (let link : Fin 2 := 0; let n : Fin 64 := 9; let arg : Word := 0xDEADBEEF; let s : State := tst [(R.PEER_CFG, 0xB)]; s.awake = true ∧ s.linkOn link = true ∧ s.flg (if link.val = 0 then F.PEER_CFG_PCMD_E else F.PEER_CFG_PCMD_W) = false) :=
  by and_intros <;> decide +kernel

/-- The hypotheses of ReferenceLossLeadsToHoldover can be met. -/
theorem test_hyps_ReferenceLossLeadsToHoldover :
    (let n : Nat := 1000; let s : State := tst [(R.LT_XREF, 0x3000), (R.LT_STATE, 1)] fun d => { d with lt := { d.lt with goodWindows := 3 } }; s.awake = true ∧ s.fld F.LT_XREF_RATE ≤ 4 ∧ presenceGood (s.fld F.LT_XREF_RATE) n = true ∧ 3 ≤ s.dev.lt.goodWindows ∧ s.fld F.LT_STATE_REF_OK = 0 ∧ s.fld F.LT_STATE_LOCK_ST = 1) ∧
    (let n : Nat := 900; let s : State := tst [(R.LT_XREF, 0x3000), (R.LT_STATE, 4)]; s.awake = true ∧ s.fld F.LT_XREF_RATE ≤ 4 ∧ presenceGood (s.fld F.LT_XREF_RATE) n = false ∧ s.fld F.LT_STATE_LOCK_ST = 4) ∧
    (let s : State := tst [(R.LT_STATE, 4)]; s.awake = true ∧ s.fld F.LT_STATE_LOCK_ST = 4) ∧
    (let s : State := tst [(R.LT_STATE, 4)]; s.awake = true ∧ s.fld F.LT_STATE_LOCK_ST = 4) ∧
    (let s : State := tst [(R.LT_STATE, 2)]; s.awake = true ∧ s.fld F.LT_STATE_LOCK_ST = 2) ∧
    (let s : State := tst [(R.LT_STATE, 5)]; s.awake = true ∧ s.fld F.LT_STATE_LOCK_ST = 5) ∧
    (let s : State := tst [(R.LT_STATE, 0xD), (R.SEQ_STATE 3, 1), (R.CAP_STATE 3, 1)] fun d => { d with lt := { d.lt with freezeDue := true } }; s.awake = true ∧ s.dev.lt.freezeDue = true) :=
  by and_intros <;> decide +kernel

/-- The hypotheses of LockWindowsLockAndUnlock can be met. -/
theorem test_hyps_LockWindowsLockAndUnlock :
    (let cycles : Nat := 491520; let backup : Nat := 16384; let phase : BitVec 16 := 7; let s : State := tst [(R.LT_XREF, 0x3000), (R.LT_STATE, 3)] fun d => { d with lt := { d.lt with lockGood := 3 } }; s.awake = true ∧ s.fld F.LT_STATE_LOCK_ST = 3 ∧ ((cycles : Int) - (16384 * cyclesPerRef (s.fld F.LT_XREF_RATE) : Nat)).natAbs ≤ 2 ∧ s.dev.lt.lockGood = 3) ∧
    (let cycles : Nat := 491523; let backup : Nat := 16384; let phase : BitVec 16 := 7; let s : State := tst [(R.LT_XREF, 0x3000), (R.LT_STATE, 3)] fun d => { d with lt := { d.lt with lockTotal := 63 } }; s.awake = true ∧ s.fld F.LT_STATE_LOCK_ST = 3 ∧ 2 < ((cycles : Int) - (16384 * cyclesPerRef (s.fld F.LT_XREF_RATE) : Nat)).natAbs ∧ s.dev.lt.lockTotal = 63) ∧
    (let cycles : Nat := 491520; let backup : Nat := 16384; let phase : BitVec 16 := 7; let s : State := tst [(R.LT_XREF, 0x3000), (R.LT_STATE, 3)]; s.awake = true ∧ s.fld F.LT_STATE_LOCK_ST = 3 ∧ ((cycles : Int) - (16384 * cyclesPerRef (s.fld F.LT_XREF_RATE) : Nat)).natAbs ≤ 2 ∧ s.dev.lt.lockGood < 3 ∧ s.dev.lt.lockTotal < 63) ∧
    (let cycles : Nat := 491515; let backup : Nat := 16384; let phase : BitVec 16 := 7; let s : State := tst [(R.LT_XREF, 0x3000), (R.LT_STATE, 4)]; s.awake = true ∧ s.fld F.LT_STATE_LOCK_ST = 4 ∧ ((cycles : Int) - (16384 * cyclesPerRef (s.fld F.LT_XREF_RATE) : Nat)).natAbs ≤ 8) ∧
    (let cycles : Nat := 491510; let backup : Nat := 16384; let phase : BitVec 16 := 7; let s : State := tst [(R.LT_XREF, 0x3000), (R.LT_STATE, 4)]; s.awake = true ∧ s.fld F.LT_STATE_LOCK_ST = 4 ∧ 8 < ((cycles : Int) - (16384 * cyclesPerRef (s.fld F.LT_XREF_RATE) : Nat)).natAbs) :=
  by and_intros <;> decide +kernel

/-- The hypotheses of BeatsAndFramesSetLineTime can be met. -/
theorem test_hyps_BeatsAndFramesSetLineTime :
    (let clean : Bool := true; let pre : BitVec 16 := 0x5555; let sfd : Byte := 0x5D; let flags : Byte := 0x18; let beat : BitVec 64 := 7; let crc : BitVec 16 := crc16 (0x18 :: natLE 8 7); let gap : Nat := 64; let s : State := tst []; s.awake = true ∧ clean = true ∧ sfd = 0x5D ∧ flags.toNat / 16 = 1 ∧ crc = crc16 (flags :: natLE 8 beat.toNat) ∧ 64 ≤ gap) ∧
    (let clean : Bool := true; let pre : BitVec 16 := 0x5555; let sfd : Byte := 0x5D; let flags : Byte := 0x18; let beat : BitVec 64 := 7; let crc : BitVec 16 := crc16 (0x18 :: natLE 8 7); let gap : Nat := 63; let s : State := tst []; s.awake = true ∧ (clean = false ∨ sfd ≠ 0x5D ∨ flags.toNat / 16 ≠ 1 ∨ crc ≠ crc16 (flags :: natLE 8 beat.toNat) ∨ gap < 64)) ∧
    (let s : State := tst [(R.LT_STATE, 0xC)]; s.awake = true ∧ s.fld F.LT_STATE_LT_ST = 1) ∧
    (let f : Frame := Frame.mk 5 true; let s : State := tst [(R.LT_STATE, 0x34)] fun d => { d with lt := { d.lt with frame := some ⟨5, true⟩ } }; s.awake = true ∧ s.fld F.LT_STATE_LT_ST ≠ 1 ∧ s.locked = true ∧ s.dev.lt.frame = some f) ∧
    (let s : State := tst [] fun d => { d with lt := { d.lt with frame := some ⟨5, true⟩ } }; s.awake = true ∧ s.fld F.LT_STATE_LT_ST ≠ 1 ∧ s.locked = false) ∧
    (let sync : Bool := false; let b : Nat := 6; let s : State := tst [(R.LT_STATE, 0xC), (R.LT_BEAT_LO, 5)] fun d => { d with lt := { d.lt with frame := some ⟨7, true⟩ } }; s.awake = true ∧ s.fld F.LT_STATE_LT_ST = 1 ∧ b = (s.reg64 R.LT_BEAT_LO R.LT_BEAT_HI + 1) % 2 ^ 64) :=
  by and_intros <;> decide +kernel

/-- The hypotheses of ClockRegistersActOrRefuse can be met. -/
theorem test_hyps_ClockRegistersActOrRefuse :
    (let p : Port := .image; let s : State := tst [(R.LT_STATE, 0xC)]; s.admits p R.LT_CTL (fieldPut (s.reg R.LT_CTL) 1 1 1) = true ∧ s.anyActive = false) ∧
    (let p : Port := .image; let s : State := tst [(R.LT_STATE, 0xC), (R.PWR_PARKED 0, 0), (R.FMT_MODE 0, 0)]; s.admits p R.LT_CTL (fieldPut (s.reg R.LT_CTL) 1 1 1) = true ∧ s.anyActive = true) ∧
    (let p : Port := .image; let s : State := tst [(R.LT_STATE, 0xC)]; s.admits p R.LT_CTL (fieldPut (s.reg R.LT_CTL) 2 1 1) = true ∧ s.anyActive = false ∧ s.locked = true) ∧
    (let p : Port := .image; let s : State := tst [(R.LT_STATE, 0xC), (R.PWR_PARKED 0, 0), (R.FMT_MODE 0, 0)]; s.admits p R.LT_CTL (fieldPut (s.reg R.LT_CTL) 2 1 1) = true ∧ s.anyActive = true) ∧
    (let p : Port := .image; let w : Word := 256; let s : State := tst [(R.PWR_PARKED 0, 0), (R.FMT_MODE 0, 0)]; s.admits p R.LT_SKEW w = true ∧ ((signed 20 (fieldGet w 0 20) - s.dev.lt.skew).natAbs ≤ 256 ∨ s.anyActive = false)) ∧
    (let p : Port := .image; let w : Word := 257; let s : State := tst [(R.PWR_PARKED 0, 0), (R.FMT_MODE 0, 0)]; s.admits p R.LT_SKEW w = true ∧ 256 < (signed 20 (fieldGet w 0 20) - s.dev.lt.skew).natAbs ∧ s.anyActive = true) ∧
    (let p : Port := .image; let w : Word := 0; let s : State := tst [(R.PAGE 1, 1)]; s.admits p R.LT_XREF w = true ∧ xrefAllowed s w = false) ∧
    (let p : Port := .image; let w : Word := 0x301E; let s : State := tst [(R.PWR_PARKED 0, 0), (R.FMT_MODE 0, 0), (R.PAGE 1, 1)]; s.admits p R.LT_XREF w = true ∧ xrefAllowed s w = true ∧ w &&& R.LT_XREF.id.mask ≠ s.reg R.LT_XREF ∧ s.anyActive = true) ∧
    (let p : Port := .image; let w : Word := 0x301E; let s : State := tst [(R.PAGE 1, 1)]; s.admits p R.LT_XREF w = true ∧ xrefAllowed s w = true ∧ w &&& R.LT_XREF.id.mask ≠ s.reg R.LT_XREF ∧ s.anyActive = false) ∧
    (let p : Port := .image; let w : Word := 3; let x : Word := 0x301E; let i : Nat := 3; let s : State := tst [] fun d => { d with image := { d.image with clock := [(3, 0x301E)] } }; s.admits p R.LT_CLKPROF w = true ∧ i = fieldGet w 0 4 ∧ s.dev.image.clock.find? (fun e => e.1 = i) = some (i, x) ∧ xrefAllowed s x = true ∧ x &&& R.LT_XREF.id.mask ≠ s.reg R.LT_XREF ∧ s.anyActive = false) ∧
    (let p : Port := .image; let w : Word := 3; let s : State := tst []; s.admits p R.LT_CLKPROF w = true ∧ s.dev.image.clock.find? (fun e => e.1 = fieldGet w 0 4) = none) :=
  by and_intros <;> decide +kernel

/-- The hypotheses of PlainStepsRun can be met. -/
theorem test_hyps_PlainStepsRun :
    (let n : Fin 64 := 0; let s : State := tst [(R.SEQ_STATE 0, 1)] (locked) [(0x400048003, 0x80), (0x4000483C3, 0x80), (0x4000483C7, 0x80), (0x4000483FB, 0x80), (0x4000483FF, 0x80)]; s.takesStep n 0x00 = true) ∧
    (let n : Fin 64 := 0; let s : State := tst [(R.SEQ_STATE 0, 1)] (locked) [(0x300000007, 0x1), (0x400048007, 0x80), (0x4000483C3, 0x80), (0x4000483C7, 0x80), (0x4000483FB, 0x80), (0x4000483FF, 0x80)]; s.takesStep n 0x01 = true) ∧
    (let n : Fin 64 := 0; let s : State := tst [(R.SEQ_STATE 0, 1)] (locked) [(0x300000007, 0x2), (0x40004800B, 0x80), (0x4000483C3, 0x80), (0x4000483C7, 0x80), (0x4000483FB, 0x80), (0x4000483FF, 0x80)]; s.takesStep n 0x02 = true ∧ operand (s.nextWord n) 0 1 = 0) ∧
    (let n : Fin 64 := 0; let s : State := tst [(R.SEQ_STATE 0, 1)] (locked) [(0x300000000, 0x1), (0x300000007, 0x2), (0x40004800B, 0x80), (0x4000483C3, 0x80), (0x4000483C7, 0x80), (0x4000483FB, 0x80), (0x4000483FF, 0x80)]; s.takesStep n 0x02 = true ∧ operand (s.nextWord n) 0 1 = 1) ∧
    (let n : Fin 64 := 0; let s : State := tst [(R.SEQ_STATE 0, 1)] (fun d => locked ((fun d => { d with cores := [(0, { seq := { loops := [⟨5, 1, 3⟩] } })] } : Dev → Dev) d)) [(0x300000000, 0x4D), (0x300000003, 0x1), (0x300000007, 0x8), (0x400048023, 0x80), (0x4000483C3, 0x80), (0x4000483C7, 0x80), (0x4000483FB, 0x80), (0x4000483FF, 0x80)]; s.takesStep n 0x08 = true ∧ operand (s.nextWord n) 24 4 + (((s.cst (s.core n)).seq.calls.head?.map (·.2)).getD 0) ≤ (s.cst (s.core n)).seq.loops.length) ∧
    (let n : Fin 64 := 0; let m : Nat := 0x800000089000000000000000; let s : State := tst [(R.SEQ_STATE 0, 1)] locked [(0x400040007, 0x90), (0x400040008, 0x8), (0x40004000B, 0x80), (0x400048001, 0x40), (0x400048003, 0x80)]; s.awake = true ∧ s.stepping n = true ∧ s.badWord (stepAddr (s.pc (s.core n))) 8 = false ∧ s.opcode (s.core n) = 0 ∧ s.entryOk (s.core n) 0 = true ∧ s.dispatchOk (s.core n) 0 = false ∧ s.microWord (s.core n) (s.entryTarget 0) = some m ∧ microReserved m = false ∧ operand m 36 4 = 0 ∧ operand m 93 3 = 4 ∧ operand m 67 5 = 1 ∧ operand m 63 4 = 1 ∧ operand m 59 4 = 2 ∧ operand m 55 4 ≠ 14 ∧ operand m 44 6 = 0 ∧ operand m 40 4 = 0 ∧ (s.cst (s.core n)).seq.dq = []) :=
  by and_intros <;> decide +kernel

/-- The hypotheses of LoopsCallsAndDispatch can be met. -/
theorem test_hyps_LoopsCallsAndDispatch :
    (let n : Fin 64 := 0; let s : State := tst [(R.SEQ_STATE 0, 1)] (locked) [(0x300000000, 0x63), (0x300000007, 0x9), (0x400048027, 0x80), (0x4000483C3, 0x80), (0x4000483C7, 0x80), (0x4000483FB, 0x80), (0x4000483FF, 0x80)]; s.takesStep n 0x09 = true ∧ (s.cst (s.core n)).seq.calls.length < 8) ∧
    (let n : Fin 64 := 0; let a : Nat := 7; let d : Nat := 0; let r : List (Nat × Nat) := []; let s : State := tst [(R.SEQ_STATE 0, 1)] (fun d => locked ((fun d => { d with cores := [(0, { seq := { calls := [(7, 0)] } })] } : Dev → Dev) d)) [(0x300000007, 0xA), (0x40004802B, 0x80), (0x4000483C3, 0x80), (0x4000483C7, 0x80), (0x4000483FB, 0x80), (0x4000483FF, 0x80)]; s.takesStep n 0x0A = true ∧ (s.cst (s.core n)).seq.calls = (a, d) :: r ∧ (s.cst (s.core n)).seq.loops.length = d) ∧
    (let n : Fin 64 := 0; let s : State := tst [(R.SEQ_STATE 0, 1)] (locked) [(0x300000003, 0x9), (0x300000007, 0xB), (0x40004802F, 0x80), (0x4000483C3, 0x80), (0x4000483C7, 0x80), (0x4000483FB, 0x80), (0x4000483FF, 0x80)]; s.takesStep n 0x0B = true ∧ operand (s.nextWord n) 0 24 = 0) ∧
    (let n : Fin 64 := 0; let s : State := tst [(R.SEQ_STATE 0, 1)] (locked) [(0x300000000, 0x4), (0x300000003, 0x9), (0x300000007, 0xB), (0x40004802F, 0x80), (0x4000483C3, 0x80), (0x4000483C7, 0x80), (0x4000483FB, 0x80), (0x4000483FF, 0x80)]; s.takesStep n 0x0B = true ∧ operand (s.nextWord n) 0 24 ≠ 0 ∧ (s.cst (s.core n)).seq.loops.length < 8) ∧
    (let n : Fin 64 := 0; let l : LoopEnt := ⟨0, 3, 2⟩; let r : List LoopEnt := []; let s : State := tst [(R.SEQ_STATE 0, 1)] (fun d => locked ((fun d => { d with cores := [(0, { seq := { loops := [⟨0, 3, 2⟩] } })] } : Dev → Dev) d)) [(0x300000007, 0xC), (0x400048033, 0x80), (0x4000483C3, 0x80), (0x4000483C7, 0x80), (0x4000483FB, 0x80), (0x4000483FF, 0x80)]; s.takesStep n 0x0C = true ∧ (s.cst (s.core n)).seq.loops = l :: r ∧ l.enda = s.pc (s.core n) ∧ 1 < l.rem) ∧
    (let n : Fin 64 := 0; let l : LoopEnt := ⟨0, 3, 1⟩; let r : List LoopEnt := []; let s : State := tst [(R.SEQ_STATE 0, 1)] (fun d => locked ((fun d => { d with cores := [(0, { seq := { loops := [⟨0, 3, 1⟩] } })] } : Dev → Dev) d)) [(0x300000007, 0xC), (0x400048033, 0x80), (0x4000483C3, 0x80), (0x4000483C7, 0x80), (0x4000483FB, 0x80), (0x4000483FF, 0x80)]; s.takesStep n 0x0C = true ∧ (s.cst (s.core n)).seq.loops = l :: r ∧ l.enda = s.pc (s.core n) ∧ l.rem ≤ 1) ∧
    (let n : Fin 64 := 0; let a : Nat := stepAddr 0x11; let s : State := tst [(R.SEQ_STATE 0, 1)] (locked) [(0x300000000, 0x10), (0x300000002, 0x20), (0x300000007, 0xD), (0x400048037, 0x80), (0x4000483C3, 0x80), (0x4000483C7, 0x80), (0x4000483FB, 0x80), (0x4000483FF, 0x80)]; s.takesStep n 0x0D = true ∧ ((List.range 4).all fun j => decide (operand (s.nextWord n) (21 + 5 * j) 5 < 21)) = true ∧ a = stepAddr (operand (s.nextWord n) 0 21 + (if s.selector (s.core n) (operand (s.nextWord n) 21 5) then 1 else 0) + (if s.selector (s.core n) (operand (s.nextWord n) 26 5) then 2 else 0) + (if s.selector (s.core n) (operand (s.nextWord n) 31 5) then 4 else 0) + (if s.selector (s.core n) (operand (s.nextWord n) 36 5) then 8 else 0)) ∧ s.badWord a 8 = false) :=
  by and_intros <;> decide +kernel

/-- The hypotheses of WaitingStepsStallAndEnd can be met. -/
theorem test_hyps_WaitingStepsStallAndEnd :
    (let n : Fin 64 := 0; let s : State := tst [(R.SEQ_STATE 0, 1)] (locked) [(0x300000000, 0x3), (0x300000007, 0x10), (0x400048043, 0x80), (0x4000483C3, 0x80), (0x4000483C7, 0x80), (0x4000483FB, 0x80), (0x4000483FF, 0x80)]; s.takesStep n 0x10 = true ∧ ((s.cst (s.core n)).play.playing && (s.cst (s.core n)).play.pastD && (s.cst (s.core n)).play.next.isNone) = false) ∧
    (let n : Fin 64 := 0; let s : State := tst [(R.SEQ_STATE 0, 1)] (fun d => locked ((fun d => { d with cores := [(0, { play := { playing := true, pastD := true } })] } : Dev → Dev) d)) [(0x300000000, 0x3), (0x300000007, 0x10), (0x400048043, 0x80), (0x4000483C3, 0x80), (0x4000483C7, 0x80), (0x4000483FB, 0x80), (0x4000483FF, 0x80)]; s.takesStep n 0x10 = true ∧ ((s.cst (s.core n)).play.playing && (s.cst (s.core n)).play.pastD && (s.cst (s.core n)).play.next.isNone) = true) ∧
    (let n : Fin 64 := 0; let s : State := tst [(R.SEQ_STATE 0, 1)] (locked) [(0x300000000, 0x5), (0x300000007, 0x11), (0x400048047, 0x80), (0x4000483C3, 0x80), (0x4000483C7, 0x80), (0x4000483FB, 0x80), (0x4000483FF, 0x80)]; s.takesStep n 0x11 = true ∧ operand (s.nextWord n) 54 2 = 0) ∧
    (let n : Fin 64 := 0; let s : State := tst [(R.SEQ_STATE 0, 1)] (locked) [(0x300000000, 0x5), (0x300000006, 0x40), (0x300000007, 0x11), (0x400048047, 0x80), (0x4000483C3, 0x80), (0x4000483C7, 0x80), (0x4000483FB, 0x80), (0x4000483FF, 0x80)]; s.takesStep n 0x11 = true ∧ operand (s.nextWord n) 54 2 = 1) ∧
    (let n : Fin 64 := 0; let s : State := tst [(R.SEQ_STATE 0, 1)] (locked) [(0x300000000, 0x5), (0x300000006, 0x80), (0x300000007, 0x11), (0x400048047, 0x80), (0x4000483C3, 0x80), (0x4000483C7, 0x80), (0x4000483FB, 0x80), (0x4000483FF, 0x80)]; s.takesStep n 0x11 = true ∧ operand (s.nextWord n) 54 2 = 2) ∧
    (let n : Fin 64 := 0; let s : State := tst [(R.SEQ_STATE 0, 1), (R.EVJ_PEND 0, 3)] (locked) [(0x300000000, 0x9), (0x300000004, 0x80), (0x300000005, 0x6), (0x300000007, 0x12), (0x40004804B, 0x80), (0x4000483C3, 0x80), (0x4000483C7, 0x80), (0x4000483FB, 0x80), (0x4000483FF, 0x80)]; s.takesStep n 0x12 = true ∧ (operand (s.nextWord n) 40 16 ≠ 0 ∨ operand (s.nextWord n) 0 32 ≠ 0)) ∧
    (let n : Fin 64 := 0; let s : State := tst [(R.SEQ_STATE 0, 2)] (fun d => locked ((fun d => { d with cores := [(0, { seq := { stall := .play }, play := { started := true } })] } : Dev → Dev) d)); s.awake = true ∧ s.stalled n .play = true ∧ (s.cst (s.core n)).play.started = true ∧ (s.cst (s.core n)).seq.dq = []) ∧
    (let n : Fin 64 := 0; let s : State := tst [(R.SEQ_STATE 0, 2)] (fun d => locked ((fun d => { d with cores := [(0, { seq := { stall := .waitlt, t0 := 800, anch := true } })] } : Dev → Dev) d)); s.awake = true ∧ s.stalled n .waitlt = true) ∧
    (let n : Fin 64 := 0; let s : State := tst [(R.SEQ_STATE 0, 2), (R.EVJ_PEND 0, 12)] (fun d => locked ((fun d => { d with cores := [(0, { seq := { stall := .waitev, mask := 8, t1 := 900 } })] } : Dev → Dev) d)); s.awake = true ∧ s.stalled n .waitev = true ∧ s.waitedFor (s.core n) ≠ 0) ∧
    (let n : Fin 64 := 0; let s : State := tst [(R.SEQ_STATE 0, 2), (R.EVJ_PEND 0, 4)] (fun d => locked ((fun d => { d with cores := [(0, { seq := { stall := .waitev, mask := 8, t1 := 900 } })] } : Dev → Dev) d)); s.awake = true ∧ s.stalled n .waitev = true ∧ s.waitedFor (s.core n) = 0 ∧ (s.cst (s.core n)).seq.t1 ≠ 0) :=
  by and_intros <;> decide +kernel

/-- The hypotheses of SettingStepsRun can be met. -/
theorem test_hyps_SettingStepsRun :
    (let n : Fin 64 := 0; let s : State := tst [(R.SEQ_STATE 0, 1)] (locked) [(0x300000000, 0x23), (0x300000001, 0x1), (0x300000004, 0x1), (0x300000007, 0x18), (0x400048063, 0x80), (0x4000483C3, 0x80), (0x4000483C7, 0x80), (0x4000483FB, 0x80), (0x4000483FF, 0x80)]; s.takesStep n 0x18 = true ∧ bit (BitVec.ofNat 32 (operand (s.nextWord n) 0 32)) 31 = false) ∧
    (let n : Fin 64 := 0; let s : State := tst [(R.SEQ_STATE 0, 1)] (locked) [(0x300000003, 0x80), (0x300000007, 0x18), (0x400048063, 0x80), (0x4000483C3, 0x80), (0x4000483C7, 0x80), (0x4000483FB, 0x80), (0x4000483FF, 0x80)]; s.takesStep n 0x18 = true ∧ bit (BitVec.ofNat 32 (operand (s.nextWord n) 0 32)) 31 = true) ∧
    (let n : Fin 64 := 0; let s : State := tst [(R.SEQ_STATE 0, 1)] (locked) [(0x300000005, 0x3), (0x300000007, 0x19), (0x400048067, 0x80), (0x4000483C3, 0x80), (0x4000483C7, 0x80), (0x4000483FB, 0x80), (0x4000483FF, 0x80)]; s.takesStep n 0x19 = true ∧ operand (s.nextWord n) 40 3 ≠ 1 ∧ operand (s.nextWord n) 40 3 ≠ 7 ∧ operand (s.nextWord n) 39 1 = 0 ∧ operand (s.nextWord n) 32 1 = 0) ∧
    (let n : Fin 64 := 0; let s : State := tst [(R.SEQ_STATE 0, 1)] (fun d => locked ((fun d => { d with rings := [(6, { on := true, typ := 1, k := 4, esz := 2 })] } : Dev → Dev) d)) [(0x300000007, 0x1A), (0x40004806B, 0x80), (0x4000483C3, 0x80), (0x4000483C7, 0x80), (0x4000483FB, 0x80), (0x4000483FF, 0x80)]; s.takesStep n 0x1A = true ∧ (s.dev.buf.filter fun b => b.kind = 0 && b.owner = n.val) = [] ∧ s.ringTakes (s.chRing n 6) 1 32 = true) ∧
    (let n : Fin 64 := 0; let s : State := tst [(R.SEQ_STATE 0, 1), (R.CAP_CFG 0, 0x00200000)] (locked) [(0x300000007, 0x1B), (0x40004806F, 0x80), (0x4000483C3, 0x80), (0x4000483C7, 0x80), (0x4000483FB, 0x80), (0x4000483FF, 0x80)]; s.takesStep n 0x1B = true ∧ s.ganged n = false ∧ operand (s.nextWord n) 6 1 = 0 ∧ operand (s.nextWord n) 5 1 = 0 ∧ s.armCode (s.core n) = 0) ∧
    (let n : Fin 64 := 0; let s : State := tst [(R.SEQ_STATE 0, 1)] (locked) [(0x300000007, 0x1B), (0x40004806F, 0x80), (0x4000483C3, 0x80), (0x4000483C7, 0x80), (0x4000483FB, 0x80), (0x4000483FF, 0x80)]; s.takesStep n 0x1B = true ∧ s.ganged n = false ∧ operand (s.nextWord n) 6 1 = 0 ∧ operand (s.nextWord n) 5 1 = 0 ∧ s.armCode (s.core n) ≠ 0) ∧
    (let n : Fin 64 := 0; let s : State := tst [(R.SEQ_STATE 0, 1), (R.CAP_STATE 0, 1)] (locked) [(0x300000000, 0x40), (0x300000007, 0x1B), (0x40004806F, 0x80), (0x4000483C3, 0x80), (0x4000483C7, 0x80), (0x4000483FB, 0x80), (0x4000483FF, 0x80)]; s.takesStep n 0x1B = true ∧ s.ganged n = false ∧ s.channelOf (s.core n) = some n.val ∧ s.captureQuiet (s.core n) (s.stepB (s.core n) + 24) = true ∧ operand (s.nextWord n) 6 1 = 1) :=
  by and_intros <;> decide +kernel

/-- The hypotheses of StepsFaultAtTheirPc can be met. -/
theorem test_hyps_StepsFaultAtTheirPc :
    (let n : Fin 64 := 0; let s : State := tst [(R.SEQ_STATE 0, 1)] (locked) [(0x300000007, 0xF7), (0x4000483C3, 0x80), (0x4000483C7, 0x80), (0x4000483DF, 0x80), (0x4000483FB, 0x80), (0x4000483FF, 0x80)]; s.awake = true ∧ s.stepping n = true ∧ opcodes.contains (s.opcode (s.core n)) = false ∧ s.badWord (stepAddr (s.pc (s.core n))) 8 = false ∧ s.channelOf (s.core n) = some n.val ∧ s.dispatchOk (s.core n) (if 0xF0 ≤ s.opcode (s.core n) then 0xFF else s.opcode (s.core n)) = true) ∧
    (let n : Fin 64 := 0; let s : State := tst [(R.SEQ_STATE 0, 1)] (locked) [(0x300000006, 0xC0), (0x300000007, 0x11), (0x400048047, 0x80), (0x4000483C3, 0x80), (0x4000483C7, 0x80), (0x4000483FB, 0x80), (0x4000483FF, 0x80)]; s.takesStep n 0x11 = true ∧ operand (s.nextWord n) 54 2 = 3) ∧
    (let n : Fin 64 := 0; let s : State := tst [(R.SEQ_STATE 0, 1)] (locked) [(0x300000007, 0x12), (0x40004804B, 0x80), (0x4000483C3, 0x80), (0x4000483C7, 0x80), (0x4000483FB, 0x80), (0x4000483FF, 0x80)]; s.takesStep n 0x12 = true ∧ operand (s.nextWord n) 40 16 = 0 ∧ operand (s.nextWord n) 0 32 = 0) ∧
    (let n : Fin 64 := 0; let s : State := tst [(R.SEQ_STATE 0, 1)] (locked) [(0x300000005, 0x1), (0x300000007, 0x19), (0x400048067, 0x80), (0x4000483C3, 0x80), (0x4000483C7, 0x80), (0x4000483FB, 0x80), (0x4000483FF, 0x80)]; s.takesStep n 0x19 = true ∧ operand (s.nextWord n) 40 3 = 1) ∧
    (let n : Fin 64 := 0; let s : State := tst [(R.SEQ_STATE 0, 1)] (fun d => locked ((fun d => { d with cores := [(0, { seq := { loops := List.replicate 8 ⟨9, 1, 2⟩ } })] } : Dev → Dev) d)) [(0x300000000, 0x1), (0x300000007, 0xB), (0x40004802F, 0x80), (0x4000483C3, 0x80), (0x4000483C7, 0x80), (0x4000483FB, 0x80), (0x4000483FF, 0x80)]; s.takesStep n 0x0B = true ∧ operand (s.nextWord n) 0 24 ≠ 0 ∧ 8 ≤ (s.cst (s.core n)).seq.loops.length) ∧
    (let n : Fin 64 := 0; let s : State := tst [(R.SEQ_STATE 0, 1)] (locked) [(0x300000007, 0xC), (0x400048033, 0x80), (0x4000483C3, 0x80), (0x4000483C7, 0x80), (0x4000483FB, 0x80), (0x4000483FF, 0x80)]; s.takesStep n 0x0C = true ∧ (s.cst (s.core n)).seq.loops = []) ∧
    (let n : Fin 64 := 0; let s : State := tst [(R.SEQ_STATE 0, 1)] (fun d => locked ((fun d => { d with cores := [(0, { seq := { loops := [⟨9, 1, 2⟩] } })] } : Dev → Dev) d)) [(0x300000007, 0xC), (0x400048033, 0x80), (0x4000483C3, 0x80), (0x4000483C7, 0x80), (0x4000483FB, 0x80), (0x4000483FF, 0x80)]; s.takesStep n 0x0C = true ∧ (s.cst (s.core n)).seq.loops.head?.map (·.enda) ≠ some (s.pc (s.core n)) ∧ (s.cst (s.core n)).seq.loops ≠ []) ∧
    (let n : Fin 64 := 0; let s : State := tst [(R.SEQ_STATE 0, 1)] (fun d => locked ((fun d => { d with cores := [(0, { seq := { calls := List.replicate 8 (1, 0) } })] } : Dev → Dev) d)) [(0x300000007, 0x9), (0x400048027, 0x80), (0x4000483C3, 0x80), (0x4000483C7, 0x80), (0x4000483FB, 0x80), (0x4000483FF, 0x80)]; s.takesStep n 0x09 = true ∧ 8 ≤ (s.cst (s.core n)).seq.calls.length) ∧
    (let n : Fin 64 := 0; let s : State := tst [(R.SEQ_STATE 0, 1)] (locked) [(0x300000007, 0xA), (0x40004802B, 0x80), (0x4000483C3, 0x80), (0x4000483C7, 0x80), (0x4000483FB, 0x80), (0x4000483FF, 0x80)]; s.takesStep n 0x0A = true ∧ (s.cst (s.core n)).seq.calls = []) ∧
    (let n : Fin 64 := 0; let s : State := tst [(R.SEQ_STATE 0, 1)] (fun d => locked ((fun d => { d with cores := [(0, { seq := { calls := [(1, 3)] } })] } : Dev → Dev) d)) [(0x300000007, 0xA), (0x40004802B, 0x80), (0x4000483C3, 0x80), (0x4000483C7, 0x80), (0x4000483FB, 0x80), (0x4000483FF, 0x80)]; s.takesStep n 0x0A = true ∧ (s.cst (s.core n)).seq.calls.head?.map (·.2) ≠ some (s.cst (s.core n)).seq.loops.length ∧ (s.cst (s.core n)).seq.calls ≠ []) ∧
    (let n : Fin 64 := 0; let s : State := tst [(R.SEQ_STATE 0, 1)] (locked) [(0x300000003, 0x9), (0x300000007, 0x8), (0x400048023, 0x80), (0x4000483C3, 0x80), (0x4000483C7, 0x80), (0x4000483FB, 0x80), (0x4000483FF, 0x80)]; s.takesStep n 0x08 = true ∧ (s.cst (s.core n)).seq.loops.length < operand (s.nextWord n) 24 4 + ((s.cst (s.core n)).seq.calls.head?.map (·.2)).getD 0) ∧
    (let n : Fin 64 := 0; let s : State := tst [(R.SEQ_STATE 0, 1)] (fun d => { d with bus := { d.bus with locked := true, ecc := [(0x0300000000, ⟨3, true⟩)] } }); s.awake = true ∧ s.stepping n = true ∧ s.badWord (stepAddr (s.pc (s.core n))) 8 = true) ∧
    (let n : Fin 64 := 0; let s : State := tst [(R.SEQ_STATE 0, 1)] locked; s.awake = true ∧ s.stepping n = true ∧ s.badWord (stepAddr (s.pc (s.core n))) 8 = false ∧ s.opcode (s.core n) = 0 ∧ s.entryOk (s.core n) 0 = false) ∧
    (let n : Fin 64 := 0; let m : Nat := 0x5000000000; let s : State := tst [(R.SEQ_STATE 0, 1)] locked [(0x400040004, 0x50), (0x400048001, 0x40), (0x400048003, 0x80)]; s.awake = true ∧ s.stepping n = true ∧ s.badWord (stepAddr (s.pc (s.core n))) 8 = false ∧ s.opcode (s.core n) = 0 ∧ s.entryOk (s.core n) 0 = true ∧ s.dispatchOk (s.core n) 0 = false ∧ s.microWord (s.core n) (s.entryTarget 0) = some m ∧ microReserved m = false ∧ operand m 36 4 = 5) ∧
    (let n : Fin 64 := 0; let m : Nat := 0xa00000000000000000000000; let s : State := tst [(R.SEQ_STATE 0, 1)] locked [(0x40004000B, 0xA0), (0x400048001, 0x40), (0x400048003, 0x80)]; s.awake = true ∧ s.stepping n = true ∧ s.badWord (stepAddr (s.pc (s.core n))) 8 = false ∧ s.opcode (s.core n) = 0 ∧ s.entryOk (s.core n) 0 = true ∧ s.dispatchOk (s.core n) 0 = false ∧ s.microWord (s.core n) (s.entryTarget 0) = some m ∧ microReserved m = true) :=
  by and_intros <;> decide +kernel

/-- The hypotheses of EventClassesReachTheSequencer can be met. -/
theorem test_hyps_EventClassesReachTheSequencer :
    (let n : Fin 64 := 0; let c : Nat := 5; let x : Nat := 100; let s : State := tst [(R.EVJ_E 0 5, 0x90000000)] (fun d => { d with cores := [(0, { seq := { offers := [(5, 100)] } })] }); s.awake = true ∧ (s.cst (s.core n)).seq.offers = [(c, x)] ∧ c < 16 ∧ bit (s.evjEntry (s.core n) c (s.boundary x)) 31 = true ∧ fieldGet (s.evjEntry (s.core n) c (s.boundary x)) 28 3 ≠ 3 ∧ fieldGet (s.evjEntry (s.core n) c (s.boundary x)) 28 3 ≠ 4) ∧
    (let n : Fin 64 := 0; let c : Nat := 5; let x : Nat := 100; let s : State := tst [(R.EVJ_E 0 5, 0xB0000000)] (fun d => { d with cores := [(0, { seq := { offers := [(5, 100)] } })] }); s.awake = true ∧ (s.cst (s.core n)).seq.offers = [(c, x)] ∧ c < 16 ∧ bit (s.evjEntry (s.core n) c (s.boundary x)) 31 = true ∧ fieldGet (s.evjEntry (s.core n) c (s.boundary x)) 28 3 = 3 ∧ s.leader n = n) ∧
    (let n : Fin 64 := 0; let c : Nat := 5; let x : Nat := 100; let s : State := tst [(R.EVJ_E 0 5, 0xC0000000)] (fun d => { d with cores := [(0, { seq := { offers := [(5, 100)] } })] }); s.awake = true ∧ (s.cst (s.core n)).seq.offers = [(c, x)] ∧ c < 16 ∧ bit (s.evjEntry (s.core n) c (s.boundary x)) 31 = true ∧ fieldGet (s.evjEntry (s.core n) c (s.boundary x)) 28 3 = 4) ∧
    (let n : Fin 64 := 0; let c : Nat := 5; let x : Nat := 100; let s : State := tst [] (fun d => { d with cores := [(0, { seq := { offers := [(5, 100)] } })] }); s.awake = true ∧ (s.cst (s.core n)).seq.offers = [(c, x)] ∧ c < 16 ∧ c < 16 ∧ bit (s.evjEntry (s.core n) c (s.boundary x)) 31 = false) ∧
    (let n : Fin 64 := 0; let c : Nat := 5; let s : State := tst [(R.SEQ_STATE 0, 1), (R.EVJ_E 0 5, 0x90000123), (R.EVJ_PEND 0, 0x20)] (fun d => locked ((fun d => { d with cores := [(0, { seq := { loops := [⟨5, 1, 3⟩] } })] } : Dev → Dev) d)) [(0x400048003, 0x80), (0x4000483C3, 0x80), (0x4000483C7, 0x80), (0x4000483FB, 0x80), (0x4000483FF, 0x80)]; s.awake = true ∧ s.takesJump n = true ∧ s.jumpClass (s.core n) = some c ∧ c ≠ 0 ∧ s.evjAct (s.core n) c = 1 ∧ s.dispatchOk (s.core n) 0xF0 = true ∧ (s.cst (s.core n)).seq.stall ≠ Stall.micro ∧ (s.cst (s.core n)).play.next = none) ∧
    (let n : Fin 64 := 0; let c : Nat := 5; let s : State := tst [(R.SEQ_STATE 0, 1), (R.EVJ_E 0 5, 0xA0000123), (R.EVJ_PEND 0, 0x20)] (fun d => locked ((fun d => { d with cores := [(0, { seq := { loops := [⟨5, 1, 3⟩] } })] } : Dev → Dev) d)) [(0x400048003, 0x80), (0x4000483C3, 0x80), (0x4000483C7, 0x80), (0x4000483FB, 0x80), (0x4000483FF, 0x80)]; s.awake = true ∧ s.takesJump n = true ∧ s.jumpClass (s.core n) = some c ∧ c ≠ 0 ∧ s.evjAct (s.core n) c = 2 ∧ s.dispatchOk (s.core n) 0xF1 = true ∧ (s.cst (s.core n)).seq.stall ≠ Stall.micro ∧ (s.cst (s.core n)).play.next = none ∧ (s.cst (s.core n)).seq.calls.length < 8) ∧
    (let n : Fin 64 := 0; let c : Nat := 5; let s : State := tst [(R.SEQ_STATE 0, 2), (R.EVJ_E 0 5, 0x90000123), (R.EVJ_PEND 0, 0x20)] (fun d => locked ((fun d => { d with cores := [(0, { seq := { stall := .play }, play := { next := some 3 } })] } : Dev → Dev) d)) [(0x400048003, 0x80), (0x4000483C3, 0x80), (0x4000483C7, 0x80), (0x4000483FB, 0x80), (0x4000483FF, 0x80)]; s.awake = true ∧ s.takesJump n = true ∧ s.jumpClass (s.core n) = some c ∧ c ≠ 0 ∧ s.evjAct (s.core n) c = 1 ∧ s.dispatchOk (s.core n) 0xF0 = true ∧ (s.cst (s.core n)).seq.stall ≠ Stall.micro ∧ (s.cst (s.core n)).play.next.isSome = true ∧ (s.cst (s.core n)).seq.dq.length < 4) ∧
    (let n : Fin 64 := 0; let s : State := tst [(R.SEQ_LTALM_LO 0, 4000)]; s.awake = true ∧ s.leader n = n ∧ s.reg64 (R.SEQ_LTALM_LO (s.core n)) (R.SEQ_LTALM_HI (s.core n)) ≠ 0) :=
  by and_intros <;> decide +kernel

/-- The hypotheses of ChannelCommandsAct can be met. -/
theorem test_hyps_ChannelCommandsAct :
    (let p : Port := .image; let n : Fin 64 := 3; let arg : BitVec 21 := 0x1234; let s : State := tst [(R.LT_STATE, 0xC), (R.PWR_PARKED 0, 0)]; s.admitsAt p (0x02000004 + 0x10000 * n) (BitVec.ofNat 32 arg.toNat) = true ∧ s.admitsAt p (0x02000000 + 0x10000 * n) 1 = true ∧ (s.core n) < 68 ∧ s.channelOf (s.core n) = some n.val ∧ s.leader n = n ∧ (s.seqSt (s.core n) = stIdle ∨ s.seqSt (s.core n) = stHalted ∨ s.seqSt (s.core n) = stFault) ∧ s.parked n = false ∧ s.valid = true) ∧
    (let p : Port := .image; let n : Fin 64 := 0; let s : State := tst [(R.SEQ_STATE 0, 4), (R.LT_STATE, 0xC), (R.PWR_PARKED 0, 0)] (fun d => id ((fun d => { d with cores := [(0, { seq := { heldSt := 1 } })] } : Dev → Dev) d)) [(0x400048003, 0x80), (0x4000483C3, 0x80), (0x4000483C7, 0x80), (0x4000483FB, 0x80), (0x4000483FF, 0x80)]; s.admitsAt p (0x02000004 + 0x10000 * n) (BitVec.ofNat 32 0) = true ∧ s.admitsAt p (0x02000000 + 0x10000 * n) 2 = true ∧ (s.core n) < 68 ∧ s.channelOf (s.core n) = some n.val ∧ s.leader n = n ∧ s.seqSt (s.core n) = stHeld ∧ s.parked n = false ∧ s.valid = true ∧ s.dispatchOk (s.core n) 0xFE = true) ∧
    (let p : Port := .image; let n : Fin 64 := 0; let s : State := tst [(R.SEQ_STATE 0, 1)]; s.admitsAt p (0x02000004 + 0x10000 * n) (BitVec.ofNat 32 0) = true ∧ s.admitsAt p (0x02000000 + 0x10000 * n) 3 = true ∧ (s.core n) < 68 ∧ s.channelOf (s.core n) = some n.val ∧ s.leader n = n ∧ (s.seqSt (s.core n) = stRun ∨ s.seqSt (s.core n) = stWait)) ∧
    (let p : Port := .image; let n : Fin 64 := 0; let arg : BitVec 21 := 9; let s : State := tst [(R.SEQ_STATE 0, 1), (R.EVJ_E 0 0, 0x90000000)]; s.admitsAt p (0x02000004 + 0x10000 * n) (BitVec.ofNat 32 arg.toNat) = true ∧ s.admitsAt p (0x02000000 + 0x10000 * n) 4 = true ∧ (s.core n) < 68 ∧ s.channelOf (s.core n) = some n.val ∧ s.leader n = n ∧ (s.seqSt (s.core n) = stRun ∨ s.seqSt (s.core n) = stWait) ∧ (s.evjAct (s.core n) 0 = 1 ∨ s.evjAct (s.core n) 0 = 2)) ∧
    (let p : Port := .image; let n : Fin 64 := 0; let arg : BitVec 21 := 2; let s : State := tst []; s.admitsAt p (0x02000004 + 0x10000 * n) (BitVec.ofNat 32 arg.toNat) = true ∧ s.admitsAt p (0x02000000 + 0x10000 * n) 5 = true ∧ (s.core n) < 68 ∧ s.channelOf (s.core n) = some n.val ∧ s.leader n = n ∧ arg.toNat ≤ 3) ∧
    (let p : Port := .image; let n : Fin 64 := 0; let cmd : Fin 16 := 9; let arg : BitVec 21 := 2; let s : State := tst []; s.admitsAt p (0x02000004 + 0x10000 * n) (BitVec.ofNat 32 arg.toNat) = true ∧ s.admitsAt p (0x02000000 + 0x10000 * n) (BitVec.ofNat 32 cmd) = true ∧ (s.core n) < 68 ∧ s.channelOf (s.core n) = some n.val ∧ s.leader n = n ∧ (cmd.val = 0 ∨ 6 ≤ cmd.val)) :=
  by and_intros <;> decide +kernel

/-- The hypotheses of BoundariesOfAChannel can be met. -/
theorem test_hyps_BoundariesOfAChannel :
    (let n : Fin 64 := 0; let a : Analog := ⟨2400000000, 0, 0, 100⟩; let s : State := tst [(R.LT_STATE, 0xC), (R.PWR_PARKED 0, 0), (R.FMT_MODE 0, 0x100)]; s.awake = true ∧ s.valid = true ∧ s.calm n = true ∧ (s.cst (s.core n)).drv.calm = none ∧ (s.cst (s.core n)).drv.leave = none ∧ (s.cst (s.core n)).drv.tripCalm = none ∧ s.dueReqs (s.core n) (s.nextBoundary (s.core n)) = [] ∧ (s.fe n).oc.all (fun (x : Excursion) => decide (x.stop ≤ (s.nextBoundary (s.core n)))) = true ∧ (s.fe n).ov.all (fun (x : Excursion) => decide (x.stop ≤ (s.nextBoundary (s.core n)))) = true) ∧
    (let n : Fin 64 := 0; let a : Analog := ⟨2400000000, 0, 0, 100⟩; let r : Nat := 0; let s : State := tst [(R.LT_STATE, 0xC), (R.PWR_PARKED 0, 0), (R.FMT_MODE 0, 0x200)] fun d => { d with cores := [(0, { drv := { calm := some 0, next := some 307200, mode := 2, run := 1 } })] }; s.awake = true ∧ s.valid = true ∧ s.calm n = false ∧ (s.cst (s.core n)).drv.calm = some r ∧ reaches r (s.nextBoundary (s.core n)) = true ∧ (s.cst (s.core n)).drv.tripCalm = none ∧ (s.fe n).oc.all (fun (x : Excursion) => decide (x.stop ≤ (s.nextBoundary (s.core n)))) = true ∧ (s.fe n).ov.all (fun (x : Excursion) => decide (x.stop ≤ (s.nextBoundary (s.core n)))) = true) ∧
    (let n : Fin 64 := 0; let a : Analog := ⟨2400000000, 0, 0, 100⟩; let r : Nat := 0; let s : State := tst [(R.LT_STATE, 0xC), (R.PWR_PARKED 0, 0), (R.FMT_MODE 0, 0x100)] fun d => { d with bus := { d.bus with locked := true }, cores := [(0, { drv := { leave := some 0, next := some 307200, mode := 4 } })] }; s.awake = true ∧ s.valid = true ∧ s.ganged n = false ∧ s.calm n = true ∧ s.parked n = false ∧ s.mayRun = true ∧ (s.cst (s.core n)).drv.calm = none ∧ (s.cst (s.core n)).drv.leave = some r ∧ reaches r (s.nextBoundary (s.core n)) = true ∧ (s.cst (s.core n)).play = {} ∧ s.dueReqs (s.core n) (s.nextBoundary (s.core n)) = [] ∧ (s.fe n).oc.all (fun (x : Excursion) => decide (x.stop ≤ (s.nextBoundary (s.core n)))) = true ∧ (s.fe n).ov.all (fun (x : Excursion) => decide (x.stop ≤ (s.nextBoundary (s.core n)))) = true) ∧
    (let n : Fin 64 := 0; let a : Analog := ⟨2400000000, 0, 0, 100⟩; let v : Int := 500; let s : State := tst [(R.LT_STATE, 0xC), (R.PWR_PARKED 0, 0), (R.FMT_MODE 0, 0x202)] fun d => { d with cores := [(0, { drv := { mode := 2, next := some 307200 }, play := { value := 500 } })] }; s.awake = true ∧ s.valid = true ∧ s.ganged n = false ∧ s.calm n = false ∧ (s.cst (s.core n)).drv.calm = none ∧ (s.cst (s.core n)).drv.leave = none ∧ (s.cst (s.core n)).drv.mode = 2 ∧ (s.cst (s.core n)).drv.dir ≤ 1 ∧ (s.cst (s.core n)).play = { value := v } ∧ 0 < v ∧ v < 131072 ∧ s.dueReqs (s.core n) (s.nextBoundary (s.core n)) = [] ∧ (s.fe n).oc.all (fun (x : Excursion) => decide (x.stop ≤ (s.nextBoundary (s.core n)))) = true ∧ (s.fe n).ov.all (fun (x : Excursion) => decide (x.stop ≤ (s.nextBoundary (s.core n)))) = true) :=
  by and_intros <;> decide +kernel

/-- The hypotheses of PulsesEndAtTheirLimits can be met. -/
theorem test_hyps_PulsesEndAtTheirLimits :
    (let n : Fin 64 := 0; let c : Nat := 5000; let a : Analog := ⟨2400000000, 1000000000, 0, 100⟩; let q : Pulse := Pulse.mk true 0 4000 20000; let s : State := tst [] fun d => { d with cores := [(0, { drv := { pulse := some ⟨true, 0, 4000, 20000⟩, run := 1, levels := [1, 0, 2, 2] } })] }; s.awake = true ∧ (s.cst (s.core n)).drv.pulse = some q ∧ q.minEnd ≤ s.lineTime c ∧ s.lineTime c + a.delay ≤ q.tmax ∧ s.seesCrossing n (s.lineTime c) q.fwd a = true) ∧
    (let n : Fin 64 := 0; let c : Nat := 5000; let a : Analog := ⟨2400000000, 0, 0, 100⟩; let q : Pulse := Pulse.mk true 0 4000 20000; let s : State := tst [] fun d => { d with cores := [(0, { drv := { pulse := some ⟨true, 0, 4000, 20000⟩, run := 1, levels := [1, 0, 2, 2] } })], fes := [(0, { loop := { dac := 500, clamped := false, d := 10 ^ 30, top := 10 ^ 30 } })] }; s.awake = true ∧ (s.cst (s.core n)).drv.pulse = some q ∧ s.seesCrossing n (s.lineTime c) q.fwd a = false) ∧
    (let n : Fin 64 := 0; let c : Nat := 3000; let a : Analog := ⟨2400000000, 0, 0, 100⟩; let s : State := tst [] fun d => { d with cores := [(0, { drv := { pulse := some ⟨true, 0, 4000, 20000⟩, run := 1 } })] }; s.awake = true ∧ (s.cst (s.core n)).drv.pulse.all (fun (q : Pulse) => s.lineTime c < q.minEnd || q.tmax < s.lineTime c + a.delay) = true) ∧
    (let n : Fin 64 := 0; let a : Analog := ⟨2400000000, 0, 0, 100⟩; let q : Pulse := Pulse.mk false 0 4000 20000; let s : State := tst [] fun d => { d with cores := [(0, { drv := { pulse := some ⟨false, 0, 4000, 20000⟩, run := 2, levels := [0, 1, 2, 2] } })] }; s.awake = true ∧ (s.cst (s.core n)).drv.pulse = some q) ∧
    (let n : Fin 64 := 0; let x : Nat := 1000; let lasts : Nat := 500; let a : Analog := ⟨2400000000, 300000000, 0, 100⟩; let q : Pulse := Pulse.mk true 0 4000 20000; let s : State := tst [] fun d => { d with cores := [(0, { drv := { pulse := some ⟨true, 0, 4000, 20000⟩, run := 1, levels := [1, 0, 2, 2] } })], eff := [(R.PROT_OC 0, 0x02000200)] }; s.awake = true ∧ s.vectorMode (s.core n) = false ∧ (s.cst (s.core n)).drv.pulse = some q ∧ s.beyondOc n (Excursion.mk (s.lineTime x) (s.lineTime x + lasts) a.shunt a.vref a.delay (s.stampTime x)) = true ∧ s.ocFilter n ≤ lasts ∧ s.lineTime x + s.ocFilter n + a.delay ≤ q.tmax ∧ s.beforeNext (s.core n) (s.lineTime x + s.ocFilter n) = true) ∧
    (let n : Fin 64 := 0; let x : Nat := 1000; let lasts : Nat := 500; let a : Analog := ⟨2400000000, 0, 0, 100⟩; let s : State := tst []; s.awake = true ∧ (s.beyondOc n (Excursion.mk (s.lineTime x) (s.lineTime x + lasts) a.shunt a.vref a.delay (s.stampTime x)) = false ∨ lasts < s.ocFilter n ∨ s.beforeNext (s.core n) (s.lineTime x + s.ocFilter n) = false)) ∧
    (let n : Fin 64 := 0; let x : Nat := 1000; let lasts : Nat := 500; let a : Analog := ⟨2400000000, 0, 2000000000, 100⟩; let s : State := tst [(R.LT_STATE, 0xC), (R.PWR_PARKED 0, 0), (R.FMT_MODE 0, 0x200)] fun d => { d with cores := [(0, { drv := { run := 1, levels := [1, 0, 2, 2], next := some 307200 } })], eff := [(R.PROT_OV 0, 0x400)] }; s.awake = true ∧ Memory.wf s.losses s.mem = true ∧ s.badWord (chBlock n + 40) 8 = false ∧ s.vectorMode (s.core n) = false ∧ s.calm n = false ∧ (s.cst (s.core n)).drv.ocCalm = false ∧ s.flg (F.FAIL_CFG_RING (s.core n)) = false ∧ s.beyondOv n (Excursion.mk (s.lineTime x) (s.lineTime x + lasts) a.cell a.vref a.delay (s.stampTime x)) = true ∧ s.ovFilter n ≤ lasts ∧ s.beforeNext (s.core n) (s.lineTime x + s.ovFilter n) = true) ∧
    (let n : Fin 64 := 0; let x : Nat := 1000; let lasts : Nat := 500; let a : Analog := ⟨2400000000, 0, 2000000000, 100⟩; let s : State := tst [(R.LT_STATE, 0xC), (R.PWR_PARKED 0, 0), (R.FMT_MODE 0, 0x600)] fun d => { d with cores := [(0, { drv := { next := some 307200 } })], eff := [(R.PROT_OV 0, 0x400)] }; s.awake = true ∧ s.vectorMode (s.core n) = true ∧ s.beyondOv n (Excursion.mk (s.lineTime x) (s.lineTime x + lasts) a.cell a.vref a.delay (s.stampTime x)) = true ∧ s.ovFilter n ≤ lasts ∧ s.beforeNext (s.core n) (s.lineTime x + s.ovFilter n) = true) ∧
    (let n : Fin 64 := 0; let x : Nat := 1000; let lasts : Nat := 500; let a : Analog := ⟨2400000000, 0, 0, 100⟩; let s : State := tst []; s.awake = true ∧ (s.beyondOv n (Excursion.mk (s.lineTime x) (s.lineTime x + lasts) a.cell a.vref a.delay (s.stampTime x)) = false ∨ lasts < s.ovFilter n ∨ s.beforeNext (s.core n) (s.lineTime x + s.ovFilter n) = false)) :=
  by and_intros <;> decide +kernel

/-- The hypotheses of VectorsPlayAndStrobe can be met. -/
theorem test_hyps_VectorsPlayAndStrobe :
    (let n : Fin 64 := 0; let v : Vec := Vec.mk 1000 2 128 16; let s : State := tst [(R.LT_STATE, 0xC), (R.PWR_PARKED 0, 0), (R.FMT_MODE 0, 0x600)] fun d => { d with cores := [(0, { play := { playing := true, len := 128, vec := some ⟨1000, 2, 128, 16⟩ } })] }; s.awake = true ∧ s.valid = true ∧ s.calm n = false ∧ (s.cst (s.core n)).play.vec = some v ∧ v.k < v.len ∧ v.len < 65536 ∧ v.k ≠ s.decisionSample (s.core n)) ∧
    (let n : Fin 64 := 0; let v : Vec := Vec.mk 1000 128 128 16; let s : State := tst [(R.LT_STATE, 0xC), (R.PWR_PARKED 0, 0), (R.FMT_MODE 0, 0x600)] fun d => { d with cores := [(0, { play := { playing := true, len := 128, vec := some ⟨1000, 128, 128, 16⟩ } })] }; s.awake = true ∧ s.valid = true ∧ s.calm n = false ∧ (s.cst (s.core n)).play.vec = some v ∧ v.len ≤ v.k ∧ (s.cst (s.core n)).play.next = none) ∧
    (let n : Fin 64 := 0; let levels : BitVec 4 := 5; let x : Nat := 5000; let i : Nat := 1; let s : State := tst [] fun d => { d with cores := [(0, { drv := { strobe := some (5000, 1) } })] }; s.awake = true ∧ (s.cst (s.core n)).drv.strobe = some (x, i) ∧ ((List.range 4).all fun j => !(s.sampleWord (s.core n) i / 16 ^ j % 16 = 2 && levels.toNat.testBit j) && !(s.sampleWord (s.core n) i / 16 ^ j % 16 = 3 && !levels.toNat.testBit j)) = true) ∧
    (let n : Fin 64 := 0; let levels : BitVec 4 := 1; let x : Nat := 5000; let i : Nat := 1; let s : State := tst [] (fun d => { d with cores := [(0, { drv := { strobe := some (5000, 1) }, play := { len := 128 } })] }) [(0x0100000024, 2)]; s.awake = true ∧ Memory.wf s.losses s.mem = true ∧ (s.cst (s.core n)).drv.strobe = some (x, i) ∧ s.sampleWord (s.core n) i % 16 = 2 ∧ levels.toNat.testBit 0 = true ∧ s.flg (F.FAIL_CFG_RING (s.core n)) = false ∧ s.badWord (chBlock n + 40) 8 = false) ∧
    (let n : Fin 64 := 0; let e : Nat := 700; let s : State := tst [] fun d => { d with cores := [(0, { drv := { trigEnd := some 700 } })] }; s.awake = true ∧ (s.cst (s.core n)).drv.trigEnd = some e) :=
  by and_intros <;> decide +kernel

/-- The hypotheses of DriveRegistersTakeTheirWords can be met. -/
theorem test_hyps_DriveRegistersTakeTheirWords :
    (let p : Port := .image; let k : Fin 68 := 3; let w : Word := 7; let s : State := tst []; s.admits p (R.FMT_MODE k) w = true ∧ fieldGet w 0 3 = 7) ∧
    (let p : Port := .image; let k : Fin 68 := 3; let w : Word := 1; let n : Nat := 3; let s : State := tst []; s.admits p (R.FMT_MODE k) w = true ∧ fieldGet w 0 3 = 1 ∧ s.channelOf k = some n) ∧
    (let p : Port := .image; let k : Fin 68 := 3; let w : Word := 4; let s : State := tst []; s.admits p (R.FMT_MODE k) w = true ∧ fieldGet w 0 3 ≠ 1 ∧ fieldGet w 0 3 ≠ 7 ∧ (s.channelOf k).isSome = true) ∧
    (let p : Port := .image; let n : Fin 64 := 3; let w : Word := 1; let s : State := tst []; s.admits p (R.SCALE_GAIN n) w = true ∧ (s.calm n = true ∨ s.parked n = true)) ∧
    (let p : Port := .image; let n : Fin 64 := 0; let w : Word := 1; let s : State := tst [(R.LT_STATE, 0xC), (R.PWR_PARKED 0, 0), (R.FMT_MODE 0, 0x200)]; s.admits p (R.SCALE_GAIN n) w = true ∧ s.calm n = false ∧ s.parked n = false) ∧
    (let p : Port := .image; let k : Fin 68 := 3; let w : Word := 0x55; let s : State := tst []; s.admits p (R.LOOP_VLIMREQ k) w = true) ∧
    (let p : Port := .image; let k : Fin 68 := 3; let w : Word := 0x55; let s : State := tst []; s.admits p (R.LOOP_TAPERREQ k) w = true) :=
  by and_intros <;> decide +kernel

/-- The hypotheses of WindowsGiveResults can be met. -/
theorem test_hyps_WindowsGiveResults :
    (let n : Fin 64 := 0; let s : State := tst [(R.LT_STATE, 0xC), (R.CONV_CTL 0, 1)] fun d => { d with lt := { d.lt with cyc := 77 } }; (s.gateNext (s.core n)).all (fun y => decide (s.gridNext (s.core n) < y)) = true ∧ s.awake = true ∧ s.fld F.LT_STATE_LT_ST = 1 ∧ s.fld (F.CONV_CTL_RUN (s.core n)) = 1 ∧ s.standing = false ∧ (s.fe n).window = none ∧ (s.fe n).qpFrom = none ∧ s.flg (F.PATH_STAT_PENDING n) = false ∧ (s.fe n).trims = none ∧ (s.fe n).qpNext = none) ∧
    (let n : Fin 64 := 0; let s : State := tst [(R.LT_STATE, 0xC), (R.CONV_CTL 0, 1), (R.PWR_STATE, 1)]; s.awake = true ∧ s.fld F.LT_STATE_LT_ST = 1 ∧ s.fld (F.CONV_CTL_RUN (s.core n)) = 1 ∧ s.standing = true ∧ (s.gateNext (s.core n)).all (fun y => decide (s.gridNext (s.core n) < y)) = true ∧ (s.fe n).window = none) ∧
    (let n : Fin 64 := 0; let s : State := tst [(R.LT_STATE, 0xC), (R.CONV_CTL 0, 1), (R.PATH_CTL 0, 1), (R.PATH_STAT 0, 2)]; (s.gateNext (s.core n)).all (fun y => decide (s.gridNext (s.core n) < y)) = true ∧ s.awake = true ∧ s.fld F.LT_STATE_LT_ST = 1 ∧ s.fld (F.CONV_CTL_RUN (s.core n)) = 1 ∧ s.standing = false ∧ (s.fe n).window = none ∧ (s.fe n).qpFrom = none ∧ s.flg (F.PATH_STAT_PENDING n) = true ∧ s.flg (F.PATH_CTL_CMP n) = false ∧ (s.fe n).trims = none ∧ (s.fe n).qpNext = none) ∧
    (let n : Fin 64 := 0; let s : State := tst [(R.LT_STATE, 0xC), (R.CONV_CTL 0, 1), (R.PATH_CTL 0, 0x101), (R.PATH_STAT 0, 2)]; (s.gateNext (s.core n)).all (fun y => decide (s.gridNext (s.core n) < y)) = true ∧ s.awake = true ∧ s.fld F.LT_STATE_LT_ST = 1 ∧ s.fld (F.CONV_CTL_RUN (s.core n)) = 1 ∧ s.standing = false ∧ (s.fe n).window = none ∧ (s.fe n).qpFrom = none ∧ s.flg (F.PATH_STAT_PENDING n) = true ∧ s.flg (F.PATH_CTL_CMP n) = true ∧ (s.fe n).trims = none ∧ (s.fe n).qpNext = none) ∧
    (let n : Fin 64 := 0; let q : Nat := 123; let s : State := tst [(R.LT_STATE, 0xC), (R.CONV_CTL 0, 1)] fun d => { d with fes := [(0, { qpNext := some 123 })] }; (s.gateNext (s.core n)).all (fun y => decide (s.gridNext (s.core n) < y)) = true ∧ s.awake = true ∧ s.fld F.LT_STATE_LT_ST = 1 ∧ s.fld (F.CONV_CTL_RUN (s.core n)) = 1 ∧ s.standing = false ∧ (s.fe n).window = none ∧ (s.fe n).qpFrom = none ∧ s.flg (F.PATH_STAT_PENDING n) = false ∧ (s.fe n).trims = none ∧ (s.fe n).qpNext = some q) ∧
    (let n : Fin 64 := 0; let x : Window := Window.mk 1000 300000 600000 1000000000 2500000000 0 32 false true 76000 0 [] none; let s : State := tst [] fun d => { d with fes := [(0, { window := some (Window.mk 1000 300000 600000 1000000000 2500000000 0 32 false true 76000 0 [] none) })] }; s.awake = true ∧ (s.fe n).window = some x) ∧
    (let n : Fin 64 := 0; let v : Lane := Lane.mk (some 100) (.at_ 5000) (some 30000000); let i : Lane := Lane.mk (some 100) (.at_ 9000) (some 30000000); let t₀ : Lane := Lane.mk none .early none; let v₂ : Lane := Lane.mk none .early none; let i₂ : Lane := Lane.mk none .early none; let t₂ : Lane := Lane.mk none .early none; let x : Window := Window.mk 1000 300000 600000 1000000000 2500000000 0 32 false true 76000 0 [] none; let xs : List Window := []; let s : State := tst [] fun d => { d with fes := [(0, { ready := [Window.mk 1000 300000 600000 1000000000 2500000000 0 32 false true 76000 0 [] none] })] }; s.awake = true ∧ (s.fe n).ready = x :: xs) ∧
    (let p : Port := .image; let k : Fin 68 := 3; let s : State := tst [(R.CONV_V 3, 77), (R.CONV_I 3, 5), (R.CONV_Q_HI 3, 9)]; s.admitsRead p (R.CONV_V k).addr = true ∧ s.latched (portMaster p) (R.CONV_V k) = none) :=
  by and_intros <;> decide +kernel

/-- The hypotheses of ChargePacketsAreCounted can be met. -/
theorem test_hyps_ChargePacketsAreCounted :
    (let n : Fin 64 := 0; let x : Nat := 5000; let neg : Bool := true; let s : State := tst [(R.LT_STATE, 0xC)] fun d => { d with fes := [(0, { qp := 5 })] }; s.dev.rst.hib < 2 ∧ s.dev.rst.por = 0 ∧ Memory.wf s.losses s.mem = true ∧ s.away = false ∧ s.effFld (F.PKT_STREAM_DIV (s.core n)) = 0 ∧ (s.fe n).qpNext = none ∧ (s.fe n).packetEnd = none ∧ s.acc n + (if neg then -1 else 1) * ((s.fe n).qp : Int) < 2 ^ 95 ∧ -(2 ^ 95) ≤ s.acc n + (if neg then -1 else 1) * ((s.fe n).qp : Int)) ∧
    (let n : Fin 64 := 0; let x : Nat := 5000; let neg : Bool := true; let s : State := tst [(R.LT_STATE, 0x45)] fun d => { d with fes := [(0, { qp := 5 })] }; s.dev.rst.hib < 2 ∧ s.dev.rst.por = 0 ∧ s.away = true ∧ s.effFld (F.PKT_STREAM_DIV (s.core n)) = 0 ∧ (s.fe n).qpNext = none ∧ (s.fe n).packetEnd = none) ∧
    (let n : Fin 64 := 0; let x : Nat := 5000; let e : Nat := 20; let neg : Bool := false; let s : State := tst [(R.LT_STATE, 0xC)] fun d => { d with fes := [(0, { packetEnd := some 20 })] }; s.dev.rst.hib < 2 ∧ s.dev.rst.por = 0 ∧ (s.fe n).packetEnd = some e) ∧
    (let n : Fin 64 := 0; let e : Nat := 20; let s : State := tst [] fun d => { d with fes := [(0, { packetEnd := some 20, queued := 1 })] }; s.dev.rst.hib < 2 ∧ s.dev.rst.por = 0 ∧ (s.fe n).packetEnd = some e) ∧
    (let n : Fin 64 := 3; let s : State := tst []; s.dev.rst.hib < 2 ∧ s.dev.rst.por = 0) :=
  by and_intros <;> decide +kernel

/-- The hypotheses of ClearsWidthsAndPaths can be met. -/
theorem test_hyps_ClearsWidthsAndPaths :
    (let p : Port := .image; let n : Fin 64 := 0; let beat : BitVec 64 := 0x100000005; let s : State := tst [(R.LT_STATE, 0xC)]; s.admits p (R.FPKT_CLRB_LO n) (BitVec.ofNat 32 beat.toNat) = true ∧ s.admits p (R.FPKT_CLRB_HI n) (BitVec.ofNat 32 (beat.toNat / 2 ^ 32)) = true ∧ s.fld F.LT_STATE_LT_ST = 1 ∧ s.reg64 R.LT_BEAT_LO R.LT_BEAT_HI < beat.toNat ∧ (s.fe n).clear = none) ∧
    (let p : Port := .image; let n : Fin 64 := 0; let beat : BitVec 64 := 5; let s : State := tst [(R.LT_STATE, 0xC), (R.LT_BEAT_LO, 5)]; s.admits p (R.FPKT_CLRB_LO n) (BitVec.ofNat 32 beat.toNat) = true ∧ s.admits p (R.FPKT_CLRB_HI n) (BitVec.ofNat 32 (beat.toNat / 2 ^ 32)) = true ∧ (s.fld F.LT_STATE_LT_ST ≠ 1 ∨ beat.toNat ≤ s.reg64 R.LT_BEAT_LO R.LT_BEAT_HI ∨ (s.fe n).clear ≠ none)) ∧
    (let n : Fin 64 := 0; let b : Nat := 5; let tb : Nat := 15000000; let s : State := tst [(R.LT_STATE, 0xC)] (fun d => { d with fes := [(0, { clear := some 5 })] }) [(chBlock 0, 7)]; s.awake = true ∧ s.fld F.LT_STATE_LT_ST = 1 ∧ (s.fe n).clear = some b ∧ tb = b * (s.reg R.LT_BEATCYC).toNat) ∧
    (let p : Port := .image; let n : Fin 64 := 0; let w : Word := 400; let s : State := tst [(R.PAGE 0x200, 1)]; s.admits p (R.FPKT_WIDTH n) w = true ∧ widthMin (s.fld (F.PROT_OC_OC_POS n)) (s.fld (F.PROT_OC_OC_NEG n)) ≤ fieldGet w 0 16 ∧ (s.fld (F.CONV_CTL_RUN (s.core n)) = 0 ∨ s.fld F.LT_STATE_LT_ST ≠ 1)) ∧
    (let p : Port := .image; let n : Fin 64 := 0; let w : Word := 15; let s : State := tst [(R.PAGE 0x200, 1)]; s.admits p (R.FPKT_WIDTH n) w = true ∧ fieldGet w 0 16 < widthMin (s.fld (F.PROT_OC_OC_POS n)) (s.fld (F.PROT_OC_OC_NEG n))) ∧
    (let p : Port := .image; let n : Fin 64 := 0; let w : Word := 1000000; let s : State := tst [(R.PAGE 0x200, 1), (R.LT_STATE, 0xC), (R.CONV_CTL 0, 1)]; s.admits p (R.SCALE_SHUNT n) w = true ∧ 700000 ≤ w.toNat ∧ w.toNat ≤ 4000000000 ∧ s.fld (F.CONV_CTL_RUN (s.core n)) ≠ 0 ∧ s.fld F.LT_STATE_LT_ST = 1 ∧ (s.fe n).qpFrom = none) ∧
    (let p : Port := .image; let n : Fin 64 := 0; let w : Word := 1000000; let s : State := tst [(R.PAGE 0x200, 1), (R.LT_STATE, 0xC), (R.CONV_CTL 0, 1)]; s.admits p (R.FPKT_VP n) w = true ∧ s.fld (F.CONV_CTL_RUN (s.core n)) ≠ 0 ∧ s.fld F.LT_STATE_LT_ST = 1 ∧ (s.fe n).qpFrom = none) ∧
    (let p : Port := .image; let n : Fin 64 := 0; let w : Word := 3; let s : State := tst []; s.admits p (R.PATH_CTL n) w = true) :=
  by and_intros <;> decide +kernel

/-- The hypotheses of EdgesAreStampedAndMeasured can be met. -/
theorem test_hyps_EdgesAreStampedAndMeasured :
    (let i : Fin 16 := 3; let fall : Bool := true; let raw : Nat := 500000; let x : Nat := 500000; let l : Fin 20 := 3; let k : Fin 68 := 67; let s : State := tst [(R.LT_STATE, 0xC), (R.EVT_IN 3, 0xD)]; s.awake = true ∧ ((List.range 20).filter fun j => s.laneTakes j i fall) = [l.val] ∧ x = s.stampValue l raw ∧ (s.dev.evt.last.find? fun (e : Nat × Nat) => decide (e.1 = l.val)).all (fun (e : Nat × Nat) => decide (e.2 + 922 ≤ raw)) = true ∧ (s.dev.evt.queue.filter fun (q : Nat × Nat) => q.1 = l.val && decide (x / 256 < s.boundary q.2)).length < 8) ∧
    (let i : Fin 16 := 3; let fall : Bool := false; let raw : Nat := 500921; let x : Nat := 500921; let l : Fin 20 := 3; let s : State := tst [(R.LT_STATE, 0xC), (R.EVT_IN 3, 0x5)] fun d => { d with evt := { d.evt with last := [(3, 500000)] } }; s.awake = true ∧ ((List.range 20).filter fun j => s.laneTakes j i fall) = [l.val] ∧ x = s.stampValue l raw ∧ (s.dev.evt.last.find? fun (e : Nat × Nat) => decide (e.1 = l.val)).any (fun (e : Nat × Nat) => decide (raw < e.2 + 922)) = true) ∧
    (let i : Fin 16 := 3; let fall : Bool := false; let raw : Nat := 500921; let s : State := tst []; s.awake = true ∧ ((List.range 20).all fun j => !s.laneTakes j i fall) = true ∧ s.dev.rst.hib = 0) ∧
    (let p : Port := .image; let l : Fin 20 := 3; let s : State := tst [(R.EVT_LAST_LO 3, 77), (R.EVT_LAST_HI 3, 5)]; s.admitsRead p (R.EVT_LAST_LO l).addr = true ∧ s.latched (portMaster p) (R.EVT_LAST_LO l) = none) ∧
    (let k : Fin 68 := 3; let u : Fin 4 := 1; let q : Stamp := Stamp.mk 5000 1 false 0 false 212 16; let s : State := tst [(R.EVM_SRC 3 1, 0x0201), (R.EVM_STATE 3 1, 1)] fun d => { d with cores := [(3, { stamps := [⟨5000, 1, false, 0, false, 212, 16⟩] })] }; s.awake = true ∧ (s.cst k).stamps = [q] ∧ (s.unit k u).a ≤ q.t ∧ (s.unit k u).off = none ∧ s.fld (F.EVM_GATE_SRC k) = 0 ∧ s.flg (F.EVM_CFG_GATED k u) = false ∧ s.unitSt k u = 1 ∧ s.fld (F.EVM_CFG_MODE k u) = 0 ∧ q.fits (s.fld (F.EVM_SRC_START_SRC k u)) (s.fld (F.EVM_SRC_START_EDGE k u)) = true ∧ (s.unit k u).near = none) ∧
    (let k : Fin 68 := 3; let u : Fin 4 := 1; let q : Stamp := Stamp.mk 5000 2 false 0 false 212 16; let s : State := tst [(R.EVM_SRC 3 1, 0x0201), (R.EVM_STATE 3 1, 2)] fun d => { d with cores := [(3, { stamps := [⟨5000, 2, false, 0, false, 212, 16⟩], units := [(1, { start := 1000, deadline := some 5000 })] })] }; s.awake = true ∧ (s.cst k).stamps = [q] ∧ (s.unit k u).a ≤ q.t ∧ (s.unit k u).off = none ∧ s.fld (F.EVM_GATE_SRC k) = 0 ∧ s.flg (F.EVM_CFG_GATED k u) = false ∧ s.unitSt k u = 2 ∧ s.fld (F.EVM_CFG_MODE k u) = 0 ∧ q.fits (s.fld (F.EVM_SRC_START_SRC k u)) (s.fld (F.EVM_SRC_START_EDGE k u)) = false ∧ q.fits (s.fld (F.EVM_SRC_STOP_SRC k u)) (s.fld (F.EVM_SRC_STOP_EDGE k u)) = true ∧ (s.unit k u).start + 1 < q.t ∧ (s.unit k u).deadline.all (fun (d : Nat) => decide (q.t ≤ d)) = true) ∧
    (let k : Fin 68 := 3; let u : Fin 4 := 1; let q : Stamp := Stamp.mk 5000 2 false 0 false 212 16; let s : State := tst [(R.EVM_SRC 3 1, 0x0201), (R.EVM_STATE 3 1, 1)] fun d => { d with cores := [(3, { stamps := [⟨5000, 2, false, 0, false, 212, 16⟩] })] }; s.awake = true ∧ (s.cst k).stamps = [q] ∧ (s.unit k u).a ≤ q.t ∧ (s.unit k u).off = none ∧ s.fld (F.EVM_GATE_SRC k) = 0 ∧ s.flg (F.EVM_CFG_GATED k u) = false ∧ s.unitSt k u = 1 ∧ s.fld (F.EVM_CFG_MODE k u) ≠ 2 ∧ q.fits (s.fld (F.EVM_SRC_START_SRC k u)) (s.fld (F.EVM_SRC_START_EDGE k u)) = false ∧ q.fits (s.fld (F.EVM_SRC_STOP_SRC k u)) (s.fld (F.EVM_SRC_STOP_EDGE k u)) = true ∧ s.fld (F.EVM_RWIN_CYC k u) = 0) :=
  by and_intros <;> decide +kernel

/-- The hypotheses of UnitsAreArmedAndDisarmed can be met. -/
theorem test_hyps_UnitsAreArmedAndDisarmed :
    (let p : Port := .image; let k : Fin 68 := 3; let u : Fin 4 := 1; let s : State := tst []; s.admits p (R.EVM_CTL k u) (fieldWord (F.EVM_CTL_ARM k u) 1) = true ∧ s.unitSeen k u = 0) ∧
    (let p : Port := .image; let k : Fin 68 := 3; let u : Fin 4 := 1; let s : State := tst [(R.EVM_STATE 3 1, 2)]; s.admits p (R.EVM_CTL k u) (fieldWord (F.EVM_CTL_ARM k u) 1) = true ∧ s.unitSeen k u ≠ 0) ∧
    (let p : Port := .image; let k : Fin 68 := 3; let u : Fin 4 := 1; let s : State := tst [(R.EVM_STATE 3 1, 3)]; s.admits p (R.EVM_CTL k u) (fieldWord (F.EVM_CTL_DISARM k u) 1) = true ∧ s.unitSt k u ≠ 2 ∧ (s.unit k u).off = none ∧ (s.unit k u).later = [] ∧ ((s.cst k).stamps.any fun (q : Stamp) => decide (q.t < s.boundary s.now * 256)) = false) ∧
    (let p : Port := .image; let k : Fin 68 := 3; let u : Fin 4 := 1; let s : State := tst [(R.EVM_STATE 3 1, 2)]; s.admits p (R.EVM_CTL k u) (fieldWord (F.EVM_CTL_DISARM k u) 1) = true ∧ s.unitSt k u = 2 ∧ (s.unit k u).off = none ∧ (s.unit k u).later = [] ∧ ((s.cst k).stamps.any fun (q : Stamp) => decide (q.t < s.boundary s.now * 256)) = false) ∧
    (let k : Fin 68 := 3; let u : Fin 4 := 1; let d : Nat := 5000; let s : State := tst [(R.EVM_STATE 3 1, 2)] fun d => { d with cores := [(3, { units := [(1, { start := 1000, deadline := some 5000 })] })] }; s.awake = true ∧ s.unitSt k u = 2 ∧ (s.unit k u).deadline = some d ∧ (s.unit k u).start ≤ d ∧ (s.cst k).stamps = [] ∧ s.fld (F.EVM_GATE_SRC k) = 0) ∧
    (let k : Fin 68 := 3; let u : Fin 4 := 1; let s : State := tst [(R.EVM_STATE 3 1, 3)]; s.awake = true ∧ s.unitSt k u = 3 ∧ (s.cst k).stamps = [] ∧ s.fld (F.EVM_GATE_SRC k) = 0) ∧
    (let k : Fin 68 := 3; let x : Nat := 800; let b : Nat := 264; let s : State := tst [(R.EVM_GATE 3, 1)] fun d => { d with evt := { d.evt with levels := [(0, [(8, 7, true)])] } }; s.awake = true ∧ s.gateNext k = some b ∧ b ≤ x ∧ (((gateTurns k b).run s).gateNext k).all (fun (y : Nat) => decide (x < y)) = true) ∧
    (let k : Fin 68 := 3; let x : Nat := 263; let s : State := tst [(R.EVM_GATE 3, 1)] fun d => { d with evt := { d.evt with levels := [(0, [(8, 7, true)])] } }; s.awake = true ∧ (s.gateNext k).all (fun (y : Nat) => decide (x < y)) = true) ∧
    (let p : Port := .image; let k : Fin 68 := 3; let u : Fin 4 := 1; let s : State := tst [(R.EVM_IVL_LO 3 1, 77), (R.EVM_INFO 3 1, 5)]; s.admitsRead p (R.EVM_IVL_LO k u).addr = true ∧ s.latched (portMaster p) (R.EVM_IVL_LO k u) = none) :=
  by and_intros <;> decide +kernel

/-- The hypotheses of SlotsAreDefinedFilledAndJudged can be met. -/
theorem test_hyps_SlotsAreDefinedFilledAndJudged :
    (let p : Port := .image; let k : Fin 68 := 3; let i : Fin 32 := 2; let w : Word := 0x00200004; let s : State := tst [(R.PLAY_SLOT 3 1, 0x00000004)]; s.admits p (R.PLAY_SLOT k i) w = true ∧ s.slotSt k i = 0 ∧ 8 * fieldGet w 16 13 + 8 + 32 * fieldGet w 0 11 ≤ 65536 ∧ (fieldGet w 0 11 = 0 ∨ (slots.all fun j => decide (j = i.val) || decide (s.fld (F.PLAY_SLOT_CAP k j) = 0) || decide (8 * fieldGet w 16 13 + 8 + 32 * fieldGet w 0 11 ≤ 8 * s.fld (F.PLAY_SLOT_BASE k j)) || decide (8 * s.fld (F.PLAY_SLOT_BASE k j) + 8 + 32 * s.fld (F.PLAY_SLOT_CAP k j) ≤ 8 * fieldGet w 16 13)) = true)) ∧
    (let p : Port := .image; let k : Fin 68 := 3; let i : Fin 32 := 2; let w : Word := 0x1FFF0001; let s : State := tst []; s.admits p (R.PLAY_SLOT k i) w = true ∧ (s.slotSt k i ≠ 0 ∨ 65536 < 8 * fieldGet w 16 13 + 8 + 32 * fieldGet w 0 11)) ∧
    (let p : Port := .image; let k : Fin 68 := 3; let o : BitVec 18 := 100; let x : RivalBytes := ⟨[1, 2, 3, 4, 0], []⟩; let s : State := tst [(R.PLAY_SLOT 3 1, 0x80000004), (R.PLAY_READY 3, 2)]; Memory.wf s.losses s.mem = true ∧ s.issues p = true ∧ (s.writers (portMaster p) x.rivals).head? = some (portMaster p) ∧ s.frozen (portMaster p) = false ∧ s.judge p (segBase k + o.toNat) x.bytes.length true 0 = .pass ∧ ((partWords (segBase k + o.toNat) x.bytes.length).any fun y => s.badWord y 1) = false ∧ ((s.slotsAt k o.toNat x.bytes.length).any fun i => s.slotActive k i || decide (s.slotSt k i = 1)) = false) ∧
    (let p : Port := .image; let k : Fin 68 := 3; let o : BitVec 18 := 100; let x : RivalBytes := ⟨[1, 2, 3, 4, 0], []⟩; let s : State := tst [(R.PLAY_SLOT 3 1, 0x40000004), (R.PLAY_FILLING 3, 2)]; s.issues p = true ∧ (s.writers (portMaster p) x.rivals).head? = some (portMaster p) ∧ s.frozen (portMaster p) = false ∧ s.judge p (segBase k + o.toNat) x.bytes.length true 0 = .pass ∧ ((partWords (segBase k + o.toNat) x.bytes.length).any fun y => s.badWord y 1) = false ∧ ((s.slotsAt k o.toNat x.bytes.length).any fun i => s.slotActive k i || decide (s.slotSt k i = 1)) = true) ∧
    (let p : Port := .image; let k : Fin 68 := 3; let i : Fin 32 := 2; let s : State := tst []; s.admits p (R.PLAY_VALID k) (fieldWord (F.PLAY_VALID_SLOT k) i) = true) ∧
    (let k : Fin 68 := 3; let i : Fin 32 := 2; let l : List Nat := [5]; let s : State := tst [] fun d => { d with cores := [(3, { validating := [2, 5] })] }; s.awake = true ∧ (s.cst k).validating = i.val :: l ∧ (s.slotSt k i ≠ 0 ∨ s.fld (F.PLAY_SLOT_CAP k i) = 0)) ∧
    (let k : Fin 68 := 3; let i : Fin 32 := 2; let l : List Nat := [5]; let s : State := tst [(R.PLAY_SLOT 3 2, 4)] fun d => { d with cores := [(3, { validating := [2, 5] })] }; s.awake = true ∧ (s.cst k).validating = i.val :: l ∧ s.slotSt k i = 0 ∧ s.fld (F.PLAY_SLOT_CAP k i) ≠ 0) ∧
    (let p : Port := .image; let k : Fin 68 := 3; let i : Fin 32 := 2; let s : State := tst [(R.PLAY_SLOT 3 2, 0x80000004)]; s.admits p (R.PLAY_INVAL k) (fieldWord (F.PLAY_INVAL_SLOT k) i) = true ∧ s.slotActive k i = false ∧ s.slotSt k i = 2) ∧
    (let p : Port := .image; let k : Fin 68 := 3; let i : Fin 32 := 2; let s : State := tst [(R.PLAY_SLOT 3 2, 0x80000004)] fun d => { d with cores := [(3, { play := { next := some 2 } })] }; s.admits p (R.PLAY_INVAL k) (fieldWord (F.PLAY_INVAL_SLOT k) i) = true ∧ (s.slotActive k i = true ∨ s.slotSt k i = 1)) :=
  by and_intros <;> decide +kernel

/-- The hypotheses of RefillRequestsFillSlots can be met. -/
theorem test_hyps_RefillRequestsFillSlots :
    (let r : Fin 4096 := 100; let c : Nat := 0x20; let s : State := tst [(R.RING_CHB 2, 96)] (fun d => { d with rings := [(100, { on := true, base := 0x1000, k := 4, esz := 2, pi := 3 })] }); s.awake = true ∧ Memory.wf s.losses s.mem = true ∧ s.refillHead r = true ∧ s.refillAccepted r = false ∧ s.refillJudge r = some c ∧ (s.ring r).waiting = [] ∧ (s.ring r).ci = (s.ring r).taken ∧ ((s.ring r).entry (s.ring r).taken) + 32 ≤ descAddr 0 ∧ ((partWords (((s.ring r).entry (s.ring r).taken) + 16) 16).any fun y => s.badWord y 1) = false) ∧
    (let r : Fin 4096 := 100; let n : Fin 64 := 2; let s : State := tst [(R.RING_CHB 2, 96), (R.PLAY_SLOT 2 5, 200)] (fun d => { d with rings := [(100, { on := true, base := 0x1000, k := 4, esz := 2, pi := 3 })], cores := [(2, { play := { next := some 5 } })] }) [(padBase + 0x1000 + 8, 2), (padBase + 0x1000 + 10, 5)]; s.awake = true ∧ s.refillHead r = true ∧ s.refillAccepted r = false ∧ s.refillJudge r = none ∧ s.ringChannel r = some n.val ∧ s.slotActive (s.core n) (s.num (((s.ring r).entry (s.ring r).taken) + 10) 1 % 32) = true) ∧
    (let r : Fin 4096 := 100; let n : Fin 64 := 2; let v : Volume := { llen := 100 }; let s : State := tst [(R.RING_CHB 2, 96), (R.PLAY_SLOT 2 5, 200), (R.STOR_STATE, 3)] (fun d => { d with rings := [(100, { on := true, base := 0x1000, k := 4, esz := 2, pi := 3 })], stor := { vol := some { llen := 100 } } }) [(padBase + 0x1000 + 8, 2), (padBase + 0x1000 + 10, 5)]; s.awake = true ∧ s.refillHead r = true ∧ s.refillJudge r = none ∧ s.ringChannel r = some n.val ∧ s.slotActive (s.core n) (s.num (((s.ring r).entry (s.ring r).taken) + 10) 1 % 32) = false ∧ s.storReady = true ∧ s.dev.stor.vol = some v ∧ s.num ((s.ring r).entry (s.ring r).taken) 8 + s.num (((s.ring r).entry (s.ring r).taken) + 8) 2 ≤ v.llen) ∧
    (let r : Fin 4096 := 100; let w : Work := { kind := .refill, ring := 100, idx := 0, cmds := [], core := 3, slot := 5 }; let s : State := tst [(R.RING_CHB 2, 96), (R.PLAY_SLOT 3 5, 0x40000000)] (fun d => { d with rings := [(100, { on := true, base := 0x1000, k := 4, esz := 2, pi := 3 })], stor := { work := [{ kind := .refill, ring := 100, idx := 0, cmds := [], core := 3, slot := 5 }] } }); s.awake = true ∧ (s.dev.stor.work.find? fun (w : Work) => w.ring = r.val && w.kind = WorkKind.refill && w.cmds.all fun (c : Cmd) => c.st = CmdSt.ok) = some w) ∧
    (let n : Fin 64 := 3; let i : Nat := 5; let g : Nat := 307200; let s : State := tst [] fun d => { d with cores := [(3, { play := { name := some (5, 0) }, drv := { next := some 307200 } })] }; s.awake = true ∧ s.startInstant n = some (i, g)) :=
  by and_intros <;> decide +kernel

/-- The hypotheses of RingsAreEnabledAndRung can be met. -/
theorem test_hyps_RingsAreEnabledAndRung :
    (let p : Port := .image; let r : Fin 4096 := 100; let s : State := tst [] id [(padBase + 0xFE0000 + 3200 + 1, 16), (padBase + 0xFE0000 + 3200 + 5, 4), (padBase + 0xFE0000 + 3200 + 6, 2)]; s.admits p R.RING_CTL (fieldWord F.RING_CTL_OP 1 ||| fieldWord F.RING_CTL_RING r) = true ∧ s.enableCode r = 0) ∧
    (let p : Port := .image; let r : Fin 4096 := 100; let s : State := tst []; s.admits p R.RING_CTL (fieldWord F.RING_CTL_OP 1 ||| fieldWord F.RING_CTL_RING r) = true ∧ s.enableCode r ≠ 0) ∧
    (let p : Port := .image; let r : Fin 4096 := 100; let s : State := tst []; s.admits p R.RING_CTL (fieldWord F.RING_CTL_OP 2 ||| fieldWord F.RING_CTL_RING r) = true ∧ (s.ring r).on = false) ∧
    (let p : Port := .image; let r : Fin 4096 := 100; let s : State := tst [] (fun d => { d with rings := [(100, { on := true, typ := 1 })] }); s.admits p R.RING_CTL (fieldWord F.RING_CTL_OP 2 ||| fieldWord F.RING_CTL_RING r) = true ∧ (s.ring r).on = true) ∧
    (let r : Fin 4096 := 100; let s : State := tst [] (fun d => { d with rings := [(100, { on := true, stopping := true })] }); s.awake = true ∧ (s.ring r).on = true ∧ (s.ring r).stopping = true ∧ s.ringBusy r = false) ∧
    (let p : Port := .image; let r : Fin 4096 := 100; let idx : BitVec 20 := 5; let s : State := tst [] (fun d => { d with rings := [(100, { on := true, typ := 5, k := 4, pi := 1 })] }); s.admits p R.RING_DB (fieldWord F.RING_DB_RING r ||| fieldWord F.RING_DB_IDX idx.toNat) = true ∧ s.fld F.PWR_STATE_ST ≠ 3 ∧ (s.ring r).on = true ∧ (s.ring r).stopping = false ∧ (s.ring r).consumed = true ∧ idxSub idx.toNat (s.ring r).pi ≤ 2 ^ (s.ring r).k ∧ idxSub idx.toNat (s.ring r).ci ≤ 2 ^ (s.ring r).k) ∧
    (let p : Port := .image; let r : Fin 4096 := 100; let idx : BitVec 20 := 18; let s : State := tst [] (fun d => { d with rings := [(100, { on := true, typ := 5, k := 4, pi := 1 })] }); s.admits p R.RING_DB (fieldWord F.RING_DB_RING r ||| fieldWord F.RING_DB_IDX idx.toNat) = true ∧ ((s.ring r).on = false ∨ s.fld F.PWR_STATE_ST ≠ 3) ∧ ((s.ring r).on = false ∨ (s.ring r).stopping = true ∨ (s.ring r).consumed = false ∨ 2 ^ (s.ring r).k < idxSub idx.toNat (s.ring r).pi ∨ 2 ^ (s.ring r).k < idxSub idx.toNat (s.ring r).ci)) ∧
    (let p : Port := .image; let r : Fin 4096 := 100; let idx : BitVec 20 := 1; let s : State := tst [] (fun d => { d with rings := [(100, { on := true, typ := 1, k := 4, pi := 1 })] }); s.admits p R.RING_DBC (fieldWord F.RING_DBC_RING r ||| fieldWord F.RING_DBC_IDX idx.toNat) = true ∧ (s.ring r).on = true ∧ (s.ring r).stopping = false ∧ (s.ring r).consumed = false ∧ (s.ring r).sink = 0 ∧ idxSub idx.toNat (s.ring r).ci ≤ idxSub (s.ring r).pi (s.ring r).ci) ∧
    (let p : Port := .image; let r : Fin 4096 := 100; let idx : BitVec 20 := 2; let s : State := tst [] (fun d => { d with rings := [(100, { on := true, typ := 1, k := 4, pi := 1 })] }); s.admits p R.RING_DBC (fieldWord F.RING_DBC_RING r ||| fieldWord F.RING_DBC_IDX idx.toNat) = true ∧ ((s.ring r).on = false ∨ (s.ring r).stopping = true ∨ (s.ring r).consumed = true ∨ (s.ring r).sink ≠ 0 ∨ idxSub (s.ring r).pi (s.ring r).ci < idxSub idx.toNat (s.ring r).ci)) :=
  by and_intros <;> decide +kernel

/-- The hypotheses of HostEntriesBecomeWork can be met. -/
theorem test_hyps_HostEntriesBecomeWork :
    (let r : Fin 4096 := 100; let s : State := tst [] (fun d => { d with rings := [(100, { on := true, typ := 5, k := 4, esz := 3, base := 0x1000, pi := 3 })] }) [(padBase + 0x1000, 3)]; s.awake = true ∧ (s.ring r).on = true ∧ (s.ring r).stopping = false ∧ (s.ring r).typ = 5 ∧ (s.ring r).taken ≠ (s.ring r).pi ∧ s.storSt ≠ 5 ∧ s.fld F.PWR_STATE_ST ≠ 3 ∧ Memory.wf s.losses s.mem = true ∧ (s.ring r).waiting = [] ∧ (s.ring r).ci = (s.ring r).taken ∧ ((s.ring r).entry (s.ring r).taken) + 64 ≤ descAddr 0 ∧ ((partWords (((s.ring r).entry (s.ring r).taken) + 32) 32).any fun y => s.badWord y 1) = false ∧ (3 ≤ s.num ((s.ring r).entry (s.ring r).taken) 1 ∨ 3 ≤ s.num (((s.ring r).entry (s.ring r).taken) + 1) 1 ∨ s.num (((s.ring r).entry (s.ring r).taken) + 3) 1 ≠ 0 ∨ s.num (((s.ring r).entry (s.ring r).taken) + 16) 8 % 4096 ≠ 0 ∨ 2 ^ 40 ≤ s.num (((s.ring r).entry (s.ring r).taken) + 16) 8 ∨ (s.num (((s.ring r).entry (s.ring r).taken) + 1) 1 = 1 ∧ s.num ((s.ring r).entry (s.ring r).taken) 1 = 1))) ∧
    (let r : Fin 4096 := 100; let s : State := tst [(R.STOR_STATE, 3)] (fun d => { d with rings := [(100, { on := true, typ := 5, k := 4, esz := 3, base := 0x1000, pi := 3 })] }) [(padBase + 0x1000, 2)]; s.awake = true ∧ (s.ring r).on = true ∧ (s.ring r).stopping = false ∧ (s.ring r).typ = 5 ∧ (s.ring r).taken ≠ (s.ring r).pi ∧ s.storSt ≠ 5 ∧ s.fld F.PWR_STATE_ST ≠ 3 ∧ s.badWord ((s.ring r).entry (s.ring r).taken) 32 = false ∧ s.num (((s.ring r).entry (s.ring r).taken) + 1) 1 < 3 ∧ s.num (((s.ring r).entry (s.ring r).taken) + 3) 1 = 0 ∧ s.num (((s.ring r).entry (s.ring r).taken) + 16) 8 % 4096 = 0 ∧ s.num (((s.ring r).entry (s.ring r).taken) + 16) 8 < 2 ^ 40 ∧ (s.num (((s.ring r).entry (s.ring r).taken) + 1) 1 ≠ 1 ∨ s.num ((s.ring r).entry (s.ring r).taken) 1 ≠ 1) ∧ (s.num (((s.ring r).entry (s.ring r).taken) + 1) 1 = 2 → ((s.ring r).ringer (s.ring r).taken) = 1 ∨ ((s.ring r).ringer (s.ring r).taken) = 2 ∨ ((s.ring r).ringer (s.ring r).taken) = 3) ∧ s.num ((s.ring r).entry (s.ring r).taken) 1 = 2 ∧ s.storReady = true) ∧
    (let r : Fin 4096 := 100; let s : State := tst [(R.STOR_STATE, 3)] (fun d => { d with rings := [(100, { on := true, typ := 5, k := 4, esz := 3, base := 0x1000, pi := 3 })] }); s.awake = true ∧ (s.ring r).on = true ∧ (s.ring r).stopping = false ∧ (s.ring r).typ = 5 ∧ (s.ring r).taken ≠ (s.ring r).pi ∧ s.storSt ≠ 5 ∧ s.fld F.PWR_STATE_ST ≠ 3 ∧ Memory.wf s.losses s.mem = true ∧ (s.ring r).waiting = [] ∧ (s.ring r).ci = (s.ring r).taken ∧ ((s.ring r).entry (s.ring r).taken) + 64 ≤ descAddr 0 ∧ ((partWords (((s.ring r).entry (s.ring r).taken) + 32) 32).any fun y => s.badWord y 1) = false ∧ s.badWord ((s.ring r).entry (s.ring r).taken) 32 = false ∧ s.num (((s.ring r).entry (s.ring r).taken) + 1) 1 < 3 ∧ s.num (((s.ring r).entry (s.ring r).taken) + 3) 1 = 0 ∧ s.num (((s.ring r).entry (s.ring r).taken) + 16) 8 % 4096 = 0 ∧ s.num (((s.ring r).entry (s.ring r).taken) + 16) 8 < 2 ^ 40 ∧ (s.num (((s.ring r).entry (s.ring r).taken) + 1) 1 ≠ 1 ∨ s.num ((s.ring r).entry (s.ring r).taken) 1 ≠ 1) ∧ (s.num (((s.ring r).entry (s.ring r).taken) + 1) 1 = 2 → ((s.ring r).ringer (s.ring r).taken) = 1 ∨ ((s.ring r).ringer (s.ring r).taken) = 2 ∨ ((s.ring r).ringer (s.ring r).taken) = 3) ∧ s.num ((s.ring r).entry (s.ring r).taken) 1 < 2 ∧ (s.num (((s.ring r).entry (s.ring r).taken) + 4) 4 = 0 ∨ 65536 < s.num (((s.ring r).entry (s.ring r).taken) + 4) 4)) ∧
    (let r : Fin 4096 := 100; let v : Volume := { lstart := 50, llen := 100 }; let b : Nat := 50; let z : Nat := 100; let s : State := tst [(R.STOR_STATE, 3)] (fun d => { d with rings := [(100, { on := true, typ := 5, k := 4, esz := 3, base := 0x1000, pi := 3 })], stor := { vol := some { lstart := 50, llen := 100 } } }) [(padBase + 0x1000 + 4, 40), (padBase + 0x1000 + 8, 60), (padBase + 0x1000 + 20, 3)]; s.awake = true ∧ (s.ring r).on = true ∧ (s.ring r).stopping = false ∧ (s.ring r).typ = 5 ∧ (s.ring r).taken ≠ (s.ring r).pi ∧ s.storSt ≠ 5 ∧ s.fld F.PWR_STATE_ST ≠ 3 ∧ s.badWord ((s.ring r).entry (s.ring r).taken) 32 = false ∧ s.num (((s.ring r).entry (s.ring r).taken) + 1) 1 < 3 ∧ s.num (((s.ring r).entry (s.ring r).taken) + 3) 1 = 0 ∧ s.num (((s.ring r).entry (s.ring r).taken) + 16) 8 % 4096 = 0 ∧ s.num (((s.ring r).entry (s.ring r).taken) + 16) 8 < 2 ^ 40 ∧ (s.num (((s.ring r).entry (s.ring r).taken) + 1) 1 ≠ 1 ∨ s.num ((s.ring r).entry (s.ring r).taken) 1 ≠ 1) ∧ (s.num (((s.ring r).entry (s.ring r).taken) + 1) 1 = 2 → ((s.ring r).ringer (s.ring r).taken) = 1 ∨ ((s.ring r).ringer (s.ring r).taken) = 2 ∨ ((s.ring r).ringer (s.ring r).taken) = 3) ∧ s.num ((s.ring r).entry (s.ring r).taken) 1 < 2 ∧ 0 < s.num (((s.ring r).entry (s.ring r).taken) + 4) 4 ∧ s.num (((s.ring r).entry (s.ring r).taken) + 4) 4 ≤ 65536 ∧ s.storReady = true ∧ s.dev.stor.vol = some v ∧ areaOf v (s.num (((s.ring r).entry (s.ring r).taken) + 1) 1) (s.num (((s.ring r).entry (s.ring r).taken) + 2) 1) = some (b, z) ∧ s.num (((s.ring r).entry (s.ring r).taken) + 8) 8 + s.num (((s.ring r).entry (s.ring r).taken) + 4) 4 ≤ z ∧ s.inWindow ((s.ring r).ringer (s.ring r).taken) (s.num (((s.ring r).entry (s.ring r).taken) + 16) 8) (s.num (((s.ring r).entry (s.ring r).taken) + 4) 4 * 4096) (decide (s.num ((s.ring r).entry (s.ring r).taken) 1 = 0)) = true ∧ s.bufferOpen ((s.ring r).ringer (s.ring r).taken) (s.num (((s.ring r).entry (s.ring r).taken) + 16) 8) (s.num (((s.ring r).entry (s.ring r).taken) + 4) 4) (decide (s.num ((s.ring r).entry (s.ring r).taken) 1 = 0)) = true) ∧
    (let r : Fin 4096 := 100; let v : Volume := { lstart := 50, llen := 100 }; let b : Nat := 50; let z : Nat := 100; let s : State := tst [(R.STOR_STATE, 3)] (fun d => { d with rings := [(100, { on := true, typ := 5, k := 4, esz := 3, base := 0x1000, pi := 3 })], stor := { vol := some { lstart := 50, llen := 100 } } }) [(padBase + 0x1000 + 4, 41), (padBase + 0x1000 + 8, 60), (padBase + 0x1000 + 20, 3)]; s.awake = true ∧ (s.ring r).on = true ∧ (s.ring r).stopping = false ∧ (s.ring r).typ = 5 ∧ (s.ring r).taken ≠ (s.ring r).pi ∧ s.storSt ≠ 5 ∧ s.fld F.PWR_STATE_ST ≠ 3 ∧ Memory.wf s.losses s.mem = true ∧ (s.ring r).waiting = [] ∧ (s.ring r).ci = (s.ring r).taken ∧ ((s.ring r).entry (s.ring r).taken) + 64 ≤ descAddr 0 ∧ ((partWords (((s.ring r).entry (s.ring r).taken) + 32) 32).any fun y => s.badWord y 1) = false ∧ s.badWord ((s.ring r).entry (s.ring r).taken) 32 = false ∧ s.num (((s.ring r).entry (s.ring r).taken) + 1) 1 < 3 ∧ s.num (((s.ring r).entry (s.ring r).taken) + 3) 1 = 0 ∧ s.num (((s.ring r).entry (s.ring r).taken) + 16) 8 % 4096 = 0 ∧ s.num (((s.ring r).entry (s.ring r).taken) + 16) 8 < 2 ^ 40 ∧ (s.num (((s.ring r).entry (s.ring r).taken) + 1) 1 ≠ 1 ∨ s.num ((s.ring r).entry (s.ring r).taken) 1 ≠ 1) ∧ (s.num (((s.ring r).entry (s.ring r).taken) + 1) 1 = 2 → ((s.ring r).ringer (s.ring r).taken) = 1 ∨ ((s.ring r).ringer (s.ring r).taken) = 2 ∨ ((s.ring r).ringer (s.ring r).taken) = 3) ∧ s.num ((s.ring r).entry (s.ring r).taken) 1 < 2 ∧ 0 < s.num (((s.ring r).entry (s.ring r).taken) + 4) 4 ∧ s.num (((s.ring r).entry (s.ring r).taken) + 4) 4 ≤ 65536 ∧ s.storReady = true ∧ s.dev.stor.vol = some v ∧ areaOf v (s.num (((s.ring r).entry (s.ring r).taken) + 1) 1) (s.num (((s.ring r).entry (s.ring r).taken) + 2) 1) = some (b, z) ∧ z < s.num (((s.ring r).entry (s.ring r).taken) + 8) 8 + s.num (((s.ring r).entry (s.ring r).taken) + 4) 4) :=
  by and_intros <;> decide +kernel

/-- The hypotheses of TagsAndTries can be met. -/
theorem test_hyps_TagsAndTries :
    (let g : Fin 2048 := 259; let r : Nat := 100; let w : Work := { kind := .host, ring := 100, idx := 0, cmds := [{ op := .read, blk := 7, n := 2, buf := 0 }] }; let s : State := tst [(R.STOR_STATE, 3)] (fun d => { d with stor := { work := [{ kind := .host, ring := 100, idx := 0, cmds := [{ op := .read, blk := 7, n := 2, buf := 0 }] }] } }); s.awake = true ∧ (s.dev.stor.tags.any fun (e : Nat × Tag) => decide (e.1 = g.val)) = false ∧ 2 ≤ s.storSt ∧ s.storSt ≤ 5 ∧ s.nextRing (g.val / 128) = some r ∧ (s.dev.stor.work.find? fun (w : Work) => decide (w.ring = r) && decide (w.queue = g.val / 128) && decide (w.waitingCmds ≠ 0)) = some w) ∧
    (let g : Fin 2048 := 3; let a : Tag := { ring := 100, idx := 0, cmd := 0 }; let w : Work := { kind := .host, ring := 100, idx := 0, cmds := [{ op := .read, blk := 7, n := 2, buf := 0x0300002000, tries := 1, st := .out }, { op := .read, blk := 9, n := 2, buf := 0 }] }; let c : Cmd := { op := .read, blk := 7, n := 2, buf := 0x0300002000, tries := 1, st := .out }; let dnr : Bool := false; let s : State := tst [] (fun d => { d with stor := { work := [{ kind := .host, ring := 100, idx := 0, cmds := [{ op := .read, blk := 7, n := 2, buf := 0x0300002000, tries := 1, st := .out }, { op := .read, blk := 9, n := 2, buf := 0 }] }], tags := [(3, { ring := 100, idx := 0, cmd := 0 })] }, rings := [(100, { on := true, typ := 5, k := 4, esz := 3, base := 0x1000, pi := 3 })] }); s.awake = true ∧ (s.dev.stor.tags.find? fun (e : Nat × Tag) => decide (e.1 = g.val)) = some (g.val, a) ∧ a.zombie = false ∧ s.workOf a.ring a.idx = some w ∧ w.cmds[a.cmd]? = some c ∧ (w.afterTry a.cmd CmdSt.ok w.nvst).isDone = false) ∧
    (let g : Fin 2048 := 3; let a : Tag := { ring := 100, idx := 0, cmd := 0 }; let w : Work := { kind := .host, ring := 100, idx := 0, cmds := [{ op := .read, blk := 7, n := 2, buf := 0x0300002000, tries := 1, st := .out }] }; let c : Cmd := { op := .read, blk := 7, n := 2, buf := 0x0300002000, tries := 1, st := .out }; let dnr : Bool := false; let s : State := tst [] (fun d => { d with stor := { work := [{ kind := .host, ring := 100, idx := 0, cmds := [{ op := .read, blk := 7, n := 2, buf := 0x0300002000, tries := 1, st := .out }] }], tags := [(3, { ring := 100, idx := 0, cmd := 0 })] }, rings := [(100, { on := true, typ := 5, k := 4, esz := 3, base := 0x1000, pi := 3 })] }); s.awake = true ∧ (s.dev.stor.tags.find? fun (e : Nat × Tag) => decide (e.1 = g.val)) = some (g.val, a) ∧ a.zombie = false ∧ s.workOf a.ring a.idx = some w ∧ w.cmds[a.cmd]? = some c ∧ Memory.wf s.losses s.mem = true ∧ w.kind = WorkKind.host ∧ (s.ring a.ring).typ = 5 ∧ (s.ring a.ring).waiting = [] ∧ (s.ring a.ring).ci = a.idx ∧ (s.ring a.ring).entry a.idx + 64 ≤ descAddr 0 ∧ ((partWords ((s.ring a.ring).entry a.idx + 32) 32).any fun y => s.badWord y 1) = false ∧ (w.afterTry a.cmd CmdSt.ok w.nvst).isDone = true) ∧
    (let g : Fin 2048 := 3; let a : Tag := { ring := 100, idx := 0, cmd := 0 }; let w : Work := { kind := .host, ring := 100, idx := 0, cmds := [{ op := .read, blk := 7, n := 2, buf := 0x0300002000, tries := 1, st := .out }] }; let c : Cmd := { op := .read, blk := 7, n := 2, buf := 0x0300002000, tries := 1, st := .out }; let sct : BitVec 3 := 1; let sc : Byte := 2; let s : State := tst [(R.STOR_RETRY, 0x00050005)] (fun d => { d with stor := { work := [{ kind := .host, ring := 100, idx := 0, cmds := [{ op := .read, blk := 7, n := 2, buf := 0x0300002000, tries := 1, st := .out }] }], tags := [(3, { ring := 100, idx := 0, cmd := 0 })] }, rings := [(100, { on := true, typ := 5, k := 4, esz := 3, base := 0x1000, pi := 3 })] }); s.awake = true ∧ (s.dev.stor.tags.find? fun (e : Nat × Tag) => decide (e.1 = g.val)) = some (g.val, a) ∧ a.zombie = false ∧ s.workOf a.ring a.idx = some w ∧ w.cmds[a.cmd]? = some c ∧ (sct ≠ 0 ∨ sc ≠ 0) ∧ c.tries < 3 ∧ s.fld F.STOR_RETRY_BACKOFF ≠ 0) ∧
    (let g : Fin 2048 := 3; let a : Tag := { ring := 100, idx := 0, cmd := 0 }; let w : Work := { kind := .host, ring := 100, idx := 0, cmds := [{ op := .read, blk := 7, n := 2, buf := 0x0300002000, tries := 1, st := .out }], stalled := true }; let c : Cmd := { op := .read, blk := 7, n := 2, buf := 0x0300002000, tries := 1, st := .out }; let sct : BitVec 3 := 1; let sc : Byte := 2; let s : State := tst [(R.STOR_RETRY, 5)] (fun d => { d with stor := { work := [{ kind := .host, ring := 100, idx := 0, cmds := [{ op := .read, blk := 7, n := 2, buf := 0x0300002000, tries := 1, st := .out }], stalled := true }], tags := [(3, { ring := 100, idx := 0, cmd := 0 })] }, rings := [(100, { on := true, typ := 5, k := 4, esz := 3, base := 0x1000, pi := 3 })] }); s.awake = true ∧ (s.dev.stor.tags.find? fun (e : Nat × Tag) => decide (e.1 = g.val)) = some (g.val, a) ∧ a.zombie = false ∧ s.workOf a.ring a.idx = some w ∧ w.cmds[a.cmd]? = some c ∧ (sct ≠ 0 ∨ sc ≠ 0) ∧ c.tries < 3 ∧ s.fld F.STOR_RETRY_BACKOFF = 0 ∧ w.stalled = true) ∧
    (let g : Fin 2048 := 3; let a : Tag := { ring := 100, idx := 0, cmd := 0 }; let w : Work := { kind := .host, ring := 100, idx := 0, cmds := [{ op := .read, blk := 7, n := 2, buf := 0x0300002000, tries := 1, st := .out }] }; let c : Cmd := { op := .read, blk := 7, n := 2, buf := 0x0300002000, tries := 1, st := .out }; let sct : BitVec 3 := 1; let sc : Byte := 2; let dnr : Bool := true; let s : State := tst [] (fun d => { d with stor := { work := [{ kind := .host, ring := 100, idx := 0, cmds := [{ op := .read, blk := 7, n := 2, buf := 0x0300002000, tries := 1, st := .out }] }], tags := [(3, { ring := 100, idx := 0, cmd := 0 })] }, rings := [(100, { on := true, typ := 5, k := 4, esz := 3, base := 0x1000, pi := 3 })] }); s.awake = true ∧ (s.dev.stor.tags.find? fun (e : Nat × Tag) => decide (e.1 = g.val)) = some (g.val, a) ∧ a.zombie = false ∧ s.workOf a.ring a.idx = some w ∧ w.cmds[a.cmd]? = some c ∧ Memory.wf s.losses s.mem = true ∧ w.kind = WorkKind.host ∧ (s.ring a.ring).typ = 5 ∧ (s.ring a.ring).waiting = [] ∧ (s.ring a.ring).ci = a.idx ∧ (s.ring a.ring).entry a.idx + 64 ≤ descAddr 0 ∧ ((partWords ((s.ring a.ring).entry a.idx + 32) 32).any fun y => s.badWord y 1) = false ∧ (sct ≠ 0 ∨ sc ≠ 0) ∧ (dnr = true ∨ 3 ≤ c.tries)) ∧
    (let g : Fin 2048 := 3; let a : Tag := { ring := 100, idx := 0, cmd := 0, zombie := true, ended := true }; let sct : BitVec 3 := 0; let sc : Byte := 0; let dnr : Bool := false; let s : State := tst [] (fun d => { d with stor := { tags := [(3, { ring := 100, idx := 0, cmd := 0, zombie := true, ended := true })] } }); s.awake = true ∧ (s.dev.stor.tags.find? fun (e : Nat × Tag) => decide (e.1 = g.val)) = some (g.val, a) ∧ a.zombie = true ∧ a.ended = true ∧ sct = 0 ∧ sc = 0) ∧
    (let g : Fin 2048 := 3; let a : Tag := { ring := 100, idx := 0, cmd := 0, zombie := true }; let sct : BitVec 3 := 0; let sc : Byte := 0; let dnr : Bool := false; let s : State := tst [] (fun d => { d with stor := { tags := [(3, { ring := 100, idx := 0, cmd := 0, zombie := true })] } }); s.awake = true ∧ (s.dev.stor.tags.find? fun (e : Nat × Tag) => decide (e.1 = g.val)) = some (g.val, a) ∧ a.zombie = true ∧ a.ended = false) ∧
    (let g : Fin 2048 := 3; let a : Tag := { ring := 100, idx := 0, cmd := 0 }; let w : Work := { kind := .host, ring := 100, idx := 0, cmds := [{ op := .read, blk := 7, n := 2, buf := 0x0300002000, tries := 1, st := .out }] }; let c : Cmd := { op := .read, blk := 7, n := 2, buf := 0x0300002000, tries := 1, st := .out }; let s : State := tst [(R.STOR_RETRY, 0x00050005)] (fun d => { d with stor := { work := [{ kind := .host, ring := 100, idx := 0, cmds := [{ op := .read, blk := 7, n := 2, buf := 0x0300002000, tries := 1, st := .out }] }], tags := [(3, { ring := 100, idx := 0, cmd := 0 })] }, rings := [(100, { on := true, typ := 5, k := 4, esz := 3, base := 0x1000, pi := 3 })] }); s.awake = true ∧ (s.dev.stor.tags.find? fun (e : Nat × Tag) => decide (e.1 = g.val)) = some (g.val, a) ∧ a.zombie = false ∧ s.workOf a.ring a.idx = some w ∧ w.cmds[a.cmd]? = some c ∧ s.fld F.STOR_RETRY_CTO ≠ 0 ∧ c.tries < 3 ∧ s.fld F.STOR_RETRY_BACKOFF ≠ 0) ∧
    (let g : Fin 2048 := 3; let a : Tag := { ring := 100, idx := 0, cmd := 0 }; let w : Work := { kind := .host, ring := 100, idx := 0, cmds := [{ op := .read, blk := 7, n := 2, buf := 0x0300002000, tries := 3, st := .out }] }; let c : Cmd := { op := .read, blk := 7, n := 2, buf := 0x0300002000, tries := 3, st := .out }; let s : State := tst [(R.STOR_RETRY, 0x00050005)] (fun d => { d with stor := { work := [{ kind := .host, ring := 100, idx := 0, cmds := [{ op := .read, blk := 7, n := 2, buf := 0x0300002000, tries := 3, st := .out }] }], tags := [(3, { ring := 100, idx := 0, cmd := 0 })] }, rings := [(100, { on := true, typ := 5, k := 4, esz := 3, base := 0x1000, pi := 3 })] }); s.awake = true ∧ (s.dev.stor.tags.find? fun (e : Nat × Tag) => decide (e.1 = g.val)) = some (g.val, a) ∧ a.zombie = false ∧ s.workOf a.ring a.idx = some w ∧ w.cmds[a.cmd]? = some c ∧ Memory.wf s.losses s.mem = true ∧ w.kind = WorkKind.host ∧ (s.ring a.ring).typ = 5 ∧ (s.ring a.ring).waiting = [] ∧ (s.ring a.ring).ci = a.idx ∧ (s.ring a.ring).entry a.idx + 64 ≤ descAddr 0 ∧ ((partWords ((s.ring a.ring).entry a.idx + 32) 32).any fun y => s.badWord y 1) = false ∧ s.fld F.STOR_RETRY_CTO ≠ 0 ∧ 3 ≤ c.tries) ∧
    (let g : Fin 2048 := 3; let a : Tag := { ring := 100, idx := 0, cmd := 0 }; let w : Work := { kind := .host, ring := 100, idx := 0, cmds := [{ op := .read, blk := 7, n := 2, buf := 0x0300002000, tries := 1, st := .out }] }; let c : Cmd := { op := .read, blk := 7, n := 2, buf := 0x0300002000, tries := 1, st := .out }; let s : State := tst [(R.STOR_RETRY, 0x00050005)] (fun d => { d with stor := { work := [{ kind := .host, ring := 100, idx := 0, cmds := [{ op := .read, blk := 7, n := 2, buf := 0x0300002000, tries := 1, st := .out }] }], tags := [(3, { ring := 100, idx := 0, cmd := 0 })] }, rings := [(100, { on := true, typ := 5, k := 4, esz := 3, base := 0x1000, pi := 3 })] }); s.awake = true ∧ (s.dev.stor.tags.find? fun (e : Nat × Tag) => decide (e.1 = g.val)) = some (g.val, a) ∧ a.zombie = false ∧ s.workOf a.ring a.idx = some w ∧ w.cmds[a.cmd]? = some c ∧ c.tries < 3 ∧ s.fld F.STOR_RETRY_BACKOFF ≠ 0) ∧
    (let r : Nat := 100; let x : Nat := 0; let i : Nat := 0; let w : Work := { kind := .host, ring := 100, idx := 0, cmds := [{ op := .read, blk := 7, n := 2, buf := 0x0300002000, tries := 1, st := .backoff }], stalled := true }; let s : State := tst [] (fun d => { d with stor := { work := [{ kind := .host, ring := 100, idx := 0, cmds := [{ op := .read, blk := 7, n := 2, buf := 0x0300002000, tries := 1, st := .backoff }], stalled := true }] } }); s.awake = true ∧ s.workOf r x = some w ∧ ((w.cmds[i]?).any fun (c : Cmd) => c.st = CmdSt.backoff) = true ∧ w.stalled = true) ∧
    (let r : Fin 4096 := 100; let x : BitVec 20 := 0; let w : Work := { kind := .host, ring := 100, idx := 0, cmds := [{ op := .read, blk := 7, n := 2, buf := 0x0300002000, tries := 1, st := .out }] }; let s : State := tst [] (fun d => { d with stor := { work := [{ kind := .host, ring := 100, idx := 0, cmds := [{ op := .read, blk := 7, n := 2, buf := 0x0300002000, tries := 1, st := .out }] }] }, rings := [(100, { on := true, typ := 5, k := 4, esz := 3, base := 0x1000, pi := 3, tmo := 5 })] }); s.awake = true ∧ s.workOf r x.toNat = some w ∧ w.timed = true ∧ (s.ring r).tmo ≠ 0 ∧ w.isDone = false ∧ Memory.wf s.losses s.mem = true ∧ w.kind = WorkKind.host ∧ (s.ring r).typ = 5 ∧ (s.ring r).waiting = [] ∧ (s.ring r).ci = x.toNat ∧ (s.ring r).entry x.toNat + 64 ≤ descAddr 0 ∧ ((partWords ((s.ring r).entry x.toNat + 32) 32).any fun y => s.badWord y 1) = false) ∧
    (let r : Fin 4096 := 100; let x : BitVec 20 := 0; let s : State := tst []; s.awake = true) ∧
    (let g : Fin 2048 := 3; let a : Tag := { ring := 100, idx := 0, cmd := 0, zombie := true }; let s : State := tst [(R.STOR_RETRY, 5)] (fun d => { d with stor := { tags := [(3, { ring := 100, idx := 0, cmd := 0, zombie := true })] } }); s.awake = true ∧ (s.dev.stor.tags.find? fun (e : Nat × Tag) => decide (e.1 = g.val)) = some (g.val, a) ∧ a.zombie = true ∧ a.warned = false ∧ s.fld F.STOR_RETRY_CTO ≠ 0) :=
  by and_intros <;> decide +kernel

/-- The hypotheses of BlocksJournalAndAperture can be met. -/
theorem test_hyps_BlocksJournalAndAperture :
    (let r : Fin 4096 := 100; let v : Volume := { regions := [⟨1000, 64, 1⟩], jstart := 10, jlen := 4 }; let z : Region := ⟨1000, 64, 1⟩; let s : State := tst [(R.STOR_STATE, 3), (R.STOR_CFG, 0x01000000)] (fun d => { d with rings := [(100, { on := true, typ := 1, sink := 1, k := 12, esz := 2, pi := 200 })], stor := { vol := some { regions := [⟨1000, 64, 1⟩], jstart := 10, jlen := 4 } } }); s.awake = true ∧ (s.ring r).on = true ∧ (s.ring r).stopping = false ∧ (s.ring r).consumed = false ∧ (s.ring r).sink = 1 ∧ s.storReady = true ∧ s.dev.stor.vol = some v ∧ v.regions[(s.ring r).region]? = some z ∧ z.len ≠ 0 ∧ (s.ring r).again = [] ∧ (s.dev.line.recs.any fun (c : Rec) => decide (c.ring = r.val) && decide (c.first = (s.ring r).taken)) = false ∧ (if (s.ring r).esz = 4 then 1 else entriesPerBlock (s.ring r).esz) ≤ idxSub (s.ring r).pi (s.ring r).taken) ∧
    (let r : Fin 4096 := 100; let v : Volume := { regions := [⟨1000, 64, 1⟩], jstart := 10, jlen := 4 }; let z : Region := ⟨1000, 64, 1⟩; let s : State := tst [(R.STOR_STATE, 3), (R.STOR_CFG, 0x01000000)] (fun d => { d with rings := [(100, { on := true, typ := 1, sink := 1, k := 12, esz := 2, pi := 3 })], stor := { vol := some { regions := [⟨1000, 64, 1⟩], jstart := 10, jlen := 4 } } }); s.awake = true ∧ (s.ring r).on = true ∧ (s.ring r).stopping = false ∧ (s.ring r).consumed = false ∧ (s.ring r).sink = 1 ∧ s.storReady = true ∧ s.dev.stor.vol = some v ∧ v.regions[(s.ring r).region]? = some z ∧ z.len ≠ 0 ∧ (s.ring r).again = [] ∧ (s.dev.line.recs.any fun (c : Rec) => decide (c.ring = r.val) && decide (c.first = (s.ring r).taken)) = false ∧ s.fld F.STOR_CFG_FLUSH ≠ 0 ∧ (s.ring r).esz ≠ 4 ∧ 0 < idxSub (s.ring r).pi (s.ring r).taken ∧ idxSub (s.ring r).pi (s.ring r).taken < entriesPerBlock (s.ring r).esz) ∧
    (let v : Volume := { regions := [⟨1000, 64, 1⟩], jstart := 10, jlen := 4 }; let s : State := tst [(R.STOR_STATE, 3), (R.STOR_CFG, 0x01000000)] (fun d => { d with stor := { vol := some { regions := [⟨1000, 64, 1⟩], jstart := 10, jlen := 4 }, journal := [List.replicate 32 5] } }); s.awake = true ∧ s.storReady = true ∧ (s.fld F.STOR_CFG_FLUSH ≠ 0 ∨ 126 ≤ s.dev.stor.journal.length) ∧ s.dev.stor.vol = some v ∧ s.dev.stor.journal ≠ [] ∧ v.jlen ≠ 0) ∧
    (let wr : Bool := true; let a : BitVec 64 := 0x1000000000 + 3 * 0x20000 + 16; let len : Nat := 0; let bytes : List Byte := [1, 2, 3]; let g : Nat := 3; let o : Nat := 16; let w : Work := { kind := .host, ring := 100, idx := 0, cmds := [{ op := .read, blk := 7, n := 2, buf := 0x0300002000, tries := 1, st := .out }] }; let c : Cmd := { op := .read, blk := 7, n := 2, buf := 0x0300002000, tries := 1, st := .out }; let s : State := tst [] (fun d => { d with stor := { work := [{ kind := .host, ring := 100, idx := 0, cmds := [{ op := .read, blk := 7, n := 2, buf := 0x0300002000, tries := 1, st := .out }] }], tags := [(3, { ring := 100, idx := 0, cmd := 0 })] } }); s.awake = true ∧ Memory.wf s.losses s.mem = true ∧ wr = true ∧ apertureTag a.toNat = some (g, o) ∧ s.liveCmd g = some (w, c) ∧ c.op ≠ StorOp.flush ∧ w.kind = WorkKind.host ∧ o + bytes.length ≤ c.n * 4096 ∧ s.plainPlace (c.buf + o) = true ∧ ((partWords (c.buf + o) bytes.length).any fun y => s.badWord y 1) = false) ∧
    (let wr : Bool := true; let a : BitVec 64 := 0x1000000000 + 3 * 0x20000 + 16; let len : Nat := 0; let bytes : List Byte := [1, 2, 3]; let g : Nat := 3; let o : Nat := 16; let w : Work := { kind := .host, ring := 100, idx := 0, cmds := [{ op := .read, blk := 7, n := 2, buf := 0x0400000000, tries := 1, st := .out }] }; let c : Cmd := { op := .read, blk := 7, n := 2, buf := 0x0400000000, tries := 1, st := .out }; let s : State := tst [] (fun d => { d with bus := { d.bus with locked := true }, stor := { work := [{ kind := .host, ring := 100, idx := 0, cmds := [{ op := .read, blk := 7, n := 2, buf := 0x0400000000, tries := 1, st := .out }] }], tags := [(3, { ring := 100, idx := 0, cmd := 0 })] } }); s.awake = true ∧ wr = true ∧ apertureTag a.toNat = some (g, o) ∧ s.liveCmd g = some (w, c) ∧ c.op ≠ StorOp.flush ∧ w.kind = WorkKind.host ∧ (s.dev.bus.locked = true ∨ s.place (c.buf + o) = .outside) ∧ (s.lockedPlace (c.buf + o) = true ∨ s.place (c.buf + o) = .outside)) ∧
    (let wr : Bool := true; let a : BitVec 64 := 0x1000000000 + 3 * 0x20000 + 16; let len : Nat := 0; let bytes : List Byte := [1, 2, 3]; let g : Nat := 3; let o : Nat := 16; let w : Work := { kind := .refill, ring := 100, idx := 0, core := 3, slot := 5, cmds := [{ op := .read, blk := 7, n := 2, buf := 0x01000C0000, tries := 1, st := .out }] }; let c : Cmd := { op := .read, blk := 7, n := 2, buf := 0x01000C0000, tries := 1, st := .out }; let s : State := tst [(R.PLAY_SLOT 3 5, 200)] (fun d => { d with stor := { work := [{ kind := .refill, ring := 100, idx := 0, core := 3, slot := 5, cmds := [{ op := .read, blk := 7, n := 2, buf := 0x01000C0000, tries := 1, st := .out }] }], tags := [(3, { ring := 100, idx := 0, cmd := 0 })] } }); s.awake = true ∧ Memory.wf s.losses s.mem = true ∧ wr = true ∧ apertureTag a.toNat = some (g, o) ∧ s.liveCmd g = some (w, c) ∧ c.op ≠ StorOp.flush ∧ w.kind = WorkKind.refill ∧ (c.buf + o) + bytes.length ≤ s.slotAddr w.core w.slot + 32 + 128 * s.fld (F.PLAY_SLOT_CAP w.core w.slot)) ∧
    (let wr : Bool := true; let a : BitVec 64 := 0x1000000000 + 3 * 0x20000 + 16; let len : Nat := 0; let bytes : List Byte := [1, 2, 3]; let g : Nat := 3; let o : Nat := 16; let w : Work := { kind := .block, ring := 100, idx := 0, data := [7, 8], cmds := [{ op := .write, blk := 7, n := 1, buf := 0, tries := 1, st := .out }] }; let c : Cmd := { op := .write, blk := 7, n := 1, buf := 0, tries := 1, st := .out }; let s : State := tst [] (fun d => { d with stor := { work := [{ kind := .block, ring := 100, idx := 0, data := [7, 8], cmds := [{ op := .write, blk := 7, n := 1, buf := 0, tries := 1, st := .out }] }], tags := [(3, { ring := 100, idx := 0, cmd := 0 })] } }); s.awake = true ∧ wr = true ∧ apertureTag a.toNat = some (g, o) ∧ s.liveCmd g = some (w, c) ∧ c.op ≠ StorOp.flush ∧ w.kind ≠ WorkKind.host ∧ w.kind ≠ WorkKind.refill) ∧
    (let wr : Bool := false; let a : BitVec 64 := 0x1000000000 + 3 * 0x20000 + 16; let len : Nat := 4; let bytes : List Byte := []; let g : Nat := 3; let o : Nat := 16; let w : Work := { kind := .host, ring := 100, idx := 0, cmds := [{ op := .write, blk := 7, n := 2, buf := 0x0300002000, tries := 1, st := .out }] }; let c : Cmd := { op := .write, blk := 7, n := 2, buf := 0x0300002000, tries := 1, st := .out }; let s : State := tst [] (fun d => { d with stor := { work := [{ kind := .host, ring := 100, idx := 0, cmds := [{ op := .write, blk := 7, n := 2, buf := 0x0300002000, tries := 1, st := .out }] }], tags := [(3, { ring := 100, idx := 0, cmd := 0 })] } }); s.awake = true ∧ wr = false ∧ apertureTag a.toNat = some (g, o) ∧ s.liveCmd g = some (w, c) ∧ c.op ≠ StorOp.flush) ∧
    (let wr : Bool := true; let a : BitVec 64 := 0; let len : Nat := 0; let bytes : List Byte := [1]; let s : State := tst []; s.awake = true ∧ (match apertureTag a.toNat with | some x => (s.liveCmd x.1).isNone | none => true) = true) ∧
    (let p : Port := .image; let w : Word := 0x00050005; let s : State := tst []; s.admits p R.STOR_RETRY w = true ∧ (s.dev.rings.any fun (q : Nat × Ring) => q.2.on && q.2.usesStorage && !budgetOk (fieldGet w 0 16) (fieldGet w 16 16) q.2.tmo) = false) ∧
    (let p : Port := .image; let w : Word := 0x00050005; let s : State := tst [] (fun d => { d with rings := [(100, { on := true, typ := 5, k := 4, esz := 3, base := 0x1000, pi := 3, tmo := 5 })] }); s.admits p R.STOR_RETRY w = true ∧ (s.dev.rings.any fun (q : Nat × Ring) => q.2.on && q.2.usesStorage && !budgetOk (fieldGet w 0 16) (fieldGet w 16 16) q.2.tmo) = true) :=
  by and_intros <;> decide +kernel

/-- The hypotheses of TheVolumeIsAttachedAndDetached can be met. -/
theorem test_hyps_TheVolumeIsAttachedAndDetached :
    (let p : Port := .image; let s : State := tst []; s.admits p R.STOR_CTL 1 = true ∧ (s.storSt = 0 ∨ s.storSt = 6 ∨ s.storSt = 7)) ∧
    (let p : Port := .image; let s : State := tst [(R.STOR_STATE, 3)] ; s.admits p R.STOR_CTL 1 = true ∧ s.storSt ≠ 0 ∧ s.storSt ≠ 6 ∧ s.storSt ≠ 7) ∧
    (let s : State := tst []; s.awake = true ∧ (s.storSt = 0 ∨ s.storSt = 6 ∨ s.storSt = 7)) ∧
    (let s : State := tst [] (fun d => { d with pins := { ssdPwren := true } }); s.awake = true ∧ s.dev.pins.ssdPwren = true ∧ s.dev.pins.perstN = false) ∧
    (let width : BitVec 4 := 4; let speed : BitVec 4 := 3; let s : State := tst [(R.STOR_STATE, 1)] ; s.awake = true ∧ s.storSt = 1) ∧
    (let s : State := tst [(R.STOR_STATE, 1)] ; s.awake = true ∧ s.storSt = 1) ∧
    (let ver : Nat := 13; let pairs : Nat := 16; let mqes : Nat := 255; let mdts : Nat := 128; let size : Nat := 512; let msize : Nat := 0; let lbas : Nat := 80; let cache : Bool := true; let s : State := tst [(R.STOR_STATE, 2)] ; s.awake = true ∧ s.storSt = 2 ∧ 13 ≤ ver ∧ 16 ≤ pairs ∧ 255 ≤ mqes ∧ (mdts = 0 ∨ 128 ≤ mdts) ∧ (size = 512 ∨ size = 4096) ∧ msize = 0 ∧ s.dev.image.volume.vblk ≤ volumeBlocks lbas size) ∧
    (let ver : Nat := 13; let pairs : Nat := 16; let mqes : Nat := 254; let mdts : Nat := 128; let size : Nat := 512; let msize : Nat := 0; let lbas : Nat := 80; let cache : Bool := true; let s : State := tst [(R.STOR_STATE, 2)] ; s.awake = true ∧ s.storSt = 2 ∧ (ver < 13 ∨ pairs < 16 ∨ mqes < 255 ∨ (mdts ≠ 0 ∧ mdts < 128) ∨ ¬((size = 512 ∨ size = 4096) ∧ msize = 0) ∨ volumeBlocks lbas size < s.dev.image.volume.vblk)) ∧
    (let a : List Byte := []; let b : List Byte := [1]; let blocks : List ReadBlock := []; let journal : List ReadBlock := []; let s : State := tst [(R.STOR_STATE, 2)] ; s.awake = true ∧ s.storSt = 2 ∧ parseSuper a = none ∧ parseSuper b = none) ∧
    (let a : List Byte := smallSuper; let b : List Byte := []; let blocks : List ReadBlock := []; let journal : List ReadBlock := []; let v : Volume := { gen := 5, vblk := 9, regions := List.replicate 128 ⟨0, 0, 0⟩ }; let d : Nat := 6; let s : State := tst [(R.STOR_STATE, 2), (R.SYS_DEVID, 6)] ; s.awake = true ∧ s.storSt = 2 ∧ bestSuper a b = some (v, d) ∧ (d = s.fld F.SYS_DEVID_DEV ∨ s.flg F.STOR_CFG_ADOPT = true)) ∧
    (let a : List Byte := smallSuper; let b : List Byte := []; let blocks : List ReadBlock := []; let journal : List ReadBlock := []; let v : Volume := { gen := 5, vblk := 9, regions := List.replicate 128 ⟨0, 0, 0⟩ }; let d : Nat := 6; let s : State := tst [(R.STOR_STATE, 2)] ; s.awake = true ∧ s.storSt = 2 ∧ bestSuper a b = some (v, d) ∧ d ≠ s.fld F.SYS_DEVID_DEV ∧ s.flg F.STOR_CFG_ADOPT = false) ∧
    (let p : Port := .image; let s : State := tst [(R.STOR_STATE, 3)] ; s.admits p R.STOR_CTL 2 = true ∧ (s.storSt = 3 ∨ s.storSt = 4)) ∧
    (let p : Port := .image; let s : State := tst []; s.admits p R.STOR_CTL 2 = true ∧ s.storSt ≠ 3 ∧ s.storSt ≠ 4) ∧
    (let s : State := tst [(R.STOR_STATE, 5)] ; s.awake = true ∧ s.storSt = 5 ∧ s.dev.stor.work = []) ∧
    (let p : Port := .image; let s : State := tst [(R.STOR_STATE, 4)] ; s.admits p R.STOR_CTL 3 = true ∧ (s.storSt = 3 ∨ s.storSt = 4) ∧ (s.dev.stor.work.any fun (w : Work) => w.kind = WorkKind.block) = false ∧ s.dev.stor.formatting = false) ∧
    (let p : Port := .image; let s : State := tst []; s.admits p R.STOR_CTL 3 = true ∧ ((s.storSt ≠ 3 ∧ s.storSt ≠ 4) ∨ s.dev.stor.formatting = true)) ∧
    (let s : State := tst [(R.STOR_STATE, 4)] (fun d => { d with stor := { formatting := true } }); s.awake = true ∧ s.dev.stor.formatting = true ∧ (s.dev.stor.work.any fun (w : Work) => w.kind = WorkKind.own) = false) ∧
    (let p : Port := .image; let s : State := tst []; s.admits p R.STOR_CTL 4 = true) ∧
    (let s : State := tst [(R.STOR_STATE, 3)] ; s.awake = true ∧ s.storSt ≠ 0 ∧ s.storSt ≠ 6) ∧
    (let s : State := tst [(R.STOR_STATE, 3)] ; s.awake = true ∧ 1 ≤ s.storSt ∧ s.storSt ≤ 5) :=
  ⟨by decide +kernel, by decide +kernel, by decide +kernel, by decide +kernel, by decide +kernel, by decide +kernel,
   by decide +kernel, by decide +kernel, by decide +kernel,
   ⟨by decide +kernel, by decide +kernel, test_superblock, by decide +kernel⟩,
   ⟨by decide +kernel, by decide +kernel, test_superblock, by decide +kernel, by decide +kernel⟩, by decide +kernel,
   by decide +kernel, by decide +kernel, by decide +kernel, by decide +kernel, by decide +kernel, by decide +kernel,
   by decide +kernel, by decide +kernel⟩

/-- The hypotheses of CapturesAreArmedAndTriggered can be met. -/
theorem test_hyps_CapturesAreArmedAndTriggered :
    (let p : Port := .image; let k : Fin 68 := 3; let s : State := tst [(R.CAP_CFG 3, 0x01000000), (R.CAP_POST 3, 7)]; s.admits p (R.CAP_CTL k) (fieldWord (F.CAP_CTL_ARM k) 1) = true ∧ s.armCode k = 0) ∧
    (let p : Port := .image; let k : Fin 68 := 3; let s : State := tst [(R.CAP_CFG 3, 0x01000000), (R.CAP_POST 3, 256)]; s.admits p (R.CAP_CTL k) (fieldWord (F.CAP_CTL_ARM k) 1) = true ∧ s.armCode k ≠ 0) ∧
    (let p : Port := .image; let k : Fin 68 := 3; let s : State := tst [(R.CAP_STATE 3, 1)]; s.admits p (R.CAP_CTL k) (fieldWord (F.CAP_CTL_TRIG k) 1) = true ∧ s.takesTrig k 31 = true) ∧
    (let p : Port := .image; let k : Fin 68 := 3; let s : State := tst []; s.admits p (R.CAP_CTL k) (fieldWord (F.CAP_CTL_TRIG k) 1) = true ∧ s.takesTrig k 31 = false) ∧
    (let p : Port := .image; let k : Fin 68 := 3; let s : State := tst [(R.CAP_STATE 3, 2)] (fun d => { d with cores := [(3, { cap := { seq := 7 } })] }); s.admits p (R.CAP_CTL k) (fieldWord (F.CAP_CTL_DISARM k) 1) = true ∧ s.capSt k ≠ 0 ∧ s.captureQuiet k (s.boundary s.now) = true ∧ (s.channelOf k).all (fun (n : Nat) => s.captureQuiet (s.core (s.leader n)) (s.boundary s.now)) = true) ∧
    (let p : Port := .image; let k : Fin 68 := 3; let s : State := tst []; s.admits p (R.CAP_CTL k) (fieldWord (F.CAP_CTL_DISARM k) 1) = true ∧ s.capSt k = 0 ∧ s.captureQuiet k (s.boundary s.now) = true ∧ (s.channelOf k).all (fun (n : Nat) => s.captureQuiet (s.core (s.leader n)) (s.boundary s.now)) = true) ∧
    (let n : Fin 64 := 3; let g : Trig := { t := 500000, src := 25, lane := 2 }; let s : State := tst [(R.CAP_STATE 3, 1)] (fun d => { d with cores := [(3, { cap := { trigs := [{ t := 500000, src := 25, lane := 2 }] } })] }); s.awake = true ∧ s.channelOf (s.core n) = some n.val ∧ s.ganged n = false ∧ (s.cst (s.core n)).cap.trigs = [g] ∧ ((s.cst (s.core n)).win.toJudge.all fun (r : ResultSet) => decide (s.trigDue g < r.due)) = true ∧ s.capSt (s.core n) = 1 ∧ (s.cst (s.core n)).cap.a * 256 ≤ g.t ∧ (s.cst (s.core n)).cap.n = 0) ∧
    (let n : Fin 64 := 3; let g : Trig := { t := 500000, src := 25, lane := 2 }; let s : State := tst [(R.CAP_STATE 3, 2)] (fun d => { d with cores := [(3, { cap := { trigs := [{ t := 500000, src := 25, lane := 2 }] } })] }); s.awake = true ∧ s.channelOf (s.core n) = some n.val ∧ s.ganged n = false ∧ (s.cst (s.core n)).cap.trigs = [g] ∧ ((s.cst (s.core n)).win.toJudge.all fun (r : ResultSet) => decide (s.trigDue g < r.due)) = true ∧ s.capSt (s.core n) = 2) :=
  by and_intros <;> decide +kernel

/-- The hypotheses of MasksAreCheckedAndJudge can be met. -/
theorem test_hyps_MasksAreCheckedAndJudge :
    (let p : Port := .image; let k : Fin 68 := 3; let i : Fin 4 := 1; let idx : Byte := 7; let s : State := tst [] (fun d => { d with image := { d.image with mask := [(7, [0,0,0,0, 0,0,0,0, 1,0,0,0, 0,0,0,0])] } }); s.admits p (R.MASK_SEL k i) (fieldWord (F.MASK_SEL_EN k i) 1 ||| fieldWord (F.MASK_SEL_IDX k i) idx.toNat) = true ∧ s.flg (F.MASK_SEL_EN k i) = false ∧ maskEntryOk (s.dev.image.mask.get [] idx.toNat) = true) ∧
    (let p : Port := .image; let k : Fin 68 := 3; let i : Fin 4 := 1; let idx : Byte := 7; let s : State := tst [(R.MASK_SEL 3 1, 0x80000006), (R.MASK_STATE 3 1, 2)]; s.admits p (R.MASK_SEL k i) (fieldWord (F.MASK_SEL_EN k i) 1 ||| fieldWord (F.MASK_SEL_IDX k i) idx.toNat) = true ∧ s.flg (F.MASK_SEL_EN k i) = true ∧ idx.toNat ≠ s.fld (F.MASK_SEL_IDX k i) ∧ s.fld (F.MASK_STATE_ST k i) ≠ 0) ∧
    (let k : Fin 68 := 3; let i : Fin 4 := 1; let s : State := tst [(R.MASK_SEL 3 1, 0x80000006)] (fun d => { d with cores := [(3, { masks := [(1, { checking := true })] })] }); s.awake = true ∧ (s.mask k i).checking = true ∧ s.flg (F.MASK_SEL_EN k i) = true ∧ s.fld (F.MASK_NBP_N k i) = 0) ∧
    (let k : Fin 68 := 3; let i : Fin 4 := 1; let s : State := tst [(R.MASK_SEL 3 1, 0x80000006), (R.MASK_NBP 3 1, 2), (R.MASK_ORG_LO 3 1, 55)] (fun d => { d with cores := [(3, { masks := [(1, { checking := true })] })] }); s.awake = true ∧ (s.mask k i).checking = true ∧ s.flg (F.MASK_SEL_EN k i) = true ∧ s.fld (F.MASK_NBP_N k i) ≠ 0 ∧ s.fld (F.MASK_ADDR_OFS k i) % 16 = 0 ∧ s.fld (F.MASK_ADDR_OFS k i) + 16 * s.fld (F.MASK_NBP_N k i) ≤ 0x1000000 ∧ s.bpFault k i 0 (s.fld (F.MASK_NBP_N k i)) = none) ∧
    (let p : Port := .image; let k : Fin 68 := 3; let i : Fin 4 := 1; let origin : BitVec 64 := 0xF00000000000005A; let s : State := tst [(R.MASK_STATE 3 1, 3)] (fun d => { d with cores := [(3, { masks := [(1, { origins := [3, 2], count := 4 })] })] }); s.admits p (R.MASK_ORG_LO k i) (BitVec.ofNat 32 origin.toNat) = true ∧ s.admits p (R.MASK_ORG_HI k i) (BitVec.ofNat 32 (origin.toNat / 2 ^ 32)) = true ∧ s.fld (F.MASK_CFG_ORG k i) = 0) ∧
    (let p : Port := .image; let k : Fin 68 := 3; let i : Fin 4 := 1; let origin : BitVec 64 := 0xF00000000000005A; let s : State := tst [(R.MASK_CFG 3 1, 0x00100000)]; s.admits p (R.MASK_ORG_LO k i) (BitVec.ofNat 32 origin.toNat) = true ∧ s.admits p (R.MASK_ORG_HI k i) (BitVec.ofNat 32 (origin.toNat / 2 ^ 32)) = true ∧ s.fld (F.MASK_CFG_ORG k i) ≠ 0) ∧
    (let n : Fin 64 := 3; let i : Fin 4 := 1; let v : Lane := Lane.mk (some 100) (.at_ 5000) (some 30000000); let j : Lane := Lane.mk (some 100) (.at_ 9000) (some 30000000); let t₀ : Lane := Lane.mk none .early none; let v₂ : Lane := Lane.mk none .early none; let i₂ : Lane := Lane.mk none .early none; let t₂ : Lane := Lane.mk none .early none; let x : Window := Window.mk 1000 300000 600000 1000000000 2500000000 0 32 false true 76000 0 [] none; let xs : List Window := []; let o : Nat := 75900; let m : Nat := 2; let b : Nat := 0; let e : Int := 105; let s : State := tst [(R.MASK_SEL 3 1, 0x80000006), (R.MASK_NBP 3 1, 2), (R.MASK_STATE 3 1, 2), (R.MASK_CFG 3 1, 0x01000000)] (fun d => { d with fes := [(3, { ready := [Window.mk 1000 300000 600000 1000000000 2500000000 0 32 false true 76000 0 [] none] })], cores := [(3, { masks := [(1, { origins := [75900] })] })] }) [(padBase + 8, 100), (padBase + 16, 0), (padBase + 17, 8), (padBase + 24, 202)]; s.awake = true ∧ (s.fe n).ready = x :: xs ∧ s.capSt (s.core n) = 0 ∧ s.flg (F.MASK_SEL_EN (s.core n) i) = true ∧ s.fld (F.MASK_STATE_ST (s.core n) i) = 2 ∧ s.fld (F.MASK_CFG_QTY (s.core n) i) < 2 ∧ (s.mask (s.core n) i).origin x.s = some o ∧ m = s.fld (F.MASK_NBP_N (s.core n) i) ∧ b = s.bpIndex (s.core n) i (x.s - o) m ∧ s.bpFault (s.core n) i 0 (min m (b + 2)) = none ∧ s.bpOff (s.core n) i 0 ≤ x.s - o ∧ (b + 1 ≠ m ∨ s.flg (F.MASK_CFG_TAIL (s.core n) i) = false) ∧ e = (if b + 1 = m then s.bpVal (s.core n) i b else s.bpVal (s.core n) i b + divNear ((s.bpVal (s.core n) i (b + 1) - s.bpVal (s.core n) i b) * (x.s - o - s.bpOff (s.core n) i b : Nat)) (s.bpOff (s.core n) i (b + 1) - s.bpOff (s.core n) i b))) ∧
    (let n : Fin 64 := 3; let v : MaskEval := { i := 1, cfg := 0x01010000, appr := 0, x := 106, e := 105 }; let r : ResultSet := ⟨106, 5, 0, 0, 1000, 0, 3, 300000, 3000, [{ i := 1, cfg := 0x01010000, appr := 0, x := 106, e := 105 }]⟩; let l : List ResultSet := []; let s : State := tst [(R.MASK_SEL 3 1, 0x80000006), (R.MASK_NBP 3 1, 2), (R.MASK_STATE 3 1, 2), (R.MASK_CFG 3 1, 0x01010000)] (fun d => { d with cores := [(3, { masks := [(1, { origins := [100], count := 0 })], win := { toJudge := [⟨106, 5, 0, 0, 1000, 0, 3, 300000, 3000, [{ i := 1, cfg := 0x01010000, appr := 0, x := 106, e := 105 }]⟩] } })] }); s.awake = true ∧ ((s.cst (s.core n)).cap.trigs.all fun (g : Trig) => decide (r.due < s.trigDue g)) = true ∧ (s.cst (s.core n)).win.toJudge = r :: l ∧ r.evals = [v] ∧ v.i < 4 ∧ v.fault = none ∧ v.ended = false ∧ maskOut (v.fld F.MASK_CFG_QTY) r.flags = false ∧ (if v.fld F.MASK_CFG_SENSE = 0 then v.e < v.x else v.x < v.e) ∧ (s.mask (s.core n) v.i).count ≠ v.fld F.MASK_CFG_PERSIST) ∧
    (let n : Fin 64 := 3; let v : MaskEval := { i := 1, cfg := 0x01010000, appr := 0, x := 106, e := 105 }; let r : ResultSet := ⟨106, 5, 0, 0, 1000, 0, 3, 300000, 3000, [{ i := 1, cfg := 0x01010000, appr := 0, x := 106, e := 105 }]⟩; let l : List ResultSet := []; let s : State := tst [(R.MASK_SEL 3 1, 0x80000006), (R.MASK_NBP 3 1, 2), (R.MASK_STATE 3 1, 2), (R.MASK_CFG 3 1, 0x01010000)] (fun d => { d with cores := [(3, { masks := [(1, { origins := [100], count := 1 })], win := { toJudge := [⟨106, 5, 0, 0, 1000, 0, 3, 300000, 3000, [{ i := 1, cfg := 0x01010000, appr := 0, x := 106, e := 105 }]⟩] } })] }); s.awake = true ∧ ((s.cst (s.core n)).cap.trigs.all fun (g : Trig) => decide (r.due < s.trigDue g)) = true ∧ (s.cst (s.core n)).win.toJudge = r :: l ∧ r.evals = [v] ∧ v.i < 4 ∧ v.fault = none ∧ v.ended = false ∧ maskOut (v.fld F.MASK_CFG_QTY) r.flags = false ∧ (if v.fld F.MASK_CFG_SENSE = 0 then v.e < v.x else v.x < v.e) ∧ (s.mask (s.core n) v.i).count = v.fld F.MASK_CFG_PERSIST) ∧
    (let n : Fin 64 := 3; let v : MaskEval := { i := 1, cfg := 0x01000000, appr := 0, x := 105, e := 105 }; let r : ResultSet := ⟨106, 5, 0, 0, 1000, 0, 3, 300000, 3000, [{ i := 1, cfg := 0x01000000, appr := 0, x := 105, e := 105 }]⟩; let l : List ResultSet := []; let s : State := tst [(R.MASK_SEL 3 1, 0x80000006), (R.MASK_NBP 3 1, 2), (R.MASK_STATE 3 1, 2), (R.MASK_CFG 3 1, 0x01000000)] (fun d => { d with cores := [(3, { masks := [(1, { origins := [100], count := 1 })], win := { toJudge := [⟨106, 5, 0, 0, 1000, 0, 3, 300000, 3000, [{ i := 1, cfg := 0x01000000, appr := 0, x := 105, e := 105 }]⟩] } })] }); s.awake = true ∧ ((s.cst (s.core n)).cap.trigs.all fun (g : Trig) => decide (r.due < s.trigDue g)) = true ∧ (s.cst (s.core n)).win.toJudge = r :: l ∧ r.evals = [v] ∧ v.i < 4 ∧ v.fault = none ∧ v.ended = false ∧ maskOut (v.fld F.MASK_CFG_QTY) r.flags = false ∧ ¬((if v.fld F.MASK_CFG_SENSE = 0 then v.e < v.x else v.x < v.e))) ∧
    (let n : Fin 64 := 3; let v : MaskEval := { i := 1, cfg := 0x01000000, appr := 0, x := 0, e := 105, fault := some 12 }; let r : ResultSet := ⟨106, 5, 0, 0, 1000, 0, 3, 300000, 3000, [{ i := 1, cfg := 0x01000000, appr := 0, x := 0, e := 105, fault := some 12 }]⟩; let l : List ResultSet := []; let f : Nat := 12; let s : State := tst [(R.MASK_SEL 3 1, 0x80000006), (R.MASK_NBP 3 1, 2), (R.MASK_STATE 3 1, 2), (R.MASK_CFG 3 1, 0x01000000)] (fun d => { d with cores := [(3, { masks := [(1, { origins := [100], count := 1 })], win := { toJudge := [⟨106, 5, 0, 0, 1000, 0, 3, 300000, 3000, [{ i := 1, cfg := 0x01000000, appr := 0, x := 0, e := 105, fault := some 12 }]⟩] } })] }); s.awake = true ∧ ((s.cst (s.core n)).cap.trigs.all fun (g : Trig) => decide (r.due < s.trigDue g)) = true ∧ (s.cst (s.core n)).win.toJudge = r :: l ∧ r.evals = [v] ∧ v.i < 4 ∧ v.fault = some f ∧ f ≤ 28) ∧
    (let n : Fin 64 := 3; let v : MaskEval := { i := 1, cfg := 0x01000000, appr := 0, x := 0, e := 105, ended := true }; let r : ResultSet := ⟨106, 5, 0, 0, 1000, 0, 3, 300000, 3000, [{ i := 1, cfg := 0x01000000, appr := 0, x := 0, e := 105, ended := true }]⟩; let l : List ResultSet := []; let s : State := tst [(R.MASK_SEL 3 1, 0x80000006), (R.MASK_NBP 3 1, 2), (R.MASK_STATE 3 1, 2), (R.MASK_CFG 3 1, 0x01000000)] (fun d => { d with cores := [(3, { masks := [(1, { origins := [100], count := 1 })], win := { toJudge := [⟨106, 5, 0, 0, 1000, 0, 3, 300000, 3000, [{ i := 1, cfg := 0x01000000, appr := 0, x := 0, e := 105, ended := true }]⟩] } })] }); s.awake = true ∧ ((s.cst (s.core n)).cap.trigs.all fun (g : Trig) => decide (r.due < s.trigDue g)) = true ∧ (s.cst (s.core n)).win.toJudge = r :: l ∧ r.evals = [v] ∧ v.i < 4 ∧ v.fault = none ∧ v.ended = true) ∧
    (let n : Fin 64 := 3; let r : ResultSet := ⟨106, 5, 0, 0, 1000, 0, 3, 300000, 3000, []⟩; let l : List ResultSet := []; let s : State := tst [] (fun d => { d with cores := [(3, { win := { toJudge := [⟨106, 5, 0, 0, 1000, 0, 3, 300000, 3000, []⟩] } })] }); s.awake = true ∧ (s.cst (s.core n)).win.toJudge = r :: l ∧ ((s.cst (s.core n)).cap.trigs.all fun (g : Trig) => decide (r.due < s.trigDue g)) = true ∧ r.evals = []) :=
  by and_intros <;> decide +kernel

/-- The hypotheses of SquallsCalmTheDevice can be met. -/
theorem test_hyps_SquallsCalmTheDevice :
    (let s : State := tst [] (fun d => { d with sql := { d.sql with recv := [(0, 0x00510003)] } }); s.awake = true ∧ (s.dev.sql.joined ≠ [] ∨ s.dev.sql.recv ≠ [])) ∧
    (let c : Fin 64 := 9; let l : List Nat := [4, 12]; let s : State := tst [(R.SYS_SQL_CFG, 0x300)] (fun d => { d with sql := { d.sql with joined := [9, 4, 12], seq := 5 } }); s.awake = true ∧ s.dev.sql.joined = c.val :: l) ∧
    (let p : Port := .image; let k : Fin 68 := 3; let n : Fin 64 := 3; let s : State := tst [] id [(chBlock 3 + 40, 5), (chBlock 3 + 44, 5)]; s.admits p (R.FAIL_CLR k) (fieldWord (F.FAIL_CLR_CLR k) 1) = true ∧ Memory.wf s.losses s.mem = true ∧ s.channelOf k = some n.val ∧ ((s.fe n).fails.any fun x => decide (x.at_ = s.now)) = false) ∧
    (let p : Port := .image; let k : Fin 68 := 67; let s : State := tst []; s.admits p (R.FAIL_CLR k) (fieldWord (F.FAIL_CLR_CLR k) 1) = true ∧ s.channelOf k = none) :=
  by and_intros <;> decide +kernel

/-- The hypotheses of PresentClaimComplete can be met. -/
theorem test_hyps_PresentClaimComplete :
    (let g : Fin 4 := 1; let s : State := tst [(R.IRQ_PEND 2, 0x20), (R.IRQ_SRC 69, 0x02000305), (R.IRQ_MASK 2, 0)]; s.dev.irq.stopped = false ∧ s.best g ≠ 0 ∧ (s.presented g = 0 ∨ s.ranksAbove (s.best g) (s.presented g) = true)) ∧
    (let g : Fin 4 := 1; let s : State := tst []; (s.dev.irq.stopped = true ∨ s.best g = 0 ∨ (s.presented g ≠ 0 ∧ s.ranksAbove (s.best g) (s.presented g) = false))) ∧
    (let p : Port := .mp1; let g : Fin 4 := 1; let q : Nat := 69; let s : State := tst [(R.IRQ_PEND 2, 0x20), (R.IRQ_SRC 69, 0x02000305), (R.IRQ_MASK 2, 0), (R.IRQ_T_RUN 1, 69), (R.IRQ_CNT 17, 0x300)] (fun d => { d with rst := { d.rst with mp := true } }); s.admitsRead p (R.IRQ_T_CLAIM g).addr = true ∧ s.latched (portMaster p) (R.IRQ_T_CLAIM g) = none ∧ s.presented g = q ∧ q ≠ 0 ∧ s.eligible g q = true) ∧
    (let p : Port := .mp1; let g : Fin 4 := 1; let s : State := tst [(R.IRQ_T_RUN 1, 69)] (fun d => { d with rst := { d.rst with mp := true } }); s.admitsRead p (R.IRQ_T_CLAIM g).addr = true ∧ s.latched (portMaster p) (R.IRQ_T_CLAIM g) = none ∧ s.presented g ≠ 0 ∧ s.eligible g (s.presented g) = false) ∧
    (let p : Port := .mp1; let g : Fin 4 := 1; let s : State := tst [] (fun d => { d with rst := { d.rst with mp := true } }); s.admitsRead p (R.IRQ_T_CLAIM g).addr = true ∧ s.latched (portMaster p) (R.IRQ_T_CLAIM g) = none ∧ s.presented g = 0) ∧
    (let p : Port := .mp1; let g : Fin 4 := 1; let w : Word := 69; let q : Nat := 69; let s : State := tst [(R.IRQ_ACTIVE 2, 0x20), (R.IRQ_SRC 69, 0x12000305)] (fun d => { d with rst := { d.rst with mp := true } }); s.admits p (R.IRQ_T_COMPLETE g) w = true ∧ q = fieldGet w 0 9 ∧ q ≠ 0 ∧ q ≤ 255 ∧ s.owns g q = true) ∧
    (let p : Port := .mp1; let g : Fin 4 := 1; let w : Word := 69; let q : Nat := 69; let s : State := tst [] (fun d => { d with rst := { d.rst with mp := true } }); s.admits p (R.IRQ_T_COMPLETE g) w = true ∧ q = fieldGet w 0 9 ∧ q ≠ 0 ∧ q ≤ 255 ∧ s.owns g q = false) :=
  by and_intros <;> decide +kernel

/-- The hypotheses of SourcesBecomePending can be met. -/
theorem test_hyps_SourcesBecomePending :
    (let i : Fin 256 := 69; let s : State := tst [(R.IRQ_COAL 69, 5)] fun d => { d with irq := { d.irq with timer := [69] } }; s.dev.irq.timer.contains i.val = true ∧ s.fld (F.IRQ_COAL_CTIME i) ≠ 0 ∧ s.dev.irq.stopped = false) ∧
    (let p : Port := .image; let i : Fin 8 := 2; let j : Fin 32 := 5; let w : Word := 0x20; let s : State := tst []; s.admitsAt p (setAlias (R.IRQ_PEND i)) w = true ∧ (32 * i.val + j.val) ≠ 0 ∧ sourceLevel (32 * i.val + j.val) = false) ∧
    (let p : Port := .image; let i : Fin 8 := 0; let j : Fin 32 := 0; let w : Word := 1; let s : State := tst []; s.admitsAt p (setAlias (R.IRQ_PEND i)) w = true ∧ ((32 * i.val + j.val) = 0 ∨ sourceLevel (32 * i.val + j.val) = true)) ∧
    (let p : Port := .image; let i : Fin 8 := 2; let j : Fin 32 := 5; let w : Word := 0x20; let hw : Word := 1; let s : State := tst [(R.IRQ_PEND 2, 0x20), (R.IRQ_CNT 17, 0x300)]; s.admitsAt p (clearAlias (R.IRQ_PEND i)) w = true ∧ (32 * i.val + j.val) ≠ 0 ∧ sourceLevel (32 * i.val + j.val) = false ∧ w.toNat.testBit j = true ∧ hw.toNat.testBit j = false) ∧
    (let p : Port := .image; let i : Fin 8 := 2; let j : Fin 32 := 5; let w : Word := 0x20; let hw : Word := 0x20; let s : State := tst [(R.IRQ_PEND 2, 0x20), (R.IRQ_CNT 17, 0x300)]; s.admitsAt p (clearAlias (R.IRQ_PEND i)) w = true ∧ (32 * i.val + j.val) ≠ 0 ∧ sourceLevel (32 * i.val + j.val) = false ∧ (w.toNat.testBit j = false ∨ hw.toNat.testBit j = true)) ∧
    (let p : Port := .image; let i : Fin 256 := 69; let w : Word := 0x02030107; let s : State := tst [(R.IRQ_CNT 17, 0x300)]; s.admits p (R.IRQ_SRC i) w = true) ∧
    (let p : Port := .image; let i : Fin 256 := 69; let w : Word := 7; let s : State := tst []; s.admits p (R.IRQ_COAL i) w = true ∧ fieldGet w 0 21 ≤ 1048576) ∧
    (let p : Port := .image; let s : State := tst []; s.admits p R.IRQ_SWI (fieldWord F.IRQ_SWI_SW253 1) = true) ∧
    (let p : Port := .image; let s : State := tst []; s.admits p R.IRQ_SWI (fieldWord F.IRQ_SWI_SW254 1) = true) ∧
    (let q : Fin 256 := 129; let s : State := tst [] fun d => { d with irq := { d.irq with latch := [129] } }; s.dev.irq.stopped = false ∧ s.dev.irq.latch = [q.val]) :=
  by and_intros <;> decide +kernel

/-- The hypotheses of ErrorsAreCorrectedOrRecorded can be met. -/
theorem test_hyps_ErrorsAreCorrectedOrRecorded :
    (let a : Nat := 0x0100000008; let l : List Nat := []; let s : State := tst [] fun d => { d with bus := { d.bus with writeBack := [0x0100000008], ecc := [(0x0100000008, ⟨4, false⟩)] } }; s.awake = true ∧ s.dev.bus.writeBack = a :: l) ∧
    (let a : BitVec 40 := BitVec.ofNat 40 (ctlBase + 0x24); let copy : Fin 17 := 3; let flips : BitVec 104 := 16; let x : EccErr := ⟨16, false⟩; let s : State := tst [(R.MEM_SCRUB, 5)]; s.awake = true ∧ s.fld F.MEM_SCRUB_PERIOD ≠ 0 ∧ s.scrubbed a.toNat copy = true ∧ x = (s.dev.bus.ecc.get ⟨0, false⟩ (eccKey copy (eccWord a.toNat))).flip (eccKey copy (eccWord a.toNat)) flips.toNat ∧ x.ue = false ∧ x.bits ≠ 0) ∧
    (let a : BitVec 40 := BitVec.ofNat 40 (padBase + 0x24); let copy : Fin 17 := 0; let flips : BitVec 104 := 6; let x : EccErr := ⟨7, true⟩; let s : State := tst [(R.MEM_SCRUB, 5)] fun d => { d with bus := { d.bus with ecc := [(padBase + 0x20, ⟨1, false⟩)] } }; s.awake = true ∧ s.fld F.MEM_SCRUB_PERIOD ≠ 0 ∧ s.scrubbed a.toNat copy = true ∧ x = (s.dev.bus.ecc.get ⟨0, false⟩ (eccKey copy (eccWord a.toNat))).flip (eccKey copy (eccWord a.toNat)) flips.toNat ∧ x.ue = true ∧ (copy.val ≠ 0 ∨ (eccWord a.toNat) < retBase + 0x100 ∨ retBase + 0x1100 ≤ (eccWord a.toNat))) ∧
    (let n : Fin 64 := 3; let o : Fin 8 := 6; let flips : BitVec 104 := 0x10100; let x : EccErr := ⟨0x10100, true⟩; let s : State := tst [(R.MEM_SCRUB, 5)]; s.awake = true ∧ Memory.wf s.losses s.mem = true ∧ s.fld F.MEM_SCRUB_PERIOD ≠ 0 ∧ (o.val < 5 ∨ o.val = 6) ∧ x = (s.dev.bus.ecc.get ⟨0, false⟩ (chBlock n + 8 * o)).flip (chBlock n + 8 * o) flips.toNat ∧ x.ue = true) ∧
    (let n : Fin 64 := 3; let flips : BitVec 104 := 3; let x : EccErr := ⟨3, true⟩; let s : State := tst [(R.MEM_SCRUB, 5)]; s.awake = true ∧ Memory.wf s.losses s.mem = true ∧ s.fld F.MEM_SCRUB_PERIOD ≠ 0 ∧ x = (s.dev.bus.ecc.get ⟨0, false⟩ (chBlock n + 40)).flip (chBlock n + 40) flips.toNat ∧ x.ue = true) ∧
    (let a : BitVec 40 := 0x010000000C; let copy : Fin 17 := 3; let s : State := tst [(R.MEM_SCRUB, 5)]; s.awake = true ∧ s.fld F.MEM_SCRUB_PERIOD ≠ 0 ∧ (s.dev.bus.ecc.any fun (e : Nat × EccErr) => decide (e.1 = (eccKey copy (eccWord a.toNat)))) = false) ∧
    (let a : BitVec 40 := 0x010000000C; let copy : Fin 17 := 3; let s : State := tst [(R.MEM_SCRUB, 5)] fun d => { d with bus := { d.bus with passCE := 70000 } }; s.awake = true ∧ s.fld F.MEM_SCRUB_PERIOD ≠ 0 ∧ (s.dev.bus.ecc.any fun (e : Nat × EccErr) => decide (e.1 = (eccKey copy (eccWord a.toNat)))) = false) ∧
    (let n : Fin 64 := 3; let copy : Fin 17 := 0; let flips : BitVec 104 := 9; let x : EccErr := ⟨9, true⟩; let s : State := tst [] fun d => { d with irq := { d.irq with stopped := true }, rst := { d.rst with hib := 3, por := 0, scrub := (5, 0) } }; s.dev.rst.hib = 3 ∧ s.dev.rst.por = 0 ∧ Memory.wf s.losses s.mem = true ∧ s.dev.rst.scrub.1 ≠ 0 ∧ s.dev.irq.stopped = true ∧ x = (s.dev.bus.ecc.get ⟨0, false⟩ (chBlock n + 48)).flip (chBlock n + 48) flips.toNat ∧ x.ue = true) ∧
    (let m : Fin 16 := 9; let s : State := tst []; s.awake = true) ∧
    (let p : Port := .service; let m : BitVec 16 := 0x12; let s : State := tst [(R.MEM_FRZ, 0x16), (R.MEM_WIN_SIZE 0 0, 0x1000), (R.MEM_WIN_PERM 0 0, 3)] fun d => { d with bus := { d.bus with stalled := [(1, 2)] } }; s.admits p R.MEM_FRZREL (fieldWord F.MEM_FRZREL_M m.toNat) = true) :=
  by and_intros <;> decide +kernel

/-- The hypotheses of TheLinePortFindsItsLink can be met. -/
theorem test_hyps_TheLinePortFindsItsLink :
    (let s : State := tst []; s.awake = true ∧ s.flg F.BOOT_STAT_REC = false ∧ s.fld F.LINE_PHY_MODE = 0 ∧ s.fld F.LINE_PHY_ST = 0) ∧
    (let s : State := tst [(R.LINE_PHY, 0x10)]; s.awake = true ∧ s.flg F.BOOT_STAT_REC = false ∧ (s.fld F.LINE_PHY_MODE ≠ 0 ∨ s.fld F.LINE_PHY_ST ≠ 0)) ∧
    (let s : State := tst [] fun d => { d with line := { d.line with search := 2 } }; s.awake = true ∧ s.flg F.BOOT_STAT_REC = false ∧ s.fld F.LINE_PHY_MODE = 0 ∧ s.fld F.LINE_PHY_ST = 0 ∧ s.dev.line.search < 4) ∧
    (let s : State := tst [(R.LINE_PHY, 2)]; s.awake = true ∧ s.flg F.BOOT_STAT_REC = false ∧ s.fld F.LINE_PHY_MODE ≠ 0 ∧ s.fld F.LINE_PHY_ST = 0) ∧
    (let s : State := tst [(R.LINE_PHY, 0x22)]; s.awake = true ∧ s.flg F.BOOT_STAT_REC = false ∧ s.fld F.LINE_PHY_ST ≠ 0) ∧
    (let s : State := tst [(R.LINE_CNT, 0xFE)]; s.awake = true ∧ s.flg F.BOOT_STAT_REC = false) ∧
    (let mac : BitVec 48 := 0x020304050607; let ip : BitVec 32 := 0xC0A80001; let target : BitVec 32 := 0xC0A80002; let s : State := tst [(R.LINE_IP4, 0xC0A80002), (R.LINE_MAC_LO, 0x33221100), (R.LINE_MAC_HI, 0x5544)] fun d => { d with line := { d.line with unresolved := [(false, 0xC0A80001, [1, 2]), (true, 0xFE800000000000000000000000000001, [3])] } }; s.awake = true ∧ s.flg F.BOOT_STAT_REC = false ∧ s.ip4 = target.toNat ∧ target.toNat ≠ 0) ∧
    (let mac : BitVec 48 := 0x020304050607; let ip : BitVec 32 := 0xC0A80001; let target : BitVec 32 := 0xC0A80003; let s : State := tst [(R.LINE_IP4, 0xC0A80002)]; s.ip4 ≠ target.toNat) ∧
    (let mac : BitVec 48 := 0x020304050607; let ip : BitVec 32 := 0xC0A80001; let s : State := tst [] fun d => { d with line := { d.line with unresolved := [(false, 0xC0A80001, [1, 2]), (true, 0xFE800000000000000000000000000001, [3])] } }; s.awake = true ∧ s.flg F.BOOT_STAT_REC = false) ∧
    (let mac : BitVec 48 := 0x020304050607; let addr : BitVec 128 := 0xFE800000000000000000000000000001; let s : State := tst [] fun d => { d with line := { d.line with unresolved := [(false, 0xC0A80001, [1, 2]), (true, 0xFE800000000000000000000000000001, [3])] } }; s.awake = true ∧ s.flg F.BOOT_STAT_REC = false) ∧
    (let src : BitVec 128 := 0xFE800000000000000000000000000001; let body : List Byte := [1, 2, 3, 4]; let l : Nat := 77; let s : State := tst [(R.LINE_IP6 3, 0xFE800000), (R.LINE_IP6 0, 9)] fun d => { d with line := { d.line with neighbours := [(true, 0xFE800000000000000000000000000001, 77)] } }; s.awake = true ∧ s.flg F.BOOT_STAT_REC = false ∧ s.ip6 ≠ 0 ∧ s.linkAddr true (s.nextHop true src.toNat) = some l) ∧
    (let src : BitVec 128 := 0xFE800000000000000000000000000001; let body : List Byte := [1, 2, 3, 4]; let h : Nat := 0xFE800000000000000000000000000001; let s : State := tst [(R.LINE_IP6 3, 0xFE800000), (R.LINE_IP6 0, 9)]; s.awake = true ∧ s.flg F.BOOT_STAT_REC = false ∧ s.ip6 ≠ 0 ∧ s.nextHop true src.toNat = h ∧ s.linkAddr true h = none) ∧
    (let src : BitVec 128 := 0xC0A80001; let body : List Byte := [1, 2, 3, 4]; let l : Nat := 77; let s : State := tst [(R.LINE_IP4, 0xC0A80002)] fun d => { d with line := { d.line with neighbours := [(false, 0xC0A80001, 77)] } }; s.awake = true ∧ s.flg F.BOOT_STAT_REC = false ∧ s.ip4 ≠ 0 ∧ s.linkAddr false (s.nextHop false src.toNat) = some l) ∧
    (let src : BitVec 128 := 0xFE800000000000000000000000000001; let target : BitVec 128 := 0xFE800000000000000000000000000009; let mac : BitVec 48 := 5; let s : State := tst [(R.LINE_IP6 3, 0xFE800000), (R.LINE_IP6 0, 9)] fun d => { d with line := { d.line with unresolved := [(false, 0xC0A80001, [1, 2]), (true, 0xFE800000000000000000000000000001, [3])] } }; s.awake = true ∧ s.flg F.BOOT_STAT_REC = false ∧ s.ip6 = target.toNat ∧ target.toNat ≠ 0 ∧ src.toNat ≠ 0 ∧ s.nextHop true src.toNat = src.toNat ∧ src.toNat / 2 ^ 120 ≠ 0xFF) ∧
    (let src : BitVec 128 := 0xFE800000000000000000000000000001; let target : BitVec 128 := 0xFE800000000000000000000000000009; let l : Nat := 77; let s : State := tst [(R.LINE_IP6 3, 0xFE800000), (R.LINE_IP6 0, 9)] fun d => { d with line := { d.line with neighbours := [(true, 0xFE800000000000000000000000000001, 77)] } }; s.awake = true ∧ s.flg F.BOOT_STAT_REC = false ∧ s.ip6 = target.toNat ∧ target.toNat ≠ 0 ∧ src.toNat ≠ 0 ∧ s.linkAddr true (s.nextHop true src.toNat) = some l) ∧
    (let target : BitVec 128 := 0xFE800000000000000000000000000009; let mac : Option (BitVec 48) := none; let s : State := tst [(R.LINE_IP6 3, 0xFE800000), (R.LINE_IP6 0, 9)]; s.awake = true ∧ s.flg F.BOOT_STAT_REC = false ∧ s.ip6 = target.toNat ∧ target.toNat ≠ 0) ∧
    (let svc : Bool := false; let b : List Byte := []; let s : State := tst []; s.hlpOn svc = true ∧ s.badMessage b = true) ∧
    (let s : State := tst []; s.awake = true) :=
  by and_intros <;> decide +kernel

/-- The hypotheses of RequestsOfASupervisorAreExecuted can be met. -/
theorem test_hyps_RequestsOfASupervisorAreExecuted :
    (let svc : Bool := false; let src : Source := ⟨false, 0xC0A80001, 5000⟩; let m : HlpMsg := ⟨2, 7, []⟩; let x : Session := ⟨⟨false, 0xC0A80001, 5000⟩, 7, 1000, 4, true, true, 0, [], [], [], 0, []⟩; let s : State := tst [(R.MEM_WIN_SIZE 1 0, 0x2000), (R.MEM_WIN_PERM 1 0, 3), (R.MEM_WIN_BASE 1 1, 0x300000), (R.MEM_WIN_SIZE 1 1, 0x1000), (R.MEM_WIN_PERM 1 1, 3)] (fun d => { d with line := { d.line with sessions := [(2, ⟨⟨false, 0xC0A80001, 5000⟩, 7, 1000, 4, true, true, 0, [], [], [], 0, []⟩)] } }) []; s.takesRequest svc src m x = true ∧ m.payload = []) ∧
    (let svc : Bool := false; let src : Source := ⟨false, 0xC0A80001, 5000⟩; let m : HlpMsg := ⟨2, 7, [1]⟩; let x : Session := ⟨⟨false, 0xC0A80001, 5000⟩, 7, 1000, 4, true, true, 0, [], [], [], 0, []⟩; let s : State := tst [(R.MEM_WIN_SIZE 1 0, 0x2000), (R.MEM_WIN_PERM 1 0, 3), (R.MEM_WIN_BASE 1 1, 0x300000), (R.MEM_WIN_SIZE 1 1, 0x1000), (R.MEM_WIN_PERM 1 1, 3)] (fun d => { d with line := { d.line with sessions := [(2, ⟨⟨false, 0xC0A80001, 5000⟩, 7, 1000, 4, true, true, 0, [], [], [], 0, []⟩)] } }) []; s.takesRequest svc src m x = true ∧ m.payload.length ≠ 12) ∧
    (let svc : Bool := false; let src : Source := ⟨false, 0xC0A80001, 5000⟩; let m : HlpMsg := ⟨2, 7, [0x00, 0x01, 0x00, 0x00, 0x03, 0x00, 0x00, 0x00, 2, 0, 0, 0]⟩; let x : Session := ⟨⟨false, 0xC0A80001, 5000⟩, 7, 1000, 4, true, true, 0, [], [], [], 0, []⟩; let a : Nat := padBase + 256; let n : Nat := 2; let s : State := tst [(R.MEM_WIN_SIZE 1 0, 0x2000), (R.MEM_WIN_PERM 1 0, 3), (R.MEM_WIN_BASE 1 1, 0x300000), (R.MEM_WIN_SIZE 1 1, 0x1000), (R.MEM_WIN_PERM 1 1, 3)] (fun d => { d with line := { d.line with sessions := [(2, ⟨⟨false, 0xC0A80001, 5000⟩, 7, 1000, 4, true, true, 0, [], [], [], 0, []⟩)] } }) [(padBase + 256, 1), (padBase + 260, 5), (padBase + 263, 6)]; s.takesRequest svc src m x = true ∧ m.payload.length = 12 ∧ padBase ≤ a ∧ a + 4 * n ≤ padBase + 0x1000000 ∧ a % 4 = 0 ∧ a = m.num 0 8 ∧ n = m.num 8 2 ∧ m.num 10 2 = 0 ∧ n ≤ 356 ∧ (s.dev.bus.ecc.filter fun (e : Nat × EccErr) => decide (e.1 < a + 4 * n) && decide (a < e.1 + 8)) = [] ∧ (∀ j < n, s.admitsRead (hlpPort svc) (a + 4 * j) = true)) ∧
    (let svc : Bool := true; let src : Source := ⟨false, 0xC0A80001, 5000⟩; let m : HlpMsg := ⟨0, 7, [0x00, 0x01, 0x00, 0x00, 0x03, 0x00, 0x00, 0x00, 2, 0, 0, 0]⟩; let x : Session := ⟨⟨false, 0xC0A80001, 5000⟩, 7, 1000, 4, true, true, 0, [], [], [], 0, []⟩; let a : Nat := padBase + 256; let n : Nat := 2; let s : State := tst [(R.MEM_WIN_SIZE 0 0, 0x2000), (R.MEM_WIN_PERM 0 0, 3), (R.MEM_WIN_BASE 0 1, 0x300000), (R.MEM_WIN_SIZE 0 1, 0x1000), (R.MEM_WIN_PERM 0 1, 3), (R.MEM_WIN_BASE 0 2, 0x2000), (R.MEM_WIN_SIZE 0 2, 0x2000), (R.MEM_WIN_PERM 0 2, 3)] (fun d => { d with line := { d.line with sessions := [(8, ⟨⟨false, 0xC0A80001, 5000⟩, 7, 1000, 4, true, true, 0, [], [], [], 0, []⟩)] }, bus := { d.bus with ecc := [(padBase + 256, ⟨3, true⟩)] } }) []; s.takesRequest svc src m x = true ∧ m.payload.length = 12 ∧ padBase ≤ a ∧ a + 4 * n ≤ padBase + 0x1000000 ∧ a % 4 = 0 ∧ a = m.num 0 8 ∧ n = m.num 8 2 ∧ m.num 10 2 = 0 ∧ n ≤ 356 ∧ 1 ≤ n ∧ s.admitsRead (hlpPort svc) a = true ∧ s.badWord a 4 = true) ∧
    (let svc : Bool := false; let src : Source := ⟨false, 0xC0A80001, 5000⟩; let m : HlpMsg := ⟨2, 7, [0x00, 0x01, 0x00, 0x00, 0x03, 0x00, 0x00, 0x00, 2, 0, 0, 0, 1, 2, 3, 4, 5, 6, 7, 8]⟩; let x : Session := ⟨⟨false, 0xC0A80001, 5000⟩, 7, 1000, 4, true, true, 0, [], [], [], 0, []⟩; let a : Nat := padBase + 256; let n : Nat := 2; let s : State := tst [(R.MEM_WIN_SIZE 1 0, 0x2000), (R.MEM_WIN_PERM 1 0, 3), (R.MEM_WIN_BASE 1 1, 0x300000), (R.MEM_WIN_SIZE 1 1, 0x1000), (R.MEM_WIN_PERM 1 1, 3)] (fun d => { d with line := { d.line with sessions := [(2, ⟨⟨false, 0xC0A80001, 5000⟩, 7, 1000, 4, true, true, 0, [], [], [], 0, []⟩)] } }) []; s.takesRequest svc src m x = true ∧ m.payload.length = 12 + 4 * n ∧ padBase ≤ a ∧ a + 4 * n ≤ padBase + 0x1000000 ∧ a % 4 = 0 ∧ a = m.num 0 8 ∧ n = m.num 8 2 ∧ m.num 10 2 = 0 ∧ n ≤ 353 ∧ Memory.wf s.losses s.mem = true ∧ (s.dev.bus.ecc.filter fun (e : Nat × EccErr) => decide (e.1 < a + 4 * n) && decide (a < e.1 + 8)) = [] ∧ (∀ j < n, s.admitsAt (hlpPort svc) (a + 4 * j) ((wordsOf (m.payload.drop 12)).getD j 0) = true)) ∧
    (let svc : Bool := false; let src : Source := ⟨false, 0xC0A80001, 5000⟩; let m : HlpMsg := ⟨2, 7, [0x00, 0x01, 0x00, 0x00, 0x03, 0x00, 0x00, 0x00, 2, 0, 0, 0, 1, 2, 3, 4, 5, 6, 7, 8]⟩; let x : Session := ⟨⟨false, 0xC0A80001, 5000⟩, 7, 1000, 4, true, true, 0, [], [], [], 0, []⟩; let a : Nat := padBase + 256; let n : Nat := 2; let rs : List (Fin 8) := [2]; let w : Nat := 2; let l : Nat := 4; let ls : List Nat := []; let s : State := tst [(R.MEM_WIN_SIZE 1 0, 0x2000), (R.MEM_WIN_PERM 1 0, 3), (R.MEM_WIN_BASE 1 1, 0x300000), (R.MEM_WIN_SIZE 1 1, 0x1000), (R.MEM_WIN_PERM 1 1, 3)] (fun d => { d with line := { d.line with sessions := [(2, ⟨⟨false, 0xC0A80001, 5000⟩, 7, 1000, 4, true, true, 0, [], [], [], 0, []⟩)] } }) []; s.takesRequest svc src m x = true ∧ m.payload.length = 12 + 4 * n ∧ padBase ≤ a ∧ a + 4 * n ≤ padBase + 0x1000000 ∧ a % 4 = 0 ∧ a = m.num 0 8 ∧ n = m.num 8 2 ∧ m.num 10 2 = 0 ∧ n ≤ 353 ∧ 1 ≤ n ∧ s.writers (portMaster (hlpPort svc)) rs = w :: l :: ls ∧ w ≠ portMaster (hlpPort svc)) ∧
    (let svc : Bool := true; let src : Source := ⟨false, 0xC0A80001, 5000⟩; let m : HlpMsg := ⟨0, 7, [3, 5, 0, 0, 2, 0, 0, 0]⟩; let x : Session := ⟨⟨false, 0xC0A80001, 5000⟩, 7, 1000, 4, true, true, 0, [], [], [], 0, []⟩; let k : Fin 68 := 3; let n : Fin 64 := 3; let s : State := tst [(R.MEM_WIN_SIZE 0 0, 0x2000), (R.MEM_WIN_PERM 0 0, 3), (R.MEM_WIN_BASE 0 1, 0x300000), (R.MEM_WIN_SIZE 0 1, 0x1000), (R.MEM_WIN_PERM 0 1, 3), (R.MEM_WIN_BASE 0 2, 0x2000), (R.MEM_WIN_SIZE 0 2, 0x2000), (R.MEM_WIN_PERM 0 2, 3)] (fun d => { d with line := { d.line with sessions := [(8, ⟨⟨false, 0xC0A80001, 5000⟩, 7, 1000, 4, true, true, 0, [], [], [], 0, []⟩)] } }) []; s.takesRequest svc src m x = true ∧ m.payload.length = 8 ∧ m.num 0 1 = n.val ∧ m.num 2 2 = 0 ∧ s.core n = k.val ∧ s.channelOf k = some n.val ∧ s.leader n = n.val ∧ s.admitsAt (hlpPort svc) (chWindow n + 4) (BitVec.ofNat 32 (m.num 4 4)) = true ∧ s.admitsAt (hlpPort svc) (chWindow n) (BitVec.ofNat 32 (m.num 1 1)) = true ∧ m.num 1 1 = 5 ∧ m.num 4 4 ≤ 3) ∧
    (let svc : Bool := true; let src : Source := ⟨false, 0xC0A80001, 5000⟩; let m : HlpMsg := ⟨0, 7, [3, 9, 0, 0, 2, 0, 0, 0]⟩; let x : Session := ⟨⟨false, 0xC0A80001, 5000⟩, 7, 1000, 4, true, true, 0, [], [], [], 0, []⟩; let k : Fin 68 := 3; let n : Fin 64 := 3; let s : State := tst [(R.MEM_WIN_SIZE 0 0, 0x2000), (R.MEM_WIN_PERM 0 0, 3), (R.MEM_WIN_BASE 0 1, 0x300000), (R.MEM_WIN_SIZE 0 1, 0x1000), (R.MEM_WIN_PERM 0 1, 3), (R.MEM_WIN_BASE 0 2, 0x2000), (R.MEM_WIN_SIZE 0 2, 0x2000), (R.MEM_WIN_PERM 0 2, 3)] (fun d => { d with line := { d.line with sessions := [(8, ⟨⟨false, 0xC0A80001, 5000⟩, 7, 1000, 4, true, true, 0, [], [], [], 0, []⟩)] } }) []; s.takesRequest svc src m x = true ∧ m.payload.length = 8 ∧ m.num 0 1 = n.val ∧ m.num 2 2 = 0 ∧ s.core n = k.val ∧ s.channelOf k = some n.val ∧ s.leader n = n.val ∧ s.admitsAt (hlpPort svc) (chWindow n + 4) (BitVec.ofNat 32 (m.num 4 4)) = true ∧ s.admitsAt (hlpPort svc) (chWindow n) (BitVec.ofNat 32 (m.num 1 1)) = true ∧ 6 ≤ m.num 1 1 ∧ m.num 1 1 < 16 ∧ m.num 4 4 < 2 ^ 21) ∧
    (let svc : Bool := false; let src : Source := ⟨false, 0xC0A80001, 5000⟩; let m : HlpMsg := ⟨2, 7, []⟩; let x : Session := ⟨⟨false, 0xC0A80001, 5000⟩, 7, 1000, 4, true, true, 0, [], [], [], 0, []⟩; let q : Nat := 69; let s : State := tst [(R.MEM_WIN_SIZE 1 0, 0x2000), (R.MEM_WIN_PERM 1 0, 3), (R.MEM_WIN_BASE 1 1, 0x300000), (R.MEM_WIN_SIZE 1 1, 0x1000), (R.MEM_WIN_PERM 1 1, 3), (R.IRQ_PEND 2, 0x20), (R.IRQ_SRC 69, 0x04000305), (R.IRQ_MASK 2, 0), (R.IRQ_T_RUN 2, 69), (R.IRQ_CNT 17, 0x300)] (fun d => { d with line := { d.line with sessions := [(2, ⟨⟨false, 0xC0A80001, 5000⟩, 7, 1000, 4, true, true, 0, [], [], [], 0, []⟩)] } }) []; s.takesRequest svc src m x = true ∧ m.payload = [] ∧ s.admitsRead (hlpPort svc) (R.IRQ_T_CLAIM (hlpTarget svc)).addr = true ∧ s.latched (portMaster (hlpPort svc)) (R.IRQ_T_CLAIM (hlpTarget svc)) = none ∧ s.presented (hlpTarget svc) = q ∧ q ≠ 0 ∧ s.eligible (hlpTarget svc) q = true) ∧
    (let svc : Bool := false; let src : Source := ⟨false, 0xC0A80001, 5000⟩; let m : HlpMsg := ⟨2, 7, [69, 0]⟩; let x : Session := ⟨⟨false, 0xC0A80001, 5000⟩, 7, 1000, 4, true, true, 0, [], [], [], 0, []⟩; let q : Nat := 69; let s : State := tst [(R.MEM_WIN_SIZE 1 0, 0x2000), (R.MEM_WIN_PERM 1 0, 3), (R.MEM_WIN_BASE 1 1, 0x300000), (R.MEM_WIN_SIZE 1 1, 0x1000), (R.MEM_WIN_PERM 1 1, 3), (R.IRQ_ACTIVE 2, 0x20), (R.IRQ_SRC 69, 0x23000305)] (fun d => { d with line := { d.line with sessions := [(2, ⟨⟨false, 0xC0A80001, 5000⟩, 7, 1000, 4, true, true, 0, [], [], [], 0, []⟩)] } }) []; s.takesRequest svc src m x = true ∧ m.payload.length = 2 ∧ q = m.num 0 2 ∧ q ≠ 0 ∧ q ≤ 255 ∧ s.owns (hlpTarget svc) q = true ∧ s.admits (hlpPort svc) (R.IRQ_T_COMPLETE (hlpTarget svc)) (BitVec.ofNat 32 q) = true) ∧
    (let svc : Bool := true; let src : Source := ⟨false, 0xC0A80001, 5000⟩; let m : HlpMsg := ⟨0, 7, [0]⟩; let x : Session := ⟨⟨false, 0xC0A80001, 5000⟩, 7, 1000, 4, true, true, 0, [], [], [], 0, []⟩; let s : State := tst [(R.MEM_WIN_SIZE 0 0, 0x2000), (R.MEM_WIN_PERM 0 0, 3), (R.MEM_WIN_BASE 0 1, 0x300000), (R.MEM_WIN_SIZE 0 1, 0x1000), (R.MEM_WIN_PERM 0 1, 3), (R.MEM_WIN_BASE 0 2, 0x2000), (R.MEM_WIN_SIZE 0 2, 0x2000), (R.MEM_WIN_PERM 0 2, 3)] (fun d => { d with line := { d.line with sessions := [(8, ⟨⟨false, 0xC0A80001, 5000⟩, 7, 1000, 4, true, true, 0, [], [], [], 0, []⟩)] } }) []; s.takesRequest svc src m x = true ∧ m.payload = [0]) ∧
    (let svc : Bool := true; let src : Source := ⟨false, 0xC0A80001, 5000⟩; let m : HlpMsg := ⟨0, 7, [0]⟩; let x : Session := ⟨⟨false, 0xC0A80001, 5000⟩, 7, 1000, 4, true, true, 0, [], [], [], 0, []⟩; let typ : Byte := 0x31; let s : State := tst [(R.MEM_WIN_SIZE 0 0, 0x2000), (R.MEM_WIN_PERM 0 0, 3), (R.MEM_WIN_BASE 0 1, 0x300000), (R.MEM_WIN_SIZE 0 1, 0x1000), (R.MEM_WIN_PERM 0 1, 3), (R.MEM_WIN_BASE 0 2, 0x2000), (R.MEM_WIN_SIZE 0 2, 0x2000), (R.MEM_WIN_PERM 0 2, 3)] (fun d => { d with line := { d.line with sessions := [(8, ⟨⟨false, 0xC0A80001, 5000⟩, 7, 1000, 4, true, true, 0, [], [], [], 0, []⟩)] } }) []; s.takesRequest svc src m x = true ∧ (typ.toNat = 0 ∨ 8 < typ.toNat)) :=
  by and_intros <;> decide +kernel

/-- The hypotheses of SessionsKeepTheOrderOfRequests can be met. -/
theorem test_hyps_SessionsKeepTheOrderOfRequests :
    (let src : Source := ⟨false, 0xC0A80001, 5000⟩; let m : HlpMsg := ⟨0, 99, [0xE8, 3, 0, 0, 2, 1, 0, 0, 0xA0, 0x0F, 0, 0]⟩; let i : Nat := 1; let s : State := tst [] fun d => { d with line := { d.line with sessions := [(0, ⟨⟨false, 5, 5⟩, 7, 1000, 4, true, true, 0, [], [], [], 0, []⟩)] } }; s.hlpOn false = true ∧ s.frozen (portMaster (hlpPort false)) = false ∧ m.payload.length = 12 ∧ 1 ≤ m.num 4 1 ∧ m.num 4 1 ≤ 8 ∧ m.num 5 1 < 4 ∧ m.num 6 2 = 0 ∧ (m.num 8 4 = 0 ∨ 2 * m.num 4 1 * m.num 0 4 ≤ m.num 8 4) ∧ (s.dev.line.sessions.all fun e => !(decide (e.1 < 8) && decide (e.2.src.v6 = src.v6) && decide (e.2.src.addr = src.addr))) = true ∧ s.freeSession = some i) ∧
    (let src : Source := ⟨false, 0xC0A80001, 5000⟩; let m : HlpMsg := ⟨0, 99, [0xE8, 3, 0, 0, 2, 1, 0, 0, 0xA0, 0x0F, 0, 0]⟩; let s : State := tst []; s.hlpOn true = true ∧ s.frozen (portMaster (hlpPort true)) = false ∧ m.payload.length = 12 ∧ 1 ≤ m.num 4 1 ∧ m.num 4 1 ≤ 8 ∧ m.num 5 1 < 4 ∧ m.num 6 2 = 0 ∧ (m.num 8 4 = 0 ∨ 2 * m.num 4 1 * m.num 0 4 ≤ m.num 8 4)) ∧
    (let svc : Bool := false; let src : Source := ⟨false, 0xC0A80001, 5000⟩; let m : HlpMsg := ⟨0, 99, [0xE8, 3, 0, 0, 2, 1, 0, 0, 0x9F, 0x0F, 0, 0]⟩; let s : State := tst []; s.hlpOn svc = true ∧ s.frozen (portMaster (hlpPort svc)) = false ∧ (m.payload.length ≠ 12 ∨ m.num 4 1 = 0 ∨ 8 < m.num 4 1 ∨ (m.num 8 4 ≠ 0 ∧ m.num 8 4 < 2 * m.num 4 1 * m.num 0 4))) ∧
    (let svc : Bool := true; let src : Source := ⟨false, 0xC0A80001, 5000⟩; let m : HlpMsg := ⟨0, 9, []⟩; let x : Session := ⟨⟨false, 0xC0A80001, 5000⟩, 7, 1000, 4, true, true, 50, [], [⟨6, 3, 0, [1]⟩], [4], 0, []⟩; let s : State := tst [] (fun d => { d with line := { d.line with sessions := [(8, ⟨⟨false, 0xC0A80001, 5000⟩, 7, 1000, 4, true, true, 50, [], [⟨6, 3, 0, [1]⟩], [4], 0, []⟩)] } }); s.hlpOn svc = true ∧ s.session (hlpIndex svc m) = some x ∧ (svc = true ∨ (m.sess.toNat < 8 ∧ x.src.v6 = src.v6 ∧ x.src.addr = src.addr)) ∧ s.frozen (portMaster (hlpPort svc)) = false ∧ x.next < 2 ^ 32 ∧ (x.cache.all fun c => decide (c.seq ≠ m.seq.toNat)) = true ∧ x.expired.contains m.seq.toNat = false ∧ 0 < (m.seq.toNat + 2 ^ 32 - x.next) % 2 ^ 32 ∧ (m.seq.toNat + 2 ^ 32 - x.next) % 2 ^ 32 < 64 ∧ (x.held.any fun h => decide (h.seq = m.seq.toNat)) = false) ∧
    (let svc : Bool := true; let src : Source := ⟨false, 0xC0A80001, 5000⟩; let m : HlpMsg := ⟨0, 71, []⟩; let x : Session := ⟨⟨false, 0xC0A80001, 5000⟩, 7, 1000, 4, true, true, 50, [], [⟨6, 3, 0, [1]⟩], [4], 0, []⟩; let s : State := tst [] (fun d => { d with line := { d.line with sessions := [(8, ⟨⟨false, 0xC0A80001, 5000⟩, 7, 1000, 4, true, true, 50, [], [⟨6, 3, 0, [1]⟩], [4], 0, []⟩)] } }); s.hlpOn svc = true ∧ s.session (hlpIndex svc m) = some x ∧ (svc = true ∨ (m.sess.toNat < 8 ∧ x.src.v6 = src.v6 ∧ x.src.addr = src.addr)) ∧ s.frozen (portMaster (hlpPort svc)) = false ∧ x.next < 2 ^ 32 ∧ (x.cache.all fun c => decide (c.seq ≠ m.seq.toNat)) = true ∧ x.expired.contains m.seq.toNat = false ∧ 64 ≤ (m.seq.toNat + 2 ^ 32 - x.next) % 2 ^ 32 ∧ (m.seq.toNat + 2 ^ 32 - x.next) % 2 ^ 32 < 2 ^ 31) ∧
    (let svc : Bool := true; let src : Source := ⟨false, 0xC0A80001, 5000⟩; let m : HlpMsg := ⟨0, 6, []⟩; let x : Session := ⟨⟨false, 0xC0A80001, 5000⟩, 7, 1000, 4, true, true, 50, [], [⟨6, 3, 0, [1]⟩], [4], 0, []⟩; let c : Cached := ⟨6, 3, 0, [1]⟩; let s : State := tst [] (fun d => { d with line := { d.line with sessions := [(8, ⟨⟨false, 0xC0A80001, 5000⟩, 7, 1000, 4, true, true, 50, [], [⟨6, 3, 0, [1]⟩], [4], 0, []⟩)] } }); s.hlpOn svc = true ∧ s.session (hlpIndex svc m) = some x ∧ (svc = true ∨ (m.sess.toNat < 8 ∧ x.src.v6 = src.v6 ∧ x.src.addr = src.addr)) ∧ s.frozen (portMaster (hlpPort svc)) = false ∧ x.next < 2 ^ 32 ∧ (x.cache.find? fun c => decide (c.seq = m.seq.toNat)) = some c) ∧
    (let src : Source := ⟨false, 0xC0A80001, 5000⟩; let m : HlpMsg := ⟨0, 5, []⟩; let s : State := tst []; s.hlpOn true = true ∧ s.session (hlpIndex true m) = none ∧ s.frozen 3 = false) ∧
    (let svc : Bool := true; let i : Fin 8 := 0; let k : Nat := 8; let h : Held := ⟨8, 3, [], true⟩; let x : Session := ⟨⟨false, 0xC0A80001, 5000⟩, 7, 1000, 4, true, true, 50, [⟨8, 3, [], true⟩], [], [], 0, []⟩; let s : State := tst [] (fun d => { d with line := { d.line with sessions := [(8, ⟨⟨false, 0xC0A80001, 5000⟩, 7, 1000, 4, true, true, 50, [⟨8, 3, [], true⟩], [], [], 0, []⟩)] } }); s.hlpOn svc = true ∧ k = (if svc then 8 else i.val) ∧ s.session k = some x ∧ x.cto ≠ 0 ∧ x.next < 2 ^ 32 ∧ x.held = [h] ∧ h.answered = true ∧ h.seq = (x.next + 1) % 2 ^ 32) :=
  by and_intros <;> decide +kernel

/-- The hypotheses of TheDeviceMakesRequests can be met. -/
theorem test_hyps_TheDeviceMakesRequests :
    (let svc : Bool := false; let i : Nat := 2; let x : Session := ⟨⟨false, 0xC0A80001, 5000⟩, 7, 1000, 4, true, true, 50, [], [], [], 6, []⟩; let s : State := tst [(R.IRQ_T_RUN 2, 69)] (fun d => { d with line := { d.line with sessions := [(2, ⟨⟨false, 0xC0A80001, 5000⟩, 7, 1000, 4, true, true, 50, [], [], [], 6, []⟩)] } }); s.hlpOn svc = true ∧ s.lowest svc (fun y => y.note) = some (i, x) ∧ s.presented (hlpTarget svc) ≠ 0 ∧ (s.dev.irq.noticed.contains (hlpTarget svc)) = false ∧ (s.dev.line.sessions.any fun e => decide ((decide (e.1 = 8)) = svc) && e.2.out.any fun q => decide (q.typ = 0x10)) = false ∧ x.out.length < 64) ∧
    (let svc : Bool := true; let s : State := tst []; s.hlpOn svc = true ∧ (s.presented (hlpTarget svc) = 0 ∨ s.lowest svc (fun y => y.note) = none)) ∧
    (let r : Fin 4096 := 100; let i : Nat := 2; let n : Nat := 2; let x : Session := ⟨⟨false, 0xC0A80001, 5000⟩, 7, 1000, 4, true, true, 50, [], [], [], 6, []⟩; let s : State := tst [] (fun d => { d with line := { d.line with sessions := [(2, ⟨⟨false, 0xC0A80001, 5000⟩, 7, 1000, 4, true, true, 50, [], [], [], 6, []⟩)] }, rings := [(100, { on := true, base := 0x1000, k := 4, esz := 2, sink := 2, pi := 3, taken := 1, ci := 1, typ := 9 })] }); s.hlpOn true = true ∧ s.recSession = some (i, x) ∧ x.out.length < 64 ∧ s.recRing r = true ∧ (s.ring r).stopping = false ∧ (s.ring r).esz ≠ 4 ∧ (s.ring r).again = [] ∧ (s.dev.line.recs.any fun c => decide (c.ring = r.val) && decide (c.st = 2)) = false ∧ n = min (recEntries (s.ring r).esz) (idxSub (s.ring r).pi (s.ring r).taken) ∧ n ≠ 0) ∧
    (let svc : Bool := false; let i : Fin 8 := 2; let k : Nat := 2; let seq : BitVec 32 := 5; let x : Session := ⟨⟨false, 0xC0A80001, 5000⟩, 7, 1000, 4, true, true, 50, [], [], [], 6, [⟨5, 0x10, [1], 1, 100, 0, 0⟩]⟩; let q : DevReq := ⟨5, 0x10, [1], 1, 100, 0, 0⟩; let status : BitVec 16 := 0; let s : State := tst [] (fun d => { d with line := { d.line with sessions := [(2, ⟨⟨false, 0xC0A80001, 5000⟩, 7, 1000, 4, true, true, 50, [], [], [], 6, [⟨5, 0x10, [1], 1, 100, 0, 0⟩]⟩)] } }); s.hlpOn svc = true ∧ k = (if svc then 8 else i.val) ∧ s.devReq k seq.toNat = some (x, q) ∧ q.typ = 0x10) ∧
    (let svc : Bool := false; let i : Fin 8 := 2; let k : Nat := 2; let seq : BitVec 32 := 5; let x : Session := ⟨⟨false, 0xC0A80001, 5000⟩, 7, 1000, 4, true, true, 50, [], [], [], 6, [⟨5, 0x11, [1], 1, 100, 0, 0⟩]⟩; let q : DevReq := ⟨5, 0x11, [1], 1, 100, 0, 0⟩; let status : BitVec 16 := 0; let s : State := tst [] (fun d => { d with line := { d.line with sessions := [(2, ⟨⟨false, 0xC0A80001, 5000⟩, 7, 1000, 4, true, true, 50, [], [], [], 6, [⟨5, 0x11, [1], 1, 100, 0, 0⟩]⟩)] } }); s.hlpOn svc = true ∧ k = (if svc then 8 else i.val) ∧ s.devReq k seq.toNat = some (x, q) ∧ q.typ ≠ 0x10) ∧
    (let svc : Bool := true; let i : Fin 8 := 2; let seq : BitVec 32 := 5; let status : BitVec 16 := 0; let s : State := tst []; s.hlpOn svc = true ∧ s.devReq (if svc then 8 else i.val) seq.toNat = none) ∧
    (let svc : Bool := false; let i : Fin 8 := 2; let k : Nat := 2; let seq : BitVec 32 := 5; let x : Session := ⟨⟨false, 0xC0A80001, 5000⟩, 7, 1000, 4, true, true, 50, [], [], [], 6, [⟨5, 0x11, [1], 1, 100, 0, 0⟩]⟩; let q : DevReq := ⟨5, 0x11, [1], 1, 100, 0, 0⟩; let s : State := tst [(R.LINE_HLP, 0x400003E8)] (fun d => { d with line := { d.line with sessions := [(2, ⟨⟨false, 0xC0A80001, 5000⟩, 7, 1000, 4, true, true, 50, [], [], [], 6, [⟨5, 0x11, [1], 1, 100, 0, 0⟩]⟩)] } }); s.hlpOn svc = true ∧ k = (if svc then 8 else i.val) ∧ s.devReq k seq.toNat = some (x, q) ∧ q.tries < s.fld F.LINE_HLP_TRIES) ∧
    (let svc : Bool := false; let i : Fin 8 := 2; let k : Nat := 2; let seq : BitVec 32 := 5; let x : Session := ⟨⟨false, 0xC0A80001, 5000⟩, 7, 1000, 4, true, true, 50, [], [], [], 6, [⟨5, 0x11, [1], 1, 100, 0, 0⟩]⟩; let q : DevReq := ⟨5, 0x11, [1], 1, 100, 0, 0⟩; let s : State := tst [(R.LINE_HLP, 0x100003E8)] (fun d => { d with line := { d.line with sessions := [(2, ⟨⟨false, 0xC0A80001, 5000⟩, 7, 1000, 4, true, true, 50, [], [], [], 6, [⟨5, 0x11, [1], 1, 100, 0, 0⟩]⟩)] } }); s.hlpOn svc = true ∧ k = (if svc then 8 else i.val) ∧ s.devReq k seq.toNat = some (x, q) ∧ s.fld F.LINE_HLP_TRIES ≤ q.tries) ∧
    (let svc : Bool := false; let i : Fin 8 := 2; let k : Nat := 2; let seq : BitVec 32 := 5; let x : Session := ⟨⟨false, 0xC0A80001, 5000⟩, 7, 1000, 4, true, true, 50, [], [], [], 6, [⟨5, 0x10, [1], 1, 100, 0, 0⟩]⟩; let q : DevReq := ⟨5, 0x10, [1], 1, 100, 0, 0⟩; let s : State := tst [(R.LINE_UTMO, 500)] (fun d => { d with line := { d.line with sessions := [(2, ⟨⟨false, 0xC0A80001, 5000⟩, 7, 1000, 4, true, true, 50, [], [], [], 6, [⟨5, 0x10, [1], 1, 100, 0, 0⟩]⟩)] } }); s.hlpOn svc = true ∧ k = (if svc then 8 else i.val) ∧ s.devReq k seq.toNat = some (x, q) ∧ q.typ = 0x10 ∧ s.fld F.LINE_UTMO_UTMO ≠ 0 ∧ s.presented (hlpTarget svc) = 0) ∧
    (let svc : Bool := false; let i : Fin 8 := 2; let k : Nat := 2; let seq : BitVec 32 := 5; let x : Session := ⟨⟨false, 0xC0A80001, 5000⟩, 7, 1000, 4, true, true, 50, [], [], [], 6, [⟨5, 0x10, [1], 1, 100, 0, 0⟩]⟩; let q : DevReq := ⟨5, 0x10, [1], 1, 100, 0, 0⟩; let s : State := tst [(R.LINE_UTMO, 0)] (fun d => { d with line := { d.line with sessions := [(2, ⟨⟨false, 0xC0A80001, 5000⟩, 7, 1000, 4, true, true, 50, [], [], [], 6, [⟨5, 0x10, [1], 1, 100, 0, 0⟩]⟩)] } }); s.hlpOn svc = true ∧ k = (if svc then 8 else i.val) ∧ s.devReq k seq.toNat = some (x, q) ∧ s.fld F.LINE_UTMO_UTMO = 0) :=
  by and_intros <;> decide +kernel

/-- The hypotheses of PeerLinksCarryFrames can be met. -/
theorem test_hyps_PeerLinksCarryFrames :
    (let link : Fin 2 := 1; let up : Bool := true; let s : State := tst []; s.awake = true ∧ s.flg F.BOOT_STAT_REC = false ∧ s.flg (if link.val = 0 then F.PEER_STAT_LINK_E else F.PEER_STAT_LINK_W) = !up) ∧
    (let link : Fin 2 := 1; let up : Bool := false; let s : State := tst []; s.flg (if link.val = 0 then F.PEER_STAT_LINK_E else F.PEER_STAT_LINK_W) = up) ∧
    (let link : Fin 2 := 1; let reserved : Bool := false; let s : State := tst [(R.PEER_CFG, 2)]; s.awake = true ∧ s.linkOn link = true) ∧
    (let link : Fin 2 := 1; let w : Word := 0x00510003; let s : State := tst [(R.PEER_CFG, 2), (R.SYS_SQL_CFG, 0xFFFF)]; s.awake = true ∧ s.linkOn link = true ∧ s.flg (if link.val = 0 then F.SYS_SQL_CFG_RX_E else F.SYS_SQL_CFG_RX_W) = true ∧ (s.dev.sql.seen.contains (w.toNat / 2 ^ 20 % 4096, w.toNat % 1024) || s.dev.sql.recv.any fun r => decide (r.2 / 2 ^ 20 % 4096 = w.toNat / 2 ^ 20 % 4096) && decide (r.2 % 1024 = w.toNat % 1024)) = false) ∧
    (let link : Fin 2 := 1; let w : Word := 0x00510003; let s : State := tst [(R.PEER_CFG, 2), (R.SYS_SQL_CFG, 0xFFFF)] fun d => { d with sql := { d.sql with seen := [(5, 3)] } }; s.awake = true ∧ s.linkOn link = true ∧ s.flg (if link.val = 0 then F.SYS_SQL_CFG_RX_E else F.SYS_SQL_CFG_RX_W) = true ∧ (s.dev.sql.seen.contains (w.toNat / 2 ^ 20 % 4096, w.toNat % 1024) || s.dev.sql.recv.any fun r => decide (r.2 / 2 ^ 20 % 4096 = w.toNat / 2 ^ 20 % 4096) && decide (r.2 % 1024 = w.toNat % 1024)) = true) ∧
    (let link : Fin 2 := 1; let seq : BitVec 16 := 4; let ofs : Word := 0x8010; let data : List Byte := [1, 2, 3]; let s : State := tst [(R.PEER_CFG, 0x12), (R.MEM_WIN_BASE 2 0, 0x500000), (R.MEM_WIN_SIZE 2 0, 0x10), (R.MEM_WIN_PERM 2 0, 3)] fun d => { d with peer := { tx := none, rxNext := 4 } }; s.awake = true ∧ s.linkOn link = true ∧ s.issues .peer = true ∧ s.frozen 5 = false ∧ (seq.toNat = 0 ∨ seq.toNat = s.dev.peer.rxNext) ∧ s.hoffOpen ofs.toNat data.length = true ∧ s.judge .peer (retBase + ofs.toNat) data.length true 0 = .pass ∧ s.dev.bus.ecc = [] ∧ Memory.wf s.losses s.mem = true) ∧
    (let link : Fin 2 := 1; let seq : BitVec 16 := 5; let ofs : Word := 0x8010; let data : List Byte := [1, 2, 3]; let s : State := tst [(R.PEER_CFG, 0x12)] fun d => { d with peer := { tx := none, rxNext := 4 } }; s.awake = true ∧ s.linkOn link = true ∧ s.issues .peer = true ∧ s.frozen 5 = false ∧ seq.toNat ≠ 0 ∧ seq.toNat ≠ s.dev.peer.rxNext ∧ s.hoffOpen ofs.toNat data.length = true) ∧
    (let link : Fin 2 := 1; let seq : BitVec 16 := 4; let ofs : Word := 0x7FF0; let data : List Byte := [1, 2, 3]; let s : State := tst [(R.PEER_CFG, 0x12)] fun d => { d with peer := { tx := none, rxNext := 4 } }; s.awake = true ∧ s.linkOn link = true ∧ s.issues .peer = true ∧ s.frozen 5 = false ∧ s.hoffOpen ofs.toNat data.length = false) ∧
    (let link : Fin 2 := 1; let x : HoffTx := ⟨1, 0x8000, 700, 3, 0, 1⟩; let seq : BitVec 16 := 2; let s : State := tst [(R.PEER_CFG, 0x12)] (fun d => { d with peer := { tx := some ⟨1, 0x8000, 700, 3, 0, 1⟩, rxNext := 0 } }); s.awake = true ∧ s.linkOn link = true ∧ s.dev.peer.tx = some x ∧ x.link = link.val ∧ x.acked ≤ seq.toNat ∧ seq.toNat < x.sent ∧ seq.toNat + 1 = x.frames) ∧
    (let link : Fin 2 := 1; let x : HoffTx := ⟨1, 0x0000, 0x8000, 16, 0, 3⟩; let seq : BitVec 16 := 2; let s : State := tst [(R.PEER_CFG, 0x12)] (fun d => { d with peer := { tx := some ⟨1, 0x0000, 0x8000, 16, 0, 3⟩, rxNext := 0 } }); s.awake = true ∧ s.linkOn link = true ∧ s.dev.peer.tx = some x ∧ x.link = link.val ∧ x.acked ≤ seq.toNat ∧ seq.toNat < x.sent ∧ seq.toNat + 1 ≠ x.frames) ∧
    (let link : Fin 2 := 1; let x : HoffTx := ⟨1, 0x8000, 700, 3, 0, 1⟩; let seq : BitVec 16 := 2; let code : Byte := 2; let s : State := tst [(R.PEER_CFG, 0x12)] (fun d => { d with peer := { tx := some ⟨1, 0x8000, 700, 3, 0, 1⟩, rxNext := 0 } }); s.awake = true ∧ s.linkOn link = true ∧ s.dev.peer.tx = some x ∧ x.link = link.val ∧ (code.toNat = 1 ∨ code.toNat = 2)) ∧
    (let link : Fin 2 := 1; let seq : BitVec 16 := 2; let code : Byte := 0; let s : State := tst [(R.PEER_CFG, 2)]; s.awake = true ∧ s.linkOn link = true ∧ s.dev.peer.tx = none) ∧
    (let p : Port := .image; let link : Fin 2 := 1; let ofs : BitVec 16 := 0x8000; let s : State := tst [(R.PEER_CFG, 2), (R.PEER_HLEN, 0x6000)]; s.admits p R.PEER_HTX (fieldWord F.PEER_HTX_GO 1 ||| fieldWord F.PEER_HTX_LINK link ||| fieldWord F.PEER_HTX_OFS ofs.toNat) = true ∧ s.dev.peer.tx = none ∧ s.fld F.PEER_HLEN_LEN ≠ 0 ∧ ofs.toNat % 8 = 0 ∧ ofs.toNat + s.fld F.PEER_HLEN_LEN ≤ 0x10000) ∧
    (let p : Port := .image; let link : Fin 2 := 1; let ofs : BitVec 16 := 0x8001; let s : State := tst [(R.PEER_CFG, 2), (R.PEER_HLEN, 0x6000)]; s.admits p R.PEER_HTX (fieldWord F.PEER_HTX_GO 1 ||| fieldWord F.PEER_HTX_LINK link ||| fieldWord F.PEER_HTX_OFS ofs.toNat) = true ∧ s.dev.peer.tx = none ∧ s.fld F.PEER_HLEN_LEN ≠ 0 ∧ ofs.toNat % 8 ≠ 0 ∧ s.fld F.PEER_HTX_OFS + s.fld F.PEER_HLEN_LEN ≤ 0x10000) ∧
    (let p : Port := .image; let link : Fin 2 := 1; let ofs : BitVec 16 := 0x8000; let s : State := tst [(R.PEER_HLEN, 0)]; s.admits p R.PEER_HTX (fieldWord F.PEER_HTX_GO 1 ||| fieldWord F.PEER_HTX_LINK link ||| fieldWord F.PEER_HTX_OFS ofs.toNat) = true ∧ s.dev.peer.tx = none ∧ s.fld F.PEER_HLEN_LEN = 0 ∧ ofs.toNat % 8 = 0) ∧
    (let link : _ := 1; let x : HoffTx := ⟨1, 0x8000, 700, 3, 1, 1⟩; let s : State := tst [(R.PEER_CFG, 0x12)] (fun d => { d with peer := { tx := some ⟨1, 0x8000, 700, 3, 1, 1⟩, rxNext := 0 } }); s.awake = true ∧ s.dev.peer.tx = some x ∧ x.tries < 8 ∧ s.linkOn x.link = true) ∧
    (let link : _ := 1; let x : HoffTx := ⟨1, 0x8000, 700, 3, 1, 1⟩; let s : State := tst [(R.PEER_CFG, 0x12), (R.PEER_HOFF, 5)] (fun d => { d with peer := { tx := some ⟨1, 0x8000, 700, 3, 1, 1⟩, rxNext := 0 } }); s.awake = true ∧ s.dev.peer.tx = some x ∧ s.fld F.PEER_HOFF_TMO ≠ 0) :=
  by and_intros <;> decide +kernel

/-- The hypotheses of TheJtagPortMakesServiceAccesses can be met. -/
theorem test_hyps_TheJtagPortMakesServiceAccesses :
    (let code : Byte := 0x21; let s : State := tst []; s.awake = true ∧ code.toNat ≠ 0 ∧ code.toNat ≠ 3 ∧ code.toNat ≠ 4) ∧
    (let code : Byte := 3; let s : State := tst []; s.awake = true ∧ s.anyActive = false ∧ (code.toNat = 0 ∨ code.toNat = 3 ∨ code.toNat = 4)) ∧
    (let c : Boundary := .extest; let s : State := tst []; s.awake = true ∧ s.anyActive = false) ∧
    (let c : Boundary := .extest; let s : State := tst [(R.PWR_PARKED 0, 0), (R.FMT_MODE 0, 0)]; s.awake = true ∧ s.anyActive = true) ∧
    (let s : State := tst [] (fun d => { d with jtag := { d.jtag with ir := 0x22 } }); s.awake = true) ∧
    (let w : BitVec 44 := 0xA0300000010; let s : State := tst [] (fun d => { d with jtag := { d.jtag with ir := 0x21 } }); s.awake = true ∧ s.dev.jtag.ir = 0x21 ∧ w.toNat % 4 = 0) ∧
    (let w : RivalWord := ⟨0, []⟩; let a : Nat := padBase + 16; let s : State := tst [(R.MEM_WIN_BASE 0 1, 0x300000), (R.MEM_WIN_SIZE 0 1, 0x1000), (R.MEM_WIN_PERM 0 1, 3)] (fun d => { d with jtag := { d.jtag with ir := 0x22, kind := 1, inc := true, addr := padBase + 16 } }) [(padBase + 17, 7)]; s.awake = true ∧ s.dev.jtag.ir = 0x22 ∧ s.dev.jtag.busy = none ∧ s.issues .service = true ∧ s.frozen 3 = false ∧ padBase ≤ a ∧ a + 4 ≤ padBase + 0x1000000 ∧ a % 4 = 0 ∧ s.dev.jtag.addr = a ∧ (s.dev.bus.ecc.filter fun (e : Nat × EccErr) => decide (e.1 < a + 4) && decide (a < e.1 + 8)) = [] ∧ s.dev.jtag.kind = 1 ∧ s.admitsRead .service a = true) ∧
    (let w : RivalWord := ⟨7, [2]⟩; let a : Nat := padBase + 16; let x : Nat := 2; let y : Nat := 3; let l : List Nat := []; let s : State := tst [] (fun d => { d with jtag := { d.jtag with ir := 0x22, kind := 2, inc := true, addr := padBase + 16 } }); s.awake = true ∧ s.dev.jtag.ir = 0x22 ∧ s.dev.jtag.busy = none ∧ s.issues .service = true ∧ s.frozen 3 = false ∧ padBase ≤ a ∧ a + 4 ≤ padBase + 0x1000000 ∧ a % 4 = 0 ∧ s.dev.jtag.addr = a ∧ (s.dev.bus.ecc.filter fun (e : Nat × EccErr) => decide (e.1 < a + 4) && decide (a < e.1 + 8)) = [] ∧ s.dev.jtag.kind = 2 ∧ s.writers 3 w.rivals = x :: y :: l ∧ x ≠ 3) ∧
    (let w : RivalWord := ⟨0xDEADBEEF, [5]⟩; let a : Nat := padBase + 16; let s : State := tst [(R.MEM_WIN_BASE 0 1, 0x300000), (R.MEM_WIN_SIZE 0 1, 0x1000), (R.MEM_WIN_PERM 0 1, 3)] (fun d => { d with jtag := { d.jtag with ir := 0x22, kind := 2, inc := false, addr := padBase + 16 } }) [(padBase + 17, 7)]; s.awake = true ∧ s.dev.jtag.ir = 0x22 ∧ s.dev.jtag.busy = none ∧ s.issues .service = true ∧ s.frozen 3 = false ∧ padBase ≤ a ∧ a + 4 ≤ padBase + 0x1000000 ∧ a % 4 = 0 ∧ s.dev.jtag.addr = a ∧ (s.dev.bus.ecc.filter fun (e : Nat × EccErr) => decide (e.1 < a + 4) && decide (a < e.1 + 8)) = [] ∧ s.dev.jtag.kind = 2 ∧ s.admitsAt .service a w.word = true ∧ (s.writers 3 w.rivals).head? = some 3 ∧ Memory.wf s.losses s.mem = true) ∧
    (let w : RivalWord := ⟨0, []⟩; let s : State := tst [(R.MEM_FRZ, 8)] (fun d => { d with jtag := { d.jtag with ir := 0x22, kind := 2 } }); s.awake = true ∧ s.dev.jtag.ir = 0x22 ∧ s.dev.jtag.busy = none ∧ s.issues .service = true ∧ s.frozen 3 = true ∧ (s.dev.jtag.kind = 1 ∨ s.dev.jtag.kind = 2)) ∧
    (let s : State := tst [] (fun d => { d with jtag := { d.jtag with ir := 0x22, last := (0, 55) } }); s.awake = true ∧ s.dev.jtag.ir = 0x22) ∧
    (let r : Nat × Word := (0, 55); let s : State := tst [] (fun d => { d with jtag := { d.jtag with busy := some (0, 55) } }); s.awake = true ∧ s.dev.jtag.busy = some r) :=
  by and_intros <;> decide +kernel

/-- The hypotheses of ADeviceBootsOrRecovers can be met. -/
theorem test_hyps_ADeviceBootsOrRecovers :
    (let density : Nat := 1000; let erase4k : Bool := true; let o : Nat := 100; let bytes : List Byte := []; let u : State := (flashSet 100 []).run { (tst [] id []) with dev := { (tst [] id []).dev with boot := { (tst [] id []).dev.boot with flash := ⟨1000, true⟩ } } }; let s : State := tst [] id []; s.awake = true ∧ s.dev.boot.due = true ∧ s.dev.rst.run = none ∧ s.dev.rst.testMode = false ∧ Memory.wf s.losses s.mem = true ∧ u = (flashSet o bytes).run { s with dev := { s.dev with boot := { s.dev.boot with flash := ⟨density, erase4k⟩ } } } ∧ u.flashOk = false) ∧
    (let density : Nat := 16777216; let erase4k : Bool := true; let o : Nat := 100; let bytes : List Byte := [1, 2, 3]; let u : State := (flashSet 100 [1, 2, 3]).run { (tst [] id [(flashBase + 8388608, 0xF8), (flashBase + 8388609, 0xF4), (flashBase + 8388610, 0xE5), (flashBase + 8388611, 0xA1), (flashBase + 8388612, 0xFF)]) with dev := { (tst [] id [(flashBase + 8388608, 0xF8), (flashBase + 8388609, 0xF4), (flashBase + 8388610, 0xE5), (flashBase + 8388611, 0xA1), (flashBase + 8388612, 0xFF)]).dev with boot := { (tst [] id [(flashBase + 8388608, 0xF8), (flashBase + 8388609, 0xF4), (flashBase + 8388610, 0xE5), (flashBase + 8388611, 0xA1), (flashBase + 8388612, 0xFF)]).dev.boot with flash := ⟨16777216, true⟩ } } }; let s : State := tst [] id [(flashBase + 8388608, 0xF8), (flashBase + 8388609, 0xF4), (flashBase + 8388610, 0xE5), (flashBase + 8388611, 0xA1), (flashBase + 8388612, 0xFF)]; s.awake = true ∧ s.dev.boot.due = true ∧ s.dev.rst.run = none ∧ s.dev.rst.testMode = false ∧ Memory.wf s.losses s.mem = true ∧ u = (flashSet o bytes).run { s with dev := { s.dev with boot := { s.dev.boot with flash := ⟨density, erase4k⟩ } } } ∧ u.flashOk = true ∧ (u.bootState 0 = 0xFF ∨ u.bootState 0 = 0) ∧ (u.bootState 1 = 0xFF ∨ u.bootState 1 = 0)) ∧
    (let density : Nat := 16777216; let erase4k : Bool := true; let o : Nat := 100; let bytes : List Byte := []; let u : State := (flashSet 100 []).run { (tst [] id [(flashBase + 0, 0xF8), (flashBase + 1, 0xF4), (flashBase + 2, 0xE5), (flashBase + 3, 0xA1), (flashBase + 4, 0xC0)]) with dev := { (tst [] id [(flashBase + 0, 0xF8), (flashBase + 1, 0xF4), (flashBase + 2, 0xE5), (flashBase + 3, 0xA1), (flashBase + 4, 0xC0)]).dev with boot := { (tst [] id [(flashBase + 0, 0xF8), (flashBase + 1, 0xF4), (flashBase + 2, 0xE5), (flashBase + 3, 0xA1), (flashBase + 4, 0xC0)]).dev.boot with flash := ⟨16777216, true⟩ } } }; let s : State := tst [] id [(flashBase + 0, 0xF8), (flashBase + 1, 0xF4), (flashBase + 2, 0xE5), (flashBase + 3, 0xA1), (flashBase + 4, 0xC0)]; s.awake = true ∧ s.dev.boot.due = true ∧ s.dev.rst.run = none ∧ s.dev.rst.testMode = false ∧ Memory.wf s.losses s.mem = true ∧ u = (flashSet o bytes).run { s with dev := { s.dev with boot := { s.dev.boot with flash := ⟨density, erase4k⟩ } } } ∧ u.flashOk = true ∧ u.bootState 0 = 0x3F ∧ (u.bootState 1 = 0xFF ∨ u.bootState 1 = 0)) ∧
    (let density : Nat := 16777216; let erase4k : Bool := true; let o : Nat := 100; let bytes : List Byte := []; let u : State := (flashSet 100 []).run { (tst [] id [(flashBase + 0, 0xF8), (flashBase + 1, 0xF4), (flashBase + 2, 0xE5), (flashBase + 3, 0xA1), (flashBase + 4, 0x80), (flashBase + 8388608, 0xF8), (flashBase + 8388609, 0xF4), (flashBase + 8388610, 0xE5), (flashBase + 8388611, 0xA1), (flashBase + 8388612, 0xE0)]) with dev := { (tst [] id [(flashBase + 0, 0xF8), (flashBase + 1, 0xF4), (flashBase + 2, 0xE5), (flashBase + 3, 0xA1), (flashBase + 4, 0x80), (flashBase + 8388608, 0xF8), (flashBase + 8388609, 0xF4), (flashBase + 8388610, 0xE5), (flashBase + 8388611, 0xA1), (flashBase + 8388612, 0xE0)]).dev with boot := { (tst [] id [(flashBase + 0, 0xF8), (flashBase + 1, 0xF4), (flashBase + 2, 0xE5), (flashBase + 3, 0xA1), (flashBase + 4, 0x80), (flashBase + 8388608, 0xF8), (flashBase + 8388609, 0xF4), (flashBase + 8388610, 0xE5), (flashBase + 8388611, 0xA1), (flashBase + 8388612, 0xE0)]).dev.boot with flash := ⟨16777216, true⟩ } } }; let s : State := tst [] id [(flashBase + 0, 0xF8), (flashBase + 1, 0xF4), (flashBase + 2, 0xE5), (flashBase + 3, 0xA1), (flashBase + 4, 0x80), (flashBase + 8388608, 0xF8), (flashBase + 8388609, 0xF4), (flashBase + 8388610, 0xE5), (flashBase + 8388611, 0xA1), (flashBase + 8388612, 0xE0)]; s.awake = true ∧ s.dev.boot.due = true ∧ s.dev.rst.run = none ∧ s.dev.rst.testMode = false ∧ Memory.wf s.losses s.mem = true ∧ u = (flashSet o bytes).run { s with dev := { s.dev with boot := { s.dev.boot with flash := ⟨density, erase4k⟩ } } } ∧ u.flashOk = true ∧ u.bootState 0 = 0x7F ∧ u.headerOk 0 = false ∧ u.bootState 1 = 0x1F ∧ u.headerOk 1 = false) ∧
    (let density : Nat := 16777216; let erase4k : Bool := true; let o : Nat := 100; let bytes : List Byte := []; let u : State := (flashSet 100 []).run { (tst [] id [(flashBase + 8388608, 0xF8), (flashBase + 8388609, 0xF4), (flashBase + 8388610, 0xE5), (flashBase + 8388611, 0xA1), (flashBase + 8388612, 0x80)]) with dev := { (tst [] id [(flashBase + 8388608, 0xF8), (flashBase + 8388609, 0xF4), (flashBase + 8388610, 0xE5), (flashBase + 8388611, 0xA1), (flashBase + 8388612, 0x80)]).dev with boot := { (tst [] id [(flashBase + 8388608, 0xF8), (flashBase + 8388609, 0xF4), (flashBase + 8388610, 0xE5), (flashBase + 8388611, 0xA1), (flashBase + 8388612, 0x80)]).dev.boot with flash := ⟨16777216, true⟩ } } }; let s : State := tst [] id [(flashBase + 8388608, 0xF8), (flashBase + 8388609, 0xF4), (flashBase + 8388610, 0xE5), (flashBase + 8388611, 0xA1), (flashBase + 8388612, 0x80)]; s.awake = true ∧ s.dev.boot.due = true ∧ s.dev.rst.run = none ∧ s.dev.rst.testMode = false ∧ Memory.wf s.losses s.mem = true ∧ u = (flashSet o bytes).run { s with dev := { s.dev with boot := { s.dev.boot with flash := ⟨density, erase4k⟩ } } } ∧ u.flashOk = true ∧ (u.bootState 0 = 0xFF ∨ u.bootState 0 = 0) ∧ u.bootState 1 = 0x7F ∧ u.headerOk 1 = false) ∧
    (let density : Nat := 16777216; let erase4k : Bool := true; let o : Nat := 0; let bytes : List Byte := bootSlot; let x : Fin 2 := 0; let u : State := bootFound; let s : State := bootDue; s.awake = true ∧ s.dev.boot.due = true ∧ s.dev.rst.run = none ∧ s.dev.rst.testMode = false ∧ Memory.wf s.losses s.mem = true ∧ u = (flashSet o bytes).run { s with dev := { s.dev with boot := { s.dev.boot with flash := ⟨density, erase4k⟩ } } } ∧ u.flashOk = true ∧ u.firstSlot = some x.val ∧ u.imageCode x = 0) ∧
    (let density : Nat := 16777216; let erase4k : Bool := true; let o : Nat := 0; let bytes : List Byte := bootSlot; let x : Fin 2 := 0; let u : State := bootFound; let s : State := bootDue; s.awake = true ∧ s.dev.boot.due = true ∧ s.dev.rst.run = none ∧ s.dev.rst.testMode = false ∧ Memory.wf s.losses s.mem = true ∧ u = (flashSet o bytes).run { s with dev := { s.dev with boot := { s.dev.boot with flash := ⟨density, erase4k⟩ } } } ∧ u.flashOk = true ∧ u.firstSlot = some x.val ∧ u.imageCode x = 0 ∧ ((u.sections x).all fun c => c.typ ≠ 6 && c.typ ≠ 8 && c.typ ≠ 9) = true) ∧
    (let s : State := tst [] fun d => { d with boot := { d.boot with passed := true } }; s.awake = true ∧ s.dev.boot.passed = true ∧ s.dev.rst.run = none) :=
  ⟨by decide +kernel, by decide +kernel, by decide +kernel, by decide +kernel, by decide +kernel,
   ⟨by decide +kernel, by decide +kernel, by decide +kernel, by decide +kernel, by decide +kernel, rfl, bootFound_flashOk, bootFound_slot,
    bootFound_image⟩,
   ⟨by decide +kernel, by decide +kernel, by decide +kernel, by decide +kernel, by decide +kernel, rfl, bootFound_flashOk, bootFound_slot,
    bootFound_image, bootFound_plain⟩,
   by decide +kernel⟩

/-- The hypotheses of UpdateFunctionsRun can be met. -/
theorem test_hyps_UpdateFunctionsRun :
    (let p : Port := .service; let slot : Word := 1; let len : Word := 9000; let s : State := tst [(R.MEM_WIN_SIZE 0 0, 0x10000000), (R.MEM_WIN_PERM 0 0, 3)] (fun d => { d with boot := { d.boot with flash := ⟨16777216, true⟩ } }) [(flashBase + 8388608, 0xF8), (flashBase + 8388609, 0xF4), (flashBase + 8388610, 0xE5), (flashBase + 8388611, 0xA1), (flashBase + 8388612, 0xE0)]; s.admits p R.BOOT_ARG0 slot = true ∧ s.admits p R.BOOT_ARG1 len = true ∧ s.admits p R.BOOT_CMD 1 = true ∧ s.dev.boot.fn = none ∧ slot.toNat ≤ 1 ∧ s.booted slot.toNat = false ∧ len.toNat ≤ s.slotSize) ∧
    (let p : Port := .service; let slot : Word := 1; let len : Word := 9000; let s : State := tst [(R.MEM_WIN_SIZE 0 0, 0x10000000), (R.MEM_WIN_PERM 0 0, 3), (R.BOOT_STAT, 0xA0000000)] id []; s.admits p R.BOOT_ARG0 slot = true ∧ s.admits p R.BOOT_ARG1 len = true ∧ s.admits p R.BOOT_CMD 1 = true ∧ s.dev.boot.fn = none ∧ s.booted slot.toNat = true) ∧
    (let p : Port := .service; let slot : Word := 1; let len : Word := 9000; let s : State := tst [(R.MEM_WIN_SIZE 0 0, 0x10000000), (R.MEM_WIN_PERM 0 0, 3)] id []; s.admits p R.BOOT_ARG0 slot = true ∧ s.admits p R.BOOT_ARG1 len = true ∧ s.admits p R.BOOT_CMD 1 = true ∧ s.dev.boot.fn = none ∧ s.booted slot.toNat = false ∧ slot.toNat ≤ 1 ∧ s.slotSize < len.toNat) ∧
    (let p : Port := .service; let slot : Word := 1; let len : Word := 9000; let s : State := tst [(R.MEM_WIN_SIZE 0 0, 0x10000000), (R.MEM_WIN_PERM 0 0, 3)] (fun d => { d with boot := { d.boot with fn := some .confirm } }) []; s.admits p R.BOOT_ARG0 slot = true ∧ s.admits p R.BOOT_ARG1 len = true ∧ s.admits p R.BOOT_CMD 1 = true ∧ s.dev.boot.fn ≠ none) ∧
    (let p : Port := .service; let ofs : Word := 64; let len : Word := 100; let buf : Word := 256; let s : State := tst [(R.MEM_WIN_SIZE 0 0, 0x10000000), (R.MEM_WIN_PERM 0 0, 3), (R.MEM_WIN_BASE 0 1, 0x300000), (R.MEM_WIN_SIZE 0 1, 0x1000), (R.MEM_WIN_PERM 0 1, 1)] (fun d => { d with boot := { d.boot with slot := some 1, len := 9000, written := 64 } }) []; s.admits p R.BOOT_ARG0 ofs = true ∧ s.admits p R.BOOT_ARG1 len = true ∧ s.admits p R.BOOT_ARG2 buf = true ∧ s.admits p R.BOOT_CMD 2 = true ∧ s.dev.boot.fn = none ∧ s.dev.boot.slot ≠ none ∧ ofs.toNat = s.dev.boot.written ∧ len.toNat ≤ 1048576 ∧ ofs.toNat + len.toNat ≤ s.dev.boot.len ∧ (len.toNat = 0 ∨ s.inWindow (portMaster p) (padBase + buf.toNat) len.toNat false = true)) ∧
    (let p : Port := .service; let ofs : Word := 64; let len : Word := 100; let buf : Word := 256; let s : State := tst [(R.MEM_WIN_SIZE 0 0, 0x10000000), (R.MEM_WIN_PERM 0 0, 3)] (fun d => { d with boot := { d.boot with slot := some 1, len := 9000, written := 0 } }) []; s.admits p R.BOOT_ARG0 ofs = true ∧ s.admits p R.BOOT_ARG1 len = true ∧ s.admits p R.BOOT_ARG2 buf = true ∧ s.admits p R.BOOT_CMD 2 = true ∧ s.dev.boot.fn = none ∧ (s.dev.boot.slot = none ∨ ofs.toNat ≠ s.dev.boot.written)) ∧
    (let p : Port := .service; let s : State := tst [(R.MEM_WIN_SIZE 0 0, 0x10000000), (R.MEM_WIN_PERM 0 0, 3)] (fun d => { d with boot := { d.boot with slot := some 1 } }) []; s.admits p R.BOOT_CMD 3 = true ∧ s.dev.boot.fn = none) ∧
    (let p : Port := .service; let s : State := tst [(R.MEM_WIN_SIZE 0 0, 0x10000000), (R.MEM_WIN_PERM 0 0, 3)] id []; s.admits p R.BOOT_CMD 4 = true ∧ s.dev.boot.fn = none) ∧
    (let p : Port := .service; let slot : Word := 1; let buf : Word := 0x10000; let s : State := tst [(R.MEM_WIN_SIZE 0 0, 0x10000000), (R.MEM_WIN_PERM 0 0, 3), (R.MEM_WIN_BASE 0 1, 0x300000), (R.MEM_WIN_SIZE 0 1, 0x1000), (R.MEM_WIN_PERM 0 1, 3)] (fun d => { d with boot := { d.boot with flash := ⟨16777216, true⟩ } }) [(flashBase + 0, 0xF8), (flashBase + 1, 0xF4), (flashBase + 2, 0xE5), (flashBase + 3, 0xA1), (flashBase + 4, 0xE0), (flashBase + 8388608, 0xF8), (flashBase + 8388609, 0xF4), (flashBase + 8388610, 0xE5), (flashBase + 8388611, 0xA1), (flashBase + 8388612, 0x80)]; s.admits p R.BOOT_ARG0 slot = true ∧ s.admits p R.BOOT_ARG2 buf = true ∧ s.admits p R.BOOT_CMD 5 = true ∧ s.dev.boot.fn = none ∧ slot.toNat ≤ 1 ∧ s.bootState (1 - slot.toNat) = 0x1F ∧ s.flashOk = true ∧ s.inWindow (portMaster p) (padBase + buf.toNat) 65536 false = true ∧ s.inWindow (portMaster p) (padBase + buf.toNat) 65536 true = true) ∧
    (let p : Port := .service; let slot : Word := 1; let buf : Word := 0x10000; let s : State := tst [(R.MEM_WIN_SIZE 0 0, 0x10000000), (R.MEM_WIN_PERM 0 0, 3)] (fun d => { d with boot := { d.boot with flash := ⟨16777216, true⟩ } }) []; s.admits p R.BOOT_ARG0 slot = true ∧ s.admits p R.BOOT_ARG2 buf = true ∧ s.admits p R.BOOT_CMD 5 = true ∧ s.dev.boot.fn = none ∧ slot.toNat ≤ 1 ∧ s.bootState (1 - slot.toNat) ≠ 0x1F) ∧
    (let p : Port := .service; let s : State := tst [(R.MEM_WIN_SIZE 0 0, 0x10000000), (R.MEM_WIN_PERM 0 0, 3)] id []; s.admits p R.BOOT_CMD 6 = true ∧ s.dev.rst.run.all (fun (x : Nat × Nat) => decide (1 < x.1)) = true) ∧
    (let x : Nat := 1; let len : Nat := 9000; let s : State := tst [] (fun d => { d with boot := { d.boot with fn := some (.open_ 1 9000), flash := ⟨16777216, true⟩ } }) [(flashBase + 0x801005, 3)]; s.awake = true ∧ s.dev.boot.fn = some (BootFn.open_ x len)) ∧
    (let ofs : Nat := 64; let n : Nat := 3; let buf : Nat := 256; let x : Nat := 1; let o : Nat := 0x801040; let s : State := tst [] (fun d => { d with boot := { d.boot with fn := some (.write 64 3 256), slot := some 1, len := 9000, written := 64, flash := ⟨16777216, true⟩ } }) [(padBase + 256, 1), (padBase + 258, 0xF0), (flashBase + 0x801042, 0x30)]; s.awake = true ∧ Memory.wf s.losses s.mem = true ∧ s.dev.boot.fn = some (BootFn.write ofs n buf) ∧ s.dev.boot.slot = some x ∧ o = s.slotImage x + ofs) ∧
    (let x : Nat := 1; let s : State := tst [] (fun d => { d with boot := { d.boot with fn := some .close, slot := some 1, flash := ⟨16777216, true⟩ } }); s.awake = true ∧ s.dev.boot.fn = some BootFn.close ∧ s.dev.boot.slot = some x ∧ s.headerOk x = false) ∧
    (let x : Nat := 1; let s : State := tst [(R.BOOT_STAT, 0xA0000000)] (fun d => { d with boot := { d.boot with fn := some .confirm, flash := ⟨16777216, true⟩ } }) [(flashBase + 8388608, 0xF8), (flashBase + 8388609, 0xF4), (flashBase + 8388610, 0xE5), (flashBase + 8388611, 0xA1), (flashBase + 8388612, 0xC0)]; s.awake = true ∧ Memory.wf s.losses s.mem = true ∧ s.dev.boot.fn = some BootFn.confirm ∧ s.booted x = true ∧ s.bootState x = 0x3F) ∧
    (let x : Nat := 0; let s : State := tst [] (fun d => { d with boot := { d.boot with fn := some .confirm } }); s.awake = true ∧ s.dev.boot.fn = some BootFn.confirm ∧ x = s.fld F.BOOT_STAT_SLOT ∧ (s.booted x = false ∨ s.bootState x ≠ 0x3F)) ∧
    (let x : Nat := 1; let buf : Nat := 0; let code : Nat := 2; let st : Nat := 0x1F; let s : State := tst [] (fun d => { d with boot := { d.boot with fn := some (.refresh 1 0 2 0x1F), flash := ⟨16777216, true⟩ } }); s.awake = true ∧ s.dev.boot.fn = some (BootFn.refresh x buf code st) ∧ code ≠ 0) ∧
    (let x : Nat := 1; let buf : Nat := 0; let st : Nat := 0x1F; let s : State := tst [] (fun d => { d with boot := { d.boot with fn := some (.refresh 1 0 0 0x1F), flash := ⟨16777216, true⟩ } }) [(flashBase + 8388608, 0xF8), (flashBase + 8388609, 0xF4), (flashBase + 8388610, 0xE5), (flashBase + 8388611, 0xA1), (flashBase + 8388612, 0xE0)]; s.awake = true ∧ Memory.wf s.losses s.mem = true ∧ s.dev.boot.fn = some (BootFn.refresh x buf 0 st)) ∧
    (let f : BootFn := .close; let s : State := tst [] (fun d => { d with boot := { d.boot with fn := some .close, slot := some 1 } }); s.awake = true ∧ s.dev.boot.fn = some f ∧ (f = BootFn.confirm ∨ f = BootFn.close)) :=
  by and_intros <;> decide +kernel

/-- The hypotheses of FusesAreProgrammedOnce can be met. -/
theorem test_hyps_FusesAreProgrammedOnce :
    (let p : Port := .mp0; let slot : Fin 4 := 2; let ofs : BitVec 24 := 0x100; let s : State := tst [] (fun d => { d with rst := { d.rst with mp := true } }); s.admits p R.SEC_CTL (fieldWord F.SEC_CTL_OP 1 ||| fieldWord F.SEC_CTL_SLOT slot ||| fieldWord F.SEC_CTL_OFS ofs.toNat) = true ∧ s.dev.boot.fuse = none ∧ slot ≠ 0 ∧ s.dev.boot.fuses.keySet slot = false ∧ ofs.toNat % 8 = 0 ∧ ofs.toNat + 64 ≤ 0x1000000) ∧
    (let p : Port := .mp0; let slot : Fin 4 := 0; let ofs : BitVec 24 := 0x100; let s : State := tst [] (fun d => { d with rst := { d.rst with mp := true } }); s.admits p R.SEC_CTL (fieldWord F.SEC_CTL_OP 1 ||| fieldWord F.SEC_CTL_SLOT slot ||| fieldWord F.SEC_CTL_OFS ofs.toNat) = true ∧ s.dev.boot.fuse = none ∧ (slot = 0 ∨ s.dev.boot.fuses.keySet slot = true)) ∧
    (let p : Port := .mp0; let slot : Fin 4 := 2; let s : State := tst [(R.BOOT_STAT, 0x80000000)] (fun d => { d with rst := { d.rst with mp := true } }); s.admits p R.SEC_CTL (fieldWord F.SEC_CTL_OP 2 ||| fieldWord F.SEC_CTL_SLOT slot) = true ∧ s.dev.boot.fuse = none ∧ (s.flg F.BOOT_STAT_DONE = false ∨ slot.val ≠ s.dev.image.keyIdx)) ∧
    (let p : Port := .mp0; let slot : Fin 4 := 0; let s : State := tst [(R.BOOT_STAT, 0x80000000)] (fun d => { d with rst := { d.rst with mp := true } }); s.admits p R.SEC_CTL (fieldWord F.SEC_CTL_OP 2 ||| fieldWord F.SEC_CTL_SLOT slot) = true ∧ s.dev.boot.fuse = none ∧ s.flg F.BOOT_STAT_DONE = true ∧ slot.val = s.dev.image.keyIdx) ∧
    (let p : Port := .mp0; let s : State := tst [] (fun d => { d with rst := { d.rst with mp := true } }); s.admits p R.SEC_CTL (fieldWord F.SEC_CTL_OP 3) = true ∧ s.dev.boot.fuse = none) ∧
    (let slot : Nat := 2; let ofs : Nat := 256; let s : State := tst [] (fun d => { d with boot := { d.boot with fuse := some (.keyprog 2 256) } }) [(padBase + 257, 9)]; s.awake = true ∧ s.dev.boot.fuse = some (BootFn.keyprog slot ofs)) ∧
    (let slot : Nat := 2; let s : State := tst [] (fun d => { d with boot := { d.boot with fuse := some (.revoke 2) } }); s.awake = true ∧ s.dev.boot.fuse = some (BootFn.revoke slot)) ∧
    (let s : State := tst [] (fun d => { d with boot := { d.boot with fuse := some .svnadv } }); s.awake = true ∧ s.dev.boot.fuse = some BootFn.svnadv) ∧
    (let f : BootFn := .svnadv; let s : State := tst [] (fun d => { d with boot := { d.boot with fuse := some .svnadv } }); s.awake = true ∧ s.dev.boot.fuse = some f) :=
  by and_intros <;> decide +kernel

/-- The hypotheses of PowerOnStartsTheMachineAnew can be met. -/
theorem test_hyps_PowerOnStartsTheMachineAnew :
    (let tm : Bool := true; let s : State := tst [(R.PWR_PARK 0, 5), (R.LT_STATE, 0xD), (R.FAIL_STAT 3, 1), (R.CAP_POST 3, 9), (R.PWR_LOST, 1), (R.MON_LIFE_LO, 77), (R.SEQ_STATE 3, 1), (R.SYS_DEVID, 9)] (fun d => { d with rst := { d.rst with por := 1 } }) [(padBase + 3, 9), (retBase + 3, 5), (chBlock 0 + 2, 7), (flashBase + 7, 1)]; s.dev.rst.por = 1 ∧ Memory.wf s.losses s.mem = true) ∧
    (let s : State := tst [(R.PWR_PARK 0, 5), (R.LT_STATE, 0xD), (R.FAIL_STAT 3, 1), (R.CAP_POST 3, 9), (R.PWR_LOST, 1), (R.MON_LIFE_LO, 77), (R.SEQ_STATE 3, 1), (R.SYS_DEVID, 9)] (fun d => { d with rst := { d.rst with por := 2 } }) [(padBase + 3, 9), (retBase + 3, 5), (chBlock 0 + 2, 7), (flashBase + 7, 1)]; s.dev.rst.por = 2) ∧
    (let s : State := tst [(R.LT_STATE, 0xD), (R.FMT_MODE 3, 0)] id [(padBase + 3, 9), (retBase + 3, 5), (chBlock 0 + 2, 7), (flashBase + 7, 1)]; s.awake = true) :=
  by and_intros <;> decide +kernel

/-- The hypotheses of WarmResetsTakeTheirCourse can be met. -/
theorem test_hyps_WarmResetsTakeTheirCourse :
    (let s : State := tst [(R.PWR_STATE, 2)] (fun d => { d with rst := { d.rst with pinDue := true, mp := true, run := some (3, 3) } }); s.awake = true ∧ s.dev.rst.pinDue = true ∧ s.dev.rst.run.all (fun (x : Nat × Nat) => decide (1 < x.1)) = true) ∧
    (let r : Nat := 1; let c : Nat := 4; let s : State := tst [] (fun d => { d with rst := { d.rst with pinDue := true, run := some (1, 4) } }); s.awake = true ∧ s.dev.rst.pinDue = true ∧ s.dev.rst.run = some (r, c) ∧ r ≤ 1) ∧
    (let s : State := tst [] (fun d => { d with rst := { d.rst with run := some (3, 3) } }); s.awake = true ∧ s.wdRuns = true ∧ s.dev.rst.run.all (fun (x : Nat × Nat) => decide (2 < x.1)) = true) ∧
    (let r : Nat := 2; let c : Nat := 2; let s : State := tst [] (fun d => { d with rst := { d.rst with run := some (2, 2) } }); s.awake = true ∧ s.wdRuns = true ∧ s.dev.rst.run = some (r, c) ∧ r ≤ 2) ∧
    (let s : State := tst [(R.PWR_WDOG, 0)]; s.wdRuns = false) ∧
    (let s : State := tst [] (fun d => { d with rst := { d.rst with portDue := true } }); s.awake = true ∧ s.dev.rst.portDue = true ∧ s.dev.rst.run.all (fun (x : Nat × Nat) => decide (3 < x.1)) = true) ∧
    (let r : Nat := 2; let c : Nat := 2; let s : State := tst [] (fun d => { d with rst := { d.rst with portDue := true, run := some (2, 2) } }); s.awake = true ∧ s.dev.rst.portDue = true ∧ s.dev.rst.run = some (r, c) ∧ r ≤ 3) ∧
    (let r : Nat := 2; let c : Nat := 2; let s : State := tst [(R.PWR_PARK 0, 5), (R.LT_STATE, 0xD), (R.CAP_POST 3, 9), (R.MON_LIFE_LO, 77), (R.SEQ_STATE 3, 1), (R.SYS_DEVID, 9), (R.MEM_FRZ, 0x1E), (R.SVC_STAT, 2), (R.BOOT_STAT, 0xC0000000), (R.BOOT_ARG0, 7), (R.PWR_WDOG, 55), (R.PWR_RSTCAUSE, 0x50001)] (fun d => { d with rst := { d.rst with run := some (2, 2), due := 33000 } }) [(padBase + 3, 9), (retBase + 3, 5), (chBlock 0 + 2, 7), (flashBase + 7, 1)]; s.dev.rst.run = some (r, c) ∧ s.dev.rst.por = 0 ∧ s.dev.rst.applied = false ∧ c < 16 ∧ c ≠ 3) ∧
    (let r : Nat := 3; let c : Nat := 3; let s : State := tst [(R.PWR_PARK 0, 5), (R.LT_STATE, 0xD), (R.CAP_POST 3, 9), (R.MON_LIFE_LO, 77), (R.SEQ_STATE 3, 1), (R.SYS_DEVID, 9), (R.MEM_FRZ, 0x1E), (R.SVC_STAT, 2), (R.BOOT_STAT, 0xC0000000), (R.BOOT_ARG0, 7), (R.PWR_WDOG, 55), (R.PWR_RSTCAUSE, 0x50001)] (fun d => { d with rst := { d.rst with run := some (3, 3), due := 33000 } }) [(padBase + 3, 9), (retBase + 3, 5), (chBlock 0 + 2, 7), (flashBase + 7, 1)]; s.dev.rst.run = some (r, c) ∧ s.dev.rst.por = 0 ∧ s.dev.rst.applied = false ∧ c = 3) ∧
    (let r : Nat := 1; let c : Nat := 1; let s : State := tst [] (fun d => { d with rst := { d.rst with run := some (1, 1), applied := true, due := 63000 }, bus := { d.bus with locked := true } }); s.dev.rst.run = some (r, c) ∧ s.dev.rst.por = 0 ∧ s.dev.rst.applied = true ∧ (s.dev.rst.pinLow = false ∨ c ≠ 1) ∧ c ≠ 3) ∧
    (let r : Nat := 1; let c : Nat := 1; let s : State := tst [] (fun d => { d with rst := { d.rst with run := some (1, 1), applied := true, pinLow := true } }); s.dev.rst.run = some (r, c) ∧ s.dev.rst.pinLow = true ∧ c = 1) ∧
    (let r : Nat := 3; let c : Nat := 3; let s : State := tst [(R.BOOT_STAT, 0x80000000)] (fun d => { d with rst := { d.rst with run := some (3, 3), applied := true } }); s.dev.rst.run = some (r, c) ∧ s.dev.rst.por = 0 ∧ s.dev.rst.applied = true ∧ c = 3 ∧ s.flg F.BOOT_STAT_DONE = true) ∧
    (let r : Nat := 3; let c : Nat := 3; let s : State := tst [] (fun d => { d with rst := { d.rst with run := some (3, 3), applied := true } }); s.dev.rst.run = some (r, c) ∧ s.dev.rst.por = 0 ∧ s.dev.rst.applied = true ∧ c = 3 ∧ s.flg F.BOOT_STAT_DONE = false) :=
  by and_intros <;> decide +kernel

/-- The hypotheses of TheSupervisorRulesPower can be met. -/
theorem test_hyps_TheSupervisorRulesPower :
    (let p : Port := .service; let k : Fin 128 := 3; let s : State := tst [(R.MEM_WIN_SIZE 0 0, 0x10000000), (R.MEM_WIN_PERM 0 0, 3), (R.TG_DTMIN 3, 77), (R.SEQ_STATE 3, 4), (R.SEQ_STATE 4, 4), (R.PLAY_SLOT 3 2, 0x40000000), (R.BSTAT 0x103, 1)] fun d => { d with cores := [(3, { div := 5 })] }; s.admits p R.PWR_CORERST (fieldWord F.PWR_CORERST_GO 1 ||| fieldWord F.PWR_CORERST_CORE k) = true ∧ k.val < 68 ∧ (match s.channelOf k with | some n => s.calm n || s.parked n | none => true) = true ∧ (s.cst k).seq.resumed = none ∧ (s.dev.stor.work.any fun (w : Work) => w.kind = WorkKind.refill && w.core = k.val) = false) ∧
    (let p : Port := .service; let k : Fin 128 := 3; let s : State := tst [(R.MEM_WIN_SIZE 0 0, 0x10000000), (R.MEM_WIN_PERM 0 0, 3), (R.TG_DTMIN 3, 77), (R.PLAY_SLOT 3 2, 0x40000000)] fun d => { d with stor := { work := [{ kind := .refill, ring := 3, idx := 0, cmds := [], core := 3, slot := 2 }] } }; s.admits p R.PWR_CORERST (fieldWord F.PWR_CORERST_GO 1 ||| fieldWord F.PWR_CORERST_CORE k) = true ∧ k.val < 68 ∧ (match s.channelOf k with | some n => s.calm n || s.parked n | none => true) = true ∧ (s.cst k).seq.resumed = none) ∧
    (let p : Port := .service; let k : Fin 128 := 3; let s : State := tst [(R.MEM_WIN_SIZE 0 0, 0x10000000), (R.MEM_WIN_PERM 0 0, 3), (R.FMT_MODE 3, 0), (R.PWR_PARKED 0, 0)]; s.admits p R.PWR_CORERST (fieldWord F.PWR_CORERST_GO 1 ||| fieldWord F.PWR_CORERST_CORE k) = true ∧ k.val < 68 ∧ (match s.channelOf k with | some n => s.calm n || s.parked n | none => true) = false) ∧
    (let p : Port := .image; let s : State := tst [(R.PWR_WDOG, 77)]; s.admits p R.PWR_WDKICK 0xA5 = true) ∧
    (let p : Port := .image; let key : Byte := 0x5A; let s : State := tst []; s.admits p R.PWR_WDKICK (key.setWidth 32) = true ∧ key.toNat ≠ 0xA5) ∧
    (let s : State := tst []; s.awake = true ∧ s.wdRuns = true ∧ s.fld F.PWR_WDOG_TMO < 2 * s.fld F.PWR_WDCNT_REM) ∧
    (let p : Port := .image; let i : Fin 2 := 1; let w : Word := 0x20; let j : Fin 32 := 5; let s : State := tst [(R.PWR_PARK 1, 0), (R.PWR_PARKED 1, 0)]; s.admitsAt p (setAlias (R.PWR_PARK i)) w = true ∧ w.toNat.testBit j = true ∧ (s.reg (R.PWR_PARK i)).toNat.testBit j = false) ∧
    (let p : Port := .image; let i : Fin 2 := 1; let w : Word := 0x20; let j : Fin 32 := 5; let s : State := tst []; s.admitsAt p (clearAlias (R.PWR_PARK i)) w = true ∧ w.toNat.testBit j = true ∧ (s.reg (R.PWR_PARK i)).toNat.testBit j = true ∧ s.parked (32 * i.val + j.val) = true) ∧
    (let n : Fin 64 := 9; let e : Nat × Nat := (9, 100); let s : State := tst [(R.LT_STATE, 0xC)] (fun d => { d with rst := { d.rst with settle := [(9, 100)] } }); s.awake = true ∧ s.valid = true ∧ (s.dev.rst.settle.find? fun (x : Nat × Nat) => decide (x.1 = n.val)) = some e) ∧
    (let p : Port := .image; let s : State := tst [(R.PWR_STATE, 2)]; s.admits p R.PWR_CTL 1 = true ∧ s.standing = true) ∧
    (let p : Port := .image; let s : State := tst []; s.admits p R.PWR_CTL 1 = true ∧ s.standing = false) ∧
    (let p : Port := .image; let s : State := tst [(R.SEQ_STATE 3, 1), (R.PWR_PARKED 0, 0)]; s.admits p R.PWR_CTL 2 = true ∧ s.fld F.PWR_STATE_ST = 0) ∧
    (let p : Port := .image; let s : State := tst [(R.PWR_STATE, 3)]; s.admits p R.PWR_CTL 2 = true ∧ s.fld F.PWR_STATE_ST ≠ 0) ∧
    (let b : Nat := 300; let s : State := tst [(R.PWR_STATE, 1), (R.FMT_MODE 3, 0)] (fun d => { d with rst := { d.rst with standby := some 300 } }); s.awake = true ∧ s.dev.rst.standby = some b ∧ s.fld F.PWR_STATE_ST = 1) :=
  by and_intros <;> decide +kernel

/-- The hypotheses of HibernationKeepsWhatItMust can be met. -/
theorem test_hyps_HibernationKeepsWhatItMust :
    (let p : Port := .image; let s : State := tst []; s.admits p R.PWR_CTL 3 = true ∧ (channels.all fun n => s.parked n) = true ∧ (s.storSt = 0 ∨ s.storSt = 4 ∨ s.storSt = 6 ∨ s.storSt = 7) ∧ (s.fld F.PWR_STATE_ST = 0 ∨ s.fld F.PWR_STATE_ST = 2)) ∧
    (let p : Port := .image; let s : State := tst [(R.STOR_STATE, 3)]; s.admits p R.PWR_CTL 3 = true ∧ ((channels.all fun n => s.parked n) = false ∨ ¬(s.storSt = 0 ∨ s.storSt = 4 ∨ s.storSt = 6 ∨ s.storSt = 7) ∨ ¬(s.fld F.PWR_STATE_ST = 0 ∨ s.fld F.PWR_STATE_ST = 2))) ∧
    (let s : State := tst [] (fun d => { d with rst := { d.rst with hib := 1 }, lt := { d.lt with cyc := 7777777 } }); s.dev.rst.hib = 1 ∧ Memory.wf s.losses s.mem = true) ∧
    (let s : State := tst [(R.PWR_PARK 0, 5), (R.LT_STATE, 0xD), (R.FAIL_STAT 3, 1), (R.CAP_POST 3, 9), (R.PWR_LOST, 1), (R.MON_LIFE_LO, 77), (R.SEQ_STATE 3, 1), (R.SYS_DEVID, 9)] (fun d => { d with rst := { d.rst with hib := 2 } }) [(padBase + 3, 9), (retBase + 3, 5), (chBlock 0 + 2, 7), (flashBase + 7, 1)]; s.dev.rst.hib = 2 ∧ s.dev.rst.wakeDue = false ∧ s.dev.rst.pinDue = false) ∧
    (let s : State := tst [(R.PWR_PARK 0, 5), (R.LT_STATE, 0xD), (R.FAIL_STAT 3, 1), (R.CAP_POST 3, 9), (R.PWR_LOST, 1), (R.MON_LIFE_LO, 77), (R.SEQ_STATE 3, 1), (R.SYS_DEVID, 9)] (fun d => { d with rst := { d.rst with hib := 2, wakeDue := true } }) [(padBase + 3, 9), (retBase + 3, 5), (chBlock 0 + 2, 7), (flashBase + 7, 1)]; s.dev.rst.hib = 2 ∧ (s.dev.rst.wakeDue = true ∨ s.dev.rst.pinDue = true)) ∧
    (let c : WakeCause := .edge 5; let ms : Nat := 99999999999; let s : State := tst [(R.PWR_WAKE, 0x20)] (fun d => { d with rst := { d.rst with hib := 3 }, irq := { d.irq with latch := [134] } }); s.dev.rst.hib = 3 ∧ s.wakes c = true ∧ c ≠ WakeCause.timer) ∧
    (let ms : Nat := 1; let s : State := tst [(R.PWR_WAKE, 0x10000), (R.PWR_HIBTMR, 60)] (fun d => { d with rst := { d.rst with hib := 3 } }); s.dev.rst.hib = 3 ∧ s.wakes WakeCause.timer = true) ∧
    (let c : WakeCause := .edge 5; let ms : Nat := 1; let s : State := tst [] (fun d => { d with rst := { d.rst with hib := 3 } }); (s.dev.rst.hib ≠ 3 ∨ s.wakes c = false)) ∧
    (let s : State := tst [] (fun d => { d with rst := { d.rst with hib := 4 } }); s.dev.rst.hib = 4) ∧
    (let s : State := tst [] (fun d => { d with rst := { d.rst with hib := 5 } }); s.dev.rst.hib = 5 ∧ s.dev.rst.run.all (fun (x : Nat × Nat) => decide (1 < x.1)) = true) :=
  by and_intros <;> decide +kernel

/-- The hypotheses of MonitorsAreSampled can be met. -/
theorem test_hyps_MonitorsAreSampled :
    (let temps : _ := [some 2500, some 12000]; let rails : List (BitVec 16) := [900]; let i : Fin 18 := 1; let w : BitVec 16 := 12000; let s : State := tst []; s.awake = true ∧ temps.getD i none = some w) ∧
    (let temps : _ := [some 2500]; let rails : List (BitVec 16) := [900]; let i : Fin 18 := 1; let s : State := tst []; s.awake = true ∧ temps.getD i none = none) ∧
    (let temps : _ := [some 2500]; let rails : List (BitVec 16) := [900, 5]; let j : Fin 7 := 1; let v : BitVec 16 := 5; let s : State := tst []; s.awake = true ∧ rails[j.val]? = some v) ∧
    (let temps : _ := [some 2500]; let rails : List (BitVec 16) := [900, 900, 900, 900, 900, 900, 900, 12500, 12510, 12000, 12900]; let s : State := tst []; s.awake = true ∧ 7 < rails.length) ∧
    (let counts : List (BitVec 24) := [5, 6]; let k : Fin 9 := 1; let c : BitVec 24 := 6; let s : State := tst [] fun d => { d with rst := { d.rst with mp := true } }; s.awake = true ∧ s.mp1 = true ∧ counts[k.val]? = some c ∧ s.calHeader = false) ∧
    (let counts : List (BitVec 24) := [2999700]; let k : Fin 9 := 0; let c : BitVec 24 := 2999700; let z : Int := -100; let s : State := tst [] (fun d => { d with rst := { d.rst with mp := true } }) [(calBase + 0, 0x70), (calBase + 1, 0x5E), (calBase + 2, 0x1B), (calBase + 3, 0xCA), (calBase + 4, 0x01), (calBase + 6, 0x01), (calBase + 12, 0xC0), (calBase + 13, 0xC6), (calBase + 14, 0x2D), (calBase + 128, 0x03), (calBase + 129, 0x01), (calBase + 132, 0x20), (calBase + 144, 0x08), (calBase + 145, 0x01), (calBase + 148, 0xC4), (calBase + 149, 0x09), (calBase + 152, 0x9C), (calBase + 153, 0xFF), (calBase + 154, 0xFF), (calBase + 155, 0xFF)]; s.awake = true ∧ s.mp1 = true ∧ counts[k.val]? = some c ∧ s.calHeader = true ∧ s.ageOf k c.toNat = some z ∧ -(2 ^ 31) ≤ z ∧ z < 2 ^ 31) ∧
    (let counts : List (BitVec 24) := []; let s : State := tst [(R.MON_TEMP 2, 0x80002134), (R.MON_TEMP 3, 0x80000034), (R.MON_LIFE_LO, 0xFFFFFFF0)] fun d => { d with rst := { d.rst with mp := true } }; s.awake = true ∧ s.mp1 = true ∧ (s.sensors.map s.temp).foldl max (-100000) = 8500) :=
  by and_intros <;> decide +kernel

/-- The hypotheses of TrimsFollowTemperature can be met. -/
theorem test_hyps_TrimsFollowTemperature :
    (let p : Port := .mp1; let n : Fin 64 := 3; let o : Nat := 128; let i : Fin 32 := 0; let s : State := tst [(R.MON_TEMP 0, 0x800009C4)] (fun d => { d with rst := { d.rst with mp := true }, image := { d.image with calLen := 200 } }) [(calBase + 0, 0x70), (calBase + 1, 0x5E), (calBase + 2, 0x1B), (calBase + 3, 0xCA), (calBase + 4, 0x01), (calBase + 6, 0x01), (calBase + 12, 0xC0), (calBase + 13, 0xC6), (calBase + 14, 0x2D), (calBase + 128, 0x03), (calBase + 129, 0x01), (calBase + 132, 0x20), (calBase + 144, 0x08), (calBase + 145, 0x01), (calBase + 148, 0xC4), (calBase + 149, 0x09), (calBase + 152, 0x9C), (calBase + 153, 0xFF), (calBase + 154, 0xFF), (calBase + 155, 0xFF)]; s.admits p R.CAL_CTL (fieldPut (s.reg R.CAL_CTL) F.CAL_CTL_FORCE.lo F.CAL_CTL_FORCE.w 1) = true ∧ s.flg F.CAL_CTL_AUTO = true ∧ s.mp1 = true ∧ s.calChannels = [(n.val, o)] ∧ s.flg (F.CAL_CH_TST_NOSET n) = false ∧ s.sensorFor n = some i.val ∧ s.cal (o + 1) 1 = 1 ∧ s.cal (o + 16) 1 = 8 ∧ s.cal (o + 17) 1 = 1) ∧
    (let p : Port := .image; let s : State := tst [(R.CAL_CTL, 0)]; s.admits p R.CAL_CTL (fieldPut (s.reg R.CAL_CTL) F.CAL_CTL_FORCE.lo F.CAL_CTL_FORCE.w 1) = true ∧ (s.flg F.CAL_CTL_AUTO = false ∨ s.mp1 = false)) ∧
    (let p : Port := .image; let n : Fin 64 := 3; let s : State := tst [(R.CAL_CH_CMPA 3, 0x105)]; s.admits p (R.CAL_CH_TST n) (fieldWord (F.CAL_CH_TST_APPLY n) 1) = true) :=
  by and_intros <;> decide +kernel

/-- The hypotheses of ARemapMovesAChannelToASpareCore can be met. -/
theorem test_hyps_ARemapMovesAChannelToASpareCore :
    (let p : Port := .image; let n : Fin 64 := 3; let k : Fin 128 := 66; let beat : BitVec 64 := 200; let s : State := tst [(R.LT_STATE, 0xC), (R.LT_BEAT_LO, 100)]; s.admits p R.CAL_RMB_LO (BitVec.ofNat 32 beat.toNat) = true ∧ s.admits p R.CAL_RMB_HI (BitVec.ofNat 32 (beat.toNat / 2 ^ 32)) = true ∧ s.admits p R.CAL_RMAP (fieldWord F.CAL_RMAP_GO 1 ||| fieldWord F.CAL_RMAP_CORE k ||| fieldWord F.CAL_RMAP_CH n) = true ∧ s.remapCode n k beat.toNat = 0) ∧
    (let p : Port := .image; let n : Fin 64 := 3; let k : Fin 128 := 7; let beat : BitVec 64 := 200; let s : State := tst [(R.LT_STATE, 0xC), (R.LT_BEAT_LO, 100)]; s.admits p R.CAL_RMB_LO (BitVec.ofNat 32 beat.toNat) = true ∧ s.admits p R.CAL_RMB_HI (BitVec.ofNat 32 (beat.toNat / 2 ^ 32)) = true ∧ s.admits p R.CAL_RMAP (fieldWord F.CAL_RMAP_GO 1 ||| fieldWord F.CAL_RMAP_CORE k ||| fieldWord F.CAL_RMAP_CH n) = true ∧ s.remapCode n k beat.toNat ≠ 0 ∧ s.dev.xbar.remap = none) ∧
    (let p : Port := .image; let n : Fin 64 := 3; let k : Fin 128 := 7; let beat : BitVec 64 := 200; let s : State := tst [(R.LT_STATE, 0xC), (R.LT_BEAT_LO, 100)]; s.admits p R.CAL_RMB_LO (BitVec.ofNat 32 beat.toNat) = true ∧ s.admits p R.CAL_RMB_HI (BitVec.ofNat 32 (beat.toNat / 2 ^ 32)) = true ∧ s.admits p R.CAL_RMAP (fieldWord F.CAL_RMAP_GO 1 ||| fieldWord F.CAL_RMAP_CORE k ||| fieldWord F.CAL_RMAP_CH n) = true ∧ s.repairing = false ∧ s.flg F.XBAR_STATUS_PENDING = false ∧ ((s.channelOf k).isSome = true ∨ s.suspect k = true)) ∧
    (let p : Port := .image; let n : Fin 64 := 3; let k : Fin 128 := 66; let beat : BitVec 64 := 115; let s : State := tst [(R.LT_STATE, 0xC), (R.LT_BEAT_LO, 100)]; s.admits p R.CAL_RMB_LO (BitVec.ofNat 32 beat.toNat) = true ∧ s.admits p R.CAL_RMB_HI (BitVec.ofNat 32 (beat.toNat / 2 ^ 32)) = true ∧ s.admits p R.CAL_RMAP (fieldWord F.CAL_RMAP_GO 1 ||| fieldWord F.CAL_RMAP_CORE k ||| fieldWord F.CAL_RMAP_CH n) = true ∧ s.repairing = false ∧ s.flg F.XBAR_STATUS_PENDING = false ∧ k.val < 68 ∧ s.channelOf k = none ∧ s.suspect k = false ∧ beat.toNat < s.beatNow + 16) ∧
    (let r : RemapSt := ⟨3, 3, 66, 200, false, false⟩; let s : State := tst [(R.LT_STATE, 0xC), (R.LT_BEAT_LO, 100), (R.CONV_CFG 3, 5), (R.EVJ_E 3 4, 0x80000007)] (fun d => { d with xbar := { d.xbar with remap := some ⟨3, 3, 66, 200, false, false⟩ } }); s.awake = true ∧ s.frozen 2 = false ∧ s.dev.xbar.remap = some r ∧ r.copied = false ∧ s.beatNow + 4 ≤ r.beat ∧ r.ch < 64 ∧ r.old < 68 ∧ r.new < 68 ∧ s.valid = true ∧ s.flg F.XBAR_STATUS_PENDING = false ∧ hasRepeat (channels.map fun n => if n = r.ch then r.new else s.core n) = false ∧ s.gangBusy = false) ∧
    (let r : RemapSt := ⟨3, 3, 66, 200, false, false⟩; let s : State := tst [(R.LT_STATE, 0xC), (R.LT_BEAT_LO, 197)] (fun d => { d with xbar := { d.xbar with remap := some ⟨3, 3, 66, 200, false, false⟩ } }); s.awake = true ∧ s.frozen 2 = false ∧ s.dev.xbar.remap = some r ∧ r.copied = false ∧ r.beat ≤ s.beatNow + 4) ∧
    (let r : RemapSt := ⟨3, 3, 66, 200, true, false⟩; let s : State := tst [(R.LT_STATE, 0xC), (R.LT_BEAT_LO, 100), (R.PWR_PARKED 0, 0), (R.FMT_MODE 3, 0), (R.SEQ_STATE 3, 1)] (fun d => { d with xbar := { d.xbar with remap := some ⟨3, 3, 66, 200, true, false⟩ } }); s.awake = true ∧ s.frozen 2 = false ∧ s.dev.xbar.remap = some r ∧ r.copied = true ∧ r.stopped = false ∧ s.calm r.ch = false ∧ s.parked r.ch = false ∧ s.core r.ch = r.old ∧ s.channelOf r.old = some r.ch ∧ s.leader r.ch = r.ch) ∧
    (let r : RemapSt := ⟨3, 3, 66, 200, true, true⟩; let s : State := tst [(R.LT_STATE, 0xC), (R.LT_BEAT_LO, 100), (R.SEQ_STATE 3, 4), (R.SEQ_PC 3, 77)] (fun d => { d with xbar := { d.xbar with remap := some ⟨3, 3, 66, 200, true, true⟩ } }); s.awake = true ∧ s.frozen 2 = false ∧ s.dev.xbar.remap = some r ∧ r.copied = true ∧ s.core r.ch = r.old ∧ s.seqSt r.old = stHeld ∧ r.old ≠ r.new) ∧
    (let r : RemapSt := ⟨3, 3, 66, 200, true, false⟩; let s : State := tst [(R.LT_STATE, 0xC), (R.LT_BEAT_LO, 100), (R.XBAR_MAP 3, 0x00420042)] (fun d => { d with xbar := { d.xbar with remap := some ⟨3, 3, 66, 200, true, false⟩ } }); s.awake = true ∧ s.frozen 2 = false ∧ s.dev.xbar.remap = some r ∧ r.copied = true ∧ s.core r.ch = r.new ∧ r.old < 68) :=
  by and_intros <;> decide +kernel

/-- The hypotheses of AHandOffMovesTheCharge can be met. -/
theorem test_hyps_AHandOffMovesTheCharge :
    (let p : Port := .image; let beat : BitVec 64 := 200; let s : State := tst [(R.LT_STATE, 0xC), (R.LT_BEAT_LO, 100)]; s.admits p R.CAL_HB_LO (BitVec.ofNat 32 beat.toNat) = true ∧ s.admits p R.CAL_HB_HI (BitVec.ofNat 32 (beat.toNat / 2 ^ 32)) = true ∧ s.admits p R.CAL_HCTL 1 = true ∧ s.cutCode beat.toNat = 0) ∧
    (let p : Port := .image; let beat : BitVec 64 := 101; let s : State := tst [(R.LT_STATE, 0xC), (R.LT_BEAT_LO, 100)]; s.admits p R.CAL_HB_LO (BitVec.ofNat 32 beat.toNat) = true ∧ s.admits p R.CAL_HB_HI (BitVec.ofNat 32 (beat.toNat / 2 ^ 32)) = true ∧ s.admits p R.CAL_HCTL 1 = true ∧ s.cutCode beat.toNat ≠ 0 ∧ s.dev.xbar.handoff = none) ∧
    (let b : Nat := 120; let s : State := tst [(R.LT_STATE, 0xC), (R.LT_BEAT_LO, 100)] (fun d => { d with xbar := { d.xbar with handoff := some (1, 120) }, fes := [(3, { lastClear := some 120 })] }) [(chBlock 3 + 16, 9), (chBlock 3 + 40, 3)]; s.awake = true ∧ s.valid = true ∧ s.frozen 2 = false ∧ s.dev.xbar.handoff = some (1, b) ∧ Memory.wf s.losses s.mem = true) ∧
    (let p : Port := .image; let s : State := tst [] id [(handoffBase + 9, 7)]; s.admits p R.CAL_HCTL 2 = true) ∧
    (let p : Port := .image; let beat : BitVec 64 := 200; let s : State := tst [(R.LT_STATE, 0xC), (R.LT_BEAT_LO, 100)] id [(handoffBase + 0, 0xF0), (handoffBase + 1, 0x0F), (handoffBase + 2, 0x1B), (handoffBase + 3, 0xCA), (handoffBase + 4, 0x01), (handoffBase + 8, 0x37), (handoffBase + 16, 0x40), (handoffBase + 17, 0x08), (handoffBase + 20, 0x57), (handoffBase + 21, 0xFC), (handoffBase + 22, 0x6C), (handoffBase + 23, 0x93), (handoffBase + 160, 0xF9), (handoffBase + 161, 0xFF), (handoffBase + 162, 0xFF), (handoffBase + 163, 0xFF), (handoffBase + 164, 0xFF), (handoffBase + 165, 0xFF), (handoffBase + 166, 0xFF), (handoffBase + 167, 0xFF), (handoffBase + 168, 0x09), (handoffBase + 172, 0x04), (handoffBase + 174, 0x03)]; s.admits p R.CAL_HB_LO (BitVec.ofNat 32 beat.toNat) = true ∧ s.admits p R.CAL_HB_HI (BitVec.ofNat 32 (beat.toNat / 2 ^ 32)) = true ∧ s.admits p R.CAL_HCTL 3 = true ∧ s.importCode beat.toNat = 0) ∧
    (let p : Port := .image; let beat : BitVec 64 := 200; let s : State := tst [(R.LT_STATE, 0xC), (R.LT_BEAT_LO, 100)]; s.admits p R.CAL_HB_LO (BitVec.ofNat 32 beat.toNat) = true ∧ s.admits p R.CAL_HB_HI (BitVec.ofNat 32 (beat.toNat / 2 ^ 32)) = true ∧ s.admits p R.CAL_HCTL 3 = true ∧ s.importCode beat.toNat ≠ 0 ∧ s.dev.xbar.handoff = none) ∧
    (let b : Nat := 200; let n : Fin 64 := 3; let s : State := tst [(R.LT_STATE, 0xC), (R.LT_BEAT_LO, 100)] (fun d => { d with xbar := { d.xbar with handoff := some (3, 200) } }) [(handoffBase + 0, 0xF0), (handoffBase + 1, 0x0F), (handoffBase + 2, 0x1B), (handoffBase + 3, 0xCA), (handoffBase + 4, 0x01), (handoffBase + 8, 0x37), (handoffBase + 16, 0x40), (handoffBase + 17, 0x08), (handoffBase + 20, 0x57), (handoffBase + 21, 0xFC), (handoffBase + 22, 0x6C), (handoffBase + 23, 0x93), (handoffBase + 160, 0xF9), (handoffBase + 161, 0xFF), (handoffBase + 162, 0xFF), (handoffBase + 163, 0xFF), (handoffBase + 164, 0xFF), (handoffBase + 165, 0xFF), (handoffBase + 166, 0xFF), (handoffBase + 167, 0xFF), (handoffBase + 168, 0x09), (handoffBase + 172, 0x04), (handoffBase + 174, 0x03)]; s.awake = true ∧ s.valid = true ∧ s.dev.xbar.handoff = some (3, b) ∧ Memory.wf s.losses s.mem = true ∧ s.entryValid n = true) ∧
    (let p : Port := .image; let o : Nat := 1; let b : Nat := 120; let s : State := tst [] (fun d => { d with xbar := { d.xbar with handoff := some (1, 120) } }); s.admits p R.CAL_HCTL 4 = true ∧ s.dev.xbar.handoff = some (o, b) ∧ s.beatNow < b) ∧
    (let p : Port := .image; let s : State := tst [(R.LT_STATE, 0xC), (R.LT_BEAT_LO, 100)] (fun d => { d with xbar := { d.xbar with handoff := some (1, 100) } }); s.admits p R.CAL_HCTL 4 = true ∧ s.dev.xbar.handoff.all (fun (x : Nat × Nat) => decide (x.2 ≤ s.beatNow)) = true) :=
  ⟨by decide +kernel, by decide +kernel, by decide +kernel, by decide +kernel,
   (by delta State.importCode State.packageOk; rw [crc32c_fast]; decide +kernel), by decide +kernel, by decide +kernel,
   by decide +kernel, by decide +kernel⟩

end Sys2Proof.Tests
end

/-!
The register list, like the memory (Laws/Memory.lean), has a canonical form that every effect of the language keeps; a step is
the run of a program (Laws/Steps.lean), so that the invariant is kept by every step.
-/
namespace Sys2Proof.Machine

/-- A register list in canonical form: no register twice, every reserved bit 0 (R12). -/
def RegsOk (l : List (RegKey × Word)) : Prop := (l.map (·.1)).Nodup ∧ ∀ e ∈ l, e.2 &&& e.1.id.mask = e.2

theorem mem_regsPut {l : List (RegKey × Word)} {k : RegKey} {w : Word} {e : RegKey × Word} (h : e ∈ regsPut l k w) :
    e ∈ l ∨ e = (k, w) := by
  fun_induction regsPut l k w <;> grind

/-- Setting a register lists it once: in its place, or after the others. -/
theorem nodup_regsPut {l : List (RegKey × Word)} (k : RegKey) (w : Word) (h : (l.map (·.1)).Nodup) :
    ((regsPut l k w).map (·.1)).Nodup := by
  fun_induction regsPut l k w with
  | case1 => simp
  | case2 w' r => exact h
  | case3 k' w' r hne ih =>
    obtain ⟨hk', hr⟩ := List.nodup_cons.1 h
    refine List.nodup_cons.2 ⟨fun hm => ?_, ih hr⟩
    obtain ⟨e, he, rfl⟩ := List.mem_map.1 hm
    rcases mem_regsPut he with he | rfl
    · exact hk' (List.mem_map.2 ⟨e, he, rfl⟩)
    · exact hne rfl

theorem regsPut_ok {l : List (RegKey × Word)} (k : RegKey) (w : Word) (h : RegsOk l) :
    RegsOk (regsPut l k (w &&& k.id.mask)) := by
  refine ⟨nodup_regsPut _ _ h.1, fun e he => ?_⟩
  rcases mem_regsPut he with he | rfl
  · exact h.2 e he
  · rw [BitVec.and_assoc, BitVec.and_self]

theorem regsMap_ok {l : List (RegKey × Word)} (f : RegKey → Word → Word) (h : RegsOk l) :
    RegsOk (l.map fun e => (e.1, f e.1 e.2 &&& e.1.id.mask)) := by
  refine ⟨?_, fun e he => ?_⟩
  · rw [List.map_map]
    exact h.1
  · obtain ⟨e', -, rfl⟩ := List.mem_map.1 he
    rw [BitVec.and_assoc, BitVec.and_self]

/-- A program keeps the canonical form of the register list. -/
theorem run_regsOk (p : Prog) (s : State) (h : RegsOk s.regs) : RegsOk (p.run s).regs := by
  induction p generalizing s with
  | done => exact h
  | look k ih => exact ih s s h
  | reg k w p ih => exact ih _ (regsPut_ok k w h)
  | regMap f p ih => exact ih _ (regsMap_ok f h)
  | _ => rename_i ih; exact ih _ h

/-- Every program keeps the invariant: no effect of the language can break it. -/
theorem run_inv (p : Prog) (s : State) (h : s.Inv) : (p.run s).Inv :=
  ⟨run_wf p s h.1, run_regsOk p s h.2⟩

/-- Settles O3: a step is the run of a program, and every program keeps the invariant. -/
theorem everyStepKeepsTheInvariant : Obligations.EveryStepKeepsTheInvariant := by
  intro s t hs ht
  obtain ⟨p, hp⟩ := step_run s
  obtain rfl : p.run { s with pending := s.pending.tail } = t := by simpa [hp] using ht
  exact run_inv p _ hs

end Sys2Proof.Machine

/-! Footprints by names: which registers a program can change, and no byte of memory. -/
namespace Sys2Proof.Machine

/-- The program sets only registers of these names, and no byte of memory. -/
def Prog.Touches (p : Prog) (names : List RegId) : Prop := p.Only (fun k => k.id ∈ names) (fun _ => False)

theorem Prog.Touches.keepsRegs {p : Prog} {names : List RegId} (h : p.Touches names) (s : State) :
    s.KeepsRegs (p.run s) names := fun _ hk => only_reg h s hk

theorem Prog.Touches.keepsBytes {p : Prog} {names : List RegId} (h : p.Touches names) (s : State) : s.KeepsBytes (p.run s) :=
  fun _ => only_byte h s id

theorem Prog.Touches.mono {p : Prog} {l names : List RegId} (h : p.Touches l) (hl : l ⊆ names) : p.Touches names :=
  only_mono (fun _ hk => hl hk) (fun _ ha => ha) h

theorem touches_seqs_nil {names : List RegId} : (seqs []).Touches names := trivial

theorem touches_seqs_cons {p : Prog} {l : List Prog} {names : List RegId} (hp : p.Touches names) (hl : (seqs l).Touches names) :
    (seqs (p :: l)).Touches names := only_seq hp hl

/-- An event changes the pending bit and the counter of its source at most (R381, R382). -/
theorem touches_event (i : Nat) : (event i).Touches [.IRQ_PEND, .IRQ_CNT] := by
  refine only_ask fun s => ?_
  refine touches_seqs_cons (only_setF ?_) (touches_seqs_cons (only_when fun _ => only_dev)
    (touches_seqs_cons (only_when fun _ => ?_) touches_seqs_nil))
  · simp [cntField]
  · exact touches_seqs_cons (only_setB (by simp [pendField, bitField])) (touches_seqs_cons only_dev touches_seqs_nil)

theorem touches_raise (i : Nat) : (raise i).Touches [.IRQ_PEND, .IRQ_CNT] := by
  refine only_ask fun s => ?_
  split
  · trivial
  split
  · exact only_when fun _ => only_dev
  · exact touches_event i

theorem satInc_lt (w n : Nat) : satInc w n < 2 ^ w := by
  unfold satInc
  have := Nat.two_pow_pos w
  split <;> omega

/-- The counter of a source is a field of its register. -/
theorem cntField_ok (i : Nat) : (cntField i).ok = true := by
  have h : i % 4 = 0 ∨ i % 4 = 1 ∨ i % 4 = 2 ∨ i % 4 = 3 := by omega
  rcases h with h | h | h | h <;> simp only [Field.ok, cntField, h] <;> decide +kernel

/-- An event of a source is counted (R382). -/
theorem event_cnt (i : Nat) (s : State) : ((event i).run s).fld (cntField i) = satInc 8 (s.fld (cntField i)) := by
  have hp (t : State) : ((makePending i).run t).fld (cntField i) = t.fld (cntField i) := by
    rw [makePending, run_seqs_cons, run_setB]
    exact State.fld_setFld_reg _ _ _ _ (by simp [cntField, pendField, bitField])
  have ht (b : Bool) (t : State) : ((timerSet i b).run t).fld (cntField i) = t.fld (cntField i) := rfl
  simp only [event, run_ask, run_seqs_cons, run_seqs_nil, run_when, run_setF, apply_ite (State.fld · (cntField i)), hp, ht,
    ite_self]
  rw [State.fld_setFld _ _ _ (cntField_ok i)]
  exact Nat.mod_eq_of_lt (satInc_lt 8 _)

/-- An edge source that is raised has been raised: its event is counted, unless the controller's clock is stopped. The count goes on
from any earlier state in which its counter and the rest of the state stood as they do when it is raised. -/
theorem raised_raise {i : Nat} (h0 : 0 < i) (h1 : i ≤ 255) (hl : sourceLevel i = false) {s s' : State} (hd : s'.dev = s.dev)
    (hf : s'.fld (cntField i) = s.fld (cntField i)) : s.Raised ((raise i).run s') i = true := by
  have hi : (i = 0 || 255 < i || sourceLevel i) = false := by simp [hl]; omega
  simp only [raise, run_ask, hi, State.Raised, decide_eq_true_eq, ← hd, ← hf]
  cases hs : s'.dev.irq.stopped
  · simp [event_cnt]
  · cases sourceAsync i <;> simp

end Sys2Proof.Machine

/-! What an access ends in, by its verdict (R424): the logged freeze of a violation, the logged collision, the answer. -/
namespace Sys2Proof.Machine

/-- `t` is `s` after a violation of master `m` at address `a` (R427). -/
structure ViolationLogged (s t : State) (m a : Nat) (wr auth : Bool) : Prop where
  frozen : t.frozen m = true
  addrLo : t.fld F.MEM_FRZLOG_LO_ADDR = a % 2 ^ 32
  addrHi : t.fld F.MEM_FRZLOG_HI_ADDR = a / 2 ^ 32 % 2 ^ 8
  master : t.fld F.MEM_FRZLOG_HI_MASTER = m
  write : t.fld F.MEM_FRZLOG_HI_WR = if wr then 1 else 0
  authority : t.fld F.MEM_FRZLOG_HI_AUTH = if auth then 1 else 0
  raised : s.Raised t 217 = true
  regs : s.KeepsRegs t [.MEM_FRZ, .MEM_FRZLOG_LO, .MEM_FRZLOG_HI, .IRQ_PEND, .IRQ_CNT]
  bytes : s.KeepsBytes t

theorem touches_violation (m a : Nat) (wr auth : Bool) :
    (violation m a wr auth).Touches [.MEM_FRZ, .MEM_FRZLOG_LO, .MEM_FRZLOG_HI, .IRQ_PEND, .IRQ_CNT] := by
  refine only_ask fun s => only_seqs ?_
  simp only [List.forall_mem_cons, List.not_mem_nil, false_imp_iff, implies_true, and_true]
  refine ⟨?_, ?_, ?_, ?_, ?_, ?_, (touches_raise 217).mono (by simp)⟩ <;> exact only_setF (by simp)

theorem violation_logged {m : Nat} (hm : m < 16) (s : State) (a : Nat) (wr auth : Bool) :
    ViolationLogged s ((violation m a wr auth).run s) m a wr auth := by
  have touches := touches_violation m a wr auth
  have keep (t : State) {f : Field} (hf : f.reg.id ∉ [.IRQ_PEND, .IRQ_CNT]) : ((raise 217).run t).fld f = t.fld f :=
    only_fld (touches_raise 217) t hf
  constructor
  case regs => exact touches.keepsRegs s
  case bytes => exact touches.keepsBytes s
  case raised =>
    simp only [violation, run_ask, run_seqs_cons, run_seqs_nil, run_setF]
    refine raised_raise (by decide) (by decide) (by decide) rfl ?_
    simp (disch := decide +kernel) only [State.fld_setFld_reg]
  all_goals
    simp only [violation, run_ask, run_seqs_cons, run_seqs_nil, run_setF, State.frozen]
    rw [keep _ (by decide)]
    simp (disch := decide +kernel) only [State.fld_setFld, State.fld_setFld_reg, State.fld_setFld_apart]
  case frozen =>
    rw [Nat.testBit_mod_two_pow]
    simp [hm]
  case master => exact Nat.mod_eq_of_lt hm
  case write => cases wr <;> rfl
  case authority => cases auth <;> rfl

/-- `t` is `s` after the writes of masters `w` and `l` have met at the word `a` (R413). -/
structure CollisionLogged (s t : State) (w l a : Nat) : Prop where
  count : t.fld F.MEM_COLL_COUNT = satInc 16 (s.fld F.MEM_COLL_COUNT)
  winner : t.fld F.MEM_COLL_WINNER = w
  loser : t.fld F.MEM_COLL_LOSER = l
  addr : t.fld F.MEM_COLLA_ADDR = a % 2 ^ 32
  raised : s.Raised t 243 = true
  regs : s.KeepsRegs t [.MEM_COLL, .MEM_COLLA, .IRQ_PEND, .IRQ_CNT]
  bytes : s.KeepsBytes t

theorem touches_collide (w l a : Nat) : (collide w l a).Touches [.MEM_COLL, .MEM_COLLA, .IRQ_PEND, .IRQ_CNT] := by
  refine only_seqs ?_
  simp only [List.forall_mem_cons, List.not_mem_nil, false_imp_iff, implies_true, and_true]
  refine ⟨only_count (by simp), ?_, ?_, ?_, ?_, (touches_raise 243).mono (by simp)⟩ <;> exact only_setF (by simp)

theorem collide_logged {w l : Nat} (hw : w < 16) (hl : l < 16) (s : State) (a : Nat) :
    CollisionLogged s ((collide w l a).run s) w l a := by
  have touches := touches_collide w l a
  have keep (t : State) {f : Field} (hf : f.reg.id ∉ [.IRQ_PEND, .IRQ_CNT]) : ((raise 243).run t).fld f = t.fld f :=
    only_fld (touches_raise 243) t hf
  constructor
  case regs => exact touches.keepsRegs s
  case bytes => exact touches.keepsBytes s
  case raised =>
    simp only [collide, run_seqs_cons, run_seqs_nil, run_setF, run_count]
    refine raised_raise (by decide) (by decide) (by decide) rfl ?_
    simp (disch := decide +kernel) only [State.fld_setFld_reg]
  all_goals
    simp only [collide, run_seqs_cons, run_seqs_nil, run_setF, run_count]
    rw [keep _ (by decide)]
    simp (disch := decide +kernel) only [State.fld_setFld, State.fld_setFld_reg, State.fld_setFld_apart]
  case count => exact Nat.mod_eq_of_lt (satInc_lt 16 _)
  case winner => exact Nat.mod_eq_of_lt hw
  case loser => exact Nat.mod_eq_of_lt hl

/-- What has been logged stays logged while registers and bytes stay. -/
theorem CollisionLogged.after {s t : State} {w l a : Nat} (h : CollisionLogged s t w l a) {q : Prog} (hq : q.Touches []) :
    CollisionLogged s (q.run t) w l a := by
  have hreg (k : RegKey) : (q.run t).reg k = t.reg k := hq.keepsRegs t k (by simp)
  have hfld (f : Field) : (q.run t).fld f = t.fld f := congrArg (fieldGet · f.lo f.w) (hreg f.reg)
  constructor
  case raised => simpa [State.Raised, hfld] using h.raised
  case regs => exact fun k hk => (hreg k).trans (h.regs k hk)
  case bytes => exact fun x => (hq.keepsBytes t x).trans (h.bytes x)
  all_goals rw [hfld]
  case count => exact h.count
  case winner => exact h.winner
  case loser => exact h.loser
  case addr => exact h.addr

/-! The verdicts -/

section
variable {p : Port} {a n : Nat} {wr : Bool} {v : Word} {ok : Prog} {go : Nat → Word → Prog} {s : State}

theorem portMaster_lt (p : Port) : portMaster p < 16 := by cases p <;> decide

/-- A frozen port master's access ends with FROZEN; only a processor's stalls (R427). -/
theorem frozenEnd_port (hm : 3 ≤ portMaster p) : frozenEnd (portMaster p) go = go 2 0 := if_neg (by omega)

theorem run_judged_frozen (h : s.frozen (portMaster p) = true) :
    (judged p a n wr v ok go).run s = (frozenEnd (portMaster p) go).run s := by
  simp [judged, h]

theorem run_judged_pass (h : s.frozen (portMaster p) = false) (hj : s.judge p a n wr v = .pass) :
    (judged p a n wr v ok go).run s = ok.run s := by
  simp [judged, h, hj]

theorem run_judged_violation {auth : Bool} (h : s.frozen (portMaster p) = false) (hj : s.judge p a n wr v = .violation auth) :
    (judged p a n wr v ok go).run s = (frozenEnd (portMaster p) go).run ((violation (portMaster p) a wr auth).run s) := by
  simp [judged, h, hj]

theorem run_judged_closed {b : Nat} (h : s.frozen (portMaster p) = false) (hj : s.judge p a n wr v = .closed b) :
    (judged p a n wr v ok go).run s = (go 0 0).run (s.setFld (F.PAGE_EXPERT_REJ b) 1) := by
  simp [judged, h, hj]

theorem run_judged_afterLock (h : s.frozen (portMaster p) = false) (hj : s.judge p a n wr v = .afterLock) :
    (judged p a n wr v ok go).run s = (go 0 0).run s := by
  simp [judged, h, hj]

/-- A frozen master's write ends so, whatever it meets. -/
theorem run_contested_frozen {rivals : List (Fin 8)} {made lose : Prog} (h : s.frozen (portMaster p) = true) :
    (contested p rivals a n v made lose go).run s = (frozenEnd (portMaster p) go).run s := by
  simp [contested, h]

/-- The writers are masters of Table 12.2, which are numbered below 8. -/
theorem writers_lt {m own : Nat} {rivals : List (Fin 8)} (h : m ∈ s.writers own rivals) : m < 8 :=
  List.mem_range.1 (List.mem_of_mem_filter h)

/-- Without rivals a master writes alone. -/
theorem eq_of_mem_writers_nil {m own : Nat} (h : m ∈ s.writers own []) : m = own := by
  simp only [State.writers, List.mem_filter, List.any_nil, Bool.false_and, Bool.or_false, decide_eq_true_eq] at h
  exact h.2

/-- The other masters whose writes have lost are answered COLLIDE (R413). -/
def loserAnswers (own : Nat) (losers : List Nat) : Prog := each losers fun m => when (m ≠ own && m ≤ 5) (answer m 1 0)

/-- The write of a port loses to a lower-numbered master's: the collision is logged once, whoever else has lost (R413, R432). -/
theorem run_contested_lost {rivals : List (Fin 8)} {made lose : Prog} {w l : Nat} {ls : List Nat}
    (h : s.frozen (portMaster p) = false) (hw : s.writers (portMaster p) rivals = w :: l :: ls) (hne : w ≠ portMaster p) :
    (contested p rivals a n v made lose go).run s =
      lose.run ((loserAnswers (portMaster p) (l :: ls)).run ((collide w l (s.clashWord a)).run s)) := by
  simp [contested, h, hw, hne, arbitrate, loserAnswers]

/-- Answers change no register and no byte. -/
theorem touches_loserAnswers (own : Nat) (losers : List Nat) : (loserAnswers own losers).Touches [] :=
  only_each fun _ _ => only_when fun _ => only_dev

end

end Sys2Proof.Machine

/-!
A write by the access types (Table 0.4): no two fields of a register share a bit, so that each takes what its own type says.
-/
namespace Sys2Proof.Machine

theorem fieldGet_lt (x : Word) (lo w : Nat) : fieldGet x lo w < 2 ^ w := Nat.mod_lt _ (Nat.two_pow_pos w)

/-- Two fields, each inside the word, that share no bit (R6). -/
abbrev FieldDesc.Apart (f g : FieldDesc) : Prop :=
  f.lo ≤ f.hi ∧ f.hi < 32 ∧ g.lo ≤ g.hi ∧ g.hi < 32 ∧ (f.hi < g.lo ∨ g.hi < f.lo)

theorem FieldDesc.Apart.symm {f g : FieldDesc} (h : f.Apart g) : g.Apart f := by
  unfold FieldDesc.Apart at *; omega

/-- A field that is set leaves the fields apart from it. -/
theorem FieldDesc.Apart.fieldGet_fieldPut {f g : FieldDesc} (h : g.Apart f) (x : Word) (n : Nat) :
    fieldGet (fieldPut x f.lo (f.hi + 1 - f.lo) n) g.lo (g.hi + 1 - g.lo) = fieldGet x g.lo (g.hi + 1 - g.lo) := by
  apply fieldGet_fieldPut_apart
  unfold FieldDesc.Apart at h; omega

/-- The write of one field more sets that field, or nothing. -/
theorem fieldsWrite_cons (old v hw : Word) (kept : List Nat) (f : FieldDesc) (l : List FieldDesc) :
    fieldsWrite old v hw kept (f :: l) = fieldsWrite old v hw kept l ∨
      ∃ n, fieldsWrite old v hw kept (f :: l) = fieldPut (fieldsWrite old v hw kept l) f.lo (f.hi + 1 - f.lo) n := by
  cases h : f.acc <;> simp only [fieldsWrite, h]
  case rw => split <;> simp
  case rwl => split <;> simp
  case ro | wo => simp
  case w1s | w1c => exact .inr ⟨_, rfl⟩

/-- A field apart from all that are written stays. -/
theorem fieldGet_fieldsWrite_apart (old v hw : Word) (kept : List Nat) {g : FieldDesc} {l : List FieldDesc}
    (h : ∀ f ∈ l, g.Apart f) :
    fieldGet (fieldsWrite old v hw kept l) g.lo (g.hi + 1 - g.lo) = fieldGet old g.lo (g.hi + 1 - g.lo) := by
  induction l with
  | nil => rfl
  | cons f l ih =>
    obtain ⟨hf, hl⟩ := List.forall_mem_cons.1 h
    rcases fieldsWrite_cons old v hw kept f l with e | ⟨n, e⟩
    · rw [e, ih hl]
    · rw [e, hf.fieldGet_fieldPut, ih hl]

/-- What a field holds after a write fits it. -/
theorem afterWrite_lt (f : FieldDesc) (old v hw : Word) : f.afterWrite old v hw < 2 ^ (f.hi + 1 - f.lo) := by
  have hold := fieldGet_lt old f.lo (f.hi + 1 - f.lo)
  have hv := fieldGet_lt v f.lo (f.hi + 1 - f.lo)
  cases h : f.acc <;> simp only [FieldDesc.afterWrite, h]
  case rw | rwl => exact hv
  case ro | wo => exact hold
  case w1s => exact Nat.or_lt_two_pow hold hv
  case w1c => exact lt_of_le_of_lt Nat.and_le_left hold

/-- The field at the head of the list holds what its access type says. -/
theorem fieldGet_fieldsWrite_head (old v hw : Word) {f : FieldDesc} {l : List FieldDesc} (hf : f.lo ≤ f.hi ∧ f.hi < 32)
    (h : ∀ g ∈ l, f.Apart g) :
    fieldGet (fieldsWrite old v hw [] (f :: l)) f.lo (f.hi + 1 - f.lo) = f.afterWrite old v hw := by
  have hput (x : Word) (n : Nat) (hn : n < 2 ^ (f.hi + 1 - f.lo)) :
      fieldGet (fieldPut x f.lo (f.hi + 1 - f.lo) n) f.lo (f.hi + 1 - f.lo) = n := by
    rw [fieldGet_fieldPut _ _ _ _ (by omega), Nat.mod_eq_of_lt hn]
  have hold := fieldGet_fieldsWrite_apart old v hw [] h
  have hlt := afterWrite_lt f old v hw
  cases ha : f.acc <;> simp only [FieldDesc.afterWrite, ha] at hlt ⊢ <;> simp only [fieldsWrite, ha, hold]
  case rw | rwl | w1s | w1c => exact hput _ _ hlt

/-- Each field of a list without common bits holds what its access type says (R11, R15). -/
theorem fieldGet_fieldsWrite (old v hw : Word) {l : List FieldDesc} (hl : ∀ f ∈ l, f.lo ≤ f.hi ∧ f.hi < 32)
    (h : l.Pairwise FieldDesc.Apart) {f : FieldDesc} (hf : f ∈ l) :
    fieldGet (fieldsWrite old v hw [] l) f.lo (f.hi + 1 - f.lo) = f.afterWrite old v hw := by
  induction l with
  | nil => simp at hf
  | cons g l ih =>
    obtain ⟨hg, hr⟩ := List.pairwise_cons.1 h
    obtain ⟨hg', hl'⟩ := List.forall_mem_cons.1 hl
    rcases List.mem_cons.1 hf with rfl | hf
    · exact fieldGet_fieldsWrite_head old v hw hg' hg
    · rcases fieldsWrite_cons old v hw [] g l with e | ⟨n, e⟩
      · rw [e, ih hl' hr hf]
      · rw [e, (hg f hf).symm.fieldGet_fieldPut, ih hl' hr hf]

/-- The bits of a field are bits of the register. -/
theorem fieldMask_and_fieldsMask {l : List FieldDesc} {f : FieldDesc} (hf : f ∈ l) :
    fieldMask f.lo (f.hi + 1 - f.lo) &&& fieldsMask l = fieldMask f.lo (f.hi + 1 - f.lo) := by
  induction l with
  | nil => simp at hf
  | cons g l ih =>
    rw [fieldsMask]
    ext i hi
    rcases List.mem_cons.1 hf with rfl | hf
    · simpa using .inl
    · have := congrArg (BitVec.getLsbD · i) (ih hf)
      simp [hi] at this
      simpa using fun h => .inr (this h)

theorem desc_fields_apart (r : RegId) :
    (∀ f ∈ r.desc.fields, f.lo ≤ f.hi ∧ f.hi < 32) ∧ r.desc.fields.Pairwise FieldDesc.Apart := by
  cases r <;> decide +kernel

/-- Every field of a register holds, after a write that refuses none, what its access type says. -/
theorem fieldGet_written (s : State) (k : RegKey) (v : Word) {f : FieldDesc} (hf : f ∈ k.id.desc.fields) :
    fieldGet (s.written k v [] &&& k.id.mask) f.lo (f.hi + 1 - f.lo) = f.afterWrite (s.reg k) v s.dev.bus.hwSets := by
  obtain ⟨hl, h⟩ := desc_fields_apart k.id
  have := hl f hf
  rw [RegId.mask, fieldGet_and _ _ _ _ (fieldMask_and_fieldsMask hf) (by omega)]
  exact fieldGet_fieldsWrite _ _ _ hl h hf

end Sys2Proof.Machine

/-! Register writes (R11 to R15, R564): what a write does at its port, and what it does to the register that it reaches. -/
namespace Sys2Proof.Machine

/-- The state while the hardware sets the bits `hw` of the register that is written (R15). Nothing else depends on them, so that
every other part of the two states is the same by definition. -/
def State.setting (s : State) (hw : Word) : State := s.modDev fun d => { d with bus := { d.bus with hwSets := hw } }

theorem run_whileSetting (hw : Word) (q : Prog) (s : State) :
    (whileSetting hw q).run s = (q.run (s.setting hw)).setting s.dev.bus.hwSets := by
  simp [whileSetting, State.setting]

section
variable {p : Port} {a : BitVec 40} {v hw : Word} {s : State} {P : State → Prop}

/-- A write that meets no other is the access of its port. -/
theorem completes_registerWrite (h : P (((busWrite p a.toNat v).run (s.setting hw)).setting s.dev.bus.hwSets)) :
    Completes (.registerWrite p a v ⟨[], hw⟩) s P :=
  ⟨_, congrArg Host.Outcome.next (run_whileSetting hw _ s), h⟩

/-- A write that meets others is the contested access of its port. -/
theorem completes_registerWrite_rivals {r : Fin 8} {rs : List (Fin 8)}
    (h : P (((busWriteAgainst p (r :: rs) a.toNat v).run (s.setting hw)).setting s.dev.bus.hwSets)) :
    Completes (.registerWrite p a v ⟨r :: rs, hw⟩) s P :=
  ⟨_, congrArg Host.Outcome.next (run_whileSetting hw _ s), h⟩

/-- A port that can issue no access does nothing. -/
theorem completes_silent {rivals : List (Fin 8)} (h : s.issues p = false) :
    Completes (.registerWrite p a v ⟨rivals, hw⟩) s fun t => t = s := by
  have h' : (s.setting hw).issues p = false := h
  cases rivals with
  | nil => exact completes_registerWrite (by rw [busWrite, run_on, h']; rfl)
  | cons r rs => exact completes_registerWrite_rivals (by rw [busWriteAgainst, run_on, h']; rfl)

/-- A port that can issue accesses has its write judged. -/
theorem completes_judged (hi : s.issues p = true)
    (h : P (((judged p a.toNat 4 true v (writePlace p a.toNat v (toMaster p)) (toMaster p)).run (s.setting hw)).setting
      s.dev.bus.hwSets)) :
    Completes (.registerWrite p a v ⟨[], hw⟩) s P := by
  have h' : (s.setting hw).issues p = true := hi
  exact completes_registerWrite (by rwa [busWrite, run_on, h'])

/-- So has one whose write meets others, unless it loses. -/
theorem completes_contested {r : Fin 8} {rs : List (Fin 8)} (hi : s.issues p = true)
    (h : P (((writeAgainst p (r :: rs) a.toNat v (toMaster p)).run (s.setting hw)).setting s.dev.bus.hwSets)) :
    Completes (.registerWrite p a v ⟨r :: rs, hw⟩) s P := by
  have h' : (s.setting hw).issues p = true := hi
  exact completes_registerWrite_rivals (by rwa [busWriteAgainst, run_on, h'])

/-- The master takes the answer that it is given. -/
theorem lastAnswer_toMaster (p : Port) (status : Nat) (w : Word) (s : State) :
    ((toMaster p status w).run s).lastAnswer p = ⟨status, w⟩ := by
  simp [toMaster, answer, State.lastAnswer]

/-- A write of a register that its port may make now: the register takes it, and the master is answered OK. -/
theorem completes_admitted {k : RegKey} (hk : k.inMap = true) (ha : a.toNat = k.addr) (h : s.admits p k v = true)
    (hP : P (((toMaster p 0 0).run ((writeOwn p k v).run (s.setting hw))).setting s.dev.bus.hwSets)) :
    Completes (.registerWrite p a v ⟨[], hw⟩) s P := by
  have hrun := run_regWrite (s := s.setting hw) hk h
  rw [regWrite, ← ha] at hrun
  exact completes_registerWrite (by rwa [hrun])

end

theorem inMap_index {k : RegKey} (h : k.inMap = true) : k.i < k.id.desc.n1 ∧ k.j < k.id.desc.n2 := by
  simp only [RegKey.inMap, Bool.and_eq_true, decide_eq_true_eq] at h
  exact h.1.1

/-- A register of a core on the first or the eighth quarter KiB of its page is a control or a sequencer register. -/
theorem writeOwn_core {k : RegKey} (hb : k.id.blk = .core) (ho : k.offset % 0x4000 / 0x100 = 0 ∨ k.offset % 0x4000 / 0x100 = 7)
    (p : Port) (v : Word) : writeOwn p k v = writeCoreB k v := by
  rcases ho with ho | ho <;> simp only [writeOwn, hb, writeCore, ho]

/-- The plain registers are written field by field, with no field refused and no action. -/
theorem writeOwn_plain {k : RegKey} (hk : k.inMap = true) (h : k.id ∈ plainRegs) (p : Port) (v : Word) :
    writeOwn p k v = plain k v [] := by
  have hoff : k.id.desc.n1 = 1 → k.id.desc.n2 = 1 → k.offset = k.id.desc.off := by
    intro h1 h2
    have := inMap_index hk
    rw [RegKey.offset, show k.i = 0 by omega, show k.j = 0 by omega]
    omega
  obtain ⟨id, u, i, j⟩ := k
  simp only [plainRegs, List.mem_cons, List.not_mem_nil, or_false] at h
  rcases h with rfl | rfl | rfl | rfl | rfl | rfl | rfl | rfl | rfl | rfl
  -- SYS_DEVID to LINE_STAT lie outside the cores; CTL_ARG, CTL_STAT and SEQ_STAT in them; PROT_STAT in a front end.
  iterate 6 rfl
  iterate 3 exact writeOwn_core rfl (by rw [hoff rfl rfl]; dsimp only; decide +kernel) p v
  rfl

theorem run_plain (k : RegKey) (v : Word) (s : State) : (plain k v []).run s = s.setReg k (s.written k v []) := by
  simp [plain, refusedBy, refusals]

/-- A register set to what it holds stays, where its reserved bits are 0, and so does every other. -/
theorem reg_setReg_own {s : State} {k : RegKey} (h : s.reg k &&& k.id.mask = s.reg k) (k' : RegKey) :
    (s.setReg k (s.reg k)).reg k' = s.reg k' := by
  rw [State.reg_setReg_if]
  split
  · rename_i e; rw [h, e]
  · rfl

/-- A write that is refused the one field that it could change leaves the register as it holds it, and sets `BADVAL` (R564). -/
theorem run_writeOwn_xbarRefused {k : RegKey} {v : Word}
    (hv : (k.id = .XBAR_MAP ∧ 68 ≤ fieldGet v 16 7) ∨ (k.id = .XBAR_GANG ∧ 5 ≤ fieldGet v 16 3)) (p : Port) (s : State) :
    (writeOwn p k v).run s = (s.setReg k (s.reg k)).setFld (F.BSTAT_BADVAL 2) 1 := by
  obtain ⟨id, u, i, j⟩ := k
  have hmap : RegId.XBAR_MAP.desc.fields = [⟨22, 16, .rw, 0, .kept⟩, ⟨6, 0, .ro, 0, .kept⟩] := by decide +kernel
  have hgang : RegId.XBAR_GANG.desc.fields = [⟨18, 16, .rw, 0, .kept⟩, ⟨2, 0, .ro, 0, .kept⟩] := by decide +kernel
  rcases hv with ⟨rfl, hv⟩ | ⟨rfl, hv⟩
  · simp [writeOwn, RegId.blk, writeXbar, plain, refusedBy, refusals, State.written, hmap, fieldsWrite, hv, badVal,
      RegKey.blockNumber, Blk.number]
  · simp [writeOwn, RegId.blk, writeXbar, plain, refusedBy, refusals, State.written, hgang, fieldsWrite, hv, badVal,
      RegKey.blockNumber, Blk.number]

/-- The `_LO` word `k` is no longer held. -/
def State.unhold (s : State) (k : RegKey) : State :=
  s.modDev fun d => { d with bus := { d.bus with held := d.bus.held.filter fun e => e.1 != k } }

/-- The low half of a 64-bit quantity. -/
theorem ofNat_low (lo hi : Word) : BitVec.ofNat 32 (lo.toNat + 2 ^ 32 * hi.toNat) = lo := by
  apply BitVec.eq_of_toNat_eq
  rw [BitVec.toNat_ofNat, Nat.add_mul_mod_self_left]
  exact Nat.mod_eq_of_lt lo.isLt

/-- The high half of a 64-bit quantity. -/
theorem ofNat_high (lo hi : Word) : BitVec.ofNat 32 ((lo.toNat + 2 ^ 32 * hi.toNat) / 2 ^ 32) = hi := by
  rw [Nat.add_mul_div_left _ _ (by decide), Nat.div_eq_of_lt lo.isLt, Nat.zero_add, BitVec.ofNat_toNat, BitVec.setWidth_eq]

/-- The `_HI` word takes the `_LO` word held with it to the pair of registers (R9). -/
theorem run_widePlain {lo hi : RegKey} {v low : Word} {s : State}
    (h : s.dev.bus.held.find? (fun e : RegKey × Word => e.1 = lo) = some (lo, low)) :
    (widePlain lo hi v).run s = ((s.unhold lo).setReg lo low).setReg hi v := by
  simp only [widePlain, wide, run_ask, h, Option.map_some, Option.getD_some, run_seqs_cons, run_seqs_nil, run_dev, run_set64,
    ofNat_low, ofNat_high]
  rfl

/-- A word that is no longer held is not found. -/
theorem find_unhold (s : State) (k : RegKey) :
    (s.unhold k).dev.bus.held.find? (fun e : RegKey × Word => e.1 = k) = none := by
  simp [State.unhold, List.find?_eq_none]

/-- The MAC address is written as one: its `_HI` word takes the `_LO` word with it, and no other register (R9). -/
theorem writeMacHi_spec (p : Port) (v : Word) {low : Word} {s : State}
    (h : s.dev.bus.held.find? (fun e : RegKey × Word => e.1 = R.LINE_MAC_LO) = some (R.LINE_MAC_LO, low)) :
    let t := (writeOwn p R.LINE_MAC_HI v).run s
    t.reg R.LINE_MAC_LO = low ∧ t.reg R.LINE_MAC_HI = v &&& 0xFFFF ∧
      t.dev.bus.held.find? (fun e : RegKey × Word => e.1 = R.LINE_MAC_LO) = none ∧
      s.KeepsRegs t [.LINE_MAC_LO, .LINE_MAC_HI] ∧ s.KeepsBytes t := by
  have hmaskLo : R.LINE_MAC_LO.id.mask = BitVec.allOnes 32 := by decide +kernel
  have hmaskHi : R.LINE_MAC_HI.id.mask = 0xFFFF := by decide +kernel
  have hrun : (writeOwn p R.LINE_MAC_HI v).run s = _ := run_widePlain h
  rw [hrun]
  refine ⟨?_, ?_, find_unhold s _, fun k hk => ?_, fun _ => rfl⟩
  · rw [State.reg_setReg_other _ _ _ _ (by decide), State.reg_setReg, hmaskLo, BitVec.and_allOnes]
  · rw [State.reg_setReg, hmaskHi]
  · rw [State.reg_setReg_other, State.reg_setReg_other]
    · rfl
    all_goals rintro rfl; simp at hk

/-- Settles O5: each clause is one way that a write can end; the rule of the bus for that end says what it leaves, and where the
write is made, the rule of the register says what it takes. -/
theorem registerWritesFollowTheirAccessTypes : Obligations.RegisterWritesFollowTheirAccessTypes := by
  refine ⟨?plain, ?refused, ?low, ?high, ?silent, ?frozen, ?violation, ?closed, ?afterLock, ?collision⟩
  case plain =>
    intro s p a v hw k hk ha hp had
    refine completes_admitted hk ha had ?_
    rw [writeOwn_plain hk hp, run_plain]
    have hr := State.reg_setReg (s.setting hw) k ((s.setting hw).written k v [])
    refine ⟨fun f hf => ?_, ?_, fun k2 h2 => State.reg_setReg_other _ _ _ _ h2, lastAnswer_toMaster _ _ _ _, fun _ => rfl⟩
    · exact (congrArg (fieldGet · _ _) hr).trans (fieldGet_written (s.setting hw) k v hf)
    · refine (congrArg (· &&& k.id.mask) hr).trans (Eq.trans ?_ hr.symm)
      simp only [BitVec.and_assoc, BitVec.and_self]
  case refused =>
    intro s p a v hw k hk ha hv had hm
    refine completes_admitted hk ha had ?_
    rw [run_writeOwn_xbarRefused hv]
    have hkeep (k2 : RegKey) (h2 : k2.id ∉ [RegId.BSTAT]) :
        (((s.setting hw).setReg k (s.reg k)).setFld (F.BSTAT_BADVAL 2) 1).reg k2 = s.reg k2 :=
      (State.reg_setReg_other _ _ _ _ (by rintro rfl; simp at h2)).trans (reg_setReg_own (s := s.setting hw) hm k2)
    refine ⟨hkeep k (by rcases hv with ⟨h, -⟩ | ⟨h, -⟩ <;> simp [h]), ?_, lastAnswer_toMaster _ _ _ _, hkeep, fun _ => rfl⟩
    exact State.fld_setFld _ _ _ (by decide +kernel)
  case low =>
    intro s p a v hw ha had
    refine completes_admitted (by decide +kernel) ha had ?_
    exact ⟨List.find?_cons_of_pos (by simp), lastAnswer_toMaster _ _ _ _, rfl, fun _ => rfl⟩
  case high =>
    intro s p a v hw lo ha had hlo
    refine completes_admitted (by decide +kernel) ha had ?_
    obtain ⟨hLo, hHi, hheld, hregs, hbytes⟩ := writeMacHi_spec p v (s := s.setting hw) hlo
    generalize (writeOwn p R.LINE_MAC_HI v).run (s.setting hw) = t at hLo hHi hheld hregs hbytes ⊢
    exact ⟨hLo, hHi, hheld, lastAnswer_toMaster _ _ _ _, hregs, hbytes⟩
  case silent => exact fun s p a v hw rivals hi => completes_silent hi
  case frozen =>
    intro s p a v hw rivals hi hf hm
    have hf' : (s.setting hw).frozen (portMaster p) = true := hf
    cases rivals with
    | nil =>
      refine completes_judged hi ?_
      rw [run_judged_frozen hf', frozenEnd_port hm]
      exact ⟨lastAnswer_toMaster _ _ _ _, rfl, fun _ => rfl⟩
    | cons r rs =>
      refine completes_contested hi ?_
      rw [writeAgainst, run_contested_frozen hf', frozenEnd_port hm]
      exact ⟨lastAnswer_toMaster _ _ _ _, rfl, fun _ => rfl⟩
  case violation =>
    intro s p a v hw auth hi hf hm hj
    refine completes_judged hi ?_
    rw [run_judged_violation (s := s.setting hw) hf hj, frozenEnd_port hm]
    have h := violation_logged (portMaster_lt p) (s.setting hw) a.toNat true auth
    generalize (violation (portMaster p) a.toNat true auth).run (s.setting hw) = t at h ⊢
    exact ⟨h.frozen, h.addrLo, h.addrHi.trans (Nat.mod_eq_of_lt (by omega)), h.master, h.write, h.authority, h.raised,
      lastAnswer_toMaster _ _ _ _, h.regs, h.bytes⟩
  case closed =>
    intro s p a v hw b hi hf hj
    refine completes_judged hi ?_
    rw [run_judged_closed (s := s.setting hw) hf hj]
    refine ⟨State.fld_setFld _ _ _ ?_, lastAnswer_toMaster _ _ _ _, fun k hk => ?_, fun _ => rfl⟩
    · exact (by decide +kernel : (F.PAGE_EXPERT_REJ 0).ok = true)
    · exact State.reg_setReg_other _ _ _ _ (by rintro rfl; simp at hk)
  case afterLock =>
    intro s p a v hw hi hf hj
    refine completes_judged hi ?_
    rw [run_judged_afterLock (s := s.setting hw) hf hj]
    exact ⟨lastAnswer_toMaster _ _ _ _, rfl, fun _ => rfl⟩
  case collision =>
    intro s p a v hw rivals w l ls hi hf hws hne
    have hmem : w ∈ s.writers (portMaster p) rivals ∧ l ∈ s.writers (portMaster p) rivals := by simp [hws]
    have hw8 := writers_lt hmem.1
    have hl8 := writers_lt hmem.2
    cases rivals with
    | nil => exact absurd (eq_of_mem_writers_nil hmem.1) hne
    | cons r rs =>
      refine completes_contested hi ?_
      rw [writeAgainst, run_contested_lost (s := s.setting hw) hf hws hne]
      have h := (collide_logged (w := w) (l := l) (by omega) (by omega) (s.setting hw) ((s.setting hw).clashWord a.toNat)).after
        (touches_loserAnswers (portMaster p) (l :: ls))
      generalize (loserAnswers (portMaster p) (l :: ls)).run _ = t at h ⊢
      exact ⟨h.count, h.winner, h.loser, h.addr, h.raised, lastAnswer_toMaster _ _ _ _, h.regs, h.bytes⟩

end Sys2Proof.Machine

/-! Reads of 64-bit quantities (R9): what a read ends in, and the copy of the `_HI` word. -/
namespace Sys2Proof.Machine

section
variable {p : Port} {a : BitVec 40} {s : State} {P : State → Prop}

/-- A port that can issue accesses has its read judged. -/
theorem completes_read_judged (hi : s.issues p = true)
    (h : P ((judged p a.toNat 4 false 0 (readPlace (portMaster p) a.toNat (toMaster p)) (toMaster p)).run s)) :
    Completes (.loWordReadShadow p a) s P :=
  ⟨_, congrArg Host.Outcome.next (by rw [busRead, run_on, if_pos hi, readAt]), h⟩

/-- A read that its port may make now reaches its place. -/
theorem completes_read_admitted (ha : s.admitsRead p a.toNat = true)
    (h : P ((readPlace (portMaster p) a.toNat (toMaster p)).run s)) : Completes (.loWordReadShadow p a) s P := by
  simp only [State.admitsRead, Bool.and_eq_true, Bool.not_eq_true', decide_eq_true_eq] at ha
  obtain ⟨⟨hi, hf⟩, hj⟩ := ha
  exact completes_read_judged hi (by rwa [run_judged_pass hf hj])

/-- A closed EXPERT page reads 0 (R41). -/
theorem run_readPlace_closed {m x b off : Nat} {k : RegKey} {via : Via} {go : Nat → Word → Prog} (hp : s.place x = .block b off)
    (hk : regVia b off = some (k, via)) (he : expertOffset off = true) (hc : s.pageOpen b = false) :
    (readPlace m x go).run s = (go 0 0).run s := by
  simp [readPlace, hp, hk, he, hc]

/-- A register outside the EXPERT pages is read at its address. -/
theorem run_readPlace_register {m : Nat} {k : RegKey} {go : Nat → Word → Prog} (hk : k.inMap = true)
    (he : expertOffset k.offset = false) : (readPlace m k.addr go).run s = (readReg m k (go 0)).run s := by
  simp [readPlace, place_addr s hk, regVia_own hk, he]

/-- A word that the master has latched is read, and is gone. -/
theorem run_readReg_latched {m : Nat} {k : RegKey} {w : Word} {go : Word → Prog} (h : s.latched m k = some w) :
    (readReg m k go).run s = (go w).run ((unlatch m [k]).run s) := by
  simp [readReg, h]

/-- A latched word that is gone is found no more. -/
theorem latched_unlatch (m : Nat) (k : RegKey) : ((unlatch m [k]).run s).latched m k = none := by
  simpa [unlatch, State.latched, List.find?_eq_none] using fun _ _ _ _ h hm => h.resolve_left (not_not.2 hm)

/-- The pairs of 64-bit quantities that are plain registers or the time: a `_LO` word and its `_HI` word. -/
def wordPairs : List (RegKey × RegKey) :=
  [(R.LT_NOW_LO, R.LT_NOW_HI), (R.LT_BEAT_LO, R.LT_BEAT_HI), (R.SYS_SQL_LAST_LO, R.SYS_SQL_LAST_HI),
    (R.MEM_FRZLOG_LO, R.MEM_FRZLOG_HI), (R.LINE_MAC_LO, R.LINE_MAC_HI), (R.MON_LIFE_LO, R.MON_LIFE_HI)]

/-- Each word of the pairs has its address outside the EXPERT pages, and a read of the `_LO` word latches the `_HI` word. -/
theorem wordPairs_inMap : ∀ x ∈ wordPairs, (x.1.inMap = true ∧ expertOffset x.1.offset = false) ∧
    (x.2.inMap = true ∧ expertOffset x.2.offset = false) ∧ latchesOf x.1 = [x.2] := by decide +kernel

/-- What a register reads as does not depend on what has been latched. -/
theorem view_unlatch (m : Nat) (ks : List RegKey) (k : RegKey) : ((unlatch m ks).run s).view k = s.view k := rfl

/-- A read of a register that latches one other leaves the master a copy of it in place of an older one (R9). -/
theorem run_latchFor {m : Nat} {lo hi : RegKey} (h : latchesOf lo = [hi]) :
    (latchFor m lo).run s = ((unlatch m [hi]).run s).modDev fun d =>
      { d with bus := { d.bus with shadow := (m, hi, s.view hi) :: d.bus.shadow } } := by
  simp only [latchFor, h, run_seqs_cons, run_seqs_nil, run_ask, run_dev, view_unlatch]
  rfl

/-- A `_LO` word that the master has not latched reads as the register's view, and its `_HI` word is latched. -/
theorem run_readReg_low {m : Nat} {lo hi : RegKey} {go : Word → Prog} (hmem : (lo, hi) ∈ wordPairs) (h : s.latched m lo = none) :
    (readReg m lo go).run s = (go (s.view lo)).run ((latchFor m lo).run s) := by
  simp only [wordPairs, List.mem_cons, List.not_mem_nil, or_false, Prod.mk.injEq] at hmem
  rcases hmem with ⟨rfl, rfl⟩ | ⟨rfl, rfl⟩ | ⟨rfl, rfl⟩ | ⟨rfl, rfl⟩ | ⟨rfl, rfl⟩ | ⟨rfl, rfl⟩ <;>
    simp [readReg, h, settleRead, blockRead, State.blockWords, viewed]

end

/-- Settles O6: a read ends as its verdict says; of a pair, the `_LO` word leaves a copy of the `_HI` word to the master, and the
copy is read once. -/
theorem lowWordReadsLatchTheHighWord : Obligations.LowWordReadsLatchTheHighWord := by
  refine ⟨?low, ?high, ?closed, ?frozen, ?violation⟩
  case low =>
    intro s p a lo hi hmem ha had hl
    obtain ⟨⟨hlo, he⟩, -, hlatch⟩ := wordPairs_inMap (lo, hi) hmem
    refine completes_read_admitted (ha ▸ had) ?_
    rw [ha, run_readPlace_register hlo he, run_readReg_low hmem hl, run_latchFor hlatch]
    exact ⟨lastAnswer_toMaster _ _ _ _, congrArg (Option.map _) (List.find?_cons_of_pos (by simp)), rfl, fun _ => rfl⟩
  case high =>
    intro s p a lo hi w hmem ha had hl
    obtain ⟨-, ⟨hhi, he⟩, -⟩ := wordPairs_inMap (lo, hi) hmem
    refine completes_read_admitted (ha ▸ had) ?_
    rw [ha, run_readPlace_register hhi he, run_readReg_latched hl]
    exact ⟨lastAnswer_toMaster _ _ _ _, latched_unlatch _ _, rfl, fun _ => rfl⟩
  case closed =>
    intro s p a b off k via had hp hk he hc
    refine completes_read_admitted had ?_
    rw [run_readPlace_closed hp hk he hc]
    exact ⟨lastAnswer_toMaster _ _ _ _, rfl, fun _ => rfl⟩
  case frozen =>
    intro s p a hi hf hm
    refine completes_read_judged hi ?_
    rw [run_judged_frozen hf, frozenEnd_port hm]
    exact ⟨lastAnswer_toMaster _ _ _ _, rfl, fun _ => rfl⟩
  case violation =>
    intro s p a auth hi hf hm hj
    refine completes_read_judged hi ?_
    rw [run_judged_violation hf hj, frozenEnd_port hm]
    have h := violation_logged (portMaster_lt p) s a.toNat false auth
    generalize (violation (portMaster p) a.toNat false auth).run s = t at h ⊢
    exact ⟨h.frozen, h.addrLo, h.master, h.write, h.authority, h.raised, lastAnswer_toMaster _ _ _ _, h.regs, h.bytes⟩

end Sys2Proof.Machine

/-! Footprints of one core or front end, and what registers hold once they have been set for a boundary. -/
namespace Sys2Proof.Machine

/-- The program sets registers named in `own` in core or front end `u` only, and no byte of memory. -/
def Prog.TouchesAt (p : Prog) (u : Nat) (own : List RegId) : Prop := p.Only (fun k => k.id ∈ own ∧ k.u = u) (fun _ => False)

theorem Prog.TouchesAt.keeps {p : Prog} {u : Nat} {own : List RegId} (h : p.TouchesAt u own) (s : State) :
    s.KeepsRegsAt (p.run s) u own [] ∧ s.KeepsBytes (p.run s) :=
  ⟨fun _ hk _ => only_reg h s hk, fun _ => only_byte h s id⟩

theorem only_seqs_nil {Q : RegKey → Prop} {A : Nat → Prop} : (seqs []).Only Q A := trivial

theorem only_seqs_cons {Q : RegKey → Prop} {A : Nat → Prop} {p : Prog} {l : List Prog} (hp : p.Only Q A) (hl : (seqs l).Only Q A) :
    (seqs (p :: l)).Only Q A := only_seq hp hl

theorem only_unraw {Q : RegKey → Prop} {A : Nat → Prop} {ks : List RegKey} : (unraw ks).Only Q A := trivial

theorem only_setLater {Q : RegKey → Prop} {A : Nat → Prop} {c : Nat} {r : RegKey} {w : Word} (h : Q r) :
    (setLater c r w).Only Q A :=
  only_seqs_cons (only_setR h) <| only_seqs_cons (only_ask fun s => by split <;> exact only_dev) only_seqs_nil

/-- A register that takes effect at a boundary holds its word at once; every other register stays. -/
@[simp] theorem setLater_reg (c : Nat) (r k : RegKey) (w : Word) (s : State) :
    ((setLater c r w).run s).reg k = if k = r then w &&& r.id.mask else s.reg k := by
  rw [← State.reg_setReg_if]
  simp only [setLater, run_seqs_cons, run_seqs_nil, run_setR, run_ask]
  split <;> rfl

theorem setLater_fld_other (c : Nat) {r : RegKey} (w : Word) (s : State) {f : Field} (h : f.reg ≠ r) :
    ((setLater c r w).run s).fld f = s.fld f := by
  rw [State.fld, setLater_reg, if_neg h, State.fld]

@[simp] theorem unraw_fld (ks : List RegKey) (f : Field) (s : State) : ((unraw ks).run s).fld f = s.fld f := rfl

@[simp] theorem unraw_reg (ks : List RegKey) (k : RegKey) (s : State) : ((unraw ks).run s).reg k = s.reg k := rfl

theorem State.reg_setFld_other (s : State) {f : Field} {k : RegKey} (n : Nat) (h : k ≠ f.reg) : (s.setFld f n).reg k = s.reg k :=
  State.reg_setReg_other _ _ _ _ h

theorem State.fld_setReg_other (s : State) {k : RegKey} {f : Field} (w : Word) (h : f.reg ≠ k) : (s.setReg k w).fld f = s.fld f := by
  rw [State.fld, State.reg_setReg_other _ _ _ _ h, State.fld]

/-- A field that a word covers is read from the word. -/
theorem fld_of_reg {s : State} {f : Field} {w : Word} (h : s.reg f.reg = w &&& f.reg.id.mask) (hf : f.ok = true) :
    s.fld f = fieldGet w f.lo f.w := by
  simp only [Field.ok, Bool.and_eq_true, decide_eq_true_eq, beq_iff_eq] at hf
  rw [State.fld, h, fieldGet_and _ _ _ _ hf.2 hf.1]

/-- The lowest field of a word holds a number that fits it. -/
theorem fieldGet_ofNat {n w : Nat} (h : n < 2 ^ w) (hw : w ≤ 32) : fieldGet (BitVec.ofNat 32 n) 0 w = n := by
  have : n < 2 ^ 32 := lt_of_lt_of_le h (Nat.pow_le_pow_right (by decide) hw)
  rw [fieldGet, BitVec.toNat_ofNat, Nat.mod_eq_of_lt this, Nat.shiftRight_zero, Nat.mod_eq_of_lt h]

/-- A field of a register stays inside the bits that the register has. -/
theorem fieldPut_and {x m : Word} {lo w : Nat} (n : Nat) (hx : x &&& m = x) (h : fieldMask lo w &&& m = fieldMask lo w) :
    fieldPut x lo w n &&& m = fieldPut x lo w n := by
  apply BitVec.eq_of_toNat_eq
  apply Nat.eq_of_testBit_eq
  intro i
  have hxi := congrArg (fun v : Word => v.toNat.testBit i) hx
  have hmi := congrArg (fun v : Word => v.toNat.testBit i) h
  simp only [BitVec.toNat_and, Nat.testBit_and, fieldMask_testBit] at hxi hmi
  rw [BitVec.toNat_and, Nat.testBit_and, fieldPut_testBit]
  split
  · rename_i hi
    simp_all
  · exact hxi

theorem leNat_lt (l : List Byte) : leNat l < 256 ^ l.length := by
  induction l with
  | nil => simp [leNat]
  | cons b l ih =>
    have := b.isLt
    rw [leNat, List.length_cons, Nat.pow_succ]
    omega

theorem entryNum_lt (e : List Byte) (a n : Nat) : entryNum e a n < 256 ^ n :=
  lt_of_lt_of_le (leNat_lt _) (Nat.pow_le_pow_right (by decide) (List.length_take_le _ _))

end Sys2Proof.Machine

/-! Profile selections (R43, R121, R163, R196, R342, R343): what a valid entry loads, and what a refusal leaves. -/
namespace Sys2Proof.Machine

theorem inMap_selectorKey (sel : Selector) : (selectorKey sel).inMap = true := by
  have h : ∀ r ∈ [RegId.TG_PROF, .CONV_PROF, .CAP_PROF, .VLOOP_PROF], r.desc.n1 = 1 ∧ r.desc.n2 = 1 := by decide +kernel
  have hm : RegId.MASK_SEL.desc.n1 = 4 ∧ RegId.MASK_SEL.desc.n2 = 1 := by decide +kernel
  cases sel <;> simp [selectorKey, RegKey.inMap, RegId.blk, h, hm]

section
variable {s : State} {p : Port} {w : Word} {P : State → Prop}

/-- A port that may write a profile register makes the selection, and its master is answered OK. -/
theorem completes_profileSelect {sel : Selector} (h : s.admits p (selectorKey sel) w = true)
    (hP : P ((toMaster p 0 0).run ((writeOwn p (selectorKey sel) w).run s))) : Completes (.profileSelect p sel ⟨w, none⟩) s P := by
  refine ⟨_, rfl, ?_⟩
  rw [run_seqs_cons, run_seqs_cons, run_seqs_nil, run_done, run_regWrite (inMap_selectorKey sel) h]
  exact hP

theorem toMaster_fld (p : Port) (status : Nat) (w : Word) (s : State) (f : Field) :
    ((toMaster p status w).run s).fld f = s.fld f := rfl

/-- `t` is `s` after port `p` has named a profile that block `b` cannot load (R13, R43). -/
structure ProfileRefused (s t : State) (p : Port) (b : Nat) : Prop where
  badVal : t.fld (F.BSTAT_BADVAL b) = 1
  reqs : t.dev.reqs = s.dev.reqs
  cores : t.dev.cores = s.dev.cores
  answered : t.lastAnswer p = ⟨0, 0⟩
  regs : s.KeepsRegs t [.BSTAT]
  bytes : s.KeepsBytes t

theorem profileRefused (s : State) (p : Port) (b : Nat) :
    ProfileRefused s ((toMaster p 0 0).run ((badVal b).run s)) p b where
  badVal := State.fld_setFld _ _ _ (by decide +kernel : (F.BSTAT_BADVAL 0).ok = true)
  reqs := rfl
  cores := rfl
  answered := lastAnswer_toMaster _ _ _ _
  regs := fun k hk => State.reg_setReg_other _ _ _ _ (by rintro rfl; simp at hk)
  bytes := fun _ => rfl

end

/-! The registers of the pages of a core are written by the parts of the model that give them a meaning. -/

theorem writeOwn_coreA {k : RegKey} (hb : k.id.blk = .core) (ho : k.offset % 0x4000 / 0x100 ∈ [1, 2, 3, 4, 5]) (p : Port)
    (v : Word) : writeOwn p k v = writeCoreA k v := by
  simp only [List.mem_cons, List.not_mem_nil, or_false] at ho
  rcases ho with ho | ho | ho | ho | ho <;> simp only [writeOwn, hb, writeCore, ho]

theorem writeOwn_coreC {k : RegKey} (hb : k.id.blk = .core) (ho : k.offset % 0x4000 / 0x100 ∈ [9, 10, 11]) (p : Port)
    (v : Word) : writeOwn p k v = writeCoreC k v := by
  simp only [List.mem_cons, List.not_mem_nil, or_false] at ho
  rcases ho with ho | ho | ho <;> simp only [writeOwn, hb, writeCore, ho]

theorem writeOwn_drive (p : Port) (k : Nat) (w : Word) : writeOwn p (R.TG_PROF k) w = selectDrive k (fieldGet w 0 4) :=
  writeOwn_coreA (k := R.TG_PROF k) rfl (by decide +kernel : (R.TG_PROF 0).offset % 0x4000 / 0x100 ∈ [1, 2, 3, 4, 5]) p w

theorem writeOwn_conv (p : Port) (k : Nat) (w : Word) : writeOwn p (R.CONV_PROF k) w = selectConv k (fieldGet w 0 4) :=
  writeOwn_coreA (k := R.CONV_PROF k) rfl (by decide +kernel : (R.CONV_PROF 0).offset % 0x4000 / 0x100 ∈ [1, 2, 3, 4, 5]) p w

theorem writeOwn_capture (p : Port) (k : Nat) (w : Word) : writeOwn p (R.CAP_PROF k) w = selectCapture k (fieldGet w 0 4) :=
  writeOwn_coreC (k := R.CAP_PROF k) rfl (by decide +kernel : (R.CAP_PROF 0).offset % 0x4000 / 0x100 ∈ [9, 10, 11]) p w

theorem writeOwn_mask (p : Port) (k : Nat) (i : Fin 4) (w : Word) : writeOwn p (R.MASK_SEL k i) w = writeMaskSel k i w :=
  writeOwn_coreC (k := R.MASK_SEL k i) rfl ((by decide +kernel : ∀ i : Fin 4, (R.MASK_SEL 0 i).offset % 0x4000 / 0x100 ∈ [9, 10, 11]) i) p w

theorem writeOwn_loop (p : Port) (n : Nat) (w : Word) : writeOwn p (R.VLOOP_PROF n) w = selectLoop n (fieldGet w 0 4) := rfl

/-! Drive profiles (R121, R86) -/

theorem deadTime_lt (s : State) (k : Nat) {n : Nat} (h : n < 2 ^ 16) : s.deadTime k n < 2 ^ 16 := by
  have := fieldGet_lt (s.reg ⟨.TG_DTMIN, k, 0, 0⟩) 0 16
  simp only [State.deadTime, State.dtMin, State.fld]
  omega

/-- Dead times go by `TG.DTMIN` alone. -/
theorem deadTime_congr {s t : State} {k : Nat} (h : t.reg (R.TG_DTMIN k) = s.reg (R.TG_DTMIN k)) (n : Nat) :
    t.deadTime k n = s.deadTime k n := by
  simp only [State.deadTime, State.dtMin, State.fld, h]

theorem effDt_reg_dt (k lh hl : Nat) (s : State) : ((effDt k lh hl).run s).reg (R.TG_DT k) =
    fieldPut (fieldPut 0 16 16 (s.deadTime k lh)) 0 16 (s.deadTime k hl) &&& (R.TG_DT k).id.mask := by
  simp [effDt]

theorem effDt_reg_other (k lh hl : Nat) (s : State) {x : RegKey} (h : x.id ∉ [RegId.TG_DT, .TG_STAT]) :
    ((effDt k lh hl).run s).reg x = s.reg x := by
  have hx : x ≠ R.TG_DT k ∧ x ≠ (F.TG_STAT_CLAMPED k).reg := by constructor <;> rintro rfl <;> simp at h
  simp only [effDt, run_ask, run_seqs_cons, run_seqs_nil, run_when, run_setB, setLater_reg, if_neg hx.1]
  split
  · exact State.reg_setReg_other _ _ _ _ hx.2
  · rfl

/-- The two dead times are clamped and stand in their fields (R86). -/
theorem effDt_flds (k lh hl : Nat) (s : State) :
    ((effDt k lh hl).run s).fld (F.TG_DT_DT_LH k) = s.deadTime k lh % 2 ^ 16 ∧
      ((effDt k lh hl).run s).fld (F.TG_DT_DT_HL k) = s.deadTime k hl % 2 ^ 16 := by
  have hlh : (F.TG_DT_DT_LH k).ok = true := (by decide +kernel : (F.TG_DT_DT_LH 0).ok = true)
  have hhl : (F.TG_DT_DT_HL k).ok = true := (by decide +kernel : (F.TG_DT_DT_HL 0).ok = true)
  have hdt := effDt_reg_dt k lh hl s
  rw [fld_of_reg hdt hlh, fld_of_reg hdt hhl, fieldGet_fieldPut_apart _ _ _ _ _ _ (by simp), fieldGet_fieldPut _ _ _ _ (by decide),
    fieldGet_fieldPut _ _ _ _ (by decide)]
  exact ⟨rfl, rfl⟩

theorem effDt_fld_other (k lh hl : Nat) (s : State) {f : Field} (h : f.reg.id ∉ [RegId.TG_DT, .TG_STAT]) :
    ((effDt k lh hl).run s).fld f = s.fld f := by
  rw [State.fld, effDt_reg_other _ _ _ _ h, State.fld]

theorem only_effDt {Q : RegKey → Prop} {A : Nat → Prop} {k lh hl : Nat} (h1 : Q (R.TG_DT k)) (h2 : Q (F.TG_STAT_CLAMPED k).reg) :
    (effDt k lh hl).Only Q A :=
  only_ask fun _ => only_seqs_cons (only_when fun _ => only_setB h2) <| only_seqs_cons (only_setLater h1) only_seqs_nil

/-- A valid drive profile is loaded: the index, and the registers that it covers. -/
theorem selectDrive_loads {s : State} {i : Nat} {e : List Byte} (k : Nat) (hi : i < 16) (he : e = s.dev.image.drive.get [] i)
    (hok : driveEntryOk e = true) :
    let t := (selectDrive k i).run s
    t.fld (F.TG_PROF_IDX k) = i ∧ t.fld (F.TG_PERIOD_CYC k) = entryNum e 0 4 ∧
      t.fld (F.TG_DT_DT_LH k) = s.deadTime k (entryNum e 6 2) ∧ t.fld (F.TG_DT_DT_HL k) = s.deadTime k (entryNum e 4 2) ∧
      t.reg (R.TG_PULSE k) = fieldPut (fieldPut 0 16 10 (entryNum e 10 2)) 0 10 (entryNum e 8 2) ∧
      t.reg (R.TG_DMAX k) = BitVec.ofNat 32 (entryNum e 12 2) &&& (R.TG_DMAX k).id.mask ∧
      t.reg (R.FMT_OCLIM k) = BitVec.ofNat 32 (entryNum e 14 1) &&& (R.FMT_OCLIM k).id.mask ∧
      s.KeepsRegsAt t k [.TG_PROF, .TG_PERIOD, .TG_DT, .TG_PULSE, .TG_DMAX, .FMT_OCLIM, .TG_STAT] [] ∧ s.KeepsBytes t := by
  have hdrive : s.driveOk i = true := by simp [State.driveOk, hi, ← he, hok]
  have hp : entryNum e 0 4 < 2 ^ 15 := by
    simp only [driveEntryOk, periodOk, Bool.and_eq_true, decide_eq_true_eq] at hok
    omega
  simp only [selectDrive, run_ask, hdrive, if_true, ← he]
  refine ⟨?idx, ?period, ?lh, ?hl, ?pulse, ?dmax, ?oclim, ?frame⟩
  case frame =>
    refine Prog.TouchesAt.keeps ?_ s
    refine only_seqs_cons (only_setF ?_) <| only_seqs_cons only_unraw <| only_seqs_cons (only_setLater ?_) <|
      only_seqs_cons (only_effDt ?_ ?_) <| only_seqs_cons (only_setLater ?_) <| only_seqs_cons (only_setLater ?_) <|
      only_seqs_cons (only_setLater ?_) only_seqs_nil <;> simp
  all_goals simp only [run_seqs_cons, run_seqs_nil]
  case idx =>
    have hf : (F.TG_PROF_IDX k).ok = true := (by decide +kernel : (F.TG_PROF_IDX 0).ok = true)
    simp only [setLater_fld_other, effDt_fld_other, unraw_fld, run_setF, ne_eq, RegKey.mk.injEq, reduceCtorEq, false_and,
      not_false_eq_true, List.mem_cons, List.not_mem_nil, or_self, State.fld_setFld _ _ _ hf]
    exact Nat.mod_eq_of_lt hi
  case period =>
    have hf : (F.TG_PERIOD_CYC k).ok = true := (by decide +kernel : (F.TG_PERIOD_CYC 0).ok = true)
    rw [fld_of_reg (w := BitVec.ofNat 32 (entryNum e 0 4)) (by simp [effDt_reg_other]) hf]
    exact fieldGet_ofNat hp (by simp)
  case lh | hl =>
    have h (a : Nat) := deadTime_lt s k (entryNum_lt e a 2)
    simp only [setLater_fld_other, ne_eq, RegKey.mk.injEq, reduceCtorEq, false_and, not_false_eq_true, effDt_flds]
    rw [deadTime_congr (s := s) (by simp [State.reg_setFld_other])]
    exact Nat.mod_eq_of_lt (h _)
  case pulse =>
    have hm : RegId.TG_PULSE.mask = 0x03FF03FF := by decide +kernel
    simp only [setLater_reg, RegKey.mk.injEq, reduceCtorEq, false_and, if_false, if_true, hm]
    exact fieldPut_and _ (fieldPut_and _ (by decide) (by decide)) (by decide)
  case dmax => simp
  case oclim => simp

/-! Loop profiles (R163) -/

/-- A valid loop profile is loaded: the index, and the registers that it covers. -/
theorem selectLoop_loads {s : State} {i : Nat} {e : List Byte} (n : Nat) (hi : i < 16) (he : e = s.dev.image.loop.get [] i)
    (hok : loopEntryOk e = true) :
    let t := (selectLoop n i).run s
    t.fld (F.VLOOP_PROF_IDX n) = i ∧ t.reg (R.VLOOP_CFG n) = BitVec.ofNat 32 (entryNum e 0 4) &&& (R.VLOOP_CFG n).id.mask ∧
      t.reg (R.VLOOP_SCOMP n) = BitVec.ofNat 32 (entryNum e 4 2) &&& (R.VLOOP_SCOMP n).id.mask ∧
      t.reg (R.PROT_FILT n) = BitVec.ofNat 32 (entryNum e 6 1) &&& (R.PROT_FILT n).id.mask ∧
      s.KeepsRegsAt t n [.VLOOP_PROF, .VLOOP_CFG, .VLOOP_SCOMP, .PROT_FILT] [] ∧ s.KeepsBytes t := by
  simp only [selectLoop, run_ask, ← he, hi, hok, decide_true, Bool.and_self, if_true]
  refine ⟨?idx, ?cfg, ?scomp, ?filt, ?frame⟩
  case frame =>
    refine Prog.TouchesAt.keeps ?_ s
    refine only_seqs_cons (only_setF ?_) <| only_seqs_cons only_unraw <| only_seqs_cons (only_setLater ?_) <|
      only_seqs_cons (only_setLater ?_) <| only_seqs_cons (only_setLater ?_) only_seqs_nil <;> simp
  all_goals simp only [run_seqs_cons, run_seqs_nil]
  case idx =>
    have hf : (F.VLOOP_PROF_IDX n).ok = true := (by decide +kernel : (F.VLOOP_PROF_IDX 0).ok = true)
    simp only [setLater_fld_other, unraw_fld, run_setF, ne_eq, RegKey.mk.injEq, reduceCtorEq, false_and, not_false_eq_true,
      State.fld_setFld _ _ _ hf]
    exact Nat.mod_eq_of_lt hi
  all_goals simp

/-! Conversion profiles (R196) -/

theorem touches_useGrid (k : Nat) : (useGrid k).Touches [] := only_ask fun _ => only_when fun _ => only_dev

theorem touches_gridWritten (k : Nat) : (gridWritten k).Touches [] := by
  refine only_ask fun s => ?_
  split
  · exact only_when fun _ => touches_useGrid k
  · exact touches_useGrid k

theorem touches_nextWindow (k : Nat) (r : RegKey) : (nextWindow k r).Touches [] := only_on (only_ask fun _ => only_dev)

/-- A program that touches no register leaves every register and field as it was. -/
theorem Prog.Touches.reg {p : Prog} (h : p.Touches []) (s : State) (k : RegKey) : (p.run s).reg k = s.reg k :=
  h.keepsRegs s k (by simp)

theorem Prog.Touches.fld {p : Prog} (h : p.Touches []) (s : State) (f : Field) : (p.run s).fld f = s.fld f := by
  rw [State.fld, h.reg, State.fld]

theorem Prog.Touches.only {p : Prog} (h : p.Touches []) {Q : RegKey → Prop} {A : Nat → Prop} : p.Only Q A :=
  only_mono (fun _ hk => absurd hk (by simp)) (fun _ => False.elim) h

/-- A valid conversion profile is loaded: the index, and the registers that it covers. -/
theorem selectConv_loads {s : State} {i : Nat} {e : List Byte} (k : Nat) (hi : i < 16) (he : e = s.dev.image.conv.get [] i)
    (hok : convEntryOk e = true) :
    let t := (selectConv k i).run s
    t.fld (F.CONV_PROF_IDX k) = i ∧ t.fld (F.CONV_WIN_W k) = entryNum e 0 4 ∧ t.fld (F.CONV_OFS_CYC k) = entryNum e 4 4 ∧
      t.reg (R.CONV_CFG k) = BitVec.ofNat 32 (entryNum e 8 4) &&& (R.CONV_CFG k).id.mask ∧
      s.KeepsRegsAt t k [.CONV_PROF, .CONV_WIN, .CONV_OFS, .CONV_CFG] [] ∧ s.KeepsBytes t := by
  have hw : entryNum e 0 4 < 2 ^ 22 := by
    simp only [convEntryOk, windowOk, Bool.and_eq_true, decide_eq_true_eq] at hok
    omega
  simp only [selectConv, run_ask, ← he, hi, hok, decide_true, Bool.and_self, if_true]
  refine ⟨?idx, ?win, ?ofs, ?cfg, ?frame⟩
  case frame =>
    refine Prog.TouchesAt.keeps ?_ s
    refine only_seqs_cons (only_setF ?_) <| only_seqs_cons only_unraw <| only_seqs_cons (only_setR ?_) <|
      only_seqs_cons (only_setR ?_) <| only_seqs_cons (only_setR ?_) <| only_seqs_cons (touches_gridWritten k).only <|
      only_seqs_cons (touches_nextWindow k _).only only_seqs_nil <;> simp
  all_goals
    simp only [run_seqs_cons, run_seqs_nil, (touches_gridWritten k).reg, (touches_nextWindow k _).reg,
      (touches_gridWritten k).fld, (touches_nextWindow k _).fld]
  case idx =>
    have hf : (F.CONV_PROF_IDX k).ok = true := (by decide +kernel : (F.CONV_PROF_IDX 0).ok = true)
    simp only [run_setR, State.fld_setReg_other, unraw_fld, run_setF, ne_eq, RegKey.mk.injEq, reduceCtorEq, false_and,
      not_false_eq_true, State.fld_setFld _ _ _ hf]
    exact Nat.mod_eq_of_lt hi
  case win =>
    have hf : (F.CONV_WIN_W k).ok = true := (by decide +kernel : (F.CONV_WIN_W 0).ok = true)
    rw [fld_of_reg (w := BitVec.ofNat 32 (entryNum e 0 4)) (by simp [State.reg_setReg_if]) hf]
    exact fieldGet_ofNat hw (by simp)
  case ofs =>
    have hf : (F.CONV_OFS_CYC k).ok = true := (by decide +kernel : (F.CONV_OFS_CYC 0).ok = true)
    rw [fld_of_reg (w := BitVec.ofNat 32 (entryNum e 4 4)) (by simp [State.reg_setReg_if]) hf]
    exact fieldGet_ofNat (entryNum_lt e 4 4) (by simp)
  case cfg => simp

/-! Capture profiles (R342) -/

/-- A valid capture profile is loaded: the index, and the registers that it covers. -/
theorem selectCapture_loads {s : State} {i : Nat} {e : List Byte} (k : Nat) (hi : i < 16) (he : e = s.dev.image.capture.get [] i)
    (hok : captureEntryOk e = true) :
    let t := (selectCapture k i).run s
    t.fld (F.CAP_PROF_IDX k) = i ∧ t.fld (F.CAP_CFG_DEPTH k) = entryNum e 0 2 ∧ t.fld (F.CAP_CFG_DEC k) = entryNum e 2 1 ∧
      t.fld (F.CAP_CFG_TSRC k) = entryNum e 3 1 % 32 ∧ t.fld (F.CAP_CFG_TEDGE k) = entryNum e 3 1 / 32 ∧
      t.reg (R.CAP_POST k) = BitVec.ofNat 32 (entryNum e 4 4) &&& (R.CAP_POST k).id.mask ∧
      t.reg (R.CAP_OPT k) = BitVec.ofNat 32 (entryNum e 8 1) &&& (R.CAP_OPT k).id.mask ∧
      s.KeepsRegsAt t k [.CAP_PROF, .CAP_CFG, .CAP_POST, .CAP_OPT] [] ∧ s.KeepsBytes t := by
  have hcap : s.captureOk i = true := by simp [State.captureOk, hi, ← he, hok]
  have hedge : entryNum e 3 1 / 32 ≤ 2 := by
    simp only [captureEntryOk, Bool.and_eq_true, decide_eq_true_eq] at hok
    omega
  simp only [selectCapture, run_ask, ← he, hcap, if_true]
  refine ⟨?idx, ?depth, ?rate, ?tsrc, ?tedge, ?post, ?opt, ?frame⟩
  case frame =>
    refine Prog.TouchesAt.keeps ?_ s
    refine only_seqs_cons (only_setF ?_) <| only_seqs_cons only_unraw <| only_seqs_cons (only_setF ?_) <|
      only_seqs_cons (only_setF ?_) <| only_seqs_cons (only_setF ?_) <| only_seqs_cons (only_setF ?_) <|
      only_seqs_cons (only_setR ?_) <| only_seqs_cons (only_setR ?_) only_seqs_nil <;> simp
  all_goals simp only [run_seqs_cons, run_seqs_nil, run_setR, run_setF]
  case post | opt => simp [State.reg_setReg_if]
  case idx =>
    have hf : (F.CAP_PROF_IDX k).ok = true := (by decide +kernel : (F.CAP_PROF_IDX 0).ok = true)
    simpa [State.fld_setReg_other, State.fld_setFld_reg, State.fld_setFld _ _ _ hf] using hi
  case depth =>
    have hf : (F.CAP_CFG_DEPTH k).ok = true := (by decide +kernel : (F.CAP_CFG_DEPTH 0).ok = true)
    simpa [State.fld_setReg_other, State.fld_setFld_apart, hf, State.fld_setFld _ _ _ hf] using entryNum_lt e 0 2
  case rate =>
    have hf : (F.CAP_CFG_DEC k).ok = true := (by decide +kernel : (F.CAP_CFG_DEC 0).ok = true)
    simpa [State.fld_setReg_other, State.fld_setFld_apart, hf, State.fld_setFld _ _ _ hf] using entryNum_lt e 2 1
  case tsrc =>
    have hf : (F.CAP_CFG_TSRC k).ok = true := (by decide +kernel : (F.CAP_CFG_TSRC 0).ok = true)
    simp [State.fld_setReg_other, State.fld_setFld_apart, hf, State.fld_setFld _ _ _ hf]
  case tedge =>
    have hf : (F.CAP_CFG_TEDGE k).ok = true := (by decide +kernel : (F.CAP_CFG_TEDGE 0).ok = true)
    rw [State.fld_setReg_other _ _ (by simp), State.fld_setReg_other _ _ (by simp), State.fld_setFld _ _ _ hf]
    exact Nat.mod_eq_of_lt (by simp; omega)

/-! Mask descriptors (R343, R331) -/

/-- A valid mask descriptor is loaded: the index, and the registers that it covers; `EN` is not in it. -/
theorem selectMask_loads {s : State} {d : Nat} {e : List Byte} (k i : Nat) (hd : d < 256) (he : e = s.dev.image.mask.get [] d)
    (hok : maskEntryOk e = true) :
    let t := (selectMask k i d).run s
    t.fld (F.MASK_SEL_IDX k i) = d ∧ t.fld (F.MASK_SEL_EN k i) = s.fld (F.MASK_SEL_EN k i) ∧ t.dev.cores = s.dev.cores ∧
      t.reg (R.MASK_CFG k i) = BitVec.ofNat 32 (entryNum e 0 4) &&& (R.MASK_CFG k i).id.mask ∧
      t.reg (R.MASK_ADDR k i) = BitVec.ofNat 32 (entryNum e 4 4) &&& (R.MASK_ADDR k i).id.mask ∧
      t.reg (R.MASK_NBP k i) = BitVec.ofNat 32 (entryNum e 8 2) &&& (R.MASK_NBP k i).id.mask ∧
      t.reg (R.MASK_APPR k i) = BitVec.ofNat 32 (entryNum e 12 4) &&& (R.MASK_APPR k i).id.mask ∧
      s.KeepsRegsAt t k [.MASK_SEL, .MASK_CFG, .MASK_ADDR, .MASK_NBP, .MASK_APPR] [] ∧ s.KeepsBytes t := by
  simp only [selectMask, run_ask, ← he, hd, hok, decide_true, Bool.and_self, if_true]
  refine ⟨?idx, ?en, rfl, ?cfg, ?addr, ?nbp, ?appr, ?frame⟩
  case frame =>
    refine Prog.TouchesAt.keeps ?_ s
    refine only_seqs_cons (only_setF ?_) <| only_seqs_cons only_unraw <| only_seqs_cons (only_setR ?_) <|
      only_seqs_cons (only_setR ?_) <| only_seqs_cons (only_setR ?_) <| only_seqs_cons (only_setR ?_) only_seqs_nil <;> simp
  all_goals simp only [run_seqs_cons, run_seqs_nil, run_setR, run_setF]
  case idx =>
    have hf : (F.MASK_SEL_IDX k i).ok = true := (by decide +kernel : (F.MASK_SEL_IDX 0 0).ok = true)
    simpa [State.fld_setReg_other, State.fld_setFld _ _ _ hf] using hd
  case en =>
    have hf : (F.MASK_SEL_EN k i).ok = true := (by decide +kernel : (F.MASK_SEL_EN 0 0).ok = true)
    simp [State.fld_setReg_other, State.fld_setFld_apart, hf]
  all_goals simp [State.reg_setReg_if]

theorem run_effMaskEnable (k i : Nat) (s : State) : (effMaskEnable k i).run s =
    ((((s.setFld (F.MASK_SEL_EN k i) 1).setFld (F.MASK_STATE_ST k i) 0).setFld (F.MASK_STATE_EXC k i) 0).setFld
      (F.MASK_STATE_APPR k i) 0).modDev fun d => { d with cores := d.cores.mod {} k fun c =>
        { c with masks := c.masks.mod {} i fun _ => { checking := true } } } := by
  rw [effMaskEnable, run_seqs_cons, run_seqs_cons, run_seqs_cons, run_seqs_cons, run_seqs_cons, run_seqs_nil, run_setB, run_setF,
    run_clrB, run_clrB, modMask, modCore, run_dev]

/-- A mask is enabled: it is to be checked, and its settings stay (R321). -/
theorem effMaskEnable_spec (k i : Nat) (s : State) :
    let t := (effMaskEnable k i).run s
    t.fld (F.MASK_SEL_EN k i) = 1 ∧ t.fld (F.MASK_SEL_IDX k i) = s.fld (F.MASK_SEL_IDX k i) ∧ (t.mask k i).checking = true ∧
      s.KeepsRegsAt t k [.MASK_SEL, .MASK_STATE] [] ∧ s.KeepsBytes t := by
  refine ⟨?en, ?idx, ?checking, ?frame⟩
  case frame =>
    refine Prog.TouchesAt.keeps ?_ s
    refine only_seqs_cons (only_setB ?_) <| only_seqs_cons (only_setF ?_) <| only_seqs_cons (only_clrB ?_) <|
      only_seqs_cons (only_clrB ?_) <| only_seqs_cons only_dev only_seqs_nil <;> simp
  all_goals rw [run_effMaskEnable]
  case en =>
    have hf : (F.MASK_SEL_EN k i).ok = true := (by decide +kernel : (F.MASK_SEL_EN 0 0).ok = true)
    rw [State.modDev_fld]
    simp [State.fld_setFld_reg, State.fld_setFld _ _ _ hf]
  case idx =>
    have hf : (F.MASK_SEL_IDX k i).ok = true := (by decide +kernel : (F.MASK_SEL_IDX 0 0).ok = true)
    rw [State.modDev_fld]
    simp [State.fld_setFld_reg, State.fld_setFld_apart, hf]
  case checking => simp [State.mask, State.cst]

theorem bit_fieldGet (v : Word) (i : Nat) : fieldGet v i 1 = if bit v i then 1 else 0 := by
  rw [fieldGet, bit, Nat.testBit, Nat.and_comm, Nat.and_one_is_mod, Nat.pow_one]
  rcases Nat.mod_two_eq_zero_or_one (v.toNat >>> i) with h | h <;> simp [h]

/-- While a mask stays disabled, a write of its selection register loads the descriptor, and then enables it where `EN` is written. -/
theorem run_writeMaskSel_disabled {s : State} {k i : Nat} (v : Word) (h : s.fld (F.MASK_SEL_EN k i) = 0) :
    (writeMaskSel k i v).run s =
      if bit v 31 then (effMaskEnable k i).run ((selectMask k i (fieldGet v 0 8)).run s)
      else (selectMask k i (fieldGet v 0 8)).run s := by
  have hen : s.flg (F.MASK_SEL_EN k i) = false := by simp [State.flg, h]
  rw [writeMaskSel, run_ask, if_neg (by simp [hen]), run_seqs_cons, run_seqs_cons, run_seqs_cons, run_seqs_nil, run_when, run_when,
    if_neg (show ¬s.flg (F.MASK_SEL_EN k i) = true by simp [hen])]

/-- While a mask stays enabled and is in use, another index is refused (R331). -/
theorem run_writeMaskSel_enabled {s : State} {k i : Nat} {v : Word} (h : s.fld (F.MASK_SEL_EN k i) = 1) (hv : bit v 31 = true)
    (hidx : fieldGet v 0 8 ≠ s.fld (F.MASK_SEL_IDX k i)) (hst : s.fld (F.MASK_STATE_ST k i) ≠ 0) :
    (writeMaskSel k i v).run s = (badVal (0x100 + k)).run s := by
  have hen : s.flg (F.MASK_SEL_EN k i) = true := by simp [State.flg, h]
  rw [writeMaskSel, run_ask, if_pos (by simp [hen, hv]), run_seqs_cons, run_seqs_cons, run_seqs_nil, run_when, run_when,
    if_neg (by simp [hst]), if_pos (by simpa using hidx)]

/-- A write of the selection register of a disabled mask loads a valid descriptor; the mask is enabled where `EN` is written. -/
theorem writeMaskSel_loads {s : State} {k i : Nat} {v : Word} {e : List Byte} (hen : s.fld (F.MASK_SEL_EN k i) = 0)
    (he : e = s.dev.image.mask.get [] (fieldGet v 0 8)) (hok : maskEntryOk e = true) :
    let t := (writeMaskSel k i v).run s
    t.fld (F.MASK_SEL_IDX k i) = fieldGet v 0 8 ∧ t.fld (F.MASK_SEL_EN k i) = fieldGet v 31 1 ∧
      ((t.mask k i).checking = if bit v 31 then true else (s.mask k i).checking) ∧
      t.reg (R.MASK_CFG k i) = BitVec.ofNat 32 (entryNum e 0 4) &&& (R.MASK_CFG k i).id.mask ∧
      t.reg (R.MASK_ADDR k i) = BitVec.ofNat 32 (entryNum e 4 4) &&& (R.MASK_ADDR k i).id.mask ∧
      t.reg (R.MASK_NBP k i) = BitVec.ofNat 32 (entryNum e 8 2) &&& (R.MASK_NBP k i).id.mask ∧
      t.reg (R.MASK_APPR k i) = BitVec.ofNat 32 (entryNum e 12 4) &&& (R.MASK_APPR k i).id.mask ∧
      s.KeepsRegsAt t k [.MASK_SEL, .MASK_STATE, .MASK_CFG, .MASK_ADDR, .MASK_NBP, .MASK_APPR] [] ∧ s.KeepsBytes t := by
  obtain ⟨hidx, hen', hcores, hcfg, haddr, hnbp, happr, hregs, hbytes⟩ := selectMask_loads k i (fieldGet_lt v 0 8) he hok
  have hregs' : s.KeepsRegsAt ((selectMask k i (fieldGet v 0 8)).run s) k
      [.MASK_SEL, .MASK_STATE, .MASK_CFG, .MASK_ADDR, .MASK_NBP, .MASK_APPR] [] :=
    fun x hx hn => hregs x (fun h => hx ⟨by simp at h ⊢; tauto, h.2⟩) hn
  rw [run_writeMaskSel_disabled v hen, bit_fieldGet]
  by_cases hb : bit v 31 = true
  · obtain ⟨hen1, hidx1, hcheck, hregs1, hbytes1⟩ := effMaskEnable_spec k i ((selectMask k i (fieldGet v 0 8)).run s)
    have hkeep {x : RegKey} (hx : x.id ∉ [RegId.MASK_SEL, .MASK_STATE]) := hregs1 x (fun h => hx h.1) (by simp)
    rw [if_pos hb, if_pos hb, if_pos hb]
    exact ⟨hidx1.trans hidx, hen1, hcheck, (hkeep (by simp)).trans hcfg, (hkeep (by simp)).trans haddr,
      (hkeep (by simp)).trans hnbp, (hkeep (by simp)).trans happr,
      fun x hx hn => (hregs1 x (fun h => hx ⟨by simp at h ⊢; tauto, h.2⟩) hn).trans (hregs' x hx hn),
      fun x => (hbytes1 x).trans (hbytes x)⟩
  · rw [if_neg hb, if_neg hb, if_neg hb]
    exact ⟨hidx, hen'.trans hen, congrArg (fun c : Table CoreSt => ((c.get {} k).masks.get {} i).checking) hcores, hcfg, haddr,
      hnbp, happr, hregs', hbytes⟩

/-! A table without a valid entry: the selection is refused, and nothing else happens. -/

theorem run_selectDrive_refused {s : State} {i : Nat} (k : Nat) (h : driveEntryOk (s.dev.image.drive.get [] i) = false) :
    (selectDrive k i).run s = (badVal (0x100 + k)).run s := by
  simp [selectDrive, State.driveOk, h]

theorem run_selectLoop_refused {s : State} {i : Nat} (n : Nat) (h : loopEntryOk (s.dev.image.loop.get [] i) = false) :
    (selectLoop n i).run s = (badVal (0x180 + n)).run s := by
  simp [selectLoop, h]

theorem run_selectConv_refused {s : State} {i : Nat} (k : Nat) (h : convEntryOk (s.dev.image.conv.get [] i) = false) :
    (selectConv k i).run s = (badVal (0x100 + k)).run s := by
  simp [selectConv, h]

theorem run_selectCapture_refused {s : State} {i : Nat} (k : Nat) (h : captureEntryOk (s.dev.image.capture.get [] i) = false) :
    (selectCapture k i).run s = (badVal (0x100 + k)).run s := by
  simp [selectCapture, State.captureOk, h]

theorem run_selectMask_refused {s : State} {d : Nat} (k i : Nat) (h : maskEntryOk (s.dev.image.mask.get [] d) = false) :
    (selectMask k i d).run s = (badVal (0x100 + k)).run s := by
  simp [selectMask, h]

/-- Settles O7: a selection writes the profile register, whose action is one load; each load tells what the registers take, and
without a valid entry only `BADVAL` is set. -/
theorem profilesLoadOrAreRefused : Obligations.ProfilesLoadOrAreRefused := by
  refine ⟨?drive, ?noDrive, ?loop, ?noLoop, ?conv, ?noConv, ?capture, ?noCapture, ?mask, ?maskInUse, ?noMask⟩
  case drive =>
    intro s p w k e had he hok
    refine completes_profileSelect had ?_
    obtain ⟨hidx, hperiod, hlh, hhl, hpulse, hdmax, hoclim, hregs, hbytes⟩ := selectDrive_loads k (fieldGet_lt w 0 4) he hok
    rw [selectorKey, writeOwn_drive]
    exact ⟨hidx, hperiod, hlh, hhl, hpulse, hdmax, hoclim, lastAnswer_toMaster _ _ _ _, hregs, hbytes⟩
  case noDrive =>
    intro s p w k had hok
    refine completes_profileSelect had ?_
    rw [selectorKey, writeOwn_drive, run_selectDrive_refused k hok]
    have h := profileRefused s p (0x100 + k)
    exact ⟨h.badVal, h.reqs, h.answered, h.regs, h.bytes⟩
  case loop =>
    intro s p w n e had he hok
    refine completes_profileSelect had ?_
    obtain ⟨hidx, hcfg, hscomp, hfilt, hregs, hbytes⟩ := selectLoop_loads n (fieldGet_lt w 0 4) he hok
    rw [selectorKey, writeOwn_loop]
    exact ⟨hidx, hcfg, hscomp, hfilt, lastAnswer_toMaster _ _ _ _, hregs, hbytes⟩
  case noLoop =>
    intro s p w n had hok
    refine completes_profileSelect had ?_
    rw [selectorKey, writeOwn_loop, run_selectLoop_refused n hok]
    have h := profileRefused s p (0x180 + n)
    exact ⟨h.badVal, h.reqs, h.answered, h.regs, h.bytes⟩
  case conv =>
    intro s p w k e had he hok
    refine completes_profileSelect had ?_
    obtain ⟨hidx, hwin, hofs, hcfg, hregs, hbytes⟩ := selectConv_loads k (fieldGet_lt w 0 4) he hok
    rw [selectorKey, writeOwn_conv]
    exact ⟨hidx, hwin, hofs, hcfg, lastAnswer_toMaster _ _ _ _, hregs, hbytes⟩
  case noConv =>
    intro s p w k had hok
    refine completes_profileSelect had ?_
    rw [selectorKey, writeOwn_conv, run_selectConv_refused k hok]
    have h := profileRefused s p (0x100 + k)
    exact ⟨h.badVal, congrArg (·.get {} k.val) h.cores, h.answered, h.regs, h.bytes⟩
  case capture =>
    intro s p w k e had he hok
    refine completes_profileSelect had ?_
    obtain ⟨hidx, hdepth, hdec, htsrc, htedge, hpost, hopt, hregs, hbytes⟩ :=
      selectCapture_loads k (fieldGet_lt w 0 4) he hok
    rw [selectorKey, writeOwn_capture]
    exact ⟨hidx, hdepth, hdec, htsrc, htedge, hpost, hopt, lastAnswer_toMaster _ _ _ _, hregs, hbytes⟩
  case noCapture =>
    intro s p w k had hok
    refine completes_profileSelect had ?_
    rw [selectorKey, writeOwn_capture, run_selectCapture_refused k hok]
    have h := profileRefused s p (0x100 + k)
    exact ⟨h.badVal, congrArg (·.get {} k.val) h.cores, h.answered, h.regs, h.bytes⟩
  case mask =>
    intro s p w k i e had hen he hok
    refine completes_profileSelect had ?_
    obtain ⟨hidx, hen', hcheck, hcfg, haddr, hnbp, happr, hregs, hbytes⟩ := writeMaskSel_loads hen he hok
    rw [selectorKey, writeOwn_mask]
    exact ⟨hidx, hen', hcheck, hcfg, haddr, hnbp, happr, lastAnswer_toMaster _ _ _ _, hregs, hbytes⟩
  case maskInUse =>
    intro s p w k i had hen hb hidx hst
    refine completes_profileSelect had ?_
    rw [selectorKey, writeOwn_mask, run_writeMaskSel_enabled hen hb hidx hst]
    have h := profileRefused s p (0x100 + k)
    exact ⟨h.badVal, h.regs _ (by simp), congrArg (·.get {} k.val) h.cores, h.answered, h.regs, h.bytes⟩
  case noMask =>
    intro s p w k i had hen hb hok
    refine completes_profileSelect had ?_
    rw [selectorKey, writeOwn_mask, run_writeMaskSel_disabled w hen, hb, if_neg (by decide), run_selectMask_refused k i hok]
    have h := profileRefused s p (0x100 + k)
    exact ⟨h.badVal, congrArg (·.get {} k.val) h.cores, h.answered, h.regs, h.bytes⟩

end Sys2Proof.Machine

/-! The commit request (R25, R28): what reaches `XBAR.COMMIT`, and how it is judged. -/
namespace Sys2Proof.Machine

/-- `t` is `s` with beat `n` in `XBAR.COMMIT_LO`; beside its registers and memories only what the bus holds may differ. -/
structure CommitNamed (s t : State) (n : Nat) : Prop where
  regs : t.regs = (s.setReg R.XBAR_COMMIT_LO (BitVec.ofNat 32 n)).regs
  bytes : s.KeepsBytes t
  xbar : t.dev.xbar = s.dev.xbar

/-- The state after the `_LO` word `k` of a 64-bit quantity has been written by master `m`: the word is held (R9). -/
def State.lowHeld (s : State) (m : Nat) (k : RegKey) (v : Word) : State :=
  s.modDev fun d => { d with bus := { d.bus with
    held := (k, v) :: d.bus.held.filter fun e => e.1 != k, answer := d.bus.answer.put m ⟨0, 0⟩ } }

/-- What a master may write does not depend on the words that are held. -/
theorem admits_lowHeld (s : State) (m : Nat) (k : RegKey) (v : Word) : (s.lowHeld m k v).admits = s.admits := rfl

theorem find_lowHeld (s : State) (m : Nat) (k : RegKey) (v : Word) :
    (s.lowHeld m k v).dev.bus.held.find? (fun e => e.1 = k) = some (k, v) := List.find?_cons_of_pos (by simp)

theorem run_commitLow {s : State} {p : Port} {v : Word} (h : s.admits p R.XBAR_COMMIT_LO v = true) :
    (regWrite p R.XBAR_COMMIT_LO v).run s = s.lowHeld (portMaster p) R.XBAR_COMMIT_LO v := by
  rw [run_regWrite (by decide +kernel) h]
  rfl

/-- The two halves of a 64-bit number make it up. -/
theorem ofNat_halves {n : Nat} (h : n < 2 ^ 64) :
    (BitVec.ofNat 32 n).toNat + 2 ^ 32 * (BitVec.ofNat 32 (n / 2 ^ 32)).toNat = n := by
  simp only [BitVec.toNat_ofNat]
  omega

/-- A port that may write both words of `XBAR.COMMIT` requests the commit, and its master is answered OK. -/
theorem run_commit {s : State} {p : Port} {n : Nat} (hn : n < 2 ^ 64)
    (hlo : s.admits p R.XBAR_COMMIT_LO (BitVec.ofNat 32 n) = true)
    (hhi : s.admits p R.XBAR_COMMIT_HI (BitVec.ofNat 32 (n / 2 ^ 32)) = true) :
    ∃ s', CommitNamed s s' n ∧
      (regWrite64 p R.XBAR_COMMIT_LO R.XBAR_COMMIT_HI n).run s = (toMaster p 0 0).run ((effCommit n).run s') := by
  have hw (v : Word) : writeOwn p R.XBAR_COMMIT_HI v =
    wide R.XBAR_COMMIT_LO v fun n => seqs [setR R.XBAR_COMMIT_LO (BitVec.ofNat 32 n), effCommit n] := rfl
  rw [regWrite64, run_seqs_cons, run_seqs_cons, run_seqs_nil, run_commitLow hlo,
    run_regWrite (by decide +kernel) (by rwa [admits_lowHeld]), hw, wide, run_ask, run_seqs_cons, run_seqs_cons, run_seqs_nil,
    find_lowHeld, Option.map_some, Option.getD_some, ofNat_halves hn, run_seqs_cons, run_seqs_cons, run_seqs_nil]
  rw [toMaster]
  refine ⟨?state, ?named, ?run⟩
  case run => rfl
  case named => exact ⟨rfl, fun _ => rfl, rfl⟩

/-- Every register but `XBAR.COMMIT_LO` holds what it held. -/
theorem CommitNamed.reg {s t : State} {n : Nat} (h : CommitNamed s t n) {k : RegKey} (hk : k.id ≠ .XBAR_COMMIT_LO) :
    t.reg k = s.reg k :=
  (State.reg_congr h.regs k).trans (State.reg_setReg_other _ _ _ _ (by rintro rfl; exact hk rfl))

theorem CommitNamed.fld {s t : State} {n : Nat} (h : CommitNamed s t n) {f : Field} (hf : f.reg.id ≠ .XBAR_COMMIT_LO) :
    t.fld f = s.fld f := by
  rw [State.fld, h.reg hf, State.fld]

/-- What a commit is judged by is the same. -/
theorem CommitNamed.judged {s t : State} {n : Nat} (h : CommitNamed s t n) :
    t.valid = s.valid ∧ t.flg F.XBAR_STATUS_PENDING = s.flg F.XBAR_STATUS_PENDING ∧
      t.reg64 R.LT_BEAT_LO R.LT_BEAT_HI = s.reg64 R.LT_BEAT_LO R.LT_BEAT_HI ∧ t.pendMap = s.pendMap ∧
      t.pendGangs = s.pendGangs ∧ t.gangBusy = s.gangBusy := by
  simp [State.valid, State.flg, State.reg64, State.pendMap, State.pendGangs, State.gangBusy, State.parked, State.bit, h.fld, h.reg]

/-- A request that meets every condition of R25 is latched. -/
theorem run_effCommit_accepted {s : State} {n : Nat} (hv : s.valid = true) (hp : s.flg F.XBAR_STATUS_PENDING = false)
    (hb : s.reg64 R.LT_BEAT_LO R.LT_BEAT_HI < n) (hr : hasRepeat s.pendMap = false) (hg : s.gangBusy = false) :
    (effCommit n).run s =
      (s.modDev fun d => { d with xbar := { d.xbar with map := s.pendMap, gangs := s.pendGangs, beat := n } }).setFld
        F.XBAR_STATUS_PENDING 1 := by
  have hb' : ¬n ≤ s.reg64 R.LT_BEAT_LO R.LT_BEAT_HI := by omega
  simp [effCommit, hv, hp, hb', hr, hg]

theorem touches_effCommit (n : Nat) : (effCommit n).Touches [.XBAR_STATUS] := by
  refine only_ask fun s => ?_
  dsimp only
  split
  · refine only_seqs_cons (only_when fun _ => only_setB ?_) <| only_seqs_cons (only_when fun _ => only_setB ?_) <|
      only_seqs_cons (only_when fun _ => only_setB ?_) <| only_seqs_cons (only_when fun _ => only_setB ?_) <|
      only_seqs_cons (only_when fun _ => only_setB ?_) only_seqs_nil <;> simp
  · exact only_seqs_cons only_dev <| only_seqs_cons (only_setB (by simp)) only_seqs_nil

/-- A flag that is set under a condition. -/
theorem fld_when_setB_same (c : Bool) {f : Field} (s : State) (h : f.ok = true) (hw : f.w = 1) :
    ((when c (setB f)).run s).fld f = if c then 1 else s.fld f := by
  cases c
  · rfl
  · exact (State.fld_setFld s f 1 h).trans (by rw [hw]; rfl)

/-- A field apart from the flag that is set stays. -/
theorem fld_when_setB_apart (c : Bool) {f g : Field} (s : State) (h : g.ok = true) (hl : g.lo + g.w ≤ f.lo ∨ f.lo + f.w ≤ g.lo) :
    ((when c (setB f)).run s).fld g = s.fld g := by
  cases c
  · rfl
  · exact State.fld_setFld_apart _ _ _ _ h hl

/-- A request that fails a condition of R25 sets the flag of each that fails, and no other. -/
theorem effCommit_refused {s : State} {n : Nat} (h : s.valid = false ∨ s.flg F.XBAR_STATUS_PENDING = true ∨
      n ≤ s.reg64 R.LT_BEAT_LO R.LT_BEAT_HI ∨ hasRepeat s.pendMap = true ∨ s.gangBusy = true) :
    let t := (effCommit n).run s
    t.fld F.XBAR_STATUS_PENDING = s.fld F.XBAR_STATUS_PENDING ∧ t.dev = s.dev ∧
      (t.fld F.XBAR_STATUS_NOLT = if s.valid = false then 1 else s.fld F.XBAR_STATUS_NOLT) ∧
      (t.fld F.XBAR_STATUS_BUSY = if s.flg F.XBAR_STATUS_PENDING then 1 else s.fld F.XBAR_STATUS_BUSY) ∧
      (t.fld F.XBAR_STATUS_PAST = if s.valid = true ∧ n ≤ s.reg64 R.LT_BEAT_LO R.LT_BEAT_HI then 1
        else s.fld F.XBAR_STATUS_PAST) ∧
      (t.fld F.XBAR_STATUS_CONFLICT = if hasRepeat s.pendMap then 1 else s.fld F.XBAR_STATUS_CONFLICT) ∧
      (t.fld F.XBAR_STATUS_GANG_BUSY = if s.gangBusy then 1 else s.fld F.XBAR_STATUS_GANG_BUSY) := by
  have hc : (!s.valid || s.flg F.XBAR_STATUS_PENDING || (!!s.valid && decide (n ≤ s.reg64 R.LT_BEAT_LO R.LT_BEAT_HI)) ||
      hasRepeat s.pendMap || s.gangBusy) = true := by
    cases hv : s.valid
    · simp
    · simpa [hv, or_assoc] using h
  have hok : ∀ f ∈ [F.XBAR_STATUS_PENDING, F.XBAR_STATUS_NOLT, F.XBAR_STATUS_BUSY, F.XBAR_STATUS_PAST, F.XBAR_STATUS_CONFLICT,
      F.XBAR_STATUS_GANG_BUSY], f.ok = true := by decide +kernel
  simp only [effCommit, run_ask, if_pos hc]
  refine ⟨?_, ?dev, ?_, ?_, ?_, ?_, ?_⟩
  case dev =>
    simp only [run_seqs_cons, run_seqs_nil, run_when, apply_ite State.dev, State.setFld_dev, run_setB, ite_self]
  all_goals
    simp only [run_seqs_cons, run_seqs_nil]
    simp (disch := simp [hok]) only [fld_when_setB_same, fld_when_setB_apart]
  all_goals simp

end Sys2Proof.Machine

/-! Footprints that reach the scratchpad: what the ring engine, the records of captures and of measurement units can change. -/
namespace Sys2Proof.Machine

/-- The scratchpad and the 4 KiB behind it, where an entry that begins in it may end (R346). -/
def InPad (x : Nat) : Prop := padBase ≤ x ∧ x < padBase + 0x1001000

/-- Line Time, and which cores' contexts have been written: what records leave as it is beside registers and memories. -/
def Dev.times (d : Dev) : Nat × (Nat → Bool) := (d.lt.cyc, fun k => (d.cores.get {} k).ctxWritten)

/-- The program changes only registers that satisfy `Q` and bytes about the scratchpad; Line Time and the written contexts stay. -/
structure Prog.Records (p : Prog) (Q : RegKey → Prop) : Prop where
  only : p.Only Q InPad
  keeps : p.Keeps Dev.times

section
variable {Q : RegKey → Prop} {p : Prog} {l : List Prog}

theorem Prog.Records.reg (h : p.Records Q) (s : State) {k : RegKey} (hk : ¬Q k) : (p.run s).reg k = s.reg k :=
  only_reg h.only s hk

theorem Prog.Records.fld (h : p.Records Q) (s : State) {f : Field} (hf : ¬Q f.reg) : (p.run s).fld f = s.fld f :=
  only_fld h.only s hf

theorem Prog.Records.bytes (h : p.Records Q) (s : State) : s.KeepsBytesBut (p.run s) padBase 0x1001000 :=
  fun _ hx => only_byte h.only s hx

theorem Prog.Records.now (h : p.Records Q) (s : State) : (p.run s).now = s.now := congrArg Prod.fst (keeps_run h.keeps s)

theorem Prog.Records.ctxWritten (h : p.Records Q) (s : State) (k : Nat) :
    ((p.run s).cst k).ctxWritten = (s.cst k).ctxWritten := congrFun (congrArg Prod.snd (keeps_run h.keeps s)) k

theorem records_done : Prog.done.Records Q := ⟨trivial, trivial⟩

theorem records_seq {q : Prog} (hp : p.Records Q) (hq : q.Records Q) : (p.seq q).Records Q :=
  ⟨only_seq hp.only hq.only, keeps_seq hp.keeps hq.keeps⟩

theorem records_nil : (seqs []).Records Q := records_done

theorem records_cons (hp : p.Records Q) (hl : (seqs l).Records Q) : (seqs (p :: l)).Records Q := records_seq hp hl

theorem records_each {α : Type} {l : List α} {f : α → Prog} (h : ∀ a ∈ l, (f a).Records Q) : (each l f).Records Q := by
  induction l with
  | nil => exact records_done
  | cons a l ih => exact records_seq (h a (by simp)) (ih fun b hb => h b (by simp [hb]))

theorem records_ask {f : State → Prog} (h : ∀ s, (f s).Records Q) : (ask f).Records Q :=
  ⟨fun s => (h s).only, fun s => (h s).keeps⟩

theorem records_when {c : Bool} (h : c = true → p.Records Q) : (when c p).Records Q := by
  cases c
  · exact records_done
  · exact h rfl

theorem records_on {c : State → Bool} (h : p.Records Q) : (on c p).Records Q :=
  records_ask fun _ => records_when fun _ => h

theorem records_setF {f : Field} {n : Nat} (h : Q f.reg) : (setF f n).Records Q := ⟨only_setF h, fun _ => trivial⟩

theorem records_setB {f : Field} (h : Q f.reg) : (setB f).Records Q := records_setF h

theorem records_count {f : Field} (h : Q f.reg) : (count f).Records Q := records_ask fun _ => records_setF h

theorem records_set64 {lo hi : RegKey} {n : Nat} (h1 : Q lo) (h2 : Q hi) : (set64 lo hi n).Records Q :=
  ⟨only_set64 h1 h2, trivial⟩

theorem records_dev {f : Dev → Dev} (h : ∀ d, (f d).times = d.times) : (dev f).Records Q := ⟨trivial, h, trivial⟩

theorem records_putBytes {a : Nat} {bs : List Byte} (ha : padBase ≤ a) (hb : a + bs.length ≤ padBase + 0x1001000) :
    (putBytes a bs).Records Q := by
  refine ⟨only_putBytes fun i hi => ⟨by omega, by omega⟩, ?_⟩
  clear ha hb
  induction bs generalizing a with
  | nil => trivial
  | cons b bs ih => exact ih (a := a + 1)

/-- A change of a core that leaves its context as it is. -/
theorem records_modCore {k : Nat} {f : CoreSt → CoreSt} (h : ∀ c, (f c).ctxWritten = c.ctxWritten) :
    (modCore k f).Records Q := by
  refine records_dev fun d => ?_
  simp only [Dev.times, Prod.mk.injEq, true_and]
  funext j
  by_cases hj : j = k
  · subst hj
    rw [Table.get_mod_same, h]
  · rw [Table.get_mod_other _ _ _ _ _ hj]

end

end Sys2Proof.Machine

/-! The footprint of each operation of the ring engine and of a capture's spill. -/
namespace Sys2Proof.Machine

/-- Every register of these names satisfies `Q`. -/
def Covers (Q : RegKey → Prop) (names : List RegId) : Prop := ∀ k : RegKey, k.id ∈ names → Q k

theorem Covers.sub {Q : RegKey → Prop} {l names : List RegId} (h : Covers Q names) (hl : l ⊆ names) : Covers Q l :=
  fun k hk => h k (hl hk)

theorem covers_self (names : List RegId) : Covers (fun k => k.id ∈ names) names := fun _ h => h

section
variable {Q : RegKey → Prop}

theorem records_event (i : Nat) (h : Covers Q [.IRQ_PEND, .IRQ_CNT]) : (event i).Records Q := by
  refine records_ask fun s => records_cons (records_setF (h _ (by simp [cntField]))) <|
    records_cons (records_when fun _ => records_dev fun _ => rfl) <| records_cons (records_when fun _ => ?_) records_nil
  exact records_cons (records_setB (h _ (by simp [pendField, bitField]))) <| records_cons (records_dev fun _ => rfl) records_nil

theorem records_raise (i : Nat) (h : Covers Q [.IRQ_PEND, .IRQ_CNT]) : (raise i).Records Q := by
  refine records_ask fun s => ?_
  split
  · exact records_done
  split
  · exact records_when fun _ => records_dev fun _ => rfl
  · exact records_event i h

/-- What a reader of a word in error and a record in a ring can change: the ECC and the ring status, and what they raise. -/
def ringNames : List RegId := [.RING_STAT, .MEM_ECCCNT, .MEM_ECCA_LO, .MEM_ECCA_HI, .IRQ_PEND, .IRQ_CNT]

theorem irq_sub_ringNames : [RegId.IRQ_PEND, .IRQ_CNT] ⊆ ringNames := by decide

theorem records_eccRecord (key : Nat) (x : EccErr) (h : Covers Q ringNames) : (eccRecord key x).Records Q := by
  refine records_cons ?_ <| records_cons (records_setF (h _ (by decide))) <| records_cons (records_setF (h _ (by decide))) <|
    records_cons (records_setF (h _ (by decide))) <| records_cons (records_setF (h _ (by decide))) <|
    records_cons (records_setF (h _ (by decide))) <| records_cons (records_raise _ (h.sub irq_sub_ringNames)) records_nil
  split <;> exact records_count (h _ (by decide))

/-- Below the retention RAM no word is marked as lost. -/
theorem retentionBad_below {a : Nat} (h : a < retBase + 0x100) : retentionBad a = .done := by
  have : ¬retBase + 0x100 ≤ a := by omega
  simp [retentionBad, this, when]

/-- A read of words below the retention RAM records the errors that it meets. -/
theorem records_eccRead {a n : Nat} (ha : a + n ≤ retBase) (h : Covers Q ringNames) : (eccRead a n).Records Q := by
  refine records_ask fun s => records_each fun e he => ?_
  have hkey : e.1 < retBase + 0x100 := by
    have := (List.mem_filter.1 he).2
    simp only [eccHit, Bool.and_eq_true, decide_eq_true_eq] at this
    omega
  rw [retentionBad_below hkey]
  exact records_cons (records_eccRecord _ _ h) <| records_cons (records_when fun _ => records_done) <|
    records_cons (records_when fun _ => records_dev fun _ => rfl) records_nil

theorem records_dpWrite {a : Nat} {bs : List Byte} (ha : padBase ≤ a) (hb : a + bs.length ≤ padBase + 0x1001000) :
    (dpWrite a bs).Records Q :=
  records_cons (records_putBytes ha hb) <| records_cons (records_dev fun _ => rfl) records_nil

theorem eccWord_le (a : Nat) : eccWord a ≤ a := by
  unfold eccWord
  split
  · exact Nat.div_mul_le_self _ _
  · split <;> exact Nat.div_mul_le_self _ _

/-- The words that a write covers in part begin no later than it ends. -/
theorem partWords_le {a n x : Nat} (h : x ∈ partWords a n) : x ≤ a + n := by
  have h1 := eccWord_le a
  have h2 := eccWord_le (a + n - 1)
  have := List.mem_of_mem_filter h
  split at this <;> simp only [List.mem_cons, List.not_mem_nil, or_false] at this <;> omega

theorem records_partWrite {a n : Nat} {p : Prog} {go : Nat → Word → Prog} (ha : a + n < retBase) (hp : p.Records Q)
    (hgo : ∀ st w, (go st w).Records Q) (h : Covers Q ringNames) : (partWrite a n p go).Records Q := by
  refine records_ask fun s => records_cons (records_each fun x hx => records_eccRead ?_ h) <| records_cons ?_ records_nil
  · have := partWords_le hx
    omega
  split
  · exact hgo _ _
  · exact records_cons hp <| records_cons (records_dev fun _ => rfl) <| records_cons (hgo _ _) records_nil

/-- The engine writes about the scratchpad. -/
theorem records_engineWrite {a : Nat} {bs : List Byte} (ha : padBase ≤ a) (hb : a + bs.length ≤ padBase + 0x1001000)
    (h : Covers Q ringNames) : (engineWrite a bs).Records Q := by
  have : padBase + 0x1001000 < retBase := by decide
  exact records_when fun _ => records_partWrite (by omega) (records_dpWrite ha hb) (fun _ _ => records_done) h

theorem length_natLE (k n : Nat) : (natLE k n).length = k := by
  induction k generalizing n with
  | zero => rfl
  | succ k ih => simp [natLE, ih]

theorem descAddr_inPad (r : Nat) : padBase ≤ descAddr r ∧ descAddr r + 32 ≤ padBase + 0x1001000 := by
  unfold descAddr
  omega

theorem records_ringCopies (r : Nat) (h : Covers Q ringNames) : (ringCopies r).Records Q := by
  obtain ⟨h1, h2⟩ := descAddr_inPad r
  refine records_ask fun s => records_cons (records_engineWrite (by omega) ?_ h) <|
    records_cons (records_engineWrite (by omega) ?_ h) records_nil
  · rw [List.length_append, length_natLE, length_natLE]
    omega
  · rw [length_natLE]
    omega

theorem records_ringIrq (r : Nat) (h : Covers Q ringNames) : (ringIrq r).Records Q :=
  records_ask fun _ => records_when fun _ => records_raise _ (h.sub irq_sub_ringNames)

theorem entrySize_le (esz : Nat) : entrySize esz ≤ 4096 := by
  unfold entrySize
  split <;> decide

/-- An entry that begins in the scratchpad ends at most 4 KiB behind it. -/
theorem entry_inPad (q : Ring) (x : Nat) : padBase ≤ q.entry x ∧ q.entry x + entrySize q.esz ≤ padBase + 0x1001000 := by
  have := entrySize_le q.esz
  unfold Ring.entry
  omega

/-- A record that is offered to a ring enters it, or is dropped by its rule (R349). -/
theorem records_ringOffer (r typ : Nat) (bytes : List Byte) {drop kept : Prog} (hd : drop.Records Q)
    (hk : kept.Records Q) (h : Covers Q ringNames) : (ringOffer r typ bytes drop kept).Records Q := by
  refine records_ask fun s => ?_
  dsimp only
  split
  · exact hd
  split
  · exact records_cons (records_setB (h _ (by decide))) <| records_cons hd records_nil
  split
  · exact hd
  rename_i hsize _
  have hlen : entrySize (s.ring r).esz = bytes.length := by
    simp only [Bool.or_eq_true, decide_eq_true_eq, not_or, not_not] at hsize
    exact hsize.2
  obtain ⟨h1, h2⟩ := entry_inPad (s.ring r) (s.ring r).pi
  exact records_cons (records_engineWrite h1 (hlen ▸ h2) h) <| records_cons (records_dev fun _ => rfl) <|
    records_cons (records_ringCopies r h) <| records_cons (records_ringIrq r h) <| records_cons hk records_nil

theorem records_bufOffer (kind owner r typ depth : Nat) (bytes : List Byte) {drop : Prog} (hd : drop.Records Q)
    (h : Covers Q ringNames) : (bufOffer kind owner r typ depth bytes drop).Records Q := by
  refine records_ask fun s => ?_
  split
  · exact records_ringOffer r typ bytes records_done records_done h
  refine records_cons (records_when fun _ => records_setB (h _ (by decide))) <| records_cons ?_ records_nil
  split
  · exact records_dev fun _ => rfl
  · exact hd

theorem records_offer (n c : Nat) : (offer n c).Records Q :=
  records_ask fun _ => records_ask fun _ => records_modCore fun _ => rfl

/-- Pairs of a core's FIFO, at most a block of them, are read. -/
theorem records_spillRead {k depth a b : Nat} (hk : k < 128) (hb : b ≤ a + 512) (h : Covers Q ringNames) :
    (spillRead k depth a b).Records Q := by
  have hcap : capBase k + 0x42000 ≤ retBase := by
    unfold capBase retBase
    omega
  exact records_cons (records_eccRead (by omega) h) <|
    records_cons (records_when fun _ => records_eccRead (by omega) h) records_nil

theorem records_spillMove {k : Nat} (hk : k < 128) (whole : Bool) (m : Nat) (h : Covers Q ringNames) :
    (spillMove k whole m).Records Q := by
  induction m with
  | zero => exact records_done
  | succ m ih =>
    refine records_ask fun s => ?_
    dsimp only
    split
    · exact records_done
    refine records_when fun _ => ?_
    split
    · exact records_cons (records_spillRead hk (by omega) h) <| records_cons (records_dev fun _ => rfl) <|
        records_cons (records_ringOffer _ _ _ records_done records_done h) <|
        records_cons (records_modCore fun _ => rfl) <| records_cons ih records_nil
    · exact records_when fun _ => records_setB (h _ (by decide))

end

end Sys2Proof.Machine

/-! What closes at a commit: the capture and the measurement units of a core that a channel leaves (R219, R318). -/
namespace Sys2Proof.Machine

theorem capStateSt_ok (k : Nat) : (F.CAP_STATE_ST k).ok = true := (by decide +kernel : (F.CAP_STATE_ST 0).ok = true)

theorem evmStateSt_ok (k u : Nat) : (F.EVM_STATE_ST k u).ok = true := (by decide +kernel : (F.EVM_STATE_ST 0 0).ok = true)

/-- What the close of a capture can change beside its state. -/
def closeNames : List RegId := [.CAP_STAT, .CAP_HDROP] ++ ringNames

/-- What a measurement's result can change beside the unit's state. -/
def resultNames : List RegId :=
  [.EVM_IVL_LO, .EVM_IVL_HI, .EVM_ST_LO, .EVM_ST_HI, .EVM_SUBR, .EVM_INFO, .EVM_STAT, .EVM_DROP, .EVM_CNT] ++ ringNames

section
variable {Q : RegKey → Prop}

/-- The end of a close: its status, its header and its event. -/
theorem records_closeEnd {k cause : Nat} {f : CapSt → CapSt} (bytes : Nat → List Byte) (b : Bool) {s : State}
    (h : Covers Q closeNames) :
    (seqs [setB (F.CAP_STAT_DONE k), when (cause = 64) (setB (F.CAP_STAT_OVF k)), modCap k f,
      match s.channelOf k with
      | none => .done
      | some n => seqs [bufOffer 2 n (s.chRing n 8) 2 2 (bytes n) (count (F.CAP_HDROP_N k)), offer n 4,
          when b (eventSource n)]]).Records Q := by
  have hr : Covers Q ringNames := h.sub (by decide)
  refine records_cons (records_setB (h _ (by simp [closeNames]))) <|
    records_cons (records_when fun _ => records_setB (h _ (by simp [closeNames]))) <|
    records_cons (records_modCore fun _ => rfl) <| records_cons ?_ records_nil
  split
  · exact records_done
  · exact records_cons (records_bufOffer _ _ _ _ _ _ (records_count (h _ (by simp [closeNames]))) hr) <|
      records_cons (records_offer _ _) <|
      records_cons (records_when fun _ => records_raise _ (hr.sub irq_sub_ringNames)) records_nil

theorem records_closeCapture {k : Nat} (hk : k < 128) (cause : Nat) (hst : Q (R.CAP_STATE k)) (h : Covers Q closeNames) :
    (closeCapture k cause).Records Q :=
  records_on <| records_cons (records_when fun _ => records_spillMove hk true 65 (h.sub (by decide))) <|
    records_cons (records_ask fun _ => records_cons (records_setF hst) <| records_cons (records_setF hst) <|
      records_closeEnd _ _ h) records_nil

/-- A capture that closes is IDLE. -/
theorem closeCapture_idle (k cause : Nat) (s : State) : ((closeCapture k cause).run s).capSt k = 0 := by
  rw [closeCapture, run_on]
  split
  · rw [run_seqs_cons, run_seqs_cons, run_seqs_nil, run_ask, run_seqs_cons, run_seqs_cons]
    refine (Prog.Records.fld (records_closeEnd _ _ (covers_self closeNames)) _ (by simp [closeNames, ringNames])).trans ?_
    rw [run_setF, run_setF, State.fld_setFld_apart _ _ _ _ (capStateSt_ok k) (by simp), State.fld_setFld _ _ _ (capStateSt_ok k)]
    rfl
  · rename_i h
    simpa using h

theorem records_modUnit {k u : Nat} {f : UnitSt → UnitSt} : (modUnit k u f).Records Q := records_modCore fun _ => rfl

theorem records_unitResult {k u st flags next : Nat} {ivl : Int} (hst : Q (R.EVM_STATE k u)) (h : Covers Q resultNames) :
    (unitResult k u ivl st flags next).Records Q := by
  have hr : Covers Q ringNames := h.sub (by decide)
  refine records_ask fun s => ?_
  refine records_cons (records_set64 (h _ ?_) (h _ ?_)) <| records_cons (records_set64 (h _ ?_) (h _ ?_)) <|
    records_cons (records_setF (h _ ?_)) <| records_cons (records_setF (h _ ?_)) <| records_cons (records_setF (h _ ?_)) <|
    records_cons records_modUnit <| records_cons (records_setF hst) <| records_cons (records_setB (h _ ?_)) <|
    records_cons ?record records_nil
  case record =>
    split
    · exact records_done
    · exact records_cons (records_when fun _ => records_bufOffer _ _ _ _ _ _ (records_count (h _ (by simp [resultNames]))) hr) <|
        records_cons (records_when fun _ => records_offer _ _) <|
        records_cons (records_when fun _ => records_raise _ (hr.sub irq_sub_ringNames)) records_nil
  all_goals simp [resultNames]

theorem records_disarmUnit {k u : Nat} (extra : Nat) (hst : Q (R.EVM_STATE k u)) (h : Covers Q resultNames) :
    (disarmUnit k u extra).Records Q := by
  refine records_ask fun s => ?_
  split
  · exact records_done
  · exact records_setF hst
  · exact records_cons (records_unitResult hst h) <| records_cons (records_setF hst) records_nil
  · exact records_cons (records_count (h _ (by simp [resultNames]))) <| records_cons records_modUnit <|
      records_cons (records_setF hst) records_nil

/-- A unit that is disarmed is IDLE. -/
theorem disarmUnit_idle (k u extra : Nat) (s : State) : ((disarmUnit k u extra).run s).unitSt k u = 0 := by
  have hset (t : State) : ((setF (F.EVM_STATE_ST k u) 0).run t).unitSt k u = 0 := State.fld_setFld _ _ _ (evmStateSt_ok k u)
  rw [disarmUnit, run_ask]
  split
  · assumption
  · exact hset s
  · rw [run_seqs_cons, run_seqs_cons, run_seqs_nil, hset]
  · rw [run_seqs_cons, run_seqs_cons, run_seqs_cons, run_seqs_nil, hset]

end

/-! Programs for the members of a list -/

section
variable {α : Type} {l : List α} {f : α → Prog}

/-- What every program of a list keeps, the list keeps. -/
theorem each_keeps {I : State → Prop} (h : ∀ a ∈ l, ∀ s, I s → I ((f a).run s)) {s : State} (hs : I s) : I ((each l f).run s) := by
  induction l generalizing s with
  | nil => exact hs
  | cons a l ih =>
    rw [run_each_cons]
    exact ih (fun b hb => h b (by simp [hb])) (h a (by simp) s hs)

/-- What the program of each member brings about, and the others keep, holds of every member in the end. -/
theorem each_all {P : α → State → Prop} (hP : ∀ a ∈ l, ∀ s, P a ((f a).run s))
    (hkeep : ∀ a ∈ l, ∀ b ∈ l, ∀ s, P a s → P a ((f b).run s)) (s : State) : ∀ a ∈ l, P a ((each l f).run s) := by
  induction l generalizing s with
  | nil => simp
  | cons b l ih =>
    intro a ha
    rw [run_each_cons]
    rcases List.mem_cons.1 ha with rfl | ha
    · exact each_keeps (fun c hc t ht => hkeep a (by simp) c (by simp [hc]) t ht) (hP a (by simp) s)
    · exact ih (fun c hc => hP c (by simp [hc])) (fun c hc d hd => hkeep c (by simp [hc]) d (by simp [hd])) _ a ha

end

/-- What the close of a core's capture and units can change. -/
def leaveNames : List RegId := [.CAP_STATE, .EVM_STATE] ++ closeNames ++ resultNames

/-- The capture and the units of a core that a channel leaves are closed. -/
def leaveCore (k : Nat) : Prog := seqs [closeCapture k 16, commitUnits k]

theorem records_leaveCore {k : Nat} (hk : k < 128) : (leaveCore k).Records fun x => x.id ∈ leaveNames :=
  records_cons (records_closeCapture hk 16 (by simp [leaveNames]) ((covers_self _).sub (by decide))) <|
    records_cons (records_each fun _ _ => records_disarmUnit 128 (by simp [leaveNames]) ((covers_self _).sub (by decide)))
    records_nil

/-- The capture and the units of core `k` are IDLE. -/
def State.coreClosed (s : State) (k : Nat) : Prop := s.capSt k = 0 ∧ ∀ u < 4, s.unitSt k u = 0

section
variable {k : Nat} {s : State}

theorem closeCapture_keepsCap (hk : k < 128) (cause j : Nat) (h : s.capSt j = 0) : ((closeCapture k cause).run s).capSt j = 0 := by
  by_cases hj : j = k
  · rw [hj]
    exact closeCapture_idle k cause s
  · have hrec : (closeCapture k cause).Records fun x => x = R.CAP_STATE k ∨ x.id ∈ closeNames :=
      records_closeCapture hk cause (.inl rfl) fun _ hx => .inr hx
    exact (hrec.fld s (by simp [closeNames, ringNames, hj])).trans h

theorem closeCapture_unitSt (hk : k < 128) (cause j u : Nat) : ((closeCapture k cause).run s).unitSt j u = s.unitSt j u :=
  Prog.Records.fld (Q := fun x => x.id ∈ .CAP_STATE :: closeNames)
    (records_closeCapture hk cause (by simp) ((covers_self _).sub (by decide))) s (by simp [closeNames, ringNames])

theorem disarmUnit_capSt (k u extra j : Nat) : ((disarmUnit k u extra).run s).capSt j = s.capSt j :=
  Prog.Records.fld (Q := fun x => x.id ∈ .EVM_STATE :: resultNames)
    (records_disarmUnit extra (by simp) ((covers_self _).sub (by decide))) s (by simp [resultNames, ringNames])

theorem disarmUnit_keepsUnit (k u extra j v : Nat) (h : s.unitSt j v = 0) : ((disarmUnit k u extra).run s).unitSt j v = 0 := by
  by_cases hj : j = k ∧ v = u
  · rw [hj.1, hj.2]
    exact disarmUnit_idle k u extra s
  · have hrec : (disarmUnit k u extra).Records fun x => x = R.EVM_STATE k u ∨ x.id ∈ resultNames :=
      records_disarmUnit extra (.inl rfl) fun _ hx => .inr hx
    exact (hrec.fld s (by simpa [resultNames, ringNames] using hj)).trans h

theorem run_leaveCore (k : Nat) (s : State) : (leaveCore k).run s = (each units fun u => disarmUnit k u 128).run
    ((closeCapture k 16).run s) := by
  rw [leaveCore, commitUnits, run_seqs_cons, run_seqs_cons, run_seqs_nil]

/-- A core that is closed stays closed when a channel leaves another. -/
theorem leaveCore_keeps (hk : k < 128) (j : Nat) (h : s.coreClosed j) : ((leaveCore k).run s).coreClosed j := by
  rw [run_leaveCore]
  refine each_keeps (I := (State.coreClosed · j)) (fun u _ t ht => ?_) ?_
  · exact ⟨(disarmUnit_capSt k u 128 j).trans ht.1, fun v hv => disarmUnit_keepsUnit k u 128 j v (ht.2 v hv)⟩
  · exact ⟨closeCapture_keepsCap hk 16 j h.1, fun u hu => (closeCapture_unitSt hk 16 j u).trans (h.2 u hu)⟩

/-- A core that a channel leaves is closed. -/
theorem leaveCore_closed (k : Nat) (s : State) : ((leaveCore k).run s).coreClosed k := by
  rw [run_leaveCore]
  constructor
  · exact each_keeps (I := (State.capSt · k = 0)) (fun u _ t ht => (disarmUnit_capSt k u 128 k).trans ht)
      (closeCapture_idle k 16 s)
  · intro u hu
    exact each_all (P := fun u t => t.unitSt k u = 0) (fun u _ t => disarmUnit_idle k u 128 t)
      (fun u _ v _ t ht => disarmUnit_keepsUnit k v 128 k u ht) _ u (List.mem_range.2 hu)

end

end Sys2Proof.Machine

/-! A commit takes effect in five parts (R26): what closes, what moves, the map, the cores that become spare, and Calm. -/
namespace Sys2Proof.Machine

/-- The core that channel `n` has once the pending commit has taken effect. -/
def State.newCore (s : State) (n : Nat) : Nat := s.dev.xbar.map.getD n n

/-- The channels that the pending commit moves, and the cores that they leave. -/
def State.movers (s : State) : List Nat := channels.filter fun n => s.newCore n ≠ s.core n
def State.leftCores (s : State) : List Nat := s.movers.map s.core

def commitCloses (s : State) : Prog :=
  seqs [advance (s.dev.xbar.beat * (s.reg R.LT_BEATCYC).toNat), each s.leftCores settleRegs, each s.leftCores useGrid,
    each s.leftCores leaveCore]

/-- The channels move; `t` is the state before any of them has moved. -/
def commitMoves (s t : State) : Prog := each s.movers fun n => moveChannel t n (t.core n) (s.newCore n)

def commitMaps (s : State) : Prog :=
  seqs [each channels fun n => setF (F.XBAR_MAP_CORE n) (s.newCore n),
    each (List.range 16) fun g => setF (F.XBAR_GANG_MODE g) (s.dev.xbar.gangs.getD g 0), clrB F.XBAR_STATUS_PENDING,
    setB F.XBAR_STATUS_DONE]

def commitSpares (s : State) : Prog :=
  each (s.leftCores.filter fun k => !(s.movers.map s.newCore).contains k) becomeSpare

/-- A moved channel is in Calm in its new core; one that was not asks for Calm there. -/
def settleCalm (s : State) (n : Nat) : Prog :=
  ask fun t => seqs [windowCalm n t.now true, setF (F.FMT_MODE_CUR (t.core n)) 1, when (!s.calm n) (calmRequest n)]

def commitCalms (s : State) : Prog := each s.movers (settleCalm s)

/-- The state in which the pending commit of `s` has taken effect. -/
def State.committed (s : State) : State :=
  let t := (commitCloses s).run s
  (commitCalms s).run ((commitSpares s).run ((commitMaps s).run ((commitMoves s t).run t)))

theorem run_progCommitTakesEffect {s : State} (hp : s.flg F.XBAR_STATUS_PENDING = true) (hv : s.valid = true) :
    progCommitTakesEffect.run s = s.committed := by
  rw [progCommitTakesEffect, run_on, if_pos (by rw [hp, hv]; rfl), run_ask]
  simp only [State.committed, commitCloses, commitMaps, commitCalms, commitSpares, commitMoves, run_seqs_cons, run_seqs_nil,
    run_ask]
  rfl

end Sys2Proof.Machine

/-! What closes and what moves at a commit: the first two parts (R525, R526). -/
namespace Sys2Proof.Machine

theorem core_lt (s : State) (n : Nat) : s.core n < 128 := fieldGet_lt _ 0 7

/-! The first part: what closes -/

/-- `t` is `s` once the cores that channels leave are closed. -/
structure CommitClosed (s t : State) : Prop where
  reg : ∀ k : RegKey, k.id ∉ leaveNames → t.reg k = s.reg k
  bytes : s.KeepsBytesBut t padBase 0x1001000
  now : t.now = s.onTo (s.dev.xbar.beat * (s.reg R.LT_BEATCYC).toNat)
  ctxWritten : ∀ k, (t.cst k).ctxWritten = (s.cst k).ctxWritten
  closed : ∀ n ∈ s.movers, t.coreClosed (s.core n)

theorem records_settleRegs {Q : RegKey → Prop} (k : Nat) : (settleRegs k).Records Q := by
  refine records_ask fun s => records_each fun r _ => ?_
  split
  · exact records_dev fun _ => rfl
  · exact records_done

theorem records_useGrid {Q : RegKey → Prop} (k : Nat) : (useGrid k).Records Q :=
  records_ask fun _ => records_when fun _ => records_modCore fun _ => rfl

theorem leftCores_lt {s : State} {k : Nat} (h : k ∈ s.leftCores) : k < 128 := by
  obtain ⟨n, -, rfl⟩ := List.mem_map.1 h
  exact core_lt s n

theorem commitCloses_spec (s : State) : CommitClosed s ((commitCloses s).run s) := by
  have hrec : (seqs [each s.leftCores settleRegs, each s.leftCores useGrid, each s.leftCores leaveCore]).Records
      fun k => k.id ∈ leaveNames :=
    records_cons (records_each fun k _ => records_settleRegs k) <| records_cons (records_each fun k _ => records_useGrid k) <|
      records_cons (records_each fun k hk => records_leaveCore (leftCores_lt hk)) records_nil
  rw [commitCloses, run_seqs_cons]
  refine ⟨fun k hk => hrec.reg _ hk, hrec.bytes _, hrec.now _, hrec.ctxWritten _, fun n hn => ?_⟩
  rw [run_seqs_cons, run_seqs_cons, run_seqs_cons, run_seqs_nil]
  exact each_all (P := fun k t => t.coreClosed k) (fun k _ t => leaveCore_closed k t)
    (fun k _ j hj t ht => leaveCore_keeps (leftCores_lt hj) k ht) _ _ (List.mem_map_of_mem hn)

/-! The second part: what moves -/

/-- What a move changes in the new core beside the sequencer's state. -/
def moveNames : List RegId := [.PLAY_SEGID, .LOOP_NOW, .LOOP_TAPERNOW, .SEQ_PC, .SEQ_WHY, .EVJ_PEND]

/-- The state in which a sequencer that was in core `a` goes on in core `b` (R526). -/
def State.movedSt (s : State) (a b : Nat) : Nat :=
  if s.seqSt a = stHeld ∧ (s.cst b).ctxWritten = true then stHeld else stIdle

theorem records_ctxLoad {Q : RegKey → Prop} (k : Nat) (l : List Nat) (h : Covers Q moveNames) : (ctxLoad k l).Records Q :=
  records_cons (records_setF (h _ (by simp [moveNames]))) <| records_cons (records_setF (h _ (by simp [moveNames]))) <|
    records_cons (records_setF (h _ (by simp [moveNames]))) <| records_cons (records_modCore fun _ => rfl) records_nil

theorem records_moveWindow {Q : RegKey → Prop} (s : State) (n a b : Nat) : (moveWindow s n a b).Records Q :=
  records_cons (records_modCore fun _ => rfl) <| records_cons (records_dev fun _ => rfl) records_nil

theorem records_movePlay {Q : RegKey → Prop} (s : State) (a b : Nat) (h : Covers Q moveNames) : (movePlay s a b).Records Q :=
  records_cons (records_modCore fun _ => rfl) <| records_cons (records_setF (h _ (by simp [moveNames]))) <|
    records_cons (records_setF (h _ (by simp [moveNames]))) <| records_cons (records_setF (h _ (by simp [moveNames]))) <|
    records_cons (records_modCore fun _ => rfl) records_nil

theorem records_moveSequencer {Q : RegKey → Prop} (s : State) (n a b : Nat) (h : Covers Q moveNames) (hst : Q (R.SEQ_STATE b))
    (ht : Q (R.CAL_CH_TST n)) : (moveSequencer s n a b).Records Q := by
  unfold moveSequencer
  dsimp only
  split
  · exact records_cons (records_ctxLoad b _ h) <| records_cons (records_setF hst) records_nil
  · exact records_cons (records_setF hst) <| records_cons (records_when fun _ => records_setB ht) records_nil

/-- What the move of channel `n` to core `b` can change. -/
def MoveRegs (n b : Nat) (k : RegKey) : Prop := k.id ∈ moveNames ∨ k = R.SEQ_STATE b ∨ k = R.CAL_CH_TST n

theorem records_moveChannel (s : State) (n a b : Nat) : (moveChannel s n a b).Records (MoveRegs n b) :=
  records_cons (records_moveWindow s n a b) <| records_cons (records_movePlay s a b fun _ => .inl) <|
    records_cons (records_moveSequencer s n a b (fun _ => .inl) (.inr (.inl rfl)) (.inr (.inr rfl))) records_nil

theorem seqStateSt_ok (k : Nat) : (F.SEQ_STATE_ST k).ok = true := (by decide +kernel : (F.SEQ_STATE_ST 0).ok = true)

theorem ctxLost_ok (n : Nat) : (F.CAL_CH_TST_CTXLOST n).ok = true := (by decide +kernel : (F.CAL_CH_TST_CTXLOST 0).ok = true)

/-- The sequencer in the new core is HELD or IDLE; where it is not HELD, the context of one that ran, waited or was held is lost. -/
theorem moveSequencer_spec (s : State) (n a b : Nat) (t : State) :
    let t' := (moveSequencer s n a b).run t
    t'.seqSt b = s.movedSt a b ∧
      ((s.seqSt a = stRun ∨ s.seqSt a = stWait ∨ s.seqSt a = stHeld) → s.movedSt a b ≠ stHeld →
        t'.fld (F.CAL_CH_TST_CTXLOST n) = 1) := by
  by_cases h : s.seqSt a = stHeld ∧ (s.cst b).ctxWritten = true
  · rw [moveSequencer, if_pos (by simpa using h), State.movedSt, if_pos h, run_seqs_cons, run_seqs_cons, run_seqs_nil]
    exact ⟨State.fld_setFld _ _ _ (seqStateSt_ok b), fun _ hne => absurd rfl hne⟩
  · rw [moveSequencer, if_neg (by simpa using h), State.movedSt, if_neg h, run_seqs_cons, run_seqs_cons, run_seqs_nil, run_when]
    refine ⟨?_, fun hst _ => ?_⟩
    · have h0 : ((setF (F.SEQ_STATE_ST b) stIdle).run t).seqSt b = stIdle := State.fld_setFld _ _ _ (seqStateSt_ok b)
      split
      · exact (State.fld_setFld_reg _ _ _ _ (by simp)).trans h0
      · exact h0
    · rw [if_pos (by simpa [or_assoc] using hst)]
      exact State.fld_setFld _ _ _ (ctxLost_ok n)

/-- What has become of the sequencer of channel `n`, which was in core `a` in state `s`, now that it is in core `b`. -/
def SequencerMoved (s t : State) (n a b : Nat) : Prop :=
  t.seqSt b = s.movedSt a b ∧
    ((s.seqSt a = stRun ∨ s.seqSt a = stWait ∨ s.seqSt a = stHeld) → s.movedSt a b ≠ stHeld → t.fld (F.CAL_CH_TST_CTXLOST n) = 1)

theorem moveChannel_moved (s : State) (n a b : Nat) (t : State) : SequencerMoved s ((moveChannel s n a b).run t) n a b := by
  rw [moveChannel, run_seqs_cons, run_seqs_cons, run_seqs_cons, run_seqs_nil]
  exact moveSequencer_spec s n a b _

/-- A program that leaves the two registers as they are leaves the sequencer moved. -/
theorem SequencerMoved.keep {s t t' : State} {n a b : Nat} (h : SequencerMoved s t n a b) (hst : t'.seqSt b = t.seqSt b)
    (ht : t'.fld (F.CAL_CH_TST_CTXLOST n) = t.fld (F.CAL_CH_TST_CTXLOST n)) : SequencerMoved s t' n a b :=
  ⟨hst.trans h.1, fun h1 h2 => ht.trans (h.2 h1 h2)⟩

theorem nodup_of_hasRepeat {l : List Nat} (h : hasRepeat l = false) : l.Nodup := by
  induction l with
  | nil => exact List.nodup_nil
  | cons a l ih =>
    simp only [hasRepeat, Bool.or_eq_false_iff, List.contains_eq_mem, decide_eq_false_iff_not] at h
    exact List.nodup_cons.2 ⟨h.1, ih h.2⟩

theorem movers_channels {s : State} {n : Nat} (h : n ∈ s.movers) : n ∈ channels := List.mem_of_mem_filter h

/-- No two channels have the same new core. -/
theorem newCore_inj {s : State} (h : hasRepeat (channels.map s.newCore) = false) {n m : Nat} (hn : n ∈ s.movers)
    (hm : m ∈ s.movers) (e : s.newCore n = s.newCore m) : n = m :=
  List.inj_on_of_nodup_map (nodup_of_hasRepeat h) (movers_channels hn) (movers_channels hm) e

theorem commitMoves_moved {s : State} (h : hasRepeat (channels.map s.newCore) = false) (t : State) :
    ∀ n ∈ s.movers, SequencerMoved t ((commitMoves s t).run t) n (t.core n) (s.newCore n) := by
  refine each_all (P := fun n r => SequencerMoved t r n (t.core n) (s.newCore n))
    (fun n _ r => moveChannel_moved t n _ _ r) (fun n hn m hm r hr => ?_) t
  by_cases hnm : n = m
  · rw [hnm]
    exact moveChannel_moved t m _ _ r
  · have hb : s.newCore n ≠ s.newCore m := fun e => hnm (newCore_inj h hn hm e)
    have hrec := records_moveChannel t m (t.core m) (s.newCore m)
    exact hr.keep (hrec.fld r (by simp [MoveRegs, moveNames, hb])) (hrec.fld r (by simp [MoveRegs, moveNames, hnm]))

theorem records_commitMoves (s t : State) :
    (commitMoves s t).Records fun k => k.id ∈ .SEQ_STATE :: .CAL_CH_TST :: moveNames := by
  refine records_each fun n _ => ?_
  refine records_cons (records_moveWindow t n _ _) <| records_cons (records_movePlay t _ _ ((covers_self _).sub (by simp))) <|
    records_cons (records_moveSequencer t n _ _ ((covers_self _).sub (by simp)) (by simp) (by simp)) records_nil

end Sys2Proof.Machine

/-! The map, the spare cores and Calm: the other three parts of a commit (R22, R28, R33). -/
namespace Sys2Proof.Machine

/-! The third part: the map and the gangs -/

theorem xbarFields_ok : (∀ n, (F.XBAR_MAP_CORE n).ok = true) ∧ (∀ g, (F.XBAR_GANG_MODE g).ok = true) ∧
    F.XBAR_STATUS_PENDING.ok = true ∧ F.XBAR_STATUS_DONE.ok = true :=
  ⟨fun _ => (by decide +kernel : (F.XBAR_MAP_CORE 0).ok = true), fun _ => (by decide +kernel : (F.XBAR_GANG_MODE 0).ok = true),
    by decide +kernel, by decide +kernel⟩

/-- What the map of a commit changes. -/
def mapNames : List RegId := [.XBAR_MAP, .XBAR_GANG, .XBAR_STATUS]

theorem touches_commitMaps (s : State) : (commitMaps s).Touches mapNames :=
  only_seqs_cons (only_each fun _ _ => only_setF (by simp [mapNames])) <|
    only_seqs_cons (only_each fun _ _ => only_setF (by simp [mapNames])) <|
    only_seqs_cons (only_clrB (by simp [mapNames])) <| only_seqs_cons (only_setB (by simp [mapNames])) only_seqs_nil

/-- `t` holds the map and the gangs of the commit that was pending in `s`, which is done. -/
structure CommitMapped (s t : State) : Prop where
  map : ∀ n < 64, t.fld (F.XBAR_MAP_CORE n) = s.newCore n % 2 ^ 7
  gangs : ∀ g < 16, t.fld (F.XBAR_GANG_MODE g) = s.dev.xbar.gangs.getD g 0 % 2 ^ 3
  pending : t.fld F.XBAR_STATUS_PENDING = 0
  done : t.fld F.XBAR_STATUS_DONE = 1

theorem commitMaps_spec (s t : State) : CommitMapped s ((commitMaps s).run t) := by
  obtain ⟨hmap, hgang, hpending, hdone⟩ := xbarFields_ok
  have hmaps := each_all (l := channels) (f := fun n => setF (F.XBAR_MAP_CORE n) (s.newCore n))
    (P := fun n r => r.fld (F.XBAR_MAP_CORE n) = s.newCore n % 2 ^ 7) (fun n _ r => State.fld_setFld r _ _ (hmap n))
    (fun n _ m _ r hr => by
      by_cases h : n = m
      · rw [h]
        exact State.fld_setFld r _ _ (hmap m)
      · exact (State.fld_setFld_reg _ _ _ _ (by simpa using h)).trans hr) t
  have hgangs := each_all (l := List.range 16) (f := fun g => setF (F.XBAR_GANG_MODE g) (s.dev.xbar.gangs.getD g 0))
    (P := fun g r => r.fld (F.XBAR_GANG_MODE g) = s.dev.xbar.gangs.getD g 0 % 2 ^ 3)
    (fun g _ r => State.fld_setFld r _ _ (hgang g)) (fun g _ m _ r hr => by
      by_cases h : g = m
      · rw [h]
        exact State.fld_setFld r _ _ (hgang m)
      · exact (State.fld_setFld_reg _ _ _ _ (by simpa using h)).trans hr)
    ((each channels fun n => setF (F.XBAR_MAP_CORE n) (s.newCore n)).run t)
  rw [commitMaps, run_seqs_cons, run_seqs_cons, run_seqs_cons, run_seqs_cons, run_seqs_nil, run_clrB, run_setB]
  constructor
  case map =>
    intro n hn
    rw [State.fld_setFld_reg _ _ _ _ (by simp), State.fld_setFld_reg _ _ _ _ (by simp)]
    have hkeep : (each (List.range 16) fun g => setF (F.XBAR_GANG_MODE g) (s.dev.xbar.gangs.getD g 0)).Touches [.XBAR_GANG] :=
      only_each fun _ _ => only_setF (by simp)
    exact (only_fld hkeep _ (by simp)).trans (hmaps n (List.mem_range.2 hn))
  case gangs =>
    intro g hg
    rw [State.fld_setFld_reg _ _ _ _ (by simp), State.fld_setFld_reg _ _ _ _ (by simp)]
    exact hgangs g (List.mem_range.2 hg)
  case pending =>
    rw [State.fld_setFld_apart _ _ _ _ hpending (by decide), State.fld_setFld _ _ _ hpending]
    rfl
  case done => exact State.fld_setFld _ _ _ hdone

theorem records_commitMaps (s : State) : (commitMaps s).Records fun k => k.id ∈ mapNames :=
  records_cons (records_each fun _ _ => records_setF (by simp [mapNames])) <|
    records_cons (records_each fun _ _ => records_setF (by simp [mapNames])) <|
    records_cons (records_setF (by simp [mapNames])) <| records_cons (records_setB (by simp [mapNames])) records_nil

/-! The fourth part: cores that become spare -/

/-- The registers that change in the cores which become spare: none in a core that a channel has moved to. -/
def SpareRegs (s : State) (k : RegKey) : Prop := k.id ∈ [RegId.FMT_MODE, .SEQ_STATE] ∧ ∀ n ∈ s.movers, k.u ≠ s.newCore n

theorem only_commitSpares (s : State) : (commitSpares s).Only (SpareRegs s) fun _ => False := by
  refine only_each fun k hk => ?_
  have hne : ∀ n ∈ s.movers, k ≠ s.newCore n := by
    rintro n hn rfl
    have := (List.mem_filter.1 hk).2
    simp only [List.contains_eq_mem, Bool.not_eq_true', decide_eq_false_iff_not] at this
    exact this (List.mem_map_of_mem hn)
  exact only_seqs_cons (only_setF ⟨by simp, hne⟩) <| only_seqs_cons (only_setF ⟨by simp, hne⟩) <|
    only_seqs_cons only_dev <| only_seqs_cons only_dev only_seqs_nil

theorem becomeSpare_now (k : Nat) (s : State) : ((becomeSpare k).run s).now = s.now := rfl

theorem commitSpares_now (s t : State) : ((commitSpares s).run t).now = t.now :=
  each_keeps (I := fun r => r.now = t.now) (fun k _ r hr => (becomeSpare_now k r).trans hr) rfl

/-! The fifth part: Calm -/

theorem records_modSeq {Q : RegKey → Prop} (k : Nat) (f : SeqSt → SeqSt) : (modSeq k f).Records Q :=
  records_modCore fun _ => rfl

theorem records_holdSequencer {Q : RegKey → Prop} (k : Nat) (h : Q (R.SEQ_STATE k)) : (holdSequencer k).Records Q := by
  refine records_ask fun s => ?_
  dsimp only
  split
  · exact records_cons (records_modSeq _ _) <| records_cons (records_setF h) records_nil
  · exact records_when fun _ => records_modSeq _ _

/-- Every channel of the gang is to enter Calm. -/
theorem records_askCalm {Q : RegKey → Prop} (l : List Nat) (f : DrvSt → DrvSt) : (each l fun k => modDrv k f).Records Q :=
  records_each fun _ _ => records_modCore fun _ => rfl

theorem records_calmRequest {Q : RegKey → Prop} (n : Nat) (h : Covers Q [.SEQ_STATE]) : (calmRequest n).Records Q :=
  records_ask fun _ => records_cons (records_askCalm _ _) <| records_cons (records_holdSequencer _ (h _ (by simp))) records_nil

theorem records_settleCalm {Q : RegKey → Prop} (s : State) (n : Nat) (h : Covers Q [.FMT_MODE, .SEQ_STATE]) :
    (settleCalm s n).Records Q :=
  records_ask fun _ => records_cons (records_dev fun _ => rfl) <| records_cons (records_setF (h _ (by simp))) <|
    records_cons (records_when fun _ => records_calmRequest n (h.sub (by simp))) records_nil

/-- A request holds a sequencer that runs or waits, and leaves any other in its state (R290). -/
theorem holdSequencer_keeps (k j : Nat) {s : State} (h : s.seqSt j ≠ stRun ∧ s.seqSt j ≠ stWait) :
    ((holdSequencer k).run s).seqSt j = s.seqSt j := by
  by_cases hj : j = k
  · have hidle (c : Bool) (f : SeqSt → SeqSt) : (when c (modSeq k f)).Records fun _ => False :=
      records_when fun _ => records_modSeq k f
    rw [holdSequencer, run_ask]
    dsimp only
    rw [if_neg (by simp [← hj, h.1, h.2])]
    exact (hidle _ _).fld s id
  · have hrec : (holdSequencer k).Records fun x => x = R.SEQ_STATE k := records_holdSequencer k rfl
    exact hrec.fld s (by simpa using hj)

theorem calmRequest_keeps (n j : Nat) {s : State} (h : s.seqSt j ≠ stRun ∧ s.seqSt j ≠ stWait) :
    ((calmRequest n).run s).seqSt j = s.seqSt j := by
  have hpre (l : List Nat) (f : DrvSt → DrvSt) : ((each l fun k => modDrv k f).run s).seqSt j = s.seqSt j :=
    Prog.Records.fld (Q := fun _ => False) (records_askCalm l f) s id
  rw [calmRequest, run_ask, run_seqs_cons, run_seqs_cons, run_seqs_nil]
  exact (holdSequencer_keeps _ _ (by rwa [hpre])).trans (hpre _ _)

theorem fmtModeCur_ok (k : Nat) : (F.FMT_MODE_CUR k).ok = true := (by decide +kernel : (F.FMT_MODE_CUR 0).ok = true)

theorem run_settleCalm (s : State) (n : Nat) (t : State) : (settleCalm s n).run t =
    (when (!s.calm n) (calmRequest n)).run (((windowCalm n t.now true).run t).setFld (F.FMT_MODE_CUR (t.core n)) 1) := by
  rw [settleCalm, run_ask, run_seqs_cons, run_seqs_cons, run_seqs_cons, run_seqs_nil, run_setF]

theorem settleCalm_core (s : State) (n m : Nat) (t : State) : ((settleCalm s n).run t).core m = t.core m :=
  (records_settleCalm s n (covers_self _)).fld t (by simp)

/-- The mode in effect of the channel's core is Calm then, and it stays Calm where it is. -/
theorem settleCalm_cur (s : State) (n : Nat) (t : State) {k : Nat} (h : k = t.core n ∨ t.fld (F.FMT_MODE_CUR k) = 1) :
    ((settleCalm s n).run t).fld (F.FMT_MODE_CUR k) = 1 := by
  rw [run_settleCalm]
  refine ((records_when fun _ => records_calmRequest n (covers_self _)).fld _ (by simp)).trans ?_
  by_cases hk : k = t.core n
  · rw [hk]
    exact State.fld_setFld _ _ _ (fmtModeCur_ok _)
  · exact (State.fld_setFld_reg _ _ _ _ (by simpa using hk)).trans (h.resolve_left hk)

/-- A sequencer that neither runs nor waits stays in its state. -/
theorem settleCalm_seqSt (s : State) (n : Nat) {j : Nat} {t : State} (h : t.seqSt j ≠ stRun ∧ t.seqSt j ≠ stWait) :
    ((settleCalm s n).run t).seqSt j = t.seqSt j := by
  have hpre : (((windowCalm n t.now true).run t).setFld (F.FMT_MODE_CUR (t.core n)) 1).seqSt j = t.seqSt j :=
    State.fld_setFld_reg _ _ _ _ (by simp)
  rw [run_settleCalm, run_when]
  split
  · rw [calmRequest_keeps _ _ (by rwa [hpre]), hpre]
  · exact hpre

theorem records_commitCalms (s : State) : (commitCalms s).Records fun k => k.id ∈ [RegId.FMT_MODE, .SEQ_STATE] :=
  records_each fun n _ => records_settleCalm s n (covers_self _)

/-- Every moved channel is in Calm in its core. -/
theorem commitCalms_cur (s t : State) {n : Nat} (hn : n ∈ s.movers) : ((commitCalms s).run t).calm n = true := by
  refine decide_eq_true ?_
  exact each_all (P := fun n r => r.fld (F.FMT_MODE_CUR (r.core n)) = 1)
    (fun n _ r => settleCalm_cur s n r (.inl (settleCalm_core s n n r)))
    (fun n _ m _ r hr => settleCalm_cur s m r (.inr (by rwa [settleCalm_core]))) t n hn

theorem commitCalms_seqSt (s : State) {j : Nat} {t : State} (h : t.seqSt j ≠ stRun ∧ t.seqSt j ≠ stWait) :
    ((commitCalms s).run t).seqSt j = t.seqSt j :=
  each_keeps (I := fun r => r.seqSt j = t.seqSt j)
    (fun n _ r hr => (settleCalm_seqSt s n (by rwa [hr])).trans hr) rfl

end Sys2Proof.Machine

/-! The commit as a whole, from its five parts. -/
namespace Sys2Proof.Machine

theorem State.KeepsRegs.mono {s t : State} {l names : List RegId} (h : s.KeepsRegs t l) (hl : l ⊆ names) : s.KeepsRegs t names :=
  fun k hk => h k fun hm => hk (hl hm)

/-- What a commit that takes effect can change. -/
def commitNames : List RegId := leaveNames ++ .SEQ_STATE :: .CAL_CH_TST :: moveNames ++ mapNames ++ [.FMT_MODE]

section
variable {s t : State} {n : Nat}

/-- What follows the map leaves every register but the modes in effect and the sequencers' states as it is. -/
theorem reg_afterMaps (s t : State) {k : RegKey} (h : k.id ∉ [RegId.FMT_MODE, .SEQ_STATE]) :
    ((commitCalms s).run ((commitSpares s).run t)).reg k = t.reg k :=
  ((records_commitCalms s).reg _ h).trans (only_reg (only_commitSpares s) t fun hk => h hk.1)

theorem fld_afterMaps (s t : State) {f : Field} (h : f.reg.id ∉ [RegId.FMT_MODE, .SEQ_STATE]) :
    ((commitCalms s).run ((commitSpares s).run t)).fld f = t.fld f := by
  rw [State.fld, reg_afterMaps s t h, State.fld]

theorem committed_keepsRegs (s : State) : s.KeepsRegs s.committed commitNames := by
  intro k h
  simp only [commitNames, List.mem_append, not_or] at h
  obtain ⟨⟨⟨hleave, hmove⟩, hmap⟩, hmode⟩ := h
  calc s.committed.reg k
    _ = _ := reg_afterMaps s _ (by simp_all)
    _ = _ := (records_commitMaps s).reg _ hmap
    _ = _ := (records_commitMoves s _).reg _ hmove
    _ = s.reg k := (commitCloses_spec s).reg k hleave

theorem committed_bytes (s : State) : s.KeepsBytesBut s.committed padBase 0x1001000 := fun x hx =>
  calc s.committed.byte x
    _ = _ := (records_commitCalms s).bytes _ x hx
    _ = _ := only_byte (only_commitSpares s) _ id
    _ = _ := (records_commitMaps s).bytes _ x hx
    _ = _ := (records_commitMoves s _).bytes _ x hx
    _ = s.byte x := (commitCloses_spec s).bytes x hx

theorem committed_now (s : State) : s.committed.now = s.onTo (s.dev.xbar.beat * (s.reg R.LT_BEATCYC).toNat) :=
  calc s.committed.now
    _ = _ := (records_commitCalms s).now _
    _ = _ := commitSpares_now s _
    _ = _ := (records_commitMaps s).now _
    _ = _ := (records_commitMoves s _).now _
    _ = _ := (commitCloses_spec s).now

theorem committed_mapped (s : State) : CommitMapped s s.committed := by
  obtain ⟨hmap, hgangs, hpending, hdone⟩ :=
    commitMaps_spec s ((commitMoves s ((commitCloses s).run s)).run ((commitCloses s).run s))
  exact ⟨fun n hn => (fld_afterMaps s _ (by simp)).trans (hmap n hn),
    fun g hg => (fld_afterMaps s _ (by simp)).trans (hgangs g hg),
    (fld_afterMaps s _ (by simp)).trans hpending, (fld_afterMaps s _ (by simp)).trans hdone⟩

theorem committed_core (hn : n < 64) (hb : s.newCore n < 128) : s.committed.core n = s.newCore n :=
  ((committed_mapped s).map n hn).trans (Nat.mod_eq_of_lt hb)

/-- Once the closes are done, the states of captures and units stay. -/
theorem committed_fld_closed (s : State) {f : Field} (h : f.reg.id ∈ [RegId.CAP_STATE, .EVM_STATE]) :
    s.committed.fld f = ((commitCloses s).run s).fld f := by
  have hmem : f.reg.id = .CAP_STATE ∨ f.reg.id = .EVM_STATE := by simpa using h
  calc s.committed.fld f
    _ = _ := fld_afterMaps s _ (by rcases hmem with h | h <;> simp [h])
    _ = _ := (records_commitMaps s).fld _ (by rcases hmem with h | h <;> simp [h, mapNames])
    _ = _ := (records_commitMoves s _).fld _ (by rcases hmem with h | h <;> simp [h, moveNames])

theorem committed_closed (hn : n ∈ s.movers) : s.committed.coreClosed (s.core n) := by
  obtain ⟨hcap, hunits⟩ := (commitCloses_spec s).closed n hn
  exact ⟨(committed_fld_closed s (by simp)).trans hcap, fun u hu => (committed_fld_closed s (by simp)).trans (hunits u hu)⟩

/-- What is judged of a sequencer that moves is the same before and after the closes. -/
theorem CommitClosed.sequencer (h : CommitClosed s t) :
    (∀ n, t.core n = s.core n) ∧ (∀ k, t.seqSt k = s.seqSt k) ∧ ∀ a b, t.movedSt a b = s.movedSt a b := by
  have hreg {f : Field} (hf : f.reg.id ∉ leaveNames) : t.fld f = s.fld f := by rw [State.fld, h.reg _ hf, State.fld]
  have hseq (k : Nat) : t.seqSt k = s.seqSt k := hreg (by decide : RegId.SEQ_STATE ∉ leaveNames)
  refine ⟨fun n => hreg (by decide : RegId.XBAR_MAP ∉ leaveNames), hseq, fun a b => ?_⟩
  rw [State.movedSt, hseq, h.ctxWritten, State.movedSt]

theorem movedSt_still (s : State) (a b : Nat) : s.movedSt a b ≠ stRun ∧ s.movedSt a b ≠ stWait := by
  unfold State.movedSt
  split <;> decide

theorem committed_sequencer (hr : hasRepeat (channels.map s.newCore) = false) (hn : n ∈ s.movers) :
    SequencerMoved s s.committed n (s.core n) (s.newCore n) := by
  obtain ⟨hcore, hseq, hmoved⟩ := (commitCloses_spec s).sequencer
  have hclosed := commitMoves_moved hr ((commitCloses s).run s) n hn
  rw [SequencerMoved, hcore, hseq, hmoved] at hclosed
  have hmaps : SequencerMoved s _ n (s.core n) (s.newCore n) :=
    SequencerMoved.keep hclosed ((records_commitMaps s).fld _ (by simp [mapNames])) ((records_commitMaps s).fld _ (by simp [mapNames]))
  have hspares := hmaps.keep (only_fld (only_commitSpares s) _ fun h => h.2 n hn rfl)
    (only_fld (only_commitSpares s) _ fun h => by simpa using h.1)
  exact hspares.keep (commitCalms_seqSt s (by rw [hspares.1]; exact movedSt_still s _ _)) ((records_commitCalms s).fld _ (by simp))

/-- A channel is moved when its core after the commit is not the one before. -/
theorem mem_movers (hn : n < 64) (h : s.newCore n ≠ s.core n) : n ∈ s.movers :=
  List.mem_filter.2 ⟨List.mem_range.2 hn, by simpa using h⟩

/-! Commits that move no channel -/

theorem committed_still (h : s.movers = []) : s.committed =
    (commitMaps s).run ((advance (s.dev.xbar.beat * (s.reg R.LT_BEATCYC).toNat)).run s) := by
  have hl : s.leftCores = [] := by rw [State.leftCores, h, List.map_nil]
  simp only [State.committed, commitCloses, commitMoves, commitSpares, commitCalms, hl, h, List.filter_nil, each, run_seqs_cons,
    run_seqs_nil, run_done]

end

theorem completes_commitTakesEffect {s : State} {P : State → Prop} (ha : s.awake = true)
    (hp : s.flg F.XBAR_STATUS_PENDING = true) (hv : s.valid = true) (h : P s.committed) : Completes .commitTakesEffect s P := by
  refine ⟨_, rfl, ?_⟩
  rw [awake, run_on, if_pos ha, run_progCommitTakesEffect hp hv]
  exact h

/-- The map is held in registers only. -/
theorem commitMaps_dev (s t : State) : ((commitMaps s).run t).dev = t.dev := by
  have hset {l : List Nat} {f : Nat → Field} {v : Nat → Nat} (t : State) : ((each l fun n => setF (f n) (v n)).run t).dev = t.dev :=
    each_keeps (f := fun n => setF (f n) (v n)) (I := fun r => r.dev = t.dev) (fun _ _ _ hr => hr) rfl
  rw [commitMaps, run_seqs_cons, run_seqs_cons, run_seqs_cons, run_seqs_cons, run_seqs_nil, run_clrB, run_setB, State.setFld_dev,
    State.setFld_dev, hset, hset]

/-- A request that reaches `XBAR.COMMIT` is judged there. -/
theorem completes_commit {s : State} {p : Port} {beat : BitVec 64} {P : State → Prop}
    (hlo : s.admits p R.XBAR_COMMIT_LO (BitVec.ofNat 32 beat.toNat) = true)
    (hhi : s.admits p R.XBAR_COMMIT_HI (BitVec.ofNat 32 (beat.toNat / 2 ^ 32)) = true)
    (h : ∀ s', CommitNamed s s' beat.toNat → P ((toMaster p 0 0).run ((effCommit beat.toNat).run s'))) :
    Completes (.commit p beat) s P := by
  obtain ⟨s', hs, hrun⟩ := run_commit beat.isLt hlo hhi
  refine ⟨_, rfl, ?_⟩
  rw [hrun]
  exact h s' hs

/-- A judged request is answered OK, and changes the status and the number of the beat only. -/
theorem CommitNamed.answered {s s' : State} {n : Nat} (h : CommitNamed s s' n) (p : Port) :
    let t := (toMaster p 0 0).run ((effCommit n).run s')
    t.lastAnswer p = Answer.mk 0 0 ∧ s.KeepsRegs t [.XBAR_STATUS, .XBAR_COMMIT_LO, .XBAR_COMMIT_HI] ∧ s.KeepsBytes t := by
  have htouch := touches_effCommit n
  refine ⟨lastAnswer_toMaster _ _ _ _, fun k hk => ?_, fun x => ?_⟩
  · simp only [List.mem_cons, not_or] at hk
    obtain ⟨hstatus, hlo, -⟩ := hk
    exact (htouch.keepsRegs s' k (by simpa using hstatus)).trans (h.reg hlo)
  · exact (htouch.keepsBytes s' x).trans (h.bytes x)

/-- Settles O8: a request is judged by the conditions of R25, and a commit that takes effect is the composition of what it closes,
what it moves, its map, the cores that become spare and Calm; later parts keep what earlier ones bring about. -/
theorem commitsMoveTheMapAtTheirBeat : Obligations.CommitsMoveTheMapAtTheirBeat := by
  unfold Obligations.CommitsMoveTheMapAtTheirBeat
  refine ⟨?accepted, ?refused, ?moves, ?still⟩
  case accepted =>
    intro s p beat hlo hhi hv hp hb hr hg
    refine completes_commit hlo hhi fun s' hs => ?_
    obtain ⟨hanswer, hregs, hbytes⟩ := hs.answered p
    obtain ⟨jv, jp, jb, jm, jg, jbusy⟩ := hs.judged
    have hrun := run_effCommit_accepted (s := s') (n := beat.toNat) (by rwa [jv]) (by rwa [jp]) (by rwa [jb]) (by rwa [jm])
      (by rwa [jbusy])
    obtain ⟨-, -, hok, -⟩ := xbarFields_ok
    refine ⟨?_, ?_, ?_, ?_, hanswer, hregs, hbytes⟩
    · rw [toMaster_fld, hrun]
      exact State.fld_setFld _ _ _ hok
    · rw [hrun, ← jm]
      rfl
    · rw [hrun, ← jg]
      rfl
    · rw [hrun]
      rfl
  case refused =>
    intro s p beat hlo hhi hfail
    refine completes_commit hlo hhi fun s' hs => ?_
    obtain ⟨hanswer, hregs, hbytes⟩ := hs.answered p
    obtain ⟨jv, jp, jb, jm, jg, jbusy⟩ := hs.judged
    obtain ⟨hpending, hdev, hnolt, hbusy, hpast, hconflict, hgang⟩ :=
      effCommit_refused (s := s') (n := beat.toNat) (by rwa [jv, jp, jb, jm, jbusy])
    rw [jv, hs.fld (by simp)] at hnolt
    rw [jp, hs.fld (by simp)] at hbusy
    rw [jv, jb, hs.fld (by simp)] at hpast
    rw [jm, hs.fld (by simp)] at hconflict
    rw [jbusy, hs.fld (by simp)] at hgang
    rw [hs.fld (by simp)] at hpending
    simp only [toMaster_fld]
    exact ⟨hpending, (congrArg Dev.xbar hdev).trans hs.xbar, hnolt, hbusy, hpast, hconflict, hgang, hanswer, hregs, hbytes⟩
  case moves =>
    intro s ha hp hv hr hlt
    refine completes_commitTakesEffect ha hp hv ?_
    obtain ⟨hmap, hgangs, hpending, hdone⟩ := committed_mapped s
    have hcore {n : Nat} (hn : n < 64) : s.committed.core n = s.newCore n := by
      have : s.newCore n < 68 := of_decide_eq_true (List.all_eq_true.1 hlt n (List.mem_range.2 hn))
      exact committed_core hn (by omega)
    have hmem {n : Nat} (hn : n < 64) (hne : s.committed.core n ≠ s.core n) : n ∈ s.movers := mem_movers hn (by rwa [← hcore hn])
    refine ⟨committed_now s, hmap, hgangs, hpending, hdone, fun n hn hne => ?calm, fun n hn hne => ?capture,
      fun n hn hne => ?units, fun n hn hne => ?seq, fun n hn hne hst hidle => ?lost, (committed_keepsRegs s).mono (by decide),
      committed_bytes s⟩
    case calm => exact of_decide_eq_true (commitCalms_cur s _ (hmem hn hne))
    case capture => exact (committed_closed (hmem hn hne)).1
    case units => exact (committed_closed (hmem hn hne)).2
    case seq =>
      rw [hcore hn]
      exact (committed_sequencer hr (hmem hn hne)).1
    case lost =>
      obtain ⟨hseq, hctx⟩ := committed_sequencer hr (hmem hn hne)
      exact hctx hst (by rwa [← hseq, ← hcore hn])
  case still =>
    intro s ha hp hv hsame
    refine completes_commitTakesEffect ha hp hv ?_
    have hnew {n : Nat} (hn : n < 64) : s.newCore n = s.core n :=
      of_decide_eq_true (List.all_eq_true.1 hsame n (List.mem_range.2 hn))
    have hnone : s.movers = [] := List.filter_eq_nil_iff.2 fun n hn => by simpa using hnew (List.mem_range.1 hn)
    obtain ⟨-, hgangs, hpending, hdone⟩ := committed_mapped s
    have hcore {n : Nat} (hn : n < 64) : s.committed.core n = s.core n :=
      (committed_core hn (by rw [hnew hn]; exact core_lt s n)).trans (hnew hn)
    have hrun := committed_still hnone
    have hdev : s.committed.dev = ((advance (s.dev.xbar.beat * (s.reg R.LT_BEATCYC).toNat)).run s).dev := by
      rw [hrun, commitMaps_dev]
    have htouch := touches_commitMaps s
    refine ⟨committed_now s, hgangs, fun n hn => hcore hn, hpending, hdone, (congrArg Dev.cores hdev).trans rfl,
      (congrArg Dev.reqs hdev).trans rfl, ?_, ?_⟩
    · rw [hrun]
      intro k hk
      exact htouch.keepsRegs _ k (by simp_all [mapNames])
    · rw [hrun]
      exact htouch.keepsBytes _

end Sys2Proof.Machine

/-! A step on an empty queue (R3, R75): Line Time goes on as far as its 64 bits reach. -/
namespace Sys2Proof.Machine

/-- With no command in the queue a step is a tick. -/
theorem step_of_empty {s : State} (h : s.pending = []) : step s = .next (tick.run s) := by
  simp only [step, h]

/-- A tick while locked goes on by one cycle, where the count of 64 bits has room for it. -/
theorem tick_now_locked {s : State} (ha : s.awake = true) (hl : s.locked = true) : (tick.run s).now = s.onTo (s.now + 1) := by
  simp only [State.awake, Bool.and_eq_true, decide_eq_true_eq] at ha
  obtain ⟨hhib, hpor⟩ := ha
  have hrun : ¬(s.dev.rst.hib ≥ 3 || s.dev.rst.por ≠ 0) = true := by simp; omega
  rw [tick, run_ask, if_neg hrun, if_pos hl]
  rfl

/-- A locked device at the last cycle that `LT_CYC` can count (R3), with nothing to do. -/
def lastCycle : State :=
  { State.reset with
    regs := [(R.LT_STATE, 4)], pending := []
    dev := { State.reset.dev with lt := { State.reset.dev.lt with cyc := 2 ^ 64 - 1 } } }

/-- Refutes O1: its second clause has Line Time count on without bound, but `LT_CYC` has 64 bits (R3). At 2^64 − 1 a locked device
stays there, as notes/assumptions/108.md has it, where the clause has it reach 2^64. -/
theorem not_stepRunsTheFrontCommand : ¬ Obligations.StepRunsTheFrontCommand := by
  rintro ⟨-, hidle⟩
  have ha : lastCycle.awake = true := by decide +kernel
  have hl : lastCycle.locked = true := by decide +kernel
  have hstep := hidle lastCycle rfl ha
  rw [step_of_empty rfl, if_pos hl] at hstep
  have hnow : (tick.run lastCycle).now = lastCycle.now + 1 := congrArg State.now (Host.Outcome.next.inj hstep)
  rw [tick_now_locked ha hl] at hnow
  exact absurd hnow (by decide +kernel)

end Sys2Proof.Machine

/-! Clock profiles of the image (R43, R80): a word with a reserved bit set is no clock profile. -/
namespace Sys2Proof.Machine

/-- A selected word that has a reserved bit set is refused with `BADVAL`, whatever combination its fields give. -/
theorem run_clkprof_reserved {s : State} {w : Word} {e : Nat × Word}
    (he : s.dev.image.clock.find? (fun e => e.1 = fieldGet w 0 4) = some e) (hr : e.2 &&& ~~~R.LT_XREF.id.mask ≠ 0) (p : Port) :
    (writeOwn p R.LT_CLKPROF w).run s = s.setFld (F.BSTAT_BADVAL 1) 1 := by
  have hw : writeOwn p R.LT_CLKPROF w = writeLt R.LT_CLKPROF w := rfl
  simp only [hw, writeLt, run_ask, he, if_neg hr]
  rfl

/-- A device whose image holds at index 3 the word 0x8000301E: `RATE` 3, `NDIV` 30, and the reserved bit 31. -/
def strayProfile : State :=
  { State.reset with
    regs := []
    dev := { State.reset.dev with image := { State.reset.dev.image with clock := [(3, 0x8000301E)] } } }

/-- Refutes O14: its clause on LT.CLKPROF has every profile with an allowed combination take effect, but a word with a reserved bit
set is refused (R43), and LT.XREF stays. -/
theorem not_clockRegistersActOrRefuse : ¬ Obligations.ClockRegistersActOrRefuse := by
  rintro ⟨-, -, -, -, -, -, -, -, -, hprofile, -⟩
  have had : strayProfile.admits .image R.LT_CLKPROF 3 = true := by decide +kernel
  have hfind : strayProfile.dev.image.clock.find? (fun e => e.1 = fieldGet 3 0 4) = some (3, 0x8000301E) := by decide +kernel
  have hne : 0x8000301E &&& R.LT_XREF.id.mask ≠ strayProfile.reg R.LT_XREF := by decide +kernel
  obtain ⟨t, ht, -, hxref, -⟩ := hprofile strayProfile .image 3 0x8000301E 3 had (by decide) hfind (by decide +kernel) hne
    (by decide +kernel)
  have hrun : (regWrite .image R.LT_CLKPROF 3).run strayProfile = t := Host.Outcome.next.inj ht
  rw [run_regWrite (by decide +kernel) had, run_clkprof_reserved hfind (by decide +kernel)] at hrun
  have hkept : t.reg R.LT_XREF = strayProfile.reg R.LT_XREF := by
    rw [← hrun]
    exact State.reg_setFld_other _ _ (by decide)
  exact hne (hxref.symm.trans hkept)

end Sys2Proof.Machine

/-! Lock windows (R54, R55): what a window's end does in ACQUIRE and in LOCKED. -/
namespace Sys2Proof.Machine

/-- A number that `w + 1` bits can hold in two's complement is read as it was written (R8). -/
theorem signed_unsigned {w : Nat} {z : Int} (hl : -(2 ^ w : Nat) ≤ z) (hh : z < (2 ^ w : Nat)) :
    signed (w + 1) (unsigned (w + 1) z) = z := by
  have hp : (2 ^ (w + 1) : Nat) = 2 * 2 ^ w := by rw [Nat.pow_succ, Nat.mul_comm]
  simp only [signed, unsigned, Nat.add_sub_cancel, hp]
  generalize 2 ^ w = m at *
  rcases lt_or_ge z 0 with hz | hz
  · have e : z % ((2 * m : Nat) : Int) = z + (2 * m : Nat) := by
      rw [← Int.add_emod_right, Int.emod_eq_of_lt (by omega) (by omega)]
    rw [e, Nat.mod_eq_of_lt (by omega), if_neg (by omega)]
    omega
  · rw [Int.emod_eq_of_lt hz (by omega), Nat.mod_eq_of_lt (by omega), if_pos (by omega)]
    omega

theorem clampInt_bounds {lo hi : Int} (h : lo ≤ hi) (z : Int) : lo ≤ clampInt lo hi z ∧ clampInt lo hi z ≤ hi := by
  unfold clampInt
  split
  · exact ⟨le_refl _, h⟩
  · split
    · exact ⟨h, le_refl _⟩
    · omega

/-- The difference `d` of a lock window that counted so many cycles (R54). -/
def State.windowDiff (s : State) (cycles : Nat) : Int := (cycles : Int) - (16384 * cyclesPerRef (s.fld F.LT_XREF_RATE) : Nat)

/-- The state with the diagnosis of a lock window, which every window in ACQUIRE and in LOCKED leaves. -/
def State.windowSeen (s : State) (cycles backup : Nat) : State :=
  (s.setFld F.LT_LOCKDIAG_LAST_D (unsigned 8 (clampInt (-127) 127 (s.windowDiff cycles)))).modDev fun d =>
    { d with lt := { d.lt with fcCycles := cycles, backupCycles := max 1 backup } }

/-- The fields of the lock machine. -/
theorem lockFields_ok : ∀ f ∈ [F.LT_STATE_LOCK_ST, F.LT_STATE_HOLDOVER, F.LT_EVT_LOCK_LOSS, F.LT_PHASE_SUB, F.LT_LOCKDIAG_LAST_D,
    F.LT_LOCKDIAG_WARN, F.LT_LOCKDIAG_ACQ_RETRY], f.ok = true := by decide +kernel

/-- The 64th window in ACQUIRE leads back to CAL (R54). -/
def acquireFailed : Prog :=
  seqs [setF F.LT_STATE_LOCK_ST 2, count F.LT_LOCKDIAG_ACQ_RETRY,
    dev fun d => { d with lt := { d.lt with lockGood := 0, lockTotal := 0 } }]

/-- A window in ACQUIRE goes on with the counts. -/
def acquireCounts (good total : Nat) : Prog := dev fun d => { d with lt := { d.lt with lockGood := good, lockTotal := total } }

section
variable {s : State} {cycles backup : Nat} {phase : BitVec 16} {P : State → Prop}

theorem windowSeen_reg (s : State) (cycles backup : Nat) {k : RegKey} (h : k ≠ R.LT_LOCKDIAG) :
    (s.windowSeen cycles backup).reg k = s.reg k := State.reg_setFld_other _ _ h

theorem windowSeen_fld (s : State) (cycles backup : Nat) {f : Field} (h : f.reg ≠ R.LT_LOCKDIAG) :
    (s.windowSeen cycles backup).fld f = s.fld f := State.fld_setFld_reg _ _ _ _ h

/-- The counters of the diagnosis stay. -/
theorem windowSeen_fld_apart (s : State) (cycles backup : Nat) {f : Field} (hok : f.ok = true) (h : 8 ≤ f.lo) :
    (s.windowSeen cycles backup).fld f = s.fld f := State.fld_setFld_apart _ _ _ _ hok (Or.inr h)

/-- LAST_D reads as the clamped difference. -/
theorem windowSeen_lastD (s : State) (cycles backup : Nat) :
    (s.windowSeen cycles backup).sfld F.LT_LOCKDIAG_LAST_D = clampInt (-127) 127 (s.windowDiff cycles) := by
  have hfld : (s.windowSeen cycles backup).fld F.LT_LOCKDIAG_LAST_D = _ := State.fld_setFld s _ _ (lockFields_ok _ (by simp))
  obtain ⟨hlo, hhi⟩ := clampInt_bounds (show (-127 : Int) ≤ 127 by decide) (s.windowDiff cycles)
  generalize clampInt (-127) 127 (s.windowDiff cycles) = z at *
  have hcode : unsigned 8 z < 2 ^ 8 := by unfold unsigned; omega
  rw [State.sfld, hfld, Nat.mod_eq_of_lt hcode]
  exact signed_unsigned (w := 7) (by omega) (by omega)

theorem completes_lockWindow (ha : s.awake = true) (h : P ((progLockWindow cycles backup phase).run s)) :
    Completes (.lockWindow cycles backup phase) s P := by
  refine ⟨_, rfl, ?_⟩
  rwa [awake, run_on, if_pos ha]

/-- A window in ACQUIRE: the fourth good one in a row locks, the 64th without a lock fails, others count on. -/
theorem run_lockWindow_acquire (h : s.fld F.LT_STATE_LOCK_ST = 3) :
    (progLockWindow cycles backup phase).run s =
      let good := if (s.windowDiff cycles).natAbs ≤ 2 then s.dev.lt.lockGood + 1 else 0
      let total := s.dev.lt.lockTotal + 1
      (if good = 4 then reachLocked phase
      else if total = 64 then acquireFailed else acquireCounts good total).run (s.windowSeen cycles backup) := by
  rw [progLockWindow, run_ask, if_pos h, run_seq]
  rfl

/-- A window in LOCKED: one that is far off loses the lock, one that is a little off counts a warning. -/
theorem run_lockWindow_locked (h : s.fld F.LT_STATE_LOCK_ST = 4) :
    (progLockWindow cycles backup phase).run s =
      (if 8 < (s.windowDiff cycles).natAbs then lossOfLock 5
      else when (2 < (s.windowDiff cycles).natAbs) (count F.LT_LOCKDIAG_WARN)).run (s.windowSeen cycles backup) := by
  rw [progLockWindow, run_ask, if_neg (by omega), if_pos h, run_seq]
  rfl

/-- What keeps every register but those of a list after the diagnosis of a window, keeps every one but LOCKDIAG and those from before
it. -/
theorem keepsRegs_of_windowSeen {t : State} {names : List RegId} (h : (s.windowSeen cycles backup).KeepsRegs t names) :
    s.KeepsRegs t (.LT_LOCKDIAG :: names) := by
  intro k hk
  obtain ⟨hdiag, hnames⟩ := not_or.1 (List.mem_cons.not.1 hk)
  exact (h k hnames).trans (windowSeen_reg _ _ _ (by rintro rfl; exact hdiag rfl))

/-- A window's diagnosis and a program that touches registers of these names: nothing else changes. -/
theorem windowSeen_frame {q : Prog} {names : List RegId} (h : q.Touches names) (s : State) (cycles backup : Nat) :
    let t := q.run (s.windowSeen cycles backup)
    s.KeepsRegs t (.LT_LOCKDIAG :: names) ∧ s.KeepsBytes t :=
  ⟨keepsRegs_of_windowSeen (h.keepsRegs _), h.keepsBytes _⟩

theorem touches_acquireFailed : acquireFailed.Touches [.LT_STATE, .LT_LOCKDIAG] :=
  only_seqs_cons (only_setF (by simp)) <| only_seqs_cons (only_count (by simp)) <| only_seqs_cons only_dev only_seqs_nil

theorem touches_acquireCounts (good total : Nat) : (acquireCounts good total).Touches [] := only_dev

theorem acquireFailed_flds (t : State) :
    (acquireFailed.run t).fld F.LT_STATE_LOCK_ST = 2 ∧
      (acquireFailed.run t).fld F.LT_LOCKDIAG_ACQ_RETRY = satInc 8 (t.fld F.LT_LOCKDIAG_ACQ_RETRY) := by
  simp only [acquireFailed, run_seqs_cons, run_seqs_nil, run_setF, run_count, run_dev, State.modDev_fld]
  constructor
  · rw [State.fld_setFld_reg _ _ _ _ (by decide), State.fld_setFld _ _ _ (lockFields_ok _ (by simp))]
    rfl
  · rw [State.fld_setFld _ _ _ (lockFields_ok _ (by simp)), State.fld_setFld_reg _ _ _ _ (by decide)]
    exact Nat.mod_eq_of_lt (satInc_lt 8 _)

/-- A window that is off in ACQUIRE: the count of four starts again, and the 64th leads back to CAL. -/
theorem run_lockWindow_off (h : s.fld F.LT_STATE_LOCK_ST = 3) (hd : 2 < (s.windowDiff cycles).natAbs) :
    (progLockWindow cycles backup phase).run s =
      (if s.dev.lt.lockTotal = 63 then acquireFailed else acquireCounts 0 (s.dev.lt.lockTotal + 1)).run
        (s.windowSeen cycles backup) := by
  rw [run_lockWindow_acquire h]
  simp only [if_neg (show ¬(s.windowDiff cycles).natAbs ≤ 2 by omega), Nat.reduceEqDiff]
  rfl

/-- A good window in ACQUIRE that is neither the fourth in a row nor the 64th is counted. -/
theorem run_lockWindow_counted (h : s.fld F.LT_STATE_LOCK_ST = 3) (hd : (s.windowDiff cycles).natAbs ≤ 2)
    (hg : s.dev.lt.lockGood < 3) (ht : s.dev.lt.lockTotal < 63) :
    (progLockWindow cycles backup phase).run s =
      (acquireCounts (s.dev.lt.lockGood + 1) (s.dev.lt.lockTotal + 1)).run (s.windowSeen cycles backup) := by
  rw [run_lockWindow_acquire h]
  simp only [if_pos hd]
  rw [if_neg (by omega), if_neg (by omega)]

/-- The fourth good window in a row in ACQUIRE locks. -/
theorem run_lockWindow_locks (h : s.fld F.LT_STATE_LOCK_ST = 3) (hd : (s.windowDiff cycles).natAbs ≤ 2)
    (hg : s.dev.lt.lockGood = 3) :
    (progLockWindow cycles backup phase).run s = (reachLocked phase).run (s.windowSeen cycles backup) := by
  rw [run_lockWindow_acquire h]
  simp only [if_pos hd, hg]
  rfl

/-- `t` is `s` after a window in LOCKED that did not lose the lock. -/
structure WindowKept (s t : State) (cycles : Nat) : Prop where
  counted : t.dev.lt.fcCycles = cycles
  warn : t.fld F.LT_LOCKDIAG_WARN =
    if 2 < (s.windowDiff cycles).natAbs then satInc 8 (s.fld F.LT_LOCKDIAG_WARN) else s.fld F.LT_LOCKDIAG_WARN
  lastD : t.sfld F.LT_LOCKDIAG_LAST_D = clampInt (-127) 127 (s.windowDiff cycles)
  regs : s.KeepsRegs t [.LT_LOCKDIAG]
  bytes : s.KeepsBytes t

/-- A window off by at most 8 cycles in LOCKED keeps the lock; one off by more than 2 counts a warning (R55). -/
theorem lockWindow_kept (h : s.fld F.LT_STATE_LOCK_ST = 4) (hd : (s.windowDiff cycles).natAbs ≤ 8) :
    WindowKept s ((progLockWindow cycles backup phase).run s) cycles := by
  have hok {f : Field} (hf : f ∈ [F.LT_LOCKDIAG_LAST_D, F.LT_LOCKDIAG_WARN]) : f.ok = true :=
    lockFields_ok f (by simp at hf ⊢; tauto)
  have hwarn := windowSeen_fld_apart s cycles backup (hok (f := F.LT_LOCKDIAG_WARN) (by simp)) (by decide)
  have htouch : (when (2 < (s.windowDiff cycles).natAbs) (count F.LT_LOCKDIAG_WARN)).Touches [.LT_LOCKDIAG] :=
    only_when fun _ => only_count (by simp)
  obtain ⟨hregs, hbytes⟩ := windowSeen_frame htouch s cycles backup
  rw [run_lockWindow_locked h, if_neg (by omega)]
  refine ⟨?_, ?_, ?_, fun k hk => hregs k (by simpa using hk), hbytes⟩
  all_goals simp only [run_when, run_count, decide_eq_true_eq]
  · split <;> rfl
  · split
    · rw [State.fld_setFld _ _ _ (hok (by simp)), hwarn]
      exact Nat.mod_eq_of_lt (satInc_lt 8 _)
    · exact hwarn
  · rw [← windowSeen_lastD s cycles backup]
    split
    · rw [State.sfld, State.sfld, State.fld_setFld_apart _ _ _ _ (hok (by simp)) (by simp)]
    · rfl

/-- A window off by more than 8 cycles in LOCKED loses the lock. -/
theorem run_lockWindow_lost (h : s.fld F.LT_STATE_LOCK_ST = 4) (hd : 8 < (s.windowDiff cycles).natAbs) :
    (progLockWindow cycles backup phase).run s = (lossOfLock 5).run (s.windowSeen cycles backup) := by
  rw [run_lockWindow_locked h, if_pos hd]

end

/-- The counter of warnings stays at 255 (R55). -/
theorem satInc_eight {n : Nat} (h : n < 256) : satInc 8 n = min (n + 1) 255 := by
  unfold satInc
  split <;> omega

/-- Settles O9: in ACQUIRE a window that is off counts anew or leads back to CAL; in LOCKED it counts a warning. -/
theorem largeDifferencesRestartTheCountAndSmallOnesWarn : Obligations.LargeDifferencesRestartTheCountAndSmallOnesWarn := by
  refine ⟨?acquire, ?locked⟩
  case acquire =>
    intro s cycles backup phase ha h3 hd
    refine completes_lockWindow ha ?_
    rw [run_lockWindow_off h3 hd]
    split
    · obtain ⟨hst, -⟩ := acquireFailed_flds (s.windowSeen cycles backup)
      obtain ⟨hregs, hbytes⟩ := windowSeen_frame touches_acquireFailed s cycles backup
      exact ⟨rfl, by omega, hregs.mono (by decide), hbytes⟩
    · obtain ⟨hregs, hbytes⟩ := windowSeen_frame (touches_acquireCounts 0 (s.dev.lt.lockTotal + 1)) s cycles backup
      refine ⟨rfl, ?_, hregs.mono (by decide), hbytes⟩
      rw [(touches_acquireCounts _ _).fld, windowSeen_fld _ _ _ (by decide), h3]
      decide
  case locked =>
    intro s cycles backup phase ha h4 hlo hhi
    refine completes_lockWindow ha ?_
    have hkept := lockWindow_kept (backup := backup) (phase := phase) h4 hhi
    refine ⟨hkept.regs _ (by simp), hkept.warn.trans ?_, hkept.regs, hkept.bytes⟩
    exact (if_pos hlo).trans (satInc_eight (fieldGet_lt _ 8 8))

end Sys2Proof.Machine

/-! A loss of lock (t0 of R75): what it declares, what it cancels, and what it leaves. -/
namespace Sys2Proof.Machine

/-- The registers that a loss of lock can change. -/
def lossNames : List RegId :=
  [.LT_STATE, .LT_EVT, .LT_LOCKDIAG, .XBAR_STATUS, .CAL_RMST, .FPKT_STAT, .IRQ_PEND, .IRQ_CNT]

theorem touches_enterWaitRef : enterWaitRef.Touches [.LT_STATE] := only_ask fun _ => only_setF (by simp)

theorem touches_cancelCommit : cancelCommit.Touches [.XBAR_STATUS, .CAL_RMST] := by
  have hremap : (endRemap 7).Touches [.XBAR_STATUS, .CAL_RMST] :=
    only_seqs_cons (only_setF (by simp)) <| only_seqs_cons (only_setF (by simp)) <| only_seqs_cons only_dev only_seqs_nil
  have hcommit : (seqs [clrB F.XBAR_STATUS_PENDING, setB F.XBAR_STATUS_CANCELLED]).Touches [.XBAR_STATUS, .CAL_RMST] :=
    only_seqs_cons (only_clrB (by simp)) <| only_seqs_cons (only_setB (by simp)) only_seqs_nil
  exact only_seqs_cons (only_on hcommit) <| only_seqs_cons (only_on hremap) only_seqs_nil

theorem touches_cancelClears : cancelClears.Touches [.FPKT_STAT] :=
  only_each fun _ _ => only_on <| only_seqs_cons only_dev <| only_seqs_cons (only_clrB (by simp)) <|
    only_seqs_cons (only_setB (by simp)) only_seqs_nil

theorem touches_missWindows : missWindows.Touches [] := only_each fun _ _ => only_ask fun _ => only_dev

theorem touches_discardWindows : discardWindows.Touches [] :=
  only_seqs_cons
    (only_ask fun _ => only_each fun _ _ => only_seqs_cons only_dev <| only_seqs_cons (touches_useGrid _) only_seqs_nil) <|
  only_seqs_cons touches_missWindows only_seqs_nil

/-- What a loss of lock brings about between its declaration and the new state of the lock machine: its event, and the end of commits
and clears that wait and of windows in progress. -/
def lossCancels : Prog := seqs [raise 145, cancelCommit, cancelClears, discardWindows]

theorem touches_lossCancels : lossCancels.Touches [.XBAR_STATUS, .CAL_RMST, .FPKT_STAT, .IRQ_PEND, .IRQ_CNT] :=
  only_seqs_cons ((touches_raise 145).mono (by decide)) <| only_seqs_cons (touches_cancelCommit.mono (by decide)) <|
    only_seqs_cons (touches_cancelClears.mono (by decide)) <| only_seqs_cons touches_discardWindows.only only_seqs_nil

theorem touches_lossOfLock (dest : Nat) : (lossOfLock dest).Touches lossNames := by
  refine only_seqs_cons (only_setB (by decide)) <| only_seqs_cons (only_setB (by decide)) <|
    only_seqs_cons (only_count (by decide)) <| only_seqs_cons ((touches_raise 145).mono (by decide)) <|
    only_seqs_cons (touches_cancelCommit.mono (by decide)) <| only_seqs_cons (touches_cancelClears.mono (by decide)) <|
    only_seqs_cons touches_discardWindows.only <| only_seqs_cons ?_ <| only_seqs_cons only_dev only_seqs_nil
  split
  · exact touches_enterWaitRef.mono (by decide)
  · exact only_setF (by decide)

/-- The state in which a loss of lock has been declared and counted. -/
def State.lossDeclared (s : State) : State :=
  (count F.LT_LOCKDIAG_LOSSES).run ((s.setFld F.LT_STATE_HOLDOVER 1).setFld F.LT_EVT_LOCK_LOSS 1)

/-- A loss of lock to a state other than WAIT_REF: the state is entered, and holdover is declared with the loss. -/
theorem lossOfLock_flds {dest : Nat} (h1 : dest ≠ 1) (h8 : dest < 8) (s : State) :
    let t := (lossOfLock dest).run s
    t.fld F.LT_STATE_LOCK_ST = dest ∧ t.fld F.LT_STATE_HOLDOVER = 1 ∧ t.fld F.LT_EVT_LOCK_LOSS = 1 := by
  have hok {f : Field} (hf : f ∈ [F.LT_STATE_LOCK_ST, F.LT_STATE_HOLDOVER, F.LT_EVT_LOCK_LOSS]) : f.ok = true :=
    lockFields_ok f (by simp at hf ⊢; tauto)
  have hrun : ∃ g, (lossOfLock dest).run s = ((lossCancels.run s.lossDeclared).setFld F.LT_STATE_LOCK_ST dest).modDev g := by
    simp only [lossOfLock, lossCancels, if_neg h1, run_seqs_cons, run_seqs_nil, run_setB, run_setF, run_dev]
    exact ⟨_, rfl⟩
  obtain ⟨g, hrun⟩ := hrun
  have hkeep (t : State) {f : Field} (hf : f.reg.id ∈ [RegId.LT_STATE, .LT_EVT]) : (lossCancels.run t).fld f = t.fld f := by
    refine only_fld touches_lossCancels t ?_
    simp only [List.mem_cons, List.not_mem_nil, or_false] at hf
    rcases hf with h | h <;> simp [h]
  simp only [hrun, State.modDev_fld, State.lossDeclared, run_count]
  refine ⟨?_, ?_, ?_⟩
  · rw [State.fld_setFld _ _ _ (hok (by simp))]
    exact Nat.mod_eq_of_lt h8
  · rw [State.fld_setFld_apart _ _ _ _ (hok (by simp)) (by simp), hkeep _ (by simp), State.fld_setFld_reg _ _ _ _ (by decide),
      State.fld_setFld_reg _ _ _ _ (by decide), State.fld_setFld _ _ _ (hok (by simp))]
    rfl
  · rw [State.fld_setFld_reg _ _ _ _ (by decide), hkeep _ (by simp), State.fld_setFld_reg _ _ _ _ (by decide),
      State.fld_setFld _ _ _ (hok (by simp))]
    rfl

end Sys2Proof.Machine

/-! The footprint of the holdover charge (R192, R506): it is added in the channel blocks of the retention RAM, where words in error
are met and marked. -/
namespace Sys2Proof.Machine

section
variable {Q : RegKey → Prop} {A : Nat → Prop}

theorem only_event {i : Nat} (hp : Q (pendField i).reg) (hc : Q (cntField i).reg) : (event i).Only Q A :=
  only_ask fun _ => only_seqs_cons (only_setF hc) <| only_seqs_cons (only_when fun _ => only_dev) <|
    only_seqs_cons (only_when fun _ => only_seqs_cons (only_setB hp) <| only_seqs_cons only_dev only_seqs_nil) only_seqs_nil

/-- A source that is raised changes its own pending bit and its own counter at most. -/
theorem only_raise {i : Nat} (hp : Q (pendField i).reg) (hc : Q (cntField i).reg) : (raise i).Only Q A := by
  refine only_ask fun s => ?_
  split
  · trivial
  split
  · exact only_when fun _ => only_dev
  · exact only_event hp hc

end

/-- The registers that the holdover charge can change, by name. -/
def chargeNames : List RegId :=
  [.FPKT_HOLDCNT, .FPKT_STAT, .MEM_ECCCNT, .MEM_ECCA_LO, .MEM_ECCA_HI, .PWR_LOST, .IRQ_PEND, .IRQ_CNT]

/-- The registers that the holdover charge can change. The counters of sources 144 to 147 are not among them: only channel faults
and ECC errors are raised. -/
def ChargeRegs (k : RegKey) : Prop := k.id ∈ chargeNames ∧ k ≠ (cntField 146).reg

/-- The channel blocks of the retention RAM (Table 15.4). -/
def InBlocks (x : Nat) : Prop := retBase + 0x100 ≤ x ∧ x < retBase + 0x100 + 0x1000

theorem raise_chargeOnly {i : Nat} (h : i / 4 ≠ 36) : (raise i).Only ChargeRegs InBlocks := by
  refine only_raise ⟨by simp [pendField, bitField, chargeNames], ?_⟩ ⟨by simp [cntField, chargeNames], ?_⟩
  · simp [pendField, bitField, cntField]
  · simpa [cntField] using h

theorem putNum_chargeOnly {n o k v : Nat} (hn : n < 64) (ho : o + k ≤ 64) : (putNum (chBlock n + o) k v).Only ChargeRegs InBlocks := by
  refine only_putBytes fun i hi => ?_
  rw [length_natLE] at hi
  unfold InBlocks chBlock
  omega

/-- A word that is lost is marked in the block of its channel (R506). -/
theorem retentionBad_chargeOnly (a : Nat) : (retentionBad a).Only ChargeRegs InBlocks := by
  refine only_when fun ha => only_ask fun s => ?_
  simp only [Bool.and_eq_true, decide_eq_true_eq] at ha
  obtain ⟨hlo, hhi⟩ := ha
  have hn : (a - retBase - 0x100) / 64 < 64 := by omega
  dsimp only
  generalize (a - retBase - 0x100) / 64 = n at hn ⊢
  generalize (a - retBase - 0x100) % 64 = o
  refine only_seqs_cons (only_setB ⟨by simp [chargeNames], by simp [cntField]⟩) <| only_seqs_cons (raise_chargeOnly (by omega)) <|
    only_seqs_cons ?_ only_seqs_nil
  split
  · exact only_seqs_cons (putNum_chargeOnly hn (by decide)) <| only_seqs_cons only_dev only_seqs_nil
  split
  · exact only_seqs_cons (putNum_chargeOnly hn (by decide)) <| only_seqs_cons only_dev <|
      only_seqs_cons (putNum_chargeOnly hn (by decide)) <| only_seqs_cons only_dev only_seqs_nil
  · trivial

theorem eccRecord_chargeOnly (key : Nat) (x : EccErr) : (eccRecord key x).Only ChargeRegs InBlocks := by
  have hset {f : Field} (n : Nat) (h : f.reg.id ∈ [RegId.MEM_ECCCNT, .MEM_ECCA_LO, .MEM_ECCA_HI]) :
      (setF f n).Only ChargeRegs InBlocks := by
    refine only_setF ⟨by simp at h; simp [chargeNames]; tauto, ?_⟩
    intro e
    simp [e, cntField] at h
  refine only_seqs_cons ?_ <| only_seqs_cons (hset _ (by simp)) <| only_seqs_cons (hset _ (by simp)) <|
    only_seqs_cons (hset _ (by simp)) <| only_seqs_cons (hset _ (by simp)) <| only_seqs_cons (hset _ (by simp)) <|
    only_seqs_cons (raise_chargeOnly (by split <;> decide)) only_seqs_nil
  split <;> exact fun _ => hset _ (by simp)

theorem eccRead_chargeOnly (a n c : Nat) : (eccRead a n c).Only ChargeRegs InBlocks :=
  only_ask fun _ => only_each fun _ _ => only_seqs_cons (eccRecord_chargeOnly _ _) <|
    only_seqs_cons (only_when fun _ => retentionBad_chargeOnly _) <| only_seqs_cons (only_when fun _ => only_dev) only_seqs_nil

theorem setAcc_chargeOnly {n : Nat} (hn : n < 64) (z : Int) : (setAcc n z).Only ChargeRegs InBlocks := by
  have hput (z : Int) : (putAcc n z).Only ChargeRegs InBlocks :=
    only_seqs_cons (putNum_chargeOnly (o := 0) hn (by decide)) <| only_seqs_cons (putNum_chargeOnly hn (by decide)) <|
      only_seqs_cons only_dev only_seqs_nil
  have hsat : (setB (F.FPKT_STAT_SAT n)).Only ChargeRegs InBlocks := only_setB ⟨by simp [chargeNames], by simp [cntField]⟩
  unfold setAcc
  dsimp only
  split
  · exact only_seqs_cons (hput _) <| only_seqs_cons hsat only_seqs_nil
  split
  · exact only_seqs_cons (hput _) <| only_seqs_cons hsat only_seqs_nil
  · exact hput z

/-- What one channel is charged, whatever the sum and the net count. -/
theorem channelCharge_chargeOnly {n : Nat} (hn : n < 64) (t : Nat) (sum net : Int) (f : FeSt → FeSt) :
    (seqs [keepCharge n t, setAcc n sum, setZ (F.FPKT_HOLDCNT_NET n) net, setB (F.FPKT_STAT_HOLD n), modFe n f]).Only
      ChargeRegs InBlocks :=
  only_seqs_cons (only_ask fun _ => only_dev) <| only_seqs_cons (setAcc_chargeOnly hn sum) <|
    only_seqs_cons (only_setZ ⟨by simp [chargeNames], by simp [cntField]⟩) <|
    only_seqs_cons (only_setB ⟨by simp [chargeNames], by simp [cntField]⟩) <| only_seqs_cons only_dev only_seqs_nil

theorem addHoldoverCharge_chargeOnly : addHoldoverCharge.Only ChargeRegs InBlocks :=
  only_each fun n hn => only_on <| only_seqs (by
    simp only [List.forall_mem_cons]
    exact ⟨eccRead_chargeOnly _ _ _, fun s => channelCharge_chargeOnly (List.mem_range.1 hn) _ _ _ _, by simp⟩)

end Sys2Proof.Machine

/-! The lock is reached (t2 of R75). -/
namespace Sys2Proof.Machine

theorem touches_calibrateTg (k : Nat) : (calibrateTg k).Touches [] := only_ask fun _ => only_dev

/-- The lock is announced, and the phase of R57 kept. -/
def State.lockMeasured (s : State) (phase : BitVec 16) : State :=
  (s.setFld F.LT_STATE_LOCK_ST 4).setFld F.LT_PHASE_SUB phase.toNat

/-- What follows the announcement of a lock: the holdover charge, and the calibration of the cores. -/
def lockSettles : Prog := seqs [addHoldoverCharge, each cores calibrateTg]

theorem lockSettles_chargeOnly : lockSettles.Only ChargeRegs InBlocks :=
  only_seqs_cons addHoldoverCharge_chargeOnly <| only_seqs_cons (only_each fun k _ => (touches_calibrateTg k).only) only_seqs_nil

/-- The registers that a lock can change. -/
def lockNames : List RegId := [.LT_STATE, .LT_PHASE] ++ chargeNames

/-- What is raised between two states is raised between an earlier and a later one that read the same counter, the controller's clock
being stopped in both or in neither. -/
theorem raised_between {i : Nat} {s s' t' t : State} (h : s'.Raised t' i = true) (hirq : s.dev.irq = s'.dev.irq)
    (hs : s.fld (cntField i) = s'.fld (cntField i)) (ht : t.fld (cntField i) = t'.fld (cntField i)) : s.Raised t i = true := by
  rw [State.Raised] at h ⊢
  rwa [ht, hirq, hs]

/-- `t` is `s` once the lock has been reached. -/
structure LockReached (s t : State) (phase : BitVec 16) : Prop where
  lockSt : t.fld F.LT_STATE_LOCK_ST = 4
  phase : t.fld F.LT_PHASE_SUB = phase.toNat
  raised : s.Raised t 146 = true
  regs : s.KeepsRegs t lockNames
  bytes : s.KeepsBytesBut t (retBase + 0x100) 0x1000

theorem reachLocked_spec (s : State) (phase : BitVec 16) : LockReached s ((reachLocked phase).run s) phase := by
  have hrun : ∃ g, (reachLocked phase).run s = (lockSettles.run ((raise 146).run (s.lockMeasured phase))).modDev g := by
    simp only [reachLocked, lockSettles, run_seqs_cons, run_seqs_nil, run_setF, run_dev]
    exact ⟨_, rfl⟩
  obtain ⟨g, hrun⟩ := hrun
  rw [hrun]
  have hfld (f : Field) (hq : ¬ChargeRegs f.reg) (hf : f.reg.id ∉ [RegId.IRQ_PEND, .IRQ_CNT]) :
      (lockSettles.run ((raise 146).run (s.lockMeasured phase))).fld f = (s.lockMeasured phase).fld f :=
    (only_fld lockSettles_chargeOnly _ hq).trans (only_fld (touches_raise 146) _ hf)
  constructor
  case lockSt =>
    refine (hfld _ (by simp [ChargeRegs, chargeNames]) (by simp)).trans ?_
    rw [State.lockMeasured, State.fld_setFld_reg _ _ _ _ (by decide), State.fld_setFld _ _ _ (lockFields_ok _ (by simp))]
    rfl
  case phase =>
    refine (hfld _ (by simp [ChargeRegs, chargeNames]) (by simp)).trans ?_
    rw [State.lockMeasured, State.fld_setFld _ _ _ (lockFields_ok _ (by simp))]
    exact Nat.mod_eq_of_lt phase.isLt
  case raised =>
    refine raised_between (s' := s.lockMeasured phase) (raised_raise (by decide) (by decide) (by decide) rfl rfl) rfl ?_ ?_
    · rw [State.lockMeasured, State.fld_setFld_reg _ _ _ _ (by simp [cntField]), State.fld_setFld_reg _ _ _ _ (by simp [cntField])]
    · exact only_fld lockSettles_chargeOnly _ (by simp [ChargeRegs])
  case regs =>
    intro k hk
    simp only [lockNames, List.cons_append, List.nil_append, List.mem_cons, not_or] at hk
    obtain ⟨hstate, hphase, hcharge⟩ := hk
    have hirq : k.id ∉ [RegId.IRQ_PEND, .IRQ_CNT] := fun h => hcharge ((by decide : [RegId.IRQ_PEND, .IRQ_CNT] ⊆ chargeNames) h)
    refine (only_reg lockSettles_chargeOnly _ fun h => hcharge h.1).trans <| (only_reg (touches_raise 146) _ hirq).trans ?_
    have hne : k ≠ R.LT_STATE ∧ k ≠ R.LT_PHASE := ⟨by rintro rfl; exact hstate rfl, by rintro rfl; exact hphase rfl⟩
    rw [State.lockMeasured, State.reg_setFld_other _ _ hne.2, State.reg_setFld_other _ _ hne.1]
  case bytes =>
    intro x hx
    refine (only_byte lockSettles_chargeOnly _ ?_).trans (only_byte (touches_raise 146) _ id)
    exact hx

/-- Settles O12: each clause is one way that a lock window ends, after the diagnosis that every window leaves. -/
theorem lockWindowsLockAndUnlock : Obligations.LockWindowsLockAndUnlock := by
  refine ⟨?locks, ?failed, ?counted, ?kept, ?lost⟩
  case locks =>
    intro s cycles backup phase ha h3 hd hg
    refine completes_lockWindow ha ?_
    rw [run_lockWindow_locks h3 hd hg]
    have hlock := reachLocked_spec (s.windowSeen cycles backup) phase
    refine ⟨hlock.lockSt, hlock.phase, ?raised, ?lastD, (keepsRegs_of_windowSeen hlock.regs).mono (by decide), hlock.bytes⟩
    case raised => exact raised_between hlock.raised rfl (windowSeen_fld _ _ _ (by simp [cntField])).symm rfl
    case lastD =>
      rw [State.sfld, State.fld, hlock.regs _ (by decide)]
      exact windowSeen_lastD s cycles backup
  case failed =>
    intro s cycles backup phase ha h3 hd ht
    refine completes_lockWindow ha ?_
    rw [run_lockWindow_off h3 hd, if_pos ht]
    obtain ⟨hst, hretry⟩ := acquireFailed_flds (s.windowSeen cycles backup)
    obtain ⟨hregs, hbytes⟩ := windowSeen_frame touches_acquireFailed s cycles backup
    rw [windowSeen_fld_apart _ _ _ (lockFields_ok _ (by simp)) (by decide)] at hretry
    exact ⟨hst, hretry, hregs.mono (by decide), hbytes⟩
  case counted =>
    intro s cycles backup phase ha h3 hd hg ht
    refine completes_lockWindow ha ?_
    rw [run_lockWindow_counted h3 hd hg ht]
    have htouch := touches_acquireCounts (s.dev.lt.lockGood + 1) (s.dev.lt.lockTotal + 1)
    obtain ⟨hregs, hbytes⟩ := windowSeen_frame htouch s cycles backup
    exact ⟨(htouch.fld _ _).trans ((windowSeen_fld _ _ _ (by decide)).trans h3), rfl, rfl, hregs, hbytes⟩
  case kept =>
    intro s cycles backup phase ha h4 hd
    refine completes_lockWindow ha ?_
    have hkept := lockWindow_kept (backup := backup) (phase := phase) h4 hd
    refine ⟨?_, hkept.counted, hkept.warn, hkept.lastD, hkept.regs, hkept.bytes⟩
    rw [State.fld, hkept.regs _ (by simp)]
    exact h4
  case lost =>
    intro s cycles backup phase ha h4 hd
    refine completes_lockWindow ha ?_
    rw [run_lockWindow_lost h4 hd]
    obtain ⟨hst, hhold, hloss⟩ := lossOfLock_flds (dest := 5) (by decide) (by decide) (s.windowSeen cycles backup)
    obtain ⟨hregs, hbytes⟩ := windowSeen_frame (touches_lossOfLock 5) s cycles backup
    exact ⟨hst, hhold, hloss, hregs.mono (by decide), hbytes⟩

end Sys2Proof.Machine

/-! Registers of the drive and of the loop (R90, R131, R148): what a word written to them does. -/
namespace Sys2Proof.Machine

/-- A register outside the header block that stands once in each core or front end lies in the map where its unit does. -/
theorem inMap_single {r : RegId} {u : Nat} (hn : r.desc.n1 = 1 ∧ r.desc.n2 = 1)
    (hb : (r.blk = .core ∧ u < 68) ∨ (r.blk = .fe ∧ u < 64)) (hr : r ≠ .IRQ_PEND) : (⟨r, u, 0, 0⟩ : RegKey).inMap = true := by
  rcases hb with ⟨hb, hu⟩ | ⟨hb, hu⟩ <;> simp [RegKey.inMap, hn, hb, hu, hr]

section
variable {s : State} {p : Port} {w : Word} {P : State → Prop}

/-- A command that is the write of a register which its port may make does what the register's write does, and its master is
answered OK. -/
theorem completes_written {c : Instr} {k : RegKey} (hc : exec c s = .next ((regWrite p k w).run s)) (hk : k.inMap = true)
    (h : s.admits p k w = true) (hP : P ((toMaster p 0 0).run ((writeOwn p k w).run s))) : Completes c s P := by
  rw [run_regWrite hk h] at hc
  exact ⟨_, hc, hP⟩

theorem answeredOk_toMaster (p : Port) (s : State) : ((toMaster p 0 0).run s).answeredOk p = true :=
  decide_eq_true (lastAnswer_toMaster p 0 0 s)

end

theorem writeOwn_fmtMode (p : Port) (k : Nat) (w : Word) :
    writeOwn p (R.FMT_MODE k) w = if fieldGet w 0 3 = 7 then badVal (0x100 + k) else effFmtMode k (fieldGet w 0 3) :=
  writeOwn_coreA (k := R.FMT_MODE k) rfl (by decide +kernel : (R.FMT_MODE 0).offset % 0x4000 / 0x100 ∈ [1, 2, 3, 4, 5]) p w

theorem writeOwn_vlimReq (p : Port) (k : Nat) (w : Word) : writeOwn p (R.LOOP_VLIMREQ k) w = effVlimReq k w :=
  writeOwn_coreA (k := R.LOOP_VLIMREQ k) rfl (by decide +kernel : (R.LOOP_VLIMREQ 0).offset % 0x4000 / 0x100 ∈ [1, 2, 3, 4, 5]) p w

theorem writeOwn_taperReq (p : Port) (k : Nat) (w : Word) : writeOwn p (R.LOOP_TAPERREQ k) w = effTaperReq k w :=
  writeOwn_coreA (k := R.LOOP_TAPERREQ k) rfl (by decide +kernel : (R.LOOP_TAPERREQ 0).offset % 0x4000 / 0x100 ∈ [1, 2, 3, 4, 5]) p w

theorem writeOwn_gain (p : Port) (n : Nat) (w : Word) : writeOwn p (R.SCALE_GAIN n) w = effGain n w := rfl

/-! The registers of these writes lie in the map. -/

theorem inMap_fmtMode (k : Fin 68) : (R.FMT_MODE k).inMap = true := inMap_single (by decide +kernel) (.inl ⟨rfl, k.isLt⟩) (by decide)

theorem inMap_gain (n : Fin 64) : (R.SCALE_GAIN n).inMap = true := inMap_single (by decide +kernel) (.inr ⟨rfl, n.isLt⟩) (by decide)

theorem inMap_vlimReq (k : Fin 68) : (R.LOOP_VLIMREQ k).inMap = true :=
  inMap_single (by decide +kernel) (.inl ⟨rfl, k.isLt⟩) (by decide)

theorem inMap_taperReq (k : Fin 68) : (R.LOOP_TAPERREQ k).inMap = true :=
  inMap_single (by decide +kernel) (.inl ⟨rfl, k.isLt⟩) (by decide)

/-! Calm requests -/

/-- A Calm request reaches every core of the channel's gang (R85). -/
theorem calmRequest_asks (n : Nat) (s : State) : ∀ k ∈ s.gangCores n, (((calmRequest n).run s).cst k).drv.calm.isSome = true := by
  have hheld (j k : Nat) (t : State) : (((holdSequencer j).run t).cst k).drv = (t.cst k).drv := by
    have hmod (f : SeqSt → SeqSt) (u : State) : (((modSeq j f).run u).cst k).drv = (u.cst k).drv := by
      by_cases h : k = j
      · simp [modSeq, modCore, State.cst, h]
      · simp [modSeq, modCore, State.cst, Table.get_mod_other _ _ _ _ _ h]
    rw [holdSequencer, run_ask]
    dsimp only
    split
    · rw [run_seqs_cons]
      exact hmod (·.heldAs _) t
    · rw [run_when]
      split
      · exact hmod _ t
      · rfl
  intro k hk
  rw [calmRequest, run_ask, run_seqs_cons, run_seqs_cons, run_seqs_nil, hheld]
  refine each_all (P := fun k t => (t.cst k).drv.calm.isSome = true) (fun j _ t => ?_) (fun j _ i _ t ht => ?_) s k hk
  · simp [modDrv, modCore, State.cst]
  · by_cases h : j = i
    · simp [modDrv, modCore, State.cst, h]
    · simpa [modDrv, modCore, State.cst, Table.get_mod_other _ _ _ _ _ h] using ht

theorem touches_calmRequest (n : Nat) : (calmRequest n).Touches [.SEQ_STATE] := by
  refine only_ask fun s => only_seqs_cons (only_each fun _ _ => only_dev) <| only_seqs_cons (only_ask fun t => ?_) only_seqs_nil
  dsimp only
  split
  · exact only_seqs_cons only_dev <| only_seqs_cons (only_setF (by simp)) only_seqs_nil
  · exact only_when fun _ => only_dev

/-- The request of a word of the limits or of the taper that a core takes up at its next boundary, if it serves a channel (R148). -/
theorem wordRequest_run (k : Nat) (taper : Bool) (r : RegKey) (hr : r.id ≠ .XBAR_MAP) (w : Word) (s : State) :
    (seqs [setR r w, on (fun s => !bit w 31 && (s.channelOf k).isSome) (ask fun s => want k s.now (.wordReg taper w))]).run s =
      (s.setReg r w).modDev fun d => { d with
        reqs := if bit w 31 || (s.channelOf k).isNone then d.reqs else d.reqs ++ [⟨s.now, k, .wordReg taper w⟩] } := by
  have hc : (s.setReg r w).channelOf k = s.channelOf k := by
    have (n : Nat) : (s.setReg r w).core n = s.core n := State.fld_setReg_other _ _ (by rintro rfl; exact hr rfl)
    simp [State.channelOf, this]
  rw [run_seqs_cons, run_setR, run_seqs_cons, run_seqs_nil, run_on, hc]
  cases bit w 31 <;> cases s.channelOf k <;> rfl

/-- Settles O25: each write is the program of its register, with its master answered OK. -/
theorem driveRegistersTakeTheirWords : Obligations.DriveRegistersTakeTheirWords := by
  unfold Obligations.DriveRegistersTakeTheirWords
  refine ⟨?reserved, ?calm, ?mode, ?gain, ?busy, ?vlim, ?taper⟩
  case reserved =>
    intro s p k w had h7
    refine completes_written rfl (inMap_fmtMode k) had ?_
    rw [writeOwn_fmtMode, if_pos h7]
    have h := profileRefused s p (0x100 + k)
    exact ⟨h.badVal, answeredOk_toMaster _ _, h.regs, h.bytes⟩
  case calm =>
    intro s p k w n had h1 hn
    refine completes_written rfl (inMap_fmtMode k) had ?_
    have heff : (effFmtMode k 1).run s = (calmRequest n).run s := by
      rw [effFmtMode, run_ask, if_pos rfl, hn]
    rw [writeOwn_fmtMode, h1, if_neg (by decide), heff]
    have htouch := touches_calmRequest n
    exact ⟨List.all_eq_true.2 (calmRequest_asks n s), answeredOk_toMaster _ _, htouch.keepsRegs s, htouch.keepsBytes s⟩
  case mode =>
    intro s p k w had h1 h7 hc
    refine completes_written rfl (inMap_fmtMode k) had ?_
    rw [writeOwn_fmtMode, if_neg h7, effFmtMode, run_ask, if_neg h1, if_pos hc]
    have hmode : (F.FMT_MODE_MODE k).ok = true := (by decide +kernel : (F.FMT_MODE_MODE 0).ok = true)
    refine ⟨(State.fld_setFld s _ _ hmode).trans (Nat.mod_eq_of_lt (fieldGet_lt _ _ _)),
      State.fld_setFld_apart s _ _ _ (fmtModeCur_ok k) (by simp), rfl, answeredOk_toMaster _ _, fun x hx => ?_, fun _ => rfl⟩
    exact State.reg_setFld_other s _ (by rintro rfl; simp at hx)
  case gain =>
    intro s p n w had hc
    refine completes_written rfl (inMap_gain n) had ?_
    rw [writeOwn_gain, effGain, run_ask, if_pos (by simpa using hc)]
    exact ⟨State.reg_setReg _ _ _, answeredOk_toMaster _ _,
      fun x hx _ => State.reg_setReg_other _ _ _ _ (by rintro rfl; simp at hx), fun _ => rfl⟩
  case busy =>
    intro s p n w had hc hp
    refine completes_written rfl (inMap_gain n) had ?_
    rw [writeOwn_gain, effGain, run_ask, if_neg (by simp [hc, hp])]
    exact ⟨State.reg_setReg_other _ _ _ _ (by simp),
      State.fld_setFld _ _ _ (by decide +kernel : (F.SCALE_STAT_BUSY 0).ok = true), answeredOk_toMaster _ _,
      fun x hx _ => State.reg_setReg_other _ _ _ _ (by rintro rfl; simp at hx), fun _ => rfl⟩
  case vlim =>
    intro s p k w had
    refine completes_written rfl (inMap_vlimReq k) had ?_
    rw [writeOwn_vlimReq, effVlimReq, wordRequest_run k false _ (by simp)]
    exact ⟨State.reg_setReg _ _ _, rfl, answeredOk_toMaster _ _,
      fun x hx _ => State.reg_setReg_other _ _ _ _ (by rintro rfl; simp at hx), fun _ => rfl⟩
  case taper =>
    intro s p k w had
    refine completes_written rfl (inMap_taperReq k) had ?_
    rw [writeOwn_taperReq, effTaperReq, wordRequest_run k true _ (by simp)]
    exact ⟨State.reg_setReg _ _ _, rfl, answeredOk_toMaster _ _,
      fun x hx _ => State.reg_setReg_other _ _ _ _ (by rintro rfl; simp at hx), fun _ => rfl⟩

end Sys2Proof.Machine

/-! Footprints with a view: which registers and bytes a program can change, and what stays of Line Time, of a front end and of a
core. Each operation of a program has one rule, an equivalence, so that a program is judged part by part. -/
namespace Sys2Proof.Machine

/-- What is looked at beside registers and memories: Line Time, what `ψ` tells of front end `n`, and what `φ` tells of core `k`. -/
def Dev.view {α β : Type} (n k : Nat) (ψ : FeSt → β) (φ : CoreSt → α) (d : Dev) : Nat × β × α :=
  (d.lt.cyc, ψ (d.fes.get {} n), φ (d.cores.get {} k))

/-- The program changes only registers that satisfy `Q` and bytes whose address satisfies `A`, and keeps what `π` looks at. -/
structure Prog.Within {γ : Type} (p : Prog) (Q : RegKey → Prop) (A : Nat → Prop) (π : Dev → γ) : Prop where
  only : p.Only Q A
  keeps : p.Keeps π

/-- `t` differs from `s` in registers that satisfy `Q` and bytes whose address satisfies `A` at most, and looks the same to `π`. -/
structure State.Agrees {γ : Type} (s t : State) (Q : RegKey → Prop) (A : Nat → Prop) (π : Dev → γ) : Prop where
  reg : ∀ k, ¬Q k → t.reg k = s.reg k
  byte : ∀ a, ¬A a → t.byte a = s.byte a
  view : π t.dev = π s.dev

section
variable {α β γ δ : Type} {Q Q' : RegKey → Prop} {A A' : Nat → Prop} {π : Dev → γ} {ψ : FeSt → β} {φ : CoreSt → α}
variable {n k : Nat} {s t u : State} {p q : Prog} {l : List Prog}

/-! States that agree -/

theorem State.Agrees.refl (s : State) : s.Agrees s Q A π := ⟨fun _ _ => rfl, fun _ _ => rfl, rfl⟩

theorem State.Agrees.trans (h : s.Agrees t Q A π) (h' : t.Agrees u Q A π) : s.Agrees u Q A π :=
  ⟨fun k hk => (h'.reg k hk).trans (h.reg k hk), fun a ha => (h'.byte a ha).trans (h.byte a ha), h'.view.trans h.view⟩

theorem State.Agrees.mono (h : s.Agrees t Q A π) (hQ : ∀ k, Q k → Q' k) (hA : ∀ a, A a → A' a) : s.Agrees t Q' A' π :=
  ⟨fun k hk => h.reg k fun hq => hk (hQ k hq), fun a ha => h.byte a fun hq => ha (hA a hq), h.view⟩

theorem State.Agrees.fld (h : s.Agrees t Q A π) {f : Field} (hf : ¬Q f.reg) : t.fld f = s.fld f := by
  rw [State.fld, h.reg _ hf, State.fld]

theorem State.Agrees.now (h : s.Agrees t Q A (Dev.view n k ψ φ)) : t.now = s.now := congrArg Prod.fst h.view

theorem State.Agrees.fe (h : s.Agrees t Q A (Dev.view n k ψ φ)) : ψ (t.fe n) = ψ (s.fe n) := congrArg (·.2.1) h.view

theorem State.Agrees.cst (h : s.Agrees t Q A (Dev.view n k ψ φ)) : φ (t.cst k) = φ (s.cst k) := congrArg (·.2.2) h.view

/-- What agrees in a view agrees in what can be told from it. -/
theorem State.Agrees.coarser (h : s.Agrees t Q A π) {ρ : Dev → δ} (hρ : ∀ d e, π d = π e → ρ d = ρ e) : s.Agrees t Q A ρ :=
  ⟨h.reg, h.byte, hρ _ _ h.view⟩

theorem State.Agrees.keepsRegs {names : List RegId} (h : s.Agrees t (fun k => k.id ∈ names) A π) : s.KeepsRegs t names := h.reg

theorem State.Agrees.keepsBytes (h : s.Agrees t Q (fun _ => False) π) : s.KeepsBytes t := fun a => h.byte a id

/-! Programs within a footprint -/

theorem Prog.Within.agrees (h : p.Within Q A π) (s : State) : s.Agrees (p.run s) Q A π :=
  ⟨fun _ hk => only_reg h.only s hk, fun _ ha => only_byte h.only s ha, keeps_run h.keeps s⟩

theorem Prog.Within.mono (h : p.Within Q A π) (hQ : ∀ k, Q k → Q' k) (hA : ∀ a, A a → A' a) : p.Within Q' A' π :=
  ⟨only_mono hQ hA h.only, h.keeps⟩

theorem keeps_coarser {ρ : Dev → δ} (hρ : ∀ d e, π d = π e → ρ d = ρ e) (h : p.Keeps π) : p.Keeps ρ := by
  induction p with
  | done => trivial
  | look k ih => exact fun s => ih s (h s)
  | dev f p ih => exact ⟨fun d => hρ _ _ (h.1 d), ih h.2⟩
  | _ => rename_i ih; exact ih h

theorem Prog.Within.coarser (h : p.Within Q A π) {ρ : Dev → δ} (hρ : ∀ d e, π d = π e → ρ d = ρ e) : p.Within Q A ρ :=
  ⟨h.only, keeps_coarser hρ h.keeps⟩

/-- What is told of a front end and of a core can be told from what a finer view tells. -/
theorem view_coarser {ε ζ : Type} {ψ' : FeSt → ε} {φ' : CoreSt → ζ} (hψ : ∀ f g, ψ f = ψ g → ψ' f = ψ' g)
    (hφ : ∀ c e, φ c = φ e → φ' c = φ' e) (d e : Dev) (h : Dev.view n k ψ φ d = Dev.view n k ψ φ e) :
    Dev.view n k ψ' φ' d = Dev.view n k ψ' φ' e := by
  simp only [Dev.view, Prod.mk.injEq] at h ⊢
  exact ⟨h.1, hψ _ _ h.2.1, hφ _ _ h.2.2⟩

/-! One rule for each operation -/

@[simp] theorem within_done : Prog.done.Within Q A π := ⟨trivial, trivial⟩

theorem within_seq (hp : p.Within Q A π) (hq : q.Within Q A π) : (p.seq q).Within Q A π :=
  ⟨only_seq hp.only hq.only, keeps_seq hp.keeps hq.keeps⟩

/-- A program of two parts keeps within a footprint where each part does. -/
@[simp] theorem within_seq_iff : (p.seq q).Within Q A π ↔ p.Within Q A π ∧ q.Within Q A π := by
  refine ⟨fun h => ?_, fun h => within_seq h.1 h.2⟩
  obtain ⟨ho, hk⟩ := h
  induction p with
  | done => exact ⟨within_done, ho, hk⟩
  | look f ih =>
    have hs (s : State) := ih s (ho s) (hk s)
    exact ⟨⟨fun s => (hs s).1.only, fun s => (hs s).1.keeps⟩, (hs ⟨[], [], [], 0, {}⟩).2⟩
  | dev f p ih =>
    obtain ⟨h1, h2⟩ := ih ho hk.2
    exact ⟨⟨h1.only, hk.1, h1.keeps⟩, h2⟩
  | _ =>
    rename_i ih
    obtain ⟨h1, h2⟩ := ih ho.2 hk
    exact ⟨⟨⟨ho.1, h1.only⟩, h1.keeps⟩, h2⟩

@[simp] theorem within_nil : (seqs []).Within Q A π := within_done

@[simp] theorem within_cons : (seqs (p :: l)).Within Q A π ↔ p.Within Q A π ∧ (seqs l).Within Q A π := within_seq_iff

@[simp] theorem within_each {ι : Type} {l : List ι} {f : ι → Prog} : (each l f).Within Q A π ↔ ∀ a ∈ l, (f a).Within Q A π := by
  induction l with
  | nil => simp [each]
  | cons a l ih => simp [each, ih]

@[simp] theorem within_ask {f : State → Prog} : (ask f).Within Q A π ↔ ∀ s, (f s).Within Q A π :=
  ⟨fun h s => ⟨h.only s, h.keeps s⟩, fun h => ⟨fun s => (h s).only, fun s => (h s).keeps⟩⟩

@[simp] theorem within_when {c : Bool} : (when c p).Within Q A π ↔ (c = true → p.Within Q A π) := by cases c <;> simp [when]

@[simp] theorem within_on {c : State → Bool} : (on c p).Within Q A π ↔ ∀ s, c s = true → p.Within Q A π := by
  rw [show on c p = ask fun s => when (c s) p from rfl]
  simp

@[simp] theorem within_setR {r : RegKey} {w : Word} : (setR r w).Within Q A π ↔ Q r :=
  ⟨fun h => h.only.1, fun h => ⟨⟨h, trivial⟩, trivial⟩⟩

@[simp] theorem within_setF {f : Field} {v : Nat} : (setF f v).Within Q A π ↔ Q f.reg :=
  ⟨fun h => (h.only ⟨[], [], [], 0, {}⟩).1, fun h => ⟨fun _ => ⟨h, trivial⟩, fun _ => trivial⟩⟩

@[simp] theorem within_setB {f : Field} : (setB f).Within Q A π ↔ Q f.reg := within_setF

@[simp] theorem within_clrB {f : Field} : (clrB f).Within Q A π ↔ Q f.reg := within_setF

@[simp] theorem within_setZ {f : Field} {z : Int} : (setZ f z).Within Q A π ↔ Q f.reg := within_setF

@[simp] theorem within_count {f : Field} : (count f).Within Q A π ↔ Q f.reg := by
  rw [show count f = ask fun s => setF f (satInc f.w (s.fld f)) from rfl, within_ask]
  exact ⟨fun h => within_setF.1 (h ⟨[], [], [], 0, {}⟩), fun h _ => within_setF.2 h⟩

@[simp] theorem within_countBy {f : Field} {v : Nat} : (countBy f v).Within Q A π ↔ Q f.reg := by
  rw [show countBy f v = ask fun s => setF f (min (s.fld f + v) (2 ^ f.w - 1)) from rfl, within_ask]
  exact ⟨fun h => within_setF.1 (h ⟨[], [], [], 0, {}⟩), fun h _ => within_setF.2 h⟩

@[simp] theorem within_set64 {lo hi : RegKey} {v : Nat} : (set64 lo hi v).Within Q A π ↔ Q lo ∧ Q hi :=
  ⟨fun h => ⟨h.only.1, h.only.2.1⟩, fun h => ⟨only_set64 h.1 h.2, trivial⟩⟩

theorem within_dev {f : Dev → Dev} (h : ∀ d, π (f d) = π d) : (dev f).Within Q A π := ⟨trivial, h, trivial⟩

/-- A change of what a view does not look at. -/
@[simp] theorem within_devApart {f : Dev → Dev} (h : ∀ d, (f d).lt.cyc = d.lt.cyc ∧ (f d).fes = d.fes ∧ (f d).cores = d.cores) :
    (dev f).Within Q A (Dev.view n k ψ φ) := by
  refine within_dev fun d => ?_
  obtain ⟨h1, h2, h3⟩ := h d
  simp [Dev.view, h1, h2, h3]

@[simp] theorem within_putBytes {a : Nat} {bs : List Byte} (h : ∀ i < bs.length, A (a + i)) : (putBytes a bs).Within Q A π := by
  refine ⟨only_putBytes h, ?_⟩
  clear h
  induction bs generalizing a with
  | nil => trivial
  | cons b bs ih => exact ih (a := a + 1)

/-- A change of a core that a view of it does not see. -/
@[simp] theorem within_modCore {j : Nat} {f : CoreSt → CoreSt} (h : ∀ c, φ (f c) = φ c) :
    (modCore j f).Within Q A (Dev.view n k ψ φ) := by
  refine within_dev fun d => ?_
  by_cases hj : k = j
  · simp [Dev.view, hj, h]
  · simp [Dev.view, Table.get_mod_other _ _ _ _ _ hj]

/-- A change of a front end that a view of it does not see. -/
@[simp] theorem within_modFe {m : Nat} {f : FeSt → FeSt} (h : ∀ x, ψ (f x) = ψ x) : (modFe m f).Within Q A (Dev.view n k ψ φ) := by
  refine within_dev fun d => ?_
  by_cases hm : n = m
  · simp [Dev.view, hm, h]
  · simp [Dev.view, Table.get_mod_other _ _ _ _ _ hm]

/-- A program without registers or bytes in its footprint changes no register. -/
theorem only_regs (h : p.Only (fun _ => False) A) (s : State) : (p.run s).regs = s.regs := by
  induction p generalizing s with
  | done => rfl
  | look k ih => exact ih s (h s) s
  | dev f p ih => exact ih h _
  | reg => exact absurd h.1 id
  | regMap f p => exact absurd (h.1 (R.BSTAT 0)) id
  | _ => rename_i ih; exact ih h.2 _

end

end Sys2Proof.Machine

/-! What the drive is not touched by: interrupts, readers of words in error, rings and fail records keep Line Time, the loops and the
excursions of the front ends, and the drive and the playback of the cores. -/
namespace Sys2Proof.Machine

/-- Of a front end: its loop and its excursions. -/
abbrev FeSt.front (f : FeSt) : LoopSt × Option Excursion × Option Excursion := (f.loop, f.oc, f.ov)

/-- Of a core: its drive and its playback. -/
abbrev CoreSt.drive (c : CoreSt) : DrvSt × PlaySt := (c.drv, c.play)

/-- Line Time, the loop and the excursions of front end `n`, and the drive and the playback of core `k`. -/
abbrev Dev.drives (n k : Nat) : Dev → Nat × (LoopSt × Option Excursion × Option Excursion) × (DrvSt × PlaySt) :=
  Dev.view n k FeSt.front CoreSt.drive

theorem State.Agrees.drv {s t : State} {Q : RegKey → Prop} {A : Nat → Prop} {n k : Nat} (h : s.Agrees t Q A (Dev.drives n k)) :
    (t.cst k).drv = (s.cst k).drv := congrArg (·.2.2.1) h.view

theorem State.Agrees.front {s t : State} {Q : RegKey → Prop} {A : Nat → Prop} {n k : Nat} (h : s.Agrees t Q A (Dev.drives n k)) :
    (t.fe n).front = (s.fe n).front := congrArg (·.2.1) h.view

theorem Covers.reg {Q : RegKey → Prop} {names : List RegId} (h : Covers Q names) {r : RegKey} (hr : r.id ∈ names) : Q r := h r hr

@[simp] theorem pendField_id (i : Nat) : (pendField i).reg.id = .IRQ_PEND := rfl

@[simp] theorem cntField_id (i : Nat) : (cntField i).reg.id = .IRQ_CNT := rfl

section
variable {α β : Type} {ψ : FeSt → β} {φ : CoreSt → α} {Q : RegKey → Prop} {A : Nat → Prop} {n k : Nat}

/-! Interrupts -/

@[simp] theorem within_event {i : Nat} (hp : Q (pendField i).reg) (hc : Q (cntField i).reg) :
    (event i).Within Q A (Dev.view n k ψ φ) := by simp [event, timerSet, makePending, hp, hc]

@[simp] theorem within_raise {i : Nat} (hp : Q (pendField i).reg) (hc : Q (cntField i).reg) :
    (raise i).Within Q A (Dev.view n k ψ φ) := by
  rw [raise, within_ask]
  intro s
  split
  · exact within_done
  split
  · simp
  · exact within_event hp hc

/-- A source of any number is raised where the interrupt registers may change. -/
theorem within_raise_of {i : Nat} (h : Covers Q [.IRQ_PEND, .IRQ_CNT]) : (raise i).Within Q A (Dev.view n k ψ φ) :=
  within_raise (h _ (by simp)) (h _ (by simp))

/-! Words in error -/

/-- `Q` covers what a reader of a word in error records, and its source (R418, R419). -/
structure ErrorRegs (Q : RegKey → Prop) : Prop where
  names : Covers Q [.MEM_ECCCNT, .MEM_ECCA_LO, .MEM_ECCA_HI, .IRQ_PEND]
  counter : Q (R.IRQ_CNT 60)

theorem errorRegs_of_names {Q : RegKey → Prop} (h : Covers Q [.MEM_ECCCNT, .MEM_ECCA_LO, .MEM_ECCA_HI, .IRQ_PEND, .IRQ_CNT]) :
    ErrorRegs Q := ⟨h.sub (by decide), h _ (by decide)⟩

theorem within_eccRecord {key : Nat} {x : EccErr} (h : ErrorRegs Q) : (eccRecord key x).Within Q A (Dev.view n k ψ φ) := by
  have hreg {r : RegKey} (hr : r.id ∈ [RegId.MEM_ECCCNT, .MEM_ECCA_LO, .MEM_ECCA_HI, .IRQ_PEND]) : Q r := h.names r hr
  have hraise (ue : Bool) : (raise (if ue then 242 else 241)).Within Q A (Dev.view n k ψ φ) := by
    cases ue <;> exact within_raise (hreg (by decide)) h.counter
  have hcount : (if x.ue then count F.MEM_ECCCNT_UE else count F.MEM_ECCCNT_CE).Within Q A (Dev.view n k ψ φ) := by
    split <;> exact within_count.2 (hreg (by decide))
  simp [eccRecord, hraise, hcount, hreg]

/-- A reader records the words in error that it reads, and marks the uncorrectable ones of the retention RAM. -/
theorem agrees_eccRead {s : State} {a m : Nat} (h : ErrorRegs Q)
    (hbad : ∀ e ∈ s.dev.bus.ecc, eccHit e.1 0 a m = true → e.2.ue = true → (retentionBad e.1).Within Q A (Dev.view n k ψ φ)) :
    s.Agrees ((eccRead a m).run s) Q A (Dev.view n k ψ φ) := by
  refine Prog.Within.agrees (p := each (s.dev.bus.ecc.filter fun e => eccHit e.1 0 a m) _) ?_ s
  rw [within_each]
  intro e he
  obtain ⟨hmem, hhit⟩ := List.mem_filter.1 he
  simp only [within_cons, within_when, within_nil, within_eccRecord h, true_and, and_true]
  exact ⟨hbad e hmem hhit, fun _ => within_devApart fun _ => ⟨rfl, rfl, rfl⟩⟩

/-- Of memory without an uncorrectable word nothing is marked. -/
theorem agrees_eccRead_good {s : State} {a m : Nat} (h : ErrorRegs Q) (hgood : s.badWord a m = false) :
    s.Agrees ((eccRead a m).run s) Q A (Dev.view n k ψ φ) := by
  refine agrees_eccRead h fun e he hhit hue => ?_
  have := List.any_eq_false.1 hgood e he
  simp [hue, hhit] at this

/-- Below the retention RAM nothing is marked. -/
theorem within_eccRead_below {a m : Nat} (h : ErrorRegs Q) (ha : a + m ≤ retBase) : (eccRead a m).Within Q A (Dev.view n k ψ φ) := by
  rw [eccRead, within_ask]
  intro s
  rw [within_each]
  intro e he
  have hhit := (List.mem_filter.1 he).2
  simp only [eccHit, Bool.and_eq_true, decide_eq_true_eq] at hhit
  rw [retentionBad_below (by omega)]
  simp [within_eccRecord h]

end

end Sys2Proof.Machine

/-! Fail records (R337 to R340): what they change, and what they count. -/
namespace Sys2Proof.Machine

/-- The channel block of channel `n`, the fail memory of core `k`, and the scratchpad with what may lie behind it. -/
def FailBytes (n k x : Nat) : Prop :=
  (chBlock n ≤ x ∧ x < chBlock n + 64) ∨ (failBase k ≤ x ∧ x < failBase k + 0x20000) ∨ InPad x

section
variable {α β : Type} {ψ : FeSt → β} {φ : CoreSt → α} {Q : RegKey → Prop} {A : Nat → Prop} {n k m j : Nat}

/-- The registers of fail records, but for those of a ring's copy. -/
abbrev failNames : List RegId := [.FAIL_STAT, .PWR_LOST, .MEM_ECCCNT, .MEM_ECCA_LO, .MEM_ECCA_HI, .IRQ_PEND, .IRQ_CNT]

theorem within_putNum {a w v : Nat} (h : ∀ i < w, A (a + i)) : (putNum a w v).Within Q A (Dev.view m j ψ φ) :=
  within_putBytes (by rwa [length_natLE])

@[simp] theorem within_eccWritten {a w : Nat} : (eccWritten a w).Within Q A (Dev.view m j ψ φ) := by simp [eccWritten]

theorem within_dpWrite {a : Nat} {bs : List Byte} (h : ∀ i < bs.length, A (a + i)) :
    (dpWrite a bs).Within Q A (Dev.view m j ψ φ) := by
  simp only [dpWrite, within_cons, within_nil, within_eccWritten, and_true]
  exact within_putBytes h

/-- A word of a channel block that reads as uncorrectable is marked in that block, and the channel's fault source tells it (R506). -/
theorem within_retentionBad {a : Nat} (ha : chBlock n ≤ a ∧ a < chBlock n + 64) (hA : ∀ x, chBlock n ≤ x ∧ x < chBlock n + 64 → A x)
    (h : Covers Q failNames) : (retentionBad a).Within Q A (Dev.view m j ψ φ) := by
  have hblock : (a - retBase - 0x100) / 64 = n := by
    unfold chBlock at ha
    omega
  have hnum {o w v : Nat} (ho : o + w ≤ 64) : (putNum (chBlock n + o) w v).Within Q A (Dev.view m j ψ φ) :=
    within_putNum fun i hi => hA _ (by omega)
  have hreg {r : RegKey} (hr : r.id ∈ failNames) : Q r := h r hr
  rw [retentionBad, within_when]
  intro _
  rw [within_ask]
  intro s
  rw [hblock]
  simp only [within_cons, within_nil, within_setB, and_true]
  refine ⟨hreg (by decide), within_raise (hreg (by simp [failNames])) (hreg (by simp [failNames])), ?_⟩
  split
  · simp [hnum]
  split
  · simp [hnum]
  · exact within_done

/-- A reader of a channel's fail count records the errors that it meets and marks them in the channel's block. -/
theorem within_eccRead_fails (hA : ∀ x, chBlock n ≤ x ∧ x < chBlock n + 64 → A x) (h : Covers Q failNames) :
    (eccRead (chBlock n + 40) 8).Within Q A (Dev.view m j ψ φ) := by
  rw [eccRead, within_ask]
  intro s
  rw [within_each]
  intro e he
  have hhit := (List.mem_filter.1 he).2
  have hkey : chBlock n ≤ e.1 ∧ e.1 < chBlock n + 64 := by
    simp only [eccHit, Bool.and_eq_true, decide_eq_true_eq] at hhit
    have : eccSize (e.1 % 2 ^ 40) ≤ 12 := by
      unfold eccSize
      split
      · decide
      · split <;> decide
    omega
  simp [within_eccRecord (errorRegs_of_names (h.sub (by decide))), within_retentionBad hkey hA h]

/-! The copy of a record in a ring -/

/-- Every register and every byte. -/
abbrev AnyReg : RegKey → Prop := fun _ => True
abbrev AnyByte : Nat → Prop := fun _ => True

theorem keeps_raise (i : Nat) : (raise i).Within AnyReg AnyByte (Dev.view m j ψ φ) := within_raise trivial trivial

/-- Errors are recorded and marked without a change of Line Time, of a front end or of a core. -/
theorem keeps_eccRead (a w : Nat) : (eccRead a w).Within AnyReg AnyByte (Dev.view m j ψ φ) := by
  have hbad (x : Nat) : (retentionBad x).Within AnyReg AnyByte (Dev.view m j ψ φ) := by
    rw [retentionBad, within_when]
    intro _
    rw [within_ask]
    intro s
    simp only [within_cons, within_nil, within_setB, and_true, true_and]
    refine ⟨keeps_raise _, ?_⟩
    split
    · simp [within_putNum]
    split
    · simp [within_putNum]
    · exact within_done
  have hrec (key : Nat) (x : EccErr) : (eccRecord key x).Within AnyReg AnyByte (Dev.view m j ψ φ) :=
    within_eccRecord ⟨fun _ _ => trivial, trivial⟩
  simp [eccRead, hbad, hrec]

theorem keeps_engineWrite (a : Nat) (bs : List Byte) : (engineWrite a bs).Within AnyReg AnyByte (Dev.view m j ψ φ) := by
  rw [engineWrite, within_when]
  intro _
  rw [partWrite, within_ask]
  intro s
  simp only [within_cons, within_nil, and_true, within_each, keeps_eccRead, implies_true, true_and]
  split
  · exact within_done
  · simp [within_dpWrite]

theorem keeps_ringOffer (r typ : Nat) (bytes : List Byte) :
    (ringOffer r typ bytes .done).Within AnyReg AnyByte (Dev.view m j ψ φ) := by
  rw [ringOffer, within_ask]
  intro s
  dsimp only
  split
  · exact within_done
  split
  · simp [AnyReg]
  split
  · exact within_done
  · simp [keeps_engineWrite, modRing, ringCopies, ringIrq, keeps_raise]

theorem keeps_bufOffer (kind owner r typ depth : Nat) (bytes : List Byte) {drop : Prog}
    (h : drop.Within AnyReg AnyByte (Dev.view m j ψ φ)) :
    (bufOffer kind owner r typ depth bytes drop).Within AnyReg AnyByte (Dev.view m j ψ φ) := by
  rw [bufOffer, within_ask]
  intro s
  split
  · exact keeps_ringOffer r typ bytes
  · simp only [within_cons, within_nil, within_when, within_setB, implies_true, true_and, and_true]
    split
    · simp
    · exact h

/-- A record that is offered to a ring changes the ring's bytes in the scratchpad, and what it raises. -/
theorem within_bufOffer {kind owner r typ depth : Nat} {bytes : List Byte} {f : Field} (h : Covers Q ringNames) (hf : Q f.reg)
    (hA : ∀ x, InPad x → A x) : (bufOffer kind owner r typ depth bytes (count f)).Within Q A (Dev.view m j ψ φ) :=
  ⟨only_mono (fun _ hk => hk) hA (records_bufOffer kind owner r typ depth bytes (records_count hf) h).only,
    (keeps_bufOffer kind owner r typ depth bytes (within_count.2 trivial)).keeps⟩

/-! A record -/

/-- The record enters the fail memory, or finds it full; `s` is the state in which it has been counted (R337, R338). -/
def failStored (n : Nat) (rec_ : List Byte) (s : State) : Prog :=
  let k := s.core n
  let keep := s.fld (F.FAIL_CFG_FULL k) = 1 && 4096 ≤ s.failCount n
  if keep then when (keep && !(s.fe n).unwritten) (seqs [setB (F.FAIL_STAT_FULL k), eventSource n])
  else seqs [dpWrite (failBase k + 32 * s.failPtr n) rec_, putNum (chBlock n + 44) 2 ((s.failPtr n + 1) % 4096),
    setB (F.FAIL_STAT_NEW k)]

/-- A failure of channel `n` is counted, and its record is written, with the words of the channel's block as they are in `s` (R338);
`go` goes on with the record. -/
def failWritten (n : Nat) (body : List Byte) (go : List Byte → Prog) (s : State) : Prog :=
  let c := min (s.failCount n + 1) 4294967295
  let rec_ := body ++ natLE 2 c
  let a := failBase (s.core n) + 32 * s.failPtr n
  let keep := s.fld (F.FAIL_CFG_FULL (s.core n)) = 1 && 4096 ≤ s.failCount n
  let first := keep && !(s.fe n).unwritten
  let x : FailLog := ⟨s.now, if keep then none else some (a, s.bytes a 32), rec_,
    if first then some (s.flg (F.FAIL_STAT_FULL (s.core n)), s.flg (pendField (n + 65))) else none⟩
  seqs [modFe n fun f => { f with fails := x :: f.fails.filter fun x => x.at_ = s.now, unwritten := f.unwritten || keep },
    putNum (chBlock n + 40) 4 c, failStored n rec_ s, eccWritten (chBlock n + 40) 8, go rec_]

theorem run_failCounted (n : Nat) (body : List Byte) (go : List Byte → Prog) (s : State) : (failCounted n body go).run s =
    (failWritten n body go ((eccRead (chBlock n + 40) 8).run s)).run ((eccRead (chBlock n + 40) 8).run s) := by
  rw [failCounted, run_seqs_cons, run_seqs_cons, run_ask, run_seqs_nil]
  rfl

/-- A record of 32 bytes changes the write index, the fail memory of the channel's core, and the status. -/
theorem within_failStored {rec_ : List Byte} {s : State} (hn : s.core n = k) (hrec : rec_.length = 32)
    (hA : ∀ x, (chBlock n + 44 ≤ x ∧ x < chBlock n + 46) ∨ (failBase k ≤ x ∧ x < failBase k + 0x20000) → A x)
    (hstat : Q (R.FAIL_STAT k)) (hp : Q (pendField (n + 65)).reg) (hc : Q (cntField (n + 65)).reg) :
    (failStored n rec_ s).Within Q A (Dev.view m j ψ φ) := by
  have hptr : s.failPtr n < 4096 := Nat.mod_lt _ (by decide)
  have hmem : (dpWrite (failBase k + 32 * s.failPtr n) rec_).Within Q A (Dev.view m j ψ φ) :=
    within_dpWrite fun i hi => hA _ (.inr (by omega))
  have hnum (v : Nat) : (putNum (chBlock n + 44) 2 v).Within Q A (Dev.view m j ψ φ) :=
    within_putNum fun i hi => hA _ (.inl (by omega))
  rw [failStored, hn]
  split
  · simp [eventSource, within_raise hp hc, hstat]
  · simp only [within_cons, within_nil, within_setB]
    exact ⟨hmem, hnum _, hstat, trivial⟩

/-- A failure changes the channel's block, and what its record changes. -/
theorem within_failWritten {body : List Byte} {go : List Byte → Prog} {s : State} (hn : s.core n = k) (hbody : body.length = 30)
    (hA : ∀ x, (chBlock n ≤ x ∧ x < chBlock n + 64) ∨ (failBase k ≤ x ∧ x < failBase k + 0x20000) → A x)
    (hstat : Q (R.FAIL_STAT k)) (hp : Q (pendField (n + 65)).reg) (hc : Q (cntField (n + 65)).reg)
    (hgo : ∀ r, (go r).Within Q A (Dev.drives m j)) : (failWritten n body go s).Within Q A (Dev.drives m j) := by
  simp only [failWritten, within_cons, within_nil, hgo, within_eccWritten, and_true]
  refine ⟨within_modFe fun _ => rfl, within_putNum fun i hi => hA _ (.inl (by omega)), ?_⟩
  refine within_failStored hn (by simp [hbody, length_natLE]) (fun x hx => hA x ?_) hstat hp hc
  exact hx.imp_left fun h => by omega

end

end Sys2Proof.Machine

/-! A fail record counts once, and its number stays below 2^32 (R337). -/
namespace Sys2Proof.Machine

section
variable {Q : RegKey → Prop} {A : Nat → Prop} {n k m j : Nat} {s t : State}

/-- Two states with the same registers read the same fields. -/
theorem State.fld_congr (h : t.regs = s.regs) (f : Field) : t.fld f = s.fld f := by rw [State.fld, State.reg_congr h, State.fld]

/-! Numbers in memory -/

theorem State.num_congr {a w : Nat} (h : ∀ i < w, t.byte (a + i) = s.byte (a + i)) : t.num a w = s.num a w := by
  rw [State.num, State.num, State.bytes, State.bytes]
  congr 1
  exact List.map_congr_left fun i hi => h i (List.mem_range.1 hi)

/-- A number reads as it was written. -/
theorem num_putNum {a w v : Nat} (h : Memory.wf s.losses s.mem = true) : ((putNum a w v).run s).num a w = v % 256 ^ w := by
  have hbytes : ((putNum a w v).run s).bytes a w = natLE w v := by
    refine List.ext_getElem (by simp [State.bytes, length_natLE]) fun i h1 h2 => ?_
    simp only [State.bytes, List.getElem_map, List.getElem_range]
    exact byte_putBytes (natLE w v) a i s h h2
  rw [State.num, hbytes, leNat_natLE]

/-! The count -/

/-- Fail memory lies below the retention RAM. -/
theorem failBase_below (hk : k < 128) (n : Nat) : failBase k + 0x20000 ≤ chBlock n := by
  unfold failBase chBlock retBase
  omega

/-- The count goes up by one and stays at its greatest value; the record does not reach it. -/
theorem failWritten_count {body : List Byte} {go : List Byte → Prog} (hwf : Memory.wf s.losses s.mem = true)
    (hbody : body.length = 30) (hgo : ∀ r, (go r).Touches []) :
    ((failWritten n body go s).run s).failCount n = min (s.failCount n + 1) (2 ^ 32 - 1) := by
  have hfail := failBase_below (core_lt s n) n
  have hstored (c : Nat) : (failStored n (body ++ natLE 2 c) s).Within AnyReg
      (fun x => x < chBlock n + 40 ∨ chBlock n + 44 ≤ x) (Dev.drives n n) :=
    within_failStored rfl (by simp [hbody, length_natLE]) (fun x hx => by omega) trivial trivial trivial
  have hgoes (r : List Byte) (u : State) : ((go r).run u).failCount n = u.failCount n :=
    State.num_congr fun i _ => (hgo r).keepsBytes u _
  simp only [failWritten, run_seqs_cons, run_seqs_nil, hgoes]
  refine (State.num_congr fun i hi => ((hstored _).agrees _).byte _ (by omega)).trans ((num_putNum ?_).trans ?_)
  · exact hwf
  · omega

/-! The record as a whole -/

/-- The length of a record without its number. -/
theorem failBody_length (a b c d e f g h i : Nat) : (natLE 8 a ++ natLE 1 b ++ natLE 1 c ++ natLE 1 d ++ natLE 1 e ++ natLE 4 f ++
    natLE 8 g ++ natLE 4 h ++ natLE 2 i).length = 30 := by simp [length_natLE]

/-- What a fail record can change, with its copy in a ring. -/
theorem agrees_failRecord {typ t info value excess flags : Nat} (hn : s.core n = k) (hA : ∀ x, FailBytes n k x → A x)
    (h : Covers Q (.RING_STAT :: .FAIL_RDROP :: failNames)) :
    s.Agrees ((failRecord n typ t info value excess flags).run s) Q A (Dev.drives m j) := by
  have hfail : Covers Q failNames := h.sub (by decide)
  have hread := (within_eccRead_fails (n := n) (m := m) (j := j) (φ := CoreSt.drive) (ψ := FeSt.front)
    (Q := fun r => r.id ∈ failNames) (A := fun x => chBlock n ≤ x ∧ x < chBlock n + 64) (fun _ h => h) (covers_self _)).agrees s
  rw [failRecord, run_ask, run_failCounted]
  refine (hread.mono (fun r hr => hfail r hr) fun x hx => hA x (.inl hx)).trans (Prog.Within.agrees ?_ _)
  refine within_failWritten ((hread.fld (by simp [failNames])).trans hn) (failBody_length ..)
    (fun x hx => hA x (hx.imp_right .inl)) (hfail _ (by simp [failNames])) (hfail _ (by simp [failNames]))
    (hfail _ (by simp [failNames])) fun r => ?_
  rw [within_when]
  exact fun _ => within_bufOffer (h.sub (by decide)) (h _ (by simp)) fun x hx => hA x (.inr (.inr hx))

/-- A fail record of a channel without a FAIL ring whose count is readable counts once. -/
theorem failRecord_plain {typ t info value excess flags : Nat} (hn : s.core n = k) (hwf : Memory.wf s.losses s.mem = true)
    (hgood : s.badWord (chBlock n + 40) 8 = false) (hring : s.flg (F.FAIL_CFG_RING k) = false)
    (hA : ∀ x, (chBlock n ≤ x ∧ x < chBlock n + 64) ∨ (failBase k ≤ x ∧ x < failBase k + 0x20000) → A x) (he : ErrorRegs Q)
    (hstat : Q (R.FAIL_STAT k)) (hc : Q (cntField (n + 65)).reg) :
    s.Agrees ((failRecord n typ t info value excess flags).run s) Q A (Dev.drives m j) ∧
      ((failRecord n typ t info value excess flags).run s).failCount n = min (s.failCount n + 1) (2 ^ 32 - 1) := by
  have hread := agrees_eccRead_good (n := m) (k := j) (φ := CoreSt.drive) (ψ := FeSt.front)
    (Q := fun r => r.id ∈ failNames) (A := fun _ => False) (errorRegs_of_names ((covers_self failNames).sub (by decide))) hgood
  have hreadQ := agrees_eccRead_good (n := m) (k := j) (φ := CoreSt.drive) (ψ := FeSt.front) (A := A) he hgood
  rw [failRecord, run_ask]
  dsimp only
  rw [hn, hring, run_failCounted]
  constructor
  · refine hreadQ.trans (Prog.Within.agrees ?_ _)
    exact within_failWritten ((hread.fld (by simp [failNames])).trans hn) (failBody_length ..) hA hstat (he.names _ (by simp)) hc
      fun r => within_done
  · rw [failWritten_count (run_wf _ _ hwf) (failBody_length ..) fun r => only_when fun h => absurd h (by decide)]
    rw [show ((eccRead (chBlock n + 40) 8).run s).failCount n = s.failCount n from
      State.num_congr fun i _ => hread.byte _ id]

end

end Sys2Proof.Machine

/-! The course of a cycle (R81 to R119, R140 to R153): what a core keeps while its loop is followed, its markers change, its AUX pins
take their levels and its samples are counted. -/
namespace Sys2Proof.Machine

/-- The drive without what the loop's samples, the trip count and the pins' edges change. -/
abbrev DrvSt.bare (d : DrvSt) : DrvSt :=
  { d with
    edges := [], levels := [], dtHL := 0, dtLH := 0, ocTrip := false, ocRun := 0, ocStamp := 0, ocHold := false
    dCount := 0, sCount := 0, tCount := 0, dNeed := 0, sNeed := 0, tNeed := 0, cvaNext := none, tprNext := none }

/-- Of a core: that drive, the levels of its gates, and its playback but for the markers. -/
abbrev CoreSt.course (c : CoreSt) : DrvSt × (Nat × Nat) × PlaySt :=
  (c.drv.bare, (c.drv.level 0, c.drv.level 1), { c.play with marks := 0 })

/-! Levels -/

section
variable (d : DrvSt) (t p q l dt : Nat)

/-- A level that a pin takes changes the edges only. -/
theorem DrvSt.put_edges : ∃ e, d.put t p l = { d with edges := e } := by
  unfold DrvSt.put
  split
  · exact ⟨d.edges, rfl⟩
  · exact ⟨_, rfl⟩

@[simp] theorem DrvSt.level_put_same : (d.put t p l).level p = l := by
  unfold DrvSt.put
  split
  · assumption
  · simp [DrvSt.level]

theorem DrvSt.level_put_other (h : q ≠ p) : (d.put t p l).level q = d.level q := by
  unfold DrvSt.put
  split
  · rfl
  · simp [DrvSt.level, h.symm]

@[simp] theorem DrvSt.level_up_same : (d.up t p dt).level p = 1 := DrvSt.level_put_same ..

theorem DrvSt.level_up_other (h : q ≠ p) : (d.up t p dt).level q = d.level q := DrvSt.level_put_other _ _ _ _ _ h

theorem DrvSt.level_dropPin (h : q ≠ p) : (d.dropPin p t).level q = d.level q := by
  have hpins (e : Edge) : (decide (e.pin = q) && (decide (e.t ≤ t) || decide (e.pin ≠ p))) = decide (e.pin = q) := by
    by_cases he : e.pin = q <;> simp [he, h]
  simp only [DrvSt.level, DrvSt.dropPin, List.filter_filter, hpins]

end

section
variable {α β : Type} {ψ : FeSt → β} {φ : CoreSt → α} {Q : RegKey → Prop} {A : Nat → Prop} {n k m j : Nat} {s : State}

@[simp] theorem modDrv_drv (f : DrvSt → DrvSt) : (((modDrv k f).run s).cst k).drv = f (s.cst k).drv := by
  simp [modDrv, modCore, State.cst]

@[simp] theorem modLoop_loop (f : LoopSt → LoopSt) : (((modLoop n f).run s).fe n).loop = f (s.fe n).loop := by
  simp [modLoop, modFe, State.fe]

/-- A change of pins other than the gates keeps the course. -/
theorem within_pins {f : DrvSt → DrvSt} (h : ∀ d, (f d).bare = d.bare ∧ (f d).level 0 = d.level 0 ∧ (f d).level 1 = d.level 1) :
    (modDrv k f).Within Q A (Dev.view m j ψ CoreSt.course) := by
  refine within_modCore fun c => ?_
  obtain ⟨h1, h2, h3⟩ := h c.drv
  simp only [CoreSt.course, h1, h2, h3]

/-- A pin that is no gate takes a level. -/
theorem within_putPin {t p : Nat} {l : Nat} : (modDrv k fun d => d.put t (2 + p) l).Within Q A (Dev.view m j ψ CoreSt.course) := by
  refine within_pins fun d => ⟨?_, d.level_put_other _ _ _ _ (by omega), d.level_put_other _ _ _ _ (by omega)⟩
  obtain ⟨e, he⟩ := d.put_edges t (2 + p) l
  rw [he]

theorem within_auxEdges {g : Nat} : (auxEdges k g).Within Q A (Dev.view m j ψ CoreSt.course) := by
  simp [auxEdges, within_putPin]

theorem within_enableLow {t : Nat} : (enableLow k t).Within Q A (Dev.view m j ψ CoreSt.course) := by
  have hlow (i : Nat) : (modDrv k fun d => (d.dropPin (2 + i) t).put t (2 + i) 0).Within Q A (Dev.view m j ψ CoreSt.course) := by
    have hlevel (d : DrvSt) {p : Nat} (hp : p ≠ 2 + i) : ((d.dropPin (2 + i) t).put t (2 + i) 0).level p = d.level p :=
      (DrvSt.level_put_other _ _ _ _ _ hp).trans (DrvSt.level_dropPin _ _ _ _ hp)
    refine within_pins fun d => ⟨?_, hlevel d (by omega), hlevel d (by omega)⟩
    obtain ⟨e, he⟩ := (d.dropPin (2 + i) t).put_edges t (2 + i) 0
    rw [he]
    rfl
  simp [enableLow, hlow]

theorem within_latchDeadTimes : (latchDeadTimes k).Within Q A (Dev.view m j ψ CoreSt.course) := by
  simp only [latchDeadTimes, within_ask]
  exact fun s => within_modCore fun c => rfl

/-! Markers -/

@[simp] theorem within_offerTrigger {src lane t : Nat} (h : ∀ c x, φ { c with cap := x } = φ c) :
    (offerTrigger k src lane t).Within Q A (Dev.view m j ψ φ) := by
  simp [offerTrigger, modCap, h]

theorem within_masksOrigin {org o : Nat} (hQ : Covers Q [.MASK_ORG_LO, .MASK_ORG_HI, .MASK_STATE])
    (h : ∀ c x, φ { c with masks := x } = φ c) : (masksOrigin k org o).Within Q A (Dev.view m j ψ φ) := by
  simp [masksOrigin, maskOrigin, modMask, h, hQ.reg]

/-- A change of the markers reaches the units, captures and masks (R241). -/
theorem within_setMarks {marks t : Nat} (hQ : Covers Q [.MASK_ORG_LO, .MASK_ORG_HI, .MASK_STATE]) :
    (setMarks k marks t).Within Q A (Dev.view m j ψ CoreSt.course) := by
  have hmask (org o : Nat) : (masksOrigin k org o).Within Q A (Dev.view m j ψ CoreSt.course) :=
    within_masksOrigin hQ fun _ _ => rfl
  simp only [setMarks, within_ask, within_cons, within_nil, within_each, and_true]
  refine fun s => ⟨within_modCore fun _ => rfl, fun i _ => ?_⟩
  split
  · exact within_done
  · simp [hmask]

/-- Markers that fall change no register. -/
theorem within_clearMarks {t : Nat} : (setMarks k 0 t).Within Q A (Dev.view m j ψ CoreSt.course) := by
  simp only [setMarks, within_ask, within_cons, within_nil, within_each, and_true]
  refine fun s => ⟨within_modCore fun _ => rfl, fun i _ => ?_⟩
  split
  · exact within_done
  · simp

/-! The loop -/

@[simp] theorem within_modLoop {f : LoopSt → LoopSt} (h : ∀ x l, ψ { x with loop := l } = ψ x) :
    (modLoop n f).Within Q A (Dev.view m j ψ φ) := within_modFe fun _ => h _ _

@[simp] theorem within_followLoop {t : Nat} {a : Analog} (h : ∀ x l, ψ { x with loop := l } = ψ x) :
    (followLoop n t a).Within Q A (Dev.view m j ψ φ) := by
  simp only [followLoop, within_on, within_ask]
  exact fun _ _ _ => within_modLoop h

theorem within_clampLoop (hQ : Q (R.LOOP_STAT k)) (h : ∀ x l, ψ { x with loop := l } = ψ x) :
    (clampLoop n k).Within Q A (Dev.view m j ψ CoreSt.course) := by
  simp only [clampLoop, within_cons, within_nil, within_clrB, within_modLoop h, and_true, true_and]
  exact ⟨hQ, hQ, within_modCore fun _ => rfl⟩

theorem within_loadDac {g : Nat} {v : Int} (hQ : Q (R.LOOP_SET k)) (h : ∀ x l, ψ { x with loop := l } = ψ x) :
    (loadDac n k g v).Within Q A (Dev.view m j ψ φ) := by
  simp only [loadDac, within_cons, within_nil, within_setZ, within_modLoop h, and_true]
  exact hQ

/-- What a selection sample counts, and the loop's choice that it shows. -/
def sampled (n k t : Nat) (a : Analog) (s : State) : Prog :=
  let d := s.demand n t < s.setpointMag n a.vref
  let mag := s.fld (F.LOOP_TAPERNOW_MAG k)
  let below := s.reference n a.vref t < (s.setpointVolts n a.vref mag).natAbs
  let dwell := s.fld (F.VLOOP_CFG_CV_DWELL n)
  let x := (s.cst k).drv
  let cva := s.flg (F.LOOP_STAT_CVA k)
  let tpr := s.flg (F.LOOP_STAT_TPR k)
  when (s.leader n = n)
    (if d then
      let need := if x.dCount = 0 then dwell else x.dNeed
      let near := cva && below && mag ≠ 0
      let tneed := if x.tCount = 0 then dwell else x.tNeed
      let t := if near then x.tCount + 1 else 0
      modDrv k fun y => { y with
        dCount := y.dCount + 1, dNeed := need, sCount := 0, tCount := t, tNeed := tneed
        cvaNext := if !cva && need < y.dCount + 1 then some true else y.cvaNext
        tprNext := if near && !tpr && tneed < t then some true else y.tprNext }
    else
      let need := if x.sCount = 0 then dwell else x.sNeed
      modDrv k fun y => { y with
        sCount := y.sCount + 1, sNeed := need, dCount := 0, tCount := 0
        cvaNext := if cva && need < y.sCount + 1 then some false else y.cvaNext
        tprNext := if tpr then some false else y.tprNext })

theorem followLoop_core (t : Nat) (a : Analog) : ((followLoop n t a).run s).core n = s.core n :=
  (within_followLoop (Q := fun _ => False) (A := fun _ => False) (m := n) (j := n) (ψ := fun _ => ()) (φ := fun _ => ())
    fun _ _ => rfl).agrees s |>.fld id

/-- A selection sample is taken in the state in which the loop has been followed. -/
theorem run_selectionSample {t : Nat} {a : Analog} {u : State} (hk : s.core n = k) (hu : (followLoop n t a).run s = u) :
    (selectionSample n t a).run s = (sampled n k t a u).run
      (u.setFld (F.LOOP_SET_SEL k) (if u.demand n t < u.setpointMag n a.vref then 1 else 0)) := by
  have hcore : u.core n = k := hu ▸ (followLoop_core t a).trans hk
  rw [selectionSample, run_seqs_cons, run_seqs_cons, run_seqs_nil, run_ask, hu]
  dsimp only
  rw [hcore]
  simp only [run_seqs_cons, run_seqs_nil]
  rfl

theorem within_sampled {t : Nat} {a : Analog} : (sampled n k t a s).Within Q A (Dev.view m j ψ CoreSt.course) := by
  rw [sampled, within_when]
  intro _
  split
  · exact within_modCore fun _ => rfl
  · exact within_modCore fun _ => rfl

end

end Sys2Proof.Machine

/-! Vectors, strobes and the trigger of a segment start (R105 to R109, R241, R257 to R259). -/
namespace Sys2Proof.Machine

section
variable {α β : Type} {ψ : FeSt → β} {φ : CoreSt → α} {Q : RegKey → Prop} {A : Nat → Prop} {n k m j : Nat} {s : State}

/-- A command that acts while the core domain has power does what its program does. -/
theorem completes_awake {c : Instr} {p : Prog} {P : State → Prop} (hc : exec c s = effect (awake p) s) (ha : s.awake = true)
    (hP : P (p.run s)) : Completes c s P := by
  refine ⟨_, hc, ?_⟩
  rwa [awake, run_on, if_pos ha]

/-! Vectors -/

/-- Line Time alone. -/
abbrev Dev.clock : Dev → Nat × Unit × Unit := Dev.view 0 0 (fun _ => ()) fun _ => ()

/-- Line Time can be told from any view. -/
theorem clock_coarser (d e : Dev) (h : Dev.view m j ψ φ d = Dev.view m j ψ φ e) : Dev.clock d = Dev.clock e := by
  simp only [Dev.view, Prod.mk.injEq] at h ⊢
  exact ⟨h.1, trivial⟩

/-- What a vector may change beside its core. -/
abbrev vectorNames : List RegId :=
  [.FMT_STAT, .IRQ_CNT, .IRQ_PEND, .MASK_ORG_HI, .MASK_ORG_LO, .MASK_STATE, .MEM_ECCA_HI, .MEM_ECCA_LO, .MEM_ECCCNT]

theorem within_driveVector {w t : Nat} {late : Bool} (hQ : Covers Q vectorNames) :
    (driveVector n k w t late).Within Q A Dev.clock := by
  have hraise : (faultSource n).Within Q A Dev.clock := within_raise_of (hQ.sub (by decide))
  simp only [driveVector, modDrv, within_ask, within_cons, within_nil, within_when, within_setB, hraise, and_true]
  exact fun _ => ⟨fun _ => hQ.reg (by simp), fun _ => hQ.reg (by simp), within_modCore fun _ => rfl⟩

theorem within_startTrigger {v0 : Nat} : (startTrigger k v0).Within Q A Dev.clock := by simp [startTrigger, modDrv]

/-- The words of a slot's vectors lie below the retention RAM. -/
theorem vectorWord_below {i v : Nat} (hk : k < 128) (hv : v < 65536) : s.slotAddr k i + 32 + 4 * v + 4 ≤ retBase := by
  have : s.fld (F.PLAY_SLOT_BASE k i) < 2 ^ 13 := fieldGet_lt _ _ _
  unfold State.slotAddr segBase retBase
  omega

/-- What a vector does before the next one is awaited. -/
def vectorActs (n k : Nat) (v : Vec) (s : State) : Prog :=
  let t := v.v0 + v.k * v.per
  let x := s.sampleWord k v.k
  let strb := s.fld (F.FMT_VEC_STRB k)
  seqs [
    eccRead (s.slotAddr k (s.cst k).play.slot + 32 + 4 * v.k) 4,
    setMarks k (x / 2 ^ 18 % 16) (t * 256),
    when (s.vectorMode k) (seqs [
      driveVector n k (x % 65536) (t * 256 + s.fld (F.FMT_VEC_DRV k)) (v.per * 256 ≤ strb),
      if strb < v.per * 256 then modDrv k fun d => { d with strobe := some (t * 256 + strb, v.k) }
      else seqs [modDrv k fun d => { d with strobe := none }, setB (F.FMT_STAT_STRB_LATE k), eventSource n]]),
    when (v.k = 0) (startTrigger k t)]

theorem within_vectorActs {v : Vec} (hk : k < 128) (hv : v.k < 65536) (hQ : Covers Q vectorNames) :
    (vectorActs n k v s).Within Q A Dev.clock := by
  have hread : (eccRead (s.slotAddr k (s.cst k).play.slot + 32 + 4 * v.k) 4).Within Q A Dev.clock :=
    within_eccRead_below (errorRegs_of_names (hQ.sub (by decide))) (vectorWord_below hk hv)
  have hmarks (marks t : Nat) : (setMarks k marks t).Within Q A Dev.clock :=
    (within_setMarks (m := 0) (j := 0) (ψ := fun _ => ()) (hQ.sub (by decide))).coarser clock_coarser
  simp only [vectorActs, within_cons, within_nil, within_when, hread, hmarks, within_driveVector hQ, within_startTrigger,
    implies_true, true_and, and_true]
  have hraise : (eventSource n).Within Q A Dev.clock := within_raise_of (hQ.sub (by decide))
  intro _
  split
  · simp [modDrv]
  · simp [modDrv, hraise, hQ.reg]

/-- A vector that decides nothing: its instant is reached, it acts, and the next vector is awaited. -/
theorem run_oneVector {v : Vec} (h : v.k ≠ s.decisionSample k) : (oneVector n k v).run s =
    (modPlay k fun p => { p with vec := some { v with k := v.k + 1 }, idx := v.k, seen := v.k }).run
      ((vectorActs n k v s).run ((advance (v.v0 + v.k * v.per)).run s)) := by
  simp only [oneVector, run_ask, run_seqs_cons, run_seqs_nil, run_when, vectorActs, h]
  rfl

/-- The last vector has ended at `t` and no segment follows. -/
def State.vectorsOver (s : State) (k t : Nat) : State :=
  (seqs [advance t, endSegment k,
    modPlay k fun q => { q with vecEnd := none, dwell := true, name := q.name.map fun x => (x.1, t) }]).run s

theorem vectorsOver_play (k t : Nat) : ((s.vectorsOver k t).cst k).play.playing = false ∧
    ((s.vectorsOver k t).cst k).play.dwell = true ∧ ((s.vectorsOver k t).cst k).play.vec = none := by
  simp [State.vectorsOver, endSegment, modPlay, modCore, State.cst]

theorem run_vectorEnd {t : Nat} (h : (s.cst k).play.next = none) :
    (vectorEnd n k t).run s = (setMarks k 0 (t * 256)).run (s.vectorsOver k t) := by
  obtain ⟨hplaying, -, hvec⟩ := vectorsOver_play (s := s) k t
  have hfirst : (firstVector n k).run (s.vectorsOver k t) = s.vectorsOver k t := by
    rw [firstVector, run_ask, hvec]
    rfl
  rw [vectorEnd, run_ask]
  dsimp only
  rw [h]
  simp only [run_seqs_cons, run_seqs_nil]
  change (on _ _).run ((firstVector n k).run (s.vectorsOver k t)) = _
  rw [hfirst, run_on, hplaying]
  rfl

/-! The end of a segment-start trigger -/

/-- An AUX1 pin that carries the trigger leaves its level in VECTOR mode. -/
def pinAfterTrigger (k e : Nat) (s : State) : Prog :=
  when (s.fld (F.FMT_AUX_SRC k 1) = 4 && s.vectorMode k)
    (modDrv k fun d => d.put (e * 256 + s.fld (F.FMT_AUX_DLY k 1)) 3 (s.fld (F.FMT_AUX_POL k 1)))

theorem within_pinAfterTrigger {e : Nat} :
    (pinAfterTrigger k e s).Within (fun _ => False) A (Dev.view n k (fun _ => ()) fun c => c.drv.trigEnd) := by
  refine within_when.2 fun _ => within_modCore fun c => ?_
  obtain ⟨l, hl⟩ := c.drv.put_edges (e * 256 + s.fld (F.FMT_AUX_DLY k 1)) 3 (s.fld (F.FMT_AUX_POL k 1))
  dsimp only
  rw [hl]

theorem run_triggerEnd {e : Nat} (h : (s.cst (s.core n)).drv.trigEnd = some e) :
    (progTriggerEnd n).run s = (pinAfterTrigger (s.core n) e s).run
      ((modDrv (s.core n) fun d => { d with trigEnd := none }).run ((advance e).run s)) := by
  rw [progTriggerEnd, run_ask]
  dsimp only
  rw [h]
  simp only [run_seqs_cons, run_seqs_nil, pinAfterTrigger]

/-! Strobes -/

/-- Line `j` of core `k` fails the compare of vector `i` (R106); line 3 is not compared while AUX1 carries the trigger. -/
def State.lineFails (s : State) (k i levels j : Nat) : Bool :=
  let c := s.sampleWord k i % 65536 / 16 ^ j % 16
  (((c = 2 && levels.testBit j) || (c = 3 && !levels.testBit j)) && !(j = 3 && s.fld (F.FMT_AUX_SRC k 1) = 4))

/-- The lines that fail, as bits. -/
def State.failLines (s : State) (k i levels : Nat) : Nat :=
  (List.range 4).foldl (fun m j => if s.lineFails k i levels j then m + 2 ^ j else m) 0

theorem run_vectorStrobe {levels t i : Nat} (h : (s.cst (s.core n)).drv.strobe = some (t, i)) :
    (progVectorStrobe n levels).run s = (when (s.failLines (s.core n) i levels ≠ 0) (failRecord n 2 t 0
      (s.sampleWord (s.core n) i % 65536 + 2 ^ 16 * (levels % 16) + 2 ^ 24 * s.failLines (s.core n) i levels) i
      (if s.holdover then 16 else 0))).run
        ((modDrv (s.core n) fun d => { d with strobe := none }).run ((advance (t / 256)).run s)) := by
  rw [progVectorStrobe, run_ask]
  dsimp only
  rw [h]
  simp only [run_seqs_cons, run_seqs_nil]
  rfl

theorem foldl_lines_none {b : Nat → Bool} {l : List Nat} (h : ∀ j ∈ l, b j = false) (x : Nat) :
    l.foldl (fun m j => if b j then m + 2 ^ j else m) x = x := by
  induction l with
  | nil => rfl
  | cons j l ih => rw [List.foldl_cons, h j (by simp), if_neg (by decide), ih fun i hi => h i (by simp [hi])]

theorem le_foldl_lines (b : Nat → Bool) (l : List Nat) (x : Nat) : x ≤ l.foldl (fun m j => if b j then m + 2 ^ j else m) x := by
  induction l generalizing x with
  | nil => exact le_refl x
  | cons j l ih =>
    rw [List.foldl_cons]
    refine le_trans ?_ (ih _)
    split
    · exact Nat.le_add_right _ _
    · exact le_refl x

/-- The code of line `j` in the low 16 bits of a vector. -/
theorem lineCode {x j : Nat} (hj : j < 4) : x % 65536 / 16 ^ j % 16 = x / 16 ^ j % 16 := by
  rcases (by omega : j = 0 ∨ j = 1 ∨ j = 2 ∨ j = 3) with rfl | rfl | rfl | rfl <;> norm_num <;> omega

theorem failLines_none {levels i : Nat} (h : ((List.range 4).all fun j => !(s.sampleWord k i / 16 ^ j % 16 = 2 && levels.testBit j)
      && !(s.sampleWord k i / 16 ^ j % 16 = 3 && !levels.testBit j)) = true) : s.failLines k i levels = 0 := by
  refine foldl_lines_none (fun j hj => ?_) 0
  have hcode := lineCode (x := s.sampleWord k i) (List.mem_range.1 hj)
  have := List.all_eq_true.1 h j hj
  simp only [Bool.and_eq_true, Bool.not_eq_true'] at this
  simp [State.lineFails, hcode, this]

theorem failLines_first {levels i : Nat} (h : s.sampleWord k i % 16 = 2) (hl : levels.testBit 0 = true) :
    s.failLines k i levels ≠ 0 := by
  have hfail : s.lineFails k i levels 0 = true := by
    have hcode := lineCode (x := s.sampleWord k i) (j := 0) (by decide)
    simp only [pow_zero, Nat.div_one, h] at hcode
    simp [State.lineFails, hcode, hl]
  rw [State.failLines, show List.range 4 = 0 :: [1, 2, 3] from rfl, List.foldl_cons, hfail]
  exact (Nat.lt_of_lt_of_le (by decide) (le_foldl_lines _ [1, 2, 3] _)).ne'

end

/-- Settles O24: a vector and a strobe by what they change, the end of the vectors and of the trigger by what they leave. -/
theorem vectorsPlayAndStrobe : Obligations.VectorsPlayAndStrobe := by
  unfold Obligations.VectorsPlayAndStrobe
  refine ⟨?vector, ?last, ?passes, ?fails, ?trigger⟩
  case vector =>
    intro s n v ha hv hc hvec hk hlen hd
    refine completes_awake rfl ha ?_
    rw [progVectorStart, run_on, if_pos (by simp [hv, hc]), run_ask]
    dsimp only
    rw [hvec]
    dsimp only
    rw [if_pos hk, run_oneVector hd]
    have hacts := (within_vectorActs (n := n) (s := s) (A := fun _ => False) (core_lt s n) (v := v) (by omega)
      (covers_self vectorNames)).agrees ((advance (v.v0 + v.k * v.per)).run s)
    exact ⟨by simp [modPlay, modCore, State.cst], by simp [modPlay, modCore, State.cst], hacts.now, hacts.keepsRegs,
      hacts.keepsBytes⟩
  case last =>
    intro s n v ha hv hc hvec hk hnext
    refine completes_awake rfl ha ?_
    rw [progVectorStart, run_on, if_pos (by simp [hv, hc]), run_ask]
    dsimp only
    rw [hvec]
    dsimp only
    rw [if_neg (by omega), run_vectorEnd hnext]
    have hmarks := within_clearMarks (Q := fun _ => False) (k := s.core n) (t := (v.v0 + v.len * v.per) * 256)
      (A := fun _ => False) (m := n) (j := s.core n) (ψ := fun _ => ())
    have hagrees := hmarks.agrees (s.vectorsOver (s.core n) (v.v0 + v.len * v.per))
    have hplay := congrArg (·.2.2) hagrees.cst
    obtain ⟨hplaying, hdwell, hvec⟩ := vectorsOver_play (s := s) (s.core n) (v.v0 + v.len * v.per)
    exact ⟨(congrArg PlaySt.playing hplay).trans hplaying, (congrArg PlaySt.dwell hplay).trans hdwell,
      (congrArg PlaySt.vec hplay).trans hvec, hagrees.now, only_regs hmarks.only _, hagrees.keepsBytes⟩
  case passes =>
    intro s n levels x i ha hstrobe hpass
    refine completes_awake rfl ha ?_
    rw [run_vectorStrobe hstrobe, failLines_none hpass]
    exact ⟨by simp [modDrv, modCore, State.cst, when], rfl, rfl, fun _ => rfl⟩
  case fails =>
    intro s n levels x i ha hwf hstrobe hcode hlevel hring hgood
    refine completes_awake rfl ha ?_
    rw [run_vectorStrobe hstrobe, run_when, if_pos (by simpa using failLines_first hcode hlevel)]
    generalize hu : (modDrv (s.core n) fun d => { d with strobe := none }).run ((advance (x / 256)).run s) = u
    have hregs : u.regs = s.regs := hu ▸ rfl
    have hstrobe' : (u.cst (s.core n)).drv.strobe = none := by
      rw [← hu]
      simp [modDrv, modCore, State.cst]
    have hcount' : u.failCount n = s.failCount n := hu ▸ rfl
    obtain ⟨hagrees, hcount⟩ := failRecord_plain (s := u) (k := s.core n) (Q := fun r => r.id ∈ failNames) (m := n)
      (j := s.core n) (typ := 2) (t := x) (info := 0) (excess := i) (State.fld_congr hregs _) (hu ▸ hwf) (by rw [← hu]; exact hgood)
      (by rwa [State.flg, State.fld_congr hregs, ← State.flg]) (fun _ h => h)
      (errorRegs_of_names ((covers_self failNames).sub (by decide))) (by simp) (by simp)
    rw [hcount'] at hcount
    refine ⟨(congrArg DrvSt.strobe hagrees.drv).trans hstrobe', hcount, fun r hr => ?_, fun y hy => ?_⟩
    · exact (hagrees.keepsRegs.mono (by decide) r hr).trans (State.reg_congr hregs r)
    · refine (hagrees.byte y ?_).trans (hu ▸ rfl)
      have h1 := hy (failBase (s.core n), 0x20000) (by simp)
      have h2 := hy (chBlock n, 64) (by simp)
      dsimp only at h1 h2
      omega
  case trigger =>
    intro s n e ha hend
    refine completes_awake rfl ha ?_
    have hpin := within_pinAfterTrigger (n := n) (k := s.core n) (e := e) (s := s) (A := fun _ => False)
    have hagrees := hpin.agrees ((modDrv (s.core n) fun d => { d with trigEnd := none }).run ((advance e).run s))
    rw [run_triggerEnd hend]
    exact ⟨hagrees.cst.trans (by simp [modDrv, modCore, State.cst]), hagrees.now, only_regs hpin.only _, hagrees.keepsBytes⟩

end Sys2Proof.Machine

/-! Pulse ends (R93 to R97, R137, R151): the crossing of the peak comparator and TMAX. -/
namespace Sys2Proof.Machine

section
variable {α β : Type} {ψ : FeSt → β} {Q : RegKey → Prop} {A : Nat → Prop} {n k m j : Nat} {s t : State} {q : Pulse}

/-! The reference of a loop -/

/-- What front ends hold, and the values in effect. -/
abbrev Dev.analog (d : Dev) : Table FeSt × List (RegKey × Word) := (d.fes, d.eff)

theorem State.Agrees.effFld (h : s.Agrees t Q A Dev.analog) (f : Field) : t.effFld f = s.effFld f := by
  have heff : t.dev.eff = s.dev.eff := congrArg Prod.snd h.view
  rw [State.effFld, State.effReg, heff, State.effFld, State.effReg]

theorem State.Agrees.loop (h : s.Agrees t Q A Dev.analog) (n : Nat) : t.fe n = s.fe n := by
  have hfes : t.dev.fes = s.dev.fes := congrArg Prod.fst h.view
  rw [State.fe, hfes, State.fe]

/-- D rests on the gangs, the loops and the values in effect. -/
theorem State.Agrees.demand (h : s.Agrees t Q A Dev.analog) (hQ : ∀ i, ¬Q (R.XBAR_GANG i)) (x : Nat) :
    t.demand n x = s.demand n x := by
  have hgang : t.leader n = s.leader n := by rw [State.leader, State.gang, h.fld (hQ _), State.leader, State.gang]
  simp only [State.demand, hgang, h.effFld, h.loop]

/-- |V_S| rests on the gain, the setpoint DAC and the values in effect. -/
theorem State.Agrees.setpointMag (h : s.Agrees t Q A Dev.analog) (hQ : ¬Q (R.SCALE_GAIN n)) (vref : Nat) :
    t.setpointMag n vref = s.setpointMag n vref := by
  simp only [State.setpointMag, State.setpointVolts, State.gainTrim, State.setpointLsb, h.effFld, h.loop,
    h.fld (f := F.SCALE_GAIN_ISET n) hQ]

/-! Selection samples and ends -/

theorem agrees_selectionSample {x : Nat} {a : Analog} (hQ : Q (R.LOOP_SET (s.core n))) (hψ : ∀ x l, ψ { x with loop := l } = ψ x) :
    s.Agrees ((selectionSample n x a).run s) Q A (Dev.view m j ψ CoreSt.course) := by
  have hfollow := (within_followLoop (n := n) (t := x) (a := a) (Q := Q) (A := A) (m := m) (j := j) (φ := CoreSt.course) hψ).agrees s
  rw [run_selectionSample rfl rfl]
  exact hfollow.trans <| (within_setF.2 hQ : (setF (F.LOOP_SET_SEL (s.core n)) _).Within Q A _).agrees _ |>.trans <|
    within_sampled.agrees _

/-- The end of a pulse changes the edges, and no pulse is left. -/
def DrvSt.ended (d : DrvSt) (q : Pulse) (t dt : Nat) : DrvSt :=
  { (d.put t (if q.fwd then 0 else 1) 0).up (t + dt) (1 - if q.fwd then 0 else 1) dt with pulse := none }

theorem DrvSt.level_ended (d : DrvSt) (q : Pulse) (t dt : Nat) :
    (d.ended q t dt).level (if q.fwd then 0 else 1) = 0 ∧ (d.ended q t dt).level (if q.fwd then 1 else 0) = 1 := by
  cases h : q.fwd <;> simp only [DrvSt.ended, h]
  · exact ⟨(DrvSt.level_up_other _ _ _ _ _ (by decide)).trans (DrvSt.level_put_same ..), DrvSt.level_up_same ..⟩
  · exact ⟨(DrvSt.level_up_other _ _ _ _ _ (by decide)).trans (DrvSt.level_put_same ..), DrvSt.level_up_same ..⟩

theorem run_endPulse (h : (s.cst k).drv.pulse = some q) (x : Nat) : ∃ dt, (endPulse k x).run s =
    (modDrv k fun d => d.ended q x dt).run s := by
  rw [endPulse, run_ask, h]
  exact ⟨_, rfl⟩

/-- `t` is `s` after the pulse `q` of channel `n` on core `k` has ended at `x`, its selection sample taken. -/
structure PulseEnded (s t : State) (n k : Nat) (q : Pulse) (x vref : Nat) : Prop where
  pulse : (t.cst k).drv.pulse = none
  control : (t.cst k).drv.level (if q.fwd then 0 else 1) = 0
  other : (t.cst k).drv.level (if q.fwd then 1 else 0) = 1
  sel : t.fld (F.LOOP_SET_SEL k) = if t.demand n x < t.setpointMag n vref then 1 else 0
  now : t.now = s.now
  regs : s.KeepsRegsAt t k [.LOOP_SET] []
  bytes : s.KeepsBytes t

theorem loopSetSel_ok (k : Nat) : (F.LOOP_SET_SEL k).ok = true := (by decide +kernel : (F.LOOP_SET_SEL 0).ok = true)

theorem pulse_ended (hk : s.core n = k) (hq : (s.cst k).drv.pulse = some q) (x : Nat) (a : Analog) :
    PulseEnded s ((endPulse k x).run ((selectionSample n x a).run s)) n k q x a.vref := by
  subst hk
  let Q : RegKey → Prop := fun r => r.id ∈ [RegId.LOOP_SET] ∧ r.u = s.core n
  have hsample := agrees_selectionSample (s := s) (n := n) (x := x) (a := a) (Q := Q) (A := fun _ => False) (m := n)
    (j := s.core n) (ψ := fun _ => ()) ⟨by simp, rfl⟩ fun _ _ => rfl
  have hpulse : (((selectionSample n x a).run s).cst (s.core n)).drv.pulse = some q :=
    (congrArg (fun c => c.1.pulse) hsample.cst).trans hq
  obtain ⟨dt, hend⟩ := run_endPulse hpulse x
  have hdrv : (((modDrv (s.core n) fun d => d.ended q x dt).run ((selectionSample n x a).run s)).cst (s.core n)).drv =
      (((selectionSample n x a).run s).cst (s.core n)).drv.ended q x dt := by simp [modDrv, modCore, State.cst]
  obtain ⟨hcontrol, hother⟩ := (((selectionSample n x a).run s).cst (s.core n)).drv.level_ended q x dt
  rw [hend]
  refine ⟨congrArg DrvSt.pulse hdrv, (congrArg (DrvSt.level · _) hdrv).trans hcontrol,
    (congrArg (DrvSt.level · _) hdrv).trans hother, ?sel, hsample.now, fun r hr _ => hsample.reg r hr, hsample.keepsBytes⟩
  case sel =>
    obtain ⟨u, hu⟩ : ∃ u, (followLoop n x a).run s = u := ⟨_, rfl⟩
    rw [run_selectionSample rfl hu]
    -- The field is set from the state `u`; what follows reaches neither the reference nor the field.
    have hset : (setF (F.LOOP_SET_SEL (s.core n)) (if u.demand n x < u.setpointMag n a.vref then 1 else 0)).Within
        Q (fun _ => False) Dev.analog := within_setF.2 ⟨by simp, rfl⟩
    have hcount : (sampled n (s.core n) x a u).Within (fun _ => False) (fun _ => False) Dev.analog := by
      rw [sampled, within_when]
      intro _
      split <;> exact within_dev fun _ => rfl
    have hlast : (modDrv (s.core n) fun d => d.ended q x dt).Within (fun _ => False) (fun _ => False) Dev.analog :=
      within_dev fun _ => rfl
    have hrest := (hcount.agrees (u.setFld (F.LOOP_SET_SEL (s.core n))
      (if u.demand n x < u.setpointMag n a.vref then 1 else 0))).trans (hlast.agrees _)
    have hall := (hset.agrees u).trans (hrest.mono (fun _ h => h.elim) fun _ h => h)
    rw [hall.demand (fun i h => by simp [Q] at h), hall.setpointMag (fun h => by simp [Q] at h), hrest.fld id,
      State.fld_setFld _ _ _ (loopSetSel_ok _)]
    split <;> rfl

end

end Sys2Proof.Machine

/-! Trips (R113 to R116, R155 to R158): what an excursion that persists for the filter time does. -/
namespace Sys2Proof.Machine

section
variable {α β : Type} {ψ : FeSt → β} {φ : CoreSt → α} {Q : RegKey → Prop} {A : Nat → Prop} {n k m j : Nat} {s t : State} {q : Pulse}

/-- A Calm request changes what the drives know of Calm, and may hold the sequencer. -/
theorem within_calmRequest (hQ : Covers Q [.SEQ_STATE])
    (hcalm : ∀ c x y z, φ { c with drv := { c.drv with calm := x, leave := y, frozeAct := z } } = φ c)
    (hseq : ∀ c x, φ { c with seq := x } = φ c) : (calmRequest n).Within Q A (Dev.view m j ψ φ) := by
  simp only [calmRequest, holdSequencer, within_ask, within_cons, within_nil, within_each, and_true]
  refine fun s => ⟨fun i _ => within_modCore fun c => hcalm c _ _ _, fun u => ?_⟩
  split
  · simp only [within_cons, within_nil, within_setF, and_true]
    exact ⟨within_modCore fun c => hseq c _, hQ.reg (by simp)⟩
  · rw [within_when]
    exact fun _ => within_modCore fun c => hseq c _

/-! Overcurrent trips -/

/-- What the first trip of a cycle starts beside its count (R114, R125). -/
def tripStarts (n k : Nat) (s : State) : Prog :=
  let d := (s.cst k).drv
  let limit := s.effFld (F.FMT_OCLIM_OC_LIMIT k)
  seqs [
    modDrv k fun d => { d with ocTrip := true, ocRun := d.ocRun + 1 },
    when (d.ocRun = 0) (eventSource n),
    when (limit ≠ 0 && limit ≤ d.ocRun + 1 && !s.calm n && !d.ocCalm)
      (seqs [calmRequest n, modDrv k fun d => { d with ocCalm := true }])]

theorem run_countTrip (n k : Nat) (s : State) : (countTrip n k).run s =
    if (s.cst k).drv.ocTrip then s.setFld (F.FMT_STAT_OC k) 1
    else (tripStarts n k s).run ((count (F.FMT_CNT_B_OC k)).run (s.setFld (F.FMT_STAT_OC k) 1)) := by
  rw [countTrip, run_ask]
  dsimp only
  rw [run_seqs_cons, run_seqs_cons, run_seqs_nil, run_when, run_setB]
  cases h : (s.cst k).drv.ocTrip
  · rw [if_pos (by decide), if_neg (by decide), run_seqs_cons]
    rfl
  · rfl

theorem within_tripStarts (hQ : Covers Q [.SEQ_STATE, .IRQ_PEND, .IRQ_CNT]) :
    (tripStarts n k s).Within Q A (Dev.view m j ψ fun c => c.drv.pulse) := by
  have hcalm : (calmRequest n).Within Q A (Dev.view m j ψ fun c => c.drv.pulse) :=
    within_calmRequest (hQ.sub (by decide)) (fun _ _ _ _ => rfl) fun _ _ => rfl
  have hraise : (eventSource n).Within Q A (Dev.view m j ψ fun c => c.drv.pulse) := within_raise_of (hQ.sub (by decide))
  simp only [tripStarts, within_cons, within_nil, within_when, hcalm, hraise, implies_true, true_and, and_true]
  exact ⟨within_modCore fun _ => rfl, fun _ => within_modCore fun _ => rfl⟩

/-- The registers that the count of a trip can change. -/
abbrev tripNames : List RegId := [.FMT_STAT, .FMT_CNT_B, .SEQ_STATE, .IRQ_PEND, .IRQ_CNT]

theorem tripFields_ok (k : Nat) : (F.FMT_STAT_OC k).ok = true ∧ (F.FMT_CNT_B_OC k).ok = true :=
  (by decide +kernel : (F.FMT_STAT_OC 0).ok = true ∧ (F.FMT_CNT_B_OC 0).ok = true)

theorem agrees_countTrip : s.Agrees ((countTrip n k).run s) (fun r => r.id ∈ tripNames) A
    (Dev.view m j ψ fun c => c.drv.pulse) := by
  have hset : (setB (F.FMT_STAT_OC k)).Within (fun r => r.id ∈ tripNames) A (Dev.view m j ψ fun c => c.drv.pulse) :=
    within_setB.2 (by simp)
  have hcount : (count (F.FMT_CNT_B_OC k)).Within (fun r => r.id ∈ tripNames) A (Dev.view m j ψ fun c => c.drv.pulse) :=
    within_count.2 (by simp)
  rw [run_countTrip]
  split
  · exact hset.agrees s
  · exact (hset.agrees s).trans ((hcount.agrees _).trans ((within_tripStarts ((covers_self tripNames).sub (by decide))).agrees _))

/-- A trip sets `OC`, and the first of its cycle counts (R113). -/
theorem countTrip_flds (n k : Nat) (s : State) : ((countTrip n k).run s).fld (F.FMT_STAT_OC k) = 1 ∧
    ((countTrip n k).run s).fld (F.FMT_CNT_B_OC k) =
      if (s.cst k).drv.ocTrip then s.fld (F.FMT_CNT_B_OC k) else satInc 16 (s.fld (F.FMT_CNT_B_OC k)) := by
  obtain ⟨hoc, hcnt⟩ := tripFields_ok k
  have hset : (s.setFld (F.FMT_STAT_OC k) 1).fld (F.FMT_STAT_OC k) = 1 := State.fld_setFld _ _ _ hoc
  have hkept : (s.setFld (F.FMT_STAT_OC k) 1).fld (F.FMT_CNT_B_OC k) = s.fld (F.FMT_CNT_B_OC k) :=
    State.fld_setFld_reg _ _ _ _ (by simp)
  rw [run_countTrip]
  split
  · exact ⟨hset, hkept⟩
  · have hrest := (within_tripStarts (n := n) (k := k) (s := s) (A := fun _ => False) (m := n) (j := k) (ψ := fun _ => ())
      (covers_self [.SEQ_STATE, .IRQ_PEND, .IRQ_CNT])).agrees ((count (F.FMT_CNT_B_OC k)).run (s.setFld (F.FMT_STAT_OC k) 1))
    rw [hrest.fld (by simp), hrest.fld (by simp), run_count, State.fld_setFld_reg _ _ _ _ (by simp), hset,
      State.fld_setFld _ _ _ hcnt, hkept]
    exact ⟨rfl, Nat.mod_eq_of_lt (satInc_lt 16 _)⟩

/-- `t` is `s` after an overcurrent trip that ends the pulse `q` of core `k`. -/
structure OvercurrentEnded (s t : State) (k : Nat) (q : Pulse) : Prop where
  pulse : (t.cst k).drv.pulse = none
  control : (t.cst k).drv.level (if q.fwd then 0 else 1) = 0
  flag : t.fld (F.FMT_STAT_OC k) = 1
  counted : t.fld (F.FMT_CNT_B_OC k) =
    if (s.cst k).drv.ocTrip then s.fld (F.FMT_CNT_B_OC k) else satInc 16 (s.fld (F.FMT_CNT_B_OC k))
  regs : s.KeepsRegs t [.FMT_STAT, .FMT_CNT_B, .LOOP_SET, .SEQ_STATE, .IRQ_PEND, .IRQ_CNT]
  bytes : s.KeepsBytes t

/-- A trip outside VECTOR that reaches the pad in time ends the pulse (R113). -/
theorem ocTrip_ends {trip : Nat} {x : Excursion} {a : Analog} (hk : s.core n = k) (hv : s.vectorMode k = false)
    (hq : (s.cst k).drv.pulse = some q) (hpad : trip + x.delay ≤ q.tmax) :
    OvercurrentEnded s ((ocTrip n k trip x a).run s) k q := by
  obtain ⟨u, hu⟩ : ∃ u, (seqs [advance (trip / 256),
    modDrv k fun y => { y with ocStamp := x.stamp, ocHold := s.holdover }]).run s = u := ⟨_, rfl⟩
  have hregs : u.regs = s.regs := hu ▸ rfl
  have hdrv : (u.cst k).drv = { (s.cst k).drv with ocStamp := x.stamp, ocHold := s.holdover } := by
    rw [← hu]
    simp [modDrv, modCore, State.cst]
  have hbytes : s.KeepsBytes u := fun _ => hu ▸ rfl
  -- The trip is counted, and offered to the capture.
  have hcount := agrees_countTrip (s := u) (n := n) (k := k) (A := fun _ => False) (m := n) (j := k) (ψ := fun _ => ())
  have hoffer : (when (s.leads k) (offerTrigger k 22 38 x.stamp)).Within (fun _ => False) (fun _ => False)
      (Dev.view n k (fun _ => ()) fun c => c.drv.pulse) := by simp
  obtain ⟨v, hv'⟩ : ∃ v, (when (s.leads k) (offerTrigger k 22 38 x.stamp)).run ((countTrip n k).run u) = v := ⟨_, rfl⟩
  have hw := hv' ▸ hcount.trans ((hoffer.agrees _).mono (fun _ h => h.elim) fun _ h => h)
  obtain ⟨hoc, hcnt⟩ := countTrip_flds n k u
  have hrun : (ocTrip n k trip x a).run s =
      (endPulse k (trip + x.delay)).run ((selectionSample n (trip + x.delay) a).run ((advance ((trip + x.delay) / 256)).run v)) := by
    rw [ocTrip, run_ask]
    dsimp only
    rw [hv, hq, if_neg (by decide), ← hv', ← hu]
    simp only [run_seqs_cons, run_seqs_nil, run_when, if_pos (decide_eq_true hpad)]
  have hend := pulse_ended (s := (advance ((trip + x.delay) / 256)).run v) (n := n) (k := k) (q := q)
    ((hw.fld (by simp)).trans ((State.fld_congr hregs _).trans hk)) (hw.cst.trans ((congrArg DrvSt.pulse hdrv).trans hq))
    (trip + x.delay) a
  have hfld {f : Field} (hf : f.reg.id ≠ .LOOP_SET) : ((ocTrip n k trip x a).run s).fld f = ((countTrip n k).run u).fld f := by
    rw [hrun, State.fld, hend.regs f.reg (fun h => hf (by simpa using h.1)) (by simp)]
    exact hv' ▸ (hoffer.agrees _).fld id
  refine ⟨hrun ▸ hend.pulse, hrun ▸ hend.control, (hfld (by simp)).trans hoc, ?_, fun r hr => ?_, fun y => ?_⟩
  · rw [hfld (by simp), hcnt, hdrv, State.fld_congr hregs]
  · rw [hrun, hend.regs r (fun h => hr (by simp at h; simp [h])) (by simp)]
    exact (hw.reg r fun h => hr (by simp at h ⊢; tauto)).trans (State.reg_congr hregs r)
  · rw [hrun, hend.bytes y]
    exact (hw.byte y id).trans (hbytes y)

end

end Sys2Proof.Machine

/-! The entry into Calm (R33, R91, R104, R142, R497): its body, and the report of an overcurrent run. -/
namespace Sys2Proof.Machine

/-- Of a front end: its excursions. -/
abbrev FeSt.watch (f : FeSt) : Option Excursion × Option Excursion := (f.oc, f.ov)

/-- Of a core: what its drive keeps when it enters Calm. -/
abbrev CoreSt.plan (c : CoreSt) : Nat × Option Nat × Option Nat × Nat × Bool :=
  (c.drv.g, c.drv.tripCalm, c.drv.leave, c.drv.mode, c.drv.ocCalm)

section
variable {α β : Type} {ψ : FeSt → β} {φ : CoreSt → α} {Q : RegKey → Prop} {A : Nat → Prop} {n k m j at_ : Nat} {s t : State}

/-- What the course of a cycle keeps, the plan keeps. -/
theorem plan_coarser (d e : Dev) (h : Dev.view m j ψ CoreSt.course d = Dev.view m j ψ CoreSt.course e) :
    Dev.view m j ψ CoreSt.plan d = Dev.view m j ψ CoreSt.plan e :=
  view_coarser (fun _ _ h => h)
    (fun _ _ h => congrArg (fun x => (x.1.g, x.1.tripCalm, x.1.leave, x.1.mode, x.1.ocCalm)) h) d e h

/-! A loop without a setpoint -/

/-- The loop of channel `n` takes no setpoint in a cycle that begins at `g`: its DAC holds 0, and its integrator is clamped. -/
structure State.LoopIdle (s : State) (n g : Nat) : Prop where
  dac : (s.fe n).loop.dac = 0
  load : (s.fe n).loop.load = loadAt g
  clamped : (s.fe n).loop.clamped = true
  d : (s.fe n).loop.d = 0

/-- A view of a front end that shows its loop shows that the loop is idle. -/
theorem State.LoopIdle.of_agrees {g : Nat} (h : s.LoopIdle n g) (ha : s.Agrees t Q A (Dev.view n k FeSt.loop φ)) :
    t.LoopIdle n g := by
  obtain ⟨h1, h2, h3, h4⟩ := h
  rw [← ha.fe] at h1 h2 h3 h4
  exact ⟨h1, h2, h3, h4⟩

/-- The integrator of the loop is clamped with D at 0; the status bits and the dwell counts do not reach the loop. -/
theorem clampLoop_loop (n k : Nat) (s : State) :
    (((clampLoop n k).run s).fe n).loop = { (s.fe n).loop with clamped := true, d := 0, err := none } := by
  have hbits : (seqs [clrB (F.LOOP_STAT_CVA k), clrB (F.LOOP_STAT_TPR k)]).Within AnyReg AnyByte
      (Dev.view n k FeSt.loop fun _ => ()) := by simp [AnyReg]
  have hcounts (f : DrvSt → DrvSt) : (modDrv k f).Within AnyReg AnyByte (Dev.view n k FeSt.loop fun _ => ()) :=
    within_modCore fun _ => rfl
  have hfe := (hbits.agrees s).fe
  rw [run_seqs_cons, run_seqs_cons, run_seqs_nil] at hfe
  rw [clampLoop, run_seqs_cons, run_seqs_cons, run_seqs_cons, run_seqs_cons, run_seqs_nil, ((hcounts _).agrees _).fe, modLoop_loop,
    hfe]

theorem loadDac_loop (n k g : Nat) (v : Int) (s : State) :
    (((loadDac n k g v).run s).fe n).loop = { (s.fe n).loop with dac := v, load := loadAt g } := by
  have hset : (setZ (F.LOOP_SET_S k) v).Within AnyReg AnyByte (Dev.view n k FeSt.loop fun _ => ()) := by simp [AnyReg]
  rw [loadDac, run_seqs_cons, run_seqs_cons, run_seqs_nil, modLoop_loop, (hset.agrees s).fe]

theorem loopIdle (n k g : Nat) (s : State) : ((clampLoop n k).run ((noSetpoint n k g).run s)).LoopIdle n g := by
  have h := clampLoop_loop n k ((noSetpoint n k g).run s)
  rw [noSetpoint, loadDac_loop] at h
  rw [noSetpoint]
  exact ⟨congrArg LoopSt.dac h, congrArg LoopSt.load h, congrArg LoopSt.clamped h, congrArg LoopSt.d h⟩

/-! The body -/

/-- What vectors have scheduled for after `t` is dropped where core `k` leaves VECTOR mode. -/
def vectorCut (k t : Nat) : Prog :=
  ask fun s => modDrv k fun d => if s.vectorMode k then { (d.cutTrigs t) with edges := d.edges.filter fun e => e.t ≤ t } else d

/-- A core leaves VECTOR mode, where it is in it, and Calm is its mode. -/
def calmMode (k t : Nat) : Prog := seqs [vectorCut k t, setF (F.FMT_MODE_CUR k) 1]

/-- The markers fall, and with them the ENABLE outputs; the AUX pins take their levels. -/
def calmPins (k t : Nat) : Prog := seqs [setMarks k 0 t, enableLow k t, auxEdges k t]

/-- The drive without a request, a cycle or a pulse. -/
def DrvSt.stilled (d : DrvSt) : DrvSt := { d with calm := none, run := 0, dir := 0, pulse := none }

/-- The window in progress takes note, and a channel that is to be parked is parked. -/
def calmNotes (n t : Nat) : Prog :=
  seqs [windowCalm n (t / 256) true,
    on (fun s => s.bit (fun w => R.PWR_PARK w) n) (setB (bitField (fun w => R.PWR_PARKED w) n))]

/-- The entry into Calm but for the report of an overcurrent run. -/
def calmBody (n k t : Nat) : Prog :=
  seqs [calmMode k t, calmPins k t, modDrv k DrvSt.stilled, noSetpoint n k t, clampLoop n k, calmNotes n t]

/-- The run of overcurrent cycles that asked for Calm is reported (R114). -/
def calmReport (n k : Nat) : Prog :=
  ask fun s => when (s.cst k).drv.ocCalm
    (seqs [modDrv k fun d => { d with ocCalm := false }, faultSource n,
      failRecord n 4 (s.cst k).drv.ocStamp 0 0 0 (if (s.cst k).drv.ocHold then 16 else 0)])

theorem run_calmMode (k t : Nat) (s : State) :
    (calmMode k t).run s = (setF (F.FMT_MODE_CUR k) 1).run ((vectorCut k t).run s) := by
  rw [calmMode, run_seqs_cons, run_seqs_cons, run_seqs_nil]

theorem run_calmPins (k t : Nat) (s : State) :
    (calmPins k t).run s = (auxEdges k t).run ((enableLow k t).run ((setMarks k 0 t).run s)) := by
  rw [calmPins, run_seqs_cons, run_seqs_cons, run_seqs_cons, run_seqs_nil]

theorem run_calmNotes (n t : Nat) (s : State) : (calmNotes n t).run s =
    (on (fun s => s.bit (fun w => R.PWR_PARK w) n) (setB (bitField (fun w => R.PWR_PARKED w) n))).run
      ((windowCalm n (t / 256) true).run s) := by
  rw [calmNotes, run_seqs_cons, run_seqs_cons, run_seqs_nil]

theorem run_calmBody (n k t : Nat) (s : State) : (calmBody n k t).run s = (calmNotes n t).run ((clampLoop n k).run
    ((noSetpoint n k t).run ((modDrv k DrvSt.stilled).run ((calmPins k t).run ((calmMode k t).run s))))) := by
  rw [calmBody, run_seqs_cons, run_seqs_cons, run_seqs_cons, run_seqs_cons, run_seqs_cons, run_seqs_cons, run_seqs_nil]

theorem run_enterCalm (n k t : Nat) (s : State) : (enterCalm n k t).run s = (calmReport n k).run ((calmBody n k t).run s) := by
  have hparts : enterCalm n k t = seqs [vectorCut k t, setF (F.FMT_MODE_CUR k) 1, setMarks k 0 t, enableLow k t, auxEdges k t,
    modDrv k DrvSt.stilled, noSetpoint n k t, clampLoop n k, windowCalm n (t / 256) true,
    on (fun s => s.bit (fun w => R.PWR_PARK w) n) (setB (bitField (fun w => R.PWR_PARKED w) n)), calmReport n k] := rfl
  rw [run_calmBody, run_calmNotes, run_calmPins, run_calmMode, hparts, run_seqs_cons, run_seqs_cons, run_seqs_cons, run_seqs_cons,
    run_seqs_cons, run_seqs_cons, run_seqs_cons, run_seqs_cons, run_seqs_cons, run_seqs_cons, run_seqs_cons, run_seqs_nil]

/-- The registers that the body can change. -/
abbrev calmNames : List RegId := [.FMT_MODE, .LOOP_SET, .LOOP_STAT, .PWR_PARKED, .MASK_ORG_HI, .MASK_ORG_LO, .MASK_STATE]

theorem within_calmPins (hQ : Covers Q [.MASK_ORG_LO, .MASK_ORG_HI, .MASK_STATE]) :
    (calmPins k at_).Within Q A (Dev.view m j ψ CoreSt.course) := by
  simp only [calmPins, within_cons, within_nil, within_setMarks hQ, within_enableLow, within_auxEdges, and_self]

theorem within_calmNotes (hQ : Covers Q [.PWR_PARKED]) (h : ∀ x w, ψ { x with window := w } = ψ x) :
    (calmNotes n at_).Within Q A (Dev.view m j ψ φ) := by
  simp only [calmNotes, windowCalm, within_cons, within_nil, within_on, within_setB, and_true]
  exact ⟨within_modFe fun x => h x _, fun _ _ => hQ.reg (by simp [bitField])⟩

theorem within_calmBody (hQ : Covers Q calmNames) : (calmBody n k at_).Within Q A (Dev.view m j FeSt.watch CoreSt.plan) := by
  have hmode : (calmMode k at_).Within Q A (Dev.view m j FeSt.watch CoreSt.plan) := by
    simp only [calmMode, vectorCut, within_cons, within_nil, within_ask, within_setF, and_true]
    refine ⟨fun s => within_modCore fun c => ?_, hQ.reg (by simp)⟩
    dsimp only
    split <;> rfl
  have hpins : (calmPins k at_).Within Q A (Dev.view m j FeSt.watch CoreSt.plan) :=
    (within_calmPins (hQ.sub (by decide))).coarser plan_coarser
  have hstill : (modDrv k DrvSt.stilled).Within Q A (Dev.view m j FeSt.watch CoreSt.plan) := within_modCore fun _ => rfl
  have hdac : (noSetpoint n k at_).Within Q A (Dev.view m j FeSt.watch CoreSt.plan) :=
    within_loadDac (hQ.reg (by simp)) fun _ _ => rfl
  have hclamp : (clampLoop n k).Within Q A (Dev.view m j FeSt.watch CoreSt.plan) :=
    (within_clampLoop (hQ.reg (by simp)) fun _ _ => rfl).coarser plan_coarser
  have hnotes : (calmNotes n at_).Within Q A (Dev.view m j FeSt.watch CoreSt.plan) :=
    within_calmNotes (hQ.sub (by decide)) fun _ _ => rfl
  simp only [calmBody, within_cons, within_nil, hmode, hpins, hstill, hdac, hclamp, hnotes, and_self]

/-- `t` is `s` after core `k` of channel `n` has entered Calm, but for its report. -/
structure CalmEntered (s t : State) (n k at_ : Nat) : Prop where
  cur : t.fld (F.FMT_MODE_CUR k) = 1
  still : (t.cst k).drv.calm = none ∧ (t.cst k).drv.run = 0 ∧ (t.cst k).drv.pulse = none
  gates : s.vectorMode k = false →
    (t.cst k).drv.level 0 = (s.cst k).drv.level 0 ∧ (t.cst k).drv.level 1 = (s.cst k).drv.level 1
  idle : t.LoopIdle n at_

theorem calmBody_spec (n k at_ : Nat) (s : State) : CalmEntered s ((calmBody n k at_).run s) n k at_ := by
  obtain ⟨u, hu⟩ : ∃ u, (calmMode k at_).run s = u := ⟨_, rfl⟩
  obtain ⟨v, hv⟩ : ∃ v, (calmPins k at_).run u = v := ⟨_, rfl⟩
  obtain ⟨w, hw⟩ : ∃ w, (clampLoop n k).run ((noSetpoint n k at_).run ((modDrv k DrvSt.stilled).run v)) = w := ⟨_, rfl⟩
  have hrun : (calmBody n k at_).run s = (calmNotes n at_).run w := by
    rw [run_calmBody, hu, hv, hw]
  -- The mode is set at first, and stays.
  have hpins : u.Agrees v (fun r => r.id ∈ calmNames.tail) (fun _ => False) (Dev.view n k FeSt.watch CoreSt.course) :=
    hv ▸ (within_calmPins ((covers_self calmNames.tail).sub (by decide))).agrees u
  have hdac : (noSetpoint n k at_).Within (fun r => r.id ∈ calmNames.tail) (fun _ => False)
      (Dev.view n k FeSt.watch CoreSt.course) := within_loadDac (by simp) fun _ _ => rfl
  have hclamp : (clampLoop n k).Within (fun r => r.id ∈ calmNames.tail) (fun _ => False)
      (Dev.view n k FeSt.watch CoreSt.course) := within_clampLoop (by simp) fun _ _ => rfl
  have hloop : ((modDrv k DrvSt.stilled).run v).Agrees w (fun r => r.id ∈ calmNames.tail) (fun _ => False)
      (Dev.view n k FeSt.watch CoreSt.course) := hw ▸ (hdac.agrees _).trans (hclamp.agrees _)
  have hnotes : (calmNotes n at_).Within (fun r => r.id ∈ calmNames.tail) (fun _ => False)
      (Dev.view n k FeSt.loop CoreSt.course) := within_calmNotes ((covers_self calmNames.tail).sub (by decide)) fun _ _ => rfl
  have hlast := hnotes.agrees w
  have hcourse : (((calmBody n k at_).run s).cst k).course = (((modDrv k DrvSt.stilled).run v).cst k).course :=
    hrun ▸ hlast.cst.trans hloop.cst
  have hdrv : (((modDrv k DrvSt.stilled).run v).cst k).drv = (v.cst k).drv.stilled := modDrv_drv _
  have hbare := congrArg (fun x => x.1) hcourse
  refine ⟨?cur, ⟨?_, ?_, ?_⟩, fun hmode => ?gates, ?idle⟩
  case cur =>
    rw [hrun, hlast.fld (by simp), hloop.fld (by simp)]
    exact (hpins.fld (by simp)).trans (hu ▸ State.fld_setFld _ _ _ (fmtModeCur_ok k))
  case gates =>
    have hsame : (u.cst k).drv = (s.cst k).drv := by
      rw [← hu]
      rw [run_calmMode, vectorCut, run_ask, hmode]
      exact modDrv_drv _
    have hlevel0 := (congrArg (·.2.1.1) hcourse).trans ((congrArg (DrvSt.level · 0) hdrv).trans (congrArg (·.2.1.1) hpins.cst))
    have hlevel1 := (congrArg (·.2.1.2) hcourse).trans ((congrArg (DrvSt.level · 1) hdrv).trans (congrArg (·.2.1.2) hpins.cst))
    exact ⟨hlevel0.trans (congrArg (DrvSt.level · 0) hsame), hlevel1.trans (congrArg (DrvSt.level · 1) hsame)⟩
  case idle => exact hrun ▸ (hw ▸ loopIdle n k at_ _ : w.LoopIdle n at_).of_agrees hlast
  · exact (congrArg DrvSt.calm hbare).trans (congrArg DrvSt.calm hdrv)
  · exact (congrArg DrvSt.run hbare).trans (congrArg DrvSt.run hdrv)
  · exact (congrArg DrvSt.pulse hbare).trans (congrArg DrvSt.pulse hdrv)

end

end Sys2Proof.Machine

/-! Overvoltage (R115, R116, R151, R156): a trip drives the gates low and brings the channel into Calm. -/
namespace Sys2Proof.Machine

section
variable {α β : Type} {ψ : FeSt → β} {φ : CoreSt → α} {Q : RegKey → Prop} {A : Nat → Prop} {n k m j : Nat} {s t : State}

/-- A trip asks for Calm, and is offered to the capture. -/
def tripAsks (n k stamp : Nat) (s : State) : Prog :=
  seqs [when (s.leads k) (offerTrigger k 23 39 stamp), calmRequest n,
    modDrv k fun d => { d with tripCalm := some (stamp / 256) }]

/-- The pulse in progress has its selection sample taken, and the gates fall at the pads. -/
def gatesFall (n k pad : Nat) (a : Analog) (s : State) : Prog :=
  seqs [match (s.cst k).drv.pulse with
    | some p => selectionSample n (min pad p.tmax) a
    | none => .done,
    gatesLow k pad, modDrv k fun d => { d with ovLow := true, frozeAct := false }]

theorem run_ovTrip {stamp pad : Nat} {a : Analog} (hk : s.core n = k) (hv : s.vectorMode k = false) (hc : s.calm n = false) :
    (ovTrip n stamp pad a).run s = (enterCalm n k pad).run ((gatesFall n k pad a s).run ((advance (pad / 256)).run
      ((tripAsks n k stamp s).run ((failRecord n 3 stamp 0 0 0 (if s.holdover then 16 else 0)).run
        ((faultSource n).run (s.setFld (F.FMT_STAT_OV k) 1)))))) := by
  rw [ovTrip, run_ask]
  dsimp only
  rw [hk, hv, if_neg (by decide)]
  simp only [run_seqs_cons, run_seqs_nil, run_when, hc, tripAsks, gatesFall, run_setB]
  rfl

theorem within_tripAsks {stamp : Nat} (hQ : Covers Q [.SEQ_STATE]) :
    (tripAsks n k stamp s).Within Q A (Dev.view m j ψ fun c => c.drv.ocCalm) := by
  have hcalm : (calmRequest n).Within Q A (Dev.view m j ψ fun c => c.drv.ocCalm) :=
    within_calmRequest hQ (fun _ _ _ _ => rfl) fun _ _ => rfl
  simp [tripAsks, hcalm, modDrv]

/-- The gates are low, and the count of an overcurrent run is as it was. -/
theorem gatesFall_spec {pad : Nat} {a : Analog} {u : State} (hk : s.core n = k) (hQ : Q (R.LOOP_SET k)) :
    s.Agrees ((gatesFall n k pad a u).run s) Q A (Dev.view n k (fun _ => ()) fun c => c.drv.ocCalm) ∧
      (((gatesFall n k pad a u).run s).cst k).drv.level 0 = 0 ∧ (((gatesFall n k pad a u).run s).cst k).drv.level 1 = 0 := by
  obtain ⟨v, hv⟩ : ∃ v, (match (u.cst k).drv.pulse with
    | some p => selectionSample n (min pad p.tmax) a
    | none => Prog.done).run s = v := ⟨_, rfl⟩
  have hsample : s.Agrees v Q A (Dev.view n k (fun _ => ()) fun c => c.drv.ocCalm) := by
    rw [← hv]
    split
    · exact (agrees_selectionSample (hk ▸ hQ) fun _ _ => rfl).coarser
        (view_coarser (fun _ _ h => h) fun _ _ h => congrArg (fun x => x.1.ocCalm) h)
    · exact State.Agrees.refl s
  have hrun : (gatesFall n k pad a u).run s = (modDrv k fun d => { d with ovLow := true, frozeAct := false }).run
      ((gatesLow k pad).run v) := by
    simp only [gatesFall, run_seqs_cons, run_seqs_nil]
    rw [← hv]
  have hlow : (gatesLow k pad).Within Q A (Dev.view n k (fun _ => ()) fun c => c.drv.ocCalm) := by
    refine within_modCore fun c => ?_
    obtain ⟨e0, h0⟩ := (c.drv.dropGates pad).put_edges pad 0 0
    obtain ⟨e1, h1⟩ := ((c.drv.dropGates pad).put pad 0 0).put_edges pad 1 0
    dsimp only
    rw [h1, h0]
    rfl
  have hlast : (modDrv k fun d => { d with ovLow := true, frozeAct := false }).Within Q A
      (Dev.view n k (fun _ => ()) fun c => c.drv.ocCalm) := within_modCore fun _ => rfl
  have hdrv : (((gatesFall n k pad a u).run s).cst k).drv =
      { ((((v.cst k).drv.dropGates pad).put pad 0 0).put pad 1 0) with ovLow := true, frozeAct := false } := by
    rw [hrun, modDrv_drv, gatesLow, modDrv_drv]
  refine ⟨hrun ▸ hsample.trans ((hlow.agrees v).trans (hlast.agrees _)), ?_, ?_⟩
  · rw [hdrv]
    exact (DrvSt.level_put_other _ _ _ _ _ (by decide)).trans (DrvSt.level_put_same ..)
  · rw [hdrv]
    exact DrvSt.level_put_same ..

/-- The registers that a trip can change. -/
abbrev ovNames : List RegId := [.FMT_MODE, .FMT_STAT, .FAIL_STAT, .FAIL_RDROP, .LOOP_SET, .LOOP_STAT, .PWR_PARKED, .RING_STAT,
  .SEQ_STATE, .MASK_ORG_HI, .MASK_ORG_LO, .MASK_STATE, .MEM_ECCCNT, .MEM_ECCA_LO, .MEM_ECCA_HI, .PWR_LOST, .IRQ_PEND, .IRQ_CNT]

/-- `t` is `s` after an overvoltage trip of channel `n` on core `k`. -/
structure OvervoltageTripped (s t : State) (n k : Nat) : Prop where
  flag : t.fld (F.FMT_STAT_OV k) = 1
  calm : t.calm n = true
  gates : (t.cst k).drv.level 0 = 0 ∧ (t.cst k).drv.level 1 = 0
  loop : (t.fe n).loop.clamped = true ∧ (t.fe n).loop.d = 0
  raised : s.Raised t (n + 1) = true
  count : t.failCount n = min (s.failCount n + 1) (2 ^ 32 - 1)
  regs : s.KeepsRegs t ovNames
  bytes : s.KeepsBytesOff t [(failBase k, 0x20000), (chBlock n, 64), (padBase, 0x1001000)]

theorem fmtStatOv_ok (k : Nat) : (F.FMT_STAT_OV k).ok = true := (by decide +kernel : (F.FMT_STAT_OV 0).ok = true)

/-- The registers that the Calm request of a trip and the fall of its gates can change. -/
abbrev ovFallNames : List RegId := [.SEQ_STATE, .LOOP_SET]

/-- The registers that a trip can change once its record is written. -/
abbrev ovCalmNames : List RegId := .SEQ_STATE :: calmNames

/-- Once a trip's record is written, the gates fall and the channel enters Calm. -/
theorem ovCalm_spec {stamp pad : Nat} {a : Analog} {u : State} (hk : s.core n = k) (hv : s.vectorMode k = false)
    (hoc : (s.cst k).drv.ocCalm = false) :
    let t := (enterCalm n k pad).run ((gatesFall n k pad a u).run ((advance (pad / 256)).run ((tripAsks n k stamp u).run s)))
    (∀ r, r.id ∉ ovCalmNames → t.reg r = s.reg r) ∧ s.KeepsBytes t ∧ t.fld (F.FMT_MODE_CUR k) = 1 ∧
      ((t.cst k).drv.level 0 = 0 ∧ (t.cst k).drv.level 1 = 0) ∧ ((t.fe n).loop.clamped = true ∧ (t.fe n).loop.d = 0) := by
  intro t
  have hasks := (within_tripAsks (n := n) (k := k) (stamp := stamp) (s := u) (Q := fun r => r.id ∈ ovFallNames)
    (A := fun _ => False) (m := n) (j := k) (ψ := fun _ => ()) ((covers_self ovFallNames).sub (by decide))).agrees s
  obtain ⟨v, hv'⟩ : ∃ v, (advance (pad / 256)).run ((tripAsks n k stamp u).run s) = v := ⟨_, rfl⟩
  have hregs : v.regs = ((tripAsks n k stamp u).run s).regs := hv' ▸ rfl
  have hcores : v.cst k = ((tripAsks n k stamp u).run s).cst k := hv' ▸ rfl
  have hbytes : ((tripAsks n k stamp u).run s).KeepsBytes v := fun _ => hv' ▸ rfl
  obtain ⟨hfall, hlevel0, hlevel1⟩ := gatesFall_spec (s := v) (u := u) (n := n) (k := k) (pad := pad) (a := a)
    (Q := fun r => r.id ∈ ovFallNames) (A := fun _ => False)
    (((State.fld_congr hregs _).trans (hasks.fld (by simp))).trans hk) (by simp)
  obtain ⟨w, hw⟩ : ∃ w, (gatesFall n k pad a u).run v = w := ⟨_, rfl⟩
  rw [hw] at hfall hlevel0 hlevel1
  have hspec := calmBody_spec n k pad w
  have hbody := (within_calmBody (n := n) (k := k) (at_ := pad) (Q := fun r => r.id ∈ ovCalmNames) (A := fun _ => False) (m := n)
    (j := k) ((covers_self ovCalmNames).sub (by decide))).agrees w
  -- No run of overcurrent cycles has asked for Calm.
  have hocw : (((calmBody n k pad).run w).cst k).drv.ocCalm = false :=
    (congrArg (·.2.2.2.2) hbody.cst).trans (hfall.cst.trans ((congrArg (fun c => c.drv.ocCalm) hcores).trans
      (hasks.cst.trans hoc)))
  have ht : t = (calmBody n k pad).run w := by
    simp only [t, hv', hw]
    rw [run_enterCalm, calmReport, run_ask, hocw]
    rfl
  -- VECTOR mode is not entered in between.
  have hmode : w.vectorMode k = false := by
    rwa [State.vectorMode, hfall.fld (by simp), State.fld_congr hregs, hasks.fld (by simp)]
  obtain ⟨hg0, hg1⟩ := hspec.gates hmode
  rw [ht]
  refine ⟨fun r hr => ?_, fun x => ?_, hspec.cur, ⟨hg0.trans hlevel0, hg1.trans hlevel1⟩, hspec.idle.clamped, hspec.idle.d⟩
  · have hr' : r.id ∉ ovFallNames := fun h => hr ((by decide : ovFallNames ⊆ ovCalmNames) h)
    rw [hbody.reg r hr, hfall.reg r hr', State.reg_congr hregs, hasks.reg r hr']
  · rw [hbody.byte x id, hfall.byte x id, hbytes x, hasks.byte x id]

/-- What is raised does not reach the words in error. -/
theorem raise_ecc (i : Nat) (s : State) : ((raise i).run s).dev.bus.ecc = s.dev.bus.ecc := by
  have h : (raise i).Within AnyReg AnyByte fun d => d.bus.ecc := by
    simp only [raise, event, timerSet, makePending, within_ask]
    intro s
    split
    · exact within_done
    split
    · exact within_when.2 fun _ => within_dev fun _ => rfl
    · simp only [within_ask, within_cons, within_nil, within_setF, within_setB, within_when, within_dev, implies_true, and_self]
  exact (h.agrees s).view

/-- The registers that a trip can change until its record is written. -/
abbrev ovToldNames : List RegId := [.FMT_STAT, .FAIL_STAT, .MEM_ECCCNT, .MEM_ECCA_LO, .MEM_ECCA_HI, .IRQ_PEND, .IRQ_CNT]

/-- `t` is `s` once the record of an overvoltage trip of channel `n` on core `k` is written. -/
structure OvervoltageTold (s t : State) (n k : Nat) : Prop where
  flag : t.fld (F.FMT_STAT_OV k) = 1
  raised : s.Raised t (n + 1) = true
  count : t.failCount n = min (s.failCount n + 1) (2 ^ 32 - 1)
  agrees : s.Agrees t (fun r => r.id ∈ ovToldNames)
    (fun x => (chBlock n ≤ x ∧ x < chBlock n + 64) ∨ (failBase k ≤ x ∧ x < failBase k + 0x20000)) (Dev.drives n k)

/-- With the fail count readable and no FAIL ring, a trip sets `OV`, tells its channel's fault source and is recorded. -/
theorem ovTrip_told {stamp flags : Nat} (hn : n < 64) (hk : s.core n = k) (hwf : Memory.wf s.losses s.mem = true)
    (hgood : s.badWord (chBlock n + 40) 8 = false) (hring : s.flg (F.FAIL_CFG_RING k) = false) :
    OvervoltageTold s ((failRecord n 3 stamp 0 0 0 flags).run ((faultSource n).run (s.setFld (F.FMT_STAT_OV k) 1))) n k := by
  obtain ⟨u, hu⟩ : ∃ u, (faultSource n).run (s.setFld (F.FMT_STAT_OV k) 1) = u := ⟨_, rfl⟩
  have hset : (setB (F.FMT_STAT_OV k)).Within (fun r => r.id ∈ [RegId.FMT_STAT, .IRQ_PEND, .IRQ_CNT]) (fun _ => False)
      (Dev.drives n k) := within_setB.2 (by simp)
  have hraise : (faultSource n).Within (fun r => r.id ∈ [RegId.IRQ_PEND, .IRQ_CNT]) (fun _ => False) (Dev.drives n k) :=
    within_raise_of (covers_self _)
  have hsu : s.Agrees u (fun r => r.id ∈ [RegId.FMT_STAT, .IRQ_PEND, .IRQ_CNT]) (fun _ => False) (Dev.drives n k) :=
    hu ▸ (hset.agrees s).trans ((hraise.agrees _).mono (fun r h => by simp at h ⊢; tauto) fun _ h => h)
  have hraised : s.Raised u (n + 1) = true :=
    hu ▸ raised_raise (by omega) (by omega) (by simp [sourceLevel]; omega) rfl (State.fld_setFld_reg _ _ _ _ (by simp [cntField]))
  have hecc : u.dev.bus.ecc = s.dev.bus.ecc := hu ▸ raise_ecc _ _
  -- The record changes neither the counter of the fault source nor the flag.
  obtain ⟨huv, hcount⟩ := failRecord_plain (s := u) (n := n) (k := k) (m := n) (j := k) (typ := 3) (t := stamp) (info := 0)
    (value := 0) (excess := 0) (flags := flags)
    (Q := fun r => r.id ∈ [RegId.MEM_ECCCNT, .MEM_ECCA_LO, .MEM_ECCA_HI, .IRQ_PEND, .FAIL_STAT] ∨ r = R.IRQ_CNT 60 ∨
      r = (cntField (n + 65)).reg)
    (A := fun x => (chBlock n ≤ x ∧ x < chBlock n + 64) ∨ (failBase k ≤ x ∧ x < failBase k + 0x20000))
    ((hsu.fld (by simp)).trans hk) (hu ▸ run_wf _ _ hwf) (by rwa [State.badWord, hecc]) (by rwa [State.flg, hsu.fld (by simp)])
    (fun _ h => h) ⟨fun r hr => .inl (by simp at hr ⊢; tauto), .inr (.inl rfl)⟩ (.inl (by simp)) (.inr (.inr rfl))
  rw [hu]
  refine ⟨?_, raised_between hraised rfl rfl (huv.fld ?_), ?_, ?_⟩
  · exact (huv.fld (by simp [cntField])).trans
      (hu ▸ ((hraise.agrees _).fld (by simp)).trans (State.fld_setFld _ _ _ (fmtStatOv_ok k)))
  · simp [cntField]
    omega
  · rw [hcount, show u.failCount n = s.failCount n from State.num_congr fun _ _ => hsu.byte _ id]
  · refine (hsu.mono (fun r h => (by decide : [RegId.FMT_STAT, .IRQ_PEND, .IRQ_CNT] ⊆ ovToldNames) h) fun _ h => h.elim).trans
      (huv.mono (fun r h => ?_) fun _ h => h)
    rcases h with h | rfl | rfl
    · exact (by decide : [RegId.MEM_ECCCNT, .MEM_ECCA_LO, .MEM_ECCA_HI, .IRQ_PEND, .FAIL_STAT] ⊆ ovToldNames) h
    · simp
    · simp [cntField]

/-- A trip outside VECTOR and Calm, with the fail count readable and no FAIL ring, sets `OV`, tells its channel's fault source, is
recorded and brings the channel into Calm. -/
theorem ovTrip_trips {stamp pad : Nat} {a : Analog} (hn : n < 64) (hk : s.core n = k) (hv : s.vectorMode k = false)
    (hc : s.calm n = false) (hoc : (s.cst k).drv.ocCalm = false) (hwf : Memory.wf s.losses s.mem = true)
    (hgood : s.badWord (chBlock n + 40) 8 = false) (hring : s.flg (F.FAIL_CFG_RING k) = false) :
    OvervoltageTripped s ((ovTrip n stamp pad a).run s) n k := by
  have htold := ovTrip_told (stamp := stamp) (flags := if s.holdover then 16 else 0) hn hk hwf hgood hring
  rw [run_ovTrip hk hv hc]
  generalize (failRecord n 3 stamp 0 0 0 (if s.holdover then 16 else 0)).run
    ((faultSource n).run (s.setFld (F.FMT_STAT_OV k) 1)) = v at htold ⊢
  obtain ⟨hflag, hraised, hcount, hsv⟩ := htold
  have hcore : v.core n = k := (hsv.fld (by simp)).trans hk
  have hmode : v.vectorMode k = false := by rwa [State.vectorMode, hsv.fld (by simp)]
  obtain ⟨hregs, hbytes, hcur, hgates, hloop⟩ := ovCalm_spec (u := s) (stamp := stamp) (pad := pad) (a := a) hcore hmode
    ((congrArg DrvSt.ocCalm hsv.drv).trans hoc)
  generalize (enterCalm n k pad).run ((gatesFall n k pad a s).run ((advance (pad / 256)).run ((tripAsks n k stamp s).run v))) = t
    at hregs hbytes hcur hgates hloop ⊢
  have hfld {f : Field} (hf : f.reg.id ∉ ovCalmNames) : t.fld f = v.fld f := by rw [State.fld, hregs _ hf, State.fld]
  have htcore : t.core n = k := (hfld (by simp)).trans hcore
  refine ⟨(hfld (by simp)).trans hflag, ?_, hgates, hloop, raised_between hraised rfl rfl (hfld (by simp)), ?_, fun r hr => ?_,
    fun x hx => ?_⟩
  · rw [State.calm, htcore, hcur]
    rfl
  · rw [← hcount]
    exact State.num_congr fun _ _ => hbytes _
  · exact (hregs r fun h => hr ((by decide : ovCalmNames ⊆ ovNames) h)).trans
      (hsv.reg r fun h => hr ((by decide : ovToldNames ⊆ ovNames) h))
  · refine (hbytes x).trans (hsv.byte x fun h => ?_)
    rcases h with h | h
    · have := hx (chBlock n, 64) (by simp)
      omega
    · have := hx (failBase k, 0x20000) (by simp)
      omega

end

end Sys2Proof.Machine

/-! The commands of the comparators and of TMAX (R93, R113, R115, R116, R158). -/
namespace Sys2Proof.Machine

section
variable {n : Nat} {s : State} {q : Pulse} {a : Analog}

/-! Pulses -/

/-- The integrator is followed in its front end alone. -/
theorem within_followLoop_fe (x : Nat) : (followLoop n x a).Within (fun _ => False) (fun _ => False) fun d => (d.lt, d.cores) := by
  simp only [followLoop, within_on, within_ask]
  exact fun _ _ _ => within_dev fun _ => rfl

/-- A crossing in time ends the pulse where the comparator sees its input at REF. -/
theorem run_peakCrossing {c : Nat} (hq : (s.cst (s.core n)).drv.pulse = some q)
    (ht : q.minEnd ≤ s.lineTime c ∧ s.lineTime c + a.delay ≤ q.tmax) : (progPeakCrossing n c a).run s =
      if s.seesCrossing n (s.lineTime c) q.fwd a then
        (endPulse (s.core n) (s.lineTime c + a.delay)).run ((selectionSample n (s.lineTime c + a.delay) a).run
          ((advance ((s.lineTime c + a.delay) / 256)).run ((followLoop n (s.lineTime c) a).run s)))
      else (followLoop n (s.lineTime c) a).run s := by
  rw [progPeakCrossing, run_ask]
  dsimp only
  rw [hq]
  dsimp only
  rw [run_when, if_pos (by simpa using ht), run_seqs_cons, run_seqs_cons, run_seqs_nil, run_on, run_seqs_cons, run_seqs_cons,
    run_seqs_cons, run_seqs_nil]
  rfl

/-- A crossing at another time, or with no pulse, does nothing. -/
theorem run_peakCrossing_untimely {c : Nat}
    (h : (s.cst (s.core n)).drv.pulse.all (fun q => s.lineTime c < q.minEnd || q.tmax < s.lineTime c + a.delay) = true) :
    (progPeakCrossing n c a).run s = s := by
  rw [progPeakCrossing, run_ask]
  dsimp only
  split
  · rfl
  · rename_i p hp
    rw [hp] at h
    have : ¬(p.minEnd ≤ s.lineTime c ∧ s.lineTime c + a.delay ≤ p.tmax) := by
      simp only [Option.all_some, Bool.or_eq_true, decide_eq_true_eq] at h
      omega
    rw [run_when, if_neg (by simpa using this)]

theorem fmtCntADlim_ok (k : Nat) : (F.FMT_CNT_A_DLIM k).ok = true := (by decide +kernel : (F.FMT_CNT_A_DLIM 0).ok = true)

theorem run_pulseTmax (hq : (s.cst (s.core n)).drv.pulse = some q) : (progPulseTmax n a).run s =
    (count (F.FMT_CNT_A_DLIM (s.core n))).run ((endPulse (s.core n) q.tmax).run ((selectionSample n q.tmax a).run
      ((advance (q.tmax / 256)).run s))) := by
  rw [progPulseTmax, run_ask]
  dsimp only
  rw [hq]
  simp only [run_seqs_cons, run_seqs_nil]

/-! Excursions -/

/-- The excursion at the overcurrent comparator is seen from its beginning on. -/
def State.ocSeen (s : State) (n : Nat) (x : Excursion) : State :=
  (seqs [advance (x.start / 256), modFe n fun f => { f with oc := some x }]).run s

/-- The excursion at the overvoltage comparator is seen from its beginning on. -/
def State.ovSeen (s : State) (n : Nat) (x : Excursion) : State :=
  (seqs [advance (x.start / 256), modFe n fun f => { f with ov := some x }]).run s

theorem ocSeen_oc (x : Excursion) : ((s.ocSeen n x).fe n).oc = some x := by simp [State.ocSeen, modFe, State.fe]

theorem ovSeen_ov (x : Excursion) : ((s.ovSeen n x).fe n).ov = some x := by simp [State.ovSeen, modFe, State.fe]

/-- An excursion that lies beyond a threshold, for the filter time, before the next boundary. -/
def State.ocTrips (s : State) (n : Nat) (x : Excursion) (lasts : Nat) : Bool :=
  s.beyondOc n x && s.ocFilter n ≤ lasts && s.beforeNext (s.core n) (x.start + s.ocFilter n)

def State.ovTrips (s : State) (n : Nat) (x : Excursion) (lasts : Nat) : Bool :=
  s.beyondOv n x && s.ovFilter n ≤ lasts && s.beforeNext (s.core n) (x.start + s.ovFilter n)

theorem run_overcurrentTrip {raw lasts : Nat} {x : Excursion}
    (hx : x = ⟨s.lineTime raw, s.lineTime raw + lasts, a.shunt, a.vref, a.delay, s.stampTime raw⟩) :
    (progOvercurrentTrip n raw lasts a).run s =
      if s.ocTrips n x lasts then (ocTrip n (s.core n) (x.start + s.ocFilter n) x a).run (s.ocSeen n x) else s.ocSeen n x := by
  subst hx
  rw [progOvercurrentTrip, run_ask]
  dsimp only
  rw [run_seqs_cons, run_seqs_cons, run_seqs_cons, run_seqs_nil, run_when]
  rfl

theorem run_overvoltageTrip {raw lasts : Nat} {x : Excursion}
    (hx : x = ⟨s.lineTime raw, s.lineTime raw + lasts, a.cell, a.vref, a.delay, s.stampTime raw⟩) :
    (progOvervoltageTrip n raw lasts a).run s =
      if s.ovTrips n x lasts then (ovTrip n x.stamp (x.start + s.ovFilter n + a.delay) a).run
        ((advance ((x.start + s.ovFilter n) / 256)).run (s.ovSeen n x)) else s.ovSeen n x := by
  subst hx
  rw [progOvervoltageTrip, run_ask]
  dsimp only
  rw [run_seqs_cons, run_seqs_cons, run_seqs_cons, run_seqs_nil, run_when, run_seqs_cons, run_seqs_cons, run_seqs_nil]
  rfl

/-- In VECTOR mode a trip sets the flag alone (R116). -/
theorem run_ovTrip_vector {k stamp pad : Nat} (hk : s.core n = k) (hv : s.vectorMode k = true) :
    (ovTrip n stamp pad a).run s = s.setFld (F.FMT_STAT_OV k) 1 := by
  rw [ovTrip, run_ask]
  dsimp only
  rw [hk, hv, if_pos rfl, run_setB]

theorem State.calm_congr {t : State} (hcore : t.core n = s.core n)
    (hcur : t.fld (F.FMT_MODE_CUR (s.core n)) = s.fld (F.FMT_MODE_CUR (s.core n))) : t.calm n = s.calm n := by rw [State.calm, hcore, hcur, State.calm]

/-- An excursion within the thresholds, too short, or whose filter time ends after the next boundary does not trip. -/
theorem ocTrips_not {x : Excursion} {lasts : Nat} (h : s.beyondOc n x = false ∨ lasts < s.ocFilter n ∨
    s.beforeNext (s.core n) (x.start + s.ocFilter n) = false) : s.ocTrips n x lasts = false := by
  rcases h with h | h | h
  · simp [State.ocTrips, h]
  · simp [State.ocTrips, h]
  · simp [State.ocTrips, h]

theorem ovTrips_not {x : Excursion} {lasts : Nat} (h : s.beyondOv n x = false ∨ lasts < s.ovFilter n ∨
    s.beforeNext (s.core n) (x.start + s.ovFilter n) = false) : s.ovTrips n x lasts = false := by
  rcases h with h | h | h
  · simp [State.ovTrips, h]
  · simp [State.ovTrips, h]
  · simp [State.ovTrips, h]

end

/-- Settles O23: a pulse ends with its selection sample, a trip by what it counts, records and drives low. -/
theorem pulsesEndAtTheirLimits : Obligations.PulsesEndAtTheirLimits := by
  unfold Obligations.PulsesEndAtTheirLimits
  refine ⟨?crosses, ?below, ?untimely, ?tmax, ?oc, ?ocNot, ?ov, ?ovVector, ?ovNot⟩
  case crosses =>
    intro s n c a q ha hq hmin hmax hsees
    refine completes_awake (p := progPeakCrossing n c a) rfl ha ?_
    rw [run_peakCrossing hq ⟨hmin, hmax⟩, if_pos hsees]
    obtain ⟨u, hu⟩ : ∃ u, (followLoop n (s.lineTime c) a).run s = u := ⟨_, rfl⟩
    have hfollow := within_followLoop_fe (n := n) (a := a) (s.lineTime c)
    have hregs : u.regs = s.regs := hu ▸ only_regs hfollow.only s
    have hview := hu ▸ (hfollow.agrees s).view
    have hcst : u.cst (s.core n) = s.cst (s.core n) := congrArg (fun d => d.2.get {} (s.core n)) hview
    have hlt : u.dev.lt = s.dev.lt := congrArg Prod.fst hview
    have hend := pulse_ended (s := (advance ((s.lineTime c + a.delay) / 256)).run u) (n := n) (k := s.core n) (q := q)
      (State.fld_congr hregs _) ((congrArg (fun c => c.drv.pulse) hcst).trans hq) (s.lineTime c + a.delay) a
    rw [hu]
    refine ⟨hend.pulse, hend.control, hend.other, hend.sel, hend.now.trans ?_, fun r hr hr' => ?_, fun y => ?_⟩
    · exact congrArg (fun l => max l.cyc ((s.lineTime c + a.delay) / 256 % 2 ^ 64)) hlt
    · exact (hend.regs r hr hr').trans (State.reg_congr hregs r)
    · exact (hend.bytes y).trans (hu ▸ (hfollow.agrees s).byte y id)
  case below =>
    intro s n c a q ha hq hsees
    refine completes_awake (p := progPeakCrossing n c a) rfl ha ?_
    have hfollow := within_followLoop_fe (n := n) (a := a) (s.lineTime c)
    by_cases ht : q.minEnd ≤ s.lineTime c ∧ s.lineTime c + a.delay ≤ q.tmax
    · rw [run_peakCrossing hq ht, if_neg (by simp [hsees])]
      have hview := (hfollow.agrees s).view
      exact ⟨congrArg Prod.snd hview, congrArg (fun d => d.1.cyc) hview, only_regs hfollow.only s, (hfollow.agrees s).keepsBytes⟩
    · rw [run_peakCrossing_untimely (by rw [hq]; simp; omega)]
      exact ⟨rfl, rfl, rfl, fun _ => rfl⟩
  case untimely =>
    intro s n c a ha h
    exact completes_awake (p := progPeakCrossing n c a) rfl ha (run_peakCrossing_untimely h)
  case tmax =>
    intro s n a q ha hq
    refine completes_awake (p := progPulseTmax n ⟨a.vref, a.shunt, a.cell, 0⟩) rfl ha ?_
    rw [run_pulseTmax hq]
    have hend := pulse_ended (s := (advance (q.tmax / 256)).run s) (n := n) (k := s.core n) (q := q) rfl hq q.tmax
      ⟨a.vref, a.shunt, a.cell, 0⟩
    generalize (endPulse (s.core n) q.tmax).run ((selectionSample n q.tmax ⟨a.vref, a.shunt, a.cell, 0⟩).run
      ((advance (q.tmax / 256)).run s)) = u at hend ⊢
    -- The count of the duty limit reaches neither the drive nor the reference.
    let Q : RegKey → Prop := fun r => r.id = .FMT_CNT_A ∧ r.u = s.core n
    have hcount : u.Agrees ((count (F.FMT_CNT_A_DLIM (s.core n))).run u) Q (fun _ => False) Dev.analog :=
      (within_count.2 ⟨rfl, rfl⟩).agrees u
    refine ⟨hend.pulse, hend.control, hend.other, ?_, ?_, hend.now, fun r hr _ => ?_, fun y => ?_⟩
    · rw [hcount.demand (fun i h => by simp [Q] at h), hcount.setpointMag (fun h => by simp [Q] at h),
        hcount.fld (fun h => by simp [Q] at h), hend.sel]
    · have hkept : u.fld (F.FMT_CNT_A_DLIM (s.core n)) = s.fld (F.FMT_CNT_A_DLIM (s.core n)) := by
        rw [State.fld, hend.regs _ (by simp) (by simp)]
        rfl
      rw [run_count, State.fld_setFld _ _ _ (fmtCntADlim_ok _), hkept]
      exact Nat.mod_eq_of_lt (satInc_lt 16 _)
    · exact (hcount.reg r fun h => hr ⟨by simp [h.1], h.2⟩).trans
        (hend.regs r (fun h => hr ⟨by simp at h; simp [h.1], h.2⟩) (by simp))
    · exact (hcount.byte y id).trans (hend.bytes y)
  case oc =>
    intro s n x lasts a q ha hv hq hbeyond hfilter hpad hnext
    refine completes_awake (p := progOvercurrentTrip n x lasts a) rfl ha ?_
    rw [run_overcurrentTrip rfl, if_pos (by simp [State.ocTrips, hbeyond, hfilter, hnext])]
    have hend := ocTrip_ends (s := s.ocSeen n ⟨s.lineTime x, s.lineTime x + lasts, a.shunt, a.vref, a.delay, s.stampTime x⟩)
      (n := n) (k := s.core n) (q := q) (trip := s.lineTime x + s.ocFilter n)
      (x := ⟨s.lineTime x, s.lineTime x + lasts, a.shunt, a.vref, a.delay, s.stampTime x⟩) (a := a) rfl hv hq hpad
    exact ⟨hend.pulse, hend.control, hend.flag, hend.counted, hend.regs, hend.bytes⟩
  case ocNot =>
    intro s n x lasts a ha h
    refine completes_awake (p := progOvercurrentTrip n x lasts a) rfl ha ?_
    rw [run_overcurrentTrip rfl, ocTrips_not h]
    exact ⟨rfl, ocSeen_oc _, rfl, fun _ => rfl⟩
  case ov =>
    intro s n x lasts a ha hwf hgood hv hc hoc hring hbeyond hfilter hnext
    refine completes_awake (p := progOvervoltageTrip n x lasts a) rfl ha ?_
    rw [run_overvoltageTrip rfl, if_pos (by simp [State.ovTrips, hbeyond, hfilter, hnext])]
    obtain ⟨u, hu⟩ : ∃ u, (advance ((s.lineTime x + s.ovFilter n) / 256)).run (s.ovSeen n
      ⟨s.lineTime x, s.lineTime x + lasts, a.cell, a.vref, a.delay, s.stampTime x⟩) = u := ⟨_, rfl⟩
    have hregs : u.regs = s.regs := hu ▸ rfl
    have htrip := ovTrip_trips (s := u) (n := n) (k := s.core n) (stamp := s.stampTime x)
      (pad := s.lineTime x + s.ovFilter n + a.delay) (a := a) n.2 (State.fld_congr hregs _)
      (by rwa [State.vectorMode, State.fld_congr hregs])
      (by rwa [State.calm, State.core, State.fld_congr hregs, State.fld_congr hregs])
      (hu ▸ hoc) (hu ▸ hwf) (hu ▸ hgood) (by rwa [State.flg, State.fld_congr hregs])
    rw [hu]
    refine ⟨htrip.flag, htrip.calm, htrip.gates.1, htrip.gates.2, htrip.loop.1, htrip.loop.2,
      raised_between htrip.raised (hu ▸ rfl) (State.fld_congr hregs _).symm rfl, htrip.count.trans (hu ▸ rfl), fun r hr => ?_,
      fun y hy => ?_⟩
    · exact (htrip.regs r hr).trans (State.reg_congr hregs r)
    · exact (htrip.bytes y hy).trans (hu ▸ rfl)
  case ovVector =>
    intro s n x lasts a ha hv hbeyond hfilter hnext
    refine completes_awake (p := progOvervoltageTrip n x lasts a) rfl ha ?_
    rw [run_overvoltageTrip rfl, if_pos (by simp [State.ovTrips, hbeyond, hfilter, hnext])]
    obtain ⟨u, hu⟩ : ∃ u, (advance ((s.lineTime x + s.ovFilter n) / 256)).run (s.ovSeen n
      ⟨s.lineTime x, s.lineTime x + lasts, a.cell, a.vref, a.delay, s.stampTime x⟩) = u := ⟨_, rfl⟩
    have hregs : u.regs = s.regs := hu ▸ rfl
    have hcore : u.core n = s.core n := State.fld_congr hregs _
    have hset : u.Agrees (u.setFld (F.FMT_STAT_OV (s.core n)) 1) (fun r => r.id = .FMT_STAT ∧ r.u = s.core n) (fun _ => False)
        Dev.clock := (within_setB (f := F.FMT_STAT_OV (s.core n)).2 ⟨rfl, rfl⟩).agrees u
    have hkept {f : Field} (hf : f.reg.id ≠ .FMT_STAT) : (u.setFld (F.FMT_STAT_OV (s.core n)) 1).fld f = s.fld f :=
      (hset.fld fun h => hf h.1).trans (State.fld_congr hregs f)
    rw [hu, run_ovTrip_vector hcore (by rwa [State.vectorMode, State.fld_congr hregs])]
    refine ⟨State.fld_setFld _ _ _ (fmtStatOv_ok _), ?_, fun r hr _ => ?_, fun y => (hset.byte y id).trans (hu ▸ rfl)⟩
    · exact State.calm_congr (hkept (by simp)) (hkept (by simp))
    · exact (hset.reg r fun h => hr ⟨by simp [h.1], h.2⟩).trans (State.reg_congr hregs r)
  case ovNot =>
    intro s n x lasts a ha h
    refine completes_awake (p := progOvervoltageTrip n x lasts a) rfl ha ?_
    rw [run_overvoltageTrip rfl, ovTrips_not h]
    exact ⟨rfl, ovSeen_ov _, rfl, fun _ => rfl⟩

end Sys2Proof.Machine

/-! The parts of a boundary (R81): what each can change, and what it keeps. -/
namespace Sys2Proof.Machine

/-- The registers that boundaries write, but for the mode. -/
abbrev cycleNames : List RegId := [.CAL_CH_TST, .FAIL_RDROP, .FAIL_STAT, .FMT_CNT_A, .FMT_CNT_B, .FMT_STAT, .IRQ_CNT, .IRQ_PEND,
  .LOOP_NOW, .LOOP_SET, .LOOP_STAT, .LOOP_TAPERNOW, .MASK_ORG_HI, .MASK_ORG_LO, .MASK_STATE, .MEM_ECCA_HI, .MEM_ECCA_LO, .MEM_ECCCNT,
  .PLAY_CNT_A, .PLAY_SEGID, .PLAY_STAT, .PLAY_ULT_HI, .PLAY_ULT_LO, .PLAY_VSTAT, .PWR_LOST, .PWR_PARKED, .RING_STAT, .SEQ_STATE,
  .TG_STAT]

/-- The registers that boundaries write. -/
abbrev boundaryNames : List RegId := .FMT_MODE :: cycleNames

/-- Of a core: what stays from the opening of a cycle on. -/
abbrev CoreSt.steady (c : CoreSt) : Nat × Option Nat × Option Nat := (c.drv.g, c.drv.calm, c.drv.leave)

/-- Of a core: what its next cycle rests on. -/
abbrev CoreSt.outlook (c : CoreSt) : (Nat × Option Nat × Option Nat) × Nat × Nat × PlaySt :=
  (c.steady, c.drv.mode, c.drv.dir, { c.play with marks := 0 })

/-- Of a core: that, and the trip that asked for Calm. -/
abbrev CoreSt.outset (c : CoreSt) : Option Nat × (Nat × Option Nat × Option Nat) × Nat × Nat × PlaySt :=
  (c.drv.tripCalm, c.outlook)

section
variable {α β : Type} {ψ : FeSt → β} {φ : CoreSt → α} {Q : RegKey → Prop} {A : Nat → Prop} {n k m j g : Nat}
variable {s t u : State} {l : List Req}

theorem outset_of_course (d e : Dev) (h : Dev.view m j ψ CoreSt.course d = Dev.view m j ψ CoreSt.course e) :
    Dev.view m j ψ CoreSt.outset d = Dev.view m j ψ CoreSt.outset e :=
  view_coarser (fun _ _ h => h) (fun _ _ h =>
    congrArg (fun x => (x.1.tripCalm, (x.1.g, x.1.calm, x.1.leave), x.1.mode, x.1.dir, { x.2.2 with marks := 0 })) h) d e h

theorem outlook_of_outset (d e : Dev) (h : Dev.view m j ψ CoreSt.outset d = Dev.view m j ψ CoreSt.outset e) :
    Dev.view m j ψ CoreSt.outlook d = Dev.view m j ψ CoreSt.outlook e :=
  view_coarser (fun _ _ h => h) (fun _ _ h => congrArg (·.2) h) d e h

theorem steady_of_outlook (d e : Dev) (h : Dev.view m j ψ CoreSt.outlook d = Dev.view m j ψ CoreSt.outlook e) :
    Dev.view m j ψ CoreSt.steady d = Dev.view m j ψ CoreSt.steady e :=
  view_coarser (fun _ _ h => h) (fun _ _ h => congrArg (·.1) h) d e h

/-! The opening of a cycle -/

@[simp] theorem within_setEff {r : RegKey} {w : Word} : (setEff r w).Within Q A (Dev.view m j ψ φ) :=
  within_devApart fun _ => ⟨rfl, rfl, rfl⟩

theorem within_applyRegs : (applyRegs l).Within Q A (Dev.view m j ψ φ) := by
  rw [applyRegs, within_each]
  intro r _
  split
  · exact within_setEff
  · exact within_done

theorem within_applyAtBoundary (hQ : Covers Q cycleNames) (h : ∀ x y, ψ { x with trims := y } = ψ x) :
    (applyAtBoundary n g).Within Q A (Dev.view m j ψ φ) := by
  rw [applyAtBoundary, within_ask]
  intro s
  split
  · exact within_done
  · simp only [useMisc, within_when, within_cons, within_nil, within_ask, within_setEff, within_clrB, and_true,
      true_and, implies_true]
    exact fun _ => ⟨within_modFe fun x => h x _, fun _ => hQ.reg (by simp)⟩

theorem within_limitClash {len : Nat} (hQ : Covers Q cycleNames) : (limitClash k len).Within Q A (Dev.view m j ψ φ) := by
  simp [limitClash, hQ.reg]

/-! Status, trips and modes -/

@[simp] theorem within_offerAt {c x : Nat} (h : ∀ c x, φ { c with seq := x } = φ c) :
    (offerAt n c x).Within Q A (Dev.view m j ψ φ) := by
  simp [offerAt, modSeq, h]

theorem within_eventSource (hQ : Covers Q cycleNames) : (eventSource n).Within Q A (Dev.view m j ψ φ) :=
  within_raise_of (hQ.sub (by decide))

theorem within_coreEvent (hQ : Covers Q cycleNames) : (coreEvent k).Within Q A (Dev.view m j ψ φ) := by
  rw [coreEvent, within_ask]
  intro s
  split
  · exact within_eventSource hQ
  · exact within_done

theorem within_loopStatus (hQ : Covers Q cycleNames) : (loopStatus n k g).Within Q A (Dev.view m j ψ CoreSt.outset) := by
  have hraise : (eventSource n).Within Q A (Dev.view m j ψ CoreSt.outset) := within_eventSource hQ
  rw [loopStatus, within_ask]
  intro s
  simp only [within_cons, within_nil, and_true]
  refine ⟨within_modCore fun _ => rfl, ?_, ?_⟩
  · split
    · simp [hraise, hQ.reg]
    · simp [hQ.reg]
    · exact within_done
  · split
    · simp [hraise, hQ.reg]
    · simp [hQ.reg]
    · exact within_done

/-- A boundary without a trip in progress. -/
theorem within_tripBoundary (h : ∀ c x y, φ { c with drv := { c.drv with ocRun := x, ocTrip := y } } = φ c) :
    (tripBoundary n k false).Within Q A (Dev.view m j ψ φ) := by
  simp only [tripBoundary, within_cons, within_nil, within_when, and_true]
  exact ⟨within_modCore fun c => h c _ _, fun h => absurd h (by decide)⟩

theorem within_leaveVector : (leaveVector k g).Within Q A (Dev.view m j ψ CoreSt.outset) := by
  rw [leaveVector, within_on]
  refine fun s _ => within_modCore fun c => ?_
  obtain ⟨e0, h0⟩ := DrvSt.put_edges { c.drv with edges := c.drv.edges.filter fun e => e.t ≤ g } g 0 0
  obtain ⟨e1, h1⟩ := DrvSt.put_edges (DrvSt.put { c.drv with edges := c.drv.edges.filter fun e => e.t ≤ g } g 0 0) g 1 0
  dsimp only
  rw [h1, h0]
  rfl

theorem within_useMode {x : Nat} (h : ∀ c x, φ { c with drv := { c.drv with mode := x } } = φ c) (hQ : Covers Q boundaryNames) :
    (useMode k x).Within Q A (Dev.view m j ψ φ) := by
  simp only [useMode, within_cons, within_nil, within_setF, and_true]
  exact ⟨hQ.reg (by simp), within_modCore fun c => h c x⟩

/-- A request that is lost is told. -/
theorem within_modeLost (hQ : Covers Q cycleNames) :
    (seqs [setB (F.FMT_STAT_MODE_LOST k), coreEvent k]).Within Q A (Dev.view m j ψ φ) := by
  simp [hQ.reg, within_coreEvent hQ]

theorem within_wordRequests {taper : Bool} {h : Option Word} (hQ : Covers Q cycleNames) :
    (wordRequests k l taper h).Within Q A (Dev.view m j ψ φ) := by
  simp only [wordRequests, within_cons, within_nil, within_when, within_setB, and_true]
  refine ⟨fun _ => hQ.reg (by simp), ?_⟩
  split
  · split
    · simp [hQ.reg]
    · simp [hQ.reg]
  · exact within_done

/-! The gates -/

theorem within_gatesTail (h : ∀ c x, φ { c with drv := { c.drv with edges := x } } = φ c) :
    (gatesTail k g).Within Q A (Dev.view m j ψ φ) := by
  refine within_modCore fun c => ?_
  dsimp only
  generalize (g - if c.drv.run = 4 then 0 else c.drv.dtHL) = x
  generalize (g - if c.drv.run = 4 then 0 else c.drv.dtLH) = y
  obtain ⟨e0, h0⟩ := (c.drv.dropGates g).put_edges x 0 0
  obtain ⟨e1, h1⟩ := ((c.drv.dropGates g).put x 0 0).put_edges y 1 0
  rw [h1, h0]
  exact h c _

theorem within_lowCycle : (lowCycle k g).Within Q A (Dev.view m j ψ CoreSt.steady) := by
  simp only [lowCycle, within_cons, within_nil, and_true]
  exact ⟨within_gatesTail fun _ _ => rfl, within_modCore fun _ => rfl⟩

/-- A level that a pin takes changes nothing of a drive that stays through a cycle. -/
@[simp] theorem DrvSt.put_steady (d : DrvSt) (x p l : Nat) :
    (d.put x p l).g = d.g ∧ (d.put x p l).calm = d.calm ∧ (d.put x p l).leave = d.leave := by
  obtain ⟨e, he⟩ := d.put_edges x p l
  rw [he]
  exact ⟨rfl, rfl, rfl⟩

@[simp] theorem DrvSt.up_steady (d : DrvSt) (x p dt : Nat) :
    (d.up x p dt).g = d.g ∧ (d.up x p dt).calm = d.calm ∧ (d.up x p dt).leave = d.leave := d.put_steady _ _ _

theorem within_steady {f : DrvSt → DrvSt} (h : ∀ d, (f d).g = d.g ∧ (f d).calm = d.calm ∧ (f d).leave = d.leave) :
    (modDrv k f).Within Q A (Dev.view m j ψ CoreSt.steady) := by
  refine within_modCore fun c => ?_
  obtain ⟨hg, hcalm, hleave⟩ := h c.drv
  simp only [CoreSt.steady, hg, hcalm, hleave]

theorem within_pulseCycle {len : Nat} {fwd trip : Bool} :
    (pulseCycle k g len fwd trip).Within Q A (Dev.view m j ψ CoreSt.steady) := by
  simp only [pulseCycle, within_ask, within_cons, within_nil, and_true]
  refine fun s => ⟨within_gatesTail fun _ _ => rfl, within_steady fun d => ?_⟩
  split
  · exact DrvSt.up_steady ..
  · exact DrvSt.up_steady ..

theorem within_dutyCycle {len : Nat} {trip : Bool} (hQ : Covers Q cycleNames) :
    (dutyCycle k g len trip).Within Q A (Dev.view m j ψ CoreSt.steady) := by
  simp only [dutyCycle, within_ask, within_cons, within_nil, within_countBy, and_true]
  refine fun s => ⟨hQ.reg (by simp), ?_⟩
  split
  · exact within_steady fun d => by simp [DrvSt.dropGates]
  · simp only [within_cons, within_nil, and_true]
    refine ⟨within_gatesTail fun _ _ => rfl, within_steady fun d => ?_⟩
    split
    · exact DrvSt.up_steady ..
    · simp

theorem within_activeLoop {old : State} {v : Int} {rev : Bool} {a : Analog} (hQ : Covers Q cycleNames)
    (h : ∀ x l, ψ { x with loop := l } = ψ x) : (activeLoop old n k g v rev a).Within Q A (Dev.view m j ψ φ) := by
  simp only [activeLoop, within_cons, within_nil, within_on, within_ask, and_true]
  exact ⟨within_loadDac (hQ.reg (by simp)) h, fun _ _ _ => within_modLoop h⟩

theorem within_pcmCycle {old : State} {len mode : Nat} {trip : Bool} {a : Analog} (hQ : Covers Q cycleNames)
    (h : ∀ x l, ψ { x with loop := l } = ψ x) : (pcmCycle old n k g len mode trip a).Within Q A (Dev.view m j ψ CoreSt.steady) := by
  have hactive (v : Int) (rev : Bool) : (activeLoop old n k g v rev a).Within Q A (Dev.view m j ψ CoreSt.steady) :=
    within_activeLoop hQ h
  have hload (v : Int) : (loadDac n k g v).Within Q A (Dev.view m j ψ CoreSt.steady) := within_loadDac (hQ.reg (by simp)) h
  have hclamp : (clampLoop n k).Within Q A (Dev.view m j ψ CoreSt.steady) :=
    (within_clampLoop (hQ.reg (by simp)) h).coarser fun d e hd =>
      steady_of_outlook d e (outlook_of_outset d e (outset_of_course d e hd))
  rw [pcmCycle, within_ask]
  intro s
  dsimp only
  split
  · simp [hactive, within_lowCycle, hQ.reg]
  split
  · simp [hload, hclamp, within_lowCycle, hQ.reg]
  · simp [hactive, within_pulseCycle]

/-- A cycle in any mode. -/
theorem within_driveCycle {old : State} {len : Nat} {trip : Bool} {a : Analog} (hQ : Covers Q cycleNames)
    (h : ∀ x l, ψ { x with loop := l } = ψ x) : (driveCycle old n k g len trip a).Within Q A (Dev.view m j ψ CoreSt.steady) := by
  have hpcm (mode : Nat) : (pcmCycle old n k g len mode trip a).Within Q A (Dev.view m j ψ CoreSt.steady) := within_pcmCycle hQ h
  have hdac : (noSetpoint n k g).Within Q A (Dev.view m j ψ CoreSt.steady) := within_loadDac (hQ.reg (by simp)) h
  have hclamp : (clampLoop n k).Within Q A (Dev.view m j ψ CoreSt.steady) :=
    (within_clampLoop (hQ.reg (by simp)) h).coarser fun d e hd =>
      steady_of_outlook d e (outlook_of_outset d e (outset_of_course d e hd))
  have htail : (gatesTail k g).Within Q A (Dev.view m j ψ CoreSt.steady) := within_gatesTail fun _ _ => rfl
  rw [driveCycle, within_ask]
  intro s
  split
  · exact hpcm 2
  · exact hpcm 3
  · simp [hdac, hclamp, within_dutyCycle hQ]
  · split
    · exact hpcm 5
    · simp [hdac, within_lowCycle]
  · simp only [within_cons, within_nil, within_when, hdac, hclamp, htail, and_true, true_and]
    exact fun _ => within_modCore fun _ => rfl
  · simp [hdac, hclamp, within_lowCycle]

end

end Sys2Proof.Machine

/-! A boundary in its parts (R81): the opening of the cycle, the moves between Calm and the modes, what is played, what drives the
gates, and the trips. -/
namespace Sys2Proof.Machine

/-- `t` is `s` further on in a boundary: registers that boundaries write have changed, but the mode in effect, the excursions, and
what `φ` tells of the core are as they were. -/
structure State.Cycled {α : Type} (s t : State) (n k : Nat) (A : Nat → Prop) (φ : CoreSt → α) : Prop where
  agrees : s.Agrees t (fun r => r.id ∈ boundaryNames) A (Dev.view n k FeSt.watch φ)
  cur : t.fld (F.FMT_MODE_CUR k) = s.fld (F.FMT_MODE_CUR k)

section
variable {α β : Type} {φ : CoreSt → α} {φ' : CoreSt → β} {A : Nat → Prop} {n k g len : Nat} {s t u : State} {l : List Req} {p : Prog}

theorem State.Cycled.refl (s : State) : s.Cycled s n k A φ := ⟨State.Agrees.refl s, rfl⟩

theorem State.Cycled.trans (h : s.Cycled t n k A φ) (h' : t.Cycled u n k A φ) : s.Cycled u n k A φ :=
  ⟨h.agrees.trans h'.agrees, h'.cur.trans h.cur⟩

theorem State.Cycled.coarser (h : s.Cycled t n k A φ)
    (hφ : ∀ d e, Dev.view n k FeSt.watch φ d = Dev.view n k FeSt.watch φ e →
      Dev.view n k FeSt.watch φ' d = Dev.view n k FeSt.watch φ' e) :
    s.Cycled t n k A φ' := ⟨h.agrees.coarser hφ, h.cur⟩

theorem State.Agrees.plain {Q : RegKey → Prop} {ψ : FeSt → β} (h : s.Agrees t Q A (Dev.view n k ψ φ)) :
    s.Agrees t Q A (Dev.view n k ψ fun _ => ()) := h.coarser (view_coarser (fun _ _ h => h) fun _ _ _ => rfl)

theorem State.Cycled.plain (h : s.Cycled t n k A φ) : s.Cycled t n k A fun _ => () :=
  ⟨h.agrees.plain, h.cur⟩

/-- What does not write the register of the mode keeps the mode. -/
theorem Prog.Within.cycled (h : p.Within (fun r => r.id ∈ cycleNames) A (Dev.view n k FeSt.watch φ)) (s : State) :
    s.Cycled (p.run s) n k A φ :=
  ⟨(h.agrees s).mono (fun _ hr => List.mem_cons_of_mem _ hr) fun _ hx => hx, (h.agrees s).fld (by simp)⟩

theorem State.Cycled.core (h : s.Cycled t n k A φ) (m : Nat) : t.core m = s.core m := h.agrees.fld (by simp)

theorem State.Cycled.calm (h : s.Cycled t n k A φ) (hk : s.core n = k) : t.calm n = s.calm n :=
  State.calm_congr (h.core n) (hk ▸ h.cur)

/-! The opening -/

/-- Of a core: what the opening of a cycle keeps. -/
abbrev CoreSt.before (c : CoreSt) : Option Nat × Option Nat × Option Nat × Nat × Nat × PlaySt :=
  (c.drv.tripCalm, c.drv.calm, c.drv.leave, c.drv.mode, c.drv.dir, { c.play with marks := 0 })

/-- `t` is `s` once the cycle that begins at `g` is opened. -/
structure CycleOpened (s t : State) (n k g : Nat) (A : Nat → Prop) : Prop where
  cycled : s.Cycled t n k A CoreSt.before
  start : (t.cst k).drv.g = g

theorem run_openCycle {changes : Bool} {go : Nat → Prog} :
    ∃ len u, (openCycle n k g l changes go).run s = (go len).run u ∧ CycleOpened s u n k g A := by
  obtain ⟨v, hv⟩ : ∃ v, (applyAtBoundary n g).run ((applyRegs l).run
    (s.modDev fun d => { d with reqs := d.reqs.filter fun r => !(r.core = k && reaches r.at_ g) })) = v := ⟨_, rfl⟩
  have hreqs : (dev fun d => { d with reqs := d.reqs.filter fun r => !(r.core = k && reaches r.at_ g) }).Within
      (fun r => r.id ∈ cycleNames) A (Dev.view n k FeSt.watch CoreSt.before) := within_devApart fun _ => ⟨rfl, rfl, rfl⟩
  have hset : s.Cycled v n k A CoreSt.before := hv ▸ (hreqs.cycled s).trans ((within_applyRegs.cycled _).trans
    ((within_applyAtBoundary (covers_self _) fun _ _ => rfl).cycled _))
  have hopen (x : Nat) : (modDrv k fun d => { d.compact d.g with next := some x, g := g, ovLow := false }).Within
      (fun r => r.id ∈ cycleNames) A (Dev.view n k FeSt.watch CoreSt.before) := within_modCore fun _ => rfl
  have hnotes {γ : Type} (ρ : CoreSt → γ) (b : Bool) (x : Nat) : (seqs [when b (setB (F.TG_STAT_TRANS k)), limitClash k x]).Within
      (fun r => r.id ∈ cycleNames) A (Dev.view n k FeSt.watch ρ) := by
    simp only [within_cons, within_nil, within_when, within_setB, within_limitClash (covers_self cycleNames), and_true]
    exact fun _ => by simp
  rw [openCycle, run_seqs_cons, run_seqs_cons, run_seqs_cons, run_seqs_cons, run_seqs_nil, run_dev, hv, run_ask]
  dsimp only
  generalize hx : (if (!changes && decide (gridFrom (v.period k) (v.effFld (F.TG_PHASE_SUB k)) g = g)) = true then
    g + v.period k * 256 else gridFrom (v.period k) (v.effFld (F.TG_PHASE_SUB k)) (g + v.period k * 128)) = x
  generalize (!(!changes && decide (gridFrom (v.period k) (v.effFld (F.TG_PHASE_SUB k)) g = g))) = b
  refine ⟨x - g, (seqs [when b (setB (F.TG_STAT_TRANS k)), limitClash k (x - g)]).run
    ((modDrv k fun d => { d.compact d.g with next := some x, g := g, ovLow := false }).run v), ?_, ?_, ?_⟩
  · rw [run_seqs_cons, run_seqs_cons, run_seqs_cons, run_seqs_cons, run_seqs_nil, run_seqs_cons, run_seqs_cons, run_seqs_nil]
  · exact hset.trans (((hopen x).cycled v).trans ((hnotes _ b _).cycled _))
  · exact (((hnotes (fun c => c.drv.g) b (x - g)).cycled _).agrees.cst).trans (congrArg DrvSt.g (modDrv_drv _))

/-! Modes and words that are asked for -/

theorem fmtMode_apart (k : Nat) : (F.FMT_MODE_CUR k).lo + (F.FMT_MODE_CUR k).w ≤ (F.FMT_MODE_MODE k).lo ∨
    (F.FMT_MODE_MODE k).lo + (F.FMT_MODE_MODE k).w ≤ (F.FMT_MODE_CUR k).lo :=
  (by decide : (F.FMT_MODE_CUR 0).lo + (F.FMT_MODE_CUR 0).w ≤ (F.FMT_MODE_MODE 0).lo ∨
    (F.FMT_MODE_MODE 0).lo + (F.FMT_MODE_MODE 0).w ≤ (F.FMT_MODE_CUR 0).lo)

theorem useMode_cycled (hφ : ∀ c x, φ { c with drv := { c.drv with mode := x } } = φ c) (x : Nat) (s : State) :
    s.Cycled ((useMode k x).run s) n k A φ := by
  refine ⟨(within_useMode hφ (covers_self _)).agrees s, ?_⟩
  have hmode : (modDrv k fun d => { d with mode := x }).Within (fun _ => False) A (Dev.view n k FeSt.watch φ) :=
    within_modCore fun c => hφ c x
  rw [useMode, run_seqs_cons, run_seqs_cons, run_seqs_nil, (hmode.agrees _).fld id, run_setF]
  exact State.fld_setFld_apart _ _ _ _ (fmtModeCur_ok k) (fmtMode_apart k)

theorem modeLost_cycled (s : State) : s.Cycled ((seqs [setB (F.FMT_STAT_MODE_LOST k), coreEvent k]).run s) n k A φ :=
  (within_modeLost (covers_self _)).cycled s

/-- A part that may be left out. -/
theorem when_cycled {b : Bool} (h : s.Cycled (p.run s) n k A φ) : s.Cycled ((when b p).run s) n k A φ := by
  cases b
  · exact State.Cycled.refl s
  · exact h

theorem modeRequests_cycled (hφ : ∀ c x, φ { c with drv := { c.drv with mode := x } } = φ c) (s : State) :
    s.Cycled ((modeRequests k l).run s) n k A φ := by
  rw [modeRequests]
  split
  · rw [run_seqs_cons, run_seqs_cons, run_seqs_nil]
    exact (useMode_cycled hφ _ s).trans (when_cycled (modeLost_cycled _))
  · exact useMode_cycled hφ _ s
  · exact State.Cycled.refl s

theorem headerMode_cycled (x : Nat) (s : State) : s.Cycled ((headerMode k l x).run s) n k A CoreSt.steady := by
  have hlost : (setB (F.PLAY_STAT_HDR_LOST k)).Within (fun r => r.id ∈ cycleNames) A
      (Dev.view n k FeSt.watch CoreSt.steady) := by simp
  rw [headerMode]
  split
  · exact State.Cycled.refl s
  split
  · exact hlost.cycled s
  · rw [run_seqs_cons, run_seqs_cons, run_seqs_nil]
    exact (useMode_cycled (fun _ _ => rfl) _ s).trans (when_cycled (modeLost_cycled _))

/-- The mode that the header of a segment that has begun asks for. -/
def freshMode (k : Nat) (l : List Req) : Option Header → Prog
  | some h => headerMode k l (h.mode % 16)
  | none => .done

theorem run_headerRequests (s : State) : (headerRequests k l).run s =
    (wordRequests k l true ((s.freshHeader k).map fun h => BitVec.ofNat 32 h.taper)).run
      ((wordRequests k l false ((s.freshHeader k).map fun h => BitVec.ofNat 32 h.vlim)).run
        ((freshMode k l (s.freshHeader k)).run
          ((modPlay k fun p => { p with fresh := false }).run s))) := by
  rw [headerRequests, run_ask]
  dsimp only
  rw [run_seqs_cons, run_seqs_cons, run_seqs_cons, run_seqs_cons, run_seqs_nil]
  cases s.freshHeader k
  · rfl
  · rfl

theorem headerRequests_cycled (k : Nat) (l : List Req) (s : State) : s.Cycled ((headerRequests k l).run s) n k A CoreSt.steady := by
  have hfresh : (modPlay k fun p => { p with fresh := false }).Within (fun r => r.id ∈ cycleNames) A
      (Dev.view n k FeSt.watch CoreSt.steady) := within_modCore fun _ => rfl
  have hwords (taper : Bool) (h : Option Word) (s : State) : s.Cycled ((wordRequests k l taper h).run s) n k A CoreSt.steady :=
    (within_wordRequests (covers_self _)).cycled s
  rw [run_headerRequests]
  refine ((hfresh.cycled s).trans ?_).trans ((hwords _ _ _).trans (hwords _ _ _))
  cases s.freshHeader k with
  | some h => exact headerMode_cycled _ _
  | none => exact State.Cycled.refl _

/-- A change of the playback that leaves it as it is. -/
theorem modPlay_same {f : PlaySt → PlaySt} (h : f (s.cst k).play = (s.cst k).play) : ((modPlay k f).run s).cst k = s.cst k := by
  have hcst : ((modPlay k f).run s).cst k = { s.cst k with play := f (s.cst k).play } := by simp [modPlay, modCore, State.cst]
  rw [hcst, h]

/-- Without a request and a segment that has begun nothing is asked for. -/
theorem headerRequests_none (h : (s.cst k).play.fresh = false) : s.Cycled ((headerRequests k []).run s) n k A CoreSt.outlook := by
  have hplay : { (s.cst k).play with fresh := false } = (s.cst k).play := by rw [← h]
  have hfresh : s.Cycled ((modPlay k fun p => { p with fresh := false }).run s) n k A CoreSt.outlook :=
    ⟨⟨fun _ _ => rfl, fun _ _ => rfl,
      congrArg (fun c => (s.dev.lt.cyc, (s.fe n).watch, CoreSt.outlook c)) (modPlay_same hplay)⟩, rfl⟩
  have hwords (taper : Bool) (h : Option Word) (s : State) : s.Cycled ((wordRequests k [] taper h).run s) n k A CoreSt.outlook :=
    (within_wordRequests (covers_self _)).cycled s
  have hheader : s.freshHeader k = none := by simp [State.freshHeader, h]
  rw [run_headerRequests, hheader]
  exact hfresh.trans ((hwords _ _ _).trans (hwords _ _ _))

/-! What is played -/

theorem setMarks_cycled (k : Nat) (s : State) : s.Cycled ((setMarks k 0 g).run s) n k A CoreSt.outset :=
  ((within_setMarks ((covers_self cycleNames).sub (by decide))).coarser outset_of_course).cycled s

/-- In Calm nothing goes on, unless a trip of the same sequencer cycle has asked for Calm (R242, R248). -/
theorem playCalm_cycled (h : (s.cst k).drv.tripCalm = none ∨ (s.cst k).play.playing = false) :
    s.Cycled ((playCalm n k g len).run s) n k A CoreSt.outlook := by
  have htrip : (modDrv k fun d => { d with tripCalm := none }).Within (fun r => r.id ∈ cycleNames) A
      (Dev.view n k FeSt.watch CoreSt.outlook) := within_modCore fun _ => rfl
  have hrun : (playCalm n k g len).run s = (modDrv k fun d => { d with tripCalm := none }).run ((setMarks k 0 g).run s) := by
    rw [playCalm, run_ask]
    dsimp only
    rw [run_seqs_cons, run_seqs_cons, run_seqs_cons, run_seqs_nil, run_when, if_neg]
    rcases h with h | h <;> simp [h]
  rw [hrun]
  exact ((setMarks_cycled k s).coarser outlook_of_outset).trans (htrip.cycled _)

/-- With nothing to play the value is held (R245). -/
theorem run_playBoundary_idle (hc : s.calm n = false) (hp : (s.cst k).play.playing = false) (hnext : (s.cst k).play.next = none)
    (hname : (s.cst k).play.name = none) : (playBoundary n k g len).run s = (setMarks k 0 g).run s := by
  rw [playBoundary, run_ask, if_neg (by simp [hc]), run_seqs_cons, run_seqs_cons, run_seqs_cons, run_seqs_nil]
  have hdone : (segmentDone n k g).run s = s := by rw [segmentDone, run_on, if_neg (by simp [hp])]
  have hwait : (startWaiting n k g).run s = s := by
    rw [startWaiting, run_ask]
    dsimp only
    rw [if_neg (by simp [hp]), hnext, hname]
    rfl
  rw [hdone, hwait, run_ask]
  dsimp only
  rw [if_pos (by simp [hp])]

/-! Trips at a boundary -/

/-- The excursions at front end `n` are over at `g`. -/
structure State.TripsOver (s : State) (n g : Nat) : Prop where
  oc : (s.fe n).oc.all (fun x => decide (x.stop ≤ g)) = true
  ov : (s.fe n).ov.all (fun x => decide (x.stop ≤ g)) = true

theorem State.TripsOver.of_fe (h : s.TripsOver n g) (hf : (t.fe n).watch = (s.fe n).watch) : t.TripsOver n g := by
  have hoc : (t.fe n).oc = (s.fe n).oc := congrArg Prod.fst hf
  have hov : (t.fe n).ov = (s.fe n).ov := congrArg Prod.snd hf
  exact ⟨hoc ▸ h.oc, hov ▸ h.ov⟩

theorem State.TripsOver.of_cycled (h : s.TripsOver n g) (hc : s.Cycled t n k A φ) : t.TripsOver n g := h.of_fe hc.agrees.fe

theorem ocTripped_over (h : s.TripsOver n g) : s.ocTripped n g = false := by
  have hoc := h.oc
  rw [State.ocTripped]
  split
  · rename_i x hx
    simp only [hx, Option.all_some, decide_eq_true_eq] at hoc
    simp
    omega
  · rfl

theorem run_ocLate_over {a : Analog} (h : s.TripsOver n g) : (ocLate n k g a).run s = s := by
  have hoc := h.oc
  have hafter : s.ocTripAfter n g = none := by
    rw [State.ocTripAfter]
    split
    · rename_i x hx
      simp only [hx, Option.all_some, decide_eq_true_eq] at hoc
      dsimp only
      rw [if_neg]
      simp
      omega
    · rfl
  rw [ocLate, run_ask, hafter]
  split
  · rename_i h
    exact absurd h (by simp)
  · rfl

theorem run_ovAtBoundary_over {before again : Bool} {a : Analog} (h : s.TripsOver n g) :
    (ovAtBoundary n g before again a).run s = s := by
  have hov := h.ov
  rw [ovAtBoundary, run_ask]
  split
  · rfl
  · rename_i x hx
    simp only [hx, Option.all_some, decide_eq_true_eq] at hov
    dsimp only
    split
    · rename_i hlate
      simp only [Bool.and_eq_true, decide_eq_true_eq] at hlate
      rw [run_when, if_neg]
      simp
      omega
    · rw [run_when, if_neg]
      simp [Excursion.lasts]
      omega

end

end Sys2Proof.Machine

/-! The boundary as a whole, and boundaries in Calm and into Calm (R81, R104, R139, R142). -/
namespace Sys2Proof.Machine

/-- A Calm request, or a leave request, of core `k` takes effect at `g`. -/
def State.calmDue (s : State) (k g : Nat) : Bool := match (s.cst k).drv.calm with | some t => reaches t g | none => false
def State.leaveDue (s : State) (k g : Nat) : Bool := match (s.cst k).drv.leave with | some t => reaches t g | none => false

/-- Channel `n` leaves Calm at `g`. -/
def State.leaves (s : State) (n k g : Nat) : Bool :=
  s.leaveDue k g && s.calm n && !s.calmDue k g && !s.parked n && s.mayRun

/-- The loop's status, the entry into Calm, the modes asked for, and the leave of Calm. -/
def boundaryMoves (old : State) (n k g : Nat) (l : List Req) : Prog :=
  seqs [
    loopStatus n k g,
    when (old.calmDue k g && !old.calm n) (calmAt n k g),
    when (old.calmDue k g && old.calm n) (modDrv k fun d => { d with calm := none, ocCalm := false }),
    modeRequests k l,
    when (old.leaves n k g) (leaveCalm n k g),
    when (old.leaveDue k g && !old.calm n && !old.calmDue k g)
      (seqs [modDrv k fun d => { d with leave := none }, startStepping k (old.boundary (divUp g 256))])]

/-- What the cycle plays, and the mode that its gates are driven in. -/
def boundaryPlays (n k g len : Nat) (l : List Req) : Prog :=
  seqs [
    playBoundary n k g len,
    on (fun s => !s.calm n && ((s.cst k).drv.calm.any fun t => reaches t g)) (calmAt n k g),
    headerRequests k l, useCur n k, leaveVector k g]

/-- The cycle of the count and of the gates. -/
def boundaryDrives (old : State) (n k g len : Nat) (a : Analog) : Prog :=
  ask fun s => seqs [tripBoundary n k (s.ocTripped n g), driveCycle old n k g len (s.ocTripped n g) a]

/-- What follows the gates: dead times, AUX outputs, and trips that fall due. -/
def boundaryFollows (old : State) (n k g : Nat) (a : Analog) : Prog :=
  seqs [latchDeadTimes k, auxEdges k g, ocLate n k g a, ovAtBoundary n g (old.ovBefore n) (old.leaves n k g) a]

section
variable {A : Nat → Prop} {n k g len : Nat} {s t u old : State} {l : List Req} {a : Analog}

theorem run_boundaryAt (n k g : Nat) (a : Analog) (s : State) : ∃ len u, CycleOpened s u n k g A ∧
    (boundaryAt n k g a).run s = (boundaryFollows s n k g a).run ((boundaryDrives s n k g len a).run
      ((boundaryPlays n k g len (s.dueReqs k g)).run ((boundaryMoves s n k g (s.dueReqs k g)).run u))) := by
  obtain ⟨v, hv⟩ : ∃ v, (followLoop n g a).run s = v := ⟨_, rfl⟩
  have hfollow : s.Cycled v n k A CoreSt.before := hv ▸ ((within_followLoop fun _ _ => rfl).cycled s)
  rw [boundaryAt, run_ask]
  dsimp only
  rw [run_seqs_cons, run_seqs_cons, run_seqs_nil, hv]
  obtain ⟨len, u, hrun, hopened⟩ := run_openCycle (n := n) (k := k) (g := g) (A := A) (s := v) (l := s.dueReqs k g)
    (changes := s.gridChanges k (s.dueReqs k g)) (go := fun len => seqs [
        loopStatus n k g,
        when (s.calmDue k g && !s.calm n) (calmAt n k g),
        when (s.calmDue k g && s.calm n) (modDrv k fun d => { d with calm := none, ocCalm := false }),
        modeRequests k (s.dueReqs k g),
        when (s.leaves n k g) (leaveCalm n k g),
        when (s.leaveDue k g && !s.calm n && !s.calmDue k g)
          (seqs [modDrv k fun d => { d with leave := none }, startStepping k (s.boundary (divUp g 256))]),
        playBoundary n k g len,
        on (fun s => !s.calm n && ((s.cst k).drv.calm.any fun t => reaches t g)) (calmAt n k g),
        headerRequests k (s.dueReqs k g), useCur n k, leaveVector k g,
        boundaryDrives s n k g len a,
        latchDeadTimes k, auxEdges k g, ocLate n k g a, ovAtBoundary n g (s.ovBefore n) (s.leaves n k g) a])
  refine ⟨len, u, ⟨hfollow.trans hopened.cycled, hopened.start⟩, Eq.trans ?_ (hrun.trans ?_)⟩
  · rfl
  · rw [boundaryFollows, boundaryPlays, boundaryMoves]
    simp only [run_seqs_cons, run_seqs_nil]

/-! The moves -/

/-- With no request due a channel stays as it is. -/
theorem run_moves_stay (hcalm : old.calmDue k g = false) (hleave : old.leaveDue k g = false) :
    (boundaryMoves old n k g []).run s = (loopStatus n k g).run s := by
  have hleaves : old.leaves n k g = false := by simp [State.leaves, hleave]
  have hnone (s : State) : (modeRequests k []).run s = s := rfl
  rw [boundaryMoves, hleaves, hcalm, hleave]
  simp [run_seqs_cons, run_seqs_nil, hnone]

/-- A Calm request that is due brings the channel into Calm, and the modes asked for are noted. -/
theorem run_moves_calm (hcalm : old.calmDue k g = true) (hc : old.calm n = false) : (boundaryMoves old n k g l).run s =
    (modeRequests k l).run ((calmAt n k g).run ((loopStatus n k g).run s)) := by
  have hleaves : old.leaves n k g = false := by simp [State.leaves, hc]
  rw [boundaryMoves, hleaves, hcalm, hc]
  simp [run_seqs_cons, run_seqs_nil]

/-- A leave request that is due takes the channel out of Calm. -/
theorem run_moves_leave (hleaves : old.leaves n k g = true) : (boundaryMoves old n k g []).run s =
    (leaveCalm n k g).run ((loopStatus n k g).run s) := by
  obtain ⟨hc, hcalm⟩ : old.calm n = true ∧ old.calmDue k g = false := by
    simp only [State.leaves, Bool.and_eq_true, Bool.not_eq_true'] at hleaves
    obtain ⟨⟨⟨⟨-, hc⟩, hcalm⟩, -⟩, -⟩ := hleaves
    exact ⟨hc, hcalm⟩
  have hnone (s : State) : (modeRequests k []).run s = s := rfl
  rw [boundaryMoves, hleaves, hcalm, hc]
  simp [run_seqs_cons, run_seqs_nil, hnone]

/-! Trips that do not fall due -/

theorem run_boundaryFollows (h : s.TripsOver n g) :
    (boundaryFollows old n k g a).run s = (auxEdges k g).run ((latchDeadTimes k).run s) := by
  have hover : ((auxEdges k g).run ((latchDeadTimes k).run s)).TripsOver n g :=
    h.of_cycled (n := n) (k := k) (A := fun _ => True) (((within_latchDeadTimes).cycled s).trans (within_auxEdges.cycled _))
  rw [boundaryFollows, run_seqs_cons, run_seqs_cons, run_seqs_cons, run_seqs_cons, run_seqs_nil, run_ocLate_over hover,
    run_ovAtBoundary_over hover]

/-- Dead times and AUX outputs reach neither the course nor the loop. -/
theorem follows_agrees {Q : RegKey → Prop} (h : s.TripsOver n g) : s.Agrees ((boundaryFollows old n k g a).run s) Q A
    (Dev.view n k FeSt.front CoreSt.course) := by
  rw [run_boundaryFollows h]
  exact (within_latchDeadTimes.agrees s).trans (within_auxEdges.agrees _)

theorem run_boundaryDrives (h : s.TripsOver n g) : (boundaryDrives old n k g len a).run s =
    (driveCycle old n k g len false a).run ((tripBoundary n k false).run s) := by
  rw [boundaryDrives, run_ask, ocTripped_over h, run_seqs_cons, run_seqs_cons, run_seqs_nil]

theorem tripBoundary_cycled (s : State) : s.Cycled ((tripBoundary n k false).run s) n k A CoreSt.outset :=
  (within_tripBoundary fun _ _ _ => rfl).cycled s

theorem driveCycle_cycled {trip : Bool} (s : State) : s.Cycled ((driveCycle old n k g len trip a).run s) n k A CoreSt.steady :=
  (within_driveCycle (covers_self _) fun _ _ => rfl).cycled s

theorem steady_of_outset (d e : Dev) (h : Dev.view n k FeSt.watch CoreSt.outset d = Dev.view n k FeSt.watch CoreSt.outset e) :
    Dev.view n k FeSt.watch CoreSt.steady d = Dev.view n k FeSt.watch CoreSt.steady e :=
  steady_of_outlook d e (outlook_of_outset d e h)

/-! A cycle in Calm -/

/-- `t` is in a cycle of channel `n` that begins at `g` and drives nothing. -/
structure State.Undriven (t : State) (n k g : Nat) : Prop where
  run : (t.cst k).drv.run = 0
  pulse : (t.cst k).drv.pulse = none
  idle : t.LoopIdle n g

theorem driveCycle_calm {trip : Bool} (h : s.fld (F.FMT_MODE_CUR k) = 1) :
    ((driveCycle old n k g len trip a).run s).Undriven n k g := by
  obtain ⟨u, hu⟩ : ∃ u, (gatesTail k g).run ((clampLoop n k).run ((noSetpoint n k g).run s)) = u := ⟨_, rfl⟩
  have hcycle : (driveCycle old n k g len trip a).run s = (seqs [noSetpoint n k g, clampLoop n k, lowCycle k g]).run s := by
    rw [driveCycle, run_ask, h]
    rfl
  have hrun : (driveCycle old n k g len trip a).run s = (modDrv k fun d => { d with run := 0, dir := 0, pulse := none }).run u := by
    rw [hcycle, run_seqs_cons, run_seqs_cons, run_seqs_cons, run_seqs_nil, lowCycle, run_seqs_cons, run_seqs_cons, run_seqs_nil, hu]
  have htail : (gatesTail k g).Within AnyReg AnyByte (Dev.view n k FeSt.loop fun _ => ()) := within_gatesTail fun _ _ => rfl
  have hlast : (modDrv k fun d => { d with run := 0, dir := 0, pulse := none }).Within AnyReg AnyByte
      (Dev.view n k FeSt.loop fun _ => ()) := within_modCore fun _ => rfl
  have hdrv : (((driveCycle old n k g len trip a).run s).cst k).drv = { (u.cst k).drv with run := 0, dir := 0, pulse := none } := by
    rw [hrun, modDrv_drv]
  refine ⟨congrArg DrvSt.run hdrv, congrArg DrvSt.pulse hdrv, ?_⟩
  rw [hrun, ← hu]
  exact ((loopIdle n k g s).of_agrees (htail.agrees _)).of_agrees (hlast.agrees _)

/-- What follows the gates leaves a cycle undriven. -/
theorem State.Undriven.follows (h : s.Undriven n k g) (hover : s.TripsOver n g) :
    ((boundaryFollows old n k g a).run s).Undriven n k g := by
  have hagrees := follows_agrees (old := old) (k := k) (a := a) (A := AnyByte) (Q := AnyReg) hover
  exact ⟨(congrArg (fun c => c.1.run) hagrees.cst).trans h.run, (congrArg (fun c => c.1.pulse) hagrees.cst).trans h.pulse,
    h.idle.of_agrees (hagrees.coarser (view_coarser (fun _ _ h => congrArg Prod.fst h) fun _ _ h => h))⟩

theorem run_playBoundary_calm (hc : s.calm n = true) : (playBoundary n k g len).run s = (playCalm n k g len).run s := by
  rw [playBoundary, run_ask, if_pos hc]

theorem run_useCur_calm (hc : s.calm n = true) : (useCur n k).run s = s := by
  rw [useCur, run_ask, hc]
  rfl

theorem leaveVector_cycled (s : State) : s.Cycled ((leaveVector k g).run s) n k A CoreSt.outset := within_leaveVector.cycled s

/-- In Calm nothing is played, and the mode stays. -/
theorem plays_calm (hk : s.core n = k) (hc : s.calm n = true) (htrip : (s.cst k).drv.tripCalm = none) :
    s.Cycled ((boundaryPlays n k g len l).run s) n k A CoreSt.steady := by
  obtain ⟨u, hu⟩ : ∃ u, (playCalm n k g len).run s = u := ⟨_, rfl⟩
  obtain ⟨v, hv⟩ : ∃ v, (headerRequests k l).run u = v := ⟨_, rfl⟩
  have hplay : s.Cycled u n k A CoreSt.steady := hu ▸ (playCalm_cycled (.inl htrip)).coarser steady_of_outlook
  have hcalm : u.calm n = true := (hplay.calm hk).trans hc
  have hheader : s.Cycled v n k A CoreSt.steady := hplay.trans (hv ▸ headerRequests_cycled k l u)
  have hrun : (boundaryPlays n k g len l).run s = (leaveVector k g).run v := by
    rw [boundaryPlays, run_seqs_cons, run_seqs_cons, run_seqs_cons, run_seqs_cons, run_seqs_cons, run_seqs_nil,
      run_playBoundary_calm hc, hu, run_on, if_neg (by simp [hcalm]), hv, run_useCur_calm ((hheader.calm hk).trans hc)]
  rw [hrun]
  exact hheader.trans ((leaveVector_cycled v).coarser steady_of_outset)

theorem follows_cycled (h : s.TripsOver n g) : s.Cycled ((boundaryFollows old n k g a).run s) n k A CoreSt.outset := by
  have hagrees := follows_agrees (old := old) (k := k) (a := a) (A := A) (Q := fun r => r.id ∈ cycleNames) h
  refine ⟨(hagrees.mono (fun _ hr => List.mem_cons_of_mem _ hr) fun _ hx => hx).coarser fun d e hd => ?_, hagrees.fld (by simp)⟩
  exact outset_of_course d e (view_coarser (fun _ _ h => congrArg Prod.snd h) (fun _ _ h => h) d e hd)

/-- Whatever drives the gates, the mode and the excursions stay. -/
theorem drives_cycled (h : s.TripsOver n g) :
    s.Cycled ((boundaryFollows old n k g a).run ((boundaryDrives old n k g len a).run s)) n k A CoreSt.steady := by
  have htrip := (tripBoundary_cycled (n := n) (k := k) (A := A) s).coarser steady_of_outset
  have hdrive := htrip.trans (driveCycle_cycled (old := old) (g := g) (len := len) (a := a) (trip := false) _)
  rw [run_boundaryDrives h]
  exact hdrive.trans ((follows_cycled (h.of_cycled hdrive)).coarser steady_of_outset)

/-- In Calm nothing is driven. -/
theorem drives_calm (hcur : s.fld (F.FMT_MODE_CUR k) = 1) (h : s.TripsOver n g) :
    ((boundaryFollows old n k g a).run ((boundaryDrives old n k g len a).run s)).Undriven n k g := by
  have htrip := (tripBoundary_cycled (n := n) (k := k) (A := AnyByte) s).coarser steady_of_outset
  have hdrive := htrip.trans (driveCycle_cycled (old := old) (g := g) (len := len) (a := a) (trip := false) _)
  rw [run_boundaryDrives h]
  exact (driveCycle_calm (htrip.cur.trans hcur)).follows (h.of_cycled hdrive)

/-- A cycle in Calm: the mode stays and nothing is driven. -/
structure CycledInCalm (s t : State) (n k g : Nat) (A : Nat → Prop) : Prop where
  cycled : s.Cycled t n k A CoreSt.steady
  undriven : t.Undriven n k g

theorem cycle_calm (hk : s.core n = k) (hc : s.calm n = true) (htrip : (s.cst k).drv.tripCalm = none) (hover : s.TripsOver n g) :
    CycledInCalm s ((boundaryFollows old n k g a).run
      ((boundaryDrives old n k g len a).run ((boundaryPlays n k g len l).run s))) n k g A := by
  have hplays := plays_calm (g := g) (len := len) (l := l) (A := A) hk hc htrip
  refine ⟨hplays.trans (drives_cycled (hover.of_cycled hplays)), drives_calm (hplays.cur.trans ?_) (hover.of_cycled hplays)⟩
  simpa [State.calm, hk] using hc

/-! Into Calm -/

/-- The report of an overcurrent run is a fail record and its source. -/
theorem calmReport_cycled (hk : s.core n = k) (hA : ∀ x, FailBytes n k x → A x) :
    s.Cycled ((calmReport n k).run s) n k A fun c => (c.drv.g, c.drv.tripCalm, c.drv.calm) := by
  rw [calmReport, run_ask, run_when]
  split
  · rw [run_seqs_cons, run_seqs_cons, run_seqs_cons, run_seqs_nil]
    have hdone : (modDrv k fun d => { d with ocCalm := false }).Within (fun r => r.id ∈ cycleNames) A
        (Dev.view n k FeSt.watch fun c => (c.drv.g, c.drv.tripCalm, c.drv.calm)) := within_modCore fun _ => rfl
    have hraise : (faultSource n).Within (fun r => r.id ∈ cycleNames) A
        (Dev.view n k FeSt.watch fun c => (c.drv.g, c.drv.tripCalm, c.drv.calm)) :=
      within_raise_of ((covers_self cycleNames).sub (by decide))
    have hraised := (hdone.cycled s).trans (hraise.cycled _)
    refine hraised.trans ?_
    have hrecord (u : State) (hu : u.core n = k) (stamp flags : Nat) :
        u.Agrees ((failRecord n 4 stamp 0 0 0 flags).run u) (fun r => r.id ∈ cycleNames) A (Dev.drives n k) :=
      agrees_failRecord hu hA ((covers_self cycleNames).sub (by decide))
    have hrec := hrecord _ ((hraised.core n).trans hk) (s.cst k).drv.ocStamp (if (s.cst k).drv.ocHold then 16 else 0)
    refine ⟨(hrec.mono (fun _ hr => List.mem_cons_of_mem _ hr) fun _ hx => hx).coarser ?_, hrec.fld (by simp)⟩
    exact view_coarser (fun _ _ h => congrArg Prod.snd h) fun _ _ h =>
      congrArg (fun x => (x.1.g, x.1.tripCalm, x.1.calm)) h
  · exact State.Cycled.refl s

/-- `t` is `s` once the channel has entered Calm at a boundary. -/
structure CalmTaken (s t : State) (n k : Nat) (A : Nat → Prop) : Prop where
  agrees : s.Agrees t (fun r => r.id ∈ boundaryNames) A (Dev.view n k FeSt.watch fun c => (c.drv.g, c.drv.tripCalm))
  cur : t.fld (F.FMT_MODE_CUR k) = 1
  served : (t.cst k).drv.calm = none

theorem calmAt_spec (hk : s.core n = k) (hA : ∀ x, FailBytes n k x → A x) : CalmTaken s ((calmAt n k g).run s) n k A := by
  obtain ⟨u, hu⟩ : ∃ u, (gatesTail k g).run s = u := ⟨_, rfl⟩
  obtain ⟨v, hv⟩ : ∃ v, (calmBody n k g).run u = v := ⟨_, rfl⟩
  have htail : s.Agrees u (fun r => r.id ∈ boundaryNames) A (Dev.view n k FeSt.watch CoreSt.plan) :=
    hu ▸ (within_gatesTail fun _ _ => rfl).agrees s
  have hbody : u.Agrees v (fun r => r.id ∈ boundaryNames) A (Dev.view n k FeSt.watch CoreSt.plan) :=
    hv ▸ (within_calmBody ((covers_self boundaryNames).sub (by decide))).agrees u
  have hspec : CalmEntered u v n k g := hv ▸ calmBody_spec n k g u
  have hsv := (htail.trans hbody)
  have hreport := calmReport_cycled (s := v) (n := n) (k := k) (A := A) ((hsv.fld (by simp)).trans hk) hA
  have hrun : (calmAt n k g).run s = (calmReport n k).run v := by
    rw [calmAt, run_seqs_cons, run_seqs_cons, run_seqs_nil, hu, run_enterCalm, hv]
  rw [hrun]
  refine ⟨?_, hreport.cur.trans hspec.cur, (congrArg (·.2.2) hreport.agrees.cst).trans hspec.still.1⟩
  exact (hsv.coarser (view_coarser (fun _ _ h => h) fun _ _ h => congrArg (fun x => (x.1, x.2.1)) h)).trans
    (hreport.agrees.coarser (view_coarser (fun _ _ h => h) fun _ _ h => congrArg (fun x => (x.1, x.2.1)) h))

end

end Sys2Proof.Machine

/-! Boundaries out of Calm, and forward cycles (R91, R93, R95, R143). -/
namespace Sys2Proof.Machine

/-- Of a core: what leaving Calm keeps. -/
abbrev CoreSt.resumed (c : CoreSt) : Nat × Option Nat × Nat × PlaySt :=
  (c.drv.g, c.drv.calm, c.drv.mode, { c.play with marks := 0, vec := none, substIv := false })

section
variable {α : Type} {φ : CoreSt → α} {A : Nat → Prop} {n k g len : Nat} {s t u old : State} {l : List Req} {a : Analog}

/-! A channel of its own -/

theorem leader_of_single (h : s.ganged n = false) : s.leader n = n := by
  rw [State.ganged, decide_eq_false_iff_not] at h
  rw [State.leader]
  unfold State.gang at h ⊢
  split at h <;> simp_all

theorem State.leader_congr {m : Nat} (h : t.fld (F.XBAR_GANG_MODE (m / 4)) = s.fld (F.XBAR_GANG_MODE (m / 4))) :
    t.leader m = s.leader m := by rw [State.leader, State.gang, h, State.leader, State.gang]

theorem State.Cycled.leader (h : s.Cycled t n k A φ) (m : Nat) : t.leader m = s.leader m :=
  State.leader_congr (h.agrees.fld (by simp))

/-- The mode of a channel of its own is its core's. -/
theorem modeOf_single (hk : s.core n = k) (hlead : s.leader n = n) : s.modeOf n = (s.cst k).drv.mode := by
  rw [State.modeOf, State.leadCore, hlead, hk]

/-! The leave of Calm -/

/-- A core that leaves Calm takes up its vectors, and the window in progress takes note. -/
def leaveNotes (n k g : Nat) : Prog :=
  seqs [modDrv k fun d => { d with leave := none }, rebaseVector k (divUp g 256), windowCalm n (g / 256) false]

/-- Boundary scan ends, and the leader's sequencer goes on. -/
def leaveTells (n k g : Nat) (s : State) : Prog :=
  seqs [boundaryEnds,
    when (s.leader n = n) (seqs [offerAt n 11 (divUp g 256), startStepping k (s.boundary (divUp g 256))])]

theorem run_leaveCalm : (leaveCalm n k g).run s =
    (leaveTells n k g s).run (((leaveNotes n k g).run s).setFld (F.FMT_MODE_CUR k) (s.modeOf n)) := by
  rw [leaveCalm, run_ask, leaveTells, leaveNotes]
  simp only [run_seqs_cons, run_seqs_nil, run_setF]

/-- `t` is `s` once channel `n` has left Calm. -/
structure CalmLeft (s t : State) (n k : Nat) (A : Nat → Prop) : Prop where
  agrees : s.Agrees t (fun r => r.id ∈ .SVC_STAT :: boundaryNames) A (Dev.view n k FeSt.watch CoreSt.resumed)
  cur : t.fld (F.FMT_MODE_CUR k) = s.modeOf n % 8
  leave : (t.cst k).drv.leave = none

theorem within_boundaryEnds {Q : RegKey → Prop} (hQ : Covers Q [.SVC_STAT, .IRQ_PEND, .IRQ_CNT]) :
    boundaryEnds.Within Q A (Dev.view n k FeSt.watch φ) := by
  have hraise : (raise 208).Within Q A (Dev.view n k FeSt.watch φ) := within_raise_of (hQ.sub (by decide))
  simp [boundaryEnds, boundaryRefused, jtagSelect, modJtag, hraise, hQ.reg]

theorem within_rebaseVector {Q : RegKey → Prop} {x : Nat}
    (h : ∀ c y z, φ { c with play := { c.play with substIv := y, vec := z } } = φ c) :
    (rebaseVector k x).Within Q A (Dev.view n k FeSt.watch φ) := by
  rw [rebaseVector, within_ask]
  exact fun _ => within_modCore fun c => h c _ _

theorem within_windowCalm {Q : RegKey → Prop} {x : Nat} {calm : Bool} :
    (windowCalm n x calm).Within Q A (Dev.view n k FeSt.watch φ) := within_modFe fun _ => rfl

theorem within_leaveTells (h : ∀ c x, φ { c with seq := x } = φ c) :
    (leaveTells n k g s).Within (fun r => r.id ∈ .SVC_STAT :: cycleNames) A (Dev.view n k FeSt.watch φ) := by
  simp only [leaveTells, startStepping, modSeq, within_cons, within_nil, within_when, and_true,
    within_boundaryEnds ((covers_self (.SVC_STAT :: cycleNames)).sub (by decide)), true_and]
  exact fun _ => ⟨within_offerAt h, within_modCore fun c => h c _⟩

theorem leaveCalm_spec : CalmLeft s ((leaveCalm n k g).run s) n k A := by
  have hmore : ∀ r : RegKey, r.id ∈ RegId.SVC_STAT :: cycleNames → r.id ∈ RegId.SVC_STAT :: boundaryNames :=
    fun _ h => (by decide : RegId.SVC_STAT :: cycleNames ⊆ RegId.SVC_STAT :: boundaryNames) h
  have hnotes : (leaveNotes n k g).Within (fun r => r.id ∈ RegId.SVC_STAT :: boundaryNames) A
      (Dev.view n k FeSt.watch CoreSt.resumed) := by
    simp only [leaveNotes, within_cons, within_nil, within_windowCalm, and_true]
    exact ⟨within_modCore fun _ => rfl, within_rebaseVector fun _ _ _ => rfl⟩
  have hset : (setF (F.FMT_MODE_CUR k) (s.modeOf n)).Within (fun r => r.id ∈ RegId.SVC_STAT :: boundaryNames) A
      (Dev.view n k FeSt.watch CoreSt.resumed) := within_setF.2 (by simp)
  rw [run_leaveCalm]
  refine ⟨(hnotes.agrees s).trans ((hset.agrees _).trans (((within_leaveTells fun _ _ => rfl).agrees _).mono hmore fun _ h => h)),
    ?_, ?_⟩
  · rw [((within_leaveTells (φ := fun _ => ()) (A := A) fun _ _ => rfl).agrees _).fld (by simp)]
    exact State.fld_setFld _ _ _ (fmtModeCur_ok k)
  · have htells := (within_leaveTells (n := n) (k := k) (g := g) (s := s) (φ := fun c => c.drv.leave) (A := A) fun _ _ => rfl).agrees
      (((leaveNotes n k g).run s).setFld (F.FMT_MODE_CUR k) (s.modeOf n))
    have hkept : (seqs [rebaseVector k (divUp g 256), windowCalm n (g / 256) false]).Within AnyReg A
        (Dev.view n k FeSt.watch fun c => c.drv.leave) := by
      simp only [within_cons, within_nil, within_windowCalm, and_true]
      exact within_rebaseVector fun _ _ _ => rfl
    exact htells.cst.trans ((hkept.agrees ((modDrv k fun d => { d with leave := none }).run s)).cst.trans
      (congrArg DrvSt.leave (modDrv_drv _)))

/-! What is played with nothing to play -/

/-- A core with nothing to play. -/
structure PlaySt.Idle (p : PlaySt) : Prop where
  playing : p.playing = false
  next : p.next = none
  name : p.name = none
  fresh : p.fresh = false

theorem PlaySt.idle_value (v : Int) : ({ value := v } : PlaySt).Idle := ⟨rfl, rfl, rfl, rfl⟩

theorem PlaySt.Idle.of_marks {p q : PlaySt} (h : p.Idle) (hq : { q with marks := 0 } = { p with marks := 0 }) : q.Idle :=
  ⟨(congrArg PlaySt.playing hq).trans h.playing, (congrArg PlaySt.next hq).trans h.next, (congrArg PlaySt.name hq).trans h.name,
    (congrArg PlaySt.fresh hq).trans h.fresh⟩

theorem playBoundary_idle (h : (s.cst k).play.Idle) : s.Cycled ((playBoundary n k g len).run s) n k A CoreSt.outlook := by
  cases hc : s.calm n
  · rw [run_playBoundary_idle hc h.playing h.next h.name]
    exact (setMarks_cycled k s).coarser outlook_of_outset
  · rw [run_playBoundary_calm hc]
    exact playCalm_cycled (.inr h.playing)

/-- `t` is `s` once it is known in which mode the cycle is driven. -/
structure ModeTaken (s t : State) (n k : Nat) (A : Nat → Prop) : Prop where
  agrees : s.Agrees t (fun r => r.id ∈ boundaryNames) A (Dev.view n k FeSt.watch CoreSt.outlook)
  cur : t.fld (F.FMT_MODE_CUR k) = (s.cst k).drv.mode % 8

/-- On a channel of its own, with nothing to play and no request, its mode rules. -/
theorem plays_idle (hk : s.core n = k) (hlead : s.leader n = n) (hcalm : (s.cst k).drv.calm = none) (hplay : (s.cst k).play.Idle)
    (hcur : s.calm n = true → (s.cst k).drv.mode % 8 = 1) : ModeTaken s ((boundaryPlays n k g len []).run s) n k A := by
  obtain ⟨u, hu⟩ : ∃ u, (playBoundary n k g len).run s = u := ⟨_, rfl⟩
  obtain ⟨v, hv⟩ : ∃ v, (headerRequests k []).run u = v := ⟨_, rfl⟩
  have hsu : s.Cycled u n k A CoreSt.outlook := hu ▸ playBoundary_idle hplay
  have hplayu : (u.cst k).play.Idle := hplay.of_marks (congrArg (·.2.2.2) hsu.agrees.cst)
  have hsv : s.Cycled v n k A CoreSt.outlook := hsu.trans (hv ▸ headerRequests_none hplayu.fresh)
  have hcalmu : (u.cst k).drv.calm = none := (congrArg (·.1.2.1) hsu.agrees.cst).trans hcalm
  have hrun : (boundaryPlays n k g len []).run s = (leaveVector k g).run ((useCur n k).run v) := by
    rw [boundaryPlays, run_seqs_cons, run_seqs_cons, run_seqs_cons, run_seqs_cons, run_seqs_cons, run_seqs_nil, hu, run_on,
      if_neg (by simp [hcalmu]), hv]
  have hcore : v.core n = k := (hsv.core n).trans hk
  have hmodev : v.modeOf n = (s.cst k).drv.mode := by
    rw [modeOf_single hcore ((hsv.leader n).trans hlead)]
    exact congrArg (·.2.1) hsv.agrees.cst
  have huse : (useCur n k).Within (fun r => r.id ∈ boundaryNames) A (Dev.view n k FeSt.watch CoreSt.outlook) := by
    simp [useCur]
  have hleave := (leaveVector_cycled (n := n) (k := k) (g := g) (A := A) ((useCur n k).run v)).coarser outlook_of_outset
  rw [hrun]
  refine ⟨hsv.agrees.trans ((huse.agrees v).trans hleave.agrees), hleave.cur.trans ?_⟩
  rw [useCur, run_ask, run_when]
  cases hc : v.calm n
  · rw [if_pos (by decide), run_setF, hmodev]
    exact State.fld_setFld _ _ _ (fmtModeCur_ok k)
  · rw [if_neg (by decide), hcur ((hsv.calm hk).symm.trans hc)]
    simpa [State.calm, hcore] using hc

end

end Sys2Proof.Machine

/-! The boundaries of a channel (R81 to R104, R139 to R143). -/
namespace Sys2Proof.Machine

section
variable {A : Nat → Prop} {n k g len : Nat} {s t u old : State} {a : Analog} {v : Int}

/-! Forward pulses -/

theorem LoopSt.upTo_dac (l : LoopSt) (gm c rz : Nat) (e : Int) (x : Nat) :
    (l.upTo gm c rz e x).dac = l.dac ∧ (l.upTo gm c rz e x).load = l.load ∧ (l.upTo gm c rz e x).clamped = l.clamped := by
  unfold LoopSt.upTo
  split
  · exact ⟨rfl, rfl, rfl⟩
  · exact ⟨rfl, rfl, rfl⟩

theorem State.loopUpTo_dac (s : State) (n : Nat) (l : LoopSt) (a : Analog) (x : Nat) : (s.loopUpTo n l a x).dac = l.dac ∧
    (s.loopUpTo n l a x).load = l.load ∧ (s.loopUpTo n l a x).clamped = l.clamped := l.upTo_dac _ _ _ _ _

/-- A current reference is formed from `v`: the DAC holds it, the integrator is released, and the setpoint is shown. -/
structure State.Referenced (t : State) (n k g : Nat) (v : Int) : Prop where
  dac : (t.fe n).loop.dac = v
  load : (t.fe n).loop.load = loadAt g
  clamped : (t.fe n).loop.clamped = false
  shown : t.sfld (F.LOOP_SET_S k) = v

theorem loopSetS_ok (k : Nat) : (F.LOOP_SET_S k).ok = true := (by decide +kernel : (F.LOOP_SET_S 0).ok = true)

/-- A view of a front end that shows its loop, of a program that sets no register, shows the reference. -/
theorem State.Referenced.of_agrees {α : Type} {φ : CoreSt → α} (h : s.Referenced n k g v)
    (ha : s.Agrees t (fun _ => False) A (Dev.view n k FeSt.loop φ)) : t.Referenced n k g v := by
  obtain ⟨h1, h2, h3, h4⟩ := h
  have hloop := ha.fe
  refine ⟨(congrArg LoopSt.dac hloop).trans h1, (congrArg LoopSt.load hloop).trans h2, (congrArg LoopSt.clamped hloop).trans h3, ?_⟩
  rw [State.sfld, ha.fld id]
  exact h4

theorem activeLoop_references {rev : Bool} (hlead : s.leader n = n) (hl : -131072 ≤ v) (hh : v < 131072) :
    ((activeLoop old n k g v rev a).run s).Referenced n k g v := by
  obtain ⟨u, hu⟩ : ∃ u, (loadDac n k g v).run s = u := ⟨_, rfl⟩
  have hload : (loadDac n k g v).Within (fun r => r.id = .LOOP_SET) AnyByte (Dev.view n k (fun _ => ()) fun _ => ()) :=
    within_loadDac rfl fun _ _ => rfl
  have hleadu : u.leader n = n := by
    rw [← hu, State.leader, State.gang, (hload.agrees s).fld (by simp)]
    exact hlead
  have hloop : (u.fe n).loop = { (s.fe n).loop with dac := v, load := loadAt g } := hu ▸ loadDac_loop n k g v s
  have hshown : u.sfld (F.LOOP_SET_S k) = v := by
    have hset : u.fld (F.LOOP_SET_S k) = unsigned 18 v % 2 ^ 18 := by
      rw [← hu, loadDac, run_seqs_cons, run_seqs_cons, run_seqs_nil, run_setZ]
      exact State.fld_setFld _ _ _ (loopSetS_ok k)
    have hlt : unsigned 18 v < 2 ^ 18 := by
      unfold unsigned
      omega
    rw [State.sfld, hset, Nat.mod_eq_of_lt hlt]
    exact signed_unsigned (w := 17) (by omega) (by omega)
  rw [activeLoop, run_seqs_cons, run_seqs_cons, run_seqs_nil, hu, run_on, if_pos (by simpa using hleadu), run_ask]
  dsimp only
  suffices hfinal : ∀ f : LoopSt → LoopSt, (f (u.fe n).loop).dac = v ∧ (f (u.fe n).loop).load = loadAt g ∧
      (f (u.fe n).loop).clamped = false → ((modLoop n f).run u).Referenced n k g v by
    refine hfinal _ ?_
    rw [hloop]
    dsimp only
    split
    · exact State.loopUpTo_dac ..
    · rename_i hclamped
      exact ⟨rfl, rfl, by simpa using hclamped⟩
  intro f ⟨hdac, hload, hclamped⟩
  refine ⟨?_, ?_, ?_, hshown⟩
  · rw [modLoop_loop, hdac]
  · rw [modLoop_loop, hload]
  · rw [modLoop_loop, hclamped]

/-- `t` is in a cycle that a forward pulse begins at `g`. -/
structure State.Forward (t : State) (k g : Nat) : Prop where
  run : (t.cst k).drv.run = 1
  dir : (t.cst k).drv.dir = 1
  pulse : (t.cst k).drv.pulse.any (fun q => q.fwd && decide (q.g = g)) = true
  gate : (t.cst k).drv.level 0 = 1

theorem pulseCycle_forward : ((pulseCycle k g len true false).run s).Forward k g := by
  obtain ⟨u, hu⟩ : ∃ u, (gatesTail k g).run s = u := ⟨_, rfl⟩
  have hdrv : (((pulseCycle k g len true false).run s).cst k).drv = { (u.cst k).drv.up g 0 (s.dtLH k) with
      run := 1, dir := 1, pulse := some ⟨true, g, g + max (s.blank k) (s.tonMin k), g + s.tmax k len⟩ } := by
    rw [pulseCycle, run_ask]
    dsimp only
    rw [run_seqs_cons, run_seqs_cons, run_seqs_nil, hu, modDrv_drv]
    rfl
  refine ⟨congrArg DrvSt.run hdrv, congrArg DrvSt.dir hdrv, ?_, (congrArg (DrvSt.level · 0) hdrv).trans (DrvSt.level_up_same ..)⟩
  rw [hdrv]
  simp

/-- The course shows the pulse. -/
theorem State.Forward.of_course (h : s.Forward k g) (hc : (t.cst k).course = (s.cst k).course) : t.Forward k g := by
  refine ⟨(congrArg (·.1.run) hc).trans h.run, (congrArg (·.1.dir) hc).trans h.dir, ?_, (congrArg (·.2.1.1) hc).trans h.gate⟩
  rw [(congrArg (·.1.pulse) hc : (t.cst k).drv.pulse = (s.cst k).drv.pulse)]
  exact h.pulse

/-- A positive setpoint in the forward mode begins a pulse, unless the last cycle ran in reverse. -/
theorem driveCycle_forward (hcur : s.fld (F.FMT_MODE_CUR k) = 2) (hv : (s.cst k).play.value = v) (h0 : 0 < v)
    (hdir : (s.cst k).drv.dir ≤ 1) : (driveCycle old n k g len false a).run s =
      (pulseCycle k g len true false).run ((activeLoop old n k g v false a).run s) := by
  have hcycle : (driveCycle old n k g len false a).run s = (pcmCycle old n k g len 2 false a).run s := by
    rw [driveCycle, run_ask, hcur]
    rfl
  have hturn : ¬((s.cst k).drv.dir ≠ 0 && (s.cst k).drv.dir ≠ 1) = true := by
    simp
    omega
  have hwanted : wanted 2 v = 1 := by simp [wanted, h0]
  rw [hcycle, pcmCycle, run_ask]
  dsimp only
  rw [hv, hwanted, if_neg (by decide), if_neg hturn, run_seqs_cons, run_seqs_cons, run_seqs_nil]
  rfl

/-! The command -/

theorem run_switchingCycle (hv : s.valid = true) : (progSwitchingCycle n a).run s =
    (boundaryAt n (s.core n) (s.nextBoundary (s.core n)) a).run ((advance (s.nextBoundary (s.core n) / 256)).run s) := by
  rw [progSwitchingCycle, run_ask]
  dsimp only
  rw [if_pos hv, run_seqs_cons, run_seqs_cons, run_seqs_nil]

/-- In Calm with no request a channel stays in Calm. -/
theorem boundary_stays (hk : s.core n = k) (hc : s.calm n = true) (hcalm : (s.cst k).drv.calm = none)
    (hleave : (s.cst k).drv.leave = none)
    (htrip : (s.cst k).drv.tripCalm = none) (hreqs : s.dueReqs k g = []) (hover : s.TripsOver n g) :
    let t := (boundaryAt n k g a).run s
    s.Cycled t n k A (fun _ => ()) ∧ t.Undriven n k g ∧ (t.cst k).drv.g = g := by
  obtain ⟨len, u, hopen, hrun⟩ := run_boundaryAt (A := A) n k g a s
  obtain ⟨v, hv⟩ : ∃ v, (loopStatus n k g).run u = v := ⟨_, rfl⟩
  have huv : u.Cycled v n k A CoreSt.outset := hv ▸ (within_loopStatus (covers_self _)).cycled u
  have hsv := hopen.cycled.plain.trans huv.plain
  have hcycle := cycle_calm (n := n) (k := k) (g := g) (A := A) (old := s) (len := len) (l := []) (a := a) ((hsv.core n).trans hk)
    ((hsv.calm hk).trans hc)
    ((congrArg (·.1) huv.agrees.cst).trans ((congrArg (·.1) hopen.cycled.agrees.cst).trans htrip)) (hover.of_cycled hsv)
  rw [hreqs, run_moves_stay (by rw [State.calmDue, hcalm]) (by rw [State.leaveDue, hleave]), hv] at hrun
  rw [hrun]
  exact ⟨hsv.trans hcycle.cycled.plain, hcycle.undriven, (congrArg (·.1) hcycle.cycled.agrees.cst).trans
    ((congrArg (·.2.1.1) huv.agrees.cst).trans hopen.start)⟩

/-- A Calm request that is due brings the channel into Calm. -/
theorem boundary_calms {r : Nat} (hk : s.core n = k) (hc : s.calm n = false) (hcalm : (s.cst k).drv.calm = some r)
    (hr : reaches r g = true) (htrip : (s.cst k).drv.tripCalm = none) (hover : s.TripsOver n g) (hA : ∀ x, FailBytes n k x → A x) :
    let t := (boundaryAt n k g a).run s
    s.Agrees t (fun r => r.id ∈ boundaryNames) A (Dev.view n k FeSt.watch fun _ => ()) ∧ t.calm n = true ∧ (t.cst k).drv.calm = none ∧
      t.Undriven n k g := by
  obtain ⟨len, u, hopen, hrun⟩ := run_boundaryAt (A := A) n k g a s
  obtain ⟨v, hv⟩ : ∃ v, (loopStatus n k g).run u = v := ⟨_, rfl⟩
  obtain ⟨w, hw⟩ : ∃ w, (calmAt n k g).run v = w := ⟨_, rfl⟩
  obtain ⟨x, hx⟩ : ∃ x, (modeRequests k (s.dueReqs k g)).run w = x := ⟨_, rfl⟩
  have huv : u.Cycled v n k A CoreSt.outset := hv ▸ (within_loopStatus (covers_self _)).cycled u
  have hsv := hopen.cycled.plain.trans huv.plain
  have hvw : CalmTaken v w n k A := hw ▸ calmAt_spec ((hsv.core n).trans hk) hA
  have hwx : w.Cycled x n k A fun c => (c.drv.calm, c.drv.tripCalm) := hx ▸ modeRequests_cycled (fun _ _ => rfl) w
  have hsx : s.Agrees x (fun r => r.id ∈ boundaryNames) A (Dev.view n k FeSt.watch fun _ => ()) :=
    hsv.agrees.trans (hvw.agrees.plain.trans hwx.plain.agrees)
  have hcore : x.core n = k := (hsx.fld (by simp)).trans hk
  have hxcalm : x.calm n = true := by
    rw [State.calm, hcore, hwx.cur, hvw.cur]
    rfl
  have htripx : (x.cst k).drv.tripCalm = none := (congrArg Prod.snd hwx.agrees.cst).trans ((congrArg Prod.snd hvw.agrees.cst).trans
    ((congrArg (·.1) huv.agrees.cst).trans ((congrArg (·.1) hopen.cycled.agrees.cst).trans htrip)))
  have hcycle := cycle_calm (n := n) (k := k) (g := g) (A := A) (old := s) (len := len) (l := s.dueReqs k g) (a := a) hcore
    hxcalm htripx (hover.of_fe hsx.fe)
  rw [run_moves_calm (by rw [State.calmDue, hcalm]; exact hr) hc, hv, hw, hx] at hrun
  rw [hrun]
  exact ⟨hsx.trans hcycle.cycled.plain.agrees, (hcycle.cycled.calm hcore).trans hxcalm,
    (congrArg (·.2.1) hcycle.cycled.agrees.cst).trans ((congrArg Prod.fst hwx.agrees.cst).trans hvw.served), hcycle.undriven⟩

/-- A leave request that is due takes a channel of its own, with nothing to play, into its mode. -/
theorem boundary_leaves (hk : s.core n = k) (hsingle : s.ganged n = false) (hleaves : s.leaves n k g = true)
    (hcalm : (s.cst k).drv.calm = none) (hplay : (s.cst k).play = {}) (hreqs : s.dueReqs k g = []) (hover : s.TripsOver n g) :
    let t := (boundaryAt n k g a).run s
    s.Agrees t (fun r => r.id ∈ .SVC_STAT :: boundaryNames) A (Dev.view n k FeSt.watch fun _ => ()) ∧
      t.fld (F.FMT_MODE_CUR k) = (s.cst k).drv.mode % 8 ∧ (t.cst k).drv.leave = none ∧ (t.cst k).drv.g = g := by
  obtain ⟨len, u, hopen, hrun⟩ := run_boundaryAt (A := A) n k g a s
  obtain ⟨v, hv⟩ : ∃ v, (loopStatus n k g).run u = v := ⟨_, rfl⟩
  obtain ⟨w, hw⟩ : ∃ w, (leaveCalm n k g).run v = w := ⟨_, rfl⟩
  obtain ⟨x, hx⟩ : ∃ x, (boundaryPlays n k g len []).run w = x := ⟨_, rfl⟩
  have huv : u.Cycled v n k A CoreSt.outset := hv ▸ (within_loopStatus (covers_self _)).cycled u
  have hsv := hopen.cycled.plain.trans huv.plain
  have hcore : v.core n = k := (hsv.core n).trans hk
  have hlead : v.leader n = n := (hsv.leader n).trans (leader_of_single hsingle)
  have hmode : (v.cst k).drv.mode = (s.cst k).drv.mode :=
    (congrArg (·.2.2.1) huv.agrees.cst).trans (congrArg (·.2.2.2.1) hopen.cycled.agrees.cst)
  have hidle : (v.cst k).play.Idle := (hplay ▸ PlaySt.idle_value 0 : (s.cst k).play.Idle).of_marks
    ((congrArg (·.2.2.2.2) huv.agrees.cst).trans (congrArg (·.2.2.2.2.2) hopen.cycled.agrees.cst))
  -- The channel has left Calm, and still there is nothing to play.
  have hvw : CalmLeft v w n k A := hw ▸ leaveCalm_spec
  have hresumed := hvw.agrees.cst
  have hcorew : w.core n = k := (hvw.agrees.fld (by simp)).trans hcore
  have hmodew : (w.cst k).drv.mode = (s.cst k).drv.mode := (congrArg (·.2.2.1) hresumed).trans hmode
  have hcurw : w.fld (F.FMT_MODE_CUR k) = (s.cst k).drv.mode % 8 := by rw [hvw.cur, modeOf_single hcore hlead, hmode]
  have hidlew : (w.cst k).play.Idle := ⟨(congrArg (·.2.2.2.playing) hresumed).trans hidle.playing,
    (congrArg (·.2.2.2.next) hresumed).trans hidle.next, (congrArg (·.2.2.2.name) hresumed).trans hidle.name,
    (congrArg (·.2.2.2.fresh) hresumed).trans hidle.fresh⟩
  have hcalmw : (w.cst k).drv.calm = none := (congrArg (·.2.1) hresumed).trans ((congrArg (·.2.1.2.1) huv.agrees.cst).trans
    ((congrArg (·.2.1) hopen.cycled.agrees.cst).trans hcalm))
  have hwx : ModeTaken w x n k A := hx ▸ plays_idle hcorew
    ((State.leader_congr (hvw.agrees.fld (by simp))).trans hlead) hcalmw hidlew fun h => by
      rw [hmodew, ← hcurw]
      simpa [State.calm, hcorew] using h
  have hsx : s.Agrees x (fun r => r.id ∈ .SVC_STAT :: boundaryNames) A (Dev.view n k FeSt.watch fun _ => ()) :=
    (hsv.agrees.mono (fun _ h => List.mem_cons_of_mem _ h) fun _ h => h).trans
      (hvw.agrees.plain.trans
        (hwx.agrees.plain.mono (fun _ h => List.mem_cons_of_mem _ h) fun _ h => h))
  have hdrives := drives_cycled (old := s) (k := k) (len := len) (a := a) (A := A) (hover.of_fe hsx.fe)
  rw [hreqs, run_moves_leave hleaves, hv, hw, hx] at hrun
  rw [hrun]
  refine ⟨hsx.trans (hdrives.plain.agrees.mono (fun _ h => List.mem_cons_of_mem _ h) fun _ h => h), ?_, ?_, ?_⟩
  · rw [hdrives.cur, hwx.cur, hmodew]
  · exact (congrArg (·.2.2) hdrives.agrees.cst).trans ((congrArg (·.1.2.2) hwx.agrees.cst).trans hvw.leave)
  · exact (congrArg (·.1) hdrives.agrees.cst).trans ((congrArg (·.1.1) hwx.agrees.cst).trans ((congrArg (·.1) hresumed).trans
      ((congrArg (·.2.1.1) huv.agrees.cst).trans hopen.start)))


/-- A channel of its own in the forward mode, with a positive setpoint, begins a forward pulse. -/
theorem boundary_forward (hk : s.core n = k) (hsingle : s.ganged n = false) (hc : s.calm n = false)
    (hcalm : (s.cst k).drv.calm = none) (hleave : (s.cst k).drv.leave = none) (hmode : (s.cst k).drv.mode = 2)
    (hdir : (s.cst k).drv.dir ≤ 1) (hplay : (s.cst k).play = { value := v }) (h0 : 0 < v) (hv : v < 131072)
    (hreqs : s.dueReqs k g = []) (hover : s.TripsOver n g) :
    let t := (boundaryAt n k g a).run s
    s.Agrees t (fun r => r.id ∈ boundaryNames) A (Dev.view n k FeSt.watch fun _ => ()) ∧ t.fld (F.FMT_MODE_CUR k) = 2 ∧
      t.Forward k g ∧ t.Referenced n k g v := by
  obtain ⟨len, u, hopen, hrun⟩ := run_boundaryAt (A := A) n k g a s
  obtain ⟨w, hw⟩ : ∃ w, (loopStatus n k g).run u = w := ⟨_, rfl⟩
  obtain ⟨x, hx⟩ : ∃ x, (boundaryPlays n k g len []).run w = x := ⟨_, rfl⟩
  obtain ⟨y, hy⟩ : ∃ y, (tripBoundary n k false).run x = y := ⟨_, rfl⟩
  obtain ⟨z, hz⟩ : ∃ z, (activeLoop s n k g v false a).run y = z := ⟨_, rfl⟩
  have huw : u.Cycled w n k A CoreSt.outset := hw ▸ (within_loopStatus (covers_self _)).cycled u
  have hsw := hopen.cycled.plain.trans huw.plain
  have hcore : w.core n = k := (hsw.core n).trans hk
  have hlead : w.leader n = n := (hsw.leader n).trans (leader_of_single hsingle)
  have hplayw : { (w.cst k).play with marks := 0 } = ({ value := v } : PlaySt) :=
    (congrArg (·.2.2.2.2) huw.agrees.cst).trans ((congrArg (·.2.2.2.2.2) hopen.cycled.agrees.cst).trans
      (congrArg (fun p : PlaySt => { p with marks := 0 }) hplay))
  have hcalmw : (w.cst k).drv.calm = none := (congrArg (·.2.1.2.1) huw.agrees.cst).trans
    ((congrArg (·.2.1) hopen.cycled.agrees.cst).trans hcalm)
  have hmodew : (w.cst k).drv.mode = 2 := (congrArg (·.2.2.1) huw.agrees.cst).trans
    ((congrArg (·.2.2.2.1) hopen.cycled.agrees.cst).trans hmode)
  have hdirw : (w.cst k).drv.dir = (s.cst k).drv.dir := (congrArg (·.2.2.2.1) huw.agrees.cst).trans
    (congrArg (·.2.2.2.2.1) hopen.cycled.agrees.cst)
  -- The mode is in effect, and the setpoint is as it was.
  have hwx : ModeTaken w x n k A := hx ▸ plays_idle hcore hlead hcalmw ((PlaySt.idle_value v).of_marks hplayw) fun h => by
    rw [hsw.calm hk, hc] at h
    exact absurd h (by decide)
  have hxy : x.Cycled y n k A CoreSt.outset := hy ▸ tripBoundary_cycled x
  have hcur : y.fld (F.FMT_MODE_CUR k) = 2 := by rw [hxy.cur, hwx.cur, hmodew]
  have hvalue : (y.cst k).play.value = v := (congrArg (·.2.2.2.2.value) hxy.agrees.cst).trans
    ((congrArg (·.2.2.2.value) hwx.agrees.cst).trans (congrArg PlaySt.value hplayw))
  have hdiry : (y.cst k).drv.dir = (s.cst k).drv.dir := (congrArg (·.2.2.2.1) hxy.agrees.cst).trans
    ((congrArg (·.2.2.1) hwx.agrees.cst).trans hdirw)
  have hsx : s.Agrees x (fun r => r.id ∈ boundaryNames) A (Dev.view n k FeSt.watch fun _ => ()) :=
    hsw.agrees.trans hwx.agrees.plain
  have hoverx := hover.of_fe hsx.fe
  have hdrives := drives_cycled (old := s) (k := k) (len := len) (a := a) (A := A) hoverx
  -- The gates and the loop.
  have hrefz : z.Referenced n k g v := hz ▸ activeLoop_references
    ((hxy.leader n).trans ((State.leader_congr (hwx.agrees.fld (by simp))).trans hlead)) (by omega) hv
  have hpulse := (within_pulseCycle (Q := fun _ => False) (A := AnyByte) (k := k) (m := n) (j := k) (g := g) (len := len)
    (fwd := true) (trip := false) (ψ := FeSt.loop)).agrees z
  have hdrive : (boundaryDrives s n k g len a).run x = (pulseCycle k g len true false).run z := by
    rw [run_boundaryDrives hoverx, hy, driveCycle_forward hcur hvalue h0 (hdiry.le.trans hdir), hz]
  have hoverz : ((pulseCycle k g len true false).run z).TripsOver n g := by
    rw [← hdrive, run_boundaryDrives hoverx]
    exact hoverx.of_cycled (((tripBoundary_cycled (A := A) x).coarser steady_of_outset).trans (driveCycle_cycled _))
  have hfollows := follows_agrees (old := s) (k := k) (a := a) (A := AnyByte) (Q := fun _ => False) hoverz
  rw [hreqs, run_moves_stay (by rw [State.calmDue, hcalm]) (by rw [State.leaveDue, hleave]), hw, hx] at hrun
  rw [hrun]
  refine ⟨hsx.trans hdrives.plain.agrees, by rw [hdrives.cur, hwx.cur, hmodew], ?_, ?_⟩
  · rw [hdrive]
    exact pulseCycle_forward.of_course hfollows.cst
  · rw [hdrive]
    exact (hrefz.of_agrees hpulse).of_agrees (hfollows.coarser (view_coarser (fun _ _ h => congrArg Prod.fst h) fun _ _ h => h))

end

/-- Settles O22: in Calm and into Calm by the cycle that drives nothing, out of Calm and forward by the mode that rules. -/
theorem boundariesOfAChannel : Obligations.BoundariesOfAChannel := by
  unfold Obligations.BoundariesOfAChannel
  refine ⟨?stays, ?calms, ?leaves, ?forward⟩
  case stays =>
    intro s n a ha hv hc hcalm hleave htrip hreqs hoc hov
    refine completes_awake (p := progSwitchingCycle n a) rfl ha ?_
    rw [run_switchingCycle hv]
    obtain ⟨hcycled, hundriven, hstart⟩ := boundary_stays (A := fun _ => False) (a := a) (n := n) (k := s.core n)
      (g := s.nextBoundary (s.core n)) (s := (advance (s.nextBoundary (s.core n) / 256)).run s) rfl hc hcalm hleave htrip
      hreqs ⟨hoc, hov⟩
    exact ⟨(hcycled.calm rfl).trans hc, hundriven.run, hundriven.pulse, hstart, hundriven.idle.dac, hundriven.idle.load,
      hundriven.idle.clamped, hundriven.idle.d, hcycled.agrees.now, hcycled.agrees.keepsRegs.mono (by decide),
      hcycled.agrees.keepsBytes⟩
  case calms =>
    intro s n a r ha hv hc hcalm hr htrip hoc hov
    refine completes_awake (p := progSwitchingCycle n a) rfl ha ?_
    rw [run_switchingCycle hv]
    obtain ⟨hagrees, hin, hserved, hundriven⟩ := boundary_calms (A := FailBytes n (s.core n)) (a := a) (n := n) (k := s.core n)
      (g := s.nextBoundary (s.core n)) (s := (advance (s.nextBoundary (s.core n) / 256)).run s) rfl hc hcalm hr htrip ⟨hoc, hov⟩
      fun _ h => h
    refine ⟨hin, hserved, hundriven.run, hundriven.idle.dac, hundriven.idle.clamped, hundriven.idle.d, hagrees.now,
      hagrees.keepsRegs.mono (by decide), fun x hx => hagrees.byte x fun h => ?_⟩
    have h1 := hx (failBase (s.core n), 0x20000) (by simp)
    have h2 := hx (chBlock n, 64) (by simp)
    have h3 := hx (padBase, 0x1001000) (by simp)
    dsimp only at h1 h2 h3
    unfold FailBytes InPad at h
    omega
  case leaves =>
    intro s n a r ha hv hsingle hc hparked hrun hcalm hleave hr hplay hreqs hoc hov
    refine completes_awake (p := progSwitchingCycle n a) rfl ha ?_
    rw [run_switchingCycle hv]
    have hleaves : s.leaves n (s.core n) (s.nextBoundary (s.core n)) = true := by
      simp [State.leaves, State.leaveDue, State.calmDue, hleave, hcalm, hr, hc, hparked, hrun]
    obtain ⟨hagrees, hcur, hdone, hstart⟩ := boundary_leaves (A := fun _ => False) (a := a) (n := n) (k := s.core n)
      (g := s.nextBoundary (s.core n)) (s := (advance (s.nextBoundary (s.core n) / 256)).run s) rfl hsingle hleaves hcalm hplay
      hreqs ⟨hoc, hov⟩
    exact ⟨hcur, hdone, hstart, hagrees.now, hagrees.keepsRegs.mono (by decide), hagrees.keepsBytes⟩
  case forward =>
    intro s n a v ha hv hsingle hc hcalm hleave hmode hdir hplay h0 hmax hreqs hoc hov
    refine completes_awake (p := progSwitchingCycle n a) rfl ha ?_
    rw [run_switchingCycle hv]
    obtain ⟨hagrees, hcur, hforward, href⟩ := boundary_forward (A := fun _ => False) (a := a) (n := n) (k := s.core n) (v := v)
      (g := s.nextBoundary (s.core n)) (s := (advance (s.nextBoundary (s.core n) / 256)).run s) rfl hsingle hc hcalm hleave hmode
      hdir hplay h0 hmax hreqs ⟨hoc, hov⟩
    exact ⟨hforward.run, hforward.dir, hforward.pulse, hforward.gate, href.shown, href.dac, href.load, href.clamped, hcur,
      hagrees.now, hagrees.keepsRegs.mono (by decide), hagrees.keepsBytes⟩

end Sys2Proof.Machine

/-! The channel block of the retention RAM (Table 15.5, R190, R505, R506): what its reader can change, and what the accumulator reads
after it has been written. -/
namespace Sys2Proof.Machine

section
variable {γ : Type} {π : Dev → γ} {Q : RegKey → Prop} {A : Nat → Prop} {n : Nat} {s t : State} {z : Int}

/-- `π` looks neither at the bus nor at the interrupts. -/
def Blind (π : Dev → γ) : Prop := ∀ d b i, π { d with bus := b, irq := i } = π d

/-- The registers that a reader of a channel block can change. -/
abbrev readNames : List RegId := [.MEM_ECCCNT, .MEM_ECCA_LO, .MEM_ECCA_HI, .PWR_LOST, .IRQ_PEND, .IRQ_CNT]

/-- The bytes that the marking of a lost word of a channel block changes: its flags, its fail count and its write index (R506). -/
def MarkBytes (n x : Nat) : Prop := x = chBlock n + 12 ∨ (chBlock n + 40 ≤ x ∧ x < chBlock n + 46)

/-- The bytes of a channel block. -/
def BlockBytes (n x : Nat) : Prop := chBlock n ≤ x ∧ x < chBlock n + 64

theorem MarkBytes.block {x : Nat} (h : MarkBytes n x) : BlockBytes n x := by
  unfold MarkBytes at h
  unfold BlockBytes
  omega

/-! The reader -/

theorem within_bus {f : Dev → BusSt} (h : Blind π) : (dev fun d => { d with bus := f d }).Within Q A π :=
  within_dev fun d => h d (f d) d.irq

theorem within_irq {f : Dev → IrqSt} (h : Blind π) : (dev fun d => { d with irq := f d }).Within Q A π :=
  within_dev fun d => h d d.bus (f d)

theorem within_raise_blind {i : Nat} (h : Blind π) (hQ : Covers Q [.IRQ_PEND, .IRQ_CNT]) : (raise i).Within Q A π := by
  have hp : Q (pendField i).reg := hQ _ (by simp)
  have hc : Q (cntField i).reg := hQ _ (by simp)
  rw [raise, within_ask]
  intro s
  split
  · exact within_done
  split
  · exact within_when.2 fun _ => within_irq h
  · simp [event, timerSet, makePending, within_irq h, hp, hc]

theorem within_eccRecord_blind {key : Nat} {x : EccErr} (h : Blind π) (hQ : Covers Q readNames) :
    (eccRecord key x).Within Q A π := by
  have hreg {r : RegKey} (hr : r.id ∈ readNames) : Q r := hQ r hr
  have hcount : (if x.ue then count F.MEM_ECCCNT_UE else count F.MEM_ECCCNT_CE).Within Q A π := by
    split <;> exact within_count.2 (hreg (by decide))
  simp [eccRecord, hcount, hreg, within_raise_blind h (hQ.sub (by decide))]

theorem within_eccWritten_blind {a w : Nat} (h : Blind π) : (eccWritten a w).Within Q A π := within_bus h

/-- A word of a channel block that reads as uncorrectable is marked in that block (R506). A word that begins in the last eight bytes
before the block marks nothing. -/
theorem within_retentionBad_block {a : Nat} (h : Blind π) (ha : chBlock n < a + 8 ∧ a < chBlock n + 64)
    (hA : ∀ x, MarkBytes n x → A x) (hQ : Covers Q readNames) : (retentionBad a).Within Q A π := by
  have hflags (v : Nat) : (putNum (chBlock n + 12) 1 v).Within Q A π :=
    within_putBytes fun i hi => hA _ (.inl (by rw [length_natLE] at hi; omega))
  have hfails (v : Nat) : (putNum (chBlock n + 40) 6 v).Within Q A π :=
    within_putBytes fun i hi => hA _ (.inr (by rw [length_natLE] at hi; omega))
  rw [retentionBad, within_when]
  intro hin
  simp only [Bool.and_eq_true, decide_eq_true_eq] at hin
  rw [within_ask]
  intro s
  simp only [within_cons, within_nil, within_setB, and_true]
  refine ⟨hQ _ (by decide), within_raise_blind h (hQ.sub (by decide)), ?_⟩
  have hplace : (a - retBase - 0x100) / 64 = n ∨ 56 ≤ (a - retBase - 0x100) % 64 := by
    unfold chBlock at ha
    omega
  rcases hplace with hn | ho
  · rw [hn]
    split
    · simp [hflags, within_eccWritten_blind h]
    split
    · simp [hflags, hfails, within_eccWritten_blind h]
    · exact within_done
  · rw [if_neg (by simp; omega), if_neg (by omega)]
    exact within_done

theorem eccSize_le (a : Nat) : eccSize a ≤ 12 := by
  unfold eccSize
  split
  · decide
  · split <;> decide

/-- The words of the retention RAM have 64 bits. -/
theorem eccSize_retention {a : Nat} (h : retBase ≤ a) : eccSize a = 8 := by
  have : ctlBase + 0x80000 ≤ retBase := by decide
  unfold eccSize
  rw [if_neg (by simp; omega), if_neg (by simp; omega)]

/-- The reader of words of a channel block records the errors that it meets, and marks the lost ones (R419, R506). -/
theorem within_eccRead_block {o w : Nat} (how : o + w ≤ 64) (h : Blind π) (hA : ∀ x, MarkBytes n x → A x)
    (hQ : Covers Q readNames) : (eccRead (chBlock n + o) w).Within Q A π := by
  rw [eccRead, within_ask]
  intro s
  rw [within_each]
  intro e he
  have hhit := (List.mem_filter.1 he).2
  simp only [eccHit, Bool.and_eq_true, decide_eq_true_eq] at hhit
  obtain ⟨⟨hcopy, hbelow⟩, habove⟩ := hhit
  have hkey : chBlock n < e.1 + 8 ∧ e.1 < chBlock n + 64 := by
    rw [show e.1 % 2 ^ 40 = e.1 by omega] at hbelow habove
    have hsize := eccSize_le e.1
    rw [eccSize_retention (by unfold chBlock at habove; omega)] at habove
    omega
  simp only [within_cons, within_nil, within_when, and_true]
  exact ⟨within_eccRecord_blind h hQ, fun _ => within_retentionBad_block h hkey hA hQ, fun _ => within_bus h⟩

theorem within_chargeRead (h : Blind π) (hA : ∀ x, MarkBytes n x → A x) (hQ : Covers Q readNames) :
    (chargeRead n).Within Q A π := by
  simp only [chargeRead, within_cons, within_nil, and_true]
  exact ⟨within_eccRead_block (o := 0) (by decide) h hA hQ, within_eccRead_block (by decide) h hA hQ,
    within_eccRead_block (by decide) h hA hQ⟩

/-- Line Time, what front ends hold, and the values in effect. -/
abbrev Dev.meters (d : Dev) : LtSt × Table FeSt × List (RegKey × Word) := (d.lt, d.fes, d.eff)

/-- What front end `n` holds is read from the meters. -/
theorem State.Agrees.meteredFe (h : s.Agrees t Q A Dev.meters) (n : Nat) : t.fe n = s.fe n := by
  rw [State.fe, show t.dev.fes = s.dev.fes from congrArg (·.2.1) h.view, State.fe]

/-- What a reader of a channel block leaves: its registers and marks apart, everything that charge is formed from. -/
theorem chargeRead_agrees (n : Nat) (s : State) :
    s.Agrees ((chargeRead n).run s) (fun k => k.id ∈ readNames) (MarkBytes n) Dev.meters :=
  (within_chargeRead (fun _ _ _ => rfl) (fun _ h => h) (covers_self _)).agrees s

/-- The data path writes bytes of a memory. -/
theorem within_dpWrite_blind {a : Nat} {bs : List Byte} (h : Blind π) (hA : ∀ i < bs.length, A (a + i)) :
    (dpWrite a bs).Within Q A π := by
  simp only [dpWrite, within_cons, within_nil, and_true]
  exact ⟨within_putBytes hA, within_eccWritten_blind h⟩

/-! The accumulator -/

/-- The accumulator is read from the first 12 bytes of the channel block. -/
theorem acc_congr (h : ∀ i < 12, t.byte (chBlock n + i) = s.byte (chBlock n + i)) : t.acc n = s.acc n := by
  rw [State.acc, State.acc, State.num_congr (t := t) fun i hi => h i (by omega), State.num_congr (t := t) fun i hi => ?_]
  rw [Nat.add_assoc]
  exact h (8 + i) (by omega)

theorem within_putAcc (h : Blind π) (hA : ∀ x, chBlock n ≤ x ∧ x < chBlock n + 12 → A x) : (putAcc n z).Within Q A π := by
  simp only [putAcc, within_cons, within_nil, and_true]
  refine ⟨within_putBytes fun i hi => hA _ ?_, within_putBytes fun i hi => hA _ ?_, within_eccWritten_blind h⟩ <;>
    rw [length_natLE] at hi <;> omega

theorem within_setAcc (h : Blind π) (hA : ∀ x, chBlock n ≤ x ∧ x < chBlock n + 12 → A x) (hQ : Q (R.FPKT_STAT n)) :
    (setAcc n z).Within Q A π := by
  unfold setAcc
  dsimp only
  split
  · simp [within_putAcc h hA, hQ]
  split
  · simp [within_putAcc h hA, hQ]
  · exact within_putAcc h hA

/-- Within its limits the accumulator takes its value, and nothing is set (R190). -/
theorem setAcc_of_range (hl : -(2 ^ 95) ≤ z) (hh : z < 2 ^ 95) : setAcc n z = putAcc n z := by
  unfold setAcc
  dsimp only
  rw [if_neg (by omega), if_neg (by omega)]

/-- The accumulator reads as it was written, where 64 bits and a fraction hold it. -/
theorem acc_putAcc (hwf : Memory.wf s.losses s.mem = true) (hl : -(2 ^ 95) ≤ z) (hh : z < 2 ^ 95) :
    ((putAcc n z).run s).acc n = z := by
  have hint : signed 64 (unsigned 64 (z / 4294967296)) = z / 4294967296 := signed_unsigned (w := 63) (by omega) (by omega)
  have hlow : unsigned 64 (z / 4294967296) % 256 ^ 8 = unsigned 64 (z / 4294967296) := by
    unfold unsigned
    omega
  have hfrac : ((unsigned 32 z % 256 ^ 4 : Nat) : Int) = z % 4294967296 := by
    unfold unsigned
    omega
  generalize hu : (putNum (chBlock n) 8 (unsigned 64 (z / 4294967296))).run s = u
  have hwfu : Memory.wf u.losses u.mem = true := hu ▸ run_wf _ _ hwf
  have hfst : ((putNum (chBlock n + 8) 4 (unsigned 32 z)).run u).num (chBlock n) 8 = unsigned 64 (z / 4294967296) :=
    (State.num_congr fun i hi => byte_putBytes_other _ _ _ _ (by omega)).trans (by rw [← hu, num_putNum hwf, hlow])
  rw [putAcc, run_seqs_cons, run_seqs_cons, run_seqs_cons, run_seqs_nil, hu]
  show signed 64 (((putNum (chBlock n + 8) 4 (unsigned 32 z)).run u).num (chBlock n) 8) * 4294967296 +
    (((putNum (chBlock n + 8) 4 (unsigned 32 z)).run u).num (chBlock n + 8) 4 : Nat) = z
  rw [hfst, num_putNum hwfu, hint, hfrac]
  omega

end

end Sys2Proof.Machine

/-! Charge packets (R186 to R192): QP that comes into use, and a packet that is counted. -/
namespace Sys2Proof.Machine

section
variable {Q : RegKey → Prop} {A : Nat → Prop} {n : Nat} {s : State} {neg : Bool} {x t : Nat}

/-! What stays beside registers and memories -/

/-- Line Time, the values in effect, and of front end `n` the packet in progress and the crossings that wait for its end. -/
abbrev Dev.packets (n : Nat) (d : Dev) : LtSt × List (RegKey × Word) × Option Nat × Nat :=
  (d.lt, d.eff, (d.fes.get {} n).packetEnd, (d.fes.get {} n).queued)

theorem blind_packets (n : Nat) : Blind (Dev.packets n) := fun _ _ _ => rfl

theorem State.Agrees.packetEnd {t : State} (h : s.Agrees t Q A (Dev.packets n)) : (t.fe n).packetEnd = (s.fe n).packetEnd :=
  congrArg (·.2.2.1) h.view

theorem State.Agrees.queued {t : State} (h : s.Agrees t Q A (Dev.packets n)) : (t.fe n).queued = (s.fe n).queued :=
  congrArg (·.2.2.2) h.view

/-- A front end takes the change that is made to it. -/
theorem modFe_fe (f : FeSt → FeSt) (s : State) : ((modFe n f).run s).fe n = f (s.fe n) := by simp [modFe, State.fe]

/-- A change of a front end that leaves its packets. -/
theorem within_modFe_packets {g : FeSt → FeSt} (hg : ∀ f, (g f).packetEnd = f.packetEnd ∧ (g f).queued = f.queued) :
    (modFe n g).Within Q A (Dev.packets n) :=
  within_dev fun d => by simp [Dev.packets, hg]

theorem within_keepCharge : (keepCharge n t).Within Q A (Dev.packets n) := by
  rw [keepCharge, within_ask]
  exact fun _ => within_modFe_packets fun _ => ⟨rfl, rfl⟩

/-! QP -/

/-- QP that comes into use is read from its registers and from the channel block (R188). -/
theorem within_useQp {q : Nat} (hQ : Q (R.FPKT_QP_LO n) ∧ Q (R.FPKT_QP_HI n))
    (hA : ∀ x, chBlock n + 48 ≤ x ∧ x < chBlock n + 56 → A x) : (useQp n t q).Within Q A (Dev.packets n) := by
  have hmem : (dpWrite (chBlock n + 48) (natLE 8 q)).Within Q A (Dev.packets n) :=
    within_dpWrite_blind (blind_packets n) fun i hi => hA _ (by rw [length_natLE] at hi; omega)
  simp only [useQp, within_ask, within_cons, within_nil, within_set64, within_keepCharge, hmem, hQ, and_true, true_and]
  exact fun _ => within_modFe_packets fun _ => ⟨rfl, rfl⟩

theorem within_settleQp (hQ : Q (R.FPKT_QP_LO n) ∧ Q (R.FPKT_QP_HI n))
    (hA : ∀ x, chBlock n + 48 ≤ x ∧ x < chBlock n + 56 → A x) : (settleQp n t).Within Q A (Dev.packets n) := by
  rw [settleQp, within_ask]
  intro s
  split
  · exact within_when.2 fun _ => within_useQp hQ hA
  · exact within_done

/-- No QP waits for a boundary: none comes into use. -/
theorem run_settleQp_none (h : (s.fe n).qpNext = none ∨ (s.fe n).qpFrom = none) : (settleQp n t).run s = s := by
  rw [settleQp, run_ask]
  split
  · rename_i q b hq hb
    rcases h with h | h
    · simp [h] at hq
    · simp [h] at hb
  · rfl

/-! A packet that is counted -/

theorem modFe_acc (m : Nat) (f : FeSt → FeSt) : ((modFe m f).run s).acc n = s.acc n := rfl

/-- A string that the data path writes changes no byte outside it. -/
theorem dpWrite_byte_other {a y : Nat} {l : List Byte} (h : y < a ∨ a + l.length ≤ y) : ((dpWrite a l).run s).byte y = s.byte y := by
  rw [dpWrite, run_seqs_cons]
  exact byte_putBytes_other l a y s h

/-- The sum that the accumulator takes with a packet (R190). -/
def State.packetSum (s : State) (n : Nat) (neg : Bool) : Int := s.acc n + (if neg then -1 else 1) * ((s.fe n).qp : Int)

/-- A packet whose crossing is stamped `x` is added to the accumulator that is read from `s`. -/
def packetAdded (n x : Nat) (neg : Bool) (s : State) : Prog :=
  seqs [keepCharge n (x + 1), setAcc n (s.packetSum n neg), modFe n fun f => { f with counted := (x, neg) :: f.counted.take 1 },
    dpWrite (chBlock n + 24) (natLE 8 (stampWord x neg) ++ s.bytes (chBlock n + 24) 8)]

theorem run_countPacket : (countPacket n x neg).run s =
    (packetAdded n x neg ((chargeRead n).run s)).run ((chargeRead n).run s) := by
  rw [countPacket, run_seqs_cons, run_seqs_cons, run_seqs_nil, run_ask]
  rfl

/-- A packet changes the stamps of the channel block beside the accumulator. -/
theorem within_packetAdded (hset : (setAcc n (s.packetSum n neg)).Within Q A (Dev.packets n))
    (hA : ∀ x, chBlock n + 24 ≤ x ∧ x < chBlock n + 40 → A x) : (packetAdded n x neg s).Within Q A (Dev.packets n) := by
  have hstamps : (dpWrite (chBlock n + 24) (natLE 8 (stampWord x neg) ++ s.bytes (chBlock n + 24) 8)).Within Q A
      (Dev.packets n) := within_dpWrite_blind (blind_packets n) fun i hi => hA _ (by
    simp only [List.length_append, length_natLE, State.bytes, List.length_map, List.length_range] at hi
    omega)
  simp only [packetAdded, within_cons, within_nil, within_keepCharge, hset, hstamps, and_true, true_and]
  exact within_modFe_packets fun _ => ⟨rfl, rfl⟩

/-- A packet of any sum: the accumulator may saturate. -/
theorem within_countPacket (hread : Covers Q readNames) (hQ : Q (R.FPKT_STAT n)) (hA : ∀ x, BlockBytes n x → A x) :
    (countPacket n x neg).Within Q A (Dev.packets n) := by
  rw [countPacket, within_cons, within_cons, within_ask]
  refine ⟨within_chargeRead (blind_packets n) (fun x hx => hA x hx.block) hread, fun s => ?_, within_nil⟩
  refine within_packetAdded (within_setAcc (blind_packets n) (fun x hx => hA x ?_) hQ) fun x hx => hA x ?_ <;>
    unfold BlockBytes <;> omega

/-- What a packet leaves in the front end and in the accumulator, where the accumulator can hold the sum. -/
theorem packetAdded_counts (hwf : Memory.wf s.losses s.mem = true) (hl : -(2 ^ 95) ≤ s.packetSum n neg)
    (hh : s.packetSum n neg < 2 ^ 95) : ((packetAdded n x neg s).run s).acc n = s.packetSum n neg ∧
      (((packetAdded n x neg s).run s).fe n).counted = (x, neg) :: (s.fe n).counted.take 1 := by
  have hput (z : Int) (u : State) : ((putAcc n z).run u).fe n = u.fe n :=
    ((within_putAcc (Q := AnyReg) (A := AnyByte) (π := Dev.meters) (fun _ _ _ => rfl) fun _ _ => trivial).agrees u).meteredFe n
  have hmem (a : Nat) (l : List Byte) (u : State) : ((dpWrite a l).run u).fe n = u.fe n :=
    ((within_dpWrite_blind (Q := AnyReg) (A := AnyByte) (π := Dev.meters) (fun _ _ _ => rfl) fun _ _ => trivial).agrees
      u).meteredFe n
  rw [packetAdded, setAcc_of_range hl hh]
  simp only [run_seqs_cons, run_seqs_nil]
  constructor
  · refine (acc_congr fun i hi => dpWrite_byte_other (.inl (by omega))).trans ?_
    rw [modFe_acc]
    exact acc_putAcc (run_wf _ _ hwf) hl hh
  · rw [hmem, modFe_fe, hput, keepCharge, run_ask, modFe_fe]

/-- `t` is `s` after a packet stamped `x` has been counted that the accumulator can hold. -/
structure PacketCounted (s t : State) (n x : Nat) (neg : Bool) : Prop where
  acc : t.acc n = s.packetSum n neg
  counted : (t.fe n).counted = (x, neg) :: (s.fe n).counted.take 1
  agrees : s.Agrees t (fun k => k.id ∈ readNames) (BlockBytes n) (Dev.packets n)

theorem countPacket_counted (hwf : Memory.wf s.losses s.mem = true) (hl : -(2 ^ 95) ≤ s.packetSum n neg)
    (hh : s.packetSum n neg < 2 ^ 95) : PacketCounted s ((countPacket n x neg).run s) n x neg := by
  have hread := chargeRead_agrees n s
  have hreadPackets := (within_chargeRead (n := n) (blind_packets n) (fun _ h => h.block) (covers_self readNames)).agrees s
  have hwfu := run_wf (chargeRead n) s hwf
  rw [run_countPacket]
  generalize (chargeRead n).run s = u at hread hreadPackets hwfu ⊢
  have hacc : u.acc n = s.acc n := acc_congr fun i hi => hread.byte _ (by unfold MarkBytes; omega)
  have hsum : u.packetSum n neg = s.packetSum n neg := by rw [State.packetSum, hacc, hread.meteredFe, State.packetSum]
  rw [← hsum] at hl hh
  obtain ⟨hadd, hcounted⟩ := packetAdded_counts (x := x) hwfu hl hh
  refine ⟨hadd.trans hsum, by rw [hcounted, hread.meteredFe], hreadPackets.trans (Prog.Within.agrees ?_ u)⟩
  refine within_packetAdded ?_ fun x hx => by unfold BlockBytes; omega
  rw [setAcc_of_range hl hh]
  exact within_putAcc (blind_packets n) fun x hx => by unfold BlockBytes; omega

end

end Sys2Proof.Machine

/-! The crossing of the integrator in its parts (R186, R190, R192, R195). -/
namespace Sys2Proof.Machine

section
variable {α β : Type} {ψ : FeSt → β} {φ : CoreSt → α} {Q : RegKey → Prop} {A : Nat → Prop} {P : State → Prop}
variable {m j n x raw : Nat} {s : State} {neg : Bool}

/-- A command of the packet counters does what its program does while they count (R500). -/
theorem completes_counting {c : Instr} {p : Prog} (hc : exec c s = effect (counting p) s) (hhib : s.dev.rst.hib < 2)
    (hpor : s.dev.rst.por = 0) (hP : P (p.run s)) : Completes c s P := by
  refine ⟨_, hc, ?_⟩
  rwa [counting, run_on, if_pos (by simp [hhib, hpor])]

/-- The instant of a crossing has come that is stamped `x`, and QP is the one in use at that instant. -/
def crossingComes (n x : Nat) : Prog := seqs [advance (x / 256), settleQp n (x / 256)]

/-- The packet of a crossing begins, or waits for the end of the packet in progress. -/
def packetBegins (n x : Nat) (s : State) : Prog :=
  if (s.fe n).packetEnd.isSome then modFe n fun f => { f with queued := f.queued + 1 }
  else modFe n fun f => { f with packetEnd := some (divUp x 256 + 2 + s.packetWidth n) }

/-- One packet more in the asynchronous counter of its sign. -/
def FeSt.countAsync (f : FeSt) (neg : Bool) : FeSt :=
  if neg then { f with negAsync := f.negAsync + 1 } else { f with posAsync := f.posAsync + 1 }

/-- The packet is counted in the accumulator, or in the asynchronous counters. -/
def packetTallied (n x : Nat) (neg : Bool) (s : State) : Prog :=
  if s.away then modFe n (·.countAsync neg) else countPacket n x neg

theorem packetBegins_idle (h : (s.fe n).packetEnd = none) : packetBegins n x s =
    modFe n fun f => { f with packetEnd := some (divUp x 256 + 2 + s.packetWidth n) } := by
  rw [packetBegins, h]
  rfl

theorem packetBegins_waits {e : Nat} (h : (s.fe n).packetEnd = some e) :
    packetBegins n x s = modFe n fun f => { f with queued := f.queued + 1 } := by
  rw [packetBegins, h]
  rfl

theorem packetTallied_away (h : s.away = true) : packetTallied n x neg s = modFe n (·.countAsync neg) := if_pos h

theorem packetTallied_locked (h : s.away = false) : packetTallied n x neg s = countPacket n x neg := if_neg (by simp [h])

theorem packetWidth_away (h : s.away = true) : s.packetWidth n = 30 * divUp (s.fe n).width 30 := if_pos h

theorem packetWidth_locked (h : s.away = false) : s.packetWidth n = (s.fe n).width := if_neg (by simp [h])

/-- What a crossing stamped `x` does, as the state tells when it has come: its packet, its count and its stamp entry. -/
def crossingActs (n x : Nat) (neg : Bool) (s : State) : Prog :=
  seqs [packetBegins n x s, packetTallied n x neg s, stampEntry n x neg]

theorem run_packetCrossing : (progPacketCrossing n raw neg).run s =
    (crossingActs n (s.stampTime raw) neg ((crossingComes n (s.stampTime raw)).run s)).run
      ((crossingComes n (s.stampTime raw)).run s) := by
  rw [progPacketCrossing, run_ask]
  simp only [crossingComes, crossingActs, run_seqs_cons, run_seqs_nil, run_ask]
  rfl

/-- Without a QP that waits, only Line Time goes on. -/
theorem run_crossingComes (h : (s.fe n).qpNext = none) : (crossingComes n x).run s = (advance (x / 256)).run s := by
  rw [crossingComes, run_seqs_cons, run_seqs_cons, run_seqs_nil]
  exact run_settleQp_none (.inl h)

/-- A core that streams no stamps takes no stamp entry. -/
theorem run_stampEntry_off (h : s.effFld (F.PKT_STREAM_DIV (s.core n)) = 0) : (stampEntry n x neg).run s = s := by
  rw [stampEntry, run_ask]
  simp only [h, if_true, run_done]

/-- An entry that a ring may drop keeps Line Time and what front ends and cores hold. -/
theorem keeps_ringOffer_count (r typ : Nat) (bytes : List Byte) (f : Field) :
    (ringOffer r typ bytes (count f)).Within AnyReg AnyByte (Dev.view m j ψ φ) := by
  have hdrop : (count f).Within AnyReg AnyByte (Dev.view m j ψ φ) := within_count.2 trivial
  rw [ringOffer, within_ask]
  intro s
  dsimp only
  split
  · exact hdrop
  split
  · simp [hdrop, AnyReg]
  split
  · exact hdrop
  · simp [keeps_engineWrite, modRing, ringCopies, ringIrq, keeps_raise]

/-- A stamp entry changes the ring of its stream and the count of dropped entries. -/
theorem within_stampEntry (h : Covers Q (.PKT_DROP :: ringNames)) (hA : ∀ x, InPad x → A x) :
    (stampEntry n x neg).Within Q A (Dev.view m j ψ fun _ => ()) := by
  have hring : Covers Q ringNames := h.sub (by simp)
  have hdiv (k d : Nat) : (modCore k fun c => { c with div := d }).Within Q A (Dev.view m j ψ fun _ => ()) :=
    within_modCore fun _ => rfl
  have hoffer (r k : Nat) (bytes : List Byte) :
      (ringOffer r 1 bytes (count (F.PKT_DROP_DROP k))).Within Q A (Dev.view m j ψ fun _ => ()) :=
    ⟨only_mono (fun _ hk => hk) hA (records_ringOffer r 1 bytes (records_count (h _ (by simp))) records_done hring).only,
      (keeps_ringOffer_count r 1 bytes _).keeps⟩
  rw [stampEntry, within_ask]
  intro s
  dsimp only
  split
  · exact within_done
  split
  · simp only [within_cons, within_nil, hoffer, hdiv, and_self]
  · exact within_modCore fun _ => rfl

/-- The crossing during a packet waits; whatever it is counted in, the packet in progress goes on. -/
theorem within_packetTallied (hread : Covers Q readNames) (hQ : Q (R.FPKT_STAT n)) (hA : ∀ x, BlockBytes n x → A x) :
    (packetTallied n x neg s).Within Q A (Dev.packets n) := by
  unfold packetTallied
  split
  · exact within_modFe_packets fun f => by unfold FeSt.countAsync; split <;> exact ⟨rfl, rfl⟩
  · exact within_countPacket hread hQ hA

/-- A packet that begins leaves what the accumulator takes. -/
theorem packetSum_modFe {f : FeSt → FeSt} (h : ∀ y, (f y).qp = y.qp) : ((modFe n f).run s).packetSum n neg = s.packetSum n neg := by
  rw [State.packetSum, modFe_acc, modFe_fe, h, State.packetSum]

/-- With Line Time on its own clock, a crossing while no packet is in progress begins its packet, which is counted. -/
theorem crossingActs_counted (hwf : Memory.wf s.losses s.mem = true) (haway : s.away = false)
    (hdiv : s.effFld (F.PKT_STREAM_DIV (s.core n)) = 0) (hend : (s.fe n).packetEnd = none) (hl : -(2 ^ 95) ≤ s.packetSum n neg)
    (hh : s.packetSum n neg < 2 ^ 95) :
    let t := (crossingActs n x neg s).run s
    t.acc n = s.packetSum n neg ∧ (t.fe n).counted = (x, neg) :: (s.fe n).counted.take 1 ∧
      (t.fe n).packetEnd = some (divUp x 256 + 2 + (s.fe n).width) ∧
      s.Agrees t (fun k => k.id ∈ readNames) (BlockBytes n) fun d => d.lt := by
  simp only [crossingActs, run_seqs_cons, run_seqs_nil]
  rw [packetBegins_idle hend, packetTallied_locked haway, packetWidth_locked haway]
  generalize hv : (modFe n fun f => { f with packetEnd := some (divUp x 256 + 2 + (s.fe n).width) }).run s = v
  have hfe : v.fe n = { s.fe n with packetEnd := some (divUp x 256 + 2 + (s.fe n).width) } := by rw [← hv, modFe_fe]
  have hsum : v.packetSum n neg = s.packetSum n neg := hv ▸ packetSum_modFe fun _ => rfl
  have hsv : s.Agrees v (fun k => k.id ∈ readNames) (BlockBytes n) fun d => d.lt := by
    rw [← hv]
    exact (within_dev fun _ => rfl : (modFe n _).Within _ _ _).agrees s
  have hwfv : Memory.wf v.losses v.mem = true := by
    rw [← hv]
    exact run_wf _ _ hwf
  rw [← hsum] at hl hh
  have hcount := countPacket_counted (x := x) hwfv hl hh
  generalize (countPacket n x neg).run v = w at hcount ⊢
  have hoff : w.effFld (F.PKT_STREAM_DIV (w.core n)) = 0 := by
    have heff : w.dev.eff = v.dev.eff := congrArg (·.2.1) hcount.agrees.view
    rw [State.effFld, State.effReg, heff, State.core, hcount.agrees.fld (by simp), ← hv]
    exact hdiv
  rw [run_stampEntry_off hoff]
  refine ⟨hcount.acc.trans hsum, by rw [hcount.counted, hfe], by rw [hcount.agrees.packetEnd, hfe], hsv.trans ?_⟩
  exact hcount.agrees.coarser fun _ _ h => congrArg (·.1) h

/-- In a holdover without lock, its packet is counted in the asynchronous counter of its sign. -/
theorem crossingActs_async (haway : s.away = true) (hdiv : s.effFld (F.PKT_STREAM_DIV (s.core n)) = 0)
    (hend : (s.fe n).packetEnd = none) : (crossingActs n x neg s).run s = (modFe n (·.countAsync neg)).run
      ((modFe n fun f => { f with packetEnd := some (divUp x 256 + 2 + 30 * divUp (s.fe n).width 30) }).run s) := by
  simp only [crossingActs, run_seqs_cons, run_seqs_nil]
  rw [packetBegins_idle hend, packetTallied_away haway, packetWidth_away haway]
  exact run_stampEntry_off hdiv

/-- The registers that a crossing can change while a packet is in progress. -/
abbrev crossingNames : List RegId := [.FPKT_STAT, .FPKT_QP_LO, .FPKT_QP_HI, .PKT_DROP, .RING_STAT, .MEM_ECCCNT, .MEM_ECCA_LO,
  .MEM_ECCA_HI, .PWR_LOST, .IRQ_PEND, .IRQ_CNT]

/-- A crossing while a packet is in progress waits for its end, whatever it is counted in. -/
theorem crossingActs_waits {e : Nat} (hend : (s.fe n).packetEnd = some e) :
    let t := (crossingActs n x neg s).run s
    (t.fe n).packetEnd = some e ∧ (t.fe n).queued = (s.fe n).queued + 1 ∧
      s.Agrees t (fun k => k.id ∈ crossingNames) (fun y => BlockBytes n y ∨ InPad y) fun _ => () := by
  have hnames {l : List RegId} (h : l ⊆ crossingNames) : Covers (fun k => k.id ∈ crossingNames) l := (covers_self _).sub h
  have htallied := within_packetTallied (n := n) (x := x) (neg := neg) (s := s) (hnames (by decide)) (by simp) fun y hy =>
    (.inl hy : BlockBytes n y ∨ InPad y)
  have hentry := within_stampEntry (n := n) (x := x) (neg := neg) (m := n) (j := 0) (ψ := fun f => (f.packetEnd, f.queued))
    (hnames (by decide)) fun y hy => (.inr hy : BlockBytes n y ∨ InPad y)
  simp only [crossingActs, run_seqs_cons, run_seqs_nil]
  rw [packetBegins_waits hend]
  generalize hv : (modFe n fun f => { f with queued := f.queued + 1 }).run s = v
  have hfe : v.fe n = { s.fe n with queued := (s.fe n).queued + 1 } := by rw [← hv, modFe_fe]
  have hsv : s.Agrees v (fun k => k.id ∈ crossingNames) (fun y => BlockBytes n y ∨ InPad y) fun _ => () := by
    rw [← hv]
    exact (within_dev fun _ => rfl : (modFe n _).Within _ _ _).agrees s
  have h1 := htallied.agrees v
  have h2 := hentry.agrees ((packetTallied n x neg s).run v)
  obtain ⟨hpacket, hqueued⟩ := Prod.mk.inj h2.fe
  refine ⟨?_, by rw [hqueued, h1.queued, hfe], (hsv.trans (h1.coarser fun _ _ _ => rfl)).trans (h2.coarser fun _ _ _ => rfl)⟩
  rw [hpacket, h1.packetEnd, hfe]
  exact hend

end

/-- Settles O27: the parts of a crossing, each by what it changes. -/
theorem chargePacketsAreCounted : Obligations.ChargePacketsAreCounted := by
  unfold Obligations.ChargePacketsAreCounted
  refine ⟨?counted, ?async, ?waits, ?ends, ?saturates⟩
  case counted =>
    intro s n raw neg hhib hpor hwf haway hdiv hqp hend hh hl
    refine completes_counting rfl hhib hpor ?_
    rw [run_packetCrossing, run_crossingComes hqp]
    obtain ⟨hacc, hcounted, hbegun, hagrees⟩ := crossingActs_counted (s := (advance (s.stampTime raw / 256)).run s)
      (x := s.stampTime raw) hwf haway hdiv hend hl hh
    exact ⟨hacc, hcounted, hbegun, congrArg LtSt.cyc hagrees.view, hagrees.keepsRegs, hagrees.byte⟩
  case async =>
    intro s n raw neg hhib hpor haway hdiv hqp hend
    refine completes_counting rfl hhib hpor ?_
    rw [run_packetCrossing, run_crossingComes hqp, crossingActs_async (s := (advance _).run s) haway hdiv hend]
    refine ⟨?_, ?_, ?_, ?_, rfl, fun _ => rfl⟩ <;> rw [modFe_fe, modFe_fe, FeSt.countAsync] <;> cases neg <;> rfl
  case waits =>
    intro s n raw e neg hhib hpor hend
    refine completes_counting rfl hhib hpor ?_
    rw [run_packetCrossing]
    have hcomes := (within_settleQp (Q := fun k => k.id ∈ crossingNames) (A := fun y => BlockBytes n y ∨ InPad y) (n := n)
      (t := s.stampTime raw / 256) (by simp) fun y hy => .inl (by unfold BlockBytes; omega)).agrees
      ((advance (s.stampTime raw / 256)).run s)
    have hu : (crossingComes n (s.stampTime raw)).run s =
        (settleQp n (s.stampTime raw / 256)).run ((advance (s.stampTime raw / 256)).run s) := by
      rw [crossingComes, run_seqs_cons, run_seqs_cons, run_seqs_nil]
    rw [← hu] at hcomes
    obtain ⟨hpacket, hqueued, hacts⟩ := crossingActs_waits (x := s.stampTime raw) (neg := neg) (hcomes.packetEnd.trans hend)
    refine ⟨hpacket, hqueued.trans (congrArg (· + 1) hcomes.queued), fun k hk => (hacts.reg k hk).trans (hcomes.reg k hk),
      fun y hy => (hacts.byte y ?_).trans (hcomes.byte y ?_)⟩
    all_goals
      have h1 := hy (chBlock n, 64) (by simp)
      have h2 := hy (padBase, 0x1001000) (by simp)
      unfold BlockBytes InPad
      dsimp only at h1 h2
      omega
  case ends =>
    intro s n e hhib hpor hend
    refine completes_counting rfl hhib hpor ?_
    rw [progPacketEnd, run_ask, hend]
    dsimp only
    rw [run_seqs_cons, run_seqs_cons, run_seqs_nil]
    refine ⟨?_, congrArg FeSt.queued (modFe_fe _ _), rfl, rfl, fun _ => rfl⟩
    rw [modFe_fe]
    rcases Nat.eq_zero_or_pos (s.fe n).queued with h | h
    · rw [if_neg (by omega), if_pos h]
    · rw [if_pos h, if_neg (by omega)]
  case saturates =>
    intro s n hhib hpor
    refine completes_counting rfl hhib hpor ?_
    rw [progPacketSaturation, run_seqs_cons, run_seqs_cons, run_seqs_nil, run_setB, faultSource]
    have htouch := touches_raise (n + 1)
    have hlevel : sourceLevel (n + 1) = false := by
      simp only [sourceLevel, Bool.or_eq_false_iff, Bool.and_eq_false_iff, decide_eq_false_iff_not]
      omega
    refine ⟨(only_fld htouch _ (by simp)).trans (State.fld_setFld _ _ _ ?_), raised_raise (by omega) (by omega) hlevel rfl ?_,
      fun k hk => ?_, fun y => htouch.keepsBytes _ y⟩
    · exact (by decide +kernel : (F.FPKT_STAT_SAT 0).ok = true)
    · exact State.fld_setFld_reg _ _ _ _ (by simp [cntField])
    · refine (htouch.keepsRegs _ k fun h => hk (List.mem_cons_of_mem _ ?_)).trans (State.reg_setFld_other s _ ?_)
      · simp at h ⊢
        tauto
      · rintro rfl
        simp at hk

end Sys2Proof.Machine

/-! Charge clears (R191, R194): the request, which names a beat with two words, and the clear at its beat. -/
namespace Sys2Proof.Machine

section
variable {Q : RegKey → Prop} {A : Nat → Prop} {n b tb : Nat} {s t : State} {p : Port}

/-! The request -/

/-- A port that may write both words of a 64-bit quantity has it taken whole, and its master is answered OK (R9). -/
theorem run_regWrite64 {lo hi : RegKey} {x : Nat} {take : Nat → Prog} (hx : x < 2 ^ 64) (hlo : lo.inMap = true) (hhi : hi.inMap = true)
    (hwlo : ∀ v, writeOwn p lo v = holdLow lo v) (hwhi : ∀ v, writeOwn p hi v = wide lo v take)
    (hadlo : s.admits p lo (BitVec.ofNat 32 x) = true) (hadhi : s.admits p hi (BitVec.ofNat 32 (x / 2 ^ 32)) = true) :
    (regWrite64 p lo hi x).run s =
      (toMaster p 0 0).run ((take x).run ((s.lowHeld (portMaster p) lo (BitVec.ofNat 32 x)).unhold lo)) := by
  have hlow : (regWrite p lo (BitVec.ofNat 32 x)).run s = s.lowHeld (portMaster p) lo (BitVec.ofNat 32 x) := by
    rw [run_regWrite hlo hadlo, hwlo]
    rfl
  rw [regWrite64, run_seqs_cons, run_seqs_cons, run_seqs_nil, hlow, run_regWrite hhi (by rwa [admits_lowHeld]), hwhi, wide, run_ask,
    run_seqs_cons, run_seqs_cons, run_seqs_nil, find_lowHeld, Option.map_some, Option.getD_some, ofNat_halves hx]
  rfl

theorem inMap_fe {r : RegId} (n : Fin 64) (hn : r.desc.n1 = 1 ∧ r.desc.n2 = 1) (hb : r.blk = .fe) (hr : r ≠ .IRQ_PEND) :
    (⟨r, n, 0, 0⟩ : RegKey).inMap = true := inMap_single hn (.inr ⟨hb, n.isLt⟩) hr

/-- What a request for a clear does with the beat that it names. -/
def clearNamed (n beat : Nat) : Prog := seqs [setR (R.FPKT_CLRB_LO n) (BitVec.ofNat 32 beat), clearRequest n beat]

theorem run_clearWrite (n : Fin 64) (beat : BitVec 64) (hlo : s.admits p (R.FPKT_CLRB_LO n) (BitVec.ofNat 32 beat.toNat) = true)
    (hhi : s.admits p (R.FPKT_CLRB_HI n) (BitVec.ofNat 32 (beat.toNat / 2 ^ 32)) = true) :
    (regWrite64 p (R.FPKT_CLRB_LO n) (R.FPKT_CLRB_HI n) beat.toNat).run s = (toMaster p 0 0).run ((clearNamed n beat.toNat).run
      ((s.lowHeld (portMaster p) (R.FPKT_CLRB_LO n) (BitVec.ofNat 32 beat.toNat)).unhold (R.FPKT_CLRB_LO n))) :=
  run_regWrite64 beat.isLt (inMap_fe n (by decide +kernel) rfl (by decide)) (inMap_fe n (by decide +kernel) rfl (by decide))
    (fun _ => rfl) (fun _ => rfl) hlo hhi

theorem clrFields_ok (n : Nat) : (F.FPKT_STAT_CLR_PEND n).ok = true ∧ (F.FPKT_STAT_CLR_PAST n).ok = true ∧
    (F.FPKT_STAT_CLRDONE n).ok = true :=
  (by decide +kernel : (F.FPKT_STAT_CLR_PEND 0).ok = true ∧ (F.FPKT_STAT_CLR_PAST 0).ok = true ∧ (F.FPKT_STAT_CLRDONE 0).ok = true)

/-- The state in which the beat of a request has been named. -/
def State.clearBeat (s : State) (n beat : Nat) : State := s.setReg (R.FPKT_CLRB_LO n) (BitVec.ofNat 32 beat)

/-- What a request is judged by does not depend on the beat that it names. -/
theorem clearBeat_judged (beat : Nat) : (s.clearBeat n beat).fld F.LT_STATE_LT_ST = s.fld F.LT_STATE_LT_ST ∧
    (s.clearBeat n beat).reg64 R.LT_BEAT_LO R.LT_BEAT_HI = s.reg64 R.LT_BEAT_LO R.LT_BEAT_HI := by
  refine ⟨State.fld_setReg_other _ _ (by simp), ?_⟩
  rw [State.reg64, State.clearBeat, State.reg_setReg_other _ _ _ _ (by simp), State.reg_setReg_other _ _ _ _ (by simp), State.reg64]

/-- A request for a beat to come, with Line Time VALID and none pending, is pending. -/
theorem run_clearNamed_pending {beat : Nat} (hvalid : s.fld F.LT_STATE_LT_ST = 1) (hbeat : s.reg64 R.LT_BEAT_LO R.LT_BEAT_HI < beat)
    (hclear : (s.fe n).clear = none) : (clearNamed n beat).run s =
      ((modFe n fun f => { f with clear := some beat }).run (s.clearBeat n beat)).setFld (F.FPKT_STAT_CLR_PEND n) 1 := by
  obtain ⟨hst, hlast⟩ := clearBeat_judged (s := s) (n := n) beat
  have hfe : ((s.clearBeat n beat).fe n).clear = none := hclear
  rw [clearNamed, run_seqs_cons, run_seqs_cons, run_seqs_nil, run_setR, ← State.clearBeat, clearRequest, run_ask, if_neg]
  · rfl
  · simp [hst, hlast, hfe, hvalid, hbeat]

/-- Any other request is refused. -/
theorem run_clearNamed_past {beat : Nat} (h : s.fld F.LT_STATE_LT_ST ≠ 1 ∨ beat ≤ s.reg64 R.LT_BEAT_LO R.LT_BEAT_HI ∨
    (s.fe n).clear ≠ none) : (clearNamed n beat).run s = (s.clearBeat n beat).setFld (F.FPKT_STAT_CLR_PAST n) 1 := by
  obtain ⟨hst, hlast⟩ := clearBeat_judged (s := s) (n := n) beat
  have hfe : ((s.clearBeat n beat).fe n).clear = (s.fe n).clear := rfl
  rw [clearNamed, run_seqs_cons, run_seqs_cons, run_seqs_nil, run_setR, ← State.clearBeat, clearRequest, run_ask, if_pos]
  · rfl
  · simpa [hst, hlast, hfe, Option.isSome_iff_ne_none, or_assoc] using h

/-! The clear -/

/-- The charge is formed from the front end and its accumulator. -/
theorem charge_congr (hfe : t.fe n = s.fe n) (hacc : t.acc n = s.acc n) (x : Nat) : t.charge n x = s.charge n x := by
  simp only [State.charge, State.chargeAt, hfe, hacc]

theorem unsigned_lt (w : Nat) (z : Int) : unsigned w z < 2 ^ w := by
  have hp : (0 : Int) < (2 ^ w : Nat) := by exact_mod_cast Nat.two_pow_pos w
  have h0 := Int.emod_nonneg z hp.ne'
  have h1 := Int.emod_lt_of_pos z hp
  unfold unsigned
  omega

/-- A 64-bit pair of registers without reserved bits reads as it was set (R9). -/
theorem reg64_set64 {lo hi : RegKey} {x : Nat} (hx : x < 2 ^ 64) (hne : lo ≠ hi) (hlo : lo.id.mask = BitVec.allOnes 32)
    (hhi : hi.id.mask = BitVec.allOnes 32) : ((set64 lo hi x).run s).reg64 lo hi = x := by
  rw [run_set64, State.reg64, State.reg_setReg, State.reg_setReg_other _ _ _ _ hne, State.reg_setReg, hlo, hhi,
    BitVec.and_allOnes, BitVec.and_allOnes, ofNat_halves hx]

/-- `LAST` takes the charge at the instant `tb` (sub-cycles). -/
def lastTaken (n tb : Nat) (s : State) : Prog :=
  seqs [dpWrite (chBlock n + 16) (natLE 8 (unsigned 64 (s.charge n tb))),
    set64 (R.FPKT_LAST_LO n) (R.FPKT_LAST_HI n) (unsigned 64 (s.charge n tb))]

/-- The accumulator starts anew at −r, and the clear is done. -/
def chargeRestarts (n tb : Nat) (s : State) : Prog :=
  seqs [keepCharge n tb, setAcc n (s.acc n - (s.chargeAt n tb).1 - (s.chargeFine n tb - (s.chargeAt n tb).1)),
    modFe n fun f => { f with clear := none, counted := f.counted.filter fun p => decide (tb ≤ p.1) },
    putNum (chBlock n + 12) 1 (s.num (chBlock n + 12) 1 &&& 0xFE), clrB (F.FPKT_STAT_CLR_PEND n), setB (F.FPKT_STAT_CLRDONE n)]

theorem run_lastTaken : (lastTaken n tb s).run t = (set64 (R.FPKT_LAST_LO n) (R.FPKT_LAST_HI n) (unsigned 64 (s.charge n tb))).run
    ((dpWrite (chBlock n + 16) (natLE 8 (unsigned 64 (s.charge n tb)))).run t) := by
  rw [lastTaken, run_seqs_cons, run_seqs_cons, run_seqs_nil]

theorem run_clearAt : (clearAt n tb).run s =
    (chargeRestarts n tb ((chargeRead n).run s)).run ((lastTaken n tb ((chargeRead n).run s)).run ((chargeRead n).run s)) := by
  rw [clearAt, run_seqs_cons]
  generalize (chargeRead n).run s = u
  rw [run_lastTaken, run_seqs_cons, run_seqs_nil, run_ask, run_seqs_cons, run_seqs_cons]
  rfl

theorem within_lastTaken (hlast : Q (R.FPKT_LAST_LO n) ∧ Q (R.FPKT_LAST_HI n)) (hA : ∀ x, BlockBytes n x → A x) :
    (lastTaken n tb s).Within Q A fun d => d.lt := by
  have hmem : (dpWrite (chBlock n + 16) (natLE 8 (unsigned 64 (s.charge n tb)))).Within Q A fun d => d.lt :=
    within_dpWrite_blind (fun _ _ _ => rfl) fun i hi => hA _ (by rw [length_natLE] at hi; unfold BlockBytes; omega)
  simp only [lastTaken, within_cons, within_nil, within_set64, hmem, hlast, and_self]

theorem within_chargeRestarts (hstat : Q (R.FPKT_STAT n)) (hA : ∀ x, BlockBytes n x → A x) :
    (chargeRestarts n tb s).Within Q A fun d => d.lt := by
  have hfe (f : FeSt → FeSt) : (modFe n f).Within Q A fun d => d.lt := within_dev fun _ => rfl
  have hset (z : Int) : (setAcc n z).Within Q A fun d => d.lt :=
    within_setAcc (fun _ _ _ => rfl) (fun x hx => hA x (by unfold BlockBytes; omega)) hstat
  have hflags (v : Nat) : (putNum (chBlock n + 12) 1 v).Within Q A fun d => d.lt :=
    within_putBytes fun i hi => hA _ (by rw [length_natLE] at hi; unfold BlockBytes; omega)
  simp only [chargeRestarts, keepCharge, within_cons, within_nil, within_ask, within_setB, within_clrB, hfe, hset, hflags, hstat,
    implies_true, and_self]

/-- The restart leaves nothing pending, and says that the clear is done. -/
theorem chargeRestarts_done (t : State) : (((chargeRestarts n tb s).run t).fe n).clear = none ∧
    ((chargeRestarts n tb s).run t).fld (F.FPKT_STAT_CLR_PEND n) = 0 ∧
    ((chargeRestarts n tb s).run t).fld (F.FPKT_STAT_CLRDONE n) = 1 := by
  obtain ⟨hpend, -, hdone⟩ := clrFields_ok n
  have hflags (v : Nat) (u : State) : ((putNum (chBlock n + 12) 1 v).run u).fe n = u.fe n := by
    rw [State.fe, putNum, putBytes_dev, State.fe]
  simp only [chargeRestarts, run_seqs_cons, run_seqs_nil, run_clrB, run_setB]
  refine ⟨?_, ?_, State.fld_setFld _ _ _ hdone⟩
  · rw [State.fe, State.setFld_dev, State.setFld_dev, ← State.fe, hflags, modFe_fe]
  · rw [State.fld_setFld_apart _ _ _ _ hpend (by simp), State.fld_setFld _ _ _ hpend]
    rfl

/-- The registers that a clear can change. -/
abbrev ClearRegs (n : Nat) (k : RegKey) : Prop :=
  (k.id ∈ [RegId.FPKT_STAT, .FPKT_LAST_LO, .FPKT_LAST_HI] ∧ k.u = n) ∨ k.id ∈ readNames

/-- `t` is `s` after the clear at the instant `tb` (sub-cycles). -/
structure ChargeCleared (s t : State) (n tb : Nat) : Prop where
  clear : (t.fe n).clear = none
  pend : t.fld (F.FPKT_STAT_CLR_PEND n) = 0
  done : t.fld (F.FPKT_STAT_CLRDONE n) = 1
  last : t.reg64 (R.FPKT_LAST_LO n) (R.FPKT_LAST_HI n) = unsigned 64 (s.charge n tb)
  agrees : s.Agrees t (ClearRegs n) (BlockBytes n)
    fun d => d.lt

theorem clearAt_cleared (n tb : Nat) (s : State) : ChargeCleared s ((clearAt n tb).run s) n tb := by
  have hread := chargeRead_agrees n s
  rw [run_clearAt]
  generalize (chargeRead n).run s = u at hread ⊢
  have hcharge : u.charge n tb = s.charge n tb :=
    charge_congr (hread.meteredFe n) (acc_congr fun i hi => hread.byte _ (by unfold MarkBytes; omega)) tb
  have hsu : s.Agrees u (ClearRegs n) (BlockBytes n) fun d => d.lt :=
    (hread.mono (fun _ h => .inr h) fun _ h => h.block).coarser fun _ _ h => congrArg (·.1) h
  have hlast := within_lastTaken (n := n) (tb := tb) (s := u) (Q := ClearRegs n) (by simp [ClearRegs]) fun _ h => h
  have hrestart := (within_chargeRestarts (n := n) (tb := tb) (s := u) (Q := fun k => k = R.FPKT_STAT n) rfl fun _ h => h).agrees
    ((lastTaken n tb u).run u)
  obtain ⟨hclear, hpend, hdone⟩ := chargeRestarts_done (s := u) (n := n) (tb := tb) ((lastTaken n tb u).run u)
  refine ⟨hclear, hpend, hdone, ?_, hsu.trans ((hlast.agrees u).trans (hrestart.mono ?_ fun _ h => h))⟩
  · rw [State.reg64, hrestart.reg _ (by simp), hrestart.reg _ (by simp), ← State.reg64, run_lastTaken, hcharge]
    exact reg64_set64 (unsigned_lt 64 _) (by simp) (by decide +kernel : RegId.FPKT_LAST_LO.mask = _)
      (by decide +kernel : RegId.FPKT_LAST_HI.mask = _)
  · rintro k rfl
    simp [ClearRegs]

theorem run_chargeClear (hvalid : s.fld F.LT_STATE_LT_ST = 1) (hclear : (s.fe n).clear = some b)
    (htb : tb = b * (s.reg R.LT_BEATCYC).toNat) : (progChargeClear n).run s =
      (modFe n fun f => { f with lastClear := some b }).run ((clearAt n (tb * 256)).run ((advance tb).run s)) := by
  subst htb
  rw [progChargeClear, run_on, if_pos (by simpa using hvalid), run_ask, hclear]
  dsimp only
  rw [run_seqs_cons, run_seqs_cons, run_seqs_cons, run_seqs_nil]

end

end Sys2Proof.Machine

/-! Writes of `PKT.WIDTH`, `PKT.VP`, `SHUNT` and `PATH.CTL` (R184, R188, R189). -/
namespace Sys2Proof.Machine

section
variable {n : Nat} {s t : State}

/-! QP formed anew -/

theorem run_recomputeQp : (recomputeQp n).run s = let u := (settleQp n s.now).run s
    (modFe n fun f => { f with
      qpNext := some (u.freshQp n), qpFrom := if u.windowsRun (u.core n) then none else some (u.boundary (u.now + 1)) }).run u := by
  rw [recomputeQp, run_seqs_cons, run_seqs_cons, run_seqs_nil, run_ask]
  rfl

/-- A window can start by what `CONV.CTL` and Line Time say. -/
theorem windowsRun_congr {k : Nat} (hrun : t.fld (F.CONV_CTL_RUN k) = s.fld (F.CONV_CTL_RUN k))
    (hst : t.fld F.LT_STATE_LT_ST = s.fld F.LT_STATE_LT_ST) : t.windowsRun k = s.windowsRun k := by
  rw [State.windowsRun, hrun, hst, State.windowsRun]

/-- QP is formed from three settings of the front end. -/
theorem State.Agrees.freshQp {γ : Type} {Q : RegKey → Prop} {A : Nat → Prop} {π : Dev → γ} (h : s.Agrees t Q A π)
    (hQ : ¬Q (R.FPKT_WIDTH n) ∧ ¬Q (R.FPKT_VP n) ∧ ¬Q (R.SCALE_SHUNT n)) : t.freshQp n = s.freshQp n := by
  obtain ⟨hwidth, hvp, hshunt⟩ := hQ
  rw [State.freshQp, h.fld hwidth, h.fld hvp, h.fld hshunt, State.freshQp]

/-- Boundaries rest on what Line Time holds. -/
theorem State.Agrees.boundary {Q : RegKey → Prop} {A : Nat → Prop} (h : s.Agrees t Q A fun d => d.lt) (hQ : ¬Q R.LT_STATE)
    (x : Nat) : t.boundary x = s.boundary x := by
  have hlt : t.dev.lt = s.dev.lt := h.view
  unfold State.boundary State.ticking State.holdover State.locked State.flg
  rw [h.fld hQ, h.fld hQ, hlt]

/-- The registers and bytes that show the QP in use. -/
abbrev QpRegs (n : Nat) (k : RegKey) : Prop := k.id ∈ [RegId.FPKT_QP_LO, .FPKT_QP_HI] ∧ k.u = n
abbrev QpBytes (n x : Nat) : Prop := chBlock n + 48 ≤ x ∧ x < chBlock n + 48 + 8

theorem settleQp_agrees (n x : Nat) (s : State) : s.Agrees ((settleQp n x).run s) (QpRegs n) (QpBytes n) fun d => d.lt :=
  ((within_settleQp ⟨⟨by simp, rfl⟩, ⟨by simp, rfl⟩⟩ fun _ h => h).agrees s).coarser fun _ _ h => congrArg (·.1) h

/-- Where no window can start, QP formed anew waits for the first boundary after the change. -/
theorem recomputeQp_formed (hoff : s.windowsRun (s.core n) = false) : let t := (recomputeQp n).run s
    (t.fe n).qpNext = some (s.freshQp n) ∧ (t.fe n).qpFrom = some (s.boundary (s.now + 1)) ∧
      s.Agrees t (QpRegs n) (QpBytes n) fun d => d.lt := by
  have hu := settleQp_agrees n s.now s
  rw [run_recomputeQp]
  generalize (settleQp n s.now).run s = u at hu ⊢
  have hcore : u.core n = s.core n := hu.fld (by simp)
  have hwindows : u.windowsRun (s.core n) = false := (windowsRun_congr (hu.fld (by simp)) (hu.fld (by simp))).trans hoff
  have hnow : u.now = s.now := congrArg LtSt.cyc hu.view
  have hboundary := hu.boundary (by simp) (s.now + 1)
  have hfresh := hu.freshQp (n := n) (by simp)
  dsimp only
  rw [hcore, hwindows, hnow, hboundary, hfresh, modFe_fe]
  exact ⟨rfl, rfl, hu.trans ((within_dev fun _ => rfl : (modFe n _).Within _ _ _).agrees u)⟩

/-- QP formed anew, while a QP formed before waits for the next window or none waits. -/
theorem run_recomputeQp_waiting (h : (s.fe n).qpFrom = none) : (recomputeQp n).run s = (modFe n fun f => { f with
    qpNext := some (s.freshQp n), qpFrom := if s.windowsRun (s.core n) then none else some (s.boundary (s.now + 1)) }).run s := by
  rw [run_recomputeQp, run_settleQp_none (.inr h)]

/-! Registers of one word -/

theorem fieldGet_whole (x : Word) : fieldGet x 0 32 = x.toNat := by
  rw [fieldGet, Nat.shiftRight_zero]
  exact Nat.mod_eq_of_lt x.isLt

/-- A register that is one field of 32 bits takes the word that is written to it. -/
theorem written_whole {k : RegKey} (v : Word) {f : FieldDesc} (hf : f ∈ k.id.desc.fields) (hlo : f.lo = 0) (hhi : f.hi = 31)
    (hacc : f.acc = .rw) : s.written k v [] &&& k.id.mask = v := by
  have h := fieldGet_written s k v hf
  have hvalue : fieldGet (s.written k v [] &&& k.id.mask) 0 32 = fieldGet v 0 32 := by
    simpa only [FieldDesc.afterWrite, hacc, hlo, hhi] using h
  rw [fieldGet_whole, fieldGet_whole] at hvalue
  exact BitVec.eq_of_toNat_eq hvalue

/-- A write that refuses no field sets the register. -/
theorem run_plain_accepted {k : RegKey} {v : Word} {bad : List (Nat × Bool)} (h : ∀ b ∈ bad, b.2 = false) :
    (plain k v bad).run s = s.setReg k (s.written k v []) := by
  have hany : bad.any (·.2) = false := List.any_eq_false.2 fun b hb => by simp [h b hb]
  have hfilter : refusals bad = [] := by
    rw [refusals, List.filter_eq_nil_iff.2 fun b hb => by simp [h b hb]]
    rfl
  rw [plain, run_seqs_cons, run_seqs_cons, run_seqs_nil, run_ask, run_setR, refusedBy, hany, hfilter]
  rfl

/-! The width -/

/-- The registers that a new width can change. -/
abbrev WidthRegs (n : Nat) (k : RegKey) : Prop := k.id ∈ [RegId.FPKT_WIDTH, .FPKT_QP_LO, .FPKT_QP_HI] ∧ k.u = n

/-- A width that R189 accepts is taken, and QP is formed anew. -/
theorem effWidth_accepted {w : Nat} (hleast : s.widthLeast n ≤ w) (hw : w < 2 ^ 16) (hoff : s.windowsRun (s.core n) = false) :
    let t := (effWidth n w).run s
    t.fld (F.FPKT_WIDTH_WIDTH n) = w ∧
      (t.fe n).qpNext = some (packetCharge w (s.fld (F.FPKT_VP_VP n)) (s.fld (F.SCALE_SHUNT_NOHM n))) ∧
      (t.fe n).qpFrom = some (s.boundary (s.now + 1)) ∧ s.Agrees t (WidthRegs n) (QpBytes n) fun d => d.lt := by
  have hok : (F.FPKT_WIDTH_WIDTH n).ok = true := (by decide +kernel : (F.FPKT_WIDTH_WIDTH 0).ok = true)
  have hrefused : ¬(decide (w < s.widthLeast n) || decide (65535 < w)) = true := by
    simp only [Bool.or_eq_true, decide_eq_true_eq]
    omega
  have hqp (k : RegKey) (h : QpRegs n k) : WidthRegs n k := ⟨List.mem_cons_of_mem _ h.1, h.2⟩
  have hu := (settleQp_agrees n s.now s).mono hqp fun _ h => h
  rw [effWidth, run_ask, if_neg hrefused, run_seqs_cons, run_seqs_cons, run_seqs_cons, run_seqs_nil, run_setF]
  generalize (settleQp n s.now).run s = u at hu ⊢
  have hset := (within_setF (f := F.FPKT_WIDTH_WIDTH n) (v := w) (Q := WidthRegs n) (A := QpBytes n) (π := fun d => d.lt)).2
    ⟨by simp, rfl⟩
  have hv : s.Agrees (u.setFld (F.FPKT_WIDTH_WIDTH n) w) (WidthRegs n) (QpBytes n) fun d => d.lt := hu.trans (hset.agrees u)
  have htaken : (u.setFld (F.FPKT_WIDTH_WIDTH n) w).fld (F.FPKT_WIDTH_WIDTH n) = w :=
    (State.fld_setFld u _ w hok).trans (Nat.mod_eq_of_lt hw)
  generalize u.setFld (F.FPKT_WIDTH_WIDTH n) w = v at hv htaken ⊢
  have hnow : v.now = s.now := congrArg LtSt.cyc hv.view
  have hcore : v.core n = s.core n := hv.fld (by simp)
  have hwindows : v.windowsRun (v.core n) = false := by
    rw [hcore, windowsRun_congr (hv.fld (by simp)) (hv.fld (by simp)), hoff]
  obtain ⟨hnext, hfrom, hagrees⟩ := recomputeQp_formed hwindows
  refine ⟨(hagrees.fld (by simp)).trans htaken, hnext.trans ?_, hfrom.trans ?_, hv.trans (hagrees.mono hqp fun _ h => h)⟩
  · rw [State.freshQp, htaken, hv.fld (by simp), hv.fld (by simp)]
  · rw [hnow, hv.boundary (by simp)]

/-- A width below the least one is refused. -/
theorem run_effWidth_refused {w : Nat} (h : w < s.widthLeast n) : (effWidth n w).run s = s.setFld (F.FPKT_STAT_PKT_W n) 1 := by
  rw [effWidth, run_ask, if_pos (by simp [h]), run_setB]

/-! The other settings -/

/-- A write that refuses no field of a setting takes it, and forms QP anew, which waits. -/
theorem setting_formed {k : RegKey} {v : Word} {bad : List (Nat × Bool)} (hbad : ∀ b ∈ bad, b.2 = false)
    (hqp : (s.fe n).qpFrom = none) : let t := (seqs [plain k v bad, recomputeQp n]).run s
    t.reg k = s.written k v [] &&& k.id.mask ∧ (t.fe n).qp = (s.fe n).qp ∧ (t.fe n).qpNext = some (t.freshQp n) ∧
      s.Agrees t (· = k) (fun _ => False) fun d => d.lt := by
  have hfrom : ((s.setReg k (s.written k v [])).fe n).qpFrom = none := hqp
  rw [run_seqs_cons, run_seqs_cons, run_seqs_nil, run_plain_accepted hbad, run_recomputeQp_waiting hfrom]
  refine ⟨State.reg_setReg _ _ _, by rw [modFe_fe]; rfl, by rw [modFe_fe]; rfl, fun j hj => ?_, fun _ _ => rfl, rfl⟩
  exact State.reg_setReg_other _ _ _ _ hj

/-! The path -/

/-- A write of `PATH.CTL` is pending where it asks for the other path. -/
theorem run_effPathActive {w : Word} : (effPathActive n w).run s = (s.setReg (R.PATH_CTL n) w).setFld (F.PATH_STAT_PENDING n)
    (if fieldGet w 0 1 = s.fld (F.PATH_STAT_NOW n) then 0 else 1) := by
  rw [effPathActive, run_ask, run_seqs_cons, run_seqs_cons, run_seqs_nil, run_setR, run_setF]

end

/-- A write that the port may make of a register of a front end does what the front end does with the word (R11). -/
theorem completes_feWrite {c : Instr} {r : RegId} {q : Prog} {s : State} {p : Port} {w : Word} {P : State → Prop} (n : Fin 64)
    (hc : exec c s = .next ((regWrite p ⟨r, n, 0, 0⟩ w).run s)) (hr : r.desc.n1 = 1 ∧ r.desc.n2 = 1)
    (hb : r.blk = .fe ∧ r ≠ .IRQ_PEND) (had : s.admits p ⟨r, n, 0, 0⟩ w = true)
    (hq : writeOwn p ⟨r, n, 0, 0⟩ w = q) (hP : P ((toMaster p 0 0).run (q.run s))) : Completes c s P :=
  completes_written hc (inMap_fe n hr hb.1 hb.2) had (by rwa [hq])

/-- A register of a front end that is none of `own` is not the one of `own` that was written. -/
theorem ne_of_notOwn {k j : RegKey} {own : List RegId} {u : Nat} (h : ¬(k.id ∈ own ∧ k.u = u)) (hj : j.id ∈ own ∧ j.u = u) :
    k ≠ j := fun e => h (e ▸ hj)

/-- A register of a front end is set, and then a field of another: both are among `own`. -/
theorem keepsRegsAt_setReg_setFld {s : State} {k : RegKey} {f : Field} {own : List RegId} {u : Nat} {w : Word} {x : Nat}
    (hk : k.id ∈ own ∧ k.u = u) (hf : f.reg.id ∈ own ∧ f.reg.u = u) : s.KeepsRegsAt ((s.setReg k w).setFld f x) u own [] :=
  fun _ hj _ => (State.reg_setFld_other _ _ (ne_of_notOwn hj hf)).trans (State.reg_setReg_other _ _ _ _ (ne_of_notOwn hj hk))

/-- Settles O28: the requests and the clear by what each takes, QP formed anew by its three settings, and the path. -/
theorem clearsWidthsAndPaths : Obligations.ClearsWidthsAndPaths := by
  unfold Obligations.ClearsWidthsAndPaths
  refine ⟨?pending, ?past, ?cleared, ?width, ?narrow, ?shunt, ?vp, ?path⟩
  case pending =>
    intro s p n beat hlo hhi hvalid hbeat hclear
    obtain ⟨hpend, -, -⟩ := clrFields_ok n
    refine ⟨_, rfl, ?_⟩
    rw [run_clearWrite n beat hlo hhi, run_clearNamed_pending (s := State.unhold (State.lowHeld s _ _ _) _) hvalid hbeat hclear]
    have hnamed (u : State) : (((modFe n fun f => { f with clear := some beat.toNat }).run u).fe n).clear = some beat.toNat :=
      congrArg FeSt.clear (modFe_fe _ _)
    refine ⟨hnamed _, State.fld_setFld _ _ _ hpend, answeredOk_toMaster _ _,
      keepsRegsAt_setReg_setFld (s := s) (k := R.FPKT_CLRB_LO n) (by simp) (by simp), fun _ => rfl⟩
  case past =>
    intro s p n beat hlo hhi h
    obtain ⟨-, hpast, -⟩ := clrFields_ok n
    refine ⟨_, rfl, ?_⟩
    rw [run_clearWrite n beat hlo hhi, run_clearNamed_past (s := State.unhold (State.lowHeld s _ _ _) _) h]
    refine ⟨rfl, State.fld_setFld _ _ _ hpast, answeredOk_toMaster _ _,
      keepsRegsAt_setReg_setFld (s := s) (k := R.FPKT_CLRB_LO n) (by simp) (by simp), fun _ => rfl⟩
  case cleared =>
    intro s n b tb hawake hvalid hclear htb
    refine completes_awake rfl hawake ?_
    rw [run_chargeClear hvalid hclear htb]
    obtain ⟨hnone, hpend, hdone, hlast, hagrees⟩ := clearAt_cleared n (tb * 256) ((advance tb).run s)
    have hcharge : ((advance tb).run s).charge n (tb * 256) = s.charge n (tb * 256) := charge_congr rfl rfl _
    rw [hcharge] at hlast
    generalize (clearAt n (tb * 256)).run ((advance tb).run s) = t at hnone hpend hdone hlast hagrees ⊢
    refine ⟨(congrArg FeSt.clear (modFe_fe _ _)).trans hnone, congrArg FeSt.lastClear (modFe_fe _ _), hpend, hdone, hlast,
      congrArg LtSt.cyc hagrees.view, fun k hown hnames => ?_, hagrees.byte⟩
    exact hagrees.reg k fun h => h.elim hown hnames
  case width =>
    intro s p n w had hleast hoff
    refine completes_feWrite (q := effWidth n (fieldGet w 0 16)) n rfl (by decide +kernel) (by decide) had rfl ?_
    have hw : fieldGet w 0 16 < 2 ^ 16 := Nat.mod_lt _ (by decide)
    obtain ⟨htaken, hnext, hfrom, hagrees⟩ := effWidth_accepted (n := n) hleast hw (by
      rw [State.windowsRun, Bool.and_eq_false_iff]
      simpa using hoff)
    generalize (effWidth n (fieldGet w 0 16)).run s = t at htaken hnext hfrom hagrees ⊢
    exact ⟨htaken, hnext, hfrom, answeredOk_toMaster _ _, fun k hk _ => hagrees.reg k hk, hagrees.byte⟩
  case narrow =>
    intro s p n w had hleast
    refine completes_feWrite (q := effWidth n (fieldGet w 0 16)) n rfl (by decide +kernel) (by decide) had rfl ?_
    rw [run_effWidth_refused hleast]
    have hok : (F.FPKT_STAT_PKT_W n).ok = true := (by decide +kernel : (F.FPKT_STAT_PKT_W 0).ok = true)
    exact ⟨State.fld_setFld_reg _ _ _ _ (by simp), State.fld_setFld _ _ _ hok, rfl, answeredOk_toMaster _ _,
      fun k hk _ => State.reg_setFld_other _ _ (ne_of_notOwn hk (by simp)), fun _ => rfl⟩
  case shunt =>
    intro s p n w had hleast hmost _ _ hqp
    refine completes_feWrite (q := seqs
      [plain (R.SCALE_SHUNT n) w [(0, decide (w.toNat < 700000) || decide (4000000000 < w.toNat))], recomputeQp n])
      n rfl (by decide +kernel) (by decide) had rfl ?_
    have hbad : ∀ b ∈ [(0, decide (w.toNat < 700000) || decide (4000000000 < w.toNat))], b.2 = false := by
      simp only [List.mem_singleton, forall_eq, Bool.or_eq_false_iff, decide_eq_false_iff_not]
      omega
    obtain ⟨hreg, hkept, hnext, hagrees⟩ := setting_formed (k := R.SCALE_SHUNT n) (v := w) hbad hqp
    generalize (seqs _).run s = t at hreg hkept hnext hagrees ⊢
    have hword := hreg.trans (written_whole w (List.mem_singleton_self _) rfl rfl rfl)
    refine ⟨hword, hkept, hnext.trans (congrArg some ?_), answeredOk_toMaster _ _,
      fun k hk _ => hagrees.reg k (ne_of_notOwn hk (by simp)), hagrees.keepsBytes⟩
    have hvalue : State.fld _ (F.SCALE_SHUNT_NOHM n) = w.toNat := (congrArg (fieldGet · 0 32) hword).trans (fieldGet_whole w)
    rw [State.freshQp, hagrees.fld (by simp), hagrees.fld (by simp), hvalue]
  case vp =>
    intro s p n w had _ _ hqp
    refine completes_feWrite (q := seqs [plain (R.FPKT_VP n) w [], recomputeQp n]) n rfl (by decide +kernel) (by decide) had
      rfl ?_
    obtain ⟨hreg, hkept, hnext, hagrees⟩ := setting_formed (k := R.FPKT_VP n) (v := w) (bad := []) (by simp) hqp
    generalize (seqs _).run s = t at hreg hkept hnext hagrees ⊢
    have hword := hreg.trans (written_whole w (List.mem_singleton_self _) rfl rfl rfl)
    have hmask : (R.FPKT_VP n).id.mask = BitVec.allOnes 32 := (by decide +kernel : RegId.FPKT_VP.mask = BitVec.allOnes 32)
    refine ⟨hword.trans (by rw [hmask, BitVec.and_allOnes]), hkept, hnext.trans (congrArg some ?_), answeredOk_toMaster _ _,
      fun k hk _ => hagrees.reg k (ne_of_notOwn hk (by simp)), hagrees.keepsBytes⟩
    rw [State.freshQp, hagrees.fld (f := F.FPKT_WIDTH_WIDTH n) (by simp), hagrees.fld (f := F.SCALE_SHUNT_NOHM n) (by simp)]
    rfl
  case path =>
    intro s p n w had
    refine completes_feWrite (q := effPathActive n w) n rfl (by decide +kernel) (by decide) had rfl ?_
    rw [run_effPathActive]
    have hok : (F.PATH_STAT_PENDING n).ok = true ∧ (F.PATH_STAT_NOW n).ok = true :=
      (by decide +kernel : (F.PATH_STAT_PENDING 0).ok = true ∧ (F.PATH_STAT_NOW 0).ok = true)
    obtain ⟨hpending, hnow⟩ := hok
    refine ⟨?_, ?_, ?_, answeredOk_toMaster _ _,
      keepsRegsAt_setReg_setFld (k := R.PATH_CTL n) (by simp) (by simp), fun _ => rfl⟩
    · exact (State.reg_setFld_other _ _ (by simp)).trans (State.reg_setReg _ _ _)
    · refine (State.fld_setFld _ _ _ hpending).trans (Nat.mod_eq_of_lt ?_)
      split
      · exact Nat.zero_lt_two
      · exact Nat.one_lt_two
    · exact (State.fld_setFld_apart _ _ _ _ hnow (by simp)).trans (State.fld_setReg_other _ _ (by simp))

end Sys2Proof.Machine

/-! What a measurement unit can change (R207 to R217): its own registers and its own part of the core, and what it shares with the
other units of the core. -/
namespace Sys2Proof.Machine

/-- The registers that each unit has of its own. -/
abbrev unitNames : List RegId :=
  [.EVM_STATE, .EVM_IVL_LO, .EVM_IVL_HI, .EVM_ST_LO, .EVM_ST_HI, .EVM_SUBR, .EVM_INFO, .EVM_CNT]

/-- The registers that a result changes for every unit: the status and the drops of the core, and those of a ring. -/
abbrev sharedNames : List RegId := .EVM_STAT :: .EVM_DROP :: ringNames

/-- What unit `u` of core `k` may change lies in `Q` and `A`, and `φ` looks neither at the unit nor at a sequencer. -/
structure UnitFoot {α : Type} (k u : Nat) (Q : RegKey → Prop) (A : Nat → Prop) (φ : CoreSt → α) : Prop where
  own : ∀ r ∈ unitNames, Q ⟨r, k, u, 0⟩
  shared : Covers Q sharedNames
  pad : ∀ x, InPad x → A x
  unit : ∀ c f, φ { c with units := c.units.mod {} u f } = φ c
  seq : ∀ c x, φ { c with seq := x } = φ c

section
variable {α β : Type} {ψ : FeSt → β} {φ : CoreSt → α} {Q : RegKey → Prop} {A : Nat → Prop} {k u m j : Nat}

theorem UnitFoot.state (h : UnitFoot k u Q A φ) : Q (R.EVM_STATE k u) := h.own _ (by simp)

theorem UnitFoot.counts (h : UnitFoot k u Q A φ) : Q (R.EVM_CNT k u) := h.own _ (by simp)

theorem UnitFoot.status (h : UnitFoot k u Q A φ) : Q (R.EVM_STAT k) := h.shared _ (by simp)

theorem within_modUnit (h : UnitFoot k u Q A φ) {f : UnitSt → UnitSt} : (modUnit k u f).Within Q A (Dev.view m j ψ φ) :=
  within_modCore fun c => h.unit c f

theorem within_offer (h : ∀ c x, φ { c with seq := x } = φ c) {n c : Nat} : (offer n c).Within Q A (Dev.view m j ψ φ) := by
  rw [offer, within_ask]
  exact fun s => within_offerAt h

/-- The flags of a result: its own, and those of the unit and of what it has met (Table 6.3). -/
def State.resultFlags (s : State) (k u flags : Nat) : Nat :=
  flags ||| (if s.flg (F.EVM_CFG_GATED k u) then 64 else 0) ||| (if (s.unit k u).loss then 32 else 0)
    ||| (if (s.unit k u).hold then 16 else 0)

/-- The event record of a result on channel `n` (Table 6.4). -/
def eventRecord (n u : Nat) (ivl : Int) (st flags seq : Nat) : List Byte :=
  natLE 8 (st / 256) ++ natLE 8 (unsigned 64 ivl) ++ natLE 1 st ++ natLE 1 n ++ natLE 1 u ++ natLE 1 0 ++ natLE 2 flags ++ natLE 2 seq
    ++ natLE 8 0

/-- What tells of a result: its record, its offer to the sequencer and its source (R215, R217). -/
def resultTold (k u : Nat) (ivl : Int) (st flags : Nat) (s : State) : Prog :=
  match s.channelOf k with
  | none => .done
  | some n => seqs [
      when (s.flg (F.EVM_CFG_REC k u)) (bufOffer 1 (4 * k + u) (s.chRing n 7) 4 4
        (eventRecord n u ivl st (s.resultFlags k u flags) (s.unit k u).seq) (count (F.EVM_DROP_DROP k))),
      when (s.flg (F.EVM_CFG_OFFER k u)) (offer n 5),
      when (s.flg (F.EVM_CFG_IRQ k u)) (eventSource n)]

theorem within_resultTold {ivl : Int} {st flags : Nat} {s : State} (hQ : Covers Q (.EVM_DROP :: ringNames)) (hA : ∀ x, InPad x → A x)
    (hseq : ∀ c x, φ { c with seq := x } = φ c) : (resultTold k u ivl st flags s).Within Q A (Dev.view m j ψ φ) := by
  unfold resultTold
  split
  · exact within_done
  · simp only [within_cons, within_nil, within_when, and_true]
    exact ⟨fun _ => within_bufOffer (hQ.sub (by decide)) (hQ _ (by simp)) hA, fun _ => within_offer hseq,
      fun _ => within_raise_of (hQ.sub (by decide))⟩

/-- A unit after its result. -/
def UnitSt.measured (x : UnitSt) (mode next : Nat) : UnitSt :=
  { x with seq := (x.seq + 1) % 65536, loss := false, hold := false, near := none, a := if mode = 1 then next else x.a }

/-- The registers that hold a result (R216). -/
def resultShown (k u : Nat) (ivl : Int) (st flags : Nat) (s : State) : Prog :=
  seqs [set64 (R.EVM_IVL_LO k u) (R.EVM_IVL_HI k u) (unsigned 64 ivl),
    set64 (R.EVM_ST_LO k u) (R.EVM_ST_HI k u) (st / 256), setF (F.EVM_SUBR_SUB k u) st,
    setF (F.EVM_INFO_SEQ k u) (s.unit k u).seq, setF (F.EVM_INFO_FLAGS k u) (s.resultFlags k u flags)]

/-- A result shows itself, the unit goes on, and the result is told. -/
theorem run_unitResult (ivl : Int) (st flags next : Nat) (s : State) : (unitResult k u ivl st flags next).run s =
    (resultTold k u ivl st flags s).run ((setB ⟨R.EVM_STAT k, u, 1⟩).run
      ((setF (F.EVM_STATE_ST k u) (if s.fld (F.EVM_CFG_MODE k u) = 0 then 0 else 1)).run
        ((modUnit k u (·.measured (s.fld (F.EVM_CFG_MODE k u)) next)).run ((resultShown k u ivl st flags s).run s)))) := by
  rw [unitResult, run_ask]
  dsimp only
  iterate 9 rw [run_seqs_cons]
  rw [run_seqs_nil, resultShown]
  iterate 5 rw [run_seqs_cons]
  rw [run_seqs_nil]
  rfl

theorem within_unitResult (h : UnitFoot k u Q A φ) {ivl : Int} {st flags next : Nat} :
    (unitResult k u ivl st flags next).Within Q A (Dev.view m j ψ φ) := by
  have hown {r : RegId} (hr : r ∈ unitNames) : Q ⟨r, k, u, 0⟩ := h.own r hr
  have htold (s : State) : (resultTold k u ivl st flags s).Within Q A (Dev.view m j ψ φ) :=
    within_resultTold (h.shared.sub (by decide)) h.pad h.seq
  rw [unitResult, within_ask]
  intro s
  simp only [within_cons, within_nil, within_set64, within_setF, within_setB, within_modUnit h, h.state, h.status, and_true, true_and]
  refine ⟨⟨hown ?_, hown ?_⟩, ⟨hown ?_, hown ?_⟩, hown ?_, hown ?_, hown ?_, htold s⟩ <;> simp

theorem within_unitTimeout (h : UnitFoot k u Q A φ) : (unitTimeout k u).Within Q A (Dev.view m j ψ φ) := by
  rw [unitTimeout, within_ask]
  intro s
  split
  · exact within_done
  · simp [h.counts, within_unitResult h]

theorem within_unitDropHeld (h : UnitFoot k u Q A φ) : (unitDropHeld k u).Within Q A (Dev.view m j ψ φ) := by
  simp [unitDropHeld, h.counts, h.state, within_modUnit h]

theorem within_unitStart (h : UnitFoot k u Q A φ) {p : Stamp} : (unitStart k u p).Within Q A (Dev.view m j ψ φ) := by
  simp [unitStart, h.state, within_modUnit h]

theorem within_unitArm (h : UnitFoot k u Q A φ) {a : Nat} : (unitArm k u a).Within Q A (Dev.view m j ψ φ) := by
  simp [unitArm, h.state, h.status, within_modUnit h]

theorem within_unitArmed (h : UnitFoot k u Q A φ) {p : Stamp} {start stop : Bool} :
    (unitArmed k u p start stop).Within Q A (Dev.view m j ψ φ) := by
  rw [unitArmed, within_ask]
  intro s
  dsimp only
  split
  · simp [within_modUnit h, within_unitResult h]
  split
  · split
    · split
      · simp [within_modUnit h, within_unitResult h]
      · exact within_unitStart h
    · exact within_unitStart h
  split
  · split
    · exact within_modUnit h
    split
    · exact within_count.2 h.counts
    · simp [h.state, within_modUnit h]
  · exact within_done

theorem within_unitRunning (h : UnitFoot k u Q A φ) {p : Stamp} {start stop : Bool} :
    (unitRunning k u p start stop).Within Q A (Dev.view m j ψ φ) := by
  rw [unitRunning, within_ask]
  intro s
  dsimp only
  split
  · simp only [within_cons, within_nil, within_when, within_modUnit h, within_unitStart h, implies_true, and_true, true_and]
    split <;> exact within_unitResult h
  · simp [h.counts]

theorem within_unitHeld (h : UnitFoot k u Q A φ) {p : Stamp} {start stop : Bool} :
    (unitHeld k u p start stop).Within Q A (Dev.view m j ψ φ) := by
  rw [unitHeld, within_ask]
  intro s
  dsimp only
  split
  · split
    · simp [within_unitDropHeld h, within_unitStart h]
    split
    · simp [within_modUnit h, within_unitResult h]
    · simp [h.counts, h.state, within_modUnit h]
  · simp [within_unitDropHeld h, within_unitArmed h]

theorem within_disarmUnit (h : UnitFoot k u Q A φ) {extra : Nat} : (disarmUnit k u extra).Within Q A (Dev.view m j ψ φ) := by
  rw [disarmUnit, within_ask]
  intro s
  split
  · exact within_done
  · exact within_setF.2 h.state
  · simp [h.state, within_unitResult h]
  · simp [h.counts, h.state, within_modUnit h]

theorem within_disarmNext (h : UnitFoot k u Q A φ) (n : Nat) : (disarmNext k u n).Within Q A (Dev.view m j ψ φ) := by
  induction n with
  | zero => exact within_done
  | succ n ih =>
    rw [disarmNext, within_ask]
    intro s
    split
    · exact within_done
    simp only [within_when, within_cons, within_nil, within_modUnit h, within_disarmUnit h, and_true, true_and]
    intro _
    split
    · simp only [within_cons, within_nil, within_unitArm h, and_true, true_and]
      split
      · simp [within_modUnit h, ih]
      · exact within_modUnit h
    · exact within_modUnit h

theorem within_disarmIfDue (h : UnitFoot k u Q A φ) : (disarmIfDue k u).Within Q A (Dev.view m j ψ φ) := by
  rw [disarmIfDue, within_ask]
  exact fun s => within_disarmNext h _

theorem within_disarmAt (h : UnitFoot k u Q A φ) {d : Nat} : (disarmAt k u d).Within Q A (Dev.view m j ψ φ) := by
  simp [disarmAt, within_modUnit h, within_disarmIfDue h]

/-- A stamp changes of a core what its units may. -/
theorem within_unitStamp (h : UnitFoot k u Q A φ) {p : Stamp} : (unitStamp k u p).Within Q A (Dev.view m j ψ φ) := by
  simp only [unitStamp, within_cons, within_nil, within_on, within_disarmIfDue h, within_unitArm h, within_unitTimeout h, within_ask,
    implies_true, and_true, true_and]
  intro _ _ s
  split
  · exact within_unitArmed h
  · exact within_unitRunning h
  · exact within_unitHeld h

end

end Sys2Proof.Machine

/-! What a stamp does at a unit (R207 to R216, Table 6.2): results, starts and stops. -/
namespace Sys2Proof.Machine

section
variable {s t : State} {k u : Nat} {p : Stamp}

/-- A unit takes the change that is made to it. -/
@[simp] theorem modUnit_unit (f : UnitSt → UnitSt) (s : State) : ((modUnit k u f).run s).unit k u = f (s.unit k u) := by
  simp [modUnit, modCore, State.unit, State.cst]

/-- A change of a unit reaches no register. -/
@[simp] theorem modUnit_reg (f : UnitSt → UnitSt) (s : State) (r : RegKey) : ((modUnit k u f).run s).reg r = s.reg r :=
  State.reg_congr rfl r

@[simp] theorem modUnit_fld (f : UnitSt → UnitSt) (s : State) (x : Field) : ((modUnit k u f).run s).fld x = s.fld x :=
  State.fld_congr rfl x

/-- A unit is read from what the state holds beside registers and memories. -/
theorem State.unit_congr (h : t.dev = s.dev) (k u : Nat) : t.unit k u = s.unit k u := by
  rw [State.unit, State.cst, h, State.unit, State.cst]

theorem State.reg64_congr {lo hi : RegKey} (hlo : t.reg lo = s.reg lo) (hhi : t.reg hi = s.reg hi) :
    t.reg64 lo hi = s.reg64 lo hi := by
  rw [State.reg64, hlo, hhi, State.reg64]

theorem unitFields_ok (k u : Nat) : (F.EVM_SUBR_SUB k u).ok = true ∧ (F.EVM_INFO_SEQ k u).ok = true ∧
    (F.EVM_INFO_FLAGS k u).ok = true ∧ (F.EVM_CNT_NOSTART k u).ok = true ∧ (F.EVM_CNT_TMOCNT k u).ok = true :=
  (by decide +kernel : (F.EVM_SUBR_SUB 0 0).ok = true ∧ (F.EVM_INFO_SEQ 0 0).ok = true ∧
    (F.EVM_INFO_FLAGS 0 0).ok = true ∧ (F.EVM_CNT_NOSTART 0 0).ok = true ∧ (F.EVM_CNT_TMOCNT 0 0).ok = true)

theorem unitSt_lt (s : State) (k u : Nat) : s.unitSt k u < 4 := fieldGet_lt _ 0 2

/-! Results -/

/-- `t` is `s` after unit `u` of core `k` has measured `ivl` from the start `st` (R211, R216). -/
structure ResultGiven (s t : State) (k u : Nat) (ivl : Int) (st flags next : Nat) : Prop where
  interval : t.reg64 (R.EVM_IVL_LO k u) (R.EVM_IVL_HI k u) = unsigned 64 ivl
  sub : t.fld (F.EVM_SUBR_SUB k u) = st % 256
  seq : t.fld (F.EVM_INFO_SEQ k u) = (s.unit k u).seq % 65536
  flags : t.fld (F.EVM_INFO_FLAGS k u) = s.resultFlags k u flags % 65536
  state : t.unitSt k u = if s.fld (F.EVM_CFG_MODE k u) = 0 then 0 else 1
  unit : t.unit k u = (s.unit k u).measured (s.fld (F.EVM_CFG_MODE k u)) next

/-- The registers of a result show it; nothing beside registers changes. -/
theorem resultShown_shows (k u : Nat) (ivl : Int) (st flags : Nat) (s : State) : let t := (resultShown k u ivl st flags s).run s
    t.reg64 (R.EVM_IVL_LO k u) (R.EVM_IVL_HI k u) = unsigned 64 ivl ∧ t.fld (F.EVM_SUBR_SUB k u) = st % 256 ∧
    t.fld (F.EVM_INFO_SEQ k u) = (s.unit k u).seq % 65536 ∧ t.fld (F.EVM_INFO_FLAGS k u) = s.resultFlags k u flags % 65536 ∧
    t.dev = s.dev := by
  obtain ⟨hsub, hseq, hflags, -, -⟩ := unitFields_ok k u
  have hmask : (R.EVM_IVL_LO k u).id.mask = BitVec.allOnes 32 ∧ (R.EVM_IVL_HI k u).id.mask = BitVec.allOnes 32 :=
    (by decide +kernel : RegId.EVM_IVL_LO.mask = BitVec.allOnes 32 ∧ RegId.EVM_IVL_HI.mask = BitVec.allOnes 32)
  have hivl : ((set64 (R.EVM_IVL_LO k u) (R.EVM_IVL_HI k u) (unsigned 64 ivl)).run s).reg64 (R.EVM_IVL_LO k u) (R.EVM_IVL_HI k u) =
      unsigned 64 ivl := reg64_set64 (unsigned_lt 64 ivl) (by simp) hmask.1 hmask.2
  rw [resultShown]
  iterate 5 rw [run_seqs_cons]
  rw [run_seqs_nil, run_setF, run_setF, run_setF]
  refine ⟨(State.reg64_congr ?_ ?_).trans hivl, ?_, ?_, ?_, rfl⟩
  · simp (disch := simp) only [State.reg_setFld_other, run_set64, State.reg_setReg_other]
  · simp (disch := simp) only [State.reg_setFld_other, run_set64, State.reg_setReg_other]
  · simp (disch := first | assumption | simp) only [State.fld_setFld_reg, State.fld_setFld]
    rfl
  · simp (disch := first | assumption | simp) only [State.fld_setFld_apart, State.fld_setFld]
    rfl
  · exact State.fld_setFld _ _ _ hflags

theorem unitResult_given (k u : Nat) (ivl : Int) (st flags next : Nat) (s : State) :
    ResultGiven s ((unitResult k u ivl st flags next).run s) k u ivl st flags next := by
  obtain ⟨hivl, hsub, hseq, hflags, hdev⟩ := resultShown_shows k u ivl st flags s
  rw [run_unitResult]
  generalize (resultShown k u ivl st flags s).run s = a at hivl hsub hseq hflags hdev ⊢
  have htold (v : State) := (within_resultTold (m := 0) (j := k) (ψ := fun _ => ()) (φ := fun c => c.units.get {} u) (k := k) (u := u)
    (s := s) (ivl := ivl) (st := st) (flags := flags) (covers_self (.EVM_DROP :: ringNames)) (fun _ h => h) fun _ _ => rfl).agrees v
  rw [run_setB, run_setF]
  constructor
  case interval =>
    refine (State.reg64_congr ((htold _).reg _ ?_) ((htold _).reg _ ?_)).trans <| (State.reg64_congr ?_ ?_).trans hivl
    · simp [ringNames]
    · simp [ringNames]
    · rw [State.reg_setFld_other _ _ (by simp), State.reg_setFld_other _ _ (by simp), modUnit_reg]
    · rw [State.reg_setFld_other _ _ (by simp), State.reg_setFld_other _ _ (by simp), modUnit_reg]
  case unit =>
    exact (htold _).cst.trans <| (State.unit_congr (State.setFld_dev _) k u).trans <| (State.unit_congr (State.setFld_dev _) k u).trans <|
      (modUnit_unit _ a).trans <| by rw [State.unit_congr hdev]
  case state =>
    refine ((htold _).fld (by simp [ringNames])).trans ?_
    rw [State.fld_setFld_reg _ _ _ _ (by simp), State.fld_setFld _ _ _ (evmStateSt_ok k u)]
    split <;> rfl
  all_goals
    refine ((htold _).fld (by simp [ringNames])).trans ?_
    rw [State.fld_setFld_reg _ _ _ _ (by simp), State.fld_setFld_reg _ _ _ _ (by simp), modUnit_fld]
    assumption

end

end Sys2Proof.Machine

/-! A unit that takes a stamp as a start or a stop (R207 to R214, Table 6.2). -/
namespace Sys2Proof.Machine

/-- Stamp `p` qualifies as a start, or as a stop, of unit `u` of core `k` (R208). -/
abbrev State.isStart (s : State) (k u : Nat) (p : Stamp) : Bool :=
  p.fits (s.fld (F.EVM_SRC_START_SRC k u)) (s.fld (F.EVM_SRC_START_EDGE k u))
abbrev State.isStop (s : State) (k u : Nat) (p : Stamp) : Bool :=
  p.fits (s.fld (F.EVM_SRC_STOP_SRC k u)) (s.fld (F.EVM_SRC_STOP_EDGE k u))

section
variable {s : State} {k u : Nat} {p : Stamp}

/-- A unit without a disarm that waits goes on as it is. -/
theorem run_disarmIfDue_none (h : (s.unit k u).off = none) : (disarmIfDue k u).run s = s := by
  rw [disarmIfDue, run_ask, disarmNext, run_ask, h]
  rfl

theorem unitAccepts_ungated (ha : (s.unit k u).a ≤ p.t) (hoff : (s.unit k u).off = none) (hg : s.flg (F.EVM_CFG_GATED k u) = false) :
    s.unitAccepts k u p = true := by
  simp [State.unitAccepts, ha, hoff, hg]

/-- A stamp that an ARMED unit accepts acts as it does in ARMED. -/
theorem run_unitStamp_armed (hoff : (s.unit k u).off = none) (hst : s.unitSt k u = 1) (hacc : s.unitAccepts k u p = true) :
    (unitStamp k u p).run s = (disarmIfDue k u).run ((unitArmed k u p (s.isStart k u p) (s.isStop k u p)).run s) := by
  simp [unitStamp, run_disarmIfDue_none hoff, hst, hacc, State.isStart, State.isStop]

/-- A stamp that a RUNNING unit accepts, and that its deadline does not pass, acts as it does in RUNNING. -/
theorem run_unitStamp_running (hoff : (s.unit k u).off = none) (hst : s.unitSt k u = 2) (hacc : s.unitAccepts k u p = true)
    (hd : (s.unit k u).deadline.all (fun (d : Nat) => decide (p.t ≤ d)) = true) :
    (unitStamp k u p).run s = (disarmIfDue k u).run ((unitRunning k u p (s.isStart k u p) (s.isStop k u p)).run s) := by
  cases hdl : (s.unit k u).deadline with
  | none => simp [unitStamp, run_disarmIfDue_none hoff, hst, hacc, hdl, State.isStart, State.isStop]
  | some d =>
    have hle : ¬d < p.t := by simpa [hdl] using hd
    simp [unitStamp, run_disarmIfDue_none hoff, hst, hacc, hdl, hle, State.isStart, State.isStop]

/-- A start that no stop precedes within a sub-cycle takes an ARMED unit to RUNNING (Table 6.2). -/
theorem run_unitStamp_start (hoff : (s.unit k u).off = none) (hst : s.unitSt k u = 1) (hacc : s.unitAccepts k u p = true)
    (hmode : s.fld (F.EVM_CFG_MODE k u) ≠ 2) (hstart : s.isStart k u p = true) (hnear : (s.unit k u).near = none) :
    (unitStamp k u p).run s = (unitStart k u p).run s := by
  have harmed : (unitArmed k u p (s.isStart k u p) (s.isStop k u p)).run s = (unitStart k u p).run s := by
    simp [unitArmed, hmode, hstart, hnear]
  rw [run_unitStamp_armed hoff hst hacc, harmed]
  refine run_disarmIfDue_none ?_
  rw [unitStart, run_ask, run_seqs_cons, run_seqs_cons, run_seqs_nil, run_setF, State.unit_congr (State.setFld_dev _), modUnit_unit]
  exact hoff

theorem unitStart_runs (k u : Nat) (p : Stamp) (s : State) : let t := (unitStart k u p).run s
    t.unitSt k u = 2 ∧ (t.unit k u).start = p.t ∧ (t.unit k u).deadline = s.unitDeadline k u p.t := by
  rw [unitStart, run_ask, run_seqs_cons, run_seqs_cons, run_seqs_nil, run_setF]
  refine ⟨State.fld_setFld _ _ _ (evmStateSt_ok k u), ?_, ?_⟩ <;> rw [State.unit_congr (State.setFld_dev _), modUnit_unit]

/-- A stop that comes later than the start by more than a sub-cycle gives the interval between them (Table 6.2). -/
theorem unitStamp_stop (hoff : (s.unit k u).off = none) (hst : s.unitSt k u = 2) (hacc : s.unitAccepts k u p = true)
    (hd : (s.unit k u).deadline.all (fun (d : Nat) => decide (p.t ≤ d)) = true) (hstart : s.isStart k u p = false)
    (hstop : s.isStop k u p = true) (hlate : (s.unit k u).start + 1 < p.t) : let t := (unitStamp k u p).run s
    t.reg64 (R.EVM_IVL_LO k u) (R.EVM_IVL_HI k u) = unsigned 64 ((p.t : Int) - (s.unit k u).start) ∧
    t.fld (F.EVM_SUBR_SUB k u) = (s.unit k u).start % 256 ∧ t.fld (F.EVM_INFO_SEQ k u) = (s.unit k u).seq % 65536 ∧
    t.unitSt k u = (if s.fld (F.EVM_CFG_MODE k u) = 0 then 0 else 1) ∧
    (t.unit k u).seq = ((s.unit k u).seq + 1) % 65536 := by
  have hrun : (unitRunning k u p (s.isStart k u p) (s.isStop k u p)).run s =
      (unitResult k u ((p.t : Int) - (s.unit k u).start) (s.unit k u).start 0 p.t).run
        ((modUnit k u fun x => { x with hold := x.hold || p.hold }).run s) := by
    rw [unitRunning, run_ask, hstart, hstop, if_pos rfl, run_seqs_cons, run_seqs_cons, run_seqs_cons, run_seqs_nil,
      if_neg (by simp; omega)]
    rfl
  have hgiven := unitResult_given k u ((p.t : Int) - (s.unit k u).start) (s.unit k u).start 0 p.t
    ((modUnit k u fun x => { x with hold := x.hold || p.hold }).run s)
  rw [run_unitStamp_running hoff hst hacc hd, hrun, run_disarmIfDue_none]
  · obtain ⟨hivl, hsub, hseq, -, hstate, hunit⟩ := hgiven
    rw [modUnit_unit] at hseq hunit
    exact ⟨hivl, hsub, hseq, hstate, congrArg UnitSt.seq hunit⟩
  · rw [hgiven.unit, modUnit_unit]
    exact hoff

/-- A stop at an ARMED unit, with no window for reversed order and no start about to come, is counted (Table 6.2). -/
theorem run_unitStamp_noStart (hoff : (s.unit k u).off = none) (hst : s.unitSt k u = 1) (hacc : s.unitAccepts k u p = true)
    (hmode : s.fld (F.EVM_CFG_MODE k u) ≠ 2) (hstart : s.isStart k u p = false) (hstop : s.isStop k u p = true)
    (hwin : s.fld (F.EVM_RWIN_CYC k u) = 0) (hcome : s.startNear k u p.t = false) :
    (unitStamp k u p).run s = (count (F.EVM_CNT_NOSTART k u)).run s := by
  have harmed : (unitArmed k u p (s.isStart k u p) (s.isStop k u p)).run s = (count (F.EVM_CNT_NOSTART k u)).run s := by
    simp [unitArmed, hmode, hstart, hstop, hwin, hcome]
  rw [run_unitStamp_armed hoff hst hacc, harmed]
  refine run_disarmIfDue_none ?_
  rwa [run_count, State.unit_congr (State.setFld_dev _)]

end

end Sys2Proof.Machine

/-! A core that acts on one stamp (R203): each unit acts on it, and no unit changes what another has measured. -/
namespace Sys2Proof.Machine

/-- Of the programs of a list without repetition, one runs on a state, and leaves a state, that agree in what the others keep with
those before and after the list. -/
theorem each_alone {ι γ : Type} {l : List ι} {f : ι → Prog} {u : ι} {Q : RegKey → Prop} {A : Nat → Prop} {π : Dev → γ}
    (hu : u ∈ l) (hl : l.Nodup) (h : ∀ v ∈ l, v ≠ u → (f v).Within Q A π) (s : State) :
    ∃ a, s.Agrees a Q A π ∧ ((f u).run a).Agrees ((each l f).run s) Q A π := by
  induction l generalizing s with
  | nil => simp at hu
  | cons v l ih =>
    obtain ⟨hv, hl⟩ := List.nodup_cons.1 hl
    rw [run_each_cons]
    rcases List.mem_cons.1 hu with rfl | hu
    · exact ⟨s, State.Agrees.refl s,
        (within_each.2 fun w hw => h w (by simp [hw]) (by rintro rfl; exact hv hw)).agrees ((f u).run s)⟩
    · obtain ⟨a, hbefore, hafter⟩ := ih hu hl (fun w hw => h w (by simp [hw])) ((f v).run s)
      exact ⟨a, ((h v (by simp) (by rintro rfl; exact hv hu)).agrees s).trans hbefore, hafter⟩

/-- The registers that the units of core `k` other than `u` may change. -/
def OtherUnits (k u : Nat) (r : RegKey) : Prop := (r.id ∈ unitNames ∧ ¬(r.u = k ∧ r.i = u)) ∨ r.id ∈ sharedNames

/-- What unit `u` of a core holds, and the stamps that wait for the core. -/
abbrev CoreSt.measures (u : Nat) (c : CoreSt) : UnitSt × List Stamp := (c.units.get {} u, c.stamps)

/-- The registers that the events of a core can change. -/
abbrev eventNames : List RegId :=
  [.EVM_CNT, .EVM_DROP, .EVM_INFO, .EVM_IVL_HI, .EVM_IVL_LO, .EVM_STATE, .EVM_STAT, .EVM_ST_HI, .EVM_ST_LO, .EVM_SUBR, .RING_STAT,
    .MEM_ECCCNT, .MEM_ECCA_LO, .MEM_ECCA_HI, .PWR_LOST, .IRQ_PEND, .IRQ_CNT]

theorem unitFoot_other {k u v : Nat} (h : v ≠ u) : UnitFoot k v (OtherUnits k u) InPad (CoreSt.measures u) :=
  ⟨fun _ hr => .inl ⟨hr, fun e => h e.2⟩, fun _ hr => .inr hr, fun _ hx => hx,
    fun c f => by simp [CoreSt.measures, Table.get_mod_other _ _ _ _ _ h.symm], fun _ _ => rfl⟩

/-- Any unit of a core keeps within the registers of events. -/
theorem unitFoot_events {α : Type} {φ : CoreSt → α} {k u : Nat} (hunit : ∀ c f, φ { c with units := c.units.mod {} u f } = φ c)
    (hseq : ∀ c x, φ { c with seq := x } = φ c) : UnitFoot k u (fun r => r.id ∈ eventNames) InPad φ :=
  ⟨fun r hr => (by decide : unitNames ⊆ eventNames) hr, fun r hr => (by decide : sharedNames ⊆ eventNames) hr,
    fun _ hx => hx, hunit, hseq⟩

/-- A core takes the change that is made to it. -/
theorem modCore_cst (k : Nat) (f : CoreSt → CoreSt) (s : State) : ((modCore k f).run s).cst k = f (s.cst k) :=
  Table.get_mod_same _ _ _ _

/-- What unit `u` of core `k` holds. -/
abbrev Dev.unitOf (k u : Nat) (d : Dev) : UnitSt := (d.cores.get {} k).units.get {} u

section
variable {s : State} {k : Nat} {q : Stamp}

theorem State.Agrees.unit {t : State} {u : Nat} {Q : RegKey → Prop} {A : Nat → Prop} (h : s.Agrees t Q A (Dev.unitOf k u)) :
    t.unit k u = s.unit k u := h.view

theorem State.Agrees.unitSt {t : State} {u : Nat} {A : Nat → Prop} (h : s.Agrees t (OtherUnits k u) A (Dev.unitOf k u)) :
    t.unitSt k u = s.unitSt k u := h.fld (by simp [OtherUnits, ringNames])

theorem gateNext_open (h : s.fld (F.EVM_GATE_SRC k) = 0) : s.gateNext k = none := if_pos h

/-- An OPEN gate does not change (R205). -/
theorem run_gateSettle_open (x : Nat) (h : s.fld (F.EVM_GATE_SRC k) = 0) : (gateSettle k x).run s = s := by
  rw [gateSettle, run_ask, gateUpTo, run_ask, gateNext_open h]
  rfl

/-- Time has gone on to the boundary of a stamp, which waits no more. -/
def State.stampTaken (s : State) (k : Nat) (q : Stamp) : State :=
  (modCore k fun c => { c with stamps := c.stamps.erase q }).run ((advance (s.boundary q.from_)).run s)

theorem stampTaken_cst (s : State) (k : Nat) (q : Stamp) :
    (s.stampTaken k q).cst k = { s.cst k with stamps := (s.cst k).stamps.erase q } := by
  rw [State.stampTaken, modCore_cst]
  rfl

/-- A core with one stamp has each unit act on it, at the boundary that the stamp gives. -/
theorem run_stampAction_single (hq : (s.cst k).stamps = [q]) (hgate : s.fld (F.EVM_GATE_SRC k) = 0) :
    (progStampAction k).run s = (each units fun u => unitStamp k u q).run (s.stampTaken k q) := by
  have hdue : s.stampsDue k = some (s.boundary q.from_) := by simp [State.stampsDue, hq]
  have hq' : (((advance (s.boundary q.from_)).run s).cst k).stamps = [q] := hq
  have hb : ((advance (s.boundary q.from_)).run s).boundary q.from_ = s.boundary q.from_ := rfl
  simp only [progStampAction, run_ask, hdue, run_seqs_cons, run_seqs_nil, run_gateSettle_open _ hgate, stampsAct, hq',
    List.filter_cons, hb, decide_true, if_true, List.filter_nil, List.foldr_cons, List.foldr_nil, insertStamp, run_each_cons,
    run_each_nil, State.stampTaken]

/-- Before and after a unit acts on the stamp of its core, the other units change nothing of what it holds and of its registers; no
stamp waits any more. -/
theorem stampAction_alone {u : Nat} (hu : u < 4) (hq : (s.cst k).stamps = [q]) (hgate : s.fld (F.EVM_GATE_SRC k) = 0) :
    ∃ a, s.Agrees a (OtherUnits k u) InPad (Dev.unitOf k u) ∧ (a.cst k).stamps = [] ∧
      ((unitStamp k u q).run a).Agrees ((progStampAction k).run s) (OtherUnits k u) InPad (Dev.unitOf k u) := by
  have hview (d e : Dev) (h : Dev.view 0 k (fun _ => ()) (CoreSt.measures u) d = Dev.view 0 k (fun _ => ()) (CoreSt.measures u) e) :
      Dev.unitOf k u d = Dev.unitOf k u e := congrArg (·.2.2.1) h
  obtain ⟨a, hbefore, hafter⟩ := each_alone (f := fun u => unitStamp k u q) (Q := OtherUnits k u) (A := InPad)
    (π := Dev.view 0 k (fun _ => ()) (CoreSt.measures u)) (List.mem_range.2 hu) List.nodup_range
    (fun v _ hv => within_unitStamp (unitFoot_other hv)) (s.stampTaken k q)
  have hstart : s.Agrees (s.stampTaken k q) (OtherUnits k u) InPad (Dev.unitOf k u) :=
    ⟨fun _ _ => rfl, fun _ _ => rfl, congrArg (·.units.get {} u) (stampTaken_cst s k q)⟩
  refine ⟨a, hstart.trans (hbefore.coarser hview), (congrArg Prod.snd hbefore.cst).trans (by simp [stampTaken_cst, hq]), ?_⟩
  rw [run_stampAction_single hq hgate]
  exact hafter.coarser hview

/-- What a core changes that acts on one stamp: the stamp is gone, and time has gone on to its boundary. -/
theorem stampAction_frame (hq : (s.cst k).stamps = [q]) (hgate : s.fld (F.EVM_GATE_SRC k) = 0) :
    let t := (progStampAction k).run s
    (t.cst k).stamps = [] ∧ t.now = s.onTo (s.boundary q.from_) ∧ s.KeepsRegs t eventNames ∧ s.KeepsBytesBut t padBase 0x1001000 := by
  have hagrees : (s.stampTaken k q).Agrees ((each units fun u => unitStamp k u q).run (s.stampTaken k q)) (fun r => r.id ∈ eventNames)
      InPad (Dev.view 0 k (fun _ => ()) fun c => c.stamps) :=
    (within_each.2 fun u _ => within_unitStamp (unitFoot_events (fun _ _ => rfl) fun _ _ => rfl)).agrees _
  rw [run_stampAction_single hq hgate]
  have htaken : ((s.stampTaken k q).cst k).stamps = [] := by simp [stampTaken_cst, hq]
  exact ⟨hagrees.cst.trans htaken, hagrees.now, hagrees.reg, hagrees.byte⟩

end

end Sys2Proof.Machine

/-! Stamps at the units of a core: the clauses' common part. -/
namespace Sys2Proof.Machine

section
variable {s a : State} {k u : Nat} {q : Stamp} {A : Nat → Prop}

theorem State.Agrees.isStart (h : s.Agrees a (OtherUnits k u) A (Dev.unitOf k u)) : a.isStart k u q = s.isStart k u q := by
  rw [State.isStart, h.fld (by simp [OtherUnits, ringNames]), h.fld (by simp [OtherUnits, ringNames])]

theorem State.Agrees.isStop (h : s.Agrees a (OtherUnits k u) A (Dev.unitOf k u)) : a.isStop k u q = s.isStop k u q := by
  rw [State.isStop, h.fld (by simp [OtherUnits, ringNames]), h.fld (by simp [OtherUnits, ringNames])]

theorem State.Agrees.accepts (h : s.Agrees a (OtherUnits k u) A (Dev.unitOf k u)) (ha : (s.unit k u).a ≤ q.t)
    (hoff : (s.unit k u).off = none) (hg : s.flg (F.EVM_CFG_GATED k u) = false) : a.unitAccepts k u q = true :=
  unitAccepts_ungated (by rwa [h.unit]) (by rwa [h.unit])
    (by rwa [State.flg, h.fld (by simp [OtherUnits, ringNames]), ← State.flg])

theorem unsigned_sub {x y : Nat} (w : Nat) (h : y ≤ x) : unsigned w ((x : Int) - y) = (x - y) % 2 ^ w := by
  rw [unsigned, ← Int.natCast_sub h, ← Int.natCast_emod, Int.toNat_natCast]

end

end Sys2Proof.Machine

/-! Edges on the inputs (R199 to R204): what the levels show, and what a lane stamps or misses. -/
namespace Sys2Proof.Machine

section
variable {s : State} {i raw l x : Nat} {fall : Bool}

/-- The sample that first sees an edge (R206): a later one where the spec leaves it open. -/
def State.sampleOf (s : State) (raw : Nat) : Nat :=
  let c := divUp (s.countTime raw) 256
  let b := s.boundary c
  if Config.freeValue s.dev.draws % 2 = 1 && b ≤ c + 8 then s.boundary (b + 1) else b

/-- The input has its new level, and an edge that wakes is noted. -/
def State.edgeSeen (s : State) (i : Nat) (fall : Bool) (raw : Nat) : State :=
  s.modDev fun d => { d with
    draws := d.draws + 1
    evt := { d.evt with
      levels := d.evt.levels.mod [] i fun l => (s.sampleOf raw, s.lastBoundary (s.sampleOf raw - 1), !fall) :: l }
    rst := { d.rst with wakeDue := d.rst.wakeDue || (1 ≤ d.rst.hib && (s.fld F.PWR_WAKE_EV).testBit i) } }

/-- While the core domain has power, an edge shows its level and reaches the lanes. -/
theorem run_progEdge (ha : s.awake = true) : (progEdge i fall raw).run s = (progEvEdge i fall raw).run (s.edgeSeen i fall raw) := by
  simp only [State.awake, Bool.and_eq_true, decide_eq_true_eq] at ha
  obtain ⟨hhib, hpor⟩ := ha
  rw [progEdge, run_ask, run_seqs_cons, run_seqs_cons, run_seqs_nil, if_neg (not_not.2 hpor), if_neg (by omega), run_seqs_cons,
    run_seqs_cons, run_seqs_nil, run_when]
  have hlevel : (levelEdge i (!fall) raw).run s = s.modDev fun d => { d with
      draws := d.draws + 1
      evt := { d.evt with
        levels := d.evt.levels.mod [] i fun l => (s.sampleOf raw, s.lastBoundary (s.sampleOf raw - 1), !fall) :: l } } := rfl
  rw [hlevel, State.edgeSeen]
  cases hwake : decide (1 ≤ s.dev.rst.hib) && (s.fld F.PWR_WAKE_EV).testBit i
  · simp [State.modDev, hwake]
  · simp [State.modDev, hwake, modRst]

/-- The last stamp of lane `l` lies closer than 1.2 ns before the count `raw` (R201). -/
def State.edgeNear (s : State) (l raw : Nat) : Bool := (s.dev.evt.last.find? fun e => e.1 = l).any fun e => raw < e.2 + 922

/-- Eight stamps of lane `l` wait for their boundary at the instant `x` (R201). -/
def State.queueFull (s : State) (l x : Nat) : Bool :=
  8 ≤ (s.dev.evt.queue.filter fun q => q.1 = l && x / 256 < s.boundary q.2).length

/-- An edge that one lane selects is stamped by it, or missed. -/
theorem run_progEvEdge_one (h : ((List.range 20).filter fun j => s.laneTakes j i fall) = [l]) : (progEvEdge i fall raw).run s =
    (if s.edgeNear l raw || s.queueFull l (s.stampValue l raw) then laneLoss l i else
      seqs [advance (s.stampValue l raw / 256), laneStamp l i fall raw (s.stampValue l raw) s.holdover]).run s := by
  rw [progEvEdge, run_ask, h, run_each_cons, run_each_nil, run_ask]
  dsimp only
  cases hlast : s.dev.evt.last.find? fun e => e.1 = l <;> simp [State.edgeNear, State.queueFull, hlast]

end

end Sys2Proof.Machine

/-! What a lane does with an edge (R201 to R204): a stamp, or a loss. -/
namespace Sys2Proof.Machine

/-- Line Time, the event inputs, the interrupts, and the stamps that wait for core `k`. -/
abbrev Dev.lanes (k : Nat) (d : Dev) : (LtSt × EvtSt × IrqSt) × List Stamp := ((d.lt, d.evt, d.irq), (d.cores.get {} k).stamps)

section
variable {s : State} {i j k raw l x : Nat} {fall hold : Bool} {p : Stamp} {Q : RegKey → Prop} {A : Nat → Prop}

/-- A change of a core that leaves its stamps. -/
theorem within_modCore_lanes {f : CoreSt → CoreSt} (h : ∀ c, (f c).stamps = c.stamps) : (modCore j f).Within Q A (Dev.lanes k) := by
  refine within_dev fun d => Prod.ext rfl ?_
  by_cases hk : k = j
  · simp [hk, h]
  · simp [Table.get_mod_other _ _ _ _ _ hk]

/-! A loss -/

theorem lostField_ok (l : Nat) : (lostField l).ok = true := by
  have h : l % 4 = 0 ∨ l % 4 = 1 ∨ l % 4 = 2 ∨ l % 4 = 3 := by omega
  rcases h with h | h | h | h <;> simp only [Field.ok, lostField, h] <;> decide +kernel

/-- The bit of lane `l` in `EVT.STAT`. -/
theorem lossField_ok (l : Fin 20) : (⟨R.EVT_STAT, l, 1⟩ : Field).ok = true :=
  (by decide +kernel : ∀ l : Fin 20, (⟨R.EVT_STAT, l, 1⟩ : Field).ok = true) l

/-- The units that use lane `l` on input `i` note that it has missed an edge. -/
def lossNoted (l i : Nat) : Prog :=
  each cores fun k => each units fun u =>
    on (fun s => s.unitSt k u ≠ 0 && s.unitUses k u l i) (modUnit k u fun x => { x with loss := true })

theorem within_lossNoted : (lossNoted l i).Within Q A (Dev.lanes k) := by
  simp only [lossNoted, within_each, within_on]
  exact fun _ _ _ _ _ _ => within_modCore_lanes fun _ => rfl

/-- A lane that misses an edge counts it; nothing else changes but what units note. -/
theorem laneLoss_counts (l : Fin 20) (i : Nat) (s : State) : let t := (laneLoss l i).run s
    t.fld (lostField l) = satInc 8 (s.fld (lostField l)) ∧ t.fld ⟨R.EVT_STAT, l, 1⟩ = 1 ∧
    s.Agrees t (fun r => r.id ∈ [RegId.EVT_LOST, .EVT_STAT]) (fun _ => False) (Dev.lanes 0) := by
  have hnotes (v : State) : v.Agrees ((lossNoted l i).run v) (fun _ => False) (fun _ => False) (Dev.lanes 0) :=
    within_lossNoted.agrees v
  have hne : (lostField l).reg ≠ R.EVT_STAT := by simp [lostField]
  rw [laneLoss, run_seqs_cons, run_seqs_cons, run_seqs_cons, run_seqs_nil, run_count, run_setB, ← lossNoted]
  refine ⟨?_, ?_, fun r hr => ((hnotes _).reg r id).trans ?_, fun a _ => (hnotes _).byte a id, (hnotes _).view⟩
  · rw [(hnotes _).fld id, State.fld_setFld_reg _ _ _ _ hne, State.fld_setFld _ _ _ (lostField_ok l)]
    exact Nat.mod_eq_of_lt (satInc_lt 8 _)
  · exact ((hnotes _).fld id).trans (State.fld_setFld _ _ _ (lossField_ok l))
  · simp only [List.mem_cons, List.not_mem_nil, or_false, not_or] at hr
    rw [State.reg_setFld_other _ _ (by rintro rfl; simp at hr), State.reg_setFld_other _ _ (by rintro rfl; simp [lostField] at hr)]

/-! A stamp -/

/-- A stamp of lane `l` stays in its queue (R201). -/
def State.stampQueued (s : State) (l raw : Nat) (p : Stamp) : State :=
  s.modDev fun d => { d with evt := { d.evt with
    last := d.evt.last.put l raw
    queue := (d.evt.queue.filter fun q => s.now < s.boundary q.2) ++ [(l, p.from_)] } }

/-- `EVT.LAST` of lane `l` shows a stamp of value `x`. -/
def lastShown (l x : Nat) (fall hold : Bool) : Prog :=
  seqs [set64 (R.EVT_LAST_LO l) (R.EVT_LAST_HI l) (x / 256), setF (F.EVT_LAST_INFO_SUB l) x,
    setF (F.EVT_LAST_INFO_FALL l) (if fall then 1 else 0), setF (F.EVT_LAST_INFO_HOLD l) (if hold then 1 else 0)]

/-- Every core is to act on stamp `p`, which is a trigger for the captures that take it. -/
def stampSent (s : State) (i l x : Nat) (fall : Bool) (p : Stamp) : Prog :=
  seqs [each cores fun k => modCore k fun c => { c with stamps := c.stamps ++ [p] },
    each (cores.filter s.leads) fun k =>
      when ((s.cst k).cap.tedge = 2 || (s.cst k).cap.tedge = (if fall then 1 else 0)) (offerTrigger k (i + 1) l x)]

theorem run_laneStamp : (laneStamp l i fall raw x hold).run s = (when (s.flg (F.EVT_IN_IRQ i)) (raise (129 + i))).run
    ((stampSent s i l x fall (s.stampOf x (i + 1) fall l hold)).run
      ((lastShown l x fall hold).run (s.stampQueued l raw (s.stampOf x (i + 1) fall l hold)))) := by
  rw [laneStamp, run_ask]
  dsimp only
  iterate 8 rw [run_seqs_cons]
  rw [run_seqs_nil, lastShown]
  iterate 4 rw [run_seqs_cons]
  rw [run_seqs_nil, stampSent, run_seqs_cons, run_seqs_cons, run_seqs_nil]
  rfl

theorem lastFields_ok (l : Nat) : (F.EVT_LAST_INFO_SUB l).ok = true ∧ (F.EVT_LAST_INFO_FALL l).ok = true ∧
    (F.EVT_LAST_INFO_HOLD l).ok = true :=
  (by decide +kernel : (F.EVT_LAST_INFO_SUB 0).ok = true ∧ (F.EVT_LAST_INFO_FALL 0).ok = true ∧ (F.EVT_LAST_INFO_HOLD 0).ok = true)

/-- The registers of a lane's last stamp. -/
abbrev lastNames : List RegId := [.EVT_LAST_LO, .EVT_LAST_HI, .EVT_LAST_INFO]

/-- A 64-bit pair of registers without reserved bits takes a number's low 64 bits (R9). -/
theorem reg64_set64_mod {lo hi : RegKey} (hne : lo ≠ hi) (hlo : lo.id.mask = BitVec.allOnes 32) (hhi : hi.id.mask = BitVec.allOnes 32) :
    ((set64 lo hi x).run s).reg64 lo hi = x % 2 ^ 64 := by
  rw [run_set64, State.reg64, State.reg_setReg, State.reg_setReg_other _ _ _ _ hne, State.reg_setReg, hlo, hhi,
    BitVec.and_allOnes, BitVec.and_allOnes, BitVec.toNat_ofNat, BitVec.toNat_ofNat]
  exact (Nat.mod_mul (a := 2 ^ 32) (b := 2 ^ 32)).symm

theorem bitNat_mod (b : Bool) : decide ((if b then 1 else 0) % 2 ^ 1 = 1) = b := by cases b <;> rfl

theorem lastShown_shows (l x : Nat) (fall hold : Bool) (s : State) : let t := (lastShown l x fall hold).run s
    t.reg64 (R.EVT_LAST_LO l) (R.EVT_LAST_HI l) = x / 256 % 2 ^ 64 ∧ t.fld (F.EVT_LAST_INFO_SUB l) = x % 256 ∧
    t.flg (F.EVT_LAST_INFO_FALL l) = fall ∧ t.flg (F.EVT_LAST_INFO_HOLD l) = hold := by
  obtain ⟨hsub, hfall, hhold⟩ := lastFields_ok l
  have hmask : RegId.EVT_LAST_LO.mask = BitVec.allOnes 32 ∧ RegId.EVT_LAST_HI.mask = BitVec.allOnes 32 := by decide +kernel
  rw [lastShown]
  iterate 4 rw [run_seqs_cons]
  rw [run_seqs_nil, run_setF, run_setF, run_setF]
  refine ⟨(State.reg64_congr ?_ ?_).trans (reg64_set64_mod (s := s) (by simp) hmask.1 hmask.2), ?_, ?_, ?_⟩
  · simp (disch := simp) only [State.reg_setFld_other]
  · simp (disch := simp) only [State.reg_setFld_other]
  · rw [State.fld_setFld_apart _ _ _ _ hsub (by simp), State.fld_setFld_apart _ _ _ _ hsub (by simp), State.fld_setFld _ _ _ hsub]
    rfl
  · rw [State.flg, State.fld_setFld_apart _ _ _ _ hfall (by simp), State.fld_setFld _ _ _ hfall]
    exact bitNat_mod fall
  · rw [State.flg, State.fld_setFld _ _ _ hhold]
    exact bitNat_mod hold

theorem within_offers {src lane : Nat} : (offerTrigger j src lane x).Within Q A (Dev.lanes k) := by
  rw [offerTrigger, within_on]
  exact fun _ _ => within_ask.2 fun _ => within_modCore_lanes fun _ => rfl

/-- A stamp reaches each core once; beside the cores it changes nothing. -/
theorem stampSent_reaches (hk : k < 68) (v : State) : let t := (stampSent s i l x fall p).run v
    (t.cst k).stamps = (v.cst k).stamps ++ [p] ∧
    v.Agrees t (fun _ => False) (fun _ => False) fun d => (d.lt, d.evt, d.irq) := by
  have hoffers : (each (cores.filter s.leads) fun k =>
      when ((s.cst k).cap.tedge = 2 || (s.cst k).cap.tedge = (if fall then 1 else 0)) (offerTrigger k (i + 1) l x)).Within
      (fun _ => False) (fun _ => False) (Dev.lanes k) := by
    simp only [within_each, within_when]
    exact fun _ _ _ => within_offers
  have hother (j : Nat) (hj : j ≠ k) : (modCore j fun c => { c with stamps := c.stamps ++ [p] }).Within (fun _ => False)
      (fun _ => False) (Dev.lanes k) :=
    within_dev fun d => Prod.ext rfl (by simp [Table.get_mod_other _ _ _ _ _ hj.symm])
  obtain ⟨a, hbefore, hafter⟩ := each_alone (f := fun k => modCore k fun c => { c with stamps := c.stamps ++ [p] })
    (List.mem_range.2 hk) List.nodup_range (fun j _ hj => hother j hj) v
  rw [stampSent, run_seqs_cons, run_seqs_cons, run_seqs_nil]
  have hall := hafter.trans (hoffers.agrees _)
  have hsent := modCore_cst k (fun c => { c with stamps := c.stamps ++ [p] }) a
  refine ⟨(congrArg Prod.snd hall.view).trans ((congrArg CoreSt.stamps hsent).trans ?_), fun r hr => ?_, fun b hb => ?_, ?_⟩
  · exact congrArg (· ++ [p]) (congrArg Prod.snd hbefore.view)
  · exact (hall.reg r hr).trans (hbefore.reg r hr)
  · exact (hall.byte b hb).trans (hbefore.byte b hb)
  · exact (congrArg Prod.fst hall.view).trans (congrArg Prod.fst hbefore.view)

/-- `t` is `s` after lane `l` has stamped an edge of input `i` (R202 to R204). -/
structure EdgeStamped (s t : State) (i l x : Nat) (fall hold : Bool) : Prop where
  sent : ∀ k < 68, (t.cst k).stamps = (s.cst k).stamps ++ [s.stampOf x (i + 1) fall l hold]
  cycles : t.reg64 (R.EVT_LAST_LO l) (R.EVT_LAST_HI l) = x / 256 % 2 ^ 64
  sub : t.fld (F.EVT_LAST_INFO_SUB l) = x % 256
  fall : t.flg (F.EVT_LAST_INFO_FALL l) = fall
  hold : t.flg (F.EVT_LAST_INFO_HOLD l) = hold
  raised : s.flg (F.EVT_IN_IRQ i) = true → s.Raised t (129 + i) = true
  levels : t.dev.evt.levels = s.dev.evt.levels
  now : t.now = s.now
  regs : s.KeepsRegs t (lastNames ++ [.IRQ_PEND, .IRQ_CNT])
  bytes : s.KeepsBytes t

theorem laneStamp_stamps (i : Fin 16) (l raw x : Nat) (fall hold : Bool) (s : State) :
    EdgeStamped s ((laneStamp l i fall raw x hold).run s) i l x fall hold := by
  obtain ⟨hcycles, hsub, hfall, hhold⟩ := lastShown_shows l x fall hold (s.stampQueued l raw (s.stampOf x (i + 1) fall l hold))
  have hshown : (lastShown l x fall hold).Within (fun r => r.id ∈ lastNames) (fun _ => False) id := by simp [lastShown]
  have hshown := hshown.agrees (s.stampQueued l raw (s.stampOf x (i + 1) fall l hold))
  rw [run_laneStamp]
  generalize (lastShown l x fall hold).run (s.stampQueued l raw (s.stampOf x (i + 1) fall l hold)) = a at *
  have hdev : a.dev = (s.stampQueued l raw (s.stampOf x (i + 1) fall l hold)).dev := hshown.view
  have hsent (k : Nat) (hk : k < 68) := stampSent_reaches (s := s) (i := i) (l := l) (x := x) (fall := fall)
    (p := s.stampOf x (i + 1) fall l hold) hk a
  generalize (stampSent s i l x fall (s.stampOf x (i + 1) fall l hold)).run a = b at *
  obtain ⟨-, hbeside⟩ := hsent 0 (by decide)
  have hraise (k : Nat) := (within_when.2 fun _ => within_raise_blind (fun _ _ _ => rfl) (covers_self _) :
    (when (s.flg (F.EVT_IN_IRQ i)) (raise (129 + i))).Within (fun r => r.id ∈ [RegId.IRQ_PEND, .IRQ_CNT]) (fun _ => False)
      fun d => ((d.lt, d.evt), (d.cores.get {} k).stamps)).agrees b
  have hafter (f : Field) (hf : f.reg.id ∉ [RegId.IRQ_PEND, .IRQ_CNT]) :
      ((when (s.flg (F.EVT_IN_IRQ i)) (raise (129 + i))).run b).fld f = a.fld f :=
    ((hraise 0).fld hf).trans (hbeside.fld id)
  constructor
  case sent =>
    intro k hk
    refine (congrArg Prod.snd (hraise k).view).trans ((hsent k hk).1.trans ?_)
    rw [State.cst, hdev]
    rfl
  case cycles =>
    refine (State.reg64_congr ?_ ?_).trans hcycles <;>
      exact ((hraise 0).reg _ (by simp)).trans (hbeside.reg _ id)
  case sub => exact (hafter _ (by simp)).trans hsub
  case fall => rwa [State.flg, hafter _ (by simp)]
  case hold => rwa [State.flg, hafter _ (by simp)]
  case raised =>
    intro hirq
    have hlevel : sourceLevel (129 + i) = false := by simp [sourceLevel]; omega
    rw [run_when, if_pos hirq]
    refine raised_between (raised_raise (s := b) (by omega) (by omega) hlevel rfl rfl) ?_ ?_ rfl
    · exact (congrArg Dev.irq hdev).symm.trans (congrArg (·.2.2) hbeside.view).symm
    · exact ((hbeside.fld id).trans (hshown.fld (by simp [cntField]))).symm
  case levels =>
    refine (congrArg (·.1.2.levels) (hraise 0).view).trans ((congrArg (·.2.1.levels) hbeside.view).trans ?_)
    exact congrArg (·.evt.levels) hdev
  case now =>
    refine (congrArg (·.1.1.cyc) (hraise 0).view).trans ((congrArg (·.1.cyc) hbeside.view).trans ?_)
    exact congrArg (·.lt.cyc) hdev
  case regs =>
    intro r hr
    simp only [List.mem_append, not_or] at hr
    exact ((hraise 0).reg r hr.2).trans ((hbeside.reg r id).trans (hshown.reg r hr.1))
  case bytes => exact fun x => ((hraise 0).byte x id).trans ((hbeside.byte x id).trans (hshown.byte x id))

end

end Sys2Proof.Machine

/-! Edges, clause by clause. -/
namespace Sys2Proof.Machine

section
variable {s : State} {i raw : Nat} {fall : Bool}

/-- The newest level of an input on which an edge has been seen is the edge's. -/
theorem edgeSeen_level (s : State) (i : Nat) (fall : Bool) (raw : Nat) :
    (((s.edgeSeen i fall raw).dev.evt.levels.get [] i).head?.any fun e => e.2.2 != fall) = true := by
  have h : (s.edgeSeen i fall raw).dev.evt.levels.get [] i =
      (s.sampleOf raw, s.lastBoundary (s.sampleOf raw - 1), !fall) :: s.dev.evt.levels.get [] i := Table.get_mod_same _ _ _ _
  rw [h]
  cases fall <;> rfl

/-- An edge that no lane selects reaches none. -/
theorem run_progEvEdge_none (h : ((List.range 20).all fun j => !s.laneTakes j i fall) = true) : (progEvEdge i fall raw).run s = s := by
  have hnone : ((List.range 20).filter fun j => s.laneTakes j i fall) = [] := by
    rw [List.filter_eq_nil_iff]
    intro j hj
    simpa using List.all_eq_true.1 h j hj
  rw [progEvEdge, run_ask, hnone, run_each_nil]

end

end Sys2Proof.Machine

/-! Reads that latch the rest of a stamp or of a result (R9, R204, R216). -/
namespace Sys2Proof.Machine

section
variable {s : State} {p : Port} {m : Nat} {k x : RegKey} {P : State → Prop}

/-- A command that is the read of a register which its port may make reads the register. -/
theorem completes_regRead {c : Instr} (hc : exec c s = .next ((regRead p k).run s)) (hk : k.inMap = true)
    (he : expertOffset k.offset = false) (ha : s.admitsRead p k.addr = true)
    (hP : P ((readReg (portMaster p) k (toMaster p 0)).run s)) : Completes c s P := by
  simp only [State.admitsRead, Bool.and_eq_true, Bool.not_eq_true', decide_eq_true_eq] at ha
  obtain ⟨⟨hi, hf⟩, hj⟩ := ha
  rw [regRead, busRead, run_on, if_pos hi, readAt, run_judged_pass hf hj, run_readPlace_register hk he] at hc
  exact ⟨_, hc, hP⟩

/-- A read of a register that latches others leaves the master copies of them in place of older ones (R9). -/
theorem run_latchFor_all (h : latchesOf k ≠ []) : (latchFor m k).run s = ((unlatch m (latchesOf k)).run s).modDev fun d =>
    { d with bus := { d.bus with shadow := (latchesOf k).map (fun x => (m, x, s.view x)) ++ d.bus.shadow } } := by
  cases hk : latchesOf k with
  | nil => exact absurd hk h
  | cons a l =>
    simp only [latchFor, hk, run_seqs_cons, run_seqs_nil, run_ask, run_dev, view_unlatch]

theorem find?_map_key {f : RegKey → Word} {l : List RegKey} (hx : x ∈ l) (rest : List (Nat × RegKey × Word)) :
    ((l.map fun y => (m, y, f y)) ++ rest).find? (fun e => e.1 = m && e.2.1 = x) = some (m, x, f x) := by
  induction l with
  | nil => simp at hx
  | cons y l ih =>
    by_cases hy : y = x
    · simp [hy]
    · simpa [hy] using ih ((List.mem_cons.1 hx).resolve_left (Ne.symm hy))

theorem latched_latchFor (hx : x ∈ latchesOf k) : ((latchFor m k).run s).latched m x = some (s.view x) := by
  rw [run_latchFor_all (List.ne_nil_of_mem hx), State.latched]
  exact congrArg (Option.map _) (find?_map_key hx _)

/-- The words of a lane's last stamp and of a result that are read as their registers. -/
theorem view_stampWords (s : State)
    (hk : k.id ∈ [RegId.EVT_LAST_LO, .EVT_LAST_HI, .EVT_LAST_INFO, .EVM_IVL_LO, .EVM_INFO, .EVM_SUBR]) : s.view k = s.reg k := by
  have hmask : ∀ r ∈ [RegId.EVT_LAST_LO, .EVT_LAST_HI, .EVT_LAST_INFO, .EVM_IVL_LO, .EVM_INFO, .EVM_SUBR], r.woMask = 0#32 := by
    decide +kernel
  have hown : s.reg k &&& ~~~k.id.woMask = s.reg k := by rw [hmask _ hk, BitVec.not_zero, BitVec.and_allOnes]
  simp only [List.mem_cons, List.not_mem_nil, or_false] at hk
  rcases hk with hk | hk | hk | hk | hk | hk <;> simpa only [State.view, State.rawView, hk] using hown

/-- The first words of a lane's last stamp and of a result read as their registers, and latch the rest. -/
theorem run_readReg_first {go : Word → Prog} (hk : k.id ∈ [RegId.EVT_LAST_LO, .EVM_IVL_LO]) (h : s.latched m k = none) :
    (readReg m k go).run s = (go (s.reg k)).run ((latchFor m k).run s) := by
  simp only [List.mem_cons, List.not_mem_nil, or_false] at hk
  rw [← view_stampWords s (by rcases hk with hk | hk <;> simp [hk])]
  rcases hk with hk | hk <;> simp [readReg, h, settleRead, blockRead, State.blockWords, viewed, hk]

/-- `t` is `s` after a read of port `p` that answers the word of `k` and latches `rest`. -/
structure ReadLatches (s t : State) (p : Port) (k : RegKey) : Prop where
  answer : t.lastAnswer p = ⟨0, s.reg k⟩
  latched : ∀ x ∈ latchesOf k, t.latched (portMaster p) x = some (s.view x)
  regs : t.regs = s.regs
  bytes : s.KeepsBytes t

theorem readReg_latches (hk : k.id ∈ [RegId.EVT_LAST_LO, .EVM_IVL_LO]) (h : s.latched (portMaster p) k = none)
    (hn : latchesOf k ≠ []) : ReadLatches s ((readReg (portMaster p) k (toMaster p 0)).run s) p k := by
  rw [run_readReg_first hk h]
  refine ⟨lastAnswer_toMaster _ _ _ _, fun x hx => latched_latchFor hx, ?_, fun _ => ?_⟩ <;> rw [run_latchFor_all hn] <;> rfl

end

theorem evtLastLo_place (l : Fin 20) : (R.EVT_LAST_LO l).inMap = true ∧ expertOffset (R.EVT_LAST_LO l).offset = false :=
  (by decide +kernel : ∀ l : Fin 20, (R.EVT_LAST_LO l).inMap = true ∧ expertOffset (R.EVT_LAST_LO l).offset = false) l

/-- A register of a unit lies in the map. -/
theorem inMap_ofUnit {r : RegId} (k : Fin 68) (u : Fin 4) (hn : r.desc.n1 = 4 ∧ r.desc.n2 = 1) (hb : r.blk = .core)
    (hr : r ≠ .IRQ_PEND) : (⟨r, k, u, 0⟩ : RegKey).inMap = true := by simp [RegKey.inMap, hn, hb, hr]

theorem evmIvlLo_place (k : Fin 68) (u : Fin 4) : (R.EVM_IVL_LO k u).inMap = true ∧ expertOffset (R.EVM_IVL_LO k u).offset = false :=
  ⟨inMap_ofUnit k u (by decide +kernel) rfl (by decide),
    (by decide +kernel : ∀ u : Fin 4, expertOffset (R.EVM_IVL_LO 0 u).offset = false) u⟩

/-- Settles O29: an edge is seen on its input, and a lane that selects it stamps it or misses it; a unit that acts on the stamp of its
core does so apart from what the other units hold. -/
theorem edgesAreStampedAndMeasured : Obligations.EdgesAreStampedAndMeasured := by
  refine ⟨?stamped, ?near, ?free, ?last, ?starts, ?stops, ?noStart⟩
  case stamped =>
    intro s i fall raw x l k hawake hlane hx hapart hroom
    refine ⟨_, congrArg Host.Outcome.next (run_progEdge hawake), ?_⟩
    have hnear : (s.edgeSeen i fall raw).edgeNear l raw = false := by
      cases hlast : s.dev.evt.last.find? fun e => e.1 = l.val with
      | none => simp [State.edgeNear, State.edgeSeen, State.modDev, hlast]
      | some e => simpa [State.edgeNear, State.edgeSeen, State.modDev, hlast] using hapart
    have hfull : (s.edgeSeen i fall raw).queueFull l ((s.edgeSeen i fall raw).stampValue l raw) = false :=
      decide_eq_false (by subst hx; exact not_le.2 hroom)
    rw [run_progEvEdge_one (s := s.edgeSeen i fall raw) hlane, hnear, hfull, Bool.or_self, if_neg Bool.false_ne_true, run_seqs_cons,
      run_seqs_cons, run_seqs_nil, ← show x = (s.edgeSeen i fall raw).stampValue l raw from hx]
    have h := laneStamp_stamps i l raw x fall s.holdover ((advance (x / 256)).run (s.edgeSeen i fall raw))
    have hhold : (s.edgeSeen i fall raw).holdover = s.holdover := rfl
    rw [hhold]
    generalize (laneStamp l i fall raw x s.holdover).run _ = t at h ⊢
    refine ⟨h.sent k k.isLt, h.cycles, h.sub, h.fall, h.hold, ?_, h.raised, h.now, h.regs, h.bytes⟩
    rw [h.levels]
    exact edgeSeen_level s i fall raw
  case near =>
    intro s i fall raw x l hawake hlane hx hclose
    refine ⟨_, congrArg Host.Outcome.next (run_progEdge hawake), ?_⟩
    have hnear : (s.edgeSeen i fall raw).edgeNear l raw = true := hclose
    rw [run_progEvEdge_one (s := s.edgeSeen i fall raw) hlane, hnear, Bool.true_or, if_pos rfl]
    obtain ⟨hlost, hstat, hsame⟩ := laneLoss_counts l i (s.edgeSeen i fall raw)
    generalize (laneLoss l i).run (s.edgeSeen i fall raw) = t at *
    exact ⟨hlost, hstat, congrArg (·.1.2.1.last) hsame.view, congrArg (·.1.2.1.queue) hsame.view, congrArg Prod.snd hsame.view,
      congrArg (·.1.1.cyc) hsame.view, hsame.reg, fun a => hsame.byte a id⟩
  case free =>
    intro s i fall raw hawake hnone _
    refine ⟨_, congrArg Host.Outcome.next (run_progEdge hawake), ?_⟩
    rw [run_progEvEdge_none (s := s.edgeSeen i fall raw) hnone]
    exact ⟨edgeSeen_level s i fall raw, rfl, rfl, rfl, rfl, rfl, fun _ => rfl⟩
  case last =>
    intro s p l had hl
    obtain ⟨hmap, he⟩ := evtLastLo_place l
    refine completes_regRead rfl hmap he had ?_
    have h := readReg_latches (by simp) hl (by simp [latchesOf])
    refine ⟨h.answer, (h.latched _ (by simp [latchesOf])).trans (congrArg some ?_),
      (h.latched _ (by simp [latchesOf])).trans (congrArg some ?_), h.regs, h.bytes⟩ <;>
      exact view_stampWords s (by simp)
  case starts =>
    intro s k u q hawake hq ha hoff hgate hgated hst hmode hstart hnear
    refine completes_awake rfl hawake ?_
    obtain ⟨a, hbefore, -, hafter⟩ := stampAction_alone u.isLt hq hgate
    obtain ⟨hstamps, hnow, hregs, hbytes⟩ := stampAction_frame hq hgate
    rw [run_unitStamp_start (by rwa [hbefore.unit]) (by rwa [hbefore.unitSt]) (hbefore.accepts ha hoff hgated)
      (by rw [hbefore.fld (by simp [OtherUnits, ringNames]), hmode]; decide) (hbefore.isStart.trans hstart) (by rwa [hbefore.unit])]
      at hafter
    obtain ⟨hruns, hfrom, hdead⟩ := unitStart_runs k u q a
    refine ⟨hafter.unitSt.trans hruns, (congrArg UnitSt.start hafter.unit).trans hfrom,
      (congrArg UnitSt.deadline hafter.unit).trans (hdead.trans ?_), hstamps, hnow, hregs, hbytes⟩
    rw [State.unitDeadline, State.reg64_congr (hbefore.reg _ (by simp [OtherUnits, ringNames]))
      (hbefore.reg _ (by simp [OtherUnits, ringNames])), State.unitDeadline]
  case stops =>
    intro s k u q hawake hq ha hoff hgate hgated hst hmode hstart hstop hlate hdead
    refine completes_awake rfl hawake ?_
    obtain ⟨a, hbefore, -, hafter⟩ := stampAction_alone u.isLt hq hgate
    obtain ⟨hstamps, hnow, hregs, hbytes⟩ := stampAction_frame hq hgate
    obtain ⟨hivl, hsub, hseq, hstate, hnext⟩ := unitStamp_stop (by rwa [hbefore.unit]) (by rwa [hbefore.unitSt])
      (hbefore.accepts ha hoff hgated) (by rwa [hbefore.unit]) (hbefore.isStart.trans hstart) (hbefore.isStop.trans hstop)
      (by rwa [hbefore.unit])
    rw [hbefore.unit] at hivl hsub hseq hnext
    rw [hbefore.fld (by simp [OtherUnits, ringNames]), if_pos hmode] at hstate
    refine ⟨hafter.unitSt.trans hstate, ?_, (hafter.fld (by simp [OtherUnits, ringNames])).trans hsub,
      (hafter.fld (by simp [OtherUnits, ringNames])).trans hseq, (congrArg UnitSt.seq hafter.unit).trans hnext, hstamps, hregs, hbytes⟩
    refine (State.reg64_congr (hafter.reg _ ?_) (hafter.reg _ ?_)).trans (hivl.trans (unsigned_sub 64 (by omega)))
    · simp [OtherUnits, ringNames]
    · simp [OtherUnits, ringNames]
  case noStart =>
    intro s k u q hawake hq ha hoff hgate hgated hst hmode hstart hstop hwin
    refine completes_awake rfl hawake ?_
    obtain ⟨a, hbefore, hnone, hafter⟩ := stampAction_alone u.isLt hq hgate
    obtain ⟨hstamps, hnow, hregs, hbytes⟩ := stampAction_frame hq hgate
    rw [run_unitStamp_noStart (by rwa [hbefore.unit]) (by rwa [hbefore.unitSt]) (hbefore.accepts ha hoff hgated)
      (by rwa [hbefore.fld (by simp [OtherUnits, ringNames])]) (hbefore.isStart.trans hstart) (hbefore.isStop.trans hstop)
      (by rwa [hbefore.fld (by simp [OtherUnits, ringNames])]) (by simp [State.startNear, hnone]), run_count] at hafter
    obtain ⟨-, -, -, hcount, -⟩ := unitFields_ok k u
    refine ⟨hafter.unitSt.trans ?_, (hafter.fld (by simp [OtherUnits, ringNames])).trans ?_, hstamps, hregs, hbytes⟩
    · exact (State.fld_setFld_reg _ _ _ _ (by simp)).trans (hbefore.unitSt.trans hst)
    · rw [State.fld_setFld _ _ _ hcount, hbefore.fld (by simp [OtherUnits, ringNames])]
      exact Nat.mod_eq_of_lt (satInc_lt 8 _)

end Sys2Proof.Machine

/-! ARM and DISARM of a unit (R208 to R210). -/
namespace Sys2Proof.Machine

/-! The control register of a unit -/

theorem inMap_evmCtl (k : Fin 68) (u : Fin 4) : (R.EVM_CTL k u).inMap = true := inMap_ofUnit k u (by decide +kernel) rfl (by decide)

/-- The registers of the page of the units are written by the part of the model that gives them a meaning. -/
theorem writeOwn_units {k : RegKey} (hb : k.id.blk = .core) (ho : k.offset % 0x4000 / 0x100 = 12) (p : Port) (v : Word) :
    writeOwn p k v = writeCoreB k v := by simp only [writeOwn, hb, writeCore, ho]

theorem writeOwn_evmCtl (p : Port) (k : Nat) (u : Fin 4) (v : Word) : writeOwn p (R.EVM_CTL k u) v =
    seqs [when (bit v 0) (effEvmArm k u),
      when (bit v 1) (ask fun s => seqs [advance (s.boundary s.now), disarmAt k u (s.boundary s.now)])] :=
  writeOwn_units (k := R.EVM_CTL k u) rfl ((by decide +kernel : ∀ u : Fin 4, (R.EVM_CTL 0 u).offset % 0x4000 / 0x100 = 12) u) p v

section
variable {s : State} {p : Port} {k d : Nat}

theorem run_writeArm (p : Port) (k : Nat) (u : Fin 4) (s : State) :
    (writeOwn p (R.EVM_CTL k u) (fieldWord (F.EVM_CTL_ARM k u) 1)).run s = (effEvmArm k u).run s := by
  have hword : fieldWord (F.EVM_CTL_ARM k u) 1 = 1 := (by decide +kernel : fieldWord (F.EVM_CTL_ARM 0 0) 1 = 1)
  rw [writeOwn_evmCtl, hword, run_seqs_cons, run_seqs_cons, run_seqs_nil, run_when, run_when, if_neg (by decide), if_pos (by decide)]

theorem run_writeDisarm (p : Port) (k : Nat) (u : Fin 4) (s : State) :
    (writeOwn p (R.EVM_CTL k u) (fieldWord (F.EVM_CTL_DISARM k u) 1)).run s =
      (disarmAt k u (s.boundary s.now)).run ((advance (s.boundary s.now)).run s) := by
  have hword : fieldWord (F.EVM_CTL_DISARM k u) 1 = 2 := (by decide +kernel : fieldWord (F.EVM_CTL_DISARM 0 0) 1 = 2)
  rw [writeOwn_evmCtl, hword, run_seqs_cons, run_seqs_cons, run_seqs_nil, run_when, run_when, if_pos (by decide), if_neg (by decide),
    run_ask, run_seqs_cons, run_seqs_cons, run_seqs_nil]

/-! ARM -/

variable {u : Nat}

/-- A unit that no disarm waits for is seen in its state. -/
theorem unitSeen_none (h : (s.unit k u).off = none) : s.unitSeen k u = s.unitSt k u := by rw [State.unitSeen, h]

theorem unitArm_arms (k u a : Nat) (s : State) : let t := (unitArm k u a).run s
    t.unitSt k u = 1 ∧ (t.unit k u).a = a ∧ (t.unit k u).off = none ∧ s.KeepsRegs t [.EVM_STATE, .EVM_STAT] ∧ s.KeepsBytes t := by
  have htouches : (unitArm k u a).Within (fun r => r.id ∈ [RegId.EVM_STATE, .EVM_STAT]) (fun _ => False) fun _ => () := by
    simp [unitArm, modUnit, modCore, within_dev]
  have h := htouches.agrees s
  have hset : ((unitArm k u a).run s).dev =
      ((modUnit k u fun x => { x with a := a, loss := false, hold := false, near := none, off := none }).run s).dev := by
    rw [unitArm, run_ask, run_seqs_cons, run_seqs_cons, run_seqs_cons, run_seqs_nil, run_when]
    split <;> rfl
  have hunit : ((unitArm k u a).run s).unit k u =
      { s.unit k u with a := a, loss := false, hold := false, near := none, off := none } :=
    (State.unit_congr hset k u).trans (modUnit_unit _ s)
  refine ⟨?_, congrArg UnitSt.a hunit, congrArg UnitSt.off hunit, h.keepsRegs, h.keepsBytes⟩
  have hst (v : State) : ((setF (F.EVM_STATE_ST k u) 1).run v).unitSt k u = 1 := State.fld_setFld _ _ _ (evmStateSt_ok k u)
  rw [unitArm, run_ask, run_seqs_cons, run_seqs_cons, run_seqs_cons, run_seqs_nil, run_when]
  split
  · exact (State.fld_setFld_reg _ _ _ _ (by simp)).trans (hst _)
  · exact hst _

/-- An ARM at a unit that is seen IDLE arms it, or waits for the disarm that waits (R209). -/
theorem effEvmArm_arms (h : s.unitSeen k u = 0) : let t := (effEvmArm k u).run s
    t.unitSeen k u = 1 ∧ ((s.unit k u).off = none → t.unitSt k u = 1 ∧ (t.unit k u).a = s.boundary s.now * 256) ∧
    s.KeepsRegs t [.EVM_STATE, .EVM_STAT] ∧ s.KeepsBytes t := by
  rw [effEvmArm, run_on, h, if_pos (by decide), run_ask]
  cases hoff : (s.unit k u).off with
  | none =>
    obtain ⟨hst, ha, hnone, hregs, hbytes⟩ := unitArm_arms k u (s.boundary s.now * 256) s
    rw [Option.isNone_none, if_pos rfl]
    exact ⟨(unitSeen_none hnone).trans hst, fun _ => ⟨hst, ha⟩, hregs, hbytes⟩
  | some d =>
    rw [Option.isNone_some, if_neg Bool.false_ne_true]
    have hunit := modUnit_unit (k := k) (u := u) (fun x => { x with later := x.later ++ [(s.boundary s.now, true)] }) s
    refine ⟨?_, nofun, fun r _ => modUnit_reg _ _ r, fun _ => rfl⟩
    rw [State.unitSeen, hunit]
    simp [hoff]

/-- An ARM at a unit that is not seen IDLE does nothing (R209). -/
theorem effEvmArm_ignored (h : s.unitSeen k u ≠ 0) : (effEvmArm k u).run s = s := by rw [effEvmArm, run_on, if_neg (by simpa using h)]

/-! DISARM -/

/-- A disarm of an IDLE unit does nothing. -/
theorem run_disarmAt_idle (hoff : (s.unit k u).off = none) (hst : s.unitSt k u = 0) : (disarmAt k u d).run s = s := by
  rw [disarmAt, run_on, if_neg (by simp [unitSeen_none hoff, hst])]

/-- Only what a change makes of the unit counts. -/
theorem run_modUnit_congr {f g : UnitSt → UnitSt} (h : f (s.unit k u) = g (s.unit k u)) :
    (modUnit k u f).run s = (modUnit k u g).run s := by
  have hcore : { s.cst k with units := (s.cst k).units.mod {} u f } = { s.cst k with units := (s.cst k).units.mod {} u g } :=
    congrArg (fun x => { s.cst k with units := (s.cst k).units.put u x }) h
  exact congrArg (fun c => s.modDev fun d => { d with cores := d.cores.put k c }) hcore

/-- A disarm that no stamp below its boundary holds back closes the unit at once. -/
theorem run_disarmAt_now (hoff : (s.unit k u).off = none) (hlater : (s.unit k u).later = []) (hst : s.unitSt k u ≠ 0)
    (hclear : ((s.cst k).stamps.any fun q => decide (q.t < d * 256)) = false) :
    ∃ a, s.Agrees a (fun _ => False) (fun _ => False) (Dev.unitOf k u) ∧
      (disarmAt k u d).run s = (modUnit k u fun x => { x with later := [] }).run ((disarmUnit k u 0).run a) := by
  have hstamps : (((modUnit k u fun x => { x with off := some d }).run s).cst k).stamps = (s.cst k).stamps := by
    rw [modUnit, modCore_cst]
  have hunit := modUnit_unit (k := k) (u := u) (fun x => { x with off := some d }) s
  rw [disarmAt, run_on, if_pos (by simp [unitSeen_none hoff, hst]), run_seqs_cons, run_seqs_cons, run_seqs_nil,
    run_modUnit_congr (g := fun x => { x with off := some d }) (by simp [hoff])]
  generalize ha : (modUnit k u fun x => { x with off := some d }).run s = a at hstamps hunit ⊢
  refine ⟨(modUnit k u fun x => { x with off := none }).run a, ⟨fun r _ => ?_, fun x _ => ?_, ?_⟩, ?_⟩
  · rw [modUnit_reg, ← ha, modUnit_reg]
  · exact ha ▸ rfl
  · exact (modUnit_unit _ a).trans (by rw [hunit, ← hoff]; rfl)
  · have hlater' : (a.unit k u).later = [] := by rw [hunit, hlater]
    have hoff' : (a.unit k u).off = some d := by rw [hunit]
    simp only [disarmIfDue, run_ask, disarmNext, hoff', hlater', hstamps, hclear, Bool.not_false, run_when, if_true, run_seqs_cons,
      run_seqs_nil]

/-- The held stop of a unit is counted, and the unit goes on in state `n` (Table 6.2). -/
def heldDropped (k u n : Nat) : Prog :=
  seqs [count (F.EVM_CNT_NOSTART k u), modUnit k u fun x => { x with hold := false }, setF (F.EVM_STATE_ST k u) n]

theorem heldDropped_counts (k u n : Nat) (s : State) : let t := (heldDropped k u n).run s
    t.unitSt k u = n % 4 ∧ t.fld (F.EVM_CNT_NOSTART k u) = satInc 8 (s.fld (F.EVM_CNT_NOSTART k u)) ∧
    s.KeepsRegsAt t k [.EVM_STATE, .EVM_CNT] [] ∧ s.KeepsBytes t := by
  obtain ⟨-, -, -, hcount, -⟩ := unitFields_ok k u
  have htouches : (heldDropped k u n).TouchesAt k [.EVM_STATE, .EVM_CNT] :=
    only_seqs_cons (only_ask fun _ => only_setF (by simp)) <| only_seqs_cons only_dev <| only_seqs_cons (only_setF (by simp)) only_seqs_nil
  obtain ⟨hregs, hbytes⟩ := htouches.keeps s
  refine ⟨?_, ?_, hregs, hbytes⟩ <;> rw [heldDropped, run_seqs_cons, run_seqs_cons, run_seqs_cons, run_seqs_nil, run_setF]
  · exact State.fld_setFld _ _ _ (evmStateSt_ok k u)
  · rw [State.fld_setFld_reg _ _ _ _ (by simp), modUnit_fld, run_count, State.fld_setFld _ _ _ hcount]
    exact Nat.mod_eq_of_lt (satInc_lt 8 _)

/-- A disarm takes a unit that is not RUNNING to IDLE; a held stop is counted (R210). -/
theorem disarmUnit_closes (h : s.unitSt k u ≠ 2) : let t := (disarmUnit k u 0).run s
    t.fld (F.EVM_CNT_NOSTART k u) =
      (if s.unitSt k u = 3 then satInc 8 (s.fld (F.EVM_CNT_NOSTART k u)) else s.fld (F.EVM_CNT_NOSTART k u)) ∧
    s.KeepsRegsAt t k [.EVM_STATE, .EVM_CNT] [] ∧ s.KeepsBytes t := by
  have hlt := unitSt_lt s k u
  have hst : s.unitSt k u = 0 ∨ s.unitSt k u = 1 ∨ s.unitSt k u = 3 := by omega
  rw [disarmUnit, run_ask]
  rcases hst with hst | hst | hst <;> simp only [hst]
  · exact ⟨rfl, fun _ _ _ => rfl, fun _ => rfl⟩
  · exact ⟨State.fld_setFld_reg _ _ _ _ (by simp), fun r hr _ => State.reg_setFld_other _ _ (by rintro rfl; simp at hr), fun _ => rfl⟩
  · obtain ⟨-, hcounted, hregs, hbytes⟩ := heldDropped_counts k u 0 s
    exact ⟨hcounted, hregs, hbytes⟩

/-- A disarm of a unit that is not RUNNING, and that no stamp holds back (R210). -/
theorem disarmAt_closes (hst : s.unitSt k u ≠ 2) (hoff : (s.unit k u).off = none) (hlater : (s.unit k u).later = [])
    (hclear : ((s.cst k).stamps.any fun q => decide (q.t < d * 256)) = false) : let t := (disarmAt k u d).run s
    t.unitSt k u = 0 ∧
    t.fld (F.EVM_CNT_NOSTART k u) =
      (if s.unitSt k u = 3 then satInc 8 (s.fld (F.EVM_CNT_NOSTART k u)) else s.fld (F.EVM_CNT_NOSTART k u)) ∧
    s.KeepsRegsAt t k [.EVM_STATE, .EVM_CNT] [] ∧ s.KeepsBytes t := by
  by_cases hidle : s.unitSt k u = 0
  · rw [run_disarmAt_idle hoff hidle, if_neg (by omega)]
    exact ⟨hidle, rfl, fun _ _ _ => rfl, fun _ => rfl⟩
  · obtain ⟨a, hagrees, hrun⟩ := run_disarmAt_now hoff hlater hidle hclear
    have hsame : a.unitSt k u = s.unitSt k u := hagrees.fld id
    obtain ⟨hcount, hregs, hbytes⟩ := disarmUnit_closes (s := a) (hsame ▸ hst)
    rw [hsame, hagrees.fld id] at hcount
    rw [hrun]
    refine ⟨(modUnit_fld _ _ _).trans (disarmUnit_idle k u 0 a), (modUnit_fld _ _ _).trans hcount, fun r hr hn => ?_, fun x => ?_⟩
    · exact (modUnit_reg _ _ r).trans ((hregs r hr hn).trans (hagrees.reg r id))
    · exact (hbytes x).trans (hagrees.byte x id)

theorem resultFlags_testBit {n i : Nat} (k u : Nat) (hn : n.testBit i = true) (hi : i < 16) :
    (s.resultFlags k u n % 65536).testBit i = true := by
  rw [show 65536 = 2 ^ 16 from rfl, Nat.testBit_mod_two_pow]
  simp [State.resultFlags, Nat.testBit_or, hn, hi]

/-- A disarm of a RUNNING unit that no stamp holds back gives an aborted result (R210, R216). -/
theorem disarmAt_aborts (hst : s.unitSt k u = 2) (hoff : (s.unit k u).off = none) (hlater : (s.unit k u).later = [])
    (hclear : ((s.cst k).stamps.any fun q => decide (q.t < d * 256)) = false) : let t := (disarmAt k u d).run s
    t.unitSt k u = 0 ∧ (t.fld (F.EVM_INFO_FLAGS k u)).testBit 3 = true ∧ t.reg64 (R.EVM_IVL_LO k u) (R.EVM_IVL_HI k u) = 0 := by
  obtain ⟨a, hagrees, hrun⟩ := run_disarmAt_now hoff hlater (by omega) hclear
  have hsame : a.unitSt k u = 2 := (hagrees.fld id).trans hst
  have hresult : (disarmUnit k u 0).run a =
      (setF (F.EVM_STATE_ST k u) 0).run ((unitResult k u 0 (a.unit k u).start 8 0).run a) := by
    rw [disarmUnit, run_ask]
    simp only [hsame, run_seqs_cons, run_seqs_nil]
    rfl
  have hgiven := unitResult_given k u 0 (a.unit k u).start 8 0 a
  have hidle := disarmUnit_idle k u 0 a
  rw [hresult] at hidle
  rw [hrun, hresult]
  generalize (unitResult k u 0 (a.unit k u).start 8 0).run a = b at *
  refine ⟨(modUnit_fld _ _ _).trans hidle, ?_, ?_⟩
  · rw [modUnit_fld, run_setF, State.fld_setFld_reg _ _ _ _ (by simp), hgiven.flags]
    exact resultFlags_testBit k u (by decide) (by decide)
  · refine (State.reg64_congr ?_ ?_).trans hgiven.interval <;>
      rw [modUnit_reg, run_setF, State.reg_setFld_other _ _ (by simp)]

end

end Sys2Proof.Machine

/-! The deadline and the hold limit of a unit (R212, R215), and the gate of a core (R205 to R207). -/
namespace Sys2Proof.Machine

section
variable {s : State} {k u d x b : Nat}

/-! Deadline and hold limit -/

/-- The counters of a unit keep what they are when it gives a result. -/
theorem unitResult_counters (k u : Nat) (ivl : Int) (st flags next : Nat) (s : State) :
    ((unitResult k u ivl st flags next).run s).reg (R.EVM_CNT k u) = s.reg (R.EVM_CNT k u) := by
  have hshown : (resultShown k u ivl st flags s).Touches
      [.EVM_IVL_LO, .EVM_IVL_HI, .EVM_ST_LO, .EVM_ST_HI, .EVM_SUBR, .EVM_INFO] := by
    refine only_seqs_cons (only_set64 ?_ ?_) <| only_seqs_cons (only_set64 ?_ ?_) <| only_seqs_cons (only_setF ?_) <|
      only_seqs_cons (only_setF ?_) <| only_seqs_cons (only_setF ?_) only_seqs_nil <;> simp
  have htold (v : State) := (within_resultTold (m := 0) (j := k) (ψ := fun _ => ()) (φ := fun _ => ()) (k := k) (u := u)
    (s := s) (ivl := ivl) (st := st) (flags := flags) (covers_self (.EVM_DROP :: ringNames)) (fun _ h => h) fun _ _ => rfl).agrees v
  rw [run_unitResult]
  refine ((htold _).reg _ (by simp [ringNames])).trans ?_
  rw [run_setB, run_setF, State.reg_setFld_other _ _ (by simp), State.reg_setFld_other _ _ (by simp), modUnit_reg]
  exact only_reg hshown s (by simp)

/-- `t` is `s` after unit `u` of core `k` has passed its deadline `d` (R215). -/
structure TimedOut (s t : State) (k u d : Nat) : Prop where
  interval : t.reg64 (R.EVM_IVL_LO k u) (R.EVM_IVL_HI k u) = unsigned 64 ((d : Int) - (s.unit k u).start)
  flags : (t.fld (F.EVM_INFO_FLAGS k u)).testBit 2 = true
  count : t.fld (F.EVM_CNT_TMOCNT k u) = satInc 8 (s.fld (F.EVM_CNT_TMOCNT k u))
  state : t.unitSt k u = if s.fld (F.EVM_CFG_MODE k u) = 0 then 0 else 1

theorem unitTimeout_timesOut (h : (s.unit k u).deadline = some d) : TimedOut s ((unitTimeout k u).run s) k u d := by
  obtain ⟨-, -, -, -, hcount⟩ := unitFields_ok k u
  have hrun : (unitTimeout k u).run s = (unitResult k u ((d : Int) - (s.unit k u).start) (s.unit k u).start 4 d).run
      (s.setFld (F.EVM_CNT_TMOCNT k u) (satInc 8 (s.fld (F.EVM_CNT_TMOCNT k u)))) := by
    rw [unitTimeout, run_ask, h]
    dsimp only
    rw [run_seqs_cons, run_seqs_cons, run_seqs_nil, run_count]
  have hgiven := unitResult_given k u ((d : Int) - (s.unit k u).start) (s.unit k u).start 4 d
    (s.setFld (F.EVM_CNT_TMOCNT k u) (satInc 8 (s.fld (F.EVM_CNT_TMOCNT k u))))
  have hcounters := unitResult_counters k u ((d : Int) - (s.unit k u).start) (s.unit k u).start 4 d
    (s.setFld (F.EVM_CNT_TMOCNT k u) (satInc 8 (s.fld (F.EVM_CNT_TMOCNT k u))))
  rw [← hrun] at hgiven hcounters
  refine ⟨hgiven.interval, ?_, ?_, ?_⟩
  · rw [hgiven.flags]
    exact resultFlags_testBit k u (by decide) (by decide)
  · refine (congrArg (fieldGet · _ _) hcounters).trans ((State.fld_setFld _ _ _ hcount).trans ?_)
    exact Nat.mod_eq_of_lt (satInc_lt 8 _)
  · rw [hgiven.state, State.fld_setFld_reg _ _ _ _ (by simp)]

/-- With no stamp to act on and an OPEN gate, a RUNNING unit passes its deadline at the boundary at which it is decided. -/
theorem run_unitTimeout_alone (hst : s.unitSt k u = 2) (hd : (s.unit k u).deadline = some d) (hq : (s.cst k).stamps = [])
    (hgate : s.fld (F.EVM_GATE_SRC k) = 0) :
    (progUnitTimeout k u).run s = (unitTimeout k u).run ((advance (s.boundary (divUp d 256 + 192))).run s) := by
  rw [progUnitTimeout, run_on, hst, if_pos (by decide), run_ask, hd]
  dsimp only
  rw [run_seqs_cons, run_seqs_cons, run_seqs_cons, run_seqs_nil, run_gateSettle_open _ hgate, hq, List.length_nil, stampsUpTo, run_done,
    run_on, hst, hd, if_pos (by simp), run_seqs_cons, run_seqs_cons, run_seqs_nil]

/-- With no stamp to act on and an OPEN gate, a HELD unit passes its hold limit at the boundary at which it is decided. -/
theorem run_unitHoldLimit_alone (hst : s.unitSt k u = 3) (hq : (s.cst k).stamps = []) (hgate : s.fld (F.EVM_GATE_SRC k) = 0) :
    (progUnitHoldLimit k u).run s = (heldDropped k u 1).run ((advance (s.boundary (divUp (s.unit k u).limit 256 + 192))).run s) := by
  rw [progUnitHoldLimit, run_on, hst, if_pos (by decide), run_ask]
  dsimp only
  rw [run_seqs_cons, run_seqs_cons, run_seqs_cons, run_seqs_nil, run_gateSettle_open _ hgate, hq, List.length_nil, stampsUpTo, run_done,
    run_on, hst, if_pos (by simp), run_seqs_cons, run_seqs_cons, run_seqs_nil, unitDropHeld, heldDropped]

/-! The gate -/

/-- A gate that next changes later than `x`, or not at all, is left as it is. -/
theorem run_gateUpTo_later (h : (s.gateNext k).all (fun (y : Nat) => decide (x < y)) = true) (n : Nat) :
    (gateUpTo k x n).run s = s := by
  cases n with
  | zero => rfl
  | succ n =>
    rw [gateUpTo, run_ask]
    cases hb : s.gateNext k with
    | none => rfl
    | some b =>
      have hlt : x < b := by simpa [hb] using h
      exact (run_when _ _ _).trans (if_neg (by simpa using hlt))

/-- A gate that changes at `b` and not again up to `x` takes its other value there, once. -/
theorem run_gateChange_once (hb : s.gateNext k = some b) (hle : b ≤ x)
    (hnext : (((gateTurns k b).run s).gateNext k).all (fun (y : Nat) => decide (x < y)) = true) :
    (progGateChange k x).run s = (gateTurns k b).run s := by
  rw [progGateChange, gateSettle, run_ask, gateUpTo, run_ask, hb]
  exact (run_when _ _ _).trans ((if_pos (by simpa using hle)).trans ((run_seq _ _ _).trans (run_gateUpTo_later hnext _)))

theorem evmGateNow_ok (k : Nat) : (F.EVM_GATE_NOW k).ok = true := (by decide +kernel : (F.EVM_GATE_NOW 0).ok = true)

/-- `t` is `s` after the gate of core `k` has turned at boundary `b` (R206). -/
structure GateTurned (s t : State) (k b : Nat) : Prop where
  level : t.flg (F.EVM_GATE_NOW k) = !s.flg (F.EVM_GATE_NOW k)
  gates : (t.cst k).gates = (b, !s.flg (F.EVM_GATE_NOW k)) :: (s.cst k).gates
  now : t.now = s.onTo b
  regs : s.KeepsRegs t (eventNames ++ [.EVM_GATE])
  bytes : s.KeepsBytesBut t padBase 0x1001000

/-- The gate of core `k` has its other value from boundary `b` on, which gives a stamp. -/
def State.gateTurned (s : State) (k b : Nat) : State :=
  (modCore k fun c => { c with
    gates := (b, !s.flg (F.EVM_GATE_NOW k)) :: c.gates, gateFrom := b + 1
    stamps := c.stamps ++ [s.stampOf (b * 256) 21 (!(!s.flg (F.EVM_GATE_NOW k))) 32 s.holdover] }).run
      (((advance b).run s).setFld (F.EVM_GATE_NOW k) (if !s.flg (F.EVM_GATE_NOW k) then 1 else 0))

theorem run_gateTurns : (gateTurns k b).run s = (each units fun u =>
    when (!(!s.flg (F.EVM_GATE_NOW k)) && s.flg (F.EVM_CFG_DISGATE k u)) (disarmAt k u b)).run (s.gateTurned k b) := by
  rw [gateTurns, run_seqs_cons, run_seqs_cons, run_seqs_nil, run_ask]
  dsimp only
  rw [run_seqs_cons, run_seqs_cons, run_seqs_cons, run_seqs_nil]
  rfl

theorem gateTurns_turns (k b : Nat) (s : State) : GateTurned s ((gateTurns k b).run s) k b := by
  have hunits : (each units fun u => when (!(!s.flg (F.EVM_GATE_NOW k)) && s.flg (F.EVM_CFG_DISGATE k u)) (disarmAt k u b)).Within
      (fun r => r.id ∈ eventNames) InPad (Dev.view 0 k (fun _ => ()) fun c => c.gates) :=
    within_each.2 fun u _ => within_when.2 fun _ => within_disarmAt (unitFoot_events (fun _ _ => rfl) fun _ _ => rfl)
  have hagrees := hunits.agrees (s.gateTurned k b)
  rw [run_gateTurns]
  generalize (each units _).run (s.gateTurned k b) = t at hagrees ⊢
  constructor
  case level =>
    have hlevel : (s.gateTurned k b).fld (F.EVM_GATE_NOW k) = (if !s.flg (F.EVM_GATE_NOW k) then 1 else 0) % 2 ^ 1 :=
      State.fld_setFld _ _ _ (evmGateNow_ok k)
    rw [State.flg, hagrees.fld (by simp), hlevel]
    exact bitNat_mod _
  case gates => exact hagrees.cst.trans (congrArg CoreSt.gates (modCore_cst k _ _))
  case now => exact hagrees.now
  case regs =>
    intro r hr
    simp only [List.mem_append, not_or] at hr
    obtain ⟨hevents, hgate⟩ := hr
    exact (hagrees.reg r hevents).trans (State.reg_setFld_other _ _ (by rintro rfl; simp at hgate))
  case bytes => exact hagrees.byte

end

/-- Settles O30: ARM and DISARM act at the next boundary where nothing waits; deadlines, hold limits and the gate act at the boundary
at which they are decided; the read of a result latches the rest of it. -/
theorem unitsAreArmedAndDisarmed : Obligations.UnitsAreArmedAndDisarmed := by
  refine ⟨?arm, ?noArm, ?disarm, ?abort, ?timeout, ?holdLimit, ?gate, ?sameGate, ?result⟩
  case arm =>
    intro s p k u had hseen
    refine completes_written rfl (inMap_evmCtl k u) had ?_
    obtain ⟨harmed, hfree, hregs, hbytes⟩ := effEvmArm_arms hseen
    rw [run_writeArm]
    generalize (effEvmArm k u).run s = t at *
    exact ⟨harmed, hfree, answeredOk_toMaster p t, hregs, hbytes⟩
  case noArm =>
    intro s p k u had hseen
    refine completes_written rfl (inMap_evmCtl k u) had ?_
    rw [run_writeArm, effEvmArm_ignored hseen]
    exact ⟨rfl, answeredOk_toMaster p s, rfl, fun _ => rfl⟩
  case disarm =>
    intro s p k u had hst hoff hlater hclear
    refine completes_written rfl (inMap_evmCtl k u) had ?_
    obtain ⟨hidle, hcount, hregs, hbytes⟩ :=
      disarmAt_closes (s := (advance (s.boundary s.now)).run s) (d := s.boundary s.now) hst hoff hlater hclear
    rw [run_writeDisarm]
    generalize (disarmAt k u (s.boundary s.now)).run _ = t at *
    exact ⟨hidle, hcount, answeredOk_toMaster p t, hregs, hbytes⟩
  case abort =>
    intro s p k u had hst hoff hlater hclear
    refine completes_written rfl (inMap_evmCtl k u) had ?_
    obtain ⟨hidle, hflag, hivl⟩ :=
      disarmAt_aborts (s := (advance (s.boundary s.now)).run s) (d := s.boundary s.now) hst hoff hlater hclear
    have hagrees := (within_disarmAt (m := 0) (j := 0) (ψ := fun _ => ()) (φ := fun _ => ()) (d := s.boundary s.now)
      (unitFoot_events (k := k) (u := u) (fun _ _ => rfl) fun _ _ => rfl)).agrees ((advance (s.boundary s.now)).run s)
    rw [run_writeDisarm]
    generalize (disarmAt k u (s.boundary s.now)).run _ = t at *
    exact ⟨hidle, hflag, hivl, answeredOk_toMaster p t, hagrees.reg, hagrees.byte⟩
  case timeout =>
    intro s k u d hawake hst hd hle hq hgate
    refine completes_awake rfl hawake ?_
    have h := unitTimeout_timesOut (s := (advance (s.boundary (divUp d 256 + 192))).run s) hd
    have hagrees := (within_unitTimeout (m := 0) (j := 0) (ψ := fun _ => ()) (φ := fun _ => ())
      (unitFoot_events (k := k) (u := u) (fun _ _ => rfl) fun _ _ => rfl)).agrees ((advance (s.boundary (divUp d 256 + 192))).run s)
    rw [run_unitTimeout_alone hst hd hq hgate]
    generalize (unitTimeout k u).run _ = t at *
    exact ⟨h.interval.trans (unsigned_sub 64 hle), h.flags, h.count, h.state, hagrees.now, hagrees.reg, hagrees.byte⟩
  case holdLimit =>
    intro s k u hawake hst hq hgate
    refine completes_awake rfl hawake ?_
    obtain ⟨harmed, hcount, hregs, hbytes⟩ :=
      heldDropped_counts k u 1 ((advance (s.boundary (divUp (s.unit k u).limit 256 + 192))).run s)
    rw [run_unitHoldLimit_alone hst hq hgate]
    exact ⟨harmed, hcount, rfl, hregs, hbytes⟩
  case gate =>
    intro s k x b hawake hb hle hnext
    refine completes_awake rfl hawake ?_
    rw [run_gateChange_once hb hle hnext]
    have h := gateTurns_turns k b s
    exact ⟨h.level, h.gates, h.now, h.regs, h.bytes⟩
  case sameGate =>
    intro s k x hawake hnext
    refine completes_awake rfl hawake ?_
    exact run_gateUpTo_later hnext _
  case result =>
    intro s p k u had hl
    obtain ⟨hmap, he⟩ := evmIvlLo_place k u
    refine completes_regRead rfl hmap he had ?_
    have h := readReg_latches (by simp) hl (by simp [latchesOf])
    refine ⟨h.answer, (h.latched _ (by simp [latchesOf])).trans (congrArg some ?_),
      (h.latched _ (by simp [latchesOf])).trans (congrArg some ?_), h.regs, h.bytes⟩ <;>
      exact view_stampWords s (by simp)

end Sys2Proof.Machine

/-! Refills that complete (R255): the header of a slot is read where the number of its core puts it. -/
namespace Sys2Proof.Machine

/-- A refill of ring 0 whose blocks have all come, for slot 0 of a core with the number 65,536. -/
def strayRefill : Work := { kind := .refill, ring := 0, idx := 0, cmds := [], core := 65536, slot := 0 }

/-- A device with that refill. A core of this number would have its slots where the retention RAM lies: its slot 0, which begins at
unit 8, has its header at the block of channel 0, whose first word is in error. -/
def strayRefilled : State :=
  { State.reset with
    regs := [(R.PLAY_SLOT 65536 0, 0x00080000)]
    dev := { State.reset.dev with
      stor := { work := [strayRefill] }, bus := { State.reset.dev.bus with ecc := [(chBlock 0, ⟨3, true⟩)] } } }

/-- Refutes O32: its clause on a filled slot takes a refill for whatever number of a core, but says that no byte changes outside the
scratchpad. The slots of core 65,536 would lie in the retention RAM, and a header read there marks a word in error in the flags of its
channel block (R506). -/
theorem not_refillRequestsFillSlots : ¬ Obligations.RefillRequestsFillSlots := by
  rintro ⟨-, -, -, hfilled, -⟩
  have hwork : (strayRefilled.dev.stor.work.find? fun w : Work => w.ring = (0 : Fin 4096).val && w.kind = WorkKind.refill &&
      w.cmds.all fun c : Cmd => c.st = CmdSt.ok) = some strayRefill := by decide +kernel
  obtain ⟨t, ht, -, -, -, -, hbytes⟩ := hfilled strayRefilled 0 strayRefill (by decide +kernel) hwork
  have hrun : (awake (progRefillComplete 0)).run strayRefilled = t := Host.Outcome.next.inj ht
  have hflags : ((awake (progRefillComplete 0)).run strayRefilled).byte (chBlock 0 + 12) ≠ strayRefilled.byte (chBlock 0 + 12) := by
    decide +kernel
  exact hflags (hrun ▸ hbytes (chBlock 0 + 12) (by decide))

end Sys2Proof.Machine

/-! Slots of segment memory (R227, R228, R231, R233): their states, and what the three registers by which they are ruled do. -/
namespace Sys2Proof.Machine

section
variable {γ : Type} {π : Dev → γ} {Q : RegKey → Prop} {A : Nat → Prop} {s t : State} {k i j st : Nat}

/-! The state of a slot -/

theorem slotFields_ok (k i : Nat) : (F.PLAY_SLOT_ST k i).ok = true ∧ (F.PLAY_SLOT_BASE k i).ok = true ∧
    (F.PLAY_SLOT_CAP k i).ok = true :=
  (by decide +kernel : (F.PLAY_SLOT_ST 0 0).ok = true ∧ (F.PLAY_SLOT_BASE 0 0).ok = true ∧ (F.PLAY_SLOT_CAP 0 0).ok = true)

/-- A slot that changes its state changes its entry of the table and the words of the slots that are READY and FILLING. -/
@[simp] theorem within_setSlotSt :
    (setSlotSt k i st).Within Q A π ↔ Q (R.PLAY_SLOT k i) ∧ Q (R.PLAY_READY k) ∧ Q (R.PLAY_FILLING k) := by
  simp [setSlotSt]

theorem setSlotSt_slotSt (k i : Nat) (h : st < 4) (s : State) : ((setSlotSt k i st).run s).slotSt k i = st := by
  obtain ⟨hok, -, -⟩ := slotFields_ok k i
  simp only [setSlotSt, run_seqs_cons, run_seqs_nil, run_setF, State.slotSt]
  rw [State.fld_setFld_reg _ _ _ _ (by simp), State.fld_setFld_reg _ _ _ _ (by simp), State.fld_setFld _ _ _ hok]
  exact Nat.mod_eq_of_lt h

theorem setSlotSt_slotSt_other (h : j ≠ i) : ((setSlotSt k i st).run s).slotSt k j = s.slotSt k j := by
  have hw : (setSlotSt k i st).Within (fun r => r ≠ R.PLAY_SLOT k j) (fun _ => False) fun _ => () := by simp [h.symm]
  exact (hw.agrees s).fld (by simp)

/-- The slots of a list are emptied, the others stay. -/
theorem emptied_slotSt (k j : Nat) (l : List Nat) (s : State) :
    ((each l fun i => setSlotSt k i 0).run s).slotSt k j = if j ∈ l then 0 else s.slotSt k j := by
  induction l generalizing s with
  | nil => simp
  | cons i l ih =>
    rw [run_each_cons, ih]
    by_cases hj : j = i
    · subst hj
      simp [setSlotSt_slotSt]
    · simp [hj, setSlotSt_slotSt_other hj]

/-- The table and the cores tell which slots there are, where they lie, and which are active. -/
theorem State.Agrees.slots (h : s.Agrees t Q A Dev.cores) (hQ : ∀ i, ¬Q (R.PLAY_SLOT k i)) :
    (∀ i, t.slotSt k i = s.slotSt k i) ∧ (∀ i, t.slotActive k i = s.slotActive k i) ∧ ∀ o n, t.slotsAt k o n = s.slotsAt k o n := by
  have hcst : t.cst k = s.cst k := congrArg (fun c : Table CoreSt => c.get {} k) h.view
  refine ⟨fun i => h.fld (hQ i), fun i => ?_, fun o n => ?_⟩
  · rw [State.slotActive, hcst, State.slotActive]
  · simp only [State.slotsAt, h.fld (f := F.PLAY_SLOT_CAP k _) (hQ _), h.fld (f := F.PLAY_SLOT_BASE k _) (hQ _)]

/-! Events of the channel that a core serves -/

theorem within_coreEvent_blind (h : Blind π) (hQ : Covers Q [.IRQ_PEND, .IRQ_CNT]) : (coreEvent k).Within Q A π := by
  rw [coreEvent, within_ask]
  intro s
  split
  · exact within_raise_blind h hQ
  · exact within_done

/-! The registers -/

/-- The playback registers are written by the part of the model that gives them a meaning. -/
theorem writeOwn_playback {r : RegKey} (hb : r.id.blk = .core) (ho : r.offset % 0x4000 / 0x100 = 6) (p : Port) (v : Word) :
    writeOwn p r v = writeCoreB r v := by simp only [writeOwn, hb, writeCore, ho]

theorem writeOwn_playSlot (p : Port) (k : Nat) (i : Fin 32) (w : Word) : writeOwn p (R.PLAY_SLOT k i) w = effSlot k i w :=
  writeOwn_playback (r := R.PLAY_SLOT k i) rfl ((by decide +kernel : ∀ i : Fin 32, (R.PLAY_SLOT 0 i).offset % 0x4000 / 0x100 = 6) i) p w

theorem slotWord (i : Fin 32) : fieldGet (fieldPut 0 0 5 i) 0 5 = i :=
  (fieldGet_fieldPut _ _ _ _ (by decide)).trans (Nat.mod_eq_of_lt i.isLt)

theorem writeOwn_playValid (p : Port) (k : Nat) (i : Fin 32) :
    writeOwn p (R.PLAY_VALID k) (fieldWord (F.PLAY_VALID_SLOT k) i) = effValid k i :=
  (writeOwn_playback (r := R.PLAY_VALID k) rfl (by decide +kernel : (R.PLAY_VALID 0).offset % 0x4000 / 0x100 = 6) p _).trans
    (congrArg (effValid k) (slotWord i))

theorem writeOwn_playInval (p : Port) (k : Nat) (i : Fin 32) :
    writeOwn p (R.PLAY_INVAL k) (fieldWord (F.PLAY_INVAL_SLOT k) i) = effInval k i :=
  (writeOwn_playback (r := R.PLAY_INVAL k) rfl (by decide +kernel : (R.PLAY_INVAL 0).offset % 0x4000 / 0x100 = 6) p _).trans
    (congrArg (effInval k) (slotWord i))

theorem inMap_playSlot (k : Fin 68) (i : Fin 32) : (R.PLAY_SLOT k i).inMap = true := by
  have hn : RegId.PLAY_SLOT.desc.n1 = 32 ∧ RegId.PLAY_SLOT.desc.n2 = 1 := by decide +kernel
  have hb : RegId.PLAY_SLOT.blk = .core := rfl
  simp [RegKey.inMap, hn, hb]

theorem inMap_playValid (k : Fin 68) : (R.PLAY_VALID k).inMap = true :=
  inMap_single (by decide +kernel) (.inl ⟨rfl, k.isLt⟩) (by decide)

theorem inMap_playInval (k : Fin 68) : (R.PLAY_INVAL k).inMap = true :=
  inMap_single (by decide +kernel) (.inl ⟨rfl, k.isLt⟩) (by decide)

theorem playStat_ok (k : Nat) : (F.PLAY_STAT_SLOT_REJ k).ok = true ∧ (F.PLAY_STAT_ACT_WR k).ok = true ∧
    (F.PLAY_STAT_VFAIL k).ok = true ∧ (F.PLAY_CNT_B_ACT_WR k).ok = true :=
  (by decide +kernel : (F.PLAY_STAT_SLOT_REJ 0).ok = true ∧ (F.PLAY_STAT_ACT_WR 0).ok = true ∧
    (F.PLAY_STAT_VFAIL 0).ok = true ∧ (F.PLAY_CNT_B_ACT_WR 0).ok = true)

/-- The answer to a port changes nothing but the answer. -/
theorem agrees_toMaster (p : Port) (s : State) :
    s.Agrees ((toMaster p 0 0).run s) (fun _ => False) (fun _ => False) Dev.cores := ⟨fun _ _ => rfl, fun _ _ => rfl, rfl⟩

/-- A command that is the write of a register which its port may make ends in a state that differs from what the register does in
the answer alone. -/
theorem completes_answered {c : Instr} {r : RegKey} {q : Prog} {p : Port} {w : Word} {P : State → Prop}
    (hc : exec c s = .next ((regWrite p r w).run s)) (hr : r.inMap = true) (h : s.admits p r w = true) (hq : writeOwn p r w = q)
    (hP : ∀ t, (q.run s).Agrees t (fun _ => False) (fun _ => False) Dev.cores → t.answeredOk p = true → P t) : Completes c s P :=
  completes_written hc hr h (hq ▸ hP _ (agrees_toMaster p _) (answeredOk_toMaster p _))

/-! A write of the slot table (R227) -/

variable {w : Word}

/-- `t` is `s` with a slot defined anew. -/
structure SlotDefined (s t : State) (k i base cap : Nat) : Prop where
  base : t.fld (F.PLAY_SLOT_BASE k i) = base
  cap : t.fld (F.PLAY_SLOT_CAP k i) = cap
  state : t.slotSt k i = s.slotSt k i
  agrees : s.Agrees t (fun r => r = R.PLAY_SLOT k i) (fun _ => False) fun _ => ()

/-- An EMPTY slot takes a base and a capacity that lie in segment memory and apart from the other slots with a capacity. -/
theorem effSlot_defines (hst : s.slotSt k i = 0) (hfit : 8 * fieldGet w 16 13 + 8 + 32 * fieldGet w 0 11 ≤ 65536)
    (hapart : fieldGet w 0 11 = 0 ∨ (slots.all fun j => decide (j = i) || decide (s.fld (F.PLAY_SLOT_CAP k j) = 0) ||
      decide (8 * fieldGet w 16 13 + 8 + 32 * fieldGet w 0 11 ≤ 8 * s.fld (F.PLAY_SLOT_BASE k j)) ||
      decide (8 * s.fld (F.PLAY_SLOT_BASE k j) + 8 + 32 * s.fld (F.PLAY_SLOT_CAP k j) ≤ 8 * fieldGet w 16 13)) = true) :
    SlotDefined s ((effSlot k i w).run s) k i (fieldGet w 16 13) (fieldGet w 0 11) := by
  obtain ⟨hstate, hbase, hcap⟩ := slotFields_ok k i
  have hrun : (effSlot k i w).run s =
      (s.setFld (F.PLAY_SLOT_BASE k i) (fieldGet w 16 13)).setFld (F.PLAY_SLOT_CAP k i) (fieldGet w 0 11) := by
    simp only [effSlot, run_ask]
    rw [if_pos, run_seqs_cons, run_seqs_cons, run_seqs_nil, run_setF, run_setF]
    simp only [← Nat.add_assoc, slotWords, Bool.and_eq_true, Bool.or_eq_true, decide_eq_true_eq, Bool.or_assoc] at hapart ⊢
    exact ⟨⟨hst, hfit⟩, hapart⟩
  rw [hrun]
  constructor
  case base =>
    rw [State.fld_setFld_apart _ _ _ _ hbase (by simp), State.fld_setFld _ _ _ hbase]
    exact Nat.mod_eq_of_lt (fieldGet_lt w 16 13)
  case cap =>
    rw [State.fld_setFld _ _ _ hcap]
    exact Nat.mod_eq_of_lt (fieldGet_lt w 0 11)
  case state =>
    rw [State.slotSt, State.fld_setFld_apart _ _ _ _ hstate (by simp), State.fld_setFld_apart _ _ _ _ hstate (by simp), State.slotSt]
  case agrees =>
    exact ⟨fun r hr => (State.reg_setFld_other _ _ hr).trans (State.reg_setFld_other _ _ hr), fun _ _ => rfl, rfl⟩

/-- Another slot, and one that would reach past segment memory, is not defined anew. -/
theorem run_effSlot_rejected (h : s.slotSt k i ≠ 0 ∨ 65536 < 8 * fieldGet w 16 13 + 8 + 32 * fieldGet w 0 11) :
    (effSlot k i w).run s = s.setFld (F.PLAY_STAT_SLOT_REJ k) 1 := by
  simp only [effSlot, run_ask]
  rw [if_neg, run_setB]
  simp only [Bool.and_eq_true, decide_eq_true_eq, not_and]
  omega

/-! An invalidation (R233) -/

theorem run_effInval_ready (ha : s.slotActive k i = false) (hst : s.slotSt k i = 2) :
    (effInval k i).run s = (setSlotSt k i 0).run s := by
  rw [effInval, run_ask, if_neg (by simp [ha, hst]), run_when, if_pos (by simp [hst])]

theorem run_effInval_refused (h : s.slotActive k i = true ∨ s.slotSt k i = 1) :
    (effInval k i).run s = (coreEvent k).run (s.setFld (F.PLAY_STAT_ACT_WR k) 1) := by
  rw [effInval, run_ask, if_pos (by simpa using h), run_seqs_cons, run_seqs_cons, run_seqs_nil, run_setB]

end

end Sys2Proof.Machine

/-! Writes into segment memory (R229, R413, R415): a write that wins over its rivals reaches the memory once the words that it covers in
part have been read; then the slots that it touches decide. -/
namespace Sys2Proof.Machine

section
variable {γ : Type} {π : Dev → γ} {Q : RegKey → Prop} {A : Nat → Prop} {s t : State} {p : Port} {k a n o : Nat} {bs : List Byte}

/-! Words that a write covers in part -/

/-- A reader of memory below the retention RAM records the errors that it meets. -/
theorem within_eccRead_below_blind (h : Blind π) (hQ : Covers Q readNames) (ha : a + n ≤ retBase) : (eccRead a n).Within Q A π := by
  rw [eccRead, within_ask]
  intro s
  rw [within_each]
  intro e he
  have hhit := (List.mem_filter.1 he).2
  simp only [eccHit, Bool.and_eq_true, decide_eq_true_eq] at hhit
  rw [retentionBad_below (by omega)]
  simp [within_eccRecord_blind h hQ, within_bus h]

/-- The words that a write covers in part are read. -/
def partsRead (a n : Nat) : Prog := each (partWords a n) fun x => eccRead x 1

/-- Those words are written anew: corrected errors in them are gone. -/
def partsRenewed (a n : Nat) : Prog :=
  dev fun d => { d with bus := { d.bus with
    ecc := d.bus.ecc.filter fun e => e.2.ue || !(partWords a n).contains (e.1 % 2 ^ 40)
    writeBack := d.bus.writeBack.filter fun w => !(partWords a n).contains (w % 2 ^ 40) } }

theorem within_partsRead (h : Blind π) (hQ : Covers Q readNames) (ha : a + n < retBase) : (partsRead a n).Within Q A π := by
  rw [partsRead, within_each]
  intro x hx
  have := partWords_le hx
  exact within_eccRead_below_blind h hQ (by omega)

/-- A write whose partly covered words are readable is made. -/
theorem run_partWrite_good {q : Prog} {go : Nat → Word → Prog} (h : ((partWords a n).any fun y => s.badWord y 1) = false) :
    (partWrite a n q go).run s = (go 0 0).run ((partsRenewed a n).run (q.run ((partsRead a n).run s))) := by
  simp only [partWrite, run_ask, h, run_seqs_cons, run_seqs_nil, Bool.false_eq_true, if_false, partsRead, partsRenewed]

/-! Rivals -/

/-- The collision of the writes of masters `l` at the word of `a` is logged, and those that lose are answered (R413). -/
def rivalsTold (own a : Nat) (l : List Nat) : Prog :=
  ask fun s => match l with
    | w :: x :: xs => seqs [collide w x (s.clashWord a), loserAnswers own (x :: xs)]
    | _ => .done

abbrev collisionNames : List RegId := [.MEM_COLL, .MEM_COLLA, .IRQ_PEND, .IRQ_CNT]

theorem within_rivalsTold (h : Blind π) {own : Nat} {l : List Nat} (hQ : Covers Q collisionNames) : (rivalsTold own a l).Within Q A π := by
  rw [rivalsTold, within_ask]
  intro s
  split
  · have hraise : (raise 243).Within Q A π := within_raise_blind h (hQ.sub (by decide))
    have hreg {r : RegKey} (hr : r.id ∈ collisionNames) : Q r := hQ r hr
    simp [collide, loserAnswers, answer, hraise, hreg, within_bus h]
  · exact within_done

/-- A collision puts no word in error, and makes none good. -/
theorem rivalsTold_ecc (own a : Nat) (l : List Nat) (s : State) : ((rivalsTold own a l).run s).dev.bus.ecc = s.dev.bus.ecc := by
  rw [rivalsTold, run_ask]
  split
  · rename_i w x xs
    have hanswers : (loserAnswers own (x :: xs)).Within AnyReg AnyByte fun d => d.bus.ecc := by
      simp only [loserAnswers, answer, within_each, within_when]
      exact fun _ _ _ => within_dev fun _ => rfl
    rw [run_seqs_cons, run_seqs_cons, run_seqs_nil, (hanswers.agrees _).view]
    simp only [collide, run_seqs_cons, run_seqs_nil, raise_ecc, run_setF, run_count, State.setFld_dev]
  · rfl

/-- A write of the lowest-numbered of the masters that meet is made, once the collision has been told. -/
theorem run_contested_won {rivals : List (Fin 8)} {v : Word} {made lose : Prog} {go : Nat → Word → Prog}
    (hf : s.frozen (portMaster p) = false) (hw : (s.writers (portMaster p) rivals).head? = some (portMaster p))
    (hj : s.judge p a n true v = .pass) : (contested p rivals a n v made lose go).run s =
      made.run ((rivalsTold (portMaster p) a (s.writers (portMaster p) rivals)).run s) := by
  have hjudged : (contested p rivals a n v made lose go).run s = (arbitrate (portMaster p) rivals a made lose).run s := by
    simp only [contested, run_ask, hf, hw, Bool.false_eq_true, if_false, if_true, run_judged_pass hf hj]
  rw [hjudged, arbitrate, run_ask, rivalsTold, run_ask]
  cases hl : s.writers (portMaster p) rivals with
  | nil => rfl
  | cons w l =>
    obtain rfl : w = portMaster p := by simpa [hl] using hw
    cases l with
    | nil => rfl
    | cons x xs => simp only [run_seqs_cons, run_seqs_nil, loserAnswers, if_true]

/-! Segment memory -/

/-- A byte of the segment memory of a core lies there. -/
theorem place_segment (s : State) (k : Fin 68) (o : BitVec 18) : s.place (segBase k + o.toNat) = .segment k := by
  have hk := k.isLt
  have ho := o.isLt
  unfold State.place segBase
  rw [if_neg (by omega), if_neg (by omega), if_neg (by simp; omega), if_neg (by simp; omega), if_pos (by simp; omega)]
  congr 1
  omega

/-- What passes the checks of R424 lies in the map. -/
theorem mapped_of_pass {v : Word} (h : s.judge p a n true v = .pass) : mapped a n = true := by
  unfold State.judge at h
  split at h
  · split at h <;> simp at h
  · by_contra hm
    rw [Bool.not_eq_true] at hm
    simp [hm] at h

/-- What begins in segment memory and passes the checks of R424 lies below the retention RAM. -/
theorem segment_below {v : Word} (k : Fin 68) (o : BitVec 18) (h : s.judge p (segBase k + o.toNat) n true v = .pass) :
    segBase k + o.toNat + n < retBase := by
  have hk := k.isLt
  have ho := o.isLt
  obtain ⟨⟨first, after⟩, hr, hin⟩ := List.any_eq_true.1 (mapped_of_pass h)
  simp only [Bool.and_eq_true, decide_eq_true_eq] at hin
  simp only [regions, List.mem_cons, Prod.mk.injEq, List.not_mem_nil, or_false] at hr
  unfold segBase at hin ⊢
  unfold retBase
  omega

/-- The registers that the way to segment memory can change: what is told of a collision and of words in error. -/
abbrev segmentWayNames : List RegId := [.MEM_ECCCNT, .MEM_ECCA_LO, .MEM_ECCA_HI, .PWR_LOST, .IRQ_PEND, .IRQ_CNT, .MEM_COLL, .MEM_COLLA]

/-- A write that wins reaches segment memory: the slots decide on it in a state that differs in what has been told at most. It ends
in a state that differs from what they decide in the words in error and in the answer, which is OK. -/
theorem completes_segmentWrite (k : Fin 68) (o : BitVec 18) (x : RivalBytes) {P : State → Prop} (hi : s.issues p = true)
    (hw : (s.writers (portMaster p) x.rivals).head? = some (portMaster p)) (hf : s.frozen (portMaster p) = false)
    (hj : s.judge p (segBase k + o.toNat) x.bytes.length true 0 = .pass)
    (hgood : ((partWords (segBase k + o.toNat) x.bytes.length).any fun y => s.badWord y 1) = false)
    (hP : ∀ (way : Prog) (t : State), s.Agrees (way.run s) (fun r => r.id ∈ segmentWayNames) (fun _ => False) Dev.cores →
      ((segWrite k o.toNat x.bytes).run (way.run s)).Agrees t (fun _ => False) (fun _ => False) Dev.cores → t.answeredOk p = true →
      P t) : Completes (.segmentMemoryWrite p k o x) s P := by
  obtain ⟨told, htold⟩ : ∃ q, rivalsTold (portMaster p) (segBase k + o.toNat) (s.writers (portMaster p) x.rivals) = q := ⟨_, rfl⟩
  have hecc : (told.run s).dev.bus.ecc = s.dev.bus.ecc := htold ▸ rivalsTold_ecc _ _ _ s
  have hgood' : ((partWords (segBase k + o.toNat) x.bytes.length).any fun y => (told.run s).badWord y 1) = false := by
    simpa only [State.badWord, hecc] using hgood
  have hblind : Blind Dev.cores := fun _ _ _ => rfl
  have hway : (told.seq (partsRead (segBase k + o.toNat) x.bytes.length)).Within (fun r => r.id ∈ segmentWayNames) (fun _ => False)
      Dev.cores := by
    refine within_seq ?_ (within_partsRead hblind ((covers_self segmentWayNames).sub (by decide)) (segment_below k o hj))
    exact htold ▸ within_rivalsTold hblind ((covers_self segmentWayNames).sub (by decide))
  have hrun : (busBytes p (segBase k + o.toNat) x).run s = (toMaster p 0 0).run
      ((partsRenewed (segBase k + o.toNat) x.bytes.length).run ((segWrite k o.toNat x.bytes).run
        ((told.seq (partsRead (segBase k + o.toNat) x.bytes.length)).run s))) := by
    rw [busBytes, run_on, if_pos hi, run_contested_won hf hw hj, htold, writeBytes, run_ask, place_segment]
    simp only [run_partWrite_good hgood', Nat.add_sub_cancel_left, run_seq]
  have hrenewed : (partsRenewed (segBase k + o.toNat) x.bytes.length).Within (fun _ => False) (fun _ => False) Dev.cores :=
    within_bus hblind
  exact ⟨_, congrArg Host.Outcome.next hrun, hP _ _ (hway.agrees s) ((hrenewed.agrees _).trans (agrees_toMaster p _))
    (answeredOk_toMaster p _)⟩

/-! The slots that a write touches -/

/-- A write to an active or FILLING slot is discarded. -/
theorem run_segWrite_discarded (h : ((s.slotsAt k o bs.length).any fun i => s.slotActive k i || decide (s.slotSt k i = 1)) = true) :
    (segWrite k o bs).run s = (discardWrite k).run s := by
  rw [segWrite, run_ask, if_pos h]

theorem run_segWrite_taken (h : ((s.slotsAt k o bs.length).any fun i => s.slotActive k i || decide (s.slotSt k i = 1)) = false) :
    ∃ f : CoreSt → CoreSt, (segWrite k o bs).run s = (dpWrite (segBase k + o) bs).run
      ((each ((s.slotsAt k o bs.length).filter fun i => s.slotSt k i = 2) fun i => setSlotSt k i 0).run ((modCore k f).run s)) :=
  ⟨_, by rw [segWrite, run_ask, if_neg (by simp only [h, Bool.false_eq_true, not_false_iff]), run_seqs_cons, run_seqs_cons,
    run_seqs_cons, run_seqs_nil]⟩

/-- A string of bytes reads as the data path wrote it. -/
theorem bytes_dpWrite (h : Memory.wf s.losses s.mem = true) : ((dpWrite a bs).run s).bytes a bs.length = bs := by
  refine List.ext_getElem (by simp [State.bytes]) fun i h1 h2 => ?_
  simp only [State.bytes, List.getElem_map, List.getElem_range]
  rw [dpWrite, run_seqs_cons, run_seqs_cons, run_seqs_nil]
  exact byte_putBytes bs a i s h h2

/-- `t` is `s` after a write of `bs` at offset `o` of the segment memory of core `k`, outside active and FILLING slots. -/
structure SegmentWritten (s t : State) (k o : Nat) (bs : List Byte) : Prop where
  bytes : t.bytes (segBase k + o) bs.length = bs
  slots : ∀ i ∈ s.slotsAt k o bs.length, t.slotSt k i ≠ 2
  agrees : s.Agrees t (fun r => r.id ∈ [RegId.PLAY_SLOT, .PLAY_READY, .PLAY_FILLING])
    (fun x => segBase k + o ≤ x ∧ x < segBase k + o + bs.length) fun _ => ()

theorem segWrite_written (hwf : Memory.wf s.losses s.mem = true)
    (h : ((s.slotsAt k o bs.length).any fun i => s.slotActive k i || decide (s.slotSt k i = 1)) = false) :
    SegmentWritten s ((segWrite k o bs).run s) k o bs := by
  obtain ⟨f, hf⟩ := run_segWrite_taken h
  obtain ⟨l, hl⟩ : ∃ l, (s.slotsAt k o bs.length).filter (fun i => s.slotSt k i = 2) = l := ⟨_, rfl⟩
  rw [hf, hl]
  constructor
  case bytes => exact bytes_dpWrite (run_wf (each l fun i => setSlotSt k i 0) _ hwf)
  case slots =>
    intro i hi
    have hw : (dpWrite (segBase k + o) bs).Within (fun _ => False) AnyByte fun _ => () := by
      exact within_dpWrite_blind (fun _ _ _ => rfl) fun _ _ => trivial
    rw [State.slotSt, (hw.agrees _).fld id, ← State.slotSt, emptied_slotSt]
    split
    · decide
    · rename_i hil
      exact fun h2 => hil (hl ▸ List.mem_filter.2 ⟨hi, decide_eq_true h2⟩)
  case agrees =>
    have hempty : (each l fun i => setSlotSt k i 0).Within (fun r => r.id ∈ [RegId.PLAY_SLOT, .PLAY_READY, .PLAY_FILLING])
        (fun x => segBase k + o ≤ x ∧ x < segBase k + o + bs.length) fun _ => () := by simp
    have hdata : (dpWrite (segBase k + o) bs).Within (fun r => r.id ∈ [RegId.PLAY_SLOT, .PLAY_READY, .PLAY_FILLING])
        (fun x => segBase k + o ≤ x ∧ x < segBase k + o + bs.length) fun _ => () :=
      within_dpWrite_blind (fun _ _ _ => rfl) fun i hi => by omega
    have hnoted : s.Agrees ((modCore k f).run s) (fun r => r.id ∈ [RegId.PLAY_SLOT, .PLAY_READY, .PLAY_FILLING])
        (fun x => segBase k + o ≤ x ∧ x < segBase k + o + bs.length) fun _ => () := ⟨fun _ _ => rfl, fun _ _ => rfl, rfl⟩
    exact hnoted.trans ((hempty.agrees _).trans (hdata.agrees _))

/-- `t` is `s` after a write of segment memory that has been discarded. -/
structure WriteDiscarded (s t : State) (k : Nat) : Prop where
  status : t.fld (F.PLAY_STAT_ACT_WR k) = 1
  count : t.fld (F.PLAY_CNT_B_ACT_WR k) = satInc 16 (s.fld (F.PLAY_CNT_B_ACT_WR k))
  agrees : s.Agrees t (fun r => r.id ∈ [RegId.PLAY_STAT, .PLAY_CNT_B, .IRQ_PEND, .IRQ_CNT]) (fun _ => False) fun _ => ()

theorem discardWrite_discards (k : Nat) (s : State) : WriteDiscarded s ((discardWrite k).run s) k := by
  obtain ⟨-, hstat, -, hcnt⟩ := playStat_ok k
  have hevent : (coreEvent k).Within (fun r => r.id ∈ [RegId.IRQ_PEND, .IRQ_CNT]) (fun _ => False) fun _ => () :=
    within_coreEvent_blind (fun _ _ _ => rfl) (covers_self _)
  constructor
  case agrees =>
    have hw : (discardWrite k).Within (fun r => r.id ∈ [RegId.PLAY_STAT, .PLAY_CNT_B, .IRQ_PEND, .IRQ_CNT]) (fun _ => False)
        fun _ => () := by
      simp only [discardWrite, within_cons, within_setB, within_count, within_nil, and_true]
      exact ⟨by simp, by simp, hevent.mono (by simp +contextual) fun _ h => h⟩
    exact hw.agrees s
  all_goals
    rw [discardWrite, run_seqs_cons, run_seqs_cons, run_seqs_cons, run_seqs_nil, run_setB, run_count, (hevent.agrees _).fld (by simp)]
  case status =>
    rw [State.fld_setFld_reg _ _ _ _ (by simp)]
    exact State.fld_setFld _ _ _ hstat
  case count =>
    rw [State.fld_setFld _ _ _ hcnt, State.fld_setFld_reg _ _ _ _ (by simp)]
    exact Nat.mod_eq_of_lt (satInc_lt 16 _)

end

end Sys2Proof.Machine

/-! Validation of slots (R231, R232, R249, R254): the outcome of a judgement, and what it leaves. -/
namespace Sys2Proof.Machine

section
variable {Q : RegKey → Prop} {A : Nat → Prop} {s : State} {n k i j code : Nat}

/-- The validations that core `k` has been asked for, among what is looked at beside registers and memories. -/
abbrev Dev.waits (k : Nat) : Dev → Nat × Unit × List Nat := Dev.view 0 k (fun _ => ()) CoreSt.validating

/-- The reader of a slot's header records the errors that it meets: a header lies below the retention RAM. -/
theorem within_headerRead (hk : k < 128) (hQ : Covers Q readNames) : (eccRead (s.slotAddr k i) 32).Within Q A (Dev.waits j) := by
  have := vectorWord_below (s := s) (i := i) hk (show 0 < 65536 by decide)
  exact within_eccRead_below_blind (fun _ _ _ => rfl) hQ (by omega)

theorem within_keepCheck (hQ : Covers Q readNames) : (keepCheck n i).Within Q A (Dev.waits j) := by
  rw [keepCheck, within_ask]
  intro s
  rw [within_each]
  intro c hc
  obtain ⟨m, -, rfl⟩ := List.mem_map.1 hc
  simp only [within_cons, within_nil, and_true]
  exact ⟨within_headerRead (core_lt s m) hQ, within_modCore fun _ => rfl⟩

theorem within_recheck (hQ : Covers Q readNames) : (recheck k).Within Q A (Dev.waits j) := by
  rw [recheck, within_ask]
  intro s
  split
  · exact within_done
  · rw [within_when]
    intro _
    split
    · exact within_keepCheck hQ
    · exact within_done

/-! The judgement of a slot -/

/-- A slot with code 0 becomes READY, another EMPTY with `VFAIL`. -/
def slotVerdict (k i code : Nat) : Prog :=
  if code = 0 then seqs [setSlotSt k i 2, recheck k] else seqs [setSlotSt k i 0, setB (F.PLAY_STAT_VFAIL k)]

theorem run_judgeSlot (k i code : Nat) (s : State) : (judgeSlot k i code).run s =
    (slotVerdict k i code).run ((vstat k i code).run ((eccRead (s.slotAddr k i) 32).run s)) := by
  rw [judgeSlot, run_seqs_cons, run_seqs_cons, run_seqs_cons, run_seqs_nil, run_ask, slotVerdict]

abbrev verdictNames : List RegId := [.PLAY_STAT, .PLAY_SLOT, .PLAY_READY, .PLAY_FILLING]

/-- The registers that a judgement of a slot of core `k` can change: the core's own, and what is told of words in error. -/
def JudgedRegs (k : Nat) (r : RegKey) : Prop := (r.id ∈ RegId.PLAY_VSTAT :: verdictNames ∧ r.u = k) ∨ r.id ∈ readNames

theorem within_slotVerdict (hown : ∀ r : RegKey, r.id ∈ verdictNames → r.u = k → Q r) (hQ : Covers Q readNames) :
    (slotVerdict k i code).Within Q A (Dev.waits j) := by
  have hreg {r : RegKey} (hr : r.id ∈ verdictNames ∧ r.u = k) : Q r := hown r hr.1 hr.2
  unfold slotVerdict
  split <;> simp [within_recheck hQ, hreg]

theorem vstatFields_ok (k : Nat) : (F.PLAY_VSTAT_SLOT k).ok = true ∧ (F.PLAY_VSTAT_CODE k).ok = true :=
  (by decide +kernel : (F.PLAY_VSTAT_SLOT 0).ok = true ∧ (F.PLAY_VSTAT_CODE 0).ok = true)

theorem vstat_shows (hi : i < 32) (hc : code < 16) (s : State) : let t := (vstat k i code).run s
    t.fld (F.PLAY_VSTAT_SLOT k) = i ∧ t.fld (F.PLAY_VSTAT_CODE k) = code := by
  obtain ⟨hslot, hcode⟩ := vstatFields_ok k
  simp only [vstat, run_seqs_cons, run_seqs_nil, run_setF]
  rw [State.fld_setFld_apart _ _ _ _ hslot (by simp), State.fld_setFld _ _ _ hslot, State.fld_setFld _ _ _ hcode]
  exact ⟨Nat.mod_eq_of_lt hi, Nat.mod_eq_of_lt hc⟩

theorem slotVerdict_decides (k i code : Nat) (s : State) : let t := (slotVerdict k i code).run s
    t.slotSt k i = (if code = 0 then 2 else 0) ∧
      t.flg (F.PLAY_STAT_VFAIL k) = (s.flg (F.PLAY_STAT_VFAIL k) || decide (code ≠ 0)) := by
  obtain ⟨-, -, hok, -⟩ := playStat_ok k
  have hfail (st : Nat) : ((setSlotSt k i st).run s).fld (F.PLAY_STAT_VFAIL k) = s.fld (F.PLAY_STAT_VFAIL k) := by
    have hw : (setSlotSt k i st).Within (fun r => r.id ∈ [RegId.PLAY_SLOT, .PLAY_READY, .PLAY_FILLING]) (fun _ => False)
        fun _ => () := by simp
    exact (hw.agrees s).fld (by simp)
  dsimp only
  rw [slotVerdict]
  split
  · have hcheck : (recheck k).Within (fun r => r.id ∈ readNames) (fun _ => False) (Dev.waits k) := within_recheck (covers_self _)
    rw [run_seqs_cons, run_seqs_cons, run_seqs_nil, State.slotSt, State.flg, (hcheck.agrees _).fld (by simp),
      (hcheck.agrees _).fld (by simp), hfail, ← State.slotSt, setSlotSt_slotSt _ _ (by decide)]
    simp [State.flg, *]
  · rw [run_seqs_cons, run_seqs_cons, run_seqs_nil, run_setB, State.slotSt, State.flg, State.fld_setFld_reg _ _ _ _ (by simp),
      State.fld_setFld _ _ _ hok, ← State.slotSt, setSlotSt_slotSt _ _ (by decide)]
    simp [*]

/-- `t` is `s` once slot `i` of core `k` has been judged with the outcome `code`. -/
structure SlotJudged (s t : State) (k i code : Nat) : Prop where
  outcome : t.fld (F.PLAY_VSTAT_CODE k) = code
  slot : t.fld (F.PLAY_VSTAT_SLOT k) = i
  state : t.slotSt k i = if code = 0 then 2 else 0
  failed : t.flg (F.PLAY_STAT_VFAIL k) = (s.flg (F.PLAY_STAT_VFAIL k) || decide (code ≠ 0))
  agrees : s.Agrees t (JudgedRegs k) (fun _ => False) (Dev.waits k)

theorem judgeSlot_judges (hk : k < 128) (hi : i < 32) (hc : code < 16) (s : State) :
    SlotJudged s ((judgeSlot k i code).run s) k i code := by
  rw [run_judgeSlot]
  have hread : s.Agrees ((eccRead (s.slotAddr k i) 32).run s) (fun r => r.id ∈ readNames) (fun _ => False) (Dev.waits k) :=
    (within_headerRead hk (covers_self _)).agrees s
  generalize (eccRead (s.slotAddr k i) 32).run s = u at hread ⊢
  obtain ⟨hslot, hcode⟩ := vstat_shows (k := k) hi hc u
  have hshown : (vstat k i code).Within (fun r => r = R.PLAY_VSTAT k) (fun _ => False) (Dev.waits k) := by simp [vstat]
  have hshow := hshown.agrees u
  generalize (vstat k i code).run u = v at hslot hcode hshow ⊢
  obtain ⟨hstate, hfail⟩ := slotVerdict_decides k i code v
  have hjudged : (slotVerdict k i code).Within (fun r => (r.id ∈ verdictNames ∧ r.u = k) ∨ r.id ∈ readNames) (fun _ => False)
      (Dev.waits k) := within_slotVerdict (fun _ h hu => .inl ⟨h, hu⟩) fun _ h => .inr h
  have hjudge := hjudged.agrees v
  generalize (slotVerdict k i code).run v = t at hstate hfail hjudge ⊢
  refine ⟨(hjudge.fld (by simp)).trans hcode, (hjudge.fld (by simp)).trans hslot, hstate, ?_, ?_⟩
  · rw [hfail, State.flg, hshow.fld (by simp), hread.fld (by simp), State.flg]
  · refine (hread.mono (fun _ h => .inr h) fun _ h => h).trans ((hshow.mono (fun r h => ?_) fun _ h => h).trans
      (hjudge.mono (fun r h => ?_) fun _ h => h))
    · exact .inl (h ▸ ⟨by simp, rfl⟩)
    · exact h.imp_left fun h => ⟨List.mem_cons_of_mem _ h.1, h.2⟩

/-- The codes of Table 7.4 have four bits. -/
theorem validCode_lt (s : State) (k i segid : Nat) : s.validCode k i segid < 16 := by
  unfold State.validCode
  dsimp only
  split_ifs <;> decide

/-! The oldest validation of a core -/

variable {l : List Nat}

/-- What waits for validation in core `k` after the oldest request has been taken. -/
def State.validationTaken (s : State) (k : Nat) (l : List Nat) : State := (modCore k fun c => { c with validating := l }).run s

theorem validationTaken_waits (s : State) (k : Nat) (l : List Nat) : ((s.validationTaken k l).cst k).validating = l :=
  congrArg CoreSt.validating (modCore_cst k _ s)

theorem run_validation_refused (hv : (s.cst k).validating = i :: l) (h : s.slotSt k i ≠ 0 ∨ s.fld (F.PLAY_SLOT_CAP k i) = 0) :
    (progValidationComplete k).run s = (vstat k i 1).run (s.validationTaken k l) := by
  simp only [progValidationComplete, run_ask, hv, run_seqs_cons, run_seqs_nil]
  rw [if_pos (by simpa using h)]
  rfl

theorem run_validation_judged (hv : (s.cst k).validating = i :: l) (hst : s.slotSt k i = 0) (hcap : s.fld (F.PLAY_SLOT_CAP k i) ≠ 0) :
    (progValidationComplete k).run s = (judgeSlot k i (s.validCode k i 0)).run (s.validationTaken k l) := by
  simp only [progValidationComplete, run_ask, hv, run_seqs_cons, run_seqs_nil]
  rw [if_neg (by simp [hst, hcap])]
  rfl

end

/-- Settles O31: the slot table, validation requests and invalidations by what their registers do; a write of segment memory by what the
slots that it touches decide; a validation by the judgement of its slot. -/
theorem slotsAreDefinedFilledAndJudged : Obligations.SlotsAreDefinedFilledAndJudged := by
  unfold Obligations.SlotsAreDefinedFilledAndJudged
  refine ⟨?defined, ?rejected, ?written, ?discarded, ?asked, ?refused, ?judged, ?emptied, ?kept⟩
  case defined =>
    intro s p k i w had hst hfit hapart
    refine completes_answered rfl (inMap_playSlot k i) had (writeOwn_playSlot p k i w) fun t ht hok => ?_
    obtain ⟨hbase, hcap, hstate, hagrees⟩ := effSlot_defines hst hfit hapart
    exact ⟨(ht.fld id).trans hbase, (ht.fld id).trans hcap, (ht.fld id).trans (hstate.trans hst), hok,
      fun r hr _ => (ht.reg r id).trans (hagrees.reg r (ne_of_notOwn hr (by simp))),
      fun a => (ht.byte a id).trans (hagrees.byte a id)⟩
  case rejected =>
    intro s p k i w had h
    refine completes_answered rfl (inMap_playSlot k i) had (writeOwn_playSlot p k i w) fun t ht hok => ?_
    obtain ⟨hrej, -⟩ := playStat_ok k
    rw [run_effSlot_rejected h] at ht
    exact ⟨(ht.fld id).trans (State.fld_setFld _ _ _ hrej), (ht.reg _ id).trans (State.reg_setFld_other _ _ (by simp)), hok,
      fun r hr _ => (ht.reg r id).trans (State.reg_setFld_other _ _ (ne_of_notOwn hr (by simp))), fun a => ht.byte a id⟩
  case written =>
    intro s p k o x hwf hi hw hf hj hgood hfree
    refine completes_segmentWrite k o x hi hw hf hj hgood fun way t hway ht hok => ?_
    obtain ⟨hst, hact, hat⟩ := hway.slots (k := k) (by simp)
    obtain ⟨hbytes, hslots, hagrees⟩ := segWrite_written (k := k) (o := o.toNat) (bs := x.bytes) (run_wf way s hwf)
      (by simpa only [hst, hact, hat] using hfree)
    refine ⟨?_, List.all_eq_true.2 fun i hi => decide_eq_true ?_, hok, fun r hr => ?_, fun a ha => ?_⟩
    · exact Eq.trans (List.map_congr_left fun i _ => ht.byte _ id) hbytes
    · exact fun h2 => hslots i (hat _ _ ▸ hi) ((ht.fld id).symm.trans h2)
    · exact (ht.reg r id).trans ((hagrees.keepsRegs.mono (by decide) r hr).trans (hway.keepsRegs.mono (by decide) r hr))
    · exact (ht.byte a id).trans ((hagrees.byte a ha).trans (hway.byte a id))
  case discarded =>
    intro s p k o x hi hw hf hj hgood hbusy
    refine completes_segmentWrite k o x hi hw hf hj hgood fun way t hway ht hok => ?_
    obtain ⟨hst, hact, hat⟩ := hway.slots (k := k) (by simp)
    rw [run_segWrite_discarded (by simpa only [hst, hact, hat] using hbusy)] at ht
    obtain ⟨hstat, hcnt, hagrees⟩ := discardWrite_discards k (way.run s)
    refine ⟨(ht.fld id).trans hstat, (ht.fld id).trans (hcnt.trans (by rw [hway.fld (by simp)])), hok, fun r hr => ?_, fun a => ?_⟩
    · exact (ht.reg r id).trans ((hagrees.keepsRegs.mono (by decide) r hr).trans (hway.keepsRegs.mono (by decide) r hr))
    · exact (ht.byte a id).trans ((hagrees.byte a id).trans (hway.byte a id))
  case asked =>
    intro s p k i had
    refine completes_written rfl (inMap_playValid k) had ?_
    rw [writeOwn_playValid]
    have hasked : (((effValid k i).run s).cst k).validating = (s.cst k).validating ++ [i.val] :=
      congrArg CoreSt.validating (modCore_cst k _ s)
    exact ⟨hasked, answeredOk_toMaster _ _, rfl, fun _ => rfl⟩
  case refused =>
    intro s k i l ha hv h
    refine completes_awake rfl ha ?_
    rw [run_validation_refused hv h]
    obtain ⟨hslot, hcode⟩ := vstat_shows (k := k) i.isLt (show 1 < 16 by decide) (s.validationTaken k l)
    have hw : (vstat k i 1).Within (fun r => r = R.PLAY_VSTAT k) (fun _ => False) (Dev.waits k) := by simp [vstat]
    have hagrees := hw.agrees (s.validationTaken k l)
    generalize (vstat k i 1).run (s.validationTaken k l) = t at hslot hcode hagrees ⊢
    exact ⟨hagrees.cst.trans (validationTaken_waits s k l), hcode, hslot, hagrees.fld (by simp),
      fun r hr _ => hagrees.reg r (ne_of_notOwn hr (by simp)), hagrees.keepsBytes⟩
  case judged =>
    intro s k i l ha hv hst hcap
    refine completes_awake rfl ha ?_
    rw [run_validation_judged hv hst hcap]
    obtain ⟨hcode, hslot, hstate, hfail, hagrees⟩ :=
      judgeSlot_judges (k := k) (by omega) i.isLt (validCode_lt s k i 0) (s.validationTaken k l)
    generalize (judgeSlot k i (s.validCode k i 0)).run (s.validationTaken k l) = t at hcode hslot hstate hfail hagrees ⊢
    refine ⟨hagrees.cst.trans (validationTaken_waits s k l), hcode, hslot, hstate, hfail, fun r hown hnames => ?_, hagrees.keepsBytes⟩
    exact hagrees.reg r fun h => h.elim (fun h => hown ⟨by revert h; simp; tauto, h.2⟩) hnames
  case emptied =>
    intro s p k i had ha hst
    refine completes_answered rfl (inMap_playInval k) had (writeOwn_playInval p k i) fun t ht hok => ?_
    rw [run_effInval_ready ha hst] at ht
    have hw : (setSlotSt k i 0).Within (fun r => r.id ∈ [RegId.PLAY_SLOT, .PLAY_READY, .PLAY_FILLING] ∧ r.u = k) (fun _ => False)
        fun _ => () := by simp
    have hagrees := hw.agrees s
    exact ⟨(ht.fld id).trans (setSlotSt_slotSt k i (by decide) s), hok, fun r hr _ => (ht.reg r id).trans (hagrees.reg r hr),
      fun a => (ht.byte a id).trans (hagrees.byte a id)⟩
  case kept =>
    intro s p k i had h
    refine completes_answered rfl (inMap_playInval k) had (writeOwn_playInval p k i) fun t ht hok => ?_
    rw [run_effInval_refused h] at ht
    obtain ⟨-, hstat, -⟩ := playStat_ok k
    have hw : (coreEvent k).Within (fun r => r.id ∈ [RegId.IRQ_PEND, .IRQ_CNT]) (fun _ => False) fun _ => () :=
      within_coreEvent_blind (fun _ _ _ => rfl) (covers_self _)
    have hagrees := hw.agrees (s.setFld (F.PLAY_STAT_ACT_WR k) 1)
    refine ⟨(ht.fld id).trans ((hagrees.fld (by simp)).trans (State.fld_setFld _ _ _ hstat)),
      (ht.fld id).trans ((hagrees.fld (by simp)).trans (State.fld_setFld_reg _ _ _ _ (by simp))), hok, fun r hr => ?_,
      fun a => (ht.byte a id).trans (hagrees.byte a id)⟩
    exact (ht.reg r id).trans ((hagrees.keepsRegs.mono (by decide) r hr).trans
      (State.reg_setFld_other _ _ (by rintro rfl; simp at hr)))

end Sys2Proof.Machine
